-- ==== Sys2Proof/Word.lean ====
section
/-! DEFINITION. Word types of the Amiaro 880 and the one container the state uses. -/
namespace Sys2Proof

/-- A 64-bit scalar, control register, reference or address (R160, R193). -/
abbrev Word := BitVec 64
/-- A byte of any memory. -/
abbrev Byte := BitVec 8
/-- A 512-byte vector register (R160). -/
abbrev Vec := BitVec 4096
/-- A 1,024-bit lane mask (R160). -/
abbrev LaneMask := BitVec 1024
/-- The payload of a ring slot, 256 bytes (R36). -/
abbrev Payload := BitVec 2048
/-- A collection by number: pairs of a key and a value, keys rising. A key not listed reads as the default that the
reader names. -/
abbrev Map (α : Type) := List (Nat × α)

end Sys2Proof
end

