-- ==== Sys2Proof/Syntax.lean ====
section
/-! DEFINITION. The syntax: one constructor of Instr for every row of the opcode table. The rows with a word are MOVE, the
trigger moves of the units (R266 to R273) and the wide form LN (R274). The other rows are the steps of the device's other
agents: they have no encoding; their argument is plain data of the state (Arg). -/
namespace Sys2Proof

/-- The two scalar units (R156). -/
inductive SUnit where
  | s0 | s1
  deriving DecidableEq, Repr

/-- The two vector units (R156). -/
inductive VUnit where
  | v0 | v1
  deriving DecidableEq, Repr

/-- The fields of a move word but its destination (R266). -/
structure MoveF where
  guard : BitVec 4
  neg : Bool
  wait : Bool
  imm : Bool
  src : BitVec 12
  deriving DecidableEq, Repr

/-- A direction of a ring (R36). -/
inductive Dir where
  | east | west
  deriving DecidableEq, Repr

/-- The two rings (R112). -/
inductive RingId where
  | meridian | equator
  deriving DecidableEq, Repr

/-- The level of a handle: scratchpad or operand die (R196). -/
inductive Level where
  | spad | opd
  deriving DecidableEq, Repr

/-- The two register windows of the host (R100). -/
inductive Window where
  | management | launch
  deriving DecidableEq, Repr

/-- What a Binnacle detector reports (R96). -/
inductive Detector where
  | supplyClock | voltageGlitch | tamperMesh | clockGlitch
  deriving DecidableEq, Repr

/-- A physical bank of one core's storage (R197): core number of the package (die · 48 + core), level, bank. -/
structure BankId where
  core : Nat
  level : Level
  bank : Nat
  deriving DecidableEq, Repr

/-- Where an ECC error lies (R15, R430). -/
inductive EccPlace where
  | bank (b : BankId) (line : Nat)
  | vreg (core reg : Nat)
  | reg (core sel : Nat)                -- another register file, by selector
  | tile (core tile row : Nat)
  | cache (die bank dpa : Nat)
  | dram (dpa : Nat)
  deriving DecidableEq, Repr

/-- A waypoint of a launch: launch id and waypoint id (R134). -/
structure WpKey where
  launch : Nat
  wpid : Nat
  deriving DecidableEq, Repr

/-- A step group: the waypoints of one level of a launch spawned by one parent (R137). -/
structure GroupKey where
  launch : Nat
  level : Nat
  parent : Nat
  deriving DecidableEq, Repr

/-- R85. The algorithms of a negotiation: those of the table, and any other by a number. -/
inductive Algorithm where
  | rsaPss4096Sha512 | sha512 | ffdhe4096 | aes256Gcm | spdmHkdfSha512 | dmtfSha512
  | other (id : Nat)
  deriving DecidableEq, Repr

/-- R85. What a party offers in each class of a negotiation. -/
structure Offer where
  signature : List Algorithm
  hash : List Algorithm
  keyExchange : List Algorithm
  aead : List Algorithm
  keySchedule : List Algorithm
  measurement : List Algorithm
  deriving DecidableEq, Repr

/-- The SPDM messages that Binnacle speaks (R84), each with what this model reads of its body. -/
inductive SpdmMsg where
  | getVersion (offers13 : Bool)
  | getCapabilities (mutualAuth : Bool)
  | negotiateAlgorithms (offer : Offer)
  | getDigests
  | getCertificate (root : BitVec 512)
  | getMeasurements (summary : BitVec 512)
  | keyExchange (mutualAuth : Bool)
  | finish (secret : BitVec 512)
  | heartbeat
  | endSession
  deriving DecidableEq, Repr

/-- A slot as it stands on an Equator lane: header bits [223:0], payload, and the 16-byte seal (R39, R70, R76). -/
structure SealedSlot where
  header : BitVec 224
  payload : Payload
  tag : BitVec 128
  deriving DecidableEq, Repr

/-- The argument of a step that is no instruction word: what the outside world hands in, and which core, station, packet
or waypoint it concerns. Each such step's docstring in Machine/ names the fields it reads. The agenda of the state holds one
with each entry (Machine/State.lean). -/
structure Arg where
  core : Nat := 0                       -- core of the package, die · 48 + core
  die : Nat := 0                        -- die number as R122 numbers dies
  station : Nat := 0                    -- Meridian station, 16 for the Equator station
  ring : RingId := .meridian
  dir : Dir := .east
  lane : Nat := 0
  pos : Nat := 0
  index : Nat := 0                      -- place in a list of the state, queue, key, command or register
  seq : BitVec 32 := 0#32
  wp : WpKey := ⟨0, 0⟩
  group : GroupKey := ⟨0, 0, 0⟩
  level : Level := .spad
  ok : Bool := true
  failed : BitVec 8 := 0#8
  detector : Detector := .supplyClock
  window : Window := .management
  off : Nat := 0
  value : Word := 0#64
  wide : BitVec 1024 := 0#1024
  nums : List Nat := []
  nums2 : List Nat := []
  banks : List BankId := []
  regs : List (Nat × Nat) := []         -- failing vector banks and tiles: core, physical bank, or 16 + tile
  place : EccPlace := .dram 0
  msg : SpdmMsg := .getDigests
  sealed : SealedSlot := ⟨0#224, 0#2048, 0#128⟩
  leader : BitVec 6 := 0#6
  epoch : BitVec 32 := 0#32
  members : BitVec 64 := 0#64
  serials : List Nat := []              -- certificate serial numbers of the packages of a ring, eastward from this one (R69)
  deriving DecidableEq, Repr

/-- The steps of the part: one constructor for every row of the opcode table. The rows with a word stand first; the rows
after LN are steps of the other agents, with their argument in the state (`Arg`). -/
inductive Instr where
  /-- R266. A raw move writes a source into a register, control register or forwarding port. -/
  | move (d : BitVec 12) (m : MoveF)
  /-- R343. The loop-nest instruction runs one element-wise or reduction function over up to five nested extents of scratchpad data. -/
  | ln (ba bb bd : BitVec 6) (body : BitVec 224)
  /-- R291. Scalar add. -/
  | sAdd (u : SUnit) (m : MoveF)
  /-- R291. Scalar subtract. -/
  | sSub (u : SUnit) (m : MoveF)
  /-- R291. Scalar multiply, low part. -/
  | sMul (u : SUnit) (m : MoveF)
  /-- R291. Signed multiply, high part. -/
  | sMulh (u : SUnit) (m : MoveF)
  /-- R291. Unsigned multiply, high part. -/
  | sMulhu (u : SUnit) (m : MoveF)
  /-- R294. Signed divide toward zero, setting IDZ on division by zero. -/
  | sDiv (u : SUnit) (m : MoveF)
  /-- R294. Unsigned divide. -/
  | sDivu (u : SUnit) (m : MoveF)
  /-- R294. Signed remainder. -/
  | sRem (u : SUnit) (m : MoveF)
  /-- R294. Unsigned remainder. -/
  | sRemu (u : SUnit) (m : MoveF)
  /-- R291. Bitwise and. -/
  | sAnd (u : SUnit) (m : MoveF)
  /-- R291. Bitwise or. -/
  | sOr (u : SUnit) (m : MoveF)
  /-- R291. Bitwise exclusive or. -/
  | sXor (u : SUnit) (m : MoveF)
  /-- R291. And with complement. -/
  | sAndn (u : SUnit) (m : MoveF)
  /-- R291. Or with complement. -/
  | sOrn (u : SUnit) (m : MoveF)
  /-- R291. Shift left. -/
  | sShl (u : SUnit) (m : MoveF)
  /-- R291. Logical shift right. -/
  | sShr (u : SUnit) (m : MoveF)
  /-- R291. Arithmetic shift right. -/
  | sSra (u : SUnit) (m : MoveF)
  /-- R291. Rotate left. -/
  | sRol (u : SUnit) (m : MoveF)
  /-- R291. Rotate right. -/
  | sRor (u : SUnit) (m : MoveF)
  /-- R291. Compare equal. -/
  | sCmpeq (u : SUnit) (m : MoveF)
  /-- R291. Compare not equal. -/
  | sCmpne (u : SUnit) (m : MoveF)
  /-- R291. Signed less-than compare. -/
  | sCmplt (u : SUnit) (m : MoveF)
  /-- R291. Unsigned less-than compare. -/
  | sCmpltu (u : SUnit) (m : MoveF)
  /-- R291. Signed less-or-equal compare. -/
  | sCmple (u : SUnit) (m : MoveF)
  /-- R291. Unsigned less-or-equal compare. -/
  | sCmpleu (u : SUnit) (m : MoveF)
  /-- R291. Select by bit 0 of the condition. -/
  | sSel (u : SUnit) (m : MoveF)
  /-- R291. Signed minimum. -/
  | sMin (u : SUnit) (m : MoveF)
  /-- R291. Signed maximum. -/
  | sMax (u : SUnit) (m : MoveF)
  /-- R291. Unsigned minimum. -/
  | sMinu (u : SUnit) (m : MoveF)
  /-- R291. Unsigned maximum. -/
  | sMaxu (u : SUnit) (m : MoveF)
  /-- R291. Absolute value. -/
  | sAbs (u : SUnit) (m : MoveF)
  /-- R293. Sign-extend the low n bits. -/
  | sSext (u : SUnit) (m : MoveF)
  /-- R293. Zero-extend the low n bits. -/
  | sZext (u : SUnit) (m : MoveF)
  /-- R293. Extract a bit field. -/
  | sExt (u : SUnit) (m : MoveF)
  /-- R293. Insert a bit field. -/
  | sIns (u : SUnit) (m : MoveF)
  /-- R292. Population count. -/
  | sPopc (u : SUnit) (m : MoveF)
  /-- R292. Count leading zeros. -/
  | sClz (u : SUnit) (m : MoveF)
  /-- R292. Count trailing zeros. -/
  | sCtz (u : SUnit) (m : MoveF)
  /-- R293. Find the n-th set bit. -/
  | sFns (u : SUnit) (m : MoveF)
  /-- R292. Bit reverse. -/
  | sBrev (u : SUnit) (m : MoveF)
  /-- R292. Byte swap. -/
  | sBswap (u : SUnit) (m : MoveF)
  /-- R296. Scalar floating add in the type register's format. -/
  | sFadd (u : SUnit) (m : MoveF)
  /-- R296. Scalar floating subtract. -/
  | sFsub (u : SUnit) (m : MoveF)
  /-- R296. Scalar floating multiply. -/
  | sFmul (u : SUnit) (m : MoveF)
  /-- R296. Scalar fused multiply-add. -/
  | sFma (u : SUnit) (m : MoveF)
  /-- R296. Scalar floating divide. -/
  | sFdiv (u : SUnit) (m : MoveF)
  /-- R296. Scalar floating square root. -/
  | sFsqrt (u : SUnit) (m : MoveF)
  /-- R296. Floating minimumNumber. -/
  | sFmin (u : SUnit) (m : MoveF)
  /-- R296. Floating maximumNumber. -/
  | sFmax (u : SUnit) (m : MoveF)
  /-- R297. Floating compare under the condition in o2. -/
  | sFcmp (u : SUnit) (m : MoveF)
  /-- R298. Scalar conversion between floating and integer formats. -/
  | sFcvt (u : SUnit) (m : MoveF)
  /-- R299. Return a reference's space tag, or 0xF if it is malformed. -/
  | sSptest (u : SUnit) (m : MoveF)
  /-- R300. Convert a reference between spaces, or give the null reference. -/
  | sSpcast (u : SUnit) (m : MoveF)
  /-- R301. Build a reference from its fields. -/
  | sRefmk (u : SUnit) (m : MoveF)
  /-- R271. 32-bit add, sign-extended. -/
  | sAdd32 (u : SUnit) (m : MoveF)
  /-- R271. 32-bit subtract. -/
  | sSub32 (u : SUnit) (m : MoveF)
  /-- R271. 32-bit multiply. -/
  | sMul32 (u : SUnit) (m : MoveF)
  /-- R271. 32-bit signed multiply, high part. -/
  | sMulh32 (u : SUnit) (m : MoveF)
  /-- R271. 32-bit unsigned multiply, high part. -/
  | sMulhu32 (u : SUnit) (m : MoveF)
  /-- R294. 32-bit signed divide. -/
  | sDiv32 (u : SUnit) (m : MoveF)
  /-- R294. 32-bit unsigned divide. -/
  | sDivu32 (u : SUnit) (m : MoveF)
  /-- R294. 32-bit signed remainder. -/
  | sRem32 (u : SUnit) (m : MoveF)
  /-- R294. 32-bit unsigned remainder. -/
  | sRemu32 (u : SUnit) (m : MoveF)
  /-- R271. 32-bit and. -/
  | sAnd32 (u : SUnit) (m : MoveF)
  /-- R271. 32-bit or. -/
  | sOr32 (u : SUnit) (m : MoveF)
  /-- R271. 32-bit exclusive or. -/
  | sXor32 (u : SUnit) (m : MoveF)
  /-- R271. 32-bit and with complement. -/
  | sAndn32 (u : SUnit) (m : MoveF)
  /-- R271. 32-bit or with complement. -/
  | sOrn32 (u : SUnit) (m : MoveF)
  /-- R271. 32-bit shift left. -/
  | sShl32 (u : SUnit) (m : MoveF)
  /-- R271. 32-bit logical shift right. -/
  | sShr32 (u : SUnit) (m : MoveF)
  /-- R271. 32-bit arithmetic shift right. -/
  | sSra32 (u : SUnit) (m : MoveF)
  /-- R271. 32-bit rotate left. -/
  | sRol32 (u : SUnit) (m : MoveF)
  /-- R271. 32-bit rotate right. -/
  | sRor32 (u : SUnit) (m : MoveF)
  /-- R271. 32-bit compare equal. -/
  | sCmpeq32 (u : SUnit) (m : MoveF)
  /-- R271. 32-bit compare not equal. -/
  | sCmpne32 (u : SUnit) (m : MoveF)
  /-- R271. 32-bit signed less-than. -/
  | sCmplt32 (u : SUnit) (m : MoveF)
  /-- R271. 32-bit unsigned less-than. -/
  | sCmpltu32 (u : SUnit) (m : MoveF)
  /-- R271. 32-bit signed less-or-equal. -/
  | sCmple32 (u : SUnit) (m : MoveF)
  /-- R271. 32-bit unsigned less-or-equal. -/
  | sCmpleu32 (u : SUnit) (m : MoveF)
  /-- R271. 32-bit select. -/
  | sSel32 (u : SUnit) (m : MoveF)
  /-- R271. 32-bit signed minimum. -/
  | sMin32 (u : SUnit) (m : MoveF)
  /-- R271. 32-bit signed maximum. -/
  | sMax32 (u : SUnit) (m : MoveF)
  /-- R271. 32-bit unsigned minimum. -/
  | sMinu32 (u : SUnit) (m : MoveF)
  /-- R271. 32-bit unsigned maximum. -/
  | sMaxu32 (u : SUnit) (m : MoveF)
  /-- R271. 32-bit absolute value. -/
  | sAbs32 (u : SUnit) (m : MoveF)
  /-- R293. 32-bit sign extension of the low n bits. -/
  | sSext32 (u : SUnit) (m : MoveF)
  /-- R293. 32-bit zero extension of the low n bits. -/
  | sZext32 (u : SUnit) (m : MoveF)
  /-- R293. 32-bit field extract. -/
  | sExt32 (u : SUnit) (m : MoveF)
  /-- R293. 32-bit field insert. -/
  | sIns32 (u : SUnit) (m : MoveF)
  /-- R292. 32-bit population count. -/
  | sPopc32 (u : SUnit) (m : MoveF)
  /-- R292. 32-bit count leading zeros. -/
  | sClz32 (u : SUnit) (m : MoveF)
  /-- R292. 32-bit count trailing zeros. -/
  | sCtz32 (u : SUnit) (m : MoveF)
  /-- R293. 32-bit find n-th set bit. -/
  | sFns32 (u : SUnit) (m : MoveF)
  /-- R292. 32-bit bit reverse. -/
  | sBrev32 (u : SUnit) (m : MoveF)
  /-- R292. 32-bit byte swap. -/
  | sBswap32 (u : SUnit) (m : MoveF)
  /-- R327. Lane-wise add, optionally saturating. -/
  | vAdd (u : VUnit) (m : MoveF)
  /-- R327. Lane-wise subtract. -/
  | vSub (u : VUnit) (m : MoveF)
  /-- R327. Lane-wise multiply. -/
  | vMul (u : VUnit) (m : MoveF)
  /-- R327. Lane-wise fused multiply-add. -/
  | vFma (u : VUnit) (m : MoveF)
  /-- R327. Lane-wise fused multiply-subtract. -/
  | vFms (u : VUnit) (m : MoveF)
  /-- R327. Lane-wise minimum. -/
  | vMin (u : VUnit) (m : MoveF)
  /-- R327. Lane-wise maximum. -/
  | vMax (u : VUnit) (m : MoveF)
  /-- R327. Lane-wise absolute value. -/
  | vAbs (u : VUnit) (m : MoveF)
  /-- R327. Lane-wise negation. -/
  | vNeg (u : VUnit) (m : MoveF)
  /-- R327. Lane-wise and. -/
  | vAnd (u : VUnit) (m : MoveF)
  /-- R327. Lane-wise or. -/
  | vOr (u : VUnit) (m : MoveF)
  /-- R327. Lane-wise exclusive or. -/
  | vXor (u : VUnit) (m : MoveF)
  /-- R327. Lane-wise and with complement. -/
  | vAndn (u : VUnit) (m : MoveF)
  /-- R327. Lane-wise complement. -/
  | vNot (u : VUnit) (m : MoveF)
  /-- R327. Lane-wise shift left. -/
  | vShl (u : VUnit) (m : MoveF)
  /-- R327. Lane-wise logical shift right. -/
  | vShr (u : VUnit) (m : MoveF)
  /-- R327. Lane-wise arithmetic shift right. -/
  | vSra (u : VUnit) (m : MoveF)
  /-- R328. Lane-wise compare into mask DM. -/
  | vCmp (u : VUnit) (m : MoveF)
  /-- R329. Lane-wise select by mask. -/
  | vSel (u : VUnit) (m : MoveF)
  /-- R329. Copy every lane to DV. -/
  | vMov (u : VUnit) (m : MoveF)
  /-- R331. Lane-wise population count. -/
  | vPopc (u : VUnit) (m : MoveF)
  /-- R331. Lane-wise count leading zeros. -/
  | vClz (u : VUnit) (m : MoveF)
  /-- R331. Lane-wise find n-th set bit. -/
  | vFns (u : VUnit) (m : MoveF)
  /-- R331. Lane-wise bit reverse. -/
  | vBrev (u : VUnit) (m : MoveF)
  /-- R330. Mask logic, count or first-set operation. -/
  | vMskp (u : VUnit) (m : MoveF)
  /-- R333. Lane-wise format conversion placed by part. -/
  | vCvt (u : VUnit) (m : MoveF)
  /-- R334. Group quantisation to a narrow format with SC8 scales. -/
  | vQnt (u : VUnit) (m : MoveF)
  /-- R335. Group dequantisation to a floating format. -/
  | vDeq (u : VUnit) (m : MoveF)
  /-- R336. FXW accumulate, set, subtract or output on a register group. -/
  | vFxa (u : VUnit) (m : MoveF)
  /-- R332. Broadcast a scalar or lane. -/
  | vBcast (u : VUnit) (m : MoveF)
  /-- R332. Permute lanes by index. -/
  | vPerm (u : VUnit) (m : MoveF)
  /-- R332. Rotate lanes. -/
  | vRot (u : VUnit) (m : MoveF)
  /-- R332. Write S + i into lane i. -/
  | vIota (u : VUnit) (m : MoveF)
  /-- R338. Tree reduction of lanes into b.v. -/
  | vRed (u : VUnit) (m : MoveF)
  /-- R338. Tree inclusive scan of lanes. -/
  | vScan (u : VUnit) (m : MoveF)
  /-- R339. Linear-recurrence scan with a scalar carry-in. -/
  | vScanl (u : VUnit) (m : MoveF)
  /-- R340. Linear-recurrence scan with carry from a forward register and carry out to the successor. -/
  | vScanf (u : VUnit) (m : MoveF)
  /-- R341. Lane-wise e^x. -/
  | xExp (m : MoveF)
  /-- R341. Lane-wise 2^x. -/
  | xExp2 (m : MoveF)
  /-- R341. Lane-wise natural logarithm. -/
  | xLog (m : MoveF)
  /-- R341. Lane-wise base-2 logarithm. -/
  | xLog2 (m : MoveF)
  /-- R341. Lane-wise reciprocal. -/
  | xRcp (m : MoveF)
  /-- R341. Lane-wise reciprocal square root. -/
  | xRsq (m : MoveF)
  /-- R341. Lane-wise square root. -/
  | xSqrt (m : MoveF)
  /-- R341. Lane-wise sigmoid. -/
  | xSig (m : MoveF)
  /-- R341. Lane-wise hyperbolic tangent. -/
  | xTanh (m : MoveF)
  /-- R341. Lane-wise SiLU. -/
  | xSilu (m : MoveF)
  /-- R341. Lane-wise GELU. -/
  | xGelu (m : MoveF)
  /-- R341. Lane-wise sine. -/
  | xSin (m : MoveF)
  /-- R341. Lane-wise cosine. -/
  | xCos (m : MoveF)
  /-- R390. Load 512 bytes into DV. -/
  | ldV (m : MoveF)
  /-- R390. Load a scalar into b.ld. -/
  | ldS (m : MoveF)
  /-- R390. Load an element and broadcast it to every lane of DV. -/
  | ldB (m : MoveF)
  /-- R391. Indexed gather load into DV. -/
  | ldI (m : MoveF)
  /-- R392. Read the states of 32 lines into b.ld. -/
  | ldFe (m : MoveF)
  /-- R394. Store 512 bytes. -/
  | stV (m : MoveF)
  /-- R394. Store the low bytes of a scalar. -/
  | stS (m : MoveF)
  /-- R394. Indexed scatter store. -/
  | stI (m : MoveF)
  /-- R394. Masked store. -/
  | stM (m : MoveF)
  /-- R395. Mark n lines EMPTY. -/
  | stSete (m : MoveF)
  /-- R395. Zero n lines and mark them FULL. -/
  | stZero (m : MoveF)
  /-- R350. Refresh MX's copy of one tensor identifier. -/
  | mxTid (m : MoveF)
  /-- R360. Set the mode of masked tiles and clear them. -/
  | mxMode (m : MoveF)
  /-- R360. Clear masked tiles, keeping their modes. -/
  | mxZero (m : MoveF)
  /-- R361. Set the row exponents of a W tile. -/
  | mxSete (m : MoveF)
  /-- R356. Tile multiply-accumulate on the multiplier array. -/
  | mxMma (m : MoveF)
  /-- R356. Ternary tile multiply-accumulate on the ternary plane. -/
  | mxMmat (m : MoveF)
  /-- R362. Normalise rows of a W tile. -/
  | mxNrm (m : MoveF)
  /-- R363. Read and convert tile rows into DV. -/
  | mxRd (m : MoveF)
  /-- R364. Write tile rows from a vector. -/
  | mxWr (m : MoveF)
  /-- R366. Write 512 bytes to the core's operand die. -/
  | mxBld (m : MoveF)
  /-- R359. Run a sequence of tile-operation steps over up to four tiles. -/
  | mxSeq (m : MoveF)
  /-- R365. Drain the MX path. -/
  | mxWait (m : MoveF)
  /-- R367. Run a known-answer Sounding and compare its checksum. -/
  | mxSound (m : MoveF)
  /-- R371. Copy into the core's own scratchpad or operand die. -/
  | cpGet (m : MoveF)
  /-- R371. Copy to a global, cluster, local or step destination. -/
  | cpPut (m : MoveF)
  /-- R373. Indexed gather copy. -/
  | cpGetg (m : MoveF)
  /-- R373. Indexed scatter copy. -/
  | cpPutg (m : MoveF)
  /-- R374. Destination accumulation of FXW words. -/
  | cpAcc (m : MoveF)
  /-- R380. Copy with a follow-on tile operation. -/
  | cpGetm (m : MoveF)
  /-- R375. Global atomic read-modify-write. -/
  | cpAtom (m : MoveF)
  /-- R378. Chunk fetch from a chunk counter descriptor. -/
  | cpCfa (m : MoveF)
  /-- R379. Wait for a completion counter to reach a target. -/
  | cpWaitc (m : MoveF)
  /-- R379. Drain the CP path. -/
  | cpDrain (m : MoveF)
  /-- R372. Fault-free prefetch copy. -/
  | cpPref (m : MoveF)
  /-- R379. Read or set a completion counter. -/
  | cpStat (m : MoveF)
  /-- R377. Recover a lost atomic's outcome. -/
  | cpRecov (m : MoveF)
  /-- R383. Migrate a page to a new home. -/
  | cpMig (m : MoveF)
  /-- R384. Scatter-accumulate one scalar update. -/
  | saOp (m : MoveF)
  /-- R385. Scatter-accumulate a vector of index and value pairs. -/
  | saPush (m : MoveF)
  /-- R385. Drain the SA path. -/
  | saFlush (m : MoveF)
  /-- R306. Branch by word offset. -/
  | brJmp (m : MoveF)
  /-- R306. Branch to an address. -/
  | brJmpi (m : MoveF)
  /-- R307. Call by word offset, writing the return address. -/
  | brCall (m : MoveF)
  /-- R307. Call an address. -/
  | brCalli (m : MoveF)
  /-- R306. Return to an address. -/
  | brRet (m : MoveF)
  /-- R308. Counted branch on k.lc. -/
  | brLoop (m : MoveF)
  /-- R309. Rotating loop branch. -/
  | brLoopr (m : MoveF)
  /-- R310. Clear the loop counters. -/
  | brLeave (m : MoveF)
  /-- R313. Suspend until a wake word is nonzero. -/
  | brSusp (m : MoveF)
  /-- R312. Yield the core and make the waypoint READY. -/
  | brYield (m : MoveF)
  /-- R316. Spawn a range of child waypoints at the next level. -/
  | brSpawn (m : MoveF)
  /-- R313. Suspend until a join counter is zero. -/
  | brJoinw (m : MoveF)
  /-- R314. End the waypoint DONE and decrement its join counter. -/
  | brHalt (m : MoveF)
  /-- R317. Raise TRAP precisely. -/
  | brTrap (m : MoveF)
  /-- R318. Request system service LOG, SIGHT or ABORT. -/
  | brSys (m : MoveF)
  /-- R319. Return from handler mode by the resume or rollback form. -/
  | brRfe (m : MoveF)
  /-- R320. Hold the bundle until a Chronometer time. -/
  | brWaitt (m : MoveF)
  /-- R321. Set a predicate if present capacities cover a need. -/
  | brKchk (m : MoveF)
  /-- R397. Allocate a handle. -/
  | rgHalloc (m : MoveF)
  /-- R398. Release a handle. -/
  | rgHfree (m : MoveF)
  /-- R399. Read a handle-table entry. -/
  | rgHinfo (m : MoveF)
  /-- R400. Read a capacity quantity. -/
  | rgCap (m : MoveF)
  /-- R402. Wait for a station flag and return its status. -/
  | rgWaitf (m : MoveF)
  /-- R402. Set a station flag after earlier LS and CR stores. -/
  | rgPost (m : MoveF)
  /-- R402. Clear a station flag. -/
  | rgClr (m : MoveF)
  /-- R403. Write an Almanac entry for an owned slot. -/
  | rgAlm (m : MoveF)
  /-- R404. Write a stream-table row's EXP and CVT. -/
  | rgAlmStrm (m : MoveF)
  /-- R405. Drain, meet the step barrier and swap step-region planes. -/
  | rgStep (m : MoveF)
  /-- R405. Meet the step group's barrier without swapping. -/
  | rgBar (m : MoveF)
  /-- R408. Order accesses of one set of paths after another. -/
  | rgXfence (m : MoveF)
  /-- R408. Drain the CR path. -/
  | rgDrain (m : MoveF)
  /-- R411. Start a collective call of a loaded plan. -/
  | rgColl (m : MoveF)
  /-- R410. Load and check a collective plan into a slot. -/
  | rgCollLoad (m : MoveF)
  /-- R415. Restart a failed collective call from the least progress. -/
  | rgCollResume (m : MoveF)
  /-- R410. Empty a plan slot. -/
  | rgCollDrop (m : MoveF)
  /-- R416. Wait for a collective call to end and return its status. -/
  | rgCwait (m : MoveF)
  /-- R17. The module's power-on reset ends: the Chronometer source and every die copy start at zero. -/
  | powerOnReset
  /-- R20. Fundamental reset is deasserted: the I/O die trains the host link and enters Harbour, then starts the automatic advance unless
  Claolo configuration holds it. -/
  | fundamentalResetDeassert
  /-- R21. An advance stage ends: on success the next stage starts or Underway is reached, and on failure the device returns to Harbour
  with the stage's reason. -/
  | advanceStageComplete
  /-- R34. The supply voltage leaves or re-enters the 40 V to 60 V range, starting or cancelling the 1 ms supply timer. -/
  | supplyRangeChange
  /-- R34. The supply has been out of range for more than 1 ms: the device returns to Harbour with reason SUPPLY. -/
  | supplyTimeout
  /-- R35. The 100 µs sensor report arrives: the management processor throttles or raises die clocks against temperature and the power
  cap, or returns to Harbour with THERMAL at 115 °C. -/
  | temperatureReport
  /-- R96. A Binnacle detector fires (tamper mesh, clock glitch, voltage glitch, supply or clock excursion) and raises the alarm level,
  zeroising at level 3. -/
  | alarmDetector
  /-- R9. Host software writes a management- or launch-window register that has no behaviour of its own; reserved fields are ignored. -/
  | registerWrite
  /-- R25. DIE_CMD command 0x1 starts draining compute die Cn: CDRAIN is set, placement stops, running cores are pre-empted and held
  launches are held. -/
  | drainC
  /-- R25. The drain's waits for halts and commands end: the station enters pass-through, CSVC and CDRAIN bits clear and STATUS reads DONE. -/
  | drainCComplete
  /-- R28. DIE_CMD command 0x2 resets an out-of-service compute die, reloads microcode and starts its self-test. -/
  | resetC
  /-- R28. The compute die's self-test ends: failing banks are recorded in the Chart and STATUS reads DONE or FAILED. -/
  | resetCComplete
  /-- R29. DIE_CMD command 0x3 starts returning a reset compute die by waiting for its Chronometer copy to lock. -/
  | returnC
  /-- R29. The die's copy locks: the station leaves pass-through cleared, CSVC is set and held launches resume with broken streams' flags
  set POISONED. -/
  | returnCComplete
  /-- R30. DIE_CMD command 0x4 checks that memory die Mn holds no homes and is not M7, then waits for its accepted requests to complete. -/
  | retireM
  /-- R30. The memory die's accepted requests have completed: its station enters pass-through, MSVC bit n clears and STATUS reads DONE. -/
  | retireMComplete
  /-- R30. DIE_CMD command 0x5 starts training a retired memory stack and clearing its cache. -/
  | returnM
  /-- R30. The memory stack has trained: the station leaves pass-through and MSVC bit n is set. -/
  | returnMComplete
  /-- R31. DIE_CMD command 0x6 in Harbour writes back a memory die's cache, resets it, reloads microcode and starts training and self-test. -/
  | resetM
  /-- R31. The memory die's training and self-test end: failing cache banks are charted, the cache is cleared and STATUS reads DONE or
  FAILED. -/
  | resetMComplete
  /-- R33. A write of FIRE to SGT_CTL makes a management Sighting trigger at CHRON_NOW + 128. -/
  | sgtFire
  /-- R33. A write that sets CMP_EN makes a compare Sighting trigger at SGT_TIME, or at CHRON_NOW + 128 if that is later. -/
  | sgtCompareEnable
  /-- R33. A write of ARMED = 1 re-arms Sighting, clearing VALID and MISSED. -/
  | sgtArm
  /-- R33. A write of one to SGT_STAT.VALID clears it. -/
  | sgtValidClear
  /-- R33. Each block's Chronometer copy reaches the pending instant T: snapshots latch, ARMED clears and VALID, CAUSE and SGT_LATCH are
  written. -/
  | sightingLatch
  /-- R207. TLB_INV_CTL GO with SCOPE 0 invalidates one page of an ASID in every copy engine. -/
  | tlbInvPage
  /-- R207. TLB_INV_CTL GO with SCOPE 1 invalidates all translations of an ASID. -/
  | tlbInvAsid
  /-- R207. TLB_INV_CTL GO with SCOPE 2 invalidates every ASID and the region-table caches. -/
  | tlbInvAll
  /-- R230. TLB_INV_CTL GO with SCOPE 3 releases the migration forwarding record of an old frame. -/
  | tlbReleaseForwarding
  /-- R207. Every engine has dropped the entries concerned and dependent walks and requests have ended, so BUSY clears. -/
  | tlbInvComplete
  /-- R96. A write of CLR2 to BN_ALARM at level 2 returns the alarm level to 0. -/
  | alarmClr2
  /-- R107. A write of EN = 1 to LQ_CTL enables a launch queue if its size and alignment are valid, clears OVERRUN and reads the producer
  index line. -/
  | lqEnable
  /-- R121. Mailbox command 0x01 in Harbour starts the advance to Underway. -/
  | advance
  /-- R23. Mailbox command 0x02 returns the device from Underway to Harbour with reason HOST_REQUEST, aborting live launches. -/
  | returnHarbour
  /-- R121. Mailbox command 0x03 writes image bytes at an offset of the firmware staging area. -/
  | fwStage
  /-- R121. Mailbox command 0x04 has Binnacle verify the staged Claolo image for later advances and RESET_C. -/
  | fwCommit
  /-- R35. Mailbox command 0x05 sets the module power cap between 2,000 W and 3,600 W. -/
  | powerCap
  /-- R154. Mailbox command 0x06 sets the self-test rotation interval in seconds. -/
  | selftestInterval
  /-- R122. Mailbox command 0x07 returns snapshot words of one block's latched Sighting. -/
  | sightRead
  /-- R123. Mailbox command 0x08 returns a header and up to 63 error-log entries. -/
  | errlogRead
  /-- R121. Mailbox command 0x09 clears the error log. -/
  | errlogClear
  /-- R118. Mailbox command 0x0A cancels the live launch of a queue record, ending NOT_LIVE if the record holds none. -/
  | launchCancel
  /-- R73. Mailbox command 0x0B programs the Equator ownership table into the slot allocator. -/
  | eqOwnership
  /-- R86. Mailbox command 0x0C sets Binnacle's accepted root digest and measurement digests. -/
  | admitPolicy
  /-- R87. Mailbox command 0x0D starts admission of this package to the Equator trust domain. -/
  | domainJoin
  /-- R91. Mailbox command 0x0E makes this member leave the domain through a re-key. -/
  | domainLeave
  /-- R91. Mailbox command 0x0F starts a re-key that expels a named member. -/
  | domainExpel
  /-- R120. A mailbox command that took time finishes: STATUS and OLEN are set and MSI-X vector 64 is sent. -/
  | mailboxCommandEnd
  /-- R20. A CXL.io configuration request from the host is answered. -/
  | configRequest
  /-- R101. A host CXL.mem access to device memory performs at its home on its 64-byte half-line. -/
  | hostMemAccess
  /-- R101. The host's BIRsp answers a back-invalidation snoop, releasing the home's waiting device access or eviction. -/
  | birsp
  /-- R102. An IDE_KM key programming or refresh arrives and is accepted only while the alarm level is below 2. -/
  | ideKmKeyProg
  /-- R102. An SPDM message from the host arrives through the DOE mailbox and is served by Binnacle. -/
  | hostSpdmRequest
  /-- R105. The CXL.cache link recovers and the launch unit re-reads every enabled queue's producer index line. -/
  | cxlLinkRecover
  /-- R105. An invalidation of, or home notification for, a producer index line makes the launch unit read that line again. -/
  | pidxNotify
  /-- R106. A producer index read returns: new records become pending, or the queue is stopped with OVERRUN. -/
  | pidxReadDone
  /-- R108. The launch unit accepts the next pending record: it reads, validates, translates and pins it, assigns a launch id, advances
  CIDX and requests its streams. -/
  | launchRecordAccept
  /-- R42. The slot allocator grants a waiting stream request in whole, and after a launch's last grant creates its root waypoint. -/
  | streamGrant
  /-- R114. A launch's waypoints have ended and its commands and join decrements have finished: ring work is disarmed, streams reclaimed,
  hotness added and the completion record written. -/
  | launchComplete
  /-- R143. An idle core takes a waypoint from its dispatcher, splitting a range, restoring evacuated handles or a context frame, and runs
  it. -/
  | waypointPickup
  /-- R137. The dispatcher places a complete step group on consecutive chain positions at once, or makes it FAULTED with PLACEMENT. -/
  | stepGroupPlace
  /-- R141. A waypoint has stayed ready 100,000 Chronometer ticks at its class and rises one class. -/
  | priorityAge
  /-- R146. A class-0 waypoint has waited 20,000 ticks unplaced and the dispatcher pre-empts one long-running class-2 or class-3 waypoint. -/
  | priorityPreempt
  /-- R145. A dispatcher without entries for a multiple of 2,000 ticks steals one entry from the nearest in-service die. -/
  | dispatcherSteal
  /-- R147. A pre-empted core halts at a bundle boundary, abandoning blocked executions. -/
  | preemptHalt
  /-- R148. The context frame has been written and the waypoint is set PREEMPTED with the frame address in SVAL. -/
  | contextSaveDone
  /-- R131. A pinned waypoint's handle commands have completed and its handles are copied out and freed, making it free with EVAC set. -/
  | evacuationComplete
  /-- R150. At its next bundle boundary a running waypoint holding more than its core's capacity is relaunched under RESTART or RESUME, or
  FAULTED past RLIMIT. -/
  | overCapacity
  /-- R154. The self-test interval expires and the dispatcher selects its next cluster, drains it or defers it. -/
  | selftestRotation
  /-- R155. A cluster's scan self-test ends: failing banks are charted, failing cores quarantined and the cluster returned to service. -/
  | selftestDone
  /-- R128. A home's notification reaches a dispatcher, which sets the registered waypoint READY or passes the notification on after a
  drain renaming. -/
  | dispatcherNotify
  /-- R164. One execution of a bundle is decoded and dispatched: guards, sticky replays, source reads, deliveries, issues and register
  writes. -/
  | bundleExecute
  /-- R167. A unit operation's result arrives and its destination register becomes FULL, unless a later write superseded it. -/
  | operationComplete
  /-- R173. A bundle execution retires in order after its waits end, releasing its stores, commands and control writes. -/
  | bundleRetire
  /-- R179. A held forward write is delivered into the neighbour's EMPTY f register, making it FULL. -/
  | forwardDeliver
  /-- R320. The die's Chronometer copy reaches a BR.WAITT time and the waiting bundle may retire. -/
  | timedWaitExpiry
  /-- R188. A PAGE_FAULT, PTE_UNCORRECTABLE or late machine check for a command arrives and the core stops at its next bundle boundary. -/
  | asyncFault
  /-- R15. An access meets a corrected or uncorrectable ECC error, which is counted and logged, and poisons the word or line if
  uncorrectable. -/
  | eccError
  /-- R200. The accesses at the migration pointer have performed, so the line is copied to the new bank, and after the last line the map
  flips. -/
  | chartLineMove
  /-- R50. A slot passes a station: CRC check, Almanac firing, best-effort take or removal, throttle clearing and reclaim rewriting. -/
  | slotPass
  /-- R51. A LOAD, ADD or ADDEMPTY entry's fragment is read into the station's staging buffer once its lines are filled. -/
  | stageFragment
  /-- R60. A station injects a waiting best-effort packet into a free unreserved best-effort slot on its chosen direction and lane. -/
  | beInject
  /-- R63. A packet has waited 64 ring clocks, so the station marks the next full unmarked best-effort slot with THR and MARK. -/
  | beStarved
  /-- R386. A READ request packet reaches its home, which binds and returns line data. -/
  | read
  /-- R386. A WRITE request packet reaches its home and performs, multicast or step-region handling included. -/
  | write
  /-- R375. An ATOM request reaches its home, which performs it indivisibly or refuses it and records the result by sequence number. -/
  | atom
  /-- R139. A CFA request reaches the descriptor's home, whose near-memory unit hands out the next chunk. -/
  | cfa
  /-- R374. An ACC request reaches its home and adds FXW words indivisibly. -/
  | acc
  /-- R128. A suspension request reaches the word's home, which tests and registers indivisibly and answers MET, RETRY or REGISTERED. -/
  | waitreg
  /-- R226. A recovery request reaches the home, which reports APPLIED, NOT_APPLIED with a refusal mark, or UNKNOWN. -/
  | recov
  /-- R386. A DATA response reaches its requester and fills destination lines, or is discarded if its SEQ is not held. -/
  | data
  /-- R386. An ACK response reaches its requester and advances the command toward completion. -/
  | ack
  /-- R375. An atomic's response reaches the copy engine and completes the atomic with its old value. -/
  | atomRsp
  /-- R128. A suspension answer or home notification packet reaches its core or dispatcher. -/
  | notify
  /-- R211. A numbered multicast store reaches a replica, which applies it in number order. -/
  | mcast
  /-- R230. A migrating line arrives at the new home. -/
  | migline
  /-- R226. A REFUSE response reaches the requester, which completes the atomic ATOMIC_RESULT_LOST. -/
  | refuse
  /-- R386. A packet with a reserved KIND is discarded by the agent that takes it and logged in class 2. -/
  | reservedKindDiscard
  /-- R129. A BR.HALT's join decrement performs at the counter's home, waking registered waiters at zero and logging below zero. -/
  | joinDecrement
  /-- R225. A copy-engine request has had no response for 20,000 ticks and is reissued once, or fails INTEGRITY or ATOMIC_RESULT_LOST. -/
  | requestReissueTimeout
  /-- R204. A detached command completes once: its counter increments and its status bits are set. -/
  | commandComplete
  /-- R230. The last line of a migrating page is copied: the page entry is rewritten, translations are invalidated and a forwarding record
  is kept. -/
  | migrationComplete
  /-- R406. A STEP or BAR control token passes a station, which merges its members' arrivals and releases the barrier when all have
  arrived. -/
  | barrierToken
  /-- R412. A collective HANDSHAKE token passes a party's station and merges arrivals, exponent, progress and mismatch. -/
  | handshake
  /-- R412. A GO token reaches a party, which sets the stream exponents and starts its chunks. -/
  | go
  /-- R412. An ABORT token reaches a party, whose call ends without firing any chunk. -/
  | abort
  /-- R407. A control token's copy has not returned to its originator within a rotation plus 8, so a new copy with a higher COPY is sent. -/
  | tokenResend
  /-- R71. Equator link training ends: package ids are assigned and hop lengths padded and written to EQ_HOP. -/
  | eqLinkTrainingDone
  /-- R95. Link framing is lost on an Equator hop: the ring stops, outstanding commands complete INTEGRITY and the link retrains. -/
  | eqFramingLoss
  /-- R80. A sealed slot reaches its opening package, which checks tag and sequence and delivers it or discards it as TAG_FAIL, GAP or
  REPLAY. -/
  | eqSlotOpen
  /-- R82. A fabric request to another package reaches the Equator station, which refuses it for a non-member or seals and injects it. -/
  | eqRequestForward
  /-- R83. An Equator request has had no response for EQ_TMO ticks and completes INTEGRITY or ATOMIC_RESULT_LOST. -/
  | eqResponseTimeout
  /-- R84. An SPDM 1.3 message between Binnacles arrives and advances the session exchange. -/
  | spdmMessage
  /-- R87. No member answers a joiner within one rotation, so it forms a domain alone as leader at epoch 1. -/
  | joinTimeout
  /-- R94. The 250 ms heartbeat timer of a session expires and an SPDM HEARTBEAT is sent. -/
  | heartbeat
  /-- R94. Three heartbeats from a peer are missed and the peer is reported departed, starting a re-key. -/
  | heartbeatMiss
  /-- R92. A REKEY token reaches a member, which stops sealing new traffic and aborts departing work before forwarding it. -/
  | rekey
  /-- R93. The 100 µs bound of re-key pass 1 expires: outstanding requests complete REKEY_ABORT and REKEY is forwarded. -/
  | rekeyDrainTimeout
  /-- R92. A KEYED token reaches a member, which ends departing sessions and starts deriving the new epoch's keys. -/
  | keyed
  /-- R88. Key derivation into the idle key slot finishes and the member forwards KEYED. -/
  | keyDerived
  /-- R92. A RESUME token reaches a member, which switches to the new key slot, zeroises the old one and sends waiting commands. -/
  | resume
  /-- R227. A memory die's near-memory unit goes offline while its controller stays alive, so atomics, ACC, chunk fetches and GLOBAL step
  stores complete NMU_OFFLINE and suspension requests are answered RETRY. -/
  | nearMemoryUnitDown
  /-- R100. The host answers a device-to-host CXL.cache request (RdShared, RdCurr, WrInv, ItoMWr) of a copy engine or the launch unit,
  completing a host-memory access. -/
  | cxlCacheResponse
  deriving DecidableEq, Repr

end Sys2Proof
end

