-- ==== Sys2Proof/Decode.lean ====
section
/-! DEFINITION. Decoding a move word, the wide form and a whole bundle (R262 to R277), every refusal named; then the
encoder, from the same tables of the spec. -/
namespace Sys2Proof

/-! ## Bits -/

/-- R10. x[hi:lo] as an unsigned integer of width n, from bit lo. -/
def bits {w : Nat} (x : BitVec w) (lo n : Nat) : BitVec n := x.extractLsb' lo n

/-- R10. SignExtend of the low n bits of x to 64 bits. -/
def sext64 {n : Nat} (x : BitVec n) : Word := x.signExtend 64

/-! ## Ports -/

/-- R269. The offset of a scalar trigger port within its unit's page: S0 0x100, S1 0x200. -/
def sPort (u : SUnit) (off : BitVec 12) : BitVec 12 :=
  match u with
  | .s0 => 0x100#12 + off
  | .s1 => 0x200#12 + off

/-- R269. A vector trigger port: V0 0x300, V1 0x400. -/
def vPort (u : VUnit) (off : BitVec 12) : BitVec 12 :=
  match u with
  | .v0 => 0x300#12 + off
  | .v1 => 0x400#12 + off

/-- R270. The trigger ports of S0 and S1 from offset 0x10, in ascending order. -/
def sTable : List (SUnit → MoveF → Instr) := [
  .sAdd, .sSub, .sMul, .sMulh, .sMulhu, .sDiv, .sDivu, .sRem, .sRemu, .sAnd, .sOr, .sXor, .sAndn, .sOrn, .sShl,
  .sShr, .sSra, .sRol, .sRor, .sCmpeq, .sCmpne, .sCmplt, .sCmpltu, .sCmple, .sCmpleu, .sSel, .sMin, .sMax,
  .sMinu, .sMaxu, .sAbs, .sSext, .sZext, .sExt, .sIns, .sPopc, .sClz, .sCtz, .sFns, .sBrev, .sBswap, .sFadd,
  .sFsub, .sFmul, .sFma, .sFdiv, .sFsqrt, .sFmin, .sFmax, .sFcmp, .sFcvt, .sSptest, .sSpcast, .sRefmk]

/-- R271. The 32-bit forms, from offset 0x50. -/
def sTable32 : List (SUnit → MoveF → Instr) := [
  .sAdd32, .sSub32, .sMul32, .sMulh32, .sMulhu32, .sDiv32, .sDivu32, .sRem32, .sRemu32, .sAnd32, .sOr32,
  .sXor32, .sAndn32, .sOrn32, .sShl32, .sShr32, .sSra32, .sRol32, .sRor32, .sCmpeq32, .sCmpne32, .sCmplt32,
  .sCmpltu32, .sCmple32, .sCmpleu32, .sSel32, .sMin32, .sMax32, .sMinu32, .sMaxu32, .sAbs32, .sSext32,
  .sZext32, .sExt32, .sIns32, .sPopc32, .sClz32, .sCtz32, .sFns32, .sBrev32, .sBswap32]

/-- R272. The trigger ports of V0 and V1 from offset 0x10. -/
def vTable : List (VUnit → MoveF → Instr) := [
  .vAdd, .vSub, .vMul, .vFma, .vFms, .vMin, .vMax, .vAbs, .vNeg, .vAnd, .vOr, .vXor, .vAndn, .vNot, .vShl,
  .vShr, .vSra, .vCmp, .vSel, .vMov, .vPopc, .vClz, .vFns, .vBrev, .vMskp, .vCvt, .vQnt, .vDeq, .vFxa, .vBcast,
  .vPerm, .vRot, .vIota, .vRed, .vScan, .vScanl, .vScanf]

/-- R273. The trigger ports of X from offset 0x10. -/
def xTable : List (MoveF → Instr) := [
  .xExp, .xExp2, .xLog, .xLog2, .xRcp, .xRsq, .xSqrt, .xSig, .xTanh, .xSilu, .xGelu, .xSin, .xCos]

/-- R273. The trigger ports of LD from offset 0x10. -/
def ldTable : List (MoveF → Instr) := [
  .ldV, .ldS, .ldB, .ldI, .ldFe]

/-- R273. The trigger ports of ST from offset 0x10. -/
def stTable : List (MoveF → Instr) := [
  .stV, .stS, .stI, .stM, .stSete, .stZero]

/-- R273. The trigger ports of MX from offset 0x10. -/
def mxTable : List (MoveF → Instr) := [
  .mxTid, .mxMode, .mxZero, .mxSete, .mxMma, .mxMmat, .mxNrm, .mxRd, .mxWr, .mxBld, .mxSeq, .mxWait, .mxSound]

/-- R273. The trigger ports of CP from offset 0x10. -/
def cpTable : List (MoveF → Instr) := [
  .cpGet, .cpPut, .cpGetg, .cpPutg, .cpAcc, .cpGetm, .cpAtom, .cpCfa, .cpWaitc, .cpDrain, .cpPref, .cpStat,
  .cpRecov, .cpMig]

/-- R273. The trigger ports of SA from offset 0x10. -/
def saTable : List (MoveF → Instr) := [
  .saOp, .saPush, .saFlush]

/-- R273. The trigger ports of BR from offset 0x10. -/
def brTable : List (MoveF → Instr) := [
  .brJmp, .brJmpi, .brCall, .brCalli, .brRet, .brLoop, .brLoopr, .brLeave, .brSusp, .brYield, .brSpawn,
  .brJoinw, .brHalt, .brTrap, .brSys, .brRfe, .brWaitt, .brKchk]

/-- R273. The trigger ports of RG from offset 0x10. -/
def rgTable : List (MoveF → Instr) := [
  .rgHalloc, .rgHfree, .rgHinfo, .rgCap, .rgWaitf, .rgPost, .rgClr, .rgAlm, .rgStep, .rgBar, .rgXfence,
  .rgDrain, .rgColl, .rgCwait]

/-- The operation at a place of a unit's table. -/
def pick {α : Type} (t : List (MoveF → α)) (n : Nat) (m : MoveF) : Option α :=
  (t[n]?).map fun f => f m

/-- R269 to R273. The operation of a trigger port: unit page (1 to 12) and offset from 0x10. `none` where the port is not
assigned. -/
def opAt (page off : Nat) (m : MoveF) : Option Instr :=
  let n := off - 0x10
  let s (u : SUnit) : Option Instr :=
    if off < 0x50 then pick (sTable.map fun f => f u) n m else pick (sTable32.map fun f => f u) (off - 0x50) m
  if off < 0x10 then none
  else match page with
    | 1 => s .s0
    | 2 => s .s1
    | 3 => pick (vTable.map fun f => f .v0) n m
    | 4 => pick (vTable.map fun f => f .v1) n m
    | 5 => pick xTable n m
    | 6 => pick ldTable n m
    | 7 => pick stTable n m
    | 8 => pick mxTable n m
    | 9 => pick cpTable n m
    | 10 => pick saTable n m
    | 11 => pick brTable n m
    | 12 => pick rgTable n m
    | _ => none

/-- R268, R269, R157. What kind of destination a port number is. -/
inductive PortKind where
  | register      -- s, v, p, m
  | control       -- k registers
  | forward       -- nx, pv
  | operand       -- o0 to o14 of a unit
  | ty            -- TY of S0, S1, V0, V1
  | trigger       -- 0x10 to 0xFF of a unit
  | illegal       -- ILLEGAL_DEST at decode
  | undefined     -- UNDEFINED_PORT at decode
  deriving DecidableEq, Repr

/-- R268, R269. -/
def portKind (d : BitVec 12) : PortKind :=
  let n := d.toNat
  if n < 0x90 then .register
  else if n < 0x98 then .illegal
  else if n < 0xA0 then .register
  else if n < 0xE0 then .control
  else if n < 0xE8 then .forward
  else if n < 0x100 then .illegal
  else if n < 0xD00 then
    if n % 256 < 0xF then .operand
    else if n % 256 = 0xF then (if n / 256 ≤ 4 then .ty else .undefined)
    else .trigger
  else .undefined

/-- R267. The source selectors that are assigned, with K long immediates. -/
def srcAssigned (k : Nat) (s : BitVec 12) : Bool :=
  let n := s.toNat
  n < 0x94 || (0x98 ≤ n && n < 0xE0) || (0x100 ≤ n && n < 0x10A) || (0x120 ≤ n && n < 0x120 + k)

/-! ## One move word -/

/-- Why a word is no instruction, by name (R275). -/
inductive DecodeError where
  | startBit          -- bit 31 is 1 where a move word stands, or 0 where a header stands
  | reservedBits      -- a reserved header bit is nonzero
  | crossesPacket     -- the bundle does not fit its packet
  | undefinedPort     -- an unassigned page or trigger port, an unassigned FUNC or NRED
  | duplicate         -- two triggers to one unit, two moves to one port or register
  | invalidSticky     -- a sticky unit with no move and no valid record
  | illegalSource     -- an unassigned source selector
  | illegalDest       -- a destination that no move may write
  deriving DecidableEq, Repr

/-- R266. The fields of a move word but START and DST. -/
def moveFields (w : BitVec 32) : MoveF :=
  { guard := bits w 27 4, neg := w.getLsbD 26, wait := w.getLsbD 25, imm := w.getLsbD 12, src := bits w 0 12 }

/-- R266. DST of a move word. -/
def moveDst (w : BitVec 32) : BitVec 12 := bits w 13 12

/-- R266 to R276. The instruction of a move word, with K long immediates in its bundle. -/
def decodeMove (k : Nat) (w : BitVec 32) : Except DecodeError Instr :=
  let m := moveFields w
  let d := moveDst w
  let src (i : Instr) : Except DecodeError Instr :=
    if m.imm || srcAssigned k m.src then .ok i else .error .illegalSource
  if w.getLsbD 31 then .error .startBit
  else match portKind d with
    | .undefined => .error .undefinedPort
    | .trigger =>
      match opAt (d.toNat / 256) (d.toNat % 256) m with
      | some i => src i
      | none => .error .undefinedPort
    | .illegal => if m.imm || srcAssigned k m.src then .error .illegalDest else .error .illegalSource
    | .register | .control | .forward | .operand | .ty => src (.move d m)

/-! ## The wide form -/

/-- R274. FUNC of the wide form's body. -/
def lnFunc (b : BitVec 224) : BitVec 5 := bits b 3 5
/-- R274. NRED. -/
def lnNred (b : BitVec 224) : BitVec 3 := bits b 0 3
/-- R274. TYPE. -/
def lnType (b : BitVec 224) : BitVec 4 := bits b 8 4
/-- R274. The extent of level i: the 16-bit field plus 1. -/
def lnExtent (b : BitVec 224) (i : Nat) : Nat := (bits b (12 + 16 * i) 16).toNat + 1
/-- R274. The signed stride of operand o (0 A, 1 B, 2 D) at level i. -/
def lnStride (b : BitVec 224) (o i : Nat) : Int := (bits b (92 + 40 * o + 8 * i) 8).toInt
/-- R274. The stride-unit shift of operand o. -/
def lnShift (b : BitVec 224) (o : Nat) : Nat := (bits b (212 + 4 * o) 4).toNat

/-- R344. FUNC codes listed for NRED = 0, and for NRED from 1 to 5. -/
def lnFuncAssigned (b : BitVec 224) : Bool :=
  let f := (lnFunc b).toNat
  let r := (lnNred b).toNat
  if r = 0 then f ≤ 0x0B else r ≤ 5 && 0x10 ≤ f && f ≤ 0x15

/-- The body of the wide form: word j holds B[32j − 1 : 32(j − 1)]. -/
def lnBody (word : Nat → BitVec 32) : BitVec 224 :=
  word 7 ++ word 6 ++ word 5 ++ word 4 ++ word 3 ++ word 2 ++ word 1

/-- R274, R275. The wide form from its eight words. -/
def decodeWide (word : Nat → BitVec 32) : Except DecodeError Instr :=
  let h := word 0
  let b := lnBody word
  if !h.getLsbD 31 || bits h 27 4 != 15#4 then .error .startBit
  else if bits h 25 2 != 0#2 || bits h 0 7 != 0#7 then .error .reservedBits
  else if !lnFuncAssigned b then .error .undefinedPort
  else .ok (.ln (bits h 19 6) (bits h 13 6) (bits h 7 6) b)

/-! ## A bundle -/

/-- A decoded bundle (R262 to R265). -/
structure Bundle where
  addr : Nat
  len : Nat
  rep : Nat
  sync : Bool
  mark : Bool
  eos : Bool
  stick : List Nat        -- unit indexes (R161 order: S0 … SA 0 to 9, RG 10) whose sticky bit is set
  words : List (BitVec 32)
  moves : List Instr
  longs : List Word
  deriving DecidableEq, Repr

/-- A refusal at decode: its name, and the trap code and k.trapi that R275 gives it. -/
structure DecodeTrap where
  why : DecodeError
  code : BitVec 16
  info : Word
  deriving DecidableEq, Repr

/-- R189. ILLEGAL_BUNDLE with a cause. -/
def illegalBundle (why : DecodeError) (cause : Nat) : DecodeTrap := ⟨why, 0x0001#16, BitVec.ofNat 64 cause⟩

/-- R189. k.trapi [15:12] move index, [11:0] port or selector. -/
def moveInfo (idx : Nat) (p : BitVec 12) : Word := BitVec.ofNat 64 ((idx % 16) * 4096 + p.toNat)

/-- The first move, from index idx, whose decoding fails under one of the two reasons, with its trap. -/
def firstBad (k : Nat) (early : Bool) : Nat → List (BitVec 32) → Option DecodeTrap
  | _, [] => none
  | idx, w :: ws =>
    match decodeMove k w, early with
    | .error .undefinedPort, true => some ⟨.undefinedPort, 0x0003#16, moveInfo idx (moveDst w)⟩
    | .error .illegalSource, false => some ⟨.illegalSource, 0x0004#16, moveInfo idx (moveFields w).src⟩
    | .error .illegalDest, false => some ⟨.illegalDest, 0x0005#16, moveInfo idx (moveDst w)⟩
    | _, _ => firstBad k early (idx + 1) ws

/-- R165, R275. What a move must not share with another move of the bundle: its trigger's unit, or its port or register.
A forwarding port is neither. -/
def claim (d : BitVec 12) : Option Nat :=
  match portKind d with
  | .trigger => some (0x1000 + d.toNat / 256)
  | .register | .control | .operand | .ty | .illegal => some d.toNat
  | .forward | .undefined => none

/-- Does a list of numbers hold one twice? -/
def hasDup : List Nat → Bool
  | [] => false
  | x :: xs => xs.contains x || hasDup xs

/-- R265. The units of the header's sticky mask, bit 13 (S0) down to bit 3 (RG). -/
def stickUnits (h : BitVec 32) : List Nat := (List.range 11).filter fun u => h.getLsbD (13 - u)

/-- R161, R269. The sticky index of a unit page: pages 1 to 10 are S0 to SA, page 12 is RG; BR has none. -/
def stickIndex (page : Nat) : Option Nat :=
  if 1 ≤ page ∧ page ≤ 10 then some (page - 1) else if page = 12 then some 10 else none

/-- Long immediate j of a bundle with N move words (R264). -/
def longAt (word : Nat → BitVec 32) (n j : Nat) : Word := word (2 + n + 2 * j) ++ word (1 + n + 2 * j)

/-- The instructions of a list of move words that decode. -/
def decodeAll (k : Nat) (ws : List (BitVec 32)) : List Instr :=
  ws.filterMap fun w => match decodeMove k w with
    | .ok i => some i
    | .error _ => none

/-- R263 to R276. The bundle whose header stands at byte address a, word j of it given by `word j`; the checks in R276's
order. `valid u` says whether unit u has a valid sticky record. -/
def decodeBundle (a : Nat) (word : Nat → BitVec 32) (valid : Nat → Bool) : Except DecodeTrap Bundle :=
  let h := word 0
  let n := (bits h 27 4).toNat
  let k := (bits h 25 2).toNat
  let at_ := a % 64 / 4
  if !h.getLsbD 31 then .error (illegalBundle .startBit 2)
  else if n = 15 then
    if at_ > 8 then .error (illegalBundle .crossesPacket 2)
    else if bits h 25 2 != 0#2 || bits h 0 7 != 0#7 then .error (illegalBundle .reservedBits 1)
    else match decodeWide word with
      | .ok i => .ok { addr := a, len := 8, rep := 0, sync := false, mark := false, eos := false, stick := [],
                       words := [], moves := [i], longs := [] }
      | .error e => .error ⟨e, 0x0003#16, 0xF000#64 ||| (bits (lnBody word) 0 8).zeroExtend 64⟩
  else
    let len := 1 + n + 2 * k
    let ws := (List.range n).map fun j => word (1 + j)
    let claims := ws.filterMap fun w => claim (moveDst w)
    let pages := ws.map fun w => (moveDst w).toNat / 256
    let stick := stickUnits h
    if at_ + len > 16 then .error (illegalBundle .crossesPacket 2)
    else if ws.any fun w => w.getLsbD 31 then .error (illegalBundle .startBit 2)
    else if bits h 0 3 != 0#3 then .error (illegalBundle .reservedBits 1)
    else match firstBad k true 0 ws with
      | some t => .error t
      | none =>
        if hasDup claims then .error (illegalBundle .duplicate 3)
        else if stick.any fun u => !(pages.any fun p => stickIndex p == some u) && !valid u then
          .error (illegalBundle .invalidSticky 4)
        else match firstBad k false 0 ws with
          | some t => .error t
          | none =>
            .ok { addr := a, len := len, rep := (bits h 17 8).toNat, sync := h.getLsbD 16, mark := h.getLsbD 15,
                  eos := h.getLsbD 14, stick := stick, words := ws, moves := decodeAll k ws,
                  longs := (List.range k).map (longAt word n) }

/-- R263. The address after a bundle of len words at a; `word` is the word that follows it. -/
def nextBundle (a len : Nat) (word : BitVec 32) : Nat :=
  let w := a % 64 / 4 + len
  if w = 16 then a - a % 64 + 64
  else if word = 0#32 then a - a % 64 + 64
  else a + 4 * len

/-! ## The table's words -/

/-- The instruction read from an instruction whose bits are w, 32 bits a word, the first word in the low bits. A first
word with bit 31 set is a header: the wide form is read from its eight words. -/
def decodeTableWord (nbits w : Nat) : Option Instr :=
  if nbits = 0 then none
  else
    let word (j : Nat) : BitVec 32 := BitVec.ofNat 32 (w >>> (32 * j))
    let r := if (word 0).getLsbD 31 then decodeWide word else decodeMove 3 (word 0)
    match r with
    | .ok i => some i
    | .error _ => none

/-! ## The encoder -/

/-- R266. START 0, GUARD, NEG, WAIT, DST, IMM, SRC, most significant first. -/
def packMove (d : BitVec 12) (m : MoveF) : BitVec 32 :=
  0#1 ++ m.guard ++ BitVec.ofBool m.neg ++ BitVec.ofBool m.wait ++ d ++ BitVec.ofBool m.imm ++ m.src

/-- R268 to R273. The destination port and the move fields of an instruction that is one move word; the stream form of
RG.ALM and the forms of RG.COLL share their word with the plain form (R348, R387). -/
def Instr.port? : Instr → Option (BitVec 12 × MoveF)
  | .move d m => some (d, m)
  | .sAdd u m => some (sPort u 0x10#12, m)
  | .sSub u m => some (sPort u 0x11#12, m)
  | .sMul u m => some (sPort u 0x12#12, m)
  | .sMulh u m => some (sPort u 0x13#12, m)
  | .sMulhu u m => some (sPort u 0x14#12, m)
  | .sDiv u m => some (sPort u 0x15#12, m)
  | .sDivu u m => some (sPort u 0x16#12, m)
  | .sRem u m => some (sPort u 0x17#12, m)
  | .sRemu u m => some (sPort u 0x18#12, m)
  | .sAnd u m => some (sPort u 0x19#12, m)
  | .sOr u m => some (sPort u 0x1A#12, m)
  | .sXor u m => some (sPort u 0x1B#12, m)
  | .sAndn u m => some (sPort u 0x1C#12, m)
  | .sOrn u m => some (sPort u 0x1D#12, m)
  | .sShl u m => some (sPort u 0x1E#12, m)
  | .sShr u m => some (sPort u 0x1F#12, m)
  | .sSra u m => some (sPort u 0x20#12, m)
  | .sRol u m => some (sPort u 0x21#12, m)
  | .sRor u m => some (sPort u 0x22#12, m)
  | .sCmpeq u m => some (sPort u 0x23#12, m)
  | .sCmpne u m => some (sPort u 0x24#12, m)
  | .sCmplt u m => some (sPort u 0x25#12, m)
  | .sCmpltu u m => some (sPort u 0x26#12, m)
  | .sCmple u m => some (sPort u 0x27#12, m)
  | .sCmpleu u m => some (sPort u 0x28#12, m)
  | .sSel u m => some (sPort u 0x29#12, m)
  | .sMin u m => some (sPort u 0x2A#12, m)
  | .sMax u m => some (sPort u 0x2B#12, m)
  | .sMinu u m => some (sPort u 0x2C#12, m)
  | .sMaxu u m => some (sPort u 0x2D#12, m)
  | .sAbs u m => some (sPort u 0x2E#12, m)
  | .sSext u m => some (sPort u 0x2F#12, m)
  | .sZext u m => some (sPort u 0x30#12, m)
  | .sExt u m => some (sPort u 0x31#12, m)
  | .sIns u m => some (sPort u 0x32#12, m)
  | .sPopc u m => some (sPort u 0x33#12, m)
  | .sClz u m => some (sPort u 0x34#12, m)
  | .sCtz u m => some (sPort u 0x35#12, m)
  | .sFns u m => some (sPort u 0x36#12, m)
  | .sBrev u m => some (sPort u 0x37#12, m)
  | .sBswap u m => some (sPort u 0x38#12, m)
  | .sFadd u m => some (sPort u 0x39#12, m)
  | .sFsub u m => some (sPort u 0x3A#12, m)
  | .sFmul u m => some (sPort u 0x3B#12, m)
  | .sFma u m => some (sPort u 0x3C#12, m)
  | .sFdiv u m => some (sPort u 0x3D#12, m)
  | .sFsqrt u m => some (sPort u 0x3E#12, m)
  | .sFmin u m => some (sPort u 0x3F#12, m)
  | .sFmax u m => some (sPort u 0x40#12, m)
  | .sFcmp u m => some (sPort u 0x41#12, m)
  | .sFcvt u m => some (sPort u 0x42#12, m)
  | .sSptest u m => some (sPort u 0x43#12, m)
  | .sSpcast u m => some (sPort u 0x44#12, m)
  | .sRefmk u m => some (sPort u 0x45#12, m)
  | .sAdd32 u m => some (sPort u 0x50#12, m)
  | .sSub32 u m => some (sPort u 0x51#12, m)
  | .sMul32 u m => some (sPort u 0x52#12, m)
  | .sMulh32 u m => some (sPort u 0x53#12, m)
  | .sMulhu32 u m => some (sPort u 0x54#12, m)
  | .sDiv32 u m => some (sPort u 0x55#12, m)
  | .sDivu32 u m => some (sPort u 0x56#12, m)
  | .sRem32 u m => some (sPort u 0x57#12, m)
  | .sRemu32 u m => some (sPort u 0x58#12, m)
  | .sAnd32 u m => some (sPort u 0x59#12, m)
  | .sOr32 u m => some (sPort u 0x5A#12, m)
  | .sXor32 u m => some (sPort u 0x5B#12, m)
  | .sAndn32 u m => some (sPort u 0x5C#12, m)
  | .sOrn32 u m => some (sPort u 0x5D#12, m)
  | .sShl32 u m => some (sPort u 0x5E#12, m)
  | .sShr32 u m => some (sPort u 0x5F#12, m)
  | .sSra32 u m => some (sPort u 0x60#12, m)
  | .sRol32 u m => some (sPort u 0x61#12, m)
  | .sRor32 u m => some (sPort u 0x62#12, m)
  | .sCmpeq32 u m => some (sPort u 0x63#12, m)
  | .sCmpne32 u m => some (sPort u 0x64#12, m)
  | .sCmplt32 u m => some (sPort u 0x65#12, m)
  | .sCmpltu32 u m => some (sPort u 0x66#12, m)
  | .sCmple32 u m => some (sPort u 0x67#12, m)
  | .sCmpleu32 u m => some (sPort u 0x68#12, m)
  | .sSel32 u m => some (sPort u 0x69#12, m)
  | .sMin32 u m => some (sPort u 0x6A#12, m)
  | .sMax32 u m => some (sPort u 0x6B#12, m)
  | .sMinu32 u m => some (sPort u 0x6C#12, m)
  | .sMaxu32 u m => some (sPort u 0x6D#12, m)
  | .sAbs32 u m => some (sPort u 0x6E#12, m)
  | .sSext32 u m => some (sPort u 0x6F#12, m)
  | .sZext32 u m => some (sPort u 0x70#12, m)
  | .sExt32 u m => some (sPort u 0x71#12, m)
  | .sIns32 u m => some (sPort u 0x72#12, m)
  | .sPopc32 u m => some (sPort u 0x73#12, m)
  | .sClz32 u m => some (sPort u 0x74#12, m)
  | .sCtz32 u m => some (sPort u 0x75#12, m)
  | .sFns32 u m => some (sPort u 0x76#12, m)
  | .sBrev32 u m => some (sPort u 0x77#12, m)
  | .sBswap32 u m => some (sPort u 0x78#12, m)
  | .vAdd u m => some (vPort u 0x10#12, m)
  | .vSub u m => some (vPort u 0x11#12, m)
  | .vMul u m => some (vPort u 0x12#12, m)
  | .vFma u m => some (vPort u 0x13#12, m)
  | .vFms u m => some (vPort u 0x14#12, m)
  | .vMin u m => some (vPort u 0x15#12, m)
  | .vMax u m => some (vPort u 0x16#12, m)
  | .vAbs u m => some (vPort u 0x17#12, m)
  | .vNeg u m => some (vPort u 0x18#12, m)
  | .vAnd u m => some (vPort u 0x19#12, m)
  | .vOr u m => some (vPort u 0x1A#12, m)
  | .vXor u m => some (vPort u 0x1B#12, m)
  | .vAndn u m => some (vPort u 0x1C#12, m)
  | .vNot u m => some (vPort u 0x1D#12, m)
  | .vShl u m => some (vPort u 0x1E#12, m)
  | .vShr u m => some (vPort u 0x1F#12, m)
  | .vSra u m => some (vPort u 0x20#12, m)
  | .vCmp u m => some (vPort u 0x21#12, m)
  | .vSel u m => some (vPort u 0x22#12, m)
  | .vMov u m => some (vPort u 0x23#12, m)
  | .vPopc u m => some (vPort u 0x24#12, m)
  | .vClz u m => some (vPort u 0x25#12, m)
  | .vFns u m => some (vPort u 0x26#12, m)
  | .vBrev u m => some (vPort u 0x27#12, m)
  | .vMskp u m => some (vPort u 0x28#12, m)
  | .vCvt u m => some (vPort u 0x29#12, m)
  | .vQnt u m => some (vPort u 0x2A#12, m)
  | .vDeq u m => some (vPort u 0x2B#12, m)
  | .vFxa u m => some (vPort u 0x2C#12, m)
  | .vBcast u m => some (vPort u 0x2D#12, m)
  | .vPerm u m => some (vPort u 0x2E#12, m)
  | .vRot u m => some (vPort u 0x2F#12, m)
  | .vIota u m => some (vPort u 0x30#12, m)
  | .vRed u m => some (vPort u 0x31#12, m)
  | .vScan u m => some (vPort u 0x32#12, m)
  | .vScanl u m => some (vPort u 0x33#12, m)
  | .vScanf u m => some (vPort u 0x34#12, m)
  | .xExp m => some (0x510#12, m)
  | .xExp2 m => some (0x511#12, m)
  | .xLog m => some (0x512#12, m)
  | .xLog2 m => some (0x513#12, m)
  | .xRcp m => some (0x514#12, m)
  | .xRsq m => some (0x515#12, m)
  | .xSqrt m => some (0x516#12, m)
  | .xSig m => some (0x517#12, m)
  | .xTanh m => some (0x518#12, m)
  | .xSilu m => some (0x519#12, m)
  | .xGelu m => some (0x51A#12, m)
  | .xSin m => some (0x51B#12, m)
  | .xCos m => some (0x51C#12, m)
  | .ldV m => some (0x610#12, m)
  | .ldS m => some (0x611#12, m)
  | .ldB m => some (0x612#12, m)
  | .ldI m => some (0x613#12, m)
  | .ldFe m => some (0x614#12, m)
  | .stV m => some (0x710#12, m)
  | .stS m => some (0x711#12, m)
  | .stI m => some (0x712#12, m)
  | .stM m => some (0x713#12, m)
  | .stSete m => some (0x714#12, m)
  | .stZero m => some (0x715#12, m)
  | .mxTid m => some (0x810#12, m)
  | .mxMode m => some (0x811#12, m)
  | .mxZero m => some (0x812#12, m)
  | .mxSete m => some (0x813#12, m)
  | .mxMma m => some (0x814#12, m)
  | .mxMmat m => some (0x815#12, m)
  | .mxNrm m => some (0x816#12, m)
  | .mxRd m => some (0x817#12, m)
  | .mxWr m => some (0x818#12, m)
  | .mxBld m => some (0x819#12, m)
  | .mxSeq m => some (0x81A#12, m)
  | .mxWait m => some (0x81B#12, m)
  | .mxSound m => some (0x81C#12, m)
  | .cpGet m => some (0x910#12, m)
  | .cpPut m => some (0x911#12, m)
  | .cpGetg m => some (0x912#12, m)
  | .cpPutg m => some (0x913#12, m)
  | .cpAcc m => some (0x914#12, m)
  | .cpGetm m => some (0x915#12, m)
  | .cpAtom m => some (0x916#12, m)
  | .cpCfa m => some (0x917#12, m)
  | .cpWaitc m => some (0x918#12, m)
  | .cpDrain m => some (0x919#12, m)
  | .cpPref m => some (0x91A#12, m)
  | .cpStat m => some (0x91B#12, m)
  | .cpRecov m => some (0x91C#12, m)
  | .cpMig m => some (0x91D#12, m)
  | .saOp m => some (0xA10#12, m)
  | .saPush m => some (0xA11#12, m)
  | .saFlush m => some (0xA12#12, m)
  | .brJmp m => some (0xB10#12, m)
  | .brJmpi m => some (0xB11#12, m)
  | .brCall m => some (0xB12#12, m)
  | .brCalli m => some (0xB13#12, m)
  | .brRet m => some (0xB14#12, m)
  | .brLoop m => some (0xB15#12, m)
  | .brLoopr m => some (0xB16#12, m)
  | .brLeave m => some (0xB17#12, m)
  | .brSusp m => some (0xB18#12, m)
  | .brYield m => some (0xB19#12, m)
  | .brSpawn m => some (0xB1A#12, m)
  | .brJoinw m => some (0xB1B#12, m)
  | .brHalt m => some (0xB1C#12, m)
  | .brTrap m => some (0xB1D#12, m)
  | .brSys m => some (0xB1E#12, m)
  | .brRfe m => some (0xB1F#12, m)
  | .brWaitt m => some (0xB20#12, m)
  | .brKchk m => some (0xB21#12, m)
  | .rgHalloc m => some (0xC10#12, m)
  | .rgHfree m => some (0xC11#12, m)
  | .rgHinfo m => some (0xC12#12, m)
  | .rgCap m => some (0xC13#12, m)
  | .rgWaitf m => some (0xC14#12, m)
  | .rgPost m => some (0xC15#12, m)
  | .rgClr m => some (0xC16#12, m)
  | .rgAlm m => some (0xC17#12, m)
  | .rgAlmStrm m => some (0xC17#12, m)
  | .rgStep m => some (0xC18#12, m)
  | .rgBar m => some (0xC19#12, m)
  | .rgXfence m => some (0xC1A#12, m)
  | .rgDrain m => some (0xC1B#12, m)
  | .rgColl m => some (0xC1C#12, m)
  | .rgCollLoad m => some (0xC1C#12, m)
  | .rgCollResume m => some (0xC1C#12, m)
  | .rgCollDrop m => some (0xC1C#12, m)
  | .rgCwait m => some (0xC1D#12, m)
  | .ln .. => none
  | .powerOnReset | .fundamentalResetDeassert | .advanceStageComplete | .supplyRangeChange | .supplyTimeout
  | .temperatureReport | .alarmDetector | .registerWrite | .drainC | .drainCComplete | .resetC
  | .resetCComplete | .returnC | .returnCComplete | .retireM | .retireMComplete | .returnM | .returnMComplete
  | .resetM | .resetMComplete | .sgtFire | .sgtCompareEnable | .sgtArm | .sgtValidClear | .sightingLatch
  | .tlbInvPage | .tlbInvAsid | .tlbInvAll | .tlbReleaseForwarding | .tlbInvComplete | .alarmClr2 | .lqEnable
  | .advance | .returnHarbour | .fwStage | .fwCommit | .powerCap | .selftestInterval | .sightRead | .errlogRead
  | .errlogClear | .launchCancel | .eqOwnership | .admitPolicy | .domainJoin | .domainLeave | .domainExpel
  | .mailboxCommandEnd | .configRequest | .hostMemAccess | .birsp | .ideKmKeyProg | .hostSpdmRequest
  | .cxlLinkRecover | .pidxNotify | .pidxReadDone | .launchRecordAccept | .streamGrant | .launchComplete
  | .waypointPickup | .stepGroupPlace | .priorityAge | .priorityPreempt | .dispatcherSteal | .preemptHalt
  | .contextSaveDone | .evacuationComplete | .overCapacity | .selftestRotation | .selftestDone
  | .dispatcherNotify | .bundleExecute | .operationComplete | .bundleRetire | .forwardDeliver
  | .timedWaitExpiry | .asyncFault | .eccError | .chartLineMove | .slotPass | .stageFragment | .beInject
  | .beStarved | .read | .write | .atom | .cfa | .acc | .waitreg | .recov | .data | .ack | .atomRsp | .notify
  | .mcast | .migline | .refuse | .reservedKindDiscard | .joinDecrement | .requestReissueTimeout
  | .commandComplete | .migrationComplete | .barrierToken | .handshake | .go | .abort | .tokenResend
  | .eqLinkTrainingDone | .eqFramingLoss | .eqSlotOpen | .eqRequestForward | .eqResponseTimeout | .spdmMessage
  | .joinTimeout | .heartbeat | .heartbeatMiss | .rekey | .rekeyDrainTimeout | .keyed | .keyDerived | .resume
  | .nearMemoryUnitDown | .cxlCacheResponse => none

/-- The wide form's words (R274). -/
def encodeWide (ba bb bd : BitVec 6) (b : BitVec 224) : List (BitVec 32) :=
  (1#1 ++ 15#4 ++ 0#2 ++ ba ++ bb ++ bd ++ 0#7 : BitVec 32) :: (List.range 7).map fun j => bits b (32 * j) 32

/-- The words of an instruction, from the encodings of R266 and R274; a step that is no instruction has none. -/
def encode (i : Instr) : List (BitVec 32) :=
  match i with
  | .ln ba bb bd b => encodeWide ba bb bd b
  | i => match i.port? with
    | some (d, m) => [packMove d m]
    | none => []

/-- The decoder over a list of words, for the round trip: one move word, or the eight words of the wide form. -/
def decode (ws : List (BitVec 32)) : Except DecodeError Instr :=
  match ws with
  | [w] => decodeMove 3 w
  | _ => decodeWide fun j => ws.getD j 0#32

end Sys2Proof
end

