-- ==== Sys2Proof/Machine/Flags.lean ====
section
/-! DEFINITION. The flags of k.flg (R162): IDZ bit 5, NV 4, DZ 3, OF 2, UF 1, NX 0. -/
namespace Sys2Proof.Machine

/-- The six flags of k.flg. -/
abbrev Flags := BitVec 6

def flNone : Flags := 0#6
/-- Integer division by zero. -/
def flIDZ : Flags := 0x20#6
/-- Invalid operation. -/
def flNV : Flags := 0x10#6
/-- Floating division by zero. -/
def flDZ : Flags := 0x08#6
/-- Overflow, saturation included. -/
def flOF : Flags := 0x04#6
/-- Underflow. -/
def flUF : Flags := 0x02#6
/-- Inexact. -/
def flNX : Flags := 0x01#6

/-- The flag f where c holds. -/
def flIf (c : Bool) (f : Flags) : Flags := if c then f else flNone

/-- The flags of a list of results, combined (R326). -/
def flAll (l : List Flags) : Flags := l.foldl (· ||| ·) flNone

end Sys2Proof.Machine
end

