-- ==== Sys2Proof/Machine/Maps.lean ====
section
/-! DEFINITION. Reading and writing the collections of the state by number, and the bytes of a number. -/
namespace Sys2Proof

/-- The value at key k; `d` where k is not listed. -/
def Map.get {α : Type} (m : Map α) (k : Nat) (d : α) : α :=
  match m with
  | [] => d
  | (i, a) :: t => if i = k then a else Map.get t k d

/-- The value at key k, where it is listed. -/
def Map.find {α : Type} (m : Map α) (k : Nat) : Option α :=
  match m with
  | [] => none
  | (i, a) :: t => if i = k then some a else Map.find t k

/-- The collection with v at key k, keys kept rising. -/
def Map.set {α : Type} (m : Map α) (k : Nat) (v : α) : Map α :=
  match m with
  | [] => [(k, v)]
  | (i, a) :: t => if k < i then (k, v) :: (i, a) :: t else if k = i then (k, v) :: t else (i, a) :: Map.set t k v

/-- The collection without key k. -/
def Map.erase {α : Type} (m : Map α) (k : Nat) : Map α := m.filter fun e => decide (e.1 ≠ k)

/-- The collection with the value at k changed by f, from `d` where it is not listed. -/
def Map.update {α : Type} (m : Map α) (k : Nat) (d : α) (f : α → α) : Map α := Map.set m k (f (Map.get m k d))

/-- The collection without the keys from lo up to but not including hi. -/
def Map.clearRange {α : Type} (m : Map α) (lo hi : Nat) : Map α := m.filter fun e => decide (e.1 < lo ∨ hi ≤ e.1)

namespace Machine

/-- Numbers lo to lo + n − 1. -/
def span (lo n : Nat) : List Nat := (List.range n).map (lo + ·)

/-- x rounded up to a multiple of a. -/
def alignUp (x a : Nat) : Nat := (x + a - 1) / a * a

/-- Ceil(x / y) of naturals. -/
def ceilDiv (x y : Nat) : Nat := (x + y - 1) / y

/-- R7. The n bytes of x, least significant first. -/
def bytesOf (x n : Nat) : List Byte := (List.range n).map fun i => BitVec.ofNat 8 (x >>> (8 * i))

/-- R7. The number of a list of bytes, least significant first. -/
def ofBytes (bs : List Byte) : Nat := bs.foldr (fun b acc => b.toNat + 256 * acc) 0

/-- R10. x[hi:lo] of a natural number: n bits from bit lo. -/
def field (x lo n : Nat) : Nat := x / 2 ^ lo % 2 ^ n

/-- R10. A field read as a signed n-bit number. -/
def signed (x n : Nat) : Int := if x % 2 ^ n < 2 ^ (n - 1) then (x % 2 ^ n : Nat) else (x % 2 ^ n : Nat) - (2 ^ n : Nat)

/-- An integer modulo 2^n. -/
def wrapN (x : Int) (n : Nat) : Nat := (x % (2 ^ n : Nat)).toNat

/-- Clamp(x, lo, hi) on integers. -/
def clampI (x lo hi : Int) : Int := if x < lo then lo else if x > hi then hi else x

/-- The numbers of a list without repeats, in order of their last place. -/
def dedup (l : List Nat) : List Nat := l.foldr (fun x acc => if acc.contains x then acc else x :: acc) []

/-- The least element of a list, if any. -/
def least : List Nat → Option Nat
  | [] => none
  | x :: t => match least t with
    | some y => some (min x y)
    | none => some x

/-- The greatest element of a list, if any. -/
def greatest : List Nat → Option Nat
  | [] => none
  | x :: t => match greatest t with
    | some y => some (max x y)
    | none => some x

/-- The bits of a mask that are set, lowest first, among the low n. -/
def bitsSet (x n : Nat) : List Nat := (List.range n).filter fun i => x.testBit i

end Machine
end Sys2Proof
end

