-- ==== Sys2Proof/Machine/Numbers.lean ====
section
/-! DEFINITION. Number formats, rounding, conversions, group scales and FXW words (R232 to R246). A type code is a Nat: 0 F32,
1 BF16, 2 F16, 3 F8A, 4 F8B, 5 F4, 6 F64, 7 TRN, 8 I32 … 15 U4 (R232, R233); 0x18 and 0x19 are the 64-bit integers that
S.FCVT names (R298). -/
namespace Sys2Proof.Machine

/-! ## Formats -/

/-- Element width in bits of a type code. -/
def typeBits (t : Nat) : Nat :=
  match t with
  | 0 => 32 | 1 => 16 | 2 => 16 | 3 => 8 | 4 => 8 | 5 => 4 | 6 => 64 | 7 => 2
  | 8 => 32 | 9 => 32 | 10 => 16 | 11 => 16 | 12 => 8 | 13 => 8 | 14 => 4 | 15 => 4
  | _ => 64

/-- Codes 0 to 6 are floating formats. -/
def isFloat (t : Nat) : Bool := t ≤ 6
/-- Codes 8 to 15, and the two 64-bit codes, are integer formats. -/
def isInt (t : Nat) : Bool := (8 ≤ t && t ≤ 15) || t = 0x18 || t = 0x19
/-- The signed integer formats. -/
def isSigned (t : Nat) : Bool := t = 8 || t = 10 || t = 12 || t = 14 || t = 0x18
/-- The unsigned integer formats. -/
def isUnsigned (t : Nat) : Bool := isInt t && !isSigned t

/-- R232. Mantissa width. -/
def mantW (t : Nat) : Nat :=
  match t with
  | 0 => 23 | 1 => 7 | 2 => 10 | 3 => 3 | 4 => 2 | 5 => 1 | _ => 52
/-- R232. Exponent width. -/
def expW (t : Nat) : Nat :=
  match t with
  | 0 => 8 | 1 => 8 | 2 => 5 | 3 => 4 | 4 => 5 | 5 => 2 | _ => 11
/-- R232. Bias. -/
def bias (t : Nat) : Nat :=
  match t with
  | 0 => 127 | 1 => 127 | 2 => 15 | 3 => 7 | 4 => 15 | 5 => 1 | _ => 1023
/-- R232. The code, without its sign, of the largest finite value. -/
def maxFinite (t : Nat) : Nat :=
  match t with
  | 0 => 0x7F7FFFFF | 1 => 0x7F7F | 2 => 0x7BFF | 3 => 0x7E | 4 => 0x7B | 5 => 0x7 | _ => 0x7FEFFFFFFFFFFFFF
/-- R232. F8A and F4 have no infinity. -/
def hasInf (t : Nat) : Bool := t ≠ 3 && t ≠ 5
/-- The code of +∞, where the format has one. -/
def infCode (t : Nat) : Nat := (2 ^ expW t - 1) * 2 ^ mantW t
/-- R239. The default NaN; for F4, which has none, the code 0 that R242 gives. -/
def defaultNaN (t : Nat) : Nat :=
  match t with
  | 3 => 0x7F | 5 => 0 | t => infCode t + 2 ^ (mantW t - 1)
/-- The sign bit of a format. -/
def signBit (t : Nat) : Nat := 2 ^ (typeBits t - 1)
/-- A code without its sign. -/
def magOf (t code : Nat) : Nat := code % signBit t
/-- The sign of a code. -/
def negOf (t code : Nat) : Bool := (code / signBit t) % 2 = 1
/-- The code with a sign set as given. -/
def withSign (t : Nat) (neg : Bool) (mag : Nat) : Nat := if neg then mag + signBit t else mag

/-- R232. Is a code a NaN? -/
def isNaN (t code : Nat) : Bool :=
  if t = 3 then magOf t code = 0x7F else if t = 5 then false else magOf t code > infCode t
/-- R232. A signalling NaN of F32, BF16, F16 or F64. -/
def isSNaN (t code : Nat) : Bool :=
  (t = 0 || t = 1 || t = 2 || t = 6) && isNaN t code && !(magOf t code).testBit (mantW t - 1)
/-- Is a code an infinity? -/
def isInfCode (t code : Nat) : Bool := hasInf t && magOf t code = infCode t
/-- A nonzero code below the smallest normal. -/
def isSubnormal (t code : Nat) : Bool := magOf t code ≠ 0 && magOf t code < 2 ^ mantW t

/-! ## Exact values -/

/-- R10. An exact real, an infinity, or a NaN. A finite value is (−1)^neg · (m + ε) · 2^e with 0 < ε < 1 where `rest` is set and
ε = 0 elsewhere: the remainder of a quotient or root, whose m is long enough for every format. -/
inductive Exact where
  | nan
  | inf (neg : Bool)
  | fin (neg : Bool) (m : Nat) (e : Int) (rest : Bool)
  deriving DecidableEq, Repr

/-- R232. The value of a code. -/
def valueOf (t code : Nat) : Exact :=
  let neg := negOf t code
  let f := magOf t code % 2 ^ mantW t
  let e := magOf t code / 2 ^ mantW t
  if isNaN t code then .nan
  else if isInfCode t code then .inf neg
  else if e = 0 then .fin neg f (1 - (bias t : Int) - mantW t) false
  else .fin neg (2 ^ mantW t + f) ((e : Int) - bias t - mantW t) false

/-- R233, R234. The value of an integer element; TRN codes 0b01 and 0b11 are +1 and −1, 0b00 and 0b10 are 0. -/
def intOf (t code : Nat) : Int :=
  if t = 7 then (if code % 4 = 1 then 1 else if code % 4 = 3 then -1 else 0)
  else if isSigned t then signed code (typeBits t) else (code % 2 ^ typeBits t : Nat)

/-- An integer as an exact value. -/
def exactInt (x : Int) : Exact := .fin (x < 0) x.natAbs 0 false

/-- w · 2^E exactly. -/
def exactScaled (w e : Int) : Exact := .fin (w < 0) w.natAbs e false

/-- The exact value of an element of any type. -/
def elemValue (t code : Nat) : Exact := if isFloat t then valueOf t code else exactInt (intOf t code)

/-- Is an exact value zero? -/
def Exact.isZero : Exact → Bool
  | .fin _ m _ r => m = 0 && !r
  | _ => false
/-- The sign of an exact value. -/
def Exact.neg : Exact → Bool
  | .nan => false
  | .inf n => n
  | .fin n _ _ _ => n
/-- The value with its sign changed. -/
def Exact.negate : Exact → Exact
  | .nan => .nan
  | .inf n => .inf !n
  | .fin n m e r => .fin (!n) m e r
/-- Floor(log2 |x|) of a finite nonzero value. -/
def Exact.exponent : Exact → Int
  | .fin _ m e _ => (m.log2 : Int) + e
  | _ => 0

/-- A natural over 2^sh: quotient, and what is left of it. -/
def splitAt (m sh : Nat) : Nat × Nat := (m / 2 ^ sh, m % 2 ^ sh)

/-- The integer nearest to (m + ε) · 2^e / 2^q, ties to even, and whether it differs from it. -/
def roundTo (m : Nat) (e : Int) (rest : Bool) (q : Int) : Nat × Bool :=
  if q ≤ e then (m * 2 ^ (e - q).toNat, rest)
  else
    let sh := (q - e).toNat
    let (n, r) := splitAt m sh
    let half := 2 ^ (sh - 1)
    let up := r > half || (r = half && (rest || n % 2 = 1))
    (if up then n + 1 else n, r ≠ 0 || rest)

/-- Floor of (−1)^neg · m · 2^e / 2^q. -/
def floorTo (neg : Bool) (m : Nat) (e q : Int) : Int :=
  let x : Int := if neg then -(m : Int) else m
  if q ≤ e then x * (2 ^ (e - q).toNat : Nat) else Int.fdiv x (2 ^ (q - e).toNat : Nat)

/-- R237. Overflowed(x, T): the code and its flags; `fin` says whether x is finite. -/
def overflowed (t : Nat) (neg finite : Bool) : Nat × Flags :=
  let f := flIf finite (flOF ||| flNX)
  if t = 0 || t = 1 || t = 2 || t = 6 || (t = 4 && !finite) then (withSign t neg (infCode t), f)
  else (withSign t neg (maxFinite t), if t = 4 then f else f ||| flOF)

/-- R237. RoundFmt of an exact value to a floating type: the code and its flags. A NaN gives the default NaN of T (R239); a
NaN that is converted goes through nanOut. -/
def roundFmt (x : Exact) (t : Nat) : Nat × Flags :=
  match x with
  | .nan => (defaultNaN t, flIf (t = 5) flNV)
  | .inf neg => overflowed t neg false
  | .fin neg m e rest =>
    if m = 0 then (withSign t neg 0, flIf rest (flNX ||| flUF))
    else
      let top : Int := (m.log2 : Int) + e
      let qmin : Int := 1 - (bias t : Int) - mantW t
      let q := max (top - mantW t) qmin
      let (n, inexact) := roundTo m e rest q
      let mag := (q - qmin).toNat * 2 ^ mantW t + n
      let qz := top - mantW t
      let (nz, _) := roundTo m e rest qz
      let topz := if nz = 2 ^ (mantW t + 1) then top + 1 else top
      let tiny := topz < 1 - (bias t : Int)
      let f := flIf inexact flNX ||| flIf (tiny && inexact) flUF
      if mag > maxFinite t then
        let (c, g) := overflowed t neg true
        (c, f ||| g)
      else (withSign t neg mag, f)

/-- R240. NaNOut of a NaN code of format sf to type t. -/
def nanOut (sf code t : Nat) : Nat × Flags :=
  let neg := negOf sf code
  if t = 5 || !isFloat t then (0, flNV)
  else if t = 3 then (withSign t neg 0x7F, flNone)
  else if sf = 3 then (withSign t neg (infCode t + 2 ^ (mantW t - 1)), flNone)
  else
    let m0 := code % 2 ^ mantW sf
    let m := if mantW sf ≤ mantW t then m0 * 2 ^ (mantW t - mantW sf) else m0 / 2 ^ (mantW sf - mantW t)
    let other (a : Nat) : Bool := a = 4 || a = 0 || a = 6
    if (sf = 4 && other t) || (t = 4 && other sf) then
      (withSign t neg (infCode t + (if t = 4 && m = 0 then 1 else m)), flNone)
    else
      let quiet := if m.testBit (mantW t - 1) then m else m + 2 ^ (mantW t - 1)
      (withSign t neg (infCode t + quiet), flIf (isSNaN sf code) flNV)

/-! ## Conversions -/

/-- The least value of an integer type; TRN has −1 to 1 (R246). -/
def intMin (t : Nat) : Int := if t = 7 then -1 else if isSigned t then -((2 ^ (typeBits t - 1) : Nat) : Int) else 0
/-- The greatest value of an integer type. -/
def intMax (t : Nat) : Int :=
  if t = 7 then 1 else if isSigned t then ((2 ^ (typeBits t - 1) : Nat) : Int) - 1 else ((2 ^ typeBits t : Nat) : Int) - 1

/-- The code of an integer in range; TRN writes 0b00, 0b01, 0b11 (R234). -/
def intCode (t : Nat) (x : Int) : Nat := wrapN x (typeBits t)

/-- R242. An integer brought into the range of t: OF and NX where it was out of range. -/
def clampInt (t : Nat) (x : Int) : Nat × Flags :=
  (intCode t (clampI x (intMin t) (intMax t)), flIf (decide (x < intMin t) || decide (x > intMax t)) (flOF ||| flNX))

/-- R242. An exact value rounded to the nearest integer, ties to even, into t's range. -/
def roundInt (x : Exact) (t : Nat) : Nat × Flags :=
  match x with
  | .nan => (0, flNV)
  | .inf neg => (intCode t (if neg then intMin t else intMax t), flOF)
  | .fin neg m e rest =>
    let (n, inexact) := roundTo m e rest 0
    let v : Int := if neg then -(n : Int) else n
    let (c, f) := clampInt t v
    (c, f ||| flIf inexact flNX)

/-- R240 to R242. A code of type s converted to type t. -/
def convertCode (s t code : Nat) : Nat × Flags :=
  if isFloat s then
    if isNaN s code then nanOut s code t
    else if isFloat t then roundFmt (valueOf s code) t
    else roundInt (valueOf s code) t
  else
    let x := intOf s code
    let f := flIf (s = 7 && code % 4 = 2) flNV
    let (c, g) := if isFloat t then roundFmt (exactInt x) t else clampInt t x
    (c, f ||| g)

/-! ## Arithmetic -/

/-- The two finite operands on one exponent: signed significands and that exponent. -/
def onOne (n1 : Bool) (m1 : Nat) (e1 : Int) (n2 : Bool) (m2 : Nat) (e2 : Int) : Int × Int × Int :=
  let e := min e1 e2
  let a : Int := (m1 * 2 ^ (e1 - e).toNat : Nat)
  let b : Int := (m2 * 2 ^ (e2 - e).toNat : Nat)
  (if n1 then -a else a, if n2 then -b else b, e)

/-- R296. The exact sum, with the sign of an exact zero as IEEE 754-2019 gives it for rounding to nearest. The second
component says whether the operation is invalid. -/
def exactAdd (x y : Exact) : Exact × Bool :=
  match x, y with
  | .nan, _ => (.nan, false)
  | _, .nan => (.nan, false)
  | .inf a, .inf b => if a = b then (.inf a, false) else (.nan, true)
  | .inf a, _ => (.inf a, false)
  | _, .inf b => (.inf b, false)
  | .fin n1 m1 e1 _, .fin n2 m2 e2 _ =>
    let (a, b, e) := onOne n1 m1 e1 n2 m2 e2
    if a + b = 0 then (.fin (n1 && n2) 0 e false, false) else (.fin (a + b < 0) (a + b).natAbs e false, false)

/-- R296. The exact product; 0 · ∞ is invalid. -/
def exactMul (x y : Exact) : Exact × Bool :=
  match x, y with
  | .nan, _ => (.nan, false)
  | _, .nan => (.nan, false)
  | .inf a, .inf b => (.inf (a != b), false)
  | .inf a, .fin n m _ _ => if m = 0 then (.nan, true) else (.inf (a != n), false)
  | .fin n m _ _, .inf b => if m = 0 then (.nan, true) else (.inf (n != b), false)
  | .fin n1 m1 e1 _, .fin n2 m2 e2 _ => (.fin (n1 != n2) (m1 * m2) (e1 + e2) false, false)

/-- R296. The quotient to more bits than any format holds, and whether anything is left: flags of the operation apart. -/
def exactDiv (x y : Exact) : Exact × Flags :=
  match x, y with
  | .nan, _ => (.nan, flNone)
  | _, .nan => (.nan, flNone)
  | .inf _, .inf _ => (.nan, flNV)
  | .inf a, .fin n _ _ _ => (.inf (a != n), flNone)
  | .fin n _ _ _, .inf b => (.fin (n != b) 0 0 false, flNone)
  | .fin n1 m1 e1 _, .fin n2 m2 e2 _ =>
    if m2 = 0 then (if m1 = 0 then (.nan, flNV) else (.inf (n1 != n2), flDZ))
    else if m1 = 0 then (.fin (n1 != n2) 0 0 false, flNone)
    else
      let s := 128 + m2.log2
      let a := m1 * 2 ^ s
      (.fin (n1 != n2) (a / m2) (e1 - e2 - s) (a % m2 ≠ 0), flNone)

/-- The integer square root of n below 2^(2k), from a partial root r. -/
def rootStep : Nat → Nat → Nat → Nat
  | 0, _, r => r
  | k + 1, n, r =>
    let t := r + 2 ^ k
    if t * t ≤ n then rootStep k n t else rootStep k n r

/-- R296. The square root, to more bits than any format holds. -/
def exactSqrt (x : Exact) : Exact × Bool :=
  match x with
  | .nan => (.nan, false)
  | .inf neg => if neg then (.nan, true) else (.inf false, false)
  | .fin neg m e _ =>
    if m = 0 then (.fin neg 0 0 false, false)
    else if neg then (.nan, true)
    else
      let s : Nat := if e % 2 = 0 then 130 else 131
      let n := m * 2 ^ s
      let r := rootStep (n.log2 / 2 + 1) n 0
      (.fin false r ((e - (s : Int)) / 2) (r * r ≠ n), false)

/-- The order of two values that are not NaN: less, equal, greater. Zeros of both signs are equal. -/
def exactCmp (x y : Exact) : Ordering :=
  match x, y with
  | .inf a, .inf b => if a = b then .eq else if a then .lt else .gt
  | .inf a, _ => if a then .lt else .gt
  | _, .inf b => if b then .gt else .lt
  | .fin n1 m1 e1 _, .fin n2 m2 e2 _ =>
    let (a, b, _) := onOne n1 m1 e1 n2 m2 e2
    if a < b then .lt else if a = b then .eq else .gt
  | _, _ => .eq

/-- R296. minimumNumber and maximumNumber on codes of one format, −0 below +0. NV for a signalling NaN. -/
def minMaxCode (t : Nat) (wantMax : Bool) (x y : Nat) : Nat × Flags :=
  let f := flIf (isSNaN t x || isSNaN t y) flNV
  if isNaN t x && isNaN t y then (defaultNaN t, f ||| flNV)
  else if isNaN t x then (y, f)
  else if isNaN t y then (x, f)
  else
    let lt := match exactCmp (valueOf t x) (valueOf t y) with
      | .lt => true
      | .eq => negOf t x && !negOf t y
      | .gt => false
    (if lt != wantMax then x else y, f)

/-- NV where some operand of an arithmetic operation is a signalling NaN (R238). -/
def snanFlag (t : Nat) (xs : List Nat) : Flags := flIf (xs.any (isSNaN t)) flNV

/-- R296. x + y, or x − y, rounded once. -/
def fAdd (t : Nat) (sub : Bool) (x y : Nat) : Nat × Flags :=
  let yv := if sub then (valueOf t y).negate else valueOf t y
  let (v, bad) := exactAdd (valueOf t x) yv
  let (c, f) := roundFmt v t
  (c, f ||| snanFlag t [x, y] ||| flIf bad flNV)

/-- R296. x · y rounded once. -/
def fMul (t : Nat) (x y : Nat) : Nat × Flags :=
  let (v, bad) := exactMul (valueOf t x) (valueOf t y)
  let (c, f) := roundFmt v t
  (c, f ||| snanFlag t [x, y] ||| flIf bad flNV)

/-- R296. x · y + z, or x · y − z, rounded once; 0 · ∞ is invalid whatever z is. -/
def fFma (t : Nat) (sub : Bool) (x y z : Nat) : Nat × Flags :=
  let (p, bad1) := exactMul (valueOf t x) (valueOf t y)
  let zv := if sub then (valueOf t z).negate else valueOf t z
  let (v, bad2) := exactAdd p zv
  let (c, f) := roundFmt v t
  (c, f ||| snanFlag t [x, y, z] ||| flIf (bad1 || bad2) flNV)

/-- R296. x / y rounded once. -/
def fDiv (t : Nat) (x y : Nat) : Nat × Flags :=
  let (v, g) := exactDiv (valueOf t x) (valueOf t y)
  let (c, f) := roundFmt v t
  (c, f ||| g ||| snanFlag t [x, y])

/-- R296. √x rounded once. -/
def fSqrt (t : Nat) (x : Nat) : Nat × Flags :=
  let (v, bad) := exactSqrt (valueOf t x)
  let (c, f) := roundFmt v t
  (c, f ||| flIf bad flNV ||| snanFlag t [x])

/-- R297. The condition `cond` (0 eq … 7 ord) on two codes of one format, and NV. -/
def fCompare (t : Nat) (cond : Nat) (x y : Nat) : Bool × Flags :=
  let un := isNaN t x || isNaN t y
  let sig := isSNaN t x || isSNaN t y
  let o := exactCmp (valueOf t x) (valueOf t y)
  let r := match cond % 8 with
    | 0 => !un && o == .eq
    | 1 => un || o != .eq
    | 2 => !un && o == .lt
    | 3 => !un && o != .gt
    | 4 => !un && o == .gt
    | 5 => !un && o != .lt
    | 6 => un
    | _ => !un
  (r, flIf (sig || (un && 2 ≤ cond % 8 && cond % 8 ≤ 5)) flNV)

/-! ## FXW words -/

/-- The greatest and the least signed 64-bit integer. -/
def maxI64 : Int := 9223372036854775807
def minI64 : Int := -9223372036854775808

/-- R243. FxwFromF32, for a code of any floating type after its subnormals are flushed: the word, whether it counts as −0,
whether it saturated, and the flags. -/
def fxwFrom (t code : Nat) (e : Int) : Int × Bool × Bool × Flags :=
  let neg := negOf t code
  match valueOf t code with
  | .nan => (0, false, false, flNV)
  | .inf n => (if n then minI64 else maxI64, false, true, flOF)
  | .fin n m ex rest =>
    if m = 0 || isSubnormal t code then (0, neg, false, flNone)
    else
      let (q, inexact) := roundTo m ex rest e
      let v : Int := if n then -(q : Int) else q
      if v > maxI64 then (maxI64, false, true, flOF ||| flNX)
      else if v < minI64 then (minI64, false, true, flOF ||| flNX)
      else (v, n && q = 0, false, flIf inexact flNX)

/-- R243. F32FromFxw. -/
def f32FromFxw (w e : Int) : Nat × Flags := roundFmt (exactScaled w e) 0

/-- Ceil(Log2(P)) for P ≥ 1. -/
def ceilLog2 (p : Nat) : Nat := if p ≤ 1 then 0 else (p - 1).log2 + 1

/-- R244. em of ChooseExp from a largest magnitude. -/
def chooseEm (amax : Exact) : Int :=
  match amax with
  | .fin _ m e _ => if m = 0 || (m.log2 : Int) + e < -126 then -126 else (m.log2 : Int) + e
  | _ => -126

/-- R244. The exponent from em and the number of contributions. -/
def chooseExp (em : Int) (p : Nat) : Int := clampI (em + ceilLog2 p - 62) (-32768) 32767

/-! ## Group scales -/

/-- R235. Scale(c, b). -/
def scaleValue (c : Nat) (b : Int) : Exact :=
  if c % 256 = 0xFF then .nan
  else if c % 256 / 8 = 0 then .fin false 0 0 false
  else .fin false (8 + c % 8) ((c % 256 / 8 : Nat) - 18 + b) false

/-- R245. Scaled(x, s). -/
def scaled (x s : Exact) : Exact :=
  match x, s with
  | .nan, _ => .nan
  | _, .nan => .nan
  | x, s => if s.isZero then .fin x.neg 0 0 false else (exactMul x s).1

/-- R246. Mx, the largest finite value of a quantisation target. -/
def quantMax (t : Nat) : Nat :=
  match t with
  | 3 => 448 | 4 => 57344 | 5 => 6 | 12 => 127 | 14 => 7 | _ => 1

/-- |x| of an exact value. -/
def Exact.abs : Exact → Exact
  | .nan => .nan
  | .inf _ => .inf false
  | .fin _ m e r => .fin false m e r

/-- R246. The largest magnitude among the finite values. -/
def maxAbs (vs : List Exact) : Exact :=
  vs.foldl (fun acc v => match v with
    | .fin .. => if exactCmp acc v.abs == .lt then v.abs else acc
    | _ => acc) (.fin false 0 0 false)

/-- R246. The smallest code from 0x08 to 0xFE whose scale is at least amax / Mx; 0xFE if there is none. -/
def scaleCode (amax : Exact) (t : Nat) (b : Int) : Nat :=
  let ok (c : Nat) : Bool := exactCmp (exactMul (scaleValue c b) (exactInt (quantMax t))).1 amax != .lt
  ((span 8 247).find? ok).getD 0xFE

/-- R246. QuantiseGroup: the scale code, the element codes and the flags. -/
def quantiseGroup (vs : List Exact) (t : Nat) (b : Int) : Nat × List Nat × Flags :=
  if vs.any (· == .nan) then
    (0xFF, vs.map fun _ => if t = 3 then 0x7F else if t = 4 then 0x7E else 0, flIf (t ≠ 3 && t ≠ 4) flNV)
  else
    let amax := maxAbs vs
    let c := if amax.isZero then 0 else scaleCode amax t b
    let s := scaleValue c b
    let one (v : Exact) : Nat × Flags :=
      match v with
      | .inf neg =>
        (if isFloat t then withSign t neg (maxFinite t) else intCode t (if neg then -(quantMax t : Int) else quantMax t), flOF)
      | v =>
        if s.isZero then (if isFloat t then withSign t v.neg 0 else 0, flNone)
        else
          let q := (exactDiv v s).1
          if isFloat t then roundFmt q t else roundInt q t
    let qs := vs.map one
    (c, qs.map (·.1), flAll (qs.map (·.2)))

end Sys2Proof.Machine
end

