-- ==== Sys2Proof/Config.lean ====
section
/-! DEFINITION. What an implementation fixes and the manual does not state: uninterpreted constants without a body (free
values), and the numbers the manual fixes for the part. -/
namespace Sys2Proof.Config

/-- R341, R342. The fixed mapping of X function `op` (its trigger offset − 0x10) on a code of type 0 F32, 1 BF16 or 2 F16,
where R342 states no exact value. Free value: log 14. -/
opaque xCode : (op type code : Nat) → Nat

/-- R21, R121. Binnacle's RSA-4096 verification of a staged image. Uninterpreted: log 11. -/
opaque imageVerifies : List (Nat × BitVec 8) → Bool

/-- R86. The root certificate's digest and the measurement summary that this package presents. Free values: log 63. -/
opaque identityRoot : BitVec 512
opaque identitySummary : BitVec 512

/-- R15. What a unit to which the spec gives no fate for a POISONED read takes from a byte of a poisoned word, at a time. Free
value: log 52. -/
opaque poisonByte : (dpa at_ : Nat) → BitVec 8

/-- R12. Cores of a compute die. -/
def coresPerDie : Nat := 48
/-- R197. Physical and logical scratchpad banks of a core. -/
def spadPhysical : Nat := 400
def spadLogical : Nat := 384
/-- R197. Physical and logical operand-die banks of a core. -/
def opdPhysical : Nat := 68
def opdLogical : Nat := 64
/-- R197. Physical and logical banks of a core's vector registers and tiles, and of a memory die's cache. -/
def vregPhysical : Nat := 9
def vregLogical : Nat := 8
def tileBanks : Nat := 16
def cachePhysical : Nat := 200
def cacheLogical : Nat := 192
/-- R208. Size of one memory die's share of the device physical address space, and its reserved area. -/
def dieSpan : Nat := 0xC00000000
def reservedBase : Nat := 0xBC0000000
/-- R148. Size of a context frame, and where the frames begin in a reserved area (log 13). -/
def frameSize : Nat := 186368
def framesAt : Nat := 0x20000000
/-- R42. The least number of best-effort positions of a lane. -/
def minBestEffort : Nat := 16
/-- R369. Commands of one core that an engine holds. -/
def maxCommands : Nat := 64
/-- R128. Registrations that one word holds. -/
def maxWaiters : Nat := 64
/-- R226. Records that a home keeps for an engine. -/
def maxAtomRecords : Nat := 256
/-- R230. Forwarding records of a near-memory unit. -/
def maxForwarding : Nat := 64
/-- R225. Ticks without a response before a request is reissued or fails. -/
def requestTimeout : Nat := 20000

end Sys2Proof.Config
end

