-- ==== Sys2Proof/Machine/State.lean ====
section
/-! DEFINITION. The state of the package as plain data, its outcomes, and the state right after power-on reset. A register
file, a memory and every table is a Map: a key not listed holds the default that its docstring names. -/
namespace Sys2Proof.Machine

/-! ## Outcomes -/

/-- Why the machine stops with a fault. -/
inductive Fault where
  /-- Raised by a home access outside the device physical address space (R208 gives every die local addresses up to
  0xB_FFFF_FFFF); safe: the hardware has no such address. -/
  | noSuchAddress (dpa : Nat)
  deriving DecidableEq, Repr

/-- Why a step has no meaning. -/
inductive Refusal where
  /-- Raised by an arm of exec whose instruction has no meaning yet: at present by none; safe. -/
  | notModelled (mnemonic : String)
  deriving DecidableEq, Repr

/-! ## The core -/

/-- R189. A trap: its code, k.trapi, whether it is raised asynchronously (R188) at the bundle that meets it, the plan slot of
a COLLECTIVE_MISMATCH, and the move that raises it where that is not the one that it is met at (R175). -/
structure Trap where
  code : BitVec 16
  info : Word
  asynch : Bool := false
  slot : Option Nat := none            -- the plan slot whose ABORT it reports (R416)
  place : Option Nat := none           -- the index of the move that raises it
  deriving DecidableEq, Repr

/-- R159. A value on its way to a port, by width. `im` is an immediate with the element width at which a vector port
replicates it. -/
inductive PVal where
  | sc (w : Word)
  | im (w : Word) (bits : Nat)
  | ve (v : Vec)
  | ma (m : LaneMask)
  deriving DecidableEq, Repr

/-- R157. What an operand port holds within a bundle execution: the value, and the move that brought it. -/
structure Latched where
  val : PVal
  idx : Nat
  sel : BitVec 12
  deriving DecidableEq, Repr

/-- R166. A sticky record. -/
structure Sticky where
  valid : Bool := false
  trig : BitVec 12 := 0#12
  words : List (BitVec 32) := []
  longs : List Word := []
  count : Nat := 0
  deriving DecidableEq, Repr

/-- R167 to R170. A result on its way: its register, the bundle executions of its distance left, whether it has a fixed
distance, and the command whose completion gives the value, if one does. Every other value stands in the register already;
the full/empty bit says whether it arrived. -/
structure Pend where
  reg : Nat
  left : Nat
  fixed : Bool
  cmd : Option Nat := none
  unit : Nat := 0                      -- the page of the unit that produces it (R169)
  deriving DecidableEq, Repr

/-- R172, R173. An execution that has not retired: its bundle, the registers its results go to, the forward registers it
consumes and the flags it ORs into k.flg at retirement. -/
structure Unretired where
  addr : Nat
  regs : List Nat
  consumes : BitVec 4
  flags : BitVec 6
  deriving DecidableEq, Repr

/-- R164, R359. What the operand ports of MX and BR hold, and their trigger values at the trigger ports, for an MX.SEQ in
progress: of a handler or of the program, its bundle and repetition. -/
structure SeqOps where
  hm : Bool
  addr : Nat
  rep : Nat
  ports : Map Latched
  deriving DecidableEq, Repr

/-- R250. Modes of an accumulator tile. -/
inductive TileMode where
  | W | F | I32 | I64
  deriving DecidableEq, Repr

/-- R250. An accumulator tile: words by 32 · row + column (default 0), row exponents and guards by row (default 0). -/
structure Tile where
  mode : TileMode := .W
  words : Map Word := []
  exps : Map (BitVec 16) := []
  guards : Map Nat := []
  deriving DecidableEq, Repr

/-- R196. An allocated handle. -/
structure Handle where
  owner : WpKey
  level : Level
  ty : BitVec 4
  rows : Nat
  cols : Nat
  banks : List Nat
  deriving DecidableEq, Repr

/-- R202. Line states. -/
inductive LineState where
  | full | empty | poison
  deriving DecidableEq, Repr

/-- R200. An evacuation of logical bank `logical` from physical bank `src` to `dst`, with its migration pointer (a line),
and the logical bank unmapped at the flip with the fall of capacity then. -/
structure Evac where
  logical : Nat
  src : Nat
  dst : Nat
  ptr : Nat
  unmap : Option Nat
  fall : Bool
  deriving DecidableEq, Repr

/-- R197 to R201. The Chart of one storage, a level of a core, its vector registers or tiles, or a memory die's cache: physical bank of a
logical bank (default: the same number), logical banks unmapped, failing and retired physical banks, Chronometer times of corrected errors
by physical bank, owed retirements (physical, logical) in order, evacuations, and the retirements owed before (counted in the capacity).
-/
structure Chart where
  map : Map Nat := []
  unmapped : List Nat := []
  failing : List Nat := []
  retired : List Nat := []
  corrected : Map (List Nat) := []
  owed : List (Nat × Nat) := []
  evacs : List Evac := []
  deriving DecidableEq, Repr

/-- Where bytes of a copy, a store or an access lie. `spad` names a byte of a handle of a core, `dev` a device physical
address, `host` a host physical address, `remote` a placement address of another package, `step` a byte offset of a step
region's plane, `fetched` bytes that an operand fetch brings to its engine, `zeros` a source of zero bytes. -/
inductive Loc where
  | spad (core handle off : Nat)
  | dev (dpa : Nat)
  | repl (homes : List Nat)
  | host (hpa : Nat)
  | remote (pkg pa : Nat)
  | step (launch region off : Nat)
  | fetched (src addr : Nat)
  | zeros
  deriving DecidableEq, Repr

/-- A part of a copy, from one place to another: at most one 128-byte line of a source at a home. A replicated destination carries
ONE (R211). `half` 1 or 2: the first or second four bytes of an element of eight that lies across two lines of its source. -/
structure Piece where
  src : Loc
  dst : Loc
  len : Nat
  one : Bool := false
  half : Nat := 0
  deriving DecidableEq, Repr

/-- R380, R354. The operands of a follow-on tile operation: origins, batch, control word, operation number (R365), and the
identifier copies it uses. -/
structure FollowOn where
  a : Word
  b : Word
  batch : Word
  ctl : Word
  seqNo : Nat
  ids : Map (BitVec 256)
  deriving DecidableEq, Repr

/-- R82, R358, R373. Bytes within a line that an operand fetch has brought to its engine, or none where they came poisoned or not at all.
`src` is the package that holds them, 64 for this package's device memory, 65 for host memory; `addr` their address there. -/
structure RemoteLine where
  src : Nat
  addr : Nat
  len : Nat
  data : Option (BitVec 1024)
  deriving DecidableEq, Repr

/-- R368, R384. The kinds of detached commands; `fetch` is a request of an operand fetch or of the read of an index list, or one for another package's line (R82), which no counter
counts. -/
inductive CmdKind where
  | get | put | pref | getm | getg | putg | acc | atom | cfa | recov | mig | sa | fetch
  deriving DecidableEq, Repr

/-- R204, R369. A detached command in progress: its issuer, its counter, the region tag it carries (0: none), its operands,
and how far it has come. -/
structure Cmd where
  id : Nat
  core : Nat
  wp : WpKey
  kind : CmdKind
  counter : Nat
  tag : Nat
  -- operands (R368)
  src : Word := 0#64
  dst : Word := 0#64
  idx : Word := 0#64
  shape : Word := 0#64
  n : Nat := 0
  rb : Nat := 0
  stride : Nat := 0
  wide : Bool := false
  one : Bool := false
  f32 : Bool := false
  exp : Int := 0
  ctl : Word := 0#64
  opa : Word := 0#64
  opb : Word := 0#64
  follow : Option FollowOn := none
  after : List Nat := []               -- commands that must have ended before it begins (R222, R223)
  -- progress
  begun : Bool := true                 -- handed to the engine: a command held by a fence or a release has not begun
  status : Nat := 0
  pieces : List Piece := []            -- parts not yet begun
  waitList : Bool := false             -- the index list has not been read (R373)
  lines : List RemoteLine := []        -- lines fetched for that list
  reader : Option Nat := none          -- of a fetch: the command whose list needs the line (none: the core's execution)
  halves : List (Loc × Nat × List Byte) := []  -- halves of elements whose other half has not arrived: place, half, bytes
  gone : List (Nat × Nat) := []        -- handles released since its issue, which it no longer touches (R398): core, handle
  unfilled : List (Nat × Nat × Nat) := []  -- destination lines marked EMPTY and not filled: core, handle, line
  tainted : List (Nat × Nat × Nat) := []   -- those that poisoned data has reached while other bytes are still to land
  fault : Option (BitVec 16 × Word) := none  -- a fault of its own that stopped it (R188)
  updates : List (Loc × Int) := []     -- a scatter-accumulate command's updates not yet written (R385)
  saOp : Nat := 0
  saBytes : Nat := 8
  result : Option Word := none         -- what b.cp receives at completion (R375, R378, R383)
  deriving DecidableEq, Repr

/-- R183, R184. An effect that leaves the core: a store of bytes (offset in the handle, byte), ST.SETE and ST.ZERO of
lines, contributions to a step region (element, value), a copy or scatter-accumulate command. `mark` holds the place, in program
order, of the marking of n bytes of a handle by a copy that is not gated: what earlier gated stores held there is not seen. -/
inductive Eff where
  | store (core handle : Nat) (bytes : List (Nat × Byte))
  | sete (core handle line n : Nat)
  | zero (core handle line n : Nat)
  | step (launch region rank : Nat) (elems : List (Nat × Nat))
  | copy (c : Cmd)
  | mark (core handle off n : Nat)
  deriving DecidableEq, Repr

/-- R187, R192. The shadowed state of an open region. -/
structure Shadow where
  sc : Map Word
  pr : BitVec 16
  ma : Map LaneMask
  empty : BitVec 320
  pends : List Pend
  rv : Nat
  rs : Nat
  rp : Nat
  lc : Word
  ec : BitVec 8
  flg : BitVec 6
  trapc : Word
  trapi : Word
  epc : Word
  rpi : Word
  mxs : Word
  hs : Map Word
  sd : Map Word
  ty : Map (BitVec 4)
  dv : Map (BitVec 6)
  dm : Map (BitVec 3)
  sticky : Map Sticky
  deriving DecidableEq, Repr

/-- R182, R183. A region: its mark address, its tag, the shadow, and the effects held in the gate buffer, oldest first. -/
structure Region where
  mark : Nat
  tag : Nat
  shadow : Shadow
  gate : List Eff := []
  deriving DecidableEq, Repr

/-- R409. A chunk of a plan. -/
structure Chunk where
  op : Nat
  phase : Nat
  stream : Nat
  pos : Nat
  msta : Bool
  buf : Nat
  deps : Nat
  line : Nat
  succ0 : Nat
  succ1 : Nat
  rep : Nat
  step : Nat
  len : Nat
  deriving DecidableEq, Repr

/-- R409. A plan. -/
structure Plan where
  group : Nat
  rank : Nat
  nparty : Nat
  nphase : Nat
  op : Nat
  ty : Nat
  pkgMask : BitVec 64
  chunks : List Chunk
  deriving DecidableEq, Repr

/-- R411 to R416. The last call of a plan slot: running or ended, its buffers, counters of the chunks, which chunks have an
entry armed and which have completed, its status (8: ABORT), whether it merged and whether GO was acted on. -/
structure Call where
  id : Nat                             -- numbered with the commands, so that fences name it (R222)
  seq : BitVec 16
  running : Bool
  resume : Bool
  src : Word
  dst : Word
  scr : Word
  count : Nat
  merged : Bool := false
  started : Bool := false
  startPhase : Nat := 0
  armed : List Nat := []
  done : List Nat := []
  status : Nat := 0
  trapTaken : Bool := false
  deriving DecidableEq, Repr

/-- R410, R411. A plan slot. -/
structure PlanSlot where
  launch : Nat
  plan : Plan
  nextSeq : BitVec 16
  call : Option Call
  deriving DecidableEq, Repr

/-- What a core is doing with its waypoint. -/
inductive CoreMode where
  | idle
  | running
  | answer       -- a suspension request has been sent and its answer is awaited (R128)
  | stopping     -- a pre-emption request has reached the core (R147)
  | relaunching (resume : Bool)  -- OVER_CAPACITY has stopped it; commands that no rollback cancels are awaited (R151, R152)
  deriving DecidableEq, Repr

/-- One core (R156 to R192). Register keys are the selectors of R267 with the physical register number: s 0x000, v 0x040,
p 0x080, f 0x090, m 0x098, results 0x100. -/
structure Core where
  mode : CoreMode := .idle
  wp : WpKey := ⟨0, 0⟩
  quarantined : Bool := false
  -- registers
  sc : Map Word := []                  -- s and result registers; default 0
  ve : Map Vec := []                   -- v and f registers; default 0
  ma : Map LaneMask := []              -- m registers; default 0
  pr : BitVec 16 := 0#16               -- p registers
  empty : BitVec 320 := 0xF <<< 0x90   -- bit r: register r is EMPTY; f0 to f3 at pick-up (R163)
  pends : List Pend := []
  aside : List Pend := []              -- the fixed distances of the program that a handler has interrupted (R169)
  -- control registers (R161, R162)
  rv : Nat := 0
  rs : Nat := 0
  rp : Nat := 0
  lc : Word := 0#64
  ec : BitVec 8 := 0#8
  flg : BitVec 6 := 0#6
  hm : Bool := false
  trapc : Word := 0#64
  trapi : Word := 0#64
  epc : Word := 0#64
  rpi : Word := 0#64
  mxs : Word := 0#64
  hs : Map Word := []                  -- k.hs0 to k.hs3; default 0
  sd : Map Word := []                  -- k.sd0/1.unit at 2 · u and 2 · u + 1; default 0
  -- unit state (R157); keys: 0 S0, 1 S1, 2 V0, 3 V1, 4 X, 5 LD, 7 MX
  ty : Map (BitVec 4) := [(0, 6#4), (1, 6#4)]   -- default F32
  dv : Map (BitVec 6) := []
  dm : Map (BitVec 3) := []
  sticky : Map Sticky := []            -- by the unit index of R161
  latch : Map Latched := []            -- operand ports of the execution in progress, by port number
  -- flow
  pc : Nat := 0                        -- bundle address
  rep : Nat := 0                       -- repetition of the bundle at pc; of an LN, the output it stands at (R347)
  seqStep : Nat := 0                   -- step of the MX.SEQ in progress; the bundle's other moves have retired (R175)
  seqOps : List SeqOps := []           -- the operands of those steps
  window : List Unretired := []
  waitUntil : Option Word := none      -- the time of a BR.WAITT .rel once issued (R320)
  stalls : List Nat := []              -- the buffers of the EMPTY lines that block unit queues (R117)
  ahead : Nat := 0                     -- executions decoded beyond one that waits (R171, R172)
  heads : List Nat := []               -- the bundle address at the head of each unit's queue, in the order of R156; [] : pc (R122)
  -- regions (R182 to R192)
  region : Option Region := none
  markAt : Nat := 0                    -- k.mark but its bit 0: the bundle that opened the latest region (R182)
  frozen : Bool := false
  closed : Bool := false               -- the execution in progress has closed the region that it found open (R185)
  reopen : Bool := false               -- a closing operation has issued: the next bundle opens a region (R185)
  opened : Bool := false               -- the region of the bundle at pc has been opened (R182)
  tags : Nat := 0
  held : List (Nat × Nat × Vec) := []  -- forward writes held: place in the execution, port (0 to 7: nx.0 to pv.3), value (R179)
  sent : List Nat := []                -- places of the same execution's forward writes already delivered
  sentAside : List Nat := []           -- those of the execution that a handler has interrupted
  remote : List RemoteLine := []       -- lines fetched for the execution in progress (R82, R358)
  visit : Nat := 0                     -- which execution that is: a fetch for an earlier one brings it nothing
  -- fences (R222, R223): the commands waited for, and the paths (R220) whose later accesses are held until they have ended
  fences : List (List Nat × BitVec 7) := []
  counters : Map (BitVec 32) := []     -- c0 to c15 (R204)
  -- matrix (R250, R350, R365, R381)
  tiles : Map Tile := []
  tids : Map (BitVec 256) := []        -- identifier copies
  mxNo : Nat := 0                      -- next operation number, modulo 2^32
  flight : List (Nat × Nat) := []      -- tiles in flight: tile, operation number
  reserved : List (Nat × Nat × Nat) := []  -- tiles reserved: tile, operation number, command
  -- storage
  handles : Map Handle := []
  spadChart : Chart := {}
  opdChart : Chart := {}
  vregChart : Chart := {}              -- nine physical vector banks of eight registers, eight logical (R197)
  tileChart : Chart := {}              -- sixteen tiles
  spad : Map Byte := []                -- by physical bank · 4,096 + byte; default 0
  opd : Map Byte := []                 -- by physical bank · 65,536 + byte; default 0
  spadLines : Map LineState := []      -- by byte address / 128; default full
  opdLines : Map LineState := []
  plans : Map PlanSlot := []
  deriving DecidableEq, Repr

/-! ## Waypoints, launches and dispatchers -/

/-- R126. States of a waypoint. -/
inductive WpState where
  | ready | running | suspended | preempted | faulted | done
  deriving DecidableEq, Repr

/-- R131, R132. An evacuated handle: its number, its handle, its bytes by offset and its line states by line. -/
structure Evacuated where
  number : Nat
  handle : Handle
  bytes : Map Byte
  lines : Map LineState
  deriving DecidableEq, Repr

/-- R188, R190. A fault waiting to be taken: code, k.trapi, the address and repetition it names, and whether RollBack
precedes it. -/
structure WpFault where
  code : BitVec 16
  info : Word
  addr : Nat
  handlerRun : Bool
  deriving DecidableEq, Repr

/-- R125. A waypoint record, with what the device keeps beside it: its parent, the times R141, R146 and R150 count from, its
context frame (R148: the core's state when it was saved), its evacuated handles, completions held while PREEMPTED (R149)
and a fault to be taken. Coordinates, ids and addresses are numbers; recordWords gives the record's words. -/
structure Waypoint where
  key : WpKey
  range : Bool := false
  evac : Bool := false
  rcount : Nat := 0
  resume : Nat
  level : Nat
  state : WpState := .ready
  prio : Nat
  aff : Nat := 0
  wait : Nat := 0
  hi : Nat
  lo : Nat
  anchorDie : Nat
  anchorCore : Nat
  pmask : BitVec 8 := 0#8
  join : BitVec 47 := 0#47
  sval : List Word := [0#64, 0#64, 0#64, 0#64]
  parent : Nat := 0
  holder : Nat := 0                    -- die whose dispatcher holds it
  readyAt : Nat := 0
  agedAt : Nat := 0
  pickedAt : Nat := 0
  leftAt : Nat := 0
  record : Nat := 0                    -- device physical address of the record (R124)
  frameAt : Option Nat := none         -- that of its context frame, where one exists (R126, R148)
  startCmd : Nat := 0                  -- the number of the first command issued since the last pick-up (R151)
  spilled : Bool := false              -- its entry stands in the spill queue (R142)
  start : Nat × List Word := (0, [])   -- RESUME and SVAL at the last pick-up (R151)
  startHandles : List Nat := []        -- pinned handles held at that pick-up
  frame : Option Core := none
  evacuated : List Evacuated := []
  heldDone : List (Nat × Nat) := []    -- counter, status of completions held
  fault : Option WpFault := none
  preempt : Bool := false              -- a pre-emption of it is pending
  urged : Bool := false                -- its present wait has caused a pre-emption (R146)
  deriving DecidableEq, Repr

/-- R109. A level word. -/
structure LevelWord where
  extent : Nat
  domain : Nat
  scope : Nat
  step : Bool
  chunk : Bool
  cidx : Nat
  rmask : BitVec 16
  deriving DecidableEq, Repr

/-- R112. A stream entry of the ring table, and its grant. -/
structure StreamReq where
  ring : RingId
  chain : Bool
  dir : Dir
  lane : Nat
  eqid : Nat
  pos : BitVec 64
  flags : List (BitVec 64)             -- FLAGS0 to FLAGS15
  id : Nat := 0                        -- stream id once granted
  deriving DecidableEq, Repr

/-- R45. A ring window: virtual base, length, home die and the local addresses of its 128-byte lines' pages. -/
structure RingWindow where
  base : Nat
  length : Nat
  die : Nat
  deriving DecidableEq, Repr

/-- R212. A step-region entry. -/
structure StepDecl where
  valid : Bool
  loc : Nat
  esize : Nat                          -- 4 or 8
  rule : Nat
  fxw : Bool
  exp : BitVec 16
  count : Nat
  base : Word
  deriving DecidableEq, Repr

/-- How a launch ends, where it is not by its waypoints (R114 to R119). -/
inductive Ending where
  | running | faulted | cancelled | aborted | dieOffline
  deriving DecidableEq, Repr

/-- R108 to R116. A live launch. -/
structure Launch where
  id : Nat
  queue : Nat
  record : Nat                         -- record index
  weight : Nat
  dies : BitVec 8
  rlimit : Nat
  resumeRule : Bool
  prio : Nat
  tag : Word
  asid : Nat
  ptroot : Nat
  entry : Nat
  traph : Nat
  compl : Nat
  hot : Nat
  tidt : Nat
  stept : Nat
  ringt : Nat
  chunkt : Nat
  acct : Nat
  opb : Nat
  vreg : Nat
  spb : Nat
  args : List Word
  levels : List LevelWord
  streams : List StreamReq
  windows : List RingWindow
  steps : List StepDecl := []          -- the 16 entries of STEPT
  granted : Bool := false
  sys : Bool := false                  -- created by Claolo (k.mode.SYS, R162)
  heldFor : List Nat := []             -- R26: the dies out of service for which it is held
  broken : List (Nat × Nat) := []      -- die, id of a stream with an entry armed there when the drain began (R29)
  ending : Ending := .running
  start : Word := 0#64
  fcode : Nat := 0
  fwaypt : Nat := 0
  faddr : Nat := 0
  nfault : Nat := 0
  nrelaunch : Nat := 0
  summary : BitVec 7 := 0#7
  nextWp : Nat := 1
  everFaulted : Bool := false
  deriving DecidableEq, Repr

/-- R26. Is a launch held? -/
def Launch.held (l : Launch) : Bool := !l.heldFor.isEmpty

/-- R140, R145, R154. A dispatcher: the current launch and its charge of each class, the time its last entry left, the attempts
at stealing since, the cluster under test, the next of the rotation with the period of the last selection, and those that a
machine check has sent to self-test. -/
structure Dispatcher where
  current : Map Nat := []
  charge : Map Nat := []
  emptySince : Nat := 0
  steals : Nat := 0
  underTest : Option Nat := none
  nextCluster : Nat := 0
  testPeriod : Nat := 0
  urgentTest : List Nat := []
  deriving DecidableEq, Repr

/-- R128. A registration at a word's home: the word, whether JOINW waits on it, the waypoint and the dispatcher named. -/
structure Waiter where
  dpa : Nat
  join : Bool
  wp : WpKey
  die : Nat
  deriving DecidableEq, Repr

/-- R214, R215. A contribution to a step region: element, rank, value, and its place in the order at the resolving point. -/
structure Contrib where
  elem : Nat
  rank : Nat
  value : Nat
  deriving DecidableEq, Repr

/-- R212 to R216. A step region: plane 1 is present, and the contributions of the step, oldest first. Key
launch · 128 + number (region number, and 16 · die for a region in a core's storage). -/
structure StepRegion where
  plane1 : Bool := false
  contribs : List Contrib := []
  deriving DecidableEq, Repr

/-- R405. A step group's barrier: generation, members arrived at STEP and at BAR, and the outcome of the last generation
for the members that have not yet retired it: overflow bits, and a trap. -/
structure Barrier where
  gen : Nat := 0
  atStep : List Nat := []
  atBar : List Nat := []
  release : List Nat := []             -- members that may pass the last generation
  ovf : BitVec 16 := 0#16
  trap : Option Trap := none
  mismatch : List Nat := []            -- members to take BARRIER_MISMATCH, with STEP issued
  deriving DecidableEq, Repr

/-! ## Rings -/

/-- R39. A slot. -/
structure Slot where
  payload : Payload := 0#2048
  exp : BitVec 16 := 0#16
  seq : BitVec 16 := 0#16
  stream : Nat := 0
  src : Nat := 0
  dst : Nat := 0
  mark : Nat := 0
  thr : Bool := false
  poison : Bool := false
  ovf : Bool := false
  len : Nat := 0
  ptype : Nat := 0
  cls : Nat := 0
  valid : Bool := false
  sand : BitVec 32 := 0#32
  crc : BitVec 32 := 0#32
  origin : Option Nat := none          -- Packet.origin of the packet that it carries; the model's own
  hops : Nat := 0                      -- hops made since training: its place and time (R37)
  integrity : Bool := false            -- discarded on the Equator (R81)
  reclaim : Bool := false              -- its position is being reclaimed (R43)
  deriving DecidableEq, Repr

/-- R51. A staged fragment: its bytes as a payload, its length in bytes, and whether it is poisoned. -/
structure Fragment where
  bytes : Payload
  poison : Bool
  deriving DecidableEq, Repr

/-- R46, R47. An Almanac entry with its firing count, status so far and staged fragment, the launch whose handles and windows
it names, and for a chunk of a collective call its core, plan slot and chunk (R413). -/
structure AlmEntry where
  word : Word := 0#64
  n : Nat := 0
  status : Nat := 0
  staged : Option Fragment := none
  launch : Nat := 0
  chunk : Option (Nat × Nat × Nat) := none
  deriving DecidableEq, Repr

/-- R58. A station flag. -/
structure Flag where
  set : Bool := false
  status : Nat := 0
  deriving DecidableEq, Repr

/-- R44. A stream-table row. -/
structure StreamRow where
  exp : BitVec 16 := 0#16
  cvt : Bool := false
  deriving DecidableEq, Repr

/-- R386. A packet that waits at a station, travels in a slot or has been taken; `src` is where a WRITE's or ACC's data is
read when it is injected. -/
structure Packet where
  kind : Nat
  agent : Nat
  seq : BitVec 32
  status : Nat := 0
  stepw : Bool := false
  fwd : Bool := false
  retry : Bool := false
  one : Bool := false
  dlen : Nat := 0
  pkg : Nat := 0
  paddr : Nat := 0
  opa : Word := 0#64
  opb : Word := 0#64
  data : BitVec 1024 := 0#1024
  origin : Option Nat := none          -- the package of a requester on another package; the model's own
  deriving DecidableEq, Repr

/-- R60, R63. A packet waiting at a station for a slot, since which ring clock. -/
structure Waiting where
  station : Nat
  dst : Nat
  pkt : Packet
  late : Option (Nat × Piece) := none  -- command and piece whose source is read at injection
  since : Nat := 0
  deriving DecidableEq, Repr

/-- One station of the Meridian (0 to 15), or the Equator station (16). Entries by dir · 512 + lane · 64 + position; lanes of
R63 by dir · 8 + lane. -/
structure Station where
  almanac : Map AlmEntry := []
  flags : Map Flag := []
  rows : Map StreamRow := []           -- by stream id
  passThrough : Bool := false
  ownerSkip : Nat := 0
  crcDiscard : Nat := 0
  format : Nat := 0
  throttle : Nat := 0
  starving : List Nat := []            -- lanes on which it is to mark the next full slot (R63)
  marks : List Nat := []               -- lanes on which a mark of its own is out (R63)
  deriving DecidableEq, Repr

/-- R41, R68. Owner of a position. -/
structure Owner where
  cls : Nat := 0
  stream : Nat := 0
  deriving DecidableEq, Repr

/-- R406, R407, R412. A control token on a ring: its kind, the key of its group (a step group, or GROUP), the station that
first sent it, its contents, the copy number, the parties that merged this copy (waypoint ids of a barrier, core numbers of a
call), those that acted on its outcome, and the parties of other packages that merged. COUNT of a barrier token is its
generation. -/
structure Token where
  kind : Nat
  key : GroupKey := ⟨0, 0, 0⟩
  group : Nat := 0
  equator : Bool := false
  origin : Nat
  seq : BitVec 16 := 0#16
  op : Nat := 0
  ty : Nat := 0
  nparty : Nat := 0
  arrived : List Nat := []
  acted : List Nat := []
  others : Nat := 0
  count : Nat := 0
  em : Int := -126
  e : Int := 0
  prog : Nat := 65535
  res : Bool := false
  mismatch : Bool := false
  copy : Nat := 0
  lost : Bool := false                 -- the present copy was discarded on its way (R66)
  sentAt : Nat := 0                    -- ring clock of the present copy (R407)
  deriving DecidableEq, Repr

/-! ## Engines, homes and memory -/

/-- R225, R382. A request without a response: its number, its command, the piece it serves, when it was sent and whether it
was reissued. -/
structure Req where
  seq : BitVec 32
  cmd : Nat
  pkt : Packet
  dst : Nat
  piece : Option Piece := none
  sentAt : Nat := 0
  reissued : Bool := false
  deriving DecidableEq, Repr

/-- R207. A cached leaf translation: address space, level (2 16 GiB, 3 32 MiB, 4 64 KiB), page base and entry. -/
structure TlbEntry where
  asid : Nat
  level : Nat
  page : Nat
  entry : Word
  deriving DecidableEq, Repr

/-- R117. A hotness set: launch, buffer, bytes moved and stall ticks. -/
structure HotSet where
  launch : Nat
  buf : Nat
  bytes : Nat
  ticks : Nat
  deriving DecidableEq, Repr

/-- R209, R210. A region-table entry that takes part. -/
structure RegionEntry where
  base : Nat
  limit : Nat
  lbase : Nat
  dset : Nat
  slog2 : Nat
  mode : Nat
  deriving DecidableEq, Repr

/-- A copy engine, die · 8 + cluster. -/
structure Engine where
  nextSeq : BitVec 32 := 0#32
  reqs : List Req := []
  tlb : List TlbEntry := []
  regions : List (Nat × Nat × RegionEntry) := []  -- region-table entries cached (R207): address space, number, entry
  hot : List HotSet := []
  tokens : List (Nat × BitVec 32) := []
  deriving DecidableEq, Repr

/-- R226. What a home keeps for a requester sequence number: the old value of an atomic, or a refusal mark. -/
structure AtomRecord where
  agent : Nat
  seq : BitVec 32
  result : Option Word
  deriving DecidableEq, Repr

/-- R230. A migration: the page entry's address, the old page (die, local address), its size, the new die and local address, the
PLC, the line at the migration pointer, and the command that asked. -/
structure Migration where
  entryAt : Nat
  oldDie : Nat
  oldL : Nat
  size : Nat
  newDie : Nat
  newL : Nat
  newPlc : Nat
  ptr : Nat
  cmd : Nat
  deriving DecidableEq, Repr

/-- R207, R230. A forwarding record of an old frame: its placement address and local address, and where it went. -/
structure Forwarding where
  oldPa : Nat
  oldL : Nat
  size : Nat
  newDie : Nat
  newL : Nat
  deriving DecidableEq, Repr

/-- R211. A numbered store at the anchor: its number, its packet, the station and the answer of the requester, the replicas that
have not applied it and those that have not acknowledged it. -/
structure Mcast where
  no : Nat
  pkt : Packet
  dst : Nat
  reply : Packet
  left : List Nat
  owed : List Nat
  deriving DecidableEq, Repr

/-- R225. A chunk fetch that a home has served: requester, number, start and length. -/
structure CfaRecord where
  agent : Nat
  seq : BitVec 32
  start : Nat
  len : Nat
  deriving DecidableEq, Repr

/-- A memory die's home and near-memory unit. Requesters are numbered as `requesterKey` numbers them. -/
structure Home where
  online : Bool := true
  atoms : List AtomRecord := []
  seen : List (Nat × BitVec 32) := []  -- stores and fetches applied, by requester and number (R225)
  queues : List (Nat × Nat) := []      -- producer index words registered: address, queue (R105)
  waiters : List Waiter := []
  migrations : List Migration := []
  forwarding : List Forwarding := []
  cfaDone : List CfaRecord := []       -- chunk fetches served (R225)
  mcastNo : Nat := 0
  mcasts : List Mcast := []            -- stores that not every replica has acknowledged (R211)
  cacheChart : Chart := {}             -- 200 physical banks of the memory-side cache, 192 logical (R197)
  dramCorrected : Nat := 0             -- corrected errors of the stack's DRAM (R15)
  held : List Nat := []                -- lines that the snoop filter marks as possibly held by the host (R101)
  snoops : List Nat := []              -- lines with a BISnp out
  deriving DecidableEq, Repr

/-- R129. A join decrement on its way. -/
structure JoinDec where
  dpa : Nat
  launch : Nat
  wpid : Nat
  core : Nat
  deriving DecidableEq, Repr

/-! ## Host, management and trust domain -/

/-- R104. A launch queue's registers, and what the launch unit knows of its producer index. -/
structure Queue where
  base : Word := 0#64
  paddr : Word := 0#64
  caddr : Word := 0#64
  en : Bool := false
  overrun : Bool := false
  ien : Bool := false
  pcap : BitVec 2 := 0#2
  size : BitVec 5 := 0#5
  cidx : BitVec 32 := 0#32
  pidx : Option (BitVec 32) := none    -- last producer index read
  reading : Bool := false
  again : Bool := false
  deriving DecidableEq, Repr

/-- R123, R430. An error-log entry; DETAIL as a number, byte 32 of the entry lowest. -/
structure LogEntry where
  time : Nat
  cls : Nat
  die : Nat
  unit : Nat
  code : Nat
  addr : Nat
  launch : Nat
  index : Nat
  detail : Nat
  deriving DecidableEq, Repr

/-- R33, R122. What a Sighting latched, by die, block kind, block index and word: (((die · 8) + kind) · 64 + index) · 512
+ word. -/
abbrev Snapshot := Map Word

/-- R120, R121. A mailbox command that has been started by GO, with its opcode and LEN, or one that takes time. -/
inductive Mailing where
  | none | go (op len : Nat) | advance | fwCommit
  deriving DecidableEq, Repr

/-- R25 to R31. A DIE_CMD command in progress; of a drain whether step 3 has ended. -/
inductive DieJob where
  | none | drain (n : Nat) (moved : Bool) | reset (n : Nat) | ret (n : Nat) | retireM (n : Nat) | returnM (n : Nat) | resetM (n : Nat)
  deriving DecidableEq, Repr

/-- The management processor's state and registers. -/
structure Mgmt where
  reason : Nat := 0x01
  stage : Nat := 0x00
  devState : Nat := 1                  -- 1 HARBOUR, 2 ADVANCING, 3 UNDERWAY
  autoHeld : Bool := false
  resetAsserted : Bool := true         -- fundamental reset is asserted (R20)
  cdrain : BitVec 8 := 0#8
  msvc : BitVec 8 := 0xFF#8
  csvc : BitVec 8 := 0#8
  retired : BitVec 8 := 0#8            -- memory dies retired by RETIRE_M (R24)
  dieCmd : Nat := 0
  dieIdx : Nat := 0
  dieStatus : Nat := 0
  job : DieJob := .none
  tested : BitVec 8 := 0#8             -- dies that passed stage 0x03 of the last advance (R22)
  resetDone : BitVec 8 := 0#8          -- dies whose last RESET_C reported DONE (R29)
  untrained : BitVec 8 := 0#8          -- memory stacks that failed stage 0x02 or a RESET_M since (R22, R31)
  contexts : Map Nat := []             -- PTROOT of every context that a record has named, by ASID (R30)
  supplyOut : Bool := false
  supplySince : Nat := 0
  powerCap : Nat := 3600
  clocks : Map Nat := []               -- core clock of die n in MHz; default 2,100
  stInterval : Nat := 20
  staged : List (Nat × Byte) := []
  verified : Bool := false
  image : List (Nat × Byte) := []      -- the verified image that serves the next advance, RESET_C and RESET_M (R28, R121)
  running : List (Nat × Byte) := []    -- the image that the last advance verified and runs (R21)
  microcode : Map (List (Nat × Byte)) := []  -- the image whose microcode die n (R122's numbers) has loaded (R28, R31); default []
  armed : Bool := true
  mchkEn : Bool := true
  cmpEn : Bool := false
  sgtTime : Word := 0#64
  missed : Nat := 0
  valid : Bool := false
  cause : Nat := 0
  sgtLatch : Word := 0#64
  pendingSgt : Option (Nat × Nat) := none
  sgtDone : List Nat := []             -- dies that have latched the pending Sighting (R33)
  snapshot : Snapshot := []
  log : List LogEntry := []
  logNext : Nat := 0
  logLost : Nat := 0
  tlbPage : BitVec 36 := 0#36
  tlbBusy : Bool := false
  tlbScope : Nat := 0
  tlbAsid : BitVec 16 := 0#16
  tlbWait : List (Nat × BitVec 32) := []   -- engine and number of the requests in progress at GO
  mbOpcode : Nat := 0
  mbLen : Nat := 0
  mbOlen : Nat := 0
  mbStatus : Nat := 0
  mbData : Map Byte := []
  mailing : Mailing := .none
  leaving : Option Nat := none         -- REASON of a return to Harbour that waits for live launches to complete (R119)
  deriving DecidableEq, Repr

/-- R84 to R88. An SPDM session with a peer, in the order of R84: how far it has come, what the peer presented, and the
export master secret. -/
structure Session where
  peer : Nat
  stage : Nat := 0                     -- messages of R84 accepted so far
  root : BitVec 512 := 0#512
  summary : BitVec 512 := 0#512
  mutualAuth : Bool := false
  secret : BitVec 512 := 0#512
  up : Bool := false
  missed : Nat := 0
  policyRoot : Option (BitVec 512) := none  -- the admission policy when it was opened (R86)
  policyList : List (BitVec 512) := []
  deriving DecidableEq, Repr

/-- R91, R92. A re-key: members and epoch it installs, and its pass at this package. -/
structure Rekeying where
  leader : Nat
  epoch : BitVec 32
  members : BitVec 64
  ring : BitVec 64 := 0#64             -- the packages that its tokens go round
  pass : Nat                           -- 1 REKEY taken, 2 forwarded, 3 KEYED taken, 4 forwarded, 5 the leader's RESUME sent
  since : Nat
  deriving DecidableEq, Repr

/-- R83. An outstanding Equator request of this package. -/
structure EqReq where
  pkg : Nat
  agent : Nat
  seq : BitVec 32
  atomic : Bool
  sentAt : Nat
  deriving DecidableEq, Repr

/-- R100. The device-to-host requests of CXL.cache: RdShared of the launch unit, RdCurr and WrInv of the copy engines, and ItoMWr. -/
inductive CxlKind where
  | rdShared | rdCurr | wrInv | itoMWr
  deriving DecidableEq, Repr

/-- What leaves the package: an MSI-X vector, a configuration or CXL.mem answer, a slot for the next package, an SPDM
message, a control token, a snoop of the host, a CXL.cache request (log 12). -/
inductive OutMsg where
  | msix (v : Nat)
  | answer (value : BitVec 512)
  | answerPoison                       -- a host read of a poisoned word (R15)
  | eqSlot (dir : Dir) (lane pos : Nat) (slot : SealedSlot)
  | spdm (peer : Nat) (msg : SpdmMsg)
  | token (kind : Nat) (leader : BitVec 6) (epoch : BitVec 32) (members : BitVec 64)
  | snoop (line : Nat)
  | cxlCache (agent : Nat) (kind : CxlKind) (hpa : Nat) (value : BitVec 1024)
  | hostWrite (kind : CxlKind) (addr : Nat) (bytes : List Byte)  -- a store of the launch unit to host memory
  deriving DecidableEq, Repr

/-- The Equator station's trust-domain state and Binnacle. -/
structure Equator where
  pkg : Nat := 0
  leader : Nat := 0
  count : Nat := 0
  ksb : Bool := false                  -- active send key slot is B
  dstate : Nat := 0
  link : Bool := false
  epoch : BitVec 32 := 0#32
  members : BitVec 64 := 0#64
  qE : Nat := 0
  qW : Nat := 0
  ehop : Map Nat := []
  whop : Map Nat := []
  tmo : BitVec 32 := 0x30D40#32
  tagFail : Map Nat := []
  gap : Map Nat := []
  replay : Map Nat := []
  late : Map Nat := []
  thr3 : Nat := 0x100
  thr2 : Nat := 0x10
  level : Nat := 0
  discards : List (Nat × Nat) := []    -- (time, peer) of the discards of the last second (R96)
  owners : Map (BitVec 32) := []       -- ownership table as EQ_OWNERSHIP lays it out
  keys : Map (BitVec 256) := []        -- by slot · 4,096 + i · 64 + j; a pair not listed has no key
  send : Map Nat := []                 -- send counters by key slot and channel
  expected : Map Nat := []
  sessions : List Session := []
  policyRoot : Option (BitVec 512) := none
  policyList : List (BitVec 512) := []
  requests : List EqReq := []
  waitingCmds : List Packet := []
  rekey : Option Rekeying := none
  queued : List (BitVec 64 × BitVec 64) := []  -- re-keys to come: the packages that join and those that leave (R91)
  joining : Bool := false
  ideKeys : List Nat := []
  linkShut : Bool := false             -- the host link carries only configuration traffic (R102)
  linkHeld : List OutMsg := []         -- what it is to carry once IDE is set up again
  deriving DecidableEq, Repr

/-- R100. A device-to-host request without an answer. -/
structure CxlReq where
  agent : Nat
  seq : BitVec 32
  hpa : Nat
  kind : CxlKind
  deriving DecidableEq, Repr

/-- An entry of the agenda: the Chronometer ticks that pass before the step, the step (none: the device's own next step),
and its argument. The model's own (log 1, log 2). -/
structure Agendum where
  ticks : Nat := 1
  what : Option Instr := none
  arg : Arg := {}
  deriving DecidableEq, Repr

/-! ## The package -/

/-- The state of one package. -/
structure State where
  -- the model's own
  agenda : List Agendum := []
  arg : Arg := {}
  cur : Nat := 0                       -- the core whose moves exec runs (die · 48 + core)
  out : List OutMsg := []
  -- time (R17)
  chron : Nat := 0                     -- the source, modulo 2^64
  skew : Map Int := []                 -- offset of the copy of die n (R122's numbers, 0 to 15), −2 to 2; default 0
  chronFloor : Map Nat := []           -- what the copy of die n read when its offset last changed; default 0
  clocks : Map Nat := []               -- thousandths of core clocks of compute die n since its reset (R19); default 0
  -- parts
  mgmt : Mgmt := {}
  eq : Equator := {}
  queues : Map Queue := []
  rrQueue : Nat := 0
  nextLaunch : Nat := 1
  launches : List Launch := []         -- live launches in acceptance order
  waypoints : List Waypoint := []      -- in the order of creation
  disps : Map Dispatcher := []
  barriers : List (GroupKey × Barrier) := []
  regions : Map StepRegion := []
  cores : Map Core := []               -- by die · 48 + core
  engines : Map Engine := []
  cmds : List Cmd := []
  nextCmd : Nat := 0
  ring : Nat := 0                      -- ring clocks since Meridian training that the slots' passes have come to (R37)
  slots : Map Slot := []               -- by dir · 512 + lane · 64 + position
  reclaiming : List StreamReq := []    -- streams that have ended whose flags are still to be cleared (R43)
  owners : Map Owner := []             -- Meridian ownership table, same key; default as R41 gives it
  stations : Map Station := []
  waiting : List Waiting := []         -- best-effort packets waiting at stations
  inbox : List (Nat × Packet) := []    -- packets taken at a station, not yet served
  tokens : List Token := []
  homes : Map Home := []
  joinDecs : List JoinDec := []
  mem : List Host.Cell := []           -- DRAM by device physical address; default 0
  poisoned : List Nat := []            -- device physical addresses / 8 of poisoned words, rising
  hostMem : List Host.Cell := []       -- host memory by host physical address; default 0
  cxlReqs : List CxlReq := []
  deriving DecidableEq, Repr

/-- The package right after its power-on reset (R17, R20, R23): Harbour with REASON POWER_ON, nothing placed. -/
def State.reset : State := {}

end Sys2Proof.Machine
end

