-- ==== Sys2Proof/Machine/Storage.lean ====
section
/-! DEFINITION. Named places of the state and the bytes they hold: memories in canonical form, cores, launches, waypoints, the
Chart, and the bytes and line states of handles (R15, R196 to R203). -/
namespace Sys2Proof.Machine

/-! ## Memories: lists of cells, an unlisted address reading 0 (log 6) -/

/-- One byte. -/
def readByte (m : List Host.Cell) (a : Nat) : Byte := Map.get m a 0#8
/-- One byte written; a zero byte is not listed. -/
def writeByte (m : List Host.Cell) (a : Nat) (b : Byte) : List Host.Cell :=
  if b = 0#8 then Map.erase m a else Map.set m a b
/-- Bytes in ascending order from a. -/
def writeBytes (m : List Host.Cell) (a : Nat) : List Byte → List Host.Cell
  | [] => m
  | b :: bs => writeBytes (writeByte m a b) (a + 1) bs
/-- n bytes from a. -/
def readBytes (m : List Host.Cell) (a n : Nat) : List Byte := (List.range n).map fun i => readByte m (a + i)
/-- The bytes of an address range set to zero. -/
def zeroRange (m : List Host.Cell) (a n : Nat) : List Host.Cell := Map.clearRange m a (a + n)

/-- Addresses strictly rising from a bound. -/
def risingFrom (lo : Nat) : List Host.Cell → Bool
  | [] => true
  | (a, _) :: t => lo ≤ a && risingFrom (a + 1) t
/-- The canonical form of a memory: addresses strictly rising, no cell holding the unlisted value. -/
def Memory.wf (m : List Host.Cell) : Bool := risingFrom 0 m && m.all fun c => c.2 ≠ 0#8

/-! ## Cores, launches, waypoints -/

/-- The core with package number c = die · 48 + core. -/
def coreOf (s : State) (c : Nat) : Core := Map.get s.cores c {}
/-- The state with core c replaced. -/
def setCore (s : State) (c : Nat) (k : Core) : State := { s with cores := Map.set s.cores c k }
/-- The state with core c changed by f. -/
def modCore (s : State) (c : Nat) (f : Core → Core) : State := setCore s c (f (coreOf s c))

/-- Compute die of a core. -/
def dieOf (c : Nat) : Nat := c / 48
/-- R161. k.core. -/
def coreNo (c : Nat) : Nat := c % 48
/-- R161. k.clus, within the die. -/
def clusterOf (c : Nat) : Nat := c % 48 / 6
/-- The copy engine of a core: die · 8 + cluster. -/
def engineOf (c : Nat) : Nat := dieOf c * 8 + clusterOf c
/-- The cores of an engine. -/
def coresOfEngine (e : Nat) : List Nat := span (e / 8 * 48 + e % 8 * 6) 6

def engine (s : State) (e : Nat) : Engine := Map.get s.engines e {}
def modEngine (s : State) (e : Nat) (f : Engine → Engine) : State :=
  { s with engines := Map.set s.engines e (f (engine s e)) }
def home (s : State) (d : Nat) : Home := Map.get s.homes d {}
def modHome (s : State) (d : Nat) (f : Home → Home) : State := { s with homes := Map.set s.homes d (f (home s d)) }
def station (s : State) (k : Nat) : Station := Map.get s.stations k {}
def modStation (s : State) (k : Nat) (f : Station → Station) : State :=
  { s with stations := Map.set s.stations k (f (station s k)) }
def disp (s : State) (d : Nat) : Dispatcher := Map.get s.disps d {}
def modDisp (s : State) (d : Nat) (f : Dispatcher → Dispatcher) : State :=
  { s with disps := Map.set s.disps d (f (disp s d)) }
def queueOf (s : State) (q : Nat) : Queue := Map.get s.queues q {}
def modQueue (s : State) (q : Nat) (f : Queue → Queue) : State :=
  { s with queues := Map.set s.queues q (f (queueOf s q)) }

/-- The fields of no launch: what a core without a waypoint has. -/
def noLaunch : Launch :=
  { id := 0, queue := 0, record := 0, weight := 1, dies := 0#8, rlimit := 0, resumeRule := false, prio := 0, tag := 0#64,
    asid := 0, ptroot := 0, entry := 0, traph := 0, compl := 0, hot := 0, tidt := 0, stept := 0, ringt := 0, chunkt := 0, acct := 0,
    opb := 0, vreg := 0, spb := 0, args := [], levels := [], streams := [], windows := [] }

def findLaunch (s : State) (l : Nat) : Option Launch := s.launches.find? fun x => x.id = l
def launchOf (s : State) (l : Nat) : Launch := (findLaunch s l).getD noLaunch
def modLaunch (s : State) (l : Nat) (f : Launch → Launch) : State :=
  { s with launches := s.launches.map fun x => if x.id = l then f x else x }
/-- The launch that core c runs. -/
def coreLaunch (s : State) (c : Nat) : Launch := launchOf s (coreOf s c).wp.launch

def findWp (s : State) (k : WpKey) : Option Waypoint := s.waypoints.find? fun w => w.key = k
def modWp (s : State) (k : WpKey) (f : Waypoint → Waypoint) : State :=
  { s with waypoints := s.waypoints.map fun w => if w.key = k then f w else w }

/-- R126. Does core c run a waypoint? -/
def runningOn (s : State) (c : Nat) : Option Waypoint :=
  if (coreOf s c).mode = .idle then none else findWp s (coreOf s c).wp

/-- R23, R119. Does the device serve launches: Underway, and no return to Harbour begun? -/
def underway (s : State) : Bool := s.mgmt.devState = 3 && s.mgmt.leaving.isNone

/-! ## Time (R17, R19) -/

/-- The Chronometer source. -/
def chronNow (s : State) : Word := BitVec.ofNat 64 s.chron
/-- R17. What the copy of die d reads, not reduced: zero at the end of power-on reset and never below zero, and never less than it
has read before its offset changed. The I/O die (16) has the source. -/
def copyOf (s : State) (d : Nat) : Nat :=
  if s.chron = 0 then 0 else max (Map.get s.chronFloor d 0) ((s.chron : Int) + Map.get s.skew d 0).toNat
/-- k.chron of compute die d. -/
def chronOf (s : State) (d : Nat) : Word := BitVec.ofNat 64 (copyOf s d)
/-- R35. Core clock of die d in MHz. -/
def clockOf (s : State) (d : Nat) : Nat := Map.get s.mgmt.clocks d 2100
/-- k.cyc of the cores of die d. -/
def cycOf (s : State) (d : Nat) : Word := BitVec.ofNat 64 (Map.get s.clocks d 0 / 1000)
/-- The passing of t Chronometer ticks: the source and every die's core clocks advance. -/
def passTime (s : State) (t : Nat) : State :=
  if t = 0 then s
  else { s with chron := s.chron + t,
                clocks := (List.range 8).foldl (fun m d => Map.update m d 0 (· + t * clockOf s d)) s.clocks }

/-! ## The Chart (R197 to R200) -/

def chartOf (k : Core) (l : Level) : Chart :=
  match l with
  | .spad => k.spadChart
  | .opd => k.opdChart
def setChart (k : Core) (l : Level) (ch : Chart) : Core :=
  match l with
  | .spad => { k with spadChart := ch }
  | .opd => { k with opdChart := ch }

/-- R196. Bytes of a bank. -/
def bankBytes (l : Level) : Nat :=
  match l with
  | .spad => 4096
  | .opd => 65536
/-- R197. Logical and physical banks. -/
def logicalBanks (l : Level) : Nat :=
  match l with
  | .spad => Config.spadLogical
  | .opd => Config.opdLogical
def physicalBanks (l : Level) : Nat :=
  match l with
  | .spad => Config.spadPhysical
  | .opd => Config.opdPhysical

/-- The physical bank of logical bank b, which reads as b where the map lists nothing (log 8). -/
def Chart.phys (ch : Chart) (b : Nat) : Nat := Map.get ch.map b b
/-- R200. The physical bank in which line `line` of logical bank b is accessed: behind a migration pointer, the target. -/
def Chart.physAt (ch : Chart) (b line : Nat) : Nat :=
  match ch.evacs.find? fun e => e.logical = b with
  | some e => if line < e.ptr then e.dst else e.src
  | none => ch.phys b

/-- R197, R199. The banks in service of a level: mapped logical banks less retirements owed, and less those that were owed and
whose target is not yet unmapped. -/
def capacity (k : Core) (l : Level) : Nat :=
  if k.quarantined then 0
  else
    let ch := chartOf k l
    logicalBanks l - ch.unmapped.length - ch.owed.length - (ch.evacs.filter fun e => e.unmap.isSome && !e.fall).length
/-- R197. k.capv: eight registers for each vector bank in service. -/
def capVreg (k : Core) : Nat := if k.quarantined then 0 else 8 * (Config.vregLogical - k.vregChart.unmapped.length)
/-- R197. k.capa: the tiles in service. -/
def capTiles (k : Core) : Nat := if k.quarantined then 0 else Config.tileBanks - k.tileChart.unmapped.length

/-- Logical banks that handles of a core hold at a level. -/
def heldBanks (k : Core) (l : Level) : List Nat :=
  (k.handles.filter fun h => h.2.level = l).flatMap fun h => h.2.banks
/-- R199. Logical banks chosen as the target of an evacuation and to be unmapped at its flip. -/
def reservedBanks (ch : Chart) : List Nat := ch.evacs.filterMap fun e => e.unmap
/-- Logical banks mapped, unheld and not reserved. -/
def freeBanks (k : Core) (l : Level) : List Nat :=
  let ch := chartOf k l
  let used := heldBanks k l ++ ch.unmapped ++ reservedBanks ch
  (List.range (logicalBanks l)).filter fun b => !used.contains b

/-! ## Handles, their bytes and their lines (R196, R202, R203) -/

/-- R196. Row pitch and size of a shape. -/
def pitchOf (ty cols : Nat) : Nat := ceilDiv (cols * typeBits ty) 1024 * 128
def Handle.pitch (h : Handle) : Nat := pitchOf h.ty.toNat h.cols
def Handle.size (h : Handle) : Nat := h.rows * h.pitch

def handleOf (s : State) (c h : Nat) : Option Handle := Map.find (coreOf s c).handles h

/-- The byte number, in the storage of its level, of byte o of a handle (R196, R200). -/
def handleByte (k : Core) (h : Handle) (o : Nat) : Nat :=
  let b := h.banks.getD (o / bankBytes h.level) 0
  let r := o % bankBytes h.level
  (chartOf k h.level).physAt b (r / 128) * bankBytes h.level + r

def storage (k : Core) (l : Level) : List Host.Cell :=
  match l with
  | .spad => k.spad
  | .opd => k.opd
def setStorage (k : Core) (l : Level) (m : List Host.Cell) : Core :=
  match l with
  | .spad => { k with spad := m }
  | .opd => { k with opd := m }
def lineStates (k : Core) (l : Level) : Map LineState :=
  match l with
  | .spad => k.spadLines
  | .opd => k.opdLines
def setLineStates (k : Core) (l : Level) (m : Map LineState) : Core :=
  match l with
  | .spad => { k with spadLines := m }
  | .opd => { k with opdLines := m }

/-- Bytes off to off + n − 1 of handle h of core k. -/
def handleBytes (k : Core) (h : Handle) (off n : Nat) : List Byte :=
  (span off n).map fun o => readByte (storage k h.level) (handleByte k h o)

/-- The state of line `line` of a handle. -/
def lineState (k : Core) (h : Handle) (line : Nat) : LineState :=
  Map.get (lineStates k h.level) (handleByte k h (128 * line) / 128) .full
/-- The state of a handle's line set; FULL lines are not listed. -/
def setLine (k : Core) (h : Handle) (line : Nat) (st : LineState) : Core :=
  let a := handleByte k h (128 * line) / 128
  let m := lineStates k h.level
  setLineStates k h.level (if st = .full then Map.erase m a else Map.set m a st)

/-- The lines that bytes off to off + n − 1 touch. -/
def linesOf (off n : Nat) : List Nat := if n = 0 then [] else span (off / 128) ((off + n - 1) / 128 - off / 128 + 1)

/-- R203. Some line of a range is EMPTY. -/
def anyEmpty (k : Core) (h : Handle) (off n : Nat) : Bool := (linesOf off n).any fun l => lineState k h l = .empty
/-- R203. The first POISON line of a range. -/
def firstPoison (k : Core) (h : Handle) (off n : Nat) : Option Nat :=
  (linesOf off n).find? fun l => lineState k h l = .poison

/-- Bytes of a handle written, line states untouched. -/
def putBytes (k : Core) (h : Handle) : List (Nat × Byte) → Core
  | [] => k
  | (o, b) :: t =>
    putBytes (setStorage k h.level (writeByte (storage k h.level) (handleByte k h o) b)) h t

/-- R202. The state of a line after a store that covers all of it or part of it. -/
def lineAfterStore (st : LineState) (whole : Bool) : LineState :=
  if whole then .full
  else match st with
    | .poison => .poison
    | _ => .full

/-- R202. A store of bytes, by offset in the handle: the bytes and the states of the lines they touch. -/
def storeHandle (k : Core) (h : Handle) (bytes : List (Nat × Byte)) : Core :=
  let k1 := putBytes k h bytes
  let lines := dedup (bytes.map fun b => b.1 / 128)
  lines.foldl (fun k l =>
    setLine k h l (lineAfterStore (lineState k h l) ((bytes.filter fun b => b.1 / 128 = l).length = 128))) k1

/-- Bytes in ascending order from off, as offsets with bytes. -/
def atOffset (off : Nat) (bs : List Byte) : List (Nat × Byte) := (span off bs.length).zip bs

/-! ## Device and host memory -/

/-- R208. Device physical addresses run from die 0's first local address to die 7's last. -/
def dpaExists (a : Nat) : Bool := a < 8 * Config.dieSpan
/-- R208. Memory die and local address of a device physical address. -/
def dpaDie (a : Nat) : Nat := a / Config.dieSpan
def dpaLocal (a : Nat) : Nat := a % Config.dieSpan
def dpaOf (d l : Nat) : Nat := d * Config.dieSpan + l
/-- R101. The reserved area of every stack. -/
def inReserved (a : Nat) : Bool := Config.reservedBase ≤ dpaLocal a

/-- R15. Some protected word that a read of n bytes touches is poisoned. -/
def poisonIn (s : State) (a n : Nat) : Bool := s.poisoned.any fun w => a < 8 * w + 8 && 8 * w < a + n
/-- R15. The poisoned words after a store of n bytes at a: those wholly covered are clean. -/
def unpoison (ws : List Nat) (a n : Nat) : List Nat := ws.filter fun w => decide (8 * w < a ∨ a + n < 8 * w + 8)
/-- A word added to a rising list of numbers. -/
def addWord (w : Nat) : List Nat → List Nat
  | [] => [w]
  | x :: t => if w < x then w :: x :: t else if w = x then x :: t else x :: addWord w t
/-- R50. The words of n bytes at a poisoned. -/
def poisonRange (s : State) (a n : Nat) : State :=
  if n = 0 then s
  else { s with poisoned := (span (a / 8) ((a + n - 1) / 8 - a / 8 + 1)).foldl (fun ws w => addWord w ws) s.poisoned }

/-- n bytes of DRAM. -/
def dramBytes (s : State) (a n : Nat) : List Byte := readBytes s.mem a n
def dramNat (s : State) (a n : Nat) : Nat := ofBytes (dramBytes s a n)
/-- R15. n bytes of DRAM as a unit sees them to which the spec gives no fate for a POISONED read: the bytes of a poisoned word are
free (log 52). -/
def seenBytes (s : State) (a n : Nat) : List Byte :=
  if poisonIn s a n then (span a n).map fun i => if poisonIn s i 1 then Config.poisonByte i s.chron else readByte s.mem i
  else dramBytes s a n
def seenNat (s : State) (a n : Nat) : Nat := ofBytes (seenBytes s a n)
/-- R15. Bytes stored to DRAM, nothing else. -/
def putDram (s : State) (a : Nat) (bs : List Byte) : State :=
  { s with mem := writeBytes s.mem a bs, poisoned := unpoison s.poisoned a bs.length }

/-- Steps queued for the agenda, behind what stands there. -/
def enqueue (s : State) (i : Instr) (arg : Arg) : State :=
  { s with agenda := s.agenda ++ [{ ticks := 0, what := some i, arg := arg }] }
/-- A message to the outside. -/
def emit (s : State) (m : OutMsg) : State := { s with out := s.out ++ [m] }
/-- R102. A message of CXL.cache or CXL.mem to the host: it waits while the link carries only configuration traffic. -/
def emitLink (s : State) (m : OutMsg) : State :=
  if s.eq.linkShut then { s with eq := { s.eq with linkHeld := s.eq.linkHeld ++ [m] } } else emit s m

/-! ## The error log (R103, R123, R430) -/

/-- An entry added: the oldest of 4,096 is overwritten, and vector 65 is sent. -/
def logEvent (s : State) (cls die unit code addr launch detail : Nat) : State :=
  let e : LogEntry :=
    { time := s.chron % 2 ^ 64, cls := cls, die := die, unit := unit, code := code, addr := addr, launch := launch,
      index := s.mgmt.logNext % 2 ^ 32, detail := detail }
  let full := s.mgmt.log.length ≥ 4096
  let log := (if full then s.mgmt.log.drop 1 else s.mgmt.log) ++ [e]
  emit { s with mgmt := { s.mgmt with
    log := log, logNext := s.mgmt.logNext + 1, logLost := if full then s.mgmt.logLost + 1 else s.mgmt.logLost } }
    (.msix 65)

end Sys2Proof.Machine
end

