-- ==== Sys2Proof/Machine/Address.lean ====
section
/-! DEFINITION. Translation of virtual addresses, homes and region tables (R205 to R211, R230). -/
namespace Sys2Proof.Machine

/-- R205. The fields of a page entry. -/
def ptePlc (e : Nat) : Nat := field e 60 4
def pteTgt (e : Nat) : Nat := field e 58 2
def ptePkg (e : Nat) : Nat := field e 52 6
def pteFrame (e : Nat) : Nat := field e 16 36 * 4096
def pteSize (e : Nat) : Nat := field e 4 2
def pteA (e : Nat) : Bool := e.testBit 3
def pteW (e : Nat) : Bool := e.testBit 2
def pteR (e : Nat) : Bool := e.testBit 1
def pteV (e : Nat) : Bool := e.testBit 0

/-- R205. Bytes of the leaf page at a level. -/
def pageBytes (level : Nat) : Nat :=
  match level with
  | 2 => 2 ^ 34
  | 3 => 2 ^ 25
  | _ => 2 ^ 16

/-- R205. The index of a virtual address at a level. -/
def vaIndex (va level : Nat) : Nat :=
  match level with
  | 1 => field va 43 9
  | 2 => field va 34 9
  | 3 => field va 25 9
  | _ => field va 16 9

/-! ## Forwarding (R230) -/

/-- R230. Where the home of a device physical address sends a request for it: to the new home, where its page has moved there. A line at
the migration pointer waits, so its request is served only when the line has moved (`none`). -/
def forwardOnce (s : State) (dpa : Nat) : Option Nat :=
  let d := dpaDie dpa
  let l := dpaLocal dpa
  let h := home s d
  match h.migrations.find? fun m => m.oldL ≤ l && l < m.oldL + m.size with
  | some m =>
    let j := (l - m.oldL) / 128
    if j < m.ptr then some (dpaOf m.newDie (m.newL + (l - m.oldL))) else if j = m.ptr then none else some dpa
  | none =>
    match h.forwarding.find? fun f => f.oldL ≤ l && l < f.oldL + f.size with
    | some f => some (dpaOf f.newDie (f.newL + (l - f.oldL)))
    | none => some dpa

/-- R230. Where a request is forwarded at last, for a page that has moved several times; n bounds the moves. -/
def forwardN (s : State) : (n dpa : Nat) → Option Nat
  | 0, dpa => some dpa
  | n + 1, dpa => (forwardOnce s dpa).bind fun a => if a = dpa then some a else forwardN s n a
/-- R230. Where a request for a device physical address performs; `none` while its line is at a migration pointer. -/
def forwardTo (s : State) (dpa : Nat) : Option Nat := forwardN s 64 dpa

/-- R230, R231. A device physical address as an access finds it: the new home's where its page, or its line, has moved. -/
def atHome (s : State) (dpa : Nat) : Nat := (forwardTo s dpa).getD dpa

/-! ## The walk (R205) -/

/-- How a walk or an access fails. -/
inductive Miss where
  | page                      -- PAGE_FAULT (R206)
  | poisoned (entry : Nat)    -- PTE_UNCORRECTABLE: the entry's device physical address (R228)
  | absent (dpa : Nat)        -- a table or a page lies at a device physical address that does not exist
  deriving DecidableEq, Repr

/-- R205, R206. The checks of R206 that hang on a leaf alone. -/
def leafOk (e level : Nat) : Bool :=
  let plc := ptePlc e
  let tgt := pteTgt e
  pteSize e = 5 - level && 2 ≤ level && pteFrame e % pageBytes level = 0 && tgt ≠ 3 && plc ≤ 9 &&
    !(plc ≠ 0 && tgt ≠ 0) && !(ptePkg e ≠ 0 && tgt ≠ 2)

/-- R205, R206. The walk from a table at a level, with fuel for the levels below: the leaf's level, its address and the leaf. -/
def walk (s : State) (table va : Nat) : (fuel level : Nat) → Except Miss (Nat × Nat × Nat)
  | 0, _ => .error .page
  | fuel + 1, level =>
    let at_ := atHome s (table + 8 * vaIndex va level)
    if !dpaExists at_ then .error (.absent at_)
    else if poisonIn s at_ 8 then .error (.poisoned at_)
    else
      let e := dramNat s at_ 8
      if !pteV e || field e 6 10 ≠ 0 then .error .page
      else if pteSize e = 0 then
        if level = 4 || pteTgt e ≠ 0 || ptePlc e ≠ 0 || ptePkg e ≠ 0 then .error .page
        else walk s (pteFrame e) va fuel (level + 1)
      else if leafOk e level then .ok (level, at_, e)
      else .error .page

/-! ## The region table (R209, R210) -/

/-- R210. The homes of a placement address under an entry: die and local address. -/
def RegionEntry.home (e : RegionEntry) (pa : Nat) : List (Nat × Nat) :=
  let set := bitsSet e.dset 8
  let n := set.length
  let off := pa - e.base
  match e.mode with
  | 0 =>
    let sz := 2 ^ e.slog2
    let blk := off / sz
    [(set.getD (blk % n) 0, e.lbase + blk / n * sz + off % sz)]
  | 1 =>
    let part := (e.limit - e.base) / n
    [(set.getD (off / part) 0, e.lbase + off % part)]
  | _ => set.map fun d => (d, e.lbase + off)

/-- R209. The greatest local address, plus one, that an entry produces. -/
def RegionEntry.top (e : RegionEntry) : Nat :=
  let n := (bitsSet e.dset 8).length
  let len := e.limit - e.base
  match e.mode with
  | 0 =>
    let sz := 2 ^ e.slog2
    let whole := len / sz
    max (e.lbase + ceilDiv whole n * sz) (if len % sz = 0 then e.lbase else e.lbase + whole / n * sz + len % sz)
  | 1 => e.lbase + len / n
  | _ => e.lbase + len

/-- R209. Entry i of the region table at PTROOT + 0x1000, where it takes part. -/
def regionEntry (s : State) (ptroot i : Nat) : Option RegionEntry :=
  let a := ptroot + 0x1000 + 32 * i
  let w (j : Nat) := seenNat s (atHome s (a + 8 * j)) 8
  let e : RegionEntry :=
    { base := field (w 0) 0 48, limit := field (w 1) 0 48, lbase := field (w 2) 0 48,
      dset := field (w 3) 24 8, slog2 := field (w 3) 16 5, mode := field (w 3) 0 2 }
  let n := (bitsSet e.dset 8).length
  let clean := field (w 0) 48 16 = 0 && field (w 1) 48 16 = 0 && field (w 2) 48 16 = 0 && field (w 3) 32 31 = 0 &&
    field (w 3) 21 3 = 0 && field (w 3) 2 14 = 0
  if (w 3).testBit 63 && clean && e.dset ≠ 0 && e.mode ≠ 3 && e.base < e.limit &&
      (e.mode ≠ 0 || (12 ≤ e.slog2 && e.slog2 ≤ 30)) && (e.mode ≠ 1 || (e.limit - e.base) % (n * 65536) = 0) &&
      e.top ≤ Config.reservedBase && dpaExists (a + 31) then some e
  else none

/-- R209. Of the entries of a table, the lowest-numbered that takes part and covers a placement address. -/
def coveringEntry (entry : Nat → Option RegionEntry) (pa : Nat) : Option RegionEntry :=
  (List.range 64).findSome? fun i =>
    match entry i with
    | some e => if e.base ≤ pa ∧ pa < e.limit then some e else none
    | none => none
/-- R209. The entry that covers a placement address of a context. -/
def coveringRegion (s : State) (ptroot pa : Nat) : Option RegionEntry := coveringEntry (regionEntry s ptroot) pa
/-- R207. Entry i of a context's region table for engine e: as it holds it cached, else as memory has it. -/
def engineEntry (s : State) (e : Nat) (l : Launch) (i : Nat) : Option RegionEntry :=
  match (engine s e).regions.find? fun x => x.1 = l.asid && x.2.1 = i with
  | some x => some x.2.2
  | none => regionEntry s l.ptroot i

/-- R82, R205, R209. The homes, as device physical addresses, of a placement address that another package names. Which context's region table
resolves it the spec does not say: the model takes the lowest address space known to the launch unit whose table covers it, and where none
does the address as a device physical address (DESIGN CHOICE, log 58). -/
def foreignHomes (s : State) (pa : Nat) : List Nat :=
  ((s.mgmt.contexts.findSome? fun (x : Nat × Nat) => coveringRegion s x.2 pa).map fun e => (e.home pa).map fun h => dpaOf h.1 h.2).getD [pa]
/-- R211. The replicas of a device physical address in a REPLICATE region of a known context; itself alone in none. -/
def replicasAt (s : State) (a : Nat) : List Nat :=
  (s.mgmt.contexts.findSome? fun (x : Nat × Nat) => (List.range 64).findSome? fun i =>
    match regionEntry s x.2 i with
    | some e =>
      if e.mode = 2 && e.dset.testBit (dpaDie a) && e.lbase ≤ dpaLocal a && dpaLocal a < e.lbase + (e.limit - e.base) then
        some ((e.home (e.base + (dpaLocal a - e.lbase))).map fun h => dpaOf h.1 h.2)
      else none
    | none => none).getD [a]

/-! ## Where an address leads -/

/-- The place of a translated address: the homes as device physical addresses (several when replicated, the anchor first),
a host physical address, or a placement address of another package. -/
inductive Place where
  | dev (homes : List Nat)
  | host (hpa : Nat)
  | remote (pkg pa : Nat)
  deriving DecidableEq, Repr

/-- R206, R208. The place of a leaf's address under a region table's entries. -/
def placeBy (entry : Nat → Option RegionEntry) (sys : Bool) (leaf level va : Nat) : Except Miss Place :=
  let pa := pteFrame leaf + va % pageBytes level
  match pteTgt leaf with
  | 0 =>
    let plc := ptePlc leaf
    if 1 ≤ plc && plc ≤ 8 then
      if pa ≥ Config.dieSpan then .error .page
      else if pa ≥ Config.reservedBase && !sys then .error .page
      else .ok (.dev [dpaOf (plc - 1) pa])
    else
      match coveringEntry entry pa with
      | none => .error .page
      | some e =>
        if plc = 9 && e.mode ≠ 2 then .error .page
        else
          let hs := e.home pa
          if plc = 9 && hs.any (fun h => h.2 ≥ Config.reservedBase) && !sys then .error .page
          else .ok (.dev (hs.map fun h => dpaOf h.1 h.2))
  | 1 => .ok (.host pa)
  | _ => .ok (.remote (ptePkg leaf) pa)
/-- R206, R208. The place of a leaf's address in a context. -/
def placeOf (s : State) (ptroot : Nat) (sys : Bool) (leaf level va : Nat) : Except Miss Place :=
  placeBy (regionEntry s ptroot) sys leaf level va
/-- R209, R211. Does a leaf's address lie in a REPLICATE region? -/
def replicatedBy (entry : Nat → Option RegionEntry) (leaf level va : Nat) : Bool :=
  pteTgt leaf = 0 && (ptePlc leaf = 0 || ptePlc leaf = 9) &&
    (coveringEntry entry (pteFrame leaf + va % pageBytes level)).elim false fun e => e.mode = 2

/-- R205, R206. Kinds of access: 0 none (R110 asks whether the page is resident), 1 read, 2 write, 3 atomic; 4 is an atomic load,
which needs R alone (R375), 5 a chunk fetch, which needs R, W and A (R378), 6 a CP.ACC, which needs W and A (R374), and 7 the read of a
recovery (R377). -/
def permitted (leaf kind : Nat) : Bool :=
  match kind with
  | 0 => true
  | 1 => pteR leaf
  | 7 => pteR leaf
  | 2 => pteW leaf
  | 3 => pteA leaf && pteR leaf
  | 4 => pteR leaf
  | 5 => pteR leaf && pteW leaf && pteA leaf
  | _ => pteW leaf && pteA leaf

/-- R189. The access number that k.trapi reports. -/
def accessCode (kind : Nat) : Nat := if kind = 7 then 1 else if kind ≥ 4 then 3 else kind

/-- A translation: where the address leads, its leaf entry, the entry's address and level. -/
structure Translated where
  place : Place
  leaf : Nat
  entryAt : Nat
  level : Nat
  deriving DecidableEq, Repr

/-- R205, R206. Translation in an address space by a walk. -/
def translate (s : State) (ptroot : Nat) (sys : Bool) (va kind : Nat) : Except Miss Translated :=
  match walk s ptroot va 4 1 with
  | .error m => .error m
  | .ok (level, at_, leaf) =>
    if !permitted leaf kind then .error .page
    else match placeOf s ptroot sys leaf level va with
      | .error m => .error m
      | .ok p => .ok { place := p, leaf := leaf, entryAt := at_, level := level }

/-- R207. A translation that an engine holds cached for the address. The entry's own address is not kept with it. -/
def cached (s : State) (e asid va : Nat) : Option TlbEntry :=
  (engine s e).tlb.find? fun t => t.asid = asid && va / pageBytes t.level = t.page

/-- R205 to R207. Translation by copy engine e for a launch: by its cache where it holds the leaf, else by a walk. -/
def engineTranslate (s : State) (e : Nat) (l : Launch) (va kind : Nat) : Except Miss Translated :=
  let found : Except Miss (Nat × Nat × Nat) := match cached s e l.asid va with
    | some t => .ok (t.level, 0, t.entry.toNat)
    | none => walk s l.ptroot va 4 1
  match found with
  | .error m => .error m
  | .ok (level, at_, leaf) =>
    if !permitted leaf kind then .error .page
    else match placeBy (engineEntry s e l) l.sys leaf level va with
      | .error m => .error m
      | .ok p => .ok { place := p, leaf := leaf, entryAt := at_, level := level }

/-- R207. The engine keeps the valid region-table entries of a context that it serves. -/
def cacheRegions (s : State) (e : Nat) (l : Launch) : State :=
  let fresh := (List.range 64).filterMap fun i =>
    if (engine s e).regions.any fun x => x.1 = l.asid && x.2.1 = i then none
    else (regionEntry s l.ptroot i).map fun r => (l.asid, i, r)
  modEngine s e fun g => { g with regions := g.regions ++ fresh }
/-- R207. The engine keeps the leaf it walked to, of more than 2,048 dropping the oldest; and where the leaf's address has its home by the
region table, the table's entries. -/
def cacheLeaf (s : State) (e : Nat) (l : Launch) (va : Nat) (t : Translated) : State :=
  let s1 := if pteTgt t.leaf = 0 && (ptePlc t.leaf = 0 || ptePlc t.leaf = 9) then cacheRegions s e l else s
  match cached s e l.asid va with
  | some _ => s1
  | none => modEngine s1 e fun g =>
    let kept := if g.tlb.length ≥ 2048 then g.tlb.drop 1 else g.tlb
    { g with tlb := kept ++ [{ asid := l.asid, level := t.level, page := va / pageBytes t.level,
                                entry := BitVec.ofNat 64 t.leaf }] }

/-- R206, R228. Trap code and k.trapi of a failed translation. -/
def missTrap (m : Miss) (va kind : Nat) : BitVec 16 × Word :=
  (match m with
    | .poisoned _ => 0x0031#16
    | _ => 0x0030#16,
   BitVec.ofNat 64 (accessCode kind * 2 ^ 52 + va % 2 ^ 52))

/-- R211, R60. Hops from one station to another in the direction of R60. -/
def hopsBetween (a b : Nat) : Nat :=
  let e := (b + 16 - a) % 16
  min e (16 - e)

/-- R211. The replica with the fewest hops from station k, ties to the lower die. -/
def nearestTo (k : Nat) (homes : List Nat) : Nat :=
  let dist (a : Nat) : Nat := hopsBetween k (2 * dpaDie a + 1) * 16 + dpaDie a
  match homes with
  | [] => 0
  | x :: t => t.foldl (fun best a => if dist a < dist best then a else best) x
/-- R211. The replica that serves a read of compute die d. -/
def nearestReplica (d : Nat) (homes : List Nat) : Nat := nearestTo (2 * d) homes

end Sys2Proof.Machine
end

