-- ==== Sys2Proof/Machine/Engine.lean ====
section
/-! DEFINITION. Request packets, stores that perform at homes, step regions' storage, and the copy engine's work on a detached
command: translation, the parts of a copy, fills and completion (R203 to R206, R211 to R217, R369 to R386). -/
namespace Sys2Proof.Machine

/-! ## Request packets (R386) -/

/-- R386. The bytes of a packet. -/
def encodePacket (p : Packet) : Payload :=
  let w0 := p.kind % 16 * 2 ^ 60 + p.agent % 128 * 2 ^ 53 + p.seq.toNat * 2 ^ 16 + p.status % 16 * 2 ^ 12 +
    p.stepw.toNat * 2 ^ 11 + p.fwd.toNat * 2 ^ 10 + p.retry.toNat * 2 ^ 9 + p.one.toNat * 2 ^ 8 + p.dlen % 256
  let w1 := p.pkg % 64 * 2 ^ 58 + p.paddr % 2 ^ 48
  BitVec.ofNat 2048
    (w0 + w1 * 2 ^ 64 + p.opa.toNat * 2 ^ 128 + p.opb.toNat * 2 ^ 192 + p.data.toNat * 2 ^ 256)

/-- R386. The packet of a payload. -/
def decodePacket (x : Payload) : Packet :=
  let n := x.toNat
  { kind := field n 60 4, agent := field n 53 7, seq := BitVec.ofNat 32 (field n 16 32), status := field n 12 4,
    stepw := n.testBit 11, fwd := n.testBit 10, retry := n.testBit 9, one := n.testBit 8, dlen := field n 0 8,
    pkg := field n 122 6, paddr := field n 64 48, opa := BitVec.ofNat 64 (field n 128 64),
    opb := BitVec.ofNat 64 (field n 192 64), data := BitVec.ofNat 1024 (field n 256 1024) }

/-- R386. The data words of a packet, as bytes. -/
def Packet.bytes (p : Packet) : List Byte := bytesOf p.data.toNat (4 * p.dlen)
/-- Bytes as the data of a packet. -/
def packData (bs : List Byte) : BitVec 1024 := BitVec.ofNat 1024 (ofBytes bs)

/-- R386. The station of a requester: an engine's compute die, a near-memory unit's memory die, the tap of the I/O die. -/
def agentStation (a : Nat) : Nat := if a < 64 then 2 * (a / 8) else if a < 72 then 2 * (a - 64) + 1 else 15
/-- The station of the home of a device physical address of package `pkg`; another package is reached over the tap. -/
def homeStation (s : State) (pkg dpa : Nat) : Nat := if pkg = s.eq.pkg then 2 * dpaDie dpa + 1 else 15

/-- A packet handed to a station for another: it waits there for a slot (R60); for the station's own agents it is there. -/
def sendPacket (s : State) (src dst : Nat) (p : Packet) (late : Option (Nat × Piece)) : State :=
  if src = dst then { s with inbox := s.inbox ++ [(dst, p)] }
  else { s with waiting := s.waiting ++ [{ station := src, dst := dst, pkt := p, late := late, since := s.ring }] }

/-- R382, R386. A request of engine e for a command: it takes the next sequence number and goes to the home. -/
def request (s : State) (e cmd : Nat) (p : Packet) (piece : Option Piece) (late : Option (Nat × Piece)) : State :=
  let g := engine s e
  let q := { p with agent := e, seq := g.nextSeq }
  let dst := homeStation s p.pkg p.paddr
  let s1 := modEngine s e fun g =>
    { g with nextSeq := g.nextSeq + 1,
             reqs := g.reqs ++ [{ seq := g.nextSeq, cmd := cmd, pkt := q, dst := dst, piece := piece, sentAt := s.chron }] }
  sendPacket s1 (agentStation e) dst q late

/-- The request that engine e holds under a number. -/
def findReq (s : State) (e : Nat) (seq : BitVec 32) : Option Req := (engine s e).reqs.find? fun r => r.seq = seq
/-- The requests of a command that have no response. -/
def reqsOf (s : State) (e cmd : Nat) : List Req := (engine s e).reqs.filter fun r => r.cmd = cmd
def dropReq (s : State) (e : Nat) (seq : BitVec 32) : State :=
  modEngine s e fun g => { g with reqs := g.reqs.filter fun r => r.seq ≠ seq }

/-! ## Stores that perform at a home (R105, R128, R218) -/

/-- R128. The condition of a registration: a JOINW waits for zero, a SUSP for a nonzero word. A poisoned word meets neither
(log 52). -/
def waiterMet (s : State) (w : Waiter) : Bool :=
  let v := dramNat s w.dpa 8
  !poisonIn s w.dpa 8 && if w.join then v = 0 else v ≠ 0

/-- R128. OPA of a suspension request, its answer and a notification: launch, waypoint, dispatcher, kind of wait. -/
def waitOpa (wp : WpKey) (die : Nat) (join : Bool) : Word :=
  BitVec.ofNat 64 (wp.launch * 2 ^ 32 + wp.wpid * 2 ^ 12 + die * 2 + join.toNat)

/-- R128. The home notifies the dispatcher named in a registration. -/
def notifyWaiter (s : State) (d : Nat) (w : Waiter) : State :=
  sendPacket s (2 * d + 1) (2 * w.die)
    { kind := 0xB, agent := 64 + d, seq := 0#32, pkg := s.eq.pkg, paddr := w.dpa, opa := waitOpa w.wp w.die w.join } none

/-- R128, R105. After a store to n bytes at a: registrations whose condition now holds are notified and end, and the launch
unit is notified of a producer index line. -/
def afterStore (s : State) (a n : Nat) : State :=
  let d := dpaDie a
  let h := home s d
  let hit (w : Waiter) : Bool := a < w.dpa + 8 && w.dpa < a + n && waiterMet s w
  let s1 := modHome s d fun h => { h with waiters := h.waiters.filter fun w => !hit w }
  let s2 := (h.waiters.filter hit).foldl (fun s w => notifyWaiter s d w) s1
  (h.queues.filter fun q => a < q.1 + 64 && q.1 < a + n).foldl
    (fun s q => enqueue s .pidxNotify { index := q.2 }) s2

/-- A store that performs at its home. -/
def storeDram (s : State) (a : Nat) (bs : List Byte) : State := afterStore (putDram s a bs) a bs.length
/-- A store of a number of n bytes. -/
def storeDramNat (s : State) (a v n : Nat) : State := storeDram s a (bytesOf v n)
/-- A store at every replica of an address (R211). -/
def storeHomes (s : State) (homes : List Nat) (bs : List Byte) : State := homes.foldl (fun s a => storeDram s a bs) s

/-! ## Step regions (R212 to R217) -/

/-- The declaration of no region. -/
def noStep : StepDecl :=
  { valid := false, loc := 0, esize := 4, rule := 0, fxw := false, exp := 0#16, count := 1, base := 0#64 }
def stepDecl (l : Launch) (j : Nat) : StepDecl := l.steps.getD j noStep
/-- R212. PB. -/
def planeBytes (d : StepDecl) : Nat := alignUp (d.count * d.esize) 128
/-- R212. The bytes of a region's storage: two planes and the companion area. -/
def stepStorage (d : StepDecl) : Nat := 2 * planeBytes d + alignUp (4 * d.count) 128
/-- R212. The number under which a region's plane and contributions stand: a CORE or CLUSTER region lies on the member's own
die, whose number counts above the region's (log 22). -/
def regionNo (d : StepDecl) (j die : Nat) : Nat := if d.loc = 2 then j else j + 16 * die
def stepRegion (s : State) (l r : Nat) : StepRegion := Map.get s.regions (l * 128 + r) {}
def modStepRegion (s : State) (l r : Nat) (f : StepRegion → StepRegion) : State :=
  { s with regions := Map.set s.regions (l * 128 + r) (f (stepRegion s l r)) }
/-- Offset of the present plane, or the next, from BASE, for members on a die. -/
def planeOffset (s : State) (l : Launch) (j die : Nat) (next : Bool) : Nat :=
  if (stepRegion s l.id (regionNo (stepDecl l j) j die)).plane1 != next then planeBytes (stepDecl l j) else 0
/-- R212. Core of the package and handle of a CORE or CLUSTER region, for a member on die d. -/
def stepHolder (d : StepDecl) (die : Nat) : Nat × Nat := (die * 48 + field d.base.toNat 8 6, field d.base.toNat 0 8)

/-! ## Reading and writing by place -/

/-- What a read needs first: n bytes of a line fetched by a request, from a source as RemoteLine names it (R82, R358), or a line that the
host may hold given up (R101). -/
inductive Need where
  | fetch (src addr n : Nat)
  | snoop (line : Nat)
  deriving DecidableEq, Repr

/-- R101. The first line of n bytes at a device physical address that its home's snoop filter marks as possibly held by the host. -/
def heldLine (s : State) (a n : Nat) : Option Nat := (linesOf a n).find? (home s (dpaDie a)).held.contains
/-- R101. The home of a line sends BISnp, where none is out. -/
def sendSnoop (s : State) (line : Nat) : State :=
  let d := dpaDie (128 * line)
  if (home s d).snoops.contains line then s
  else emitLink (modHome s d fun h => { h with snoops := h.snoops ++ [line] }) (.snoop line)

/-- What a read of a range finds. -/
inductive Fetched where
  | data (bs : List Byte)
  | poison (line : Nat)                 -- a POISON line of the handle, or a poisoned word
  | blocked (core handle line : Nat)    -- an EMPTY line (R203)
  | needs (n : Need)
  | miss (m : Miss) (va : Nat)
  deriving DecidableEq, Repr

/-- R203. Bytes of a handle of core c. A handle that is no longer allocated, or an offset beyond it (a row of R373 whose index
leads there), reads as poison (log 18). -/
def readHandle (s : State) (c h off n : Nat) : Fetched :=
  let k := coreOf s c
  match handleOf s c h with
  | none => .poison (off / 128)
  | some hd =>
    if off + n > hd.size then .poison (off / 128)
    else match (linesOf off n).find? fun l => lineState k hd l ≠ .full with
      | some l => if lineState k hd l = .empty then .blocked c h l else .poison l
      | none => .data (handleBytes k hd off n)

/-- n bytes of device memory at its home, or what they need first. -/
def readDev (s : State) (a n : Nat) : Fetched :=
  match heldLine s a n with
  | some l => .needs (.snoop l)
  | none => if poisonIn s a n then .poison 0 else .data (dramBytes s a n)
/-- Who reads: a core for its execution, or for the index list of a command; and whether it reads by requests to the home (R358, R373), or
there at once. -/
structure Asker where
  core : Nat
  cmd : Option Nat := none
  packets : Bool := false
/-- The lines that have been fetched for a reader. -/
def Asker.lines (q : Asker) (s : State) : List RemoteLine :=
  match q.cmd with
  | none => (coreOf s q.core).remote
  | some id => ((s.cmds.find? fun c => c.id = id).map fun c => c.lines).getD []

/-- R82, R358. n bytes of a line as they have been fetched for a reader; where they have not, whole protected words are to be. -/
def readRemote (s : State) (q : Asker) (src a n : Nat) : Fetched :=
  match (q.lines s).find? fun x => x.src = src && x.addr ≤ a && a + n ≤ x.addr + x.len with
  | none => .needs (.fetch src (a / 8 * 8) (alignUp (a + n) 8 - a / 8 * 8))
  | some x => match x.data with
    | none => .poison 0
    | some d => .data (((bytesOf d.toNat x.len).drop (a - x.addr)).take n)

/-- Bytes at a virtual address, within one line, through the reader's engine: of a replicated address the nearest replica's (R211). -/
def readVa (s : State) (q : Asker) (l : Launch) (va n : Nat) : Fetched :=
  match engineTranslate s (engineOf q.core) l va 1 with
  | .error m => .miss m va
  | .ok t =>
    match t.place with
    | .dev [] => .miss .page va
    | .dev homes =>
      let a := nearestReplica (dieOf q.core) homes
      if q.packets then readRemote s q 64 a n else readDev s (atHome s a) n
    | .host h => if q.packets then readRemote s q 65 h n else .data (readBytes s.hostMem h n)
    | .remote p a => readRemote s q p a n

/-- R101. The first line that the host may hold among n bytes at a virtual address of a launch. -/
def heldVa (s : State) (l : Launch) (va n : Nat) : Option Nat :=
  (linesOf va n).findSome? fun i =>
    match translate s l.ptroot l.sys (max va (128 * i)) 0 with
    | .ok t => (match t.place with
      | .dev homes => homes.findSome? fun a => heldLine s (atHome s a) 1
      | _ => none)
    | .error _ => none

/-- The parts of a range of bytes at its 128-byte lines: offset and length of each, in order. -/
def lineParts (a n : Nat) : List (Nat × Nat) :=
  (linesOf a n).map fun l => (max a (128 * l), min (a + n) (128 * l + 128) - max a (128 * l))

/-- Bytes at virtual addresses that may span lines; the first part that fails decides. -/
def readVaRange (s : State) (q : Asker) (l : Launch) (va n : Nat) : Fetched :=
  (lineParts va n).foldl (fun acc p =>
    match acc with
    | .data bs =>
      match readVa s q l p.1 p.2 with
      | .data b => .data (bs ++ b)
      | r => r
    | r => r) (.data [])

/-- R214. Bytes of a plane of a region, for a member on the reader's core. -/
def readPlane (s : State) (l : Launch) (j off n : Nat) (next : Bool) (q : Asker) : Fetched :=
  let d := stepDecl l j
  let o := planeOffset s l j (dieOf q.core) next + off
  if off + n > d.count * d.esize then .poison (off / 128)
  else if d.loc = 2 then readVaRange s q l (d.base.toNat % 2 ^ 52 + o) n
  else readHandle s (stepHolder d (dieOf q.core)).1 (stepHolder d (dieOf q.core)).2 o n

/-- Bytes stored at a virtual address: at every replica, or in host memory. -/
def storeVa (s : State) (l : Launch) (va : Nat) (bs : List Byte) : Except Miss State :=
  match translate s l.ptroot l.sys va 2 with
  | .error m => .error m
  | .ok t =>
    match t.place with
    | .dev homes => .ok (storeHomes s (homes.map (atHome s)) bs)
    | .host h => .ok (emitLink { s with hostMem := writeBytes s.hostMem h bs } (.hostWrite .itoMWr h bs))
    | .remote _ _ => .error .page

/-- Stores of a range that may span lines. -/
def storeVaRange (s : State) (l : Launch) (va : Nat) (bs : List Byte) : Except (Miss × Nat) State :=
  (lineParts va bs.length).foldl (fun acc p =>
    match acc with
    | .ok s =>
      match storeVa s l p.1 ((bs.drop (p.1 - va)).take p.2) with
      | .ok s' => .ok s'
      | .error m => .error (m, p.1)
    | e => e) (.ok s)

/-- R214. Contributions of a member of rank `rank` to a region. -/
def contribute (s : State) (l region rank : Nat) (elems : List (Nat × Nat)) : State :=
  modStepRegion s l region fun r =>
    { r with contribs := r.contribs ++ elems.map fun e => { elem := e.1, rank := rank, value := e.2 } }

/-- R214. Bytes as contributions: one per element covered. -/
def elementsOf (d : StepDecl) (off : Nat) (bs : List Byte) : List (Nat × Nat) :=
  (List.range (bs.length / d.esize)).map fun i => (off / d.esize + i, ofBytes ((bs.drop (i * d.esize)).take d.esize))

/-! ## Hotness (R117) -/

/-- A saturating 64-bit addition to a word at its home; a poisoned word takes none and stays poisoned (R375; log 52). -/
def addHot (s : State) (a x : Nat) : State :=
  if poisonIn s a 8 then s else storeDramNat s a (min (dramNat s a 8 + x) (2 ^ 64 - 1)) 8

/-- R117. The sets of a launch in engine e added into its block, and freed. -/
def flushHot (s : State) (e launch : Nat) : State :=
  let l := launchOf s launch
  let mine := (engine s e).hot.filter fun h => h.launch = launch
  let s1 := modEngine s e fun g => { g with hot := g.hot.filter fun h => h.launch ≠ launch }
  mine.foldl (fun s h =>
    match translate s l.ptroot true (l.hot + 16 * h.buf) 2 with
    | .ok t =>
      match t.place with
      | .dev homes => homes.foldl (fun s a => addHot (addHot s a h.bytes) (a + 8) h.ticks) s
      | _ => s
    | .error _ => s) s1

/-- R117. Bytes moved and stall ticks counted for a launch with a hotness block; an engine holds sets of 8 launches. -/
def countHot (s : State) (e launch buf bytes ticks : Nat) : State :=
  if (launchOf s launch).hot = 0 then s
  else
    let g := engine s e
    let ls := dedup (g.hot.map fun h => h.launch)
    let s1 := if ls.contains launch || ls.length < 8 then s else flushHot s e (ls.headD 0)
    modEngine s1 e fun g =>
      if g.hot.any fun h => h.launch = launch && h.buf = buf then
        { g with hot := g.hot.map fun h =>
            if h.launch = launch ∧ h.buf = buf then { h with bytes := h.bytes + bytes, ticks := h.ticks + ticks } else h }
      else { g with hot := g.hot ++ [{ launch := launch, buf := buf, bytes := bytes, ticks := ticks }] }

/-! ## The parts of a copy (R369 to R374) -/

/-- R193. The fields of a reference. -/
def refTag (r : Word) : Nat := field r.toNat 60 4
def refBuf (r : Word) : Nat := field r.toNat 52 8
def refVa (r : Word) : Nat := field r.toNat 0 52
def refCore (r : Word) : Nat := field r.toNat 54 6
def refHandle (r : Word) : Nat := field r.toNat 46 8
def refOffset (r : Word) : Nat := field r.toNat 0 24
def refRegion (r : Word) : Nat := field r.toNat 56 4
def refStepOffset (r : Word) : Nat := field r.toNat 0 40

/-- The byte position that a reference names within its own space. -/
def refPos (r : Word) : Nat := if refTag r = 0 then refVa r else if refTag r = 3 then refStepOffset r else refOffset r

/-- A row of n bytes cut where source or destination passes a line: offsets and lengths, in order. -/
def cutRow (src dst : Nat) : (fuel n off : Nat) → List (Nat × Nat)
  | 0, _, _ => []
  | fuel + 1, n, off =>
    if n = 0 then []
    else
      let m := min n (min (128 - (src + off) % 128) (128 - (dst + off) % 128))
      (off, m) :: cutRow src dst fuel (n - m) (off + m)

/-- R214, R374. n elements from the i-th on cut where the destination's elements of eight bytes begin in a further line, and where
`lined`, a source of elements of sw bytes passes a line: source and destination offsets, elements, and the half of one that lies
across two source lines. -/
def cutElems (src dst sw : Nat) (lined : Bool) : (fuel n i : Nat) → List (Nat × Nat × Nat × Nat)
  | 0, _, _ => []
  | fuel + 1, n, i =>
    if n = 0 then []
    else
      let room := if lined then (128 - (src + sw * i) % 128) / sw else n
      let m := min (min n room) (ceilDiv (128 - (dst + 8 * i) % 128) 8)
      if m = 0 then (sw * i, 8 * i, 1, 1) :: (sw * i + 4, 8 * i, 1, 2) :: cutElems src dst sw lined fuel (n - 1) (i + 1)
      else (sw * i, 8 * i, m, 0) :: cutElems src dst sw lined fuel (n - m) (i + m)

/-- R211. Where an access of a kind by core c to a translated address goes: a store or an atomic of a replicated address names every
replica, unless .one. -/
def placeLoc (s : State) (c : Nat) (l : Launch) (va : Nat) (t : Translated) (kind : Nat) (one : Bool) : Loc :=
  match t.place with
  | .host h => .host h
  | .remote p a => .remote p a
  | .dev homes =>
    if kind = 1 || one || !replicatedBy (engineEntry s (engineOf c) l) t.leaf t.level va then .dev (nearestReplica (dieOf c) homes)
    else .repl homes

/-- R205, R206. Where byte `off` after a reference lies, for an access of a kind by engine e of core c: a read of a replicated
address takes the nearest replica, a store names them all unless .one; an element of a GLOBAL step region is read where its present
plane lies, and stored where its next plane is mapped (R206). -/
def locOf (s : State) (c : Nat) (l : Launch) (r : Word) (off kind : Nat) (one : Bool) : Except (Miss × Nat) Loc :=
  match refTag r with
  | 0 =>
    let va := refVa r + off
    if va ≥ 2 ^ 52 then .error (.page, va % 2 ^ 52)
    else match engineTranslate s (engineOf c) l va kind with
      | .error m => .error (m, va)
      | .ok t => .ok (placeLoc s c l va t kind one)
  | 3 =>
    let j := refRegion r
    let o := refStepOffset r + off
    let va := (stepDecl l j).base.toNat % 2 ^ 52 + planeOffset s l j (dieOf c) (kind ≠ 1) + o
    if (stepDecl l j).loc ≠ 2 then .ok (.step l.id j o)
    else match engineTranslate s (engineOf c) l va (if kind = 1 then 1 else 2) with
      | .error m => .error (m, va)
      | .ok t => .ok (if kind = 1 then placeLoc s c l va t 1 false else .step l.id j o)
  | _ => .ok (.spad (dieOf c * 48 + refCore r) (refHandle r) (refOffset r + off))

/-- R207. The translations of n bytes at a virtual address that engine e keeps. -/
def cacheRange (s : State) (e : Nat) (l : Launch) (va n kind : Nat) : State :=
  ((span (va / 65536) ((va + n - 1) / 65536 - va / 65536 + 1)).map fun p => max va (65536 * p)).foldl (fun s v =>
    match engineTranslate s e l v kind with
    | .ok t => cacheLeaf s e l v t
    | .error _ => s) s

/-- R207. The same for n bytes after a reference, where it is GLOBAL. -/
def cacheRef (s : State) (cmd : Cmd) (r : Word) (n kind : Nat) : State :=
  if refTag r = 0 then cacheRange s (engineOf cmd.core) (launchOf s cmd.wp.launch) (refVa r) n kind else s

/-- R371. The rows of a command's shape: source and destination offset of each. -/
def rowsOf (shape : Word) : List (Nat × Nat) :=
  (List.range (field shape.toNat 0 16 + 1)).map fun r =>
    (r * field shape.toNat 16 24, r * field shape.toNat 40 24)

/-- R206. A failed translation: why, its virtual address and the access kind. -/
abbrev Failed := Miss × Nat × Nat

/-- R206. Of two failed translations the one at the lower address. -/
def lowerFailed (a b : Failed) : Failed := if b.2.1 < a.2.1 then b else a

/-- A part of a copy from the places of its ends, or its failed translation. -/
def partOf (a b : Except (Miss × Nat) Loc) (wkind len : Nat) (one : Bool) (half : Nat) : Except Failed Piece :=
  match a, b with
  | .ok x, .ok y => .ok { src := x, dst := y, len := len, one := one, half := half }
  | .error (m, va), .ok _ => .error (m, va, 1)
  | .ok _, .error (m, va) => .error (m, va, wkind)
  | .error (m, va), .error (n, vb) => .error (lowerFailed (m, va, 1) (n, vb, wkind))

/-- R374, R214. Does a command move elements of eight bytes: CP.ACC, or a copy into a step region of such? -/
def movesElements (cmd : Cmd) (l : Launch) : Bool :=
  cmd.kind = .acc || (refTag cmd.dst = 3 && (stepDecl l (refRegion cmd.dst)).esize = 8)

/-- Where the n elements at offset `off` after the destination of a command lie; the last may pass into a further page (R206). -/
def elemsLoc (s : State) (cmd : Cmd) (l : Launch) (wkind off n : Nat) : Except (Miss × Nat) Loc :=
  match locOf s cmd.core l cmd.dst off wkind cmd.one with
  | .error e => .error e
  | .ok a =>
    if refTag cmd.dst ≠ 0 || (refVa cmd.dst + off) / 128 = (refVa cmd.dst + off + 8 * n - 1) / 128 then .ok a
    else match locOf s cmd.core l cmd.dst (off + 8 * n - 1) wkind cmd.one with
      | .error e => .error e
      | .ok _ => .ok a

/-- The parts of one row of n bytes, or of the n elements of a CP.ACC: source offset, destination offset, length, half. -/
def rowCuts (cmd : Cmd) (l : Launch) (so do_ n : Nat) : List (Nat × Nat × Nat × Nat) :=
  let lined := refTag cmd.src = 0 || refTag cmd.src = 3
  if cmd.kind = .acc then cutElems (refPos cmd.src + so) (refPos cmd.dst + do_) (if cmd.f32 then 4 else 8) lined n n 0
  else if movesElements cmd l then
    (cutElems (refPos cmd.src + so) (refPos cmd.dst + do_) 8 lined (n / 8) (n / 8) 0).map fun p => (p.1, p.2.1, 8 * p.2.2.1, p.2.2.2)
  else (cutRow (refPos cmd.src + so) (refPos cmd.dst + do_) n n 0).map fun p => (p.1, p.1, p.2, 0)

/-- The parts of one row. -/
def rowPieces (s : State) (cmd : Cmd) (l : Launch) (wkind : Nat) (so do_ n : Nat) : List (Except Failed Piece) :=
  (rowCuts cmd l so do_ n).map fun p =>
    let dst := if cmd.kind = .acc then elemsLoc s cmd l wkind (do_ + p.2.1) p.2.2.1
      else locOf s cmd.core l cmd.dst (do_ + p.2.1) wkind cmd.one
    partOf (locOf s cmd.core l cmd.src (so + p.1) 1 false) dst wkind p.2.2.1 cmd.one p.2.2.2

/-- The parts before the first failed translation. -/
def partsBefore : List (Except Failed Piece) → List Piece
  | .ok p :: t => p :: partsBefore t
  | _ => []
/-- Every part whose translations succeed. -/
def partsSound (l : List (Except Failed Piece)) : List Piece := l.filterMap fun p => match p with
  | .ok x => some x
  | .error _ => none
/-- R206. The failed translation at the lowest virtual address. -/
def lowestFailed : List (Except Failed Piece) → Option Failed
  | [] => none
  | .ok _ :: t => lowestFailed t
  | .error e :: t => match lowestFailed t with
    | none => some e
    | some f => some (lowerFailed e f)

/-! ## Commands in progress -/

/-- R222. Is a command, or the collective call of a number, still in progress? -/
def liveId (s : State) (i : Nat) : Bool :=
  (s.cmds.any fun c => c.id = i) || s.cores.any fun e => e.2.plans.any fun p => match p.2.call with
    | some x => x.running && x.id = i
    | none => false
def findCmd (s : State) (id : Nat) : Option Cmd := s.cmds.find? fun c => c.id = id
def modCmd (s : State) (id : Nat) (f : Cmd → Cmd) : State :=
  { s with cmds := s.cmds.map fun c => if c.id = id then f c else c }
/-- A command gone; the tile that it reserved is free (R381). -/
def dropCmd (s : State) (id : Nat) : State :=
  let s1 := match findCmd s id with
    | some c => if c.kind = CmdKind.getm then
        { s with cores := s.cores.map fun (e : Nat × Core) => (e.1, { e.2 with reserved := e.2.reserved.filter fun r => r.2.2 ≠ id }) } else s
    | none => s
  { s1 with cmds := s1.cmds.filter fun c => c.id ≠ id }
/-- R204. Statuses combine to the highest code. -/
def addStatus (s : State) (id st : Nat) : State := modCmd s id fun c => { c with status := max c.status st }

/-- The commands that core c's waypoint has outstanding. -/
def cmdsOf (s : State) (k : WpKey) : List Cmd := s.cmds.filter fun c => c.wp = k

/-- Does the command mark and fill destination lines (R371)? -/
def fills (k : CmdKind) : Bool :=
  match k with
  | .get | .pref | .getm | .getg | .cfa | .recov => true
  | .put | .putg | .acc | .atom | .mig | .sa | .fetch => false

/-- R371. A destination line is EMPTY until its covered bytes have landed. -/
def lineOpen (s : State) (cmd : Cmd) (c h line : Nat) : Bool :=
  let hits (p : Piece) : Bool := match p.dst with
    | .spad c' h' o => c' = c && h' = h && o / 128 = line
    | _ => false
  cmd.pieces.any hits || (reqsOf s (engineOf cmd.core) cmd.id).any fun r => match r.piece with
    | some p => hits p
    | none => false

/-- R202. A destination line leaves the EMPTY state with a state. -/
def settleLine (s : State) (id c h line : Nat) (st : LineState) : State :=
  let s1 := match handleOf s c h with
    | some hd => modCore s c fun k => setLine k hd line st
    | none => s
  modCmd s1 id fun x => { x with unfilled := x.unfilled.filter fun u => u ≠ (c, h, line) }

/-- R204. Every destination line that a command marked EMPTY and has not filled becomes POISON. -/
def poisonUnfilled (s : State) (cmd : Cmd) : State :=
  cmd.unfilled.foldl (fun s u => settleLine s cmd.id u.1 u.2.1 u.2.2 .poison) s

/-- R228, R430. The class 2 entry of a walk by engine e that read an uncorrectable page entry. -/
def logEntryError (s : State) (e : Nat) (l : Launch) (code : BitVec 16) (va : Nat) : State :=
  if code = 0x31#16 then
    match walk s l.ptroot va 4 1 with
    | .error (.poisoned a) => logEvent s 2 (e / 8) e 0x204 a l.id l.asid
    | _ => s
  else s

/-- R188, R204. A command meets a fault of its own: it stops there, and the fault is on its way to its core. -/
def failCmd (s : State) (id : Nat) (f : BitVec 16 × Word) : State :=
  let s1 := match findCmd s id with
    | some c => logEntryError s (engineOf c.core) (launchOf s c.wp.launch) f.1 (f.2.toNat % 2 ^ 52)
    | none => s
  enqueue (modCmd s1 id fun c => { c with fault := some f }) .asyncFault { index := id }

/-- R374. The words that source bytes contribute: FXW words, or F32 values converted; and the status they give. -/
def accWords (f32 : Bool) (e : Int) (bs : List Byte) : List (Option Int) × Nat :=
  let w := if f32 then 4 else 8
  let one (i : Nat) : Option Int × Nat :=
    let x := ofBytes ((bs.drop (i * w)).take w)
    if f32 then
      if isNaN 0 x then (none, 2)
      else
        let (v, _, sat, _) := fxwFrom 0 x e
        (some v, if sat then 1 else 0)
    else (some (signed x 64), 0)
  let rs := (List.range (bs.length / w)).map one
  (rs.map (·.1), rs.foldl (fun m r => max m r.2) 0)

/-- R374. FXW words added at a handle's bytes. -/
def accHandle (s : State) (c h off : Nat) (ws : List (Option Int)) : State :=
  match handleOf s c h with
  | none => s
  | some hd =>
    (ws.zip (List.range ws.length)).foldl (fun s wi =>
      match wi.1 with
      | none => s
      | some w => modCore s c fun k =>
          let o := off + 8 * wi.2
          let old := ofBytes (handleBytes k hd o 8)
          storeHandle k hd (atOffset o (bytesOf (wrapN (old + w) 64) 8))) s

/-- R374. FXW words added at DRAM words. -/
def accDram (s : State) (a : Nat) (ws : List (Option Int)) : State :=
  (ws.zip (List.range ws.length)).foldl (fun s wi =>
    match wi.1 with
    | none => s
    | some w => storeDramNat s (a + 8 * wi.2) (wrapN (dramNat s (a + 8 * wi.2) 8 + w) 64) 8) s

/-- R214. The rank of a command's waypoint. -/
def cmdRank (s : State) (cmd : Cmd) : Nat := ((findWp s cmd.wp).elim 0 fun w => w.lo) % 65536

/-- R214. The home of element bytes of a GLOBAL region. -/
def stepHome (s : State) (cmd : Cmd) (l j off : Nat) : Except (Miss × Nat) (List Nat) :=
  let ln := launchOf s l
  let va := (stepDecl ln j).base.toNat % 2 ^ 52 + planeOffset s ln j (dieOf cmd.core) true + off
  match engineTranslate s (engineOf cmd.core) ln va 2 with
  | .error m => .error (m, va)
  | .ok t =>
    match t.place with
    | .dev homes => .ok homes
    | _ => .error (.page, va)

/-- R398. The handle that a command names, while it has not been released. -/
def cmdHandle (s : State) (cmd : Cmd) (c h : Nat) : Option Handle := if cmd.gone.contains (c, h) then none else handleOf s c h

/-- R203. What a command's read of a source finds. -/
def readLoc (s : State) (cmd : Cmd) (a : Loc) (n : Nat) : Fetched :=
  match a with
  | .spad c h o => if cmd.gone.contains (c, h) then .poison (o / 128) else readHandle s c h o n
  | .step l j o => readPlane s (launchOf s l) j o n false { core := cmd.core, cmd := some cmd.id }
  | .zeros => .data (List.replicate n 0#8)
  | .dev d => readDev s d n
  | .host h => .data (readBytes s.hostMem h n)
  | .repl _ | .remote _ _ | .fetched _ _ => .poison 0

/-- R374. Source bytes of a part: elements of CP.ACC, half an element, else its bytes. -/
def srcBytes (cmd : Cmd) (p : Piece) : Nat :=
  if p.half ≠ 0 then 4
  else if cmd.kind = .acc then p.len * (if cmd.f32 then 4 else 8) else p.len

/-- The packet that carries data to a home: a store, or an addition of FXW words. -/
def dataPacket (s : State) (cmd : Cmd) (pkg dpa : Nat) (stepw : Option Nat) (one : Bool) (bs : List Byte) : Packet × Nat :=
  if cmd.kind = .acc then
    let e := match stepw with
      | some j => (stepDecl (launchOf s cmd.wp.launch) j).exp.toInt
      | none => cmd.exp
    let (ws, st) := accWords cmd.f32 e bs
    ({ kind := 5, agent := 0, seq := 0#32, stepw := stepw.isSome, one := one, dlen := 2 * ws.length, pkg := pkg, paddr := dpa,
       opa := BitVec.ofNat 64 (stepw.getD 0),
       opb := BitVec.ofNat 64 (ws.foldr (fun w acc => w.isSome.toNat + 2 * acc) 0),
       data := packData (ws.flatMap fun w => bytesOf (wrapN (w.getD 0) 64) 8) }, st)
  else
    ({ kind := 2, agent := 0, seq := 0#32, stepw := stepw.isSome, one := one, dlen := bs.length / 4, pkg := pkg, paddr := dpa,
       opa := BitVec.ofNat 64 (stepw.getD 0), data := packData bs }, 0)

/-- R100. A request of engine e to the host for the line at an address, which stands for the packet of a request. -/
def hostRequest (s : State) (e cmd : Nat) (pkt : Packet) (piece : Option Piece) (kind : CxlKind) (h : Nat) (value : BitVec 1024) : State :=
  let seq := (engine s e).nextSeq
  let r : Req := { seq := seq, cmd := cmd, pkt := { pkt with agent := e, seq := seq }, dst := 15, piece := piece, sentAt := s.chron }
  let s1 := modEngine s e fun g => { g with nextSeq := g.nextSeq + 1, reqs := g.reqs ++ [r] }
  emitLink { s1 with cxlReqs := s1.cxlReqs ++ [{ agent := e, seq := seq, hpa := h, kind := kind }] } (.cxlCache e kind h value)
/-- R100. A store of engine e to host memory. -/
def hostStore (s : State) (e cmd : Nat) (piece : Option Piece) (h : Nat) (bs : List Byte) : State :=
  hostRequest { s with hostMem := writeBytes s.hostMem h bs } e cmd { kind := 2, agent := 0, seq := 0#32 } piece .wrInv h (packData bs)

/-- R82, R358, R373. What a request fetched has come to its engine, or its request has failed: it stands there for the execution or the
command that needs it, which takes the status of a failure, and the fetch is over. -/
def takeRemote (s : State) (cmd : Cmd) (x : RemoteLine) : State :=
  let st := ((findCmd s cmd.id).getD cmd).status
  dropCmd (match cmd.reader with
    | some id => modCmd s id fun c => { c with lines := c.lines ++ [x], status := max c.status st }
    | none => if (coreOf s cmd.core).visit ≠ cmd.n then s else modCore s cmd.core fun k => { k with remote := k.remote ++ [x] }) cmd.id

/-- R202, R203, R214. Source bytes that have arrived for a part whose destination the core or its die holds, or that go on to
a home. A part with a poisoned source writes nothing, and its destination lines become POISON, a line that other parts cover
when they have landed; in DRAM the protected words (R15, R203). -/
def deliverWhole (s0 : State) (cmd : Cmd) (p : Piece) (got : Fetched) : State :=
  let e := engineOf cmd.core
  match got with
  | .data bs =>
    match p.dst with
    | .spad c h o =>
      match cmdHandle s0 cmd c h with
      | none => addStatus s0 cmd.id 2
      | some hd =>
        if cmd.kind = .acc then
          let (ws, st) := accWords cmd.f32 cmd.exp bs
          addStatus (accHandle s0 c h o ws) cmd.id st
        else
          if o + bs.length > hd.size then addStatus s0 cmd.id 2
          else if fills cmd.kind then
            let s1 := modCore s0 c fun k => putBytes k hd (atOffset o bs)
            let now := (findCmd s1 cmd.id).getD cmd
            if lineOpen s1 now c h (o / 128) then s1
            else if cmd.unfilled.contains (c, h, o / 128) then
              settleLine s1 cmd.id c h (o / 128) (if now.tainted.contains (c, h, o / 128) then .poison else .full)
            else s1
          else modCore s0 c fun k => storeHandle k hd (atOffset o bs)
    | .step l j o =>
      let d := stepDecl (launchOf s0 l) j
      if cmd.kind ≠ .acc && o + bs.length > d.count * d.esize then addStatus s0 cmd.id 2
      else if d.loc = 2 then
        match stepHome s0 cmd l j o with
        | .error (m, va) => failCmd s0 cmd.id (missTrap m va 2)
        | .ok homes =>
          let (q, st) := dataPacket s0 cmd s0.eq.pkg (homes.headD 0) (some j) false bs
          addStatus (request s0 e cmd.id q (some p) none) cmd.id st
      else if cmd.kind = .acc then
        let (ws, st) := accWords cmd.f32 d.exp.toInt bs
        let elems := (ws.zip (List.range ws.length)).filterMap fun wi => wi.1.map fun w => (o / 8 + wi.2, wrapN w 64)
        addStatus (contribute s0 l (regionNo d j (dieOf cmd.core)) (cmdRank s0 cmd) elems) cmd.id st
      else contribute s0 l (regionNo d j (dieOf cmd.core)) (cmdRank s0 cmd) (elementsOf d o bs)
    | .dev a =>
      let (q, st) := dataPacket s0 cmd s0.eq.pkg a none p.one bs
      addStatus (request s0 e cmd.id q (some p) none) cmd.id st
    | .repl homes =>
      let (q, st) := dataPacket s0 cmd s0.eq.pkg (homes.headD 0) none false bs
      addStatus (request s0 e cmd.id q (some p) none) cmd.id st
    | .remote pkg a =>
      let (q, st) := dataPacket s0 cmd pkg a none p.one bs
      addStatus (request s0 e cmd.id q (some p) none) cmd.id st
    | .host h =>
      if cmd.kind = .acc then
        let (q, st) := dataPacket s0 cmd s0.eq.pkg h none false bs
        addStatus (hostRequest s0 e cmd.id q (some p) .rdCurr h 0#1024) cmd.id st
      else hostStore s0 e cmd.id (some p) h bs
    | .fetched src a => takeRemote s0 cmd { src := src, addr := a, len := p.len, data := some (packData bs) }
    | .zeros => s0
  | .poison _ | .miss _ _ | .blocked _ _ _ | .needs _ =>
    let s1 := addStatus s0 cmd.id 2
    match p.dst with
    | .spad c h o =>
      if fills cmd.kind then
        if lineOpen s1 ((findCmd s1 cmd.id).getD cmd) c h (o / 128) then
          modCmd s1 cmd.id fun x => { x with tainted := x.tainted ++ [(c, h, o / 128)] }
        else settleLine s1 cmd.id c h (o / 128) .poison
      else match cmdHandle s1 cmd c h with
        | some hd => if cmd.kind = .acc then s1 else modCore s1 c fun k => setLine k hd (o / 128) .poison
        | none => s1
    | .dev a => if cmd.kind = .acc then s1 else poisonRange s1 (atHome s1 a) p.len
    | .repl homes =>
      if cmd.kind = .acc then s1
      else (if p.one then homes.take 1 else homes).foldl (fun s a => poisonRange s (atHome s a) p.len) s1
    | .fetched src a => takeRemote s1 cmd { src := src, addr := a, len := p.len, data := none }
    | _ => s1

/-- The same for a part that may be half an element, which goes on once the other half is there. An element of which a half is
poisoned is not delivered. -/
def deliver (s : State) (cmd : Cmd) (p : Piece) (got : Fetched) : State :=
  match p.half, got with
  | 0, _ => deliverWhole s cmd p got
  | h, .data bs =>
    let now := (findCmd s cmd.id).getD cmd
    (match now.halves.find? fun x => x.1 = p.dst && x.2.1 ≠ h with
      | some x =>
        deliverWhole (modCmd s cmd.id fun c => { c with halves := c.halves.filter (· ≠ x) }) cmd { p with half := 0 }
          (.data (if h = 1 then bs ++ x.2.2 else x.2.2 ++ bs))
      | none => modCmd s cmd.id fun c => { c with halves := c.halves ++ [(p.dst, h, bs)] })
  | _, _ => addStatus s cmd.id 2

/-- R117. The bytes that a part moves, counted for the buffer number of each GLOBAL end. -/
def countPiece (s : State) (cmd : Cmd) (p : Piece) : State :=
  let count (s : State) (r : Word) (n : Nat) : State :=
    if refTag r = 0 then countHot s (engineOf cmd.core) cmd.wp.launch (refBuf r) n 0 else s
  let s1 := if p.src = .zeros then s else count s cmd.src (srcBytes cmd p)
  if p.half = 2 then s1 else count s1 cmd.dst (if cmd.kind = .acc then 8 * p.len else p.len)

/-- A part begun: a read request for a source at a home, a store request whose data is read when it is injected, a host
request, or the transfer itself where both ends are in storage. `none` where the source line is EMPTY. -/
def sendPiece (s : State) (cmd : Cmd) (p : Piece) : Option State :=
  let e := engineOf cmd.core
  let readReq (pkg a : Nat) : State :=
    request s e cmd.id { kind := 1, agent := 0, seq := 0#32, dlen := srcBytes cmd p / 4, pkg := pkg, paddr := a } (some p) none
  let lateStore (pkg a : Nat) (stepw : Option Nat) : State :=
    let n := srcBytes cmd p
    request s e cmd.id
      { kind := if cmd.kind = .acc then 5 else 2, agent := 0, seq := 0#32, stepw := stepw.isSome, one := p.one, dlen := n / 4,
        pkg := pkg, paddr := a, opa := BitVec.ofNat 64 (stepw.getD 0) } (some p) (some (cmd.id, p))
  match p.src with
  | .dev a => some (readReq s.eq.pkg a)
  | .remote pkg a => some (readReq pkg a)
  | .repl homes => some (readReq s.eq.pkg (homes.headD 0))
  | .host h => some (hostRequest s e cmd.id { kind := 1, agent := 0, seq := 0#32 } (some p) .rdCurr h 0#1024)
  | .spad _ _ _ | .step _ _ _ | .fetched _ _ | .zeros =>
    match p.dst with
    | .dev a => some (lateStore s.eq.pkg a none)
    | .repl homes => some (lateStore s.eq.pkg (homes.headD 0) none)
    | .remote pkg a => some (lateStore pkg a none)
    | .fetched _ _ => some s
    | .step l j o =>
      if (stepDecl (launchOf s l) j).loc = 2 then
        match stepHome s cmd l j o with
        | .ok homes => some (lateStore s.eq.pkg (homes.headD 0) (some j))
        | .error (m, va) =>
          some (failCmd s cmd.id (missTrap m va 2))
      else match readLoc s cmd p.src (srcBytes cmd p) with
        | .blocked _ _ _ | .needs _ => none
        | r => some (deliver s cmd p r)
    | .spad _ _ _ | .host _ | .zeros =>
      match readLoc s cmd p.src (srcBytes cmd p) with
      | .blocked _ _ _ | .needs _ => none
      | r => some (deliver s cmd p r)

/-- A part of a copy counted for hotness and begun. -/
def beginPiece (s : State) (cmd : Cmd) (p : Piece) : Option State := sendPiece (countPiece s cmd p) cmd p

/-- Parts of a command begun, at most `lim` of them; a part whose source line is EMPTY stays (R203). -/
def beginPieces (s : State) (id : Nat) : (lim : Nat) → List Piece → State
  | 0, rest => modCmd s id fun c => { c with pieces := c.pieces ++ rest }
  | _, [] => s
  | n + 1, p :: rest =>
    match findCmd s id with
    | none => s
    | some cmd =>
      match beginPiece s cmd p with
      | some s' => beginPieces s' id n rest
      | none => beginPieces (modCmd s id fun c => { c with pieces := c.pieces ++ [p] }) id n rest

/-- A command's parts begun as far as they can be, at most `lim` (0: all). -/
def advancePieces (s : State) (id lim : Nat) : State :=
  match findCmd s id with
  | none => s
  | some cmd =>
    beginPieces (modCmd s id fun c => { c with pieces := [] }) id (if lim = 0 then cmd.pieces.length else lim) cmd.pieces

/-! ## Scatter-accumulate updates (R385) -/

/-- R385. An update combined with the element's value: add wraps, min and max compare as signed. -/
def saCombine (op bytes : Nat) (old : Nat) (v : Int) : Nat :=
  let o := signed old (8 * bytes)
  wrapN (match op with
    | 1 => if v < o then v else o
    | 2 => if v > o then v else o
    | _ => o + v) (8 * bytes)

/-- R385. One update written at the owner's port, or as a step-region contribution. -/
def saWrite (s : State) (cmd : Cmd) (u : Loc × Int) : State :=
  match u.1 with
  | .spad c h o =>
    match cmdHandle s cmd c h with
    | none => addStatus s cmd.id 2
    | some hd => modCore s c fun k =>
        storeHandle k hd (atOffset o (bytesOf (saCombine cmd.saOp cmd.saBytes (ofBytes (handleBytes k hd o cmd.saBytes)) u.2)
          cmd.saBytes))
  | .step l j o =>
    let d := stepDecl (launchOf s l) j
    if d.loc = 2 then
      match stepHome s cmd l j o with
      | .error (m, va) =>
        failCmd s cmd.id (missTrap m va 2)
      | .ok homes =>
        if (home s (dpaDie (homes.headD 0))).online then
          contribute s l (regionNo d j (dieOf cmd.core)) (cmdRank s cmd) [(o / d.esize, wrapN u.2 (8 * d.esize))]
        else addStatus s cmd.id 4
    else contribute s l (regionNo d j (dieOf cmd.core)) (cmdRank s cmd) [(o / d.esize, wrapN u.2 (8 * d.esize))]
  | _ => s

/-- R385. Updates of a scatter-accumulate command written, at most `lim` (0: all). -/
def advanceUpdates (s : State) (id lim : Nat) : State :=
  match findCmd s id with
  | none => s
  | some cmd =>
    let n := if lim = 0 then cmd.updates.length else lim
    let s1 := modCmd s id fun c => { c with updates := c.updates.drop n }
    (cmd.updates.take n).foldl (fun s u => saWrite s cmd u) s1

/-! ## Starting commands -/

/-- R372. CP.PREF: a translation that fails leaves the lines it covers POISON, and the status is POISONED. -/
def prefMiss (s : State) (id : Nat) (ps : List Piece) : State :=
  match findCmd s id with
  | none => s
  | some cmd =>
    let covered (u : Nat × Nat × Nat) : Bool := ps.any fun p => match p.dst with
      | .spad c h o => u = (c, h, o / 128)
      | _ => false
    (cmd.unfilled.filter fun u => !covered u).foldl (fun s u => settleLine s id u.1 u.2.1 u.2.2 .poison) (addStatus s id 2)

/-- R369 to R371, R374. The parts of a copy made at its start, and begun. -/
def startCopy (s : State) (cmd : Cmd) : State :=
  let l := launchOf s cmd.wp.launch
  let wk := if cmd.kind = .acc then 6 else 2
  let parts := (rowsOf cmd.shape).flatMap fun r => rowPieces s cmd l wk r.1 r.2 cmd.n
  match lowestFailed parts with
  | none => advancePieces (modCmd s cmd.id fun c => { c with pieces := partsSound parts }) cmd.id 0
  | some (m, va, k) =>
    if cmd.kind = .pref then
      let ps := partsSound parts
      advancePieces (modCmd (prefMiss s cmd.id ps) cmd.id fun c => { c with pieces := ps }) cmd.id 0
    else
      advancePieces (modCmd (failCmd s cmd.id (missTrap m va k)) cmd.id fun c => { c with pieces := partsBefore parts }) cmd.id 0

/-- R375, R377, R378. A request of one word: an atomic, a chunk fetch or a recovery read, which goes to the anchor where the address is
replicated (R211, R226). It moves the atomic's word, or sixteen bytes (R117; log 57). An atomic or a chunk fetch at a host page reads the
line and writes it back by the requests of R100 (DESIGN CHOICE, log 75). -/
def startWord (s : State) (cmd : Cmd) (kind access : Nat) : State :=
  let l := launchOf s cmd.wp.launch
  let e := engineOf cmd.core
  match locOf s cmd.core l cmd.src 0 access false with
  | .error (m, va) => failCmd s cmd.id (missTrap m va access)
  | .ok a =>
    let moved := if cmd.kind ≠ .atom then 16 else if cmd.ctl.getLsbD 9 then 4 else 8
    let pkt (pkg dpa : Nat) : Packet :=
      { kind := kind, agent := 0, seq := 0#32, pkg := pkg, paddr := dpa, opa := cmd.opa, opb := cmd.opb,
        data := BitVec.ofNat 1024 (cmd.ctl.toNat % 2 ^ 19), dlen := 1 }
    let counted := countHot s e l.id (refBuf cmd.src) moved 0
    let send (pkg dpa : Nat) (p : Option Piece) : State := request counted e cmd.id (pkt pkg dpa) p none
    match a with
    | .dev d => send s.eq.pkg d none
    | .repl homes => send s.eq.pkg (homes.headD 0) (some { src := .zeros, dst := .repl homes, len := 0 })
    | .remote pkg d => send pkg d none
    | .host h =>
      if kind = 7 then failCmd s cmd.id (missTrap .page (refVa cmd.src) access)
      else hostRequest counted e cmd.id (pkt s.eq.pkg h) none .rdCurr h 0#1024
    | _ => failCmd s cmd.id (missTrap .page (refVa cmd.src) access)

/-- R373. The parts of row i of a gather or scatter, whose index is x. -/
def indexedRow (s : State) (cmd : Cmd) (l : Launch) (i x : Nat) : List (Except Failed Piece) :=
  let gather := cmd.kind = .getg
  let table := if gather then cmd.src else cmd.dst
  if x = (if cmd.wide then 2 ^ 64 - 1 else 2 ^ 32 - 1) then
    if gather then (cutRow 0 (refPos cmd.dst + cmd.rb * i) cmd.rb cmd.rb 0).map fun p =>
      partOf (.ok .zeros) (locOf s cmd.core l cmd.dst (cmd.rb * i + p.1) 2 false) 2 p.2 false 0
    else []
  else if refTag table = 0 && refVa table + x * cmd.stride > 2 ^ 52 - 1 then
    [.error (.page, (refVa table + x * cmd.stride) % 2 ^ 52, if gather then 1 else 2)]
  else if gather then rowPieces s cmd l 2 (x * cmd.stride) (cmd.rb * i) cmd.rb
  else rowPieces s cmd l 2 (cmd.rb * i) (x * cmd.stride) cmd.rb

/-- Where what a request is to fetch lies, by its source. -/
def fetchLoc (src a : Nat) : Loc := if src = 64 then .dev a else if src = 65 then .host a else .remote src a
/-- What a read needs is asked for: bytes that a request fetches, where none for the same reader is out; a line that the host may hold by a
snoop. -/
def askNeed (s : State) (q : Asker) (wp : WpKey) (n : Need) : State :=
  match n with
  | .snoop line => sendSnoop s line
  | .fetch src a len =>
    let visit := (coreOf s q.core).visit
    if s.cmds.any fun x => x.kind = CmdKind.fetch && x.core = q.core && x.reader = q.cmd && (q.cmd.isSome || x.n = visit) then s
    else
      let cmd : Cmd :=
        { id := s.nextCmd, core := q.core, wp := wp, kind := .fetch, counter := 16, tag := 0, n := visit, reader := q.cmd }
      let s1 := { s with nextCmd := s.nextCmd + 1, cmds := s.cmds ++ [cmd] }
      (sendPiece s1 cmd { src := fetchLoc src a, dst := .fetched src a, len := len }).getD s1

/-- R373. The index list read as it stands, and the rows begun. A list line that is EMPTY, or needs something first, keeps the command
waiting. -/
def readList (s : State) (cmd : Cmd) : State :=
  let l := launchOf s cmd.wp.launch
  let w := if cmd.wide then 8 else 4
  let got :=
    if refTag cmd.idx = 0 then readVaRange s { core := cmd.core, cmd := some cmd.id, packets := true } l (refVa cmd.idx) (cmd.n * w)
    else readHandle s (dieOf cmd.core * 48 + refCore cmd.idx) (refHandle cmd.idx) (refOffset cmd.idx) (cmd.n * w)
  match got with
  | .blocked _ _ _ => s
  | .needs n => askNeed s { core := cmd.core, cmd := some cmd.id } cmd.wp n
  | .miss m va => failCmd (modCmd s cmd.id fun c => { c with waitList := false }) cmd.id (missTrap m va 1)
  | .poison _ =>
    let s1 := modCmd s cmd.id fun c => { c with waitList := false, lines := [] }
    addStatus (poisonUnfilled s1 cmd) cmd.id 2
  | .data bs =>
    let s := if refTag cmd.idx = 0 then
        countHot s (engineOf cmd.core) l.id (refBuf cmd.idx) (cmd.n * w) 0
      else s
    let xs := (List.range cmd.n).map fun i => ofBytes ((bs.drop (i * w)).take w)
    let parts := ((List.range xs.length).zip xs).flatMap fun ix => indexedRow s cmd l ix.1 ix.2
    let s1 := match lowestFailed parts with
      | none => s
      | some (m, va, k) => failCmd s cmd.id (missTrap m va k)
    advancePieces (modCmd s1 cmd.id fun c => { c with waitList := false, lines := [], pieces := partsBefore parts }) cmd.id 0

/-- An address of a range in each 64 KiB page that it touches. -/
def pageVas (va n : Nat) : List Nat :=
  if n = 0 then [] else (span (va / 65536) ((va + n - 1) / 65536 - va / 65536 + 1)).map fun p => max va (65536 * p)
/-- R112. Bytes of a launch's ring table. -/
def ringTableBytes (streams windows : Nat) : Nat := if streams ≠ 0 then 256 + 144 * streams else 16 * windows
/-- R45, R111. Addresses in the pages that a live launch pins: its completion record, hotness block, tables, chunk descriptors and
windows. -/
def pinnedVas (x : Launch) : List Nat :=
  let tables := [(x.compl, 64), (x.hot, 4096), (x.tidt, 8192), (x.stept, 512),
    (x.ringt, ringTableBytes x.streams.length x.windows.length)].filter (·.1 ≠ 0)
  let chunks := (x.levels.filter fun w => w.chunk).map fun w => (x.chunkt + 32 * w.cidx, 32)
  (tables ++ chunks ++ x.windows.map fun w => (w.base, w.length)).flatMap fun r => pageVas r.1 r.2

/-- R230. The line at the migration pointer on its way to the new home. -/
def sendLine (s : State) (m : Migration) : State :=
  sendPacket s (2 * m.oldDie + 1) (2 * m.newDie + 1)
    { kind := 0xD, agent := 64 + m.oldDie, seq := BitVec.ofNat 32 m.cmd, dlen := 32, pkg := s.eq.pkg,
      paddr := dpaOf m.newDie (m.newL + 128 * m.ptr),
      data := packData (dramBytes s (dpaOf m.oldDie (m.oldL + 128 * m.ptr)) 128) } none

/-- R383, R230. CP.MIG's request to the old home: refused under R229, deferred while the page is pinned, else the migration
begins. It waits, unchanged, while no forwarding record of the old home is free or the page is moving already. -/
def startMigration (s : State) (cmd : Cmd) : State :=
  let l := launchOf s cmd.wp.launch
  let va := refVa cmd.src
  let done (code st : Nat) : State :=
    addStatus (modCmd s cmd.id fun c => { c with result := some (BitVec.ofNat 64 code) }) cmd.id st
  match engineTranslate s (engineOf cmd.core) l va 1 with
  | .error m => failCmd s cmd.id (missTrap m va 1)
  | .ok t =>
    match walk s l.ptroot va 4 1 with
    | .error m => failCmd s cmd.id (missTrap m va 1)
    | .ok (level, at_, leaf) =>
      let size := pageBytes level
      let newDie := cmd.opb.toNat % 16 - 1
      let newL := cmd.opa.toNat
      match t.place with
      | .dev [a] =>
        let last := placeOf s l.ptroot l.sys leaf level (va + size - 1)
        let mid := (coveringRegion s l.ptroot (pteFrame leaf)).elim false fun e =>
          ptePlc leaf = 0 && e.mode = 0 && size > 2 ^ e.slog2 && (bitsSet e.dset 8).length > 1
        let spread := mid || (match last with
          | .ok (.dev [b]) => dpaDie b ≠ dpaDie a
          | _ => true)
        let pinned := s.launches.any fun x => (pinnedVas x).any fun v =>
          match translate s x.ptroot true v 1 with
          | .ok q => (match q.place with
            | .dev (b :: _) => dpaDie a = dpaDie b && dpaLocal a ≤ dpaLocal b && dpaLocal b < dpaLocal a + size
            | _ => false)
          | .error _ => false
        if spread then done 2 0
        else if pinned then done 3 0
        else if !(home s (dpaDie a)).online || !(home s newDie).online then done 4 4
        else if (home s (dpaDie a)).forwarding.length + (home s (dpaDie a)).migrations.length ≥ Config.maxForwarding ||
            (home s (dpaDie a)).migrations.any (fun m => m.oldL ≤ dpaLocal a && dpaLocal a < m.oldL + m.size) then s
        else
          let m : Migration :=
            { entryAt := at_, oldDie := dpaDie a, oldL := dpaLocal a, size := size, newDie := newDie, newL := newL,
              newPlc := cmd.opb.toNat % 16, ptr := 0, cmd := cmd.id }
          sendLine (modHome s (dpaDie a) fun h => { h with migrations := h.migrations ++ [m] }) m
      | .dev _ => done 1 0
      | _ => done 2 0

/-- A command in progress begins its work. -/
def beginCommand (s : State) (cmd : Cmd) : State :=
  let s1 := modCmd s cmd.id fun c => { c with begun := true, after := [] }
  match cmd.kind with
  | .get | .put | .pref | .getm | .acc =>
    let wk := if cmd.kind = .acc then 6 else 2
    let s2 := startCopy s1 cmd
    (rowsOf cmd.shape).foldl (fun s r => cacheRef (cacheRef s cmd (cmd.src + BitVec.ofNat 64 r.1) cmd.n 1) cmd
      (cmd.dst + BitVec.ofNat 64 r.2) cmd.n wk) s2
  | .getg | .putg => readList (modCmd s1 cmd.id fun c => { c with waitList := true }) cmd
  | .atom => startWord s1 cmd 3 (if field cmd.ctl.toNat 10 4 = 10 then 4 else 3)
  | .cfa => startWord s1 cmd 4 5
  | .recov => startWord s1 cmd 7 7
  | .mig => startMigration s1 cmd
  | .sa | .fetch => s1

/-- A command handed to the engine: it is counted among the commands in progress, and begins once the commands that a fence or
a release puts before it have ended (R222, R223). -/
def startCommand (s : State) (cmd : Cmd) : State :=
  let live := cmd.after.filter (liveId s)
  if live.isEmpty then beginCommand { s with cmds := s.cmds ++ [cmd] } cmd
  else { s with cmds := s.cmds ++ [{ cmd with after := live, begun := false }] }

/-- Commands that waited for a command that has ended begin. -/
def beginHeld (s : State) : State :=
  (s.cmds.filter fun c => !c.begun).foldl (fun s c =>
    if c.after.any (liveId s) then s else beginCommand s c) s

/-! ## Effects that leave the core (R183, R184, R202) -/

/-- R227. Is the near-memory unit in service at the home where an element of region j of launch l resolves? A CORE or CLUSTER region
resolves at its owner's port. -/
def elementServed (s : State) (l j elem : Nat) : Bool :=
  let ln := launchOf s l
  let d := stepDecl ln j
  if j ≥ 16 || d.loc ≠ 2 then true
  else match translate s ln.ptroot ln.sys (d.base.toNat % 2 ^ 52 + planeOffset s ln j 0 true + elem * d.esize) 2 with
    | .error _ => true
    | .ok t => match t.place with
      | .dev homes => (home s (dpaDie (homes.headD 0))).online
      | _ => true

/-- A gated or immediate effect performs. -/
def performEff (s : State) (e : Eff) : State :=
  match e with
  | .store c h bytes =>
    match handleOf s c h with
    | some hd => modCore s c fun k => storeHandle k hd bytes
    | none => s
  | .sete c h line n =>
    match handleOf s c h with
    | some hd => modCore s c fun k => (span line n).foldl (fun k l => setLine k hd l .empty) k
    | none => s
  | .zero c h line n =>
    match handleOf s c h with
    | some hd => modCore s c fun k => storeHandle k hd (atOffset (128 * line) (List.replicate (128 * n) 0#8))
    | none => s
  | .step l j rank elems => contribute s l j rank (elems.filter fun x => elementServed s l j x.1)
  | .copy c => startCommand s c
  | .mark _ _ _ _ => s

/-- R184. Effects in program order. -/
def performAll (s : State) (es : List Eff) : State := es.foldl performEff s

end Sys2Proof.Machine
end

