-- ==== Sys2Proof/Machine/Charting.lean ====
section
/-! DEFINITION. The Chart at work: failing banks, retirement, evacuation targets and what follows from a fall of capacity
(R150, R153, R197 to R201). -/
namespace Sys2Proof.Machine

/-- The state with the Chart of a level of core c changed. -/
def modChart (s : State) (c : Nat) (l : Level) (f : Chart → Chart) : State :=
  modCore s c fun k => setChart k l (f (chartOf k l))

/-- The logical bank, of n, mapped to physical bank p, if any. -/
def logicalIn (ch : Chart) (n p : Nat) : Option Nat :=
  (List.range n).find? fun b => ch.phys b = p && !ch.unmapped.contains b
def logicalOf (ch : Chart) (l : Level) (p : Nat) : Option Nat := logicalIn ch (logicalBanks l) p

/-- R197. The lowest physical bank mapped to no logical bank, in use by no evacuation and not failing. -/
def spareBank (ch : Chart) (l : Level) : Option Nat :=
  (List.range (physicalBanks l)).find? fun p =>
    (logicalOf ch l p).isNone && !ch.failing.contains p && !ch.evacs.any fun e => e.dst = p || e.src = p

/-- The number that the error log uses for a storage level (R430). -/
def levelCode (l : Level) : Nat :=
  match l with
  | .spad => 0
  | .opd => 1

/-- R430. DETAIL of an entry about a core's storage: byte 32 storage, bytes 34–35 physical bank, 36–39 line, register or row. -/
def storageDetail (code bank line : Nat) : Nat := code + bank * 2 ^ 16 + line * 2 ^ 32

/-- R198, R430. A bank retired: the class 7 entry. -/
def logRetired (s : State) (c : Nat) (code bank : Nat) : State :=
  logEvent s 7 (dieOf c) (coreNo c) 0x701 0 0 (storageDetail code bank 0)

/-- R150. The waypoints pinned to core c that are not running, oldest first. -/
def pinnedTo (s : State) (c : Nat) : List Waypoint :=
  let ws := s.waypoints.filter fun w =>
    w.aff = 2 && w.anchorDie * 48 + w.anchorCore = c && (w.state = .ready || w.state = .suspended || w.state = .preempted)
  ws.foldl (fun acc w =>
    (acc.filter fun x => x.leftAt < w.leftAt || (x.leftAt = w.leftAt && x.key.wpid < w.key.wpid)) ++ [w] ++
    (acc.filter fun x => !(x.leftAt < w.leftAt || (x.leftAt = w.leftAt && x.key.wpid < w.key.wpid)))) []

/-- The banks of a level that a waypoint's handles hold on core c. -/
def banksOf (s : State) (c : Nat) (l : Level) (k : WpKey) : Nat :=
  (((coreOf s c).handles.filter fun h => h.2.owner = k && h.2.level = l).flatMap fun h => h.2.banks).length

/-- R150. After a fall of capacity: the dispatcher evacuates pinned waypoints, oldest first, until what is held is covered; a
running waypoint that still holds too much meets OVER_CAPACITY at its next bundle boundary. -/
def applyShrink (s : State) (c : Nat) (l : Level) : State :=
  let held := (heldBanks (coreOf s c) l).length
  let cap := capacity (coreOf s c) l
  if held ≤ cap then s
  else
    let r := (pinnedTo s c).foldl (fun (acc : State × Nat) w =>
      if acc.2 ≤ cap then acc
      else (enqueue acc.1 .evacuationComplete { wp := w.key, core := c }, acc.2 - banksOf s c l w.key)) (s, held)
    enqueue r.1 .overCapacity { core := c }

/-- R199, R200. The Chart begins to move logical bank b from physical p to q. -/
def beginEvac (ch : Chart) (b p q : Nat) (unmap : Option Nat) (fall : Bool) : Chart :=
  { ch with evacs := ch.evacs ++ [{ logical := b, src := p, dst := q, ptr := 0, unmap := unmap, fall := fall }] }

/-- R199. RetireBank(p, l) of core c. -/
def retireBank (s : State) (c : Nat) (l : Level) (p : Nat) : State :=
  let k := coreOf s c
  let ch := chartOf k l
  if ch.evacs.any fun e => e.dst = p || e.src = p then s     -- R199: it is retired after the flip
  else match logicalOf ch l p with
  | none => logRetired (modChart s c l fun ch => { ch with retired := ch.retired ++ [p] }) c (levelCode l) p
  | some b =>
    if !(heldBanks k l).contains b then
      let s1 := modChart s c l fun ch => { ch with unmapped := ch.unmapped ++ [b], retired := ch.retired ++ [p] }
      applyShrink (logRetired s1 c (levelCode l) p) c l
    else match spareBank ch l with
      | some q => modChart s c l fun ch => beginEvac ch b p q none false
      | none =>
        match greatest (freeBanks k l) with
        | some u => modChart s c l fun ch => beginEvac ch b p (ch.phys u) (some u) true
        | none => applyShrink (modChart s c l fun ch => { ch with owed := ch.owed ++ [(p, b)] }) c l

/-- R198. A bank becomes failing, once. -/
def bankFails (s : State) (c : Nat) (l : Level) (p : Nat) : State :=
  if (chartOf (coreOf s c) l).failing.contains p then s
  else retireBank (modChart s c l fun ch => { ch with failing := ch.failing ++ [p] }) c l p

/-- R199. The owed retirements served when banks of core c have become unheld: first those whose own logical bank is unheld,
then the others in order, each by the highest-numbered free bank. -/
def serveOwed (s : State) (c : Nat) (l : Level) : State :=
  let s1 := (chartOf (coreOf s c) l).owed.foldl (fun s o =>
    if (heldBanks (coreOf s c) l).contains o.2 then s
    else logRetired (modChart s c l fun ch =>
      { ch with owed := ch.owed.filter (· ≠ o), unmapped := ch.unmapped ++ [o.2], retired := ch.retired ++ [o.1] })
      c (levelCode l) o.1) s
  (chartOf (coreOf s1 c) l).owed.foldl (fun s o =>
    match greatest (freeBanks (coreOf s c) l) with
    | none => s
    | some u => modChart s c l fun ch =>
        beginEvac { ch with owed := ch.owed.filter (· ≠ o) } o.2 o.1 (ch.phys u) (some u) false) s1

/-- R398. A command to which handles of core c that have been released are gone, whoever holds their numbers later. -/
def loseHandles (c : Nat) (hs : List Nat) (x : Cmd) : Cmd :=
  { x with gone := x.gone ++ hs.map fun h => (c, h),
           unfilled := x.unfilled.filter fun u => !(u.1 = c && hs.contains u.2.1) }

/-- R398. Handles of core c released, those for which `p` holds, and the owed retirements served. -/
def releaseHandles (s : State) (c : Nat) (p : Nat → Handle → Bool) : State :=
  let gone := (coreOf s c).handles.filter fun h => p h.1 h.2
  if gone.isEmpty then s
  else
    let s0 := { s with cmds := s.cmds.map (loseHandles c (gone.map (·.1))) }
    let s1 := modCore s0 c fun k => { k with handles := k.handles.filter fun h => !p h.1 h.2 }
    serveOwed (serveOwed s1 c .spad) c .opd

/-- R197, R201. A Chart without evacuations after bank p is retired: the lowest spare of the n physical banks takes its logical bank;
where there is none, the highest of the logical banks in service is unmapped, its physical bank taking the place of p (log 54). -/
def replaceBank (ch : Chart) (logical n p : Nat) : Chart :=
  let ch1 := { ch with retired := ch.retired ++ [p] }
  match logicalIn ch logical p with
  | none => ch1
  | some l =>
    match (List.range n).find? fun q => (logicalIn ch logical q).isNone && !ch.failing.contains q with
    | some q => { ch1 with map := Map.set ch.map l q }
    | none =>
      match greatest ((List.range logical).filter fun b => !ch.unmapped.contains b) with
      | some u => { ch1 with map := Map.set ch.map l (ch.phys u), unmapped := ch.unmapped ++ [u] }
      | none => ch1

/-- R198. The banks of a Chart that are failing and not yet retired. -/
def Chart.due (ch : Chart) : List Nat := ch.failing.filter fun p => !ch.retired.contains p

/-- R153, R201. While no waypoint runs on core c, its failing vector banks and tiles are retired: by a spare, else the capacity
falls. -/
def retireIdle (s : State) (c : Nat) : State :=
  let s1 := (coreOf s c).vregChart.due.foldl (fun s b =>
    logRetired (modCore s c fun k => { k with vregChart := replaceBank k.vregChart Config.vregLogical Config.vregPhysical b }) c 2 b) s
  (coreOf s c).tileChart.due.foldl (fun s t =>
    logRetired (modCore s c fun k => { k with tileChart := replaceBank k.tileChart Config.tileBanks Config.tileBanks t }) c 3 t) s1

/-- R198, R201. A vector bank (below 16) or an accumulator tile (16 + t) becomes failing, once; it is retired at once where no waypoint
runs on its core. -/
def regFails (s : State) (c bank : Nat) : State :=
  let k := coreOf s c
  let ch := if bank < 16 then k.vregChart else k.tileChart
  if ch.failing.contains (bank % 16) || (bank < 16 && bank ≥ Config.vregPhysical) || bank ≥ 32 then s
  else
    let s1 := modCore s c fun k =>
      if bank < 16 then { k with vregChart := { ch with failing := ch.failing ++ [bank] } }
      else { k with tileChart := { ch with failing := ch.failing ++ [bank % 16] } }
    if k.mode = .idle then retireIdle s1 c else s1

/-- R198, R201. A memory-side cache bank becomes failing, once, and is retired: a spare replaces it, or its logical bank is left
unmapped. -/
def cacheFails (s : State) (d bank : Nat) : State :=
  let ch := (home s d).cacheChart
  if ch.failing.contains bank || bank ≥ Config.cachePhysical then s
  else
    let ch1 := replaceBank { ch with failing := ch.failing ++ [bank] } Config.cacheLogical Config.cachePhysical bank
    let s1 := modHome s d fun h => { h with cacheChart := ch1 }
    logEvent s1 7 (8 + d) 0 0x701 0 0 (bank * 2 ^ 16)

/-- R198. Chronometer ticks within which eight corrected errors make a bank failing. -/
def failWindow : Nat := 10 ^ 10

/-- R198. The times of a bank's corrected errors with one more, those too old dropped; and whether it is the eighth. -/
def countError (m : Map (List Nat)) (bank now : Nat) : Map (List Nat) × Bool :=
  let ts := ((Map.get m bank []).filter fun t => now < t + failWindow) ++ [now]
  (Map.set m bank ts, ts.length ≥ 8)

end Sys2Proof.Machine
end

