-- ==== Sys2Proof/Machine/Barriers.lean ====
section
/-! DEFINITION. Step groups, their barriers and the swap of step regions (R136, R137, R212 to R217, R405). -/
namespace Sys2Proof.Machine

/-! ## Step groups -/

/-- Does some core hold the waypoint? -/
def heldByCore (s : State) (k : WpKey) : Option Nat :=
  (s.cores.find? fun e => e.2.mode ≠ .idle && e.2.wp = k).map (·.1)

/-- R126, R405. Has a waypoint ended: DONE, or FAULTED with no handler run under way or to follow? R127 frees the id of a FAULTED
waypoint, and R191 lets a handler return it to service: the spec does not say what its id is meanwhile; it keeps the id until its handler
has ended (DESIGN CHOICE, log 73). -/
def ended (s : State) (w : Waypoint) : Bool :=
  w.state = .done || (w.state = .faulted && w.fault.isNone && w.frame.isNone && (heldByCore s w.key).isNone)

/-- R405. The step group of a waypoint. -/
def groupOf (w : Waypoint) : GroupKey := ⟨w.key.launch, w.level, w.parent⟩
/-- R137. The waypoints of a step group. -/
def membersOf (s : State) (g : GroupKey) : List Waypoint := s.waypoints.filter fun w => groupOf w = g
/-- R405. Those that have not ended. -/
def liveMembers (s : State) (g : GroupKey) : List Waypoint := (membersOf s g).filter fun w => !ended s w

def barrierOf (s : State) (g : GroupKey) : Barrier := ((s.barriers.find? fun b => b.1 = g).map (·.2)).getD {}
def setBarrier (s : State) (g : GroupKey) (b : Barrier) : State :=
  { s with barriers := (s.barriers.filter fun x => x.1 ≠ g) ++ [(g, b)] }

/-- The level word of a level of a launch, where it has one. -/
def levelWord (l : Launch) (level : Nat) : Option LevelWord := l.levels[level]?
/-- Does the waypoint's level synchronise (STEP = 1)? -/
def levelSteps (s : State) (w : Waypoint) : Bool := (levelWord (launchOf s w.key.launch) w.level).elim false fun x => x.step

/-- R136. The scope that a domain implies (0 SYSTEM to 4 CORE). -/
def domainScope (domain : Nat) : Nat :=
  match domain with
  | 1 => 0 | 3 => 2 | 4 => 3 | 5 => 4
  | _ => 1
/-- R136. The effective scope of a level: the wider, so the lower code. -/
def effectiveScope (l : Launch) (level : Nat) : Nat :=
  match levelWord l level with
  | none => 1
  | some w => min w.scope (domainScope w.domain)

/-! ## The swap (R215, R216) -/

/-- A region of a swap: number, declaration, die of its storage. -/
structure SwapRegion where
  j : Nat
  decl : StepDecl
  die : Nat
  deriving DecidableEq, Repr

/-- R215. The regions bound at a group's level, once for each die on which members run, GLOBAL ones once. -/
def swapRegions (s : State) (g : GroupKey) : List SwapRegion :=
  let l := launchOf s g.launch
  match levelWord l g.level with
  | none => []
  | some w =>
    let dies := dedup ((membersOf s g).filterMap fun m => (heldByCore s m.key).map dieOf)
    ((List.range 16).filter fun j => w.rmask.getLsbD j && (stepDecl l j).valid).flatMap fun j =>
      let d := stepDecl l j
      if d.loc = 2 then [⟨j, d, 0⟩] else dies.map fun x => ⟨j, d, x⟩

/-- The contributions stored to an element in the step. -/
def storedTo (r : StepRegion) (i : Nat) : List Contrib := r.contribs.filter fun c => c.elem = i

/-- R215. Two or more members have stored to an element of a FAULT region. -/
def collides (d : StepDecl) (cs : List Contrib) : Bool := d.rule = 2 && (dedup (cs.map fun c => c.rank)).length ≥ 2

/-- R216. The lowest colliding element of the lowest region that collided. -/
def collision (s : State) (g : GroupKey) (rs : List SwapRegion) : Option (Nat × Nat) :=
  let bad := rs.flatMap fun x =>
    let r := stepRegion s g.launch (regionNo x.decl x.j x.die)
    ((dedup (r.contribs.map fun c => c.elem)).filter fun i => collides x.decl (storedTo r i)).map fun i => (x.j, i)
  bad.foldl (fun best y => match best with
    | none => some y
    | some b => if y.1 < b.1 ∨ (y.1 = b.1 ∧ y.2 < b.2) then some y else some b) none

/-- R215. The value that an element takes from what was stored to it, and whether a sum leaves the signed range. -/
def resolved (d : StepDecl) (cs : List Contrib) : Nat × Bool :=
  let bits := 8 * d.esize
  if d.rule = 1 then
    let t := (cs.map fun c => signed c.value bits).foldl (· + ·) 0
    (wrapN t bits, decide (t < -((2 ^ (bits - 1) : Nat) : Int)) || decide (t ≥ ((2 ^ (bits - 1) : Nat) : Int)))
  else
    let low := (least (cs.map fun c => c.rank)).getD 0
    ((((cs.filter fun c => c.rank = low).getLast?).map fun c => c.value).getD 0, false)

/-- R216. The lowest virtual address of a GLOBAL region's storage that does not translate, with its trap. -/
def storageMiss (s : State) (l : Launch) (d : StepDecl) : Option (Miss × Nat) :=
  let base := d.base.toNat % 2 ^ 52
  let n := stepStorage d
  ((span (base / 65536) ((base + n - 1) / 65536 - base / 65536 + 1)).map fun p => max base (65536 * p)).findSome? fun va =>
    match translate s l.ptroot l.sys va 2 with
    | .ok t => (match t.place with
      | .dev _ => none
      | _ => some (.page, va))
    | .error m => some (m, va)

/-- R216. The lowest failing address of every GLOBAL region of a swap. -/
def swapMiss (s : State) (l : Launch) (rs : List SwapRegion) : Option (Miss × Nat) :=
  (rs.filterMap fun x => if x.decl.loc = 2 then storageMiss s l x.decl else none).foldl (fun best y => match best with
    | none => some y
    | some b => if y.2 < b.2 then some y else some b) none

/-- The homes of n bytes of a region's storage at a virtual address. -/
def storageHomes (s : State) (l : Launch) (va : Nat) : List Nat :=
  match translate s l.ptroot l.sys va 2 with
  | .ok t => (match t.place with
    | .dev homes => homes.map (atHome s)
    | _ => [])
  | .error _ => []

/-- R215. Element i of a region: next(i) written from what was stored, or carried over from present(i) with its poison. -/
def swapElement (l : Launch) (x : SwapRegion) (now next : Nat) (r : StepRegion) (s : State) (i : Nat) : State :=
  let d := x.decl
  let cs := storedTo r i
  let off := i * d.esize
  if d.loc = 2 then
    let base := d.base.toNat % 2 ^ 52
    let src := (storageHomes s l (base + now + off)).headD 0
    let homes := storageHomes s l (base + next + off)
    if cs.isEmpty then
      let s1 := homes.foldl (fun s a => putDram s a (dramBytes s src d.esize)) s
      if poisonIn s src d.esize then homes.foldl (fun s a => poisonRange s a d.esize) s1 else s1
    else homes.foldl (fun s a => putDram s a (bytesOf (resolved d cs).1 d.esize)) s
  else
    let (c, h) := stepHolder d x.die
    match handleOf s c h with
    | none => s
    | some hd => modCore s c fun k =>
        if cs.isEmpty then
          let k1 := storeHandle k hd (atOffset (next + off) (handleBytes k hd (now + off) d.esize))
          if lineState k hd ((now + off) / 128) = .poison then setLine k1 hd ((next + off) / 128) .poison else k1
        else storeHandle k hd (atOffset (next + off) (bytesOf (resolved d cs).1 d.esize))

/-- R215, R217. A region's next plane written and its planes swapped; and whether a sum overflowed. -/
def swapRegion (s : State) (l : Launch) (x : SwapRegion) : State × Bool :=
  let no := regionNo x.decl x.j x.die
  let r := stepRegion s l.id no
  let now := planeOffset s l x.j x.die false
  let next := planeOffset s l x.j x.die true
  let s1 := (List.range x.decl.count).foldl (swapElement l x now next r) s
  let ovf := (dedup (r.contribs.map fun c => c.elem)).any fun i => (resolved x.decl (storedTo r i)).2
  (modStepRegion s1 l.id no fun r => { r with plane1 := !r.plane1, contribs := [] }, ovf)

/-- What the swap of a group's regions gives: a trap for every member, or the new state and the overflow bits. -/
def swapAll (s : State) (g : GroupKey) : Trap ⊕ (State × BitVec 16) :=
  let l := launchOf s g.launch
  let rs := swapRegions s g
  match collision s g rs with
  | some (j, i) => .inl { code := 0x0040#16, info := BitVec.ofNat 64 (i * 2 ^ 16 + j) }
  | none =>
    match swapMiss s l rs with
    | some (m, va) => .inl { code := (missTrap m va 2).1, info := (missTrap m va 2).2, asynch := true }
    | none =>
      .inr (rs.foldl (fun acc x =>
        let (s', o) := swapRegion acc.1 l x
        (s', if o then acc.2 ||| (1#16 <<< x.j) else acc.2)) (s, 0#16))

/-! ## The barrier (R405) -/

/-- The barrier of a group ends its generation. `others` says at which instruction members on other packages arrived (true:
RG.STEP). -/
def completeBarrier (s : State) (g : GroupKey) (others : List Bool) : State :=
  let b := barrierOf s g
  let step := !b.atStep.isEmpty || others.contains true
  let bar := !b.atBar.isEmpty || others.contains false
  let fresh : Barrier := { gen := (b.gen + 1) % 2 ^ 32 }
  if step && bar then setBarrier s g { fresh with mismatch := b.atStep ++ b.atBar }
  else if bar then setBarrier s g { fresh with release := b.atBar }
  else match swapAll s g with
    | .inl t => setBarrier s g { fresh with release := b.atStep, trap := some t }
    | .inr (s1, ovf) => setBarrier s1 g { fresh with release := b.atStep, ovf := ovf }

/-- Has every member that has not ended arrived? -/
def allArrived (s : State) (g : GroupKey) : Bool :=
  let b := barrierOf s g
  (liveMembers s g).all fun w => b.atStep.contains w.key.wpid || b.atBar.contains w.key.wpid

/-- R405, R406. A member arrives at its group's barrier; within one die the barrier ends when the last has arrived. -/
def arriveAt (s : State) (w : Waypoint) (isStep : Bool) : State :=
  let g := groupOf w
  let b := barrierOf s g
  let s1 := setBarrier s g
    (if isStep then { b with atStep := addWord w.key.wpid b.atStep } else { b with atBar := addWord w.key.wpid b.atBar })
  if effectiveScope (launchOf s g.launch) g.level ≥ 2 && allArrived s1 g then completeBarrier s1 g [] else s1

/-- R147, R405. A member that leaves before its barrier has ended withdraws its arrival. -/
def withdraw (s : State) (k : WpKey) : State :=
  match findWp s k with
  | none => s
  | some w =>
    let g := groupOf w
    if s.barriers.any fun x => x.1 = g then
      let b := barrierOf s g
      setBarrier s g { b with atStep := b.atStep.filter (· ≠ k.wpid), atBar := b.atBar.filter (· ≠ k.wpid) }
    else s

/-- R405. A member's share in the last generation is over: it has passed, or taken its trap. -/
def leaveBarrier (s : State) (k : WpKey) : State :=
  match findWp s k with
  | none => s
  | some w =>
    let g := groupOf w
    if s.barriers.any fun x => x.1 = g then
      let b := barrierOf s g
      setBarrier s g { b with release := b.release.filter (· ≠ k.wpid), mismatch := b.mismatch.filter (· ≠ k.wpid) }
    else s

/-- Is a trap one that the last generation of a waypoint's barrier gave it? -/
def barrierTrap (s : State) (k : WpKey) (t : Trap) : Bool :=
  match findWp s k with
  | none => false
  | some w =>
    let b := barrierOf s (groupOf w)
    (t.code = 0x0043#16 && b.mismatch.contains k.wpid) || (b.release.contains k.wpid && b.trap = some t)

end Sys2Proof.Machine
end

