-- ==== Sys2Proof/Machine/Frames.lean ====
section
/-! DEFINITION. Waypoint records (R124 to R126), the control registers that software reads (R161, R162), and context frames: the
bytes of a frame at their offsets and its place in reserved memory (R148, R192). -/
namespace Sys2Proof.Machine

/-! ## Waypoint records (R125) -/

def stateCode (w : WpState) : Nat :=
  match w with
  | .ready => 0 | .running => 1 | .suspended => 2 | .preempted => 3 | .faulted => 4 | .done => 5

/-- Bytes 8–15 of a waypoint's record with a given STATE. -/
def wpWord1 (w : Waypoint) (st : Nat) : Word :=
  BitVec.ofNat 64 (w.key.launch * 2 ^ 32 + w.key.wpid * 2 ^ 12 + w.level * 2 ^ 9 + st * 2 ^ 6 + w.prio * 2 ^ 4 +
    w.aff * 2 ^ 2 + (if st = 2 then w.wait else 0))
/-- Bytes 16–23. -/
def wpWord2 (w : Waypoint) : Word := BitVec.ofNat 64 (w.hi * 2 ^ 32 + w.lo)
/-- R125, R126. The record: eight words. SVAL holds s1 to s4 of a READY, SUSPENDED or DONE waypoint, else the address of its context
frame where one exists. -/
def recordWords (w : Waypoint) : List Word :=
  let w0 := BitVec.ofNat 64 (w.range.toNat * 2 ^ 63 + w.evac.toNat * 2 ^ 62 + w.rcount * 2 ^ 56 + w.resume)
  let w3 := BitVec.ofNat 64
    (w.anchorDie * 2 ^ 61 + w.anchorCore * 2 ^ 55 + w.pmask.toNat * 2 ^ 47 + w.join.toNat)
  let sv := match w.state with
    | .ready | .suspended | .done => w.sval
    | .running | .preempted | .faulted => [BitVec.ofNat 64 (w.frameAt.getD 0), 0#64, 0#64, 0#64]
  [w0, wpWord1 w (stateCode w.state), wpWord2 w, w3] ++ sv

/-! ## The reserved area (R101, R124, R148; its layout is the model's, log 13) -/

/-- R124. The place of record i on memory die d. -/
def recordAddr (d i : Nat) : Nat := dpaOf d (Config.reservedBase + 64 * i)
/-- R148. The place of context frame i on memory die d. -/
def frameAddr (d i : Nat) : Nat := dpaOf d (Config.reservedBase + Config.framesAt + Config.frameSize * i)
/-- The first place that is not in use. -/
def firstFree (used : List Nat) (place : Nat → Nat) : Nat :=
  place (((List.range used.length).find? fun i => !used.contains (place i)).getD used.length)

/-! ## Control registers (R161, R162) -/

/-- R161. The selectors that name a control register. -/
def controlListed (sel : Nat) : Bool := (0xA0 ≤ sel && sel ≤ 0xB9) || (0xC0 ≤ sel && sel ≤ 0xD5)
/-- R161. Registers of the handler alone. -/
def controlHandler (sel : Nat) : Bool := (0xB0 ≤ sel && sel ≤ 0xB4) || (0xB6 ≤ sel && sel ≤ 0xB9)
/-- R161. Registers a move may write. -/
def controlWritable (sel : Nat) : Bool := (0xAB ≤ sel && sel ≤ 0xAE) || controlHandler sel || (0xC0 ≤ sel && sel ≤ 0xD5)

/-- R162. k.rrb of a core. -/
def rrbWord (k : Core) : Word := BitVec.ofNat 64 (k.rv % 32 * 2 ^ 16 + k.rs % 16 * 2 ^ 8 + k.rp % 8)
/-- R161. k.mark: bit 0 says that a region is open; a frozen one is not (R191). -/
def markWord (k : Core) : Word := BitVec.ofNat 64 (k.markAt + (if k.region.isSome && !k.frozen then 1 else 0))

/-- R161. The value of a control register. -/
def controlValue (s : State) (c sel : Nat) : Word :=
  let k := coreOf s c
  let w := findWp s k.wp
  match sel with
  | 0xA0 => BitVec.ofNat 64 (coreNo c)
  | 0xA1 => BitVec.ofNat 64 (clusterOf c)
  | 0xA2 => BitVec.ofNat 64 (dieOf c)
  | 0xA3 => w.elim 0#64 fun w => wpWord1 w 1
  | 0xA4 => w.elim 0#64 wpWord2
  | 0xA5 => chronOf s (dieOf c)
  | 0xA6 => cycOf s (dieOf c)
  | 0xA7 => BitVec.ofNat 64 (capacity k .spad)
  | 0xA8 => BitVec.ofNat 64 (capacity k .opd)
  | 0xA9 => BitVec.ofNat 64 (capVreg k)
  | 0xAA => BitVec.ofNat 64 (capTiles k)
  | 0xAB => rrbWord k
  | 0xAC => k.lc
  | 0xAD => k.ec.zeroExtend 64
  | 0xAE => k.flg.zeroExtend 64
  | 0xAF => BitVec.ofNat 64 ((coreLaunch s c).sys.toNat * 2 + k.hm.toNat)
  | 0xB0 => k.trapc
  | 0xB1 => k.trapi
  | 0xB2 => k.epc
  | 0xB3 => k.rpi
  | 0xB4 => k.mxs
  | 0xB5 => markWord k
  | n => if n ≤ 0xB9 then Map.get k.hs (n - 0xB6) 0#64 else Map.get k.sd (n - 0xC0) 0#64

/-! ## Context frames (R148, R192) -/

/-- R192. The shadowed state. -/
def shadowOf (k : Core) : Shadow :=
  { sc := k.sc, pr := k.pr, ma := k.ma, empty := k.empty, pends := k.pends, rv := k.rv, rs := k.rs, rp := k.rp, lc := k.lc,
    ec := k.ec, flg := k.flg, trapc := k.trapc, trapi := k.trapi, epc := k.epc, rpi := k.rpi, mxs := k.mxs, hs := k.hs,
    sd := k.sd, ty := k.ty, dv := k.dv, dm := k.dm, sticky := k.sticky }

/-- Bytes at an offset of a frame. -/
abbrev FramePiece := Nat × List Byte

/-- R192. n full/empty bits from register key `base` on, 1 for FULL (log 13). -/
def fullBits (e : BitVec 320) (base n : Nat) : Nat := 2 ^ n - 1 - e.toNat / 2 ^ base % 2 ^ n

/-- R192. The control registers of an area, by selector. -/
def areaControls (h : Shadow) : List (Nat × Word) :=
  [(0xAB, BitVec.ofNat 64 (h.rv % 32 * 2 ^ 16 + h.rs % 16 * 2 ^ 8 + h.rp % 8)), (0xAC, h.lc), (0xAD, h.ec.zeroExtend 64),
   (0xAE, h.flg.zeroExtend 64), (0xB0, h.trapc), (0xB1, h.trapi), (0xB2, h.epc), (0xB3, h.rpi), (0xB4, h.mxs)] ++
  (h.hs.map fun e => (0xB6 + e.1, e.2)) ++ h.sd.map fun e => (0xC0 + e.1, e.2)

/-- R192. Type registers, DV, DM and the remaining fixed distances of the units. -/
def areaUnits (h : Shadow) : List Byte :=
  let left (u : Nat) : Nat := ((h.pends.filter fun p => p.unit = u + 1 && p.fixed).map fun p => p.left).foldl max 0
  ((List.range 4).map fun u => (Map.get h.ty u 0#4).zeroExtend 8) ++
  ((span 2 5).map fun u => (Map.get h.dv u 0#6).zeroExtend 8) ++ ((span 2 2).map fun u => (Map.get h.dm u 0#3).zeroExtend 8) ++
  [0#8] ++ (List.range 12).map fun u => BitVec.ofNat 8 (left u)

/-- R192. A sticky record: eight move words, three long immediates, count, trigger port and valid bit. -/
def stickyBytes (r : Sticky) : List Byte :=
  ((List.range 8).flatMap fun i => bytesOf (r.words.getD i 0#32).toNat 4) ++
  ((List.range 3).flatMap fun i => bytesOf (r.longs.getD i 0#64).toNat 8) ++
  bytesOf (r.count % 2 ^ 32 + r.trig.toNat % 256 * 2 ^ 40 + r.valid.toNat * 2 ^ 63) 8

/-- R192. What both areas of a frame hold. -/
def areaPieces (h : Shadow) : List FramePiece :=
  (h.sc.map fun e => (if e.1 < 0x100 then 8 * e.1 else 0x200 + 8 * (e.1 - 0x100), bytesOf e.2.toNat 8)) ++
  [(0x250, bytesOf (fullBits h.empty 0 64) 8),
   (0x260, bytesOf (fullBits h.empty 0x98 8 + fullBits h.empty 0x90 4 * 2 ^ 8 + fullBits h.empty 0x100 10 * 2 ^ 12 +
     fullBits h.empty 0x80 16 * 2 ^ 22) 8),
   (0x268, bytesOf (h.pr ||| 1#16).toNat 2)] ++
  ((areaControls h).map fun e => (0x280 + 8 * (e.1 - 0xA0), bytesOf e.2.toNat 8)) ++
  [(0x4C0, areaUnits h)] ++ (h.ma.map fun e => (0x500 + 128 * (e.1 - 0x98), bytesOf e.2.toNat 128)) ++
  h.sticky.map fun e => (0x900 + 64 * e.1, stickyBytes e.2)

/-- R192. What the live area holds beside: k.mode, k.mark, the completion counters and the full/empty bits of v. -/
def livePieces (s : State) (k : Core) : List FramePiece :=
  let mode := (launchOf s k.wp.launch).sys.toNat * 2 + k.hm.toNat
  [(0x258, bytesOf (fullBits k.empty 0x40 64) 8), (0x280 + 8 * 0xF, bytesOf mode 8), (0x280 + 8 * 0x15, bytesOf (markWord k).toNat 8),
   (0x4CB, bytesOf mode 1)] ++ k.counters.map fun e => (0x480 + 4 * e.1, bytesOf e.2.toNat 4)

/-- R148, R192. The gate buffer: the lines of the gated stores, in program order. -/
def gatePieces (g : List Eff) : List FramePiece :=
  let lines : List (List (Nat × Byte)) := g.flatMap fun e => match e with
    | .store _ _ bs => (dedup (bs.map fun b => b.1 / 128)).map fun l => bs.filter fun b => b.1 / 128 = l
    | .sete _ _ _ _ | .zero _ _ _ _ | .step _ _ _ _ | .copy _ | .mark _ _ _ _ => []
  ((List.range 64).zip lines).flatMap fun x => x.2.map fun b => (0x2000 + 128 * x.1 + b.1 % 128, [b.2])

/-- R148. A tile: row exponents, guards and the mode, then its words. -/
def tilePieces (e : Nat × Tile) : List FramePiece :=
  let mode : Nat := match e.2.mode with
    | .W => 0 | .F => 1 | .I32 => 2 | .I64 => 3
  let row (r : Nat) : Nat :=
    (Map.get e.2.exps r 0#16).toNat + Map.get e.2.guards r 0 * 2 ^ 16 + if r = 0 then mode * 2 ^ 56 else 0
  (0xC800 + 256 * e.1, (List.range 32).flatMap fun r => bytesOf (row r) 8) ::
    e.2.words.map fun w => (0xD800 + 8192 * e.1 + 8 * w.1, bytesOf w.2.toNat 8)

/-- R148, R192. Every piece of a frame but the registers of identity, time and capacity. -/
def framePieces (s : State) (k : Core) : List FramePiece :=
  areaPieces (shadowOf k) ++ livePieces s k ++
  (k.region.elim [] fun r => ((areaPieces r.shadow).map fun p => (0x1000 + p.1, p.2)) ++ gatePieces r.gate) ++
  (k.ve.map fun e => (if e.1 < 0x80 then 0x4000 + 512 * (e.1 - 0x40) else 0xC000 + 512 * (e.1 - 0x90), bytesOf e.2.toNat 512)) ++
  k.tiles.flatMap tilePieces

/-- R192. k.core to k.capa as core c saves them. -/
def identityBytes (s : State) (c : Nat) : List Byte := (span 0xA0 11).flatMap fun sel => bytesOf (controlValue s c sel).toNat 8

/-- R148. A frame written at an address, with the bytes of the registers of identity, time and capacity. -/
def writeFrame (s : State) (a : Nat) (ro : List Byte) (k : Core) : State :=
  let inside := ((0x280, ro) :: framePieces s k).filter fun p => p.1 + p.2.length ≤ Config.frameSize
  { s with mem := inside.foldl (fun m p => writeBytes m (a + p.1) p.2) (zeroRange s.mem a Config.frameSize),
           poisoned := s.poisoned.filter fun w => 8 * w + 8 ≤ a || a + Config.frameSize ≤ 8 * w }

/-- R148. Where a waypoint's frame goes: where it is, or the first free place on the memory die paired with its anchor's. -/
def framePlace (s : State) (w : Waypoint) : Nat :=
  match w.frameAt with
  | some a => if dpaDie a = w.anchorDie then a else firstFree (s.waypoints.filterMap fun x => x.frameAt) (frameAddr w.anchorDie)
  | none => firstFree (s.waypoints.filterMap fun x => x.frameAt) (frameAddr w.anchorDie)

/-- R148, R149. The context frame of a waypoint: saved by core `c`, or changed where it lies. -/
def putFrame (s : State) (key : WpKey) (c : Option Nat) (k : Core) : State :=
  match findWp s key with
  | none => s
  | some w =>
    let a := framePlace s w
    let ro := c.elim (readBytes s.mem (a + 0x280) 88) (identityBytes s)
    writeFrame (modWp s key fun w => { w with frame := some k, frameAt := some a }) a ro k

end Sys2Proof.Machine
end

