-- ==== Sys2Proof/Machine/Sighting.lean ====
section
/-! DEFINITION. Sighting triggers (R33): a trigger makes a Sighting pending, displaces the pending one, or is missed. -/
namespace Sys2Proof.Machine

/-- A trigger that is not latched: MISSED saturates at 0xFFFF. -/
def missTrigger (s : State) : State := { s with mgmt := { s.mgmt with missed := min (s.mgmt.missed + 1) 0xFFFF } }

/-- R33. A trigger with instant t and a cause (1 management, 2 compare, 3 machine check). -/
def sightTrigger (s : State) (t cause : Nat) : State :=
  if !s.mgmt.armed then missTrigger s
  else match s.mgmt.pendingSgt with
    | none => { s with mgmt := { s.mgmt with pendingSgt := some (t, cause), sgtDone := [] } }
    | some (tp, c) =>
      if t < tp then missTrigger { s with mgmt := { s.mgmt with pendingSgt := some (t, cause) } }
      else if t = tp then { s with mgmt := { s.mgmt with pendingSgt := some (tp, max c cause) } }
      else missTrigger s

/-- R33. The management trigger. -/
def fireSighting (s : State) : State := sightTrigger s (s.chron + 128) 1
/-- R33. The machine-check trigger, where MCHK_EN is set. -/
def machineCheckSighting (s : State) : State := if s.mgmt.mchkEn then sightTrigger s (s.chron + 128) 3 else s

end Sys2Proof.Machine
end

