-- ==== Sys2Proof/Machine/Ops.lean ====
section
/-! DEFINITION. The named operations over registers, references, regions and waypoints, and the taking of a trap: the outcome
of an operation, rotation, full and empty, control registers, the checks of a reference, loads and stores, restart-mark regions,
TakeTrap, EndFaulted and the return from a handler (R125 to R130, R156 to R195). -/
namespace Sys2Proof.Machine

/-! ## Outcomes of an operation -/

/-- What a blocked execution leaves behind while it waits: nothing, the EMPTY line it stalls on (R117), what a read needs first, the time
it has fixed (R320), its forward writes held at their ports (R179), its member's arrival at a barrier (R405), or the open region closed
before a closing operation acts (R185). -/
inductive Park where
  | none
  | line (core handle line : Nat)
  | needs (n : Need)
  | untilTime (t : Word)
  | forward (l : List (Nat × Nat × Vec))
  | arrive (isStep : Bool)
  | closeFirst
  deriving DecidableEq, Repr

/-- Why an operation does not go through: a trap, a wait, or a device address that does not exist. -/
inductive Stop where
  | trap (t : Trap)
  | wait (p : Park)
  | fault (f : Fault)
  deriving DecidableEq, Repr

/-- An operation's result. -/
abbrev Res (α : Type) := Except Stop α

/-- A precise trap. -/
def raise {α : Type} (code : BitVec 16) (info : Word) : Res α := .error (.trap { code := code, info := info })
/-- A trap raised asynchronously at the bundle that meets it (R188). -/
def raiseAsync {α : Type} (code : BitVec 16) (info : Word) : Res α :=
  .error (.trap { code := code, info := info, asynch := true })
/-- A wait that leaves nothing behind. -/
def block {α : Type} : Res α := .error (.wait .none)

/-- The step's outcome from a state. -/
abbrev Out := Host.Outcome State Fault Refusal

/-! ## Trap codes (R189) -/

def tcUndefinedPort : BitVec 16 := 0x0003#16
def tcBranchMid : BitVec 16 := 0x0002#16
def tcIllegalBundle : BitVec 16 := 0x0001#16
def tcIllegalSource : BitVec 16 := 0x0004#16
def tcIllegalDest : BitVec 16 := 0x0005#16
def tcIllegalType : BitVec 16 := 0x0006#16
def tcRegEmpty : BitVec 16 := 0x0007#16
def tcPrivilege : BitVec 16 := 0x0008#16
def tcMisaligned : BitVec 16 := 0x0009#16
def tcRefInvalid : BitVec 16 := 0x0010#16
def tcForeignHandle : BitVec 16 := 0x0011#16
def tcClusterRange : BitVec 16 := 0x0012#16
def tcHandleBounds : BitVec 16 := 0x0013#16
def tcLinePoison : BitVec 16 := 0x0014#16
def tcGateOverflow : BitVec 16 := 0x0015#16
def tcAccBusy : BitVec 16 := 0x0020#16
def tcAccHeadroom : BitVec 16 := 0x0021#16
def tcPageFault : BitVec 16 := 0x0030#16
def tcStepCollision : BitVec 16 := 0x0040#16
def tcCollMismatch : BitVec 16 := 0x0041#16
def tcAlmanacOwner : BitVec 16 := 0x0042#16
def tcBarrierMismatch : BitVec 16 := 0x0043#16
def tcOverCapacity : BitVec 16 := 0x0050#16
def tcPlacement : BitVec 16 := 0x0051#16
def tcSounding : BitVec 16 := 0x0060#16
def tcRegUncorrectable : BitVec 16 := 0x0061#16
def tcTrap : BitVec 16 := 0x0070#16

/-- R189. Kind M. -/
def isMachineCheck (code : BitVec 16) : Bool := code = tcSounding || code = tcRegUncorrectable

/-- A translation that failed at the accessing bundle (R188, R214); a table outside the device's memory stops the machine. -/
def raiseMiss {α : Type} (m : Miss) (va kind : Nat) : Res α :=
  match m with
  | .absent a => .error (.fault (.noSuchAddress a))
  | m => raiseAsync (missTrap m va kind).1 (missTrap m va kind).2

/-! ## Registers (R160, R167, R176) -/

/-- R176. The physical number of logical register n under rotation base K of the region [B, B + N). -/
def rotated (base size k n : Nat) : Nat :=
  if base ≤ n ∧ n < base + size then base + (n - base + k) % size else n

/-- R176. NV of a launch. -/
def rotatingV (vreg : Nat) : Nat := vreg - 32
def physS (k : Core) (n : Nat) : Nat := rotated 48 16 k.rs n
def physP (k : Core) (n : Nat) : Nat := rotated 8 8 k.rp n
def physV (vreg : Nat) (k : Core) (n : Nat) : Nat := rotated 32 (rotatingV vreg) k.rv n

/-- The key of a register selector or port, its number made physical: s, v, p, f, m, results. -/
def regKey (vreg : Nat) (k : Core) (sel : Nat) : Nat :=
  if sel < 0x40 then physS k sel
  else if sel < 0x80 then 0x40 + physV vreg k (sel - 0x40)
  else if sel < 0x90 then 0x80 + physP k (sel - 0x80)
  else sel

/-- R160. Does the register at a key hold zero or true for good? -/
def hardWired (key : Nat) : Bool := key = 0 || key = 0x80

/-- R167. Is the register at a key EMPTY? -/
def isEmpty (k : Core) (key : Nat) : Bool := k.empty.getLsbD key
/-- The register at a key made EMPTY or FULL. -/
def markEmpty (k : Core) (key : Nat) : Core := { k with empty := k.empty ||| (1#320 <<< key) }
def markFull (k : Core) (key : Nat) : Core := { k with empty := k.empty &&& ~~~(1#320 <<< key) }

/-- The scalar at a key: s and result registers. -/
def scalarAt (k : Core) (key : Nat) : Word := if key = 0 then 0#64 else Map.get k.sc key 0#64
/-- The predicate p(n), physical. -/
def predAt (k : Core) (n : Nat) : Bool := n = 0 || k.pr.getLsbD n

/-- The value at a key. -/
def valueAt (k : Core) (key : Nat) : PVal :=
  if key < 0x40 then .sc (scalarAt k key)
  else if key < 0x80 then .ve (Map.get k.ve key 0#4096)
  else if key < 0x90 then .sc (if predAt k (key - 0x80) then 1#64 else 0#64)
  else if key < 0x98 then .ve (Map.get k.ve key 0#4096)
  else if key < 0xA0 then .ma (Map.get k.ma key 0#1024)
  else .sc (scalarAt k key)

/-- The value stored at a key; s0 and p0 discard it. A value of another width than the register's leaves it unchanged (the
widths are checked before, R159). -/
def putValue (k : Core) (key : Nat) (v : PVal) : Core :=
  if hardWired key then k
  else match v with
    | .sc w =>
      if 0x80 ≤ key && key < 0x90 then
        let bit := 1#16 <<< (key - 0x80)
        { k with pr := if w.getLsbD 0 then k.pr ||| bit else k.pr &&& ~~~bit }
      else { k with sc := Map.set k.sc key w }
    | .im w _ => { k with sc := Map.set k.sc key w }
    | .ve x => { k with ve := Map.set k.ve key x }
    | .ma x => { k with ma := Map.set k.ma key x }

/-- R167. A move's write of a register: the value, FULL, and any result on its way to it discarded. -/
def writeReg (k : Core) (key : Nat) (v : PVal) : Core :=
  markFull { putValue k key v with pends := k.pends.filter fun p => p.reg ≠ key, aside := k.aside.filter fun p => p.reg ≠ key } key

/-- R167, R170. The result of an operation of the unit of a page: its value, EMPTY until it arrives, with its distance. -/
def issueResult (k : Core) (key : Nat) (v : PVal) (dist : Nat) (fixed : Bool) (page : Nat) : Core :=
  if hardWired key then k
  else markEmpty { putValue k key v with
    pends := (k.pends.filter fun p => p.reg ≠ key) ++ [{ reg := key, left := dist, fixed := fixed, unit := page }],
    aside := k.aside.filter fun p => p.reg ≠ key,
    window := match k.window.getLast? with
      | some u => k.window.dropLast ++ [{ u with regs := u.regs ++ [key] }]
      | none => k.window } key

/-- R375. A result that a command gives when it completes. -/
def issuePending (k : Core) (key cmd : Nat) : Core :=
  markEmpty { k with
    pends := (k.pends.filter fun p => p.reg ≠ key) ++ [{ reg := key, left := 0, fixed := false, cmd := some cmd }],
    aside := k.aside.filter fun p => p.reg ≠ key } key

/-- R167. A result that has arrived: FULL; a fixed distance that is not over stays with it (R168). -/
def arriveResult (k : Core) (key : Nat) : Core :=
  match k.pends.find? fun p => p.reg = key with
  | none => k
  | some p =>
    if p.cmd.isSome then k
    else
      let keep := p.fixed && p.left ≠ 0
      markFull { k with pends := k.pends.filter fun q => q.reg ≠ key || keep } key

/-- R168. One more bundle execution: every distance falls by one, and a result whose distance is over is FULL. -/
def agePends (k : Core) : Core :=
  let aged := k.pends.map fun p => { p with left := p.left - 1 }
  let expired := aged.filter fun p => p.fixed && p.left = 0
  expired.foldl (fun k p => markFull k p.reg) { k with pends := aged.filter fun p => !(p.fixed && p.left = 0) }

/-- The keys of result registers (R156). -/
def resultKey (page : Nat) : Nat :=
  match page with
  | 1 => 0x100 | 2 => 0x101 | 3 => 0x102 | 4 => 0x103 | 5 => 0x104 | 6 => 0x105 | 8 => 0x106 | 9 => 0x107 | 10 => 0x108
  | _ => 0x109

/-- R162. Flags set in k.flg at once. -/
def setFlags (k : Core) (f : BitVec 6) : Core := { k with flg := k.flg ||| f }
/-- R326. Flags that reach k.flg when the execution retires; with no execution in progress, at once. -/
def noteFlags (k : Core) (f : BitVec 6) : Core :=
  match k.window.getLast? with
  | some u => { k with window := k.window.dropLast ++ [{ u with flags := u.flags ||| f }] }
  | none => setFlags k f

/-! ## Retirement (R173, R180) -/

/-- The oldest execution retires: its results have arrived, the f registers it consumed become EMPTY, its flags are set. -/
def retireOldest (k : Core) : Core :=
  match k.window with
  | [] => k
  | u :: rest =>
    let k1 := u.regs.foldl arriveResult { k with window := rest }
    let k2 := (bitsSet u.consumes.toNat 4).foldl (fun k j => markEmpty k (0x90 + j)) k1
    setFlags k2 u.flags

/-- Every unretired execution retires, oldest first; `n` bounds their number. -/
def retireN : Nat → Core → Core
  | 0, k => k
  | n + 1, k => retireN n (retireOldest k)
def retireAll (k : Core) : Core := retireN k.window.length k

/-! ## Control registers (R161, R162) -/

/-- R161, R162. A move's write of a control register. RV is taken modulo NV; k.epc keeps bits [1:0] zero. -/
def writeControl (vreg : Nat) (k : Core) (sel : Nat) (w : Word) : Core :=
  match sel with
  | 0xAB =>
    let nv := rotatingV vreg
    { k with rv := if nv = 0 then 0 else field w.toNat 16 5 % nv, rs := field w.toNat 8 4, rp := field w.toNat 0 3 }
  | 0xAC => { k with lc := w }
  | 0xAD => { k with ec := w.truncate 8 }
  | 0xAE => { k with flg := w.truncate 6 }
  | 0xB0 => { k with trapc := w &&& 0xFFFF#64 }
  | 0xB1 => { k with trapi := w }
  | 0xB2 => { k with epc := w &&& ~~~3#64 }
  | 0xB3 => { k with rpi := w }
  | 0xB4 => { k with mxs := w }
  | n => if n ≤ 0xB9 then { k with hs := Map.set k.hs (n - 0xB6) w } else { k with sd := Map.set k.sd (n - 0xC0) w }

/-- R177. RotateStage: k.lc and k.ec, the bases, and p8 written FULL after the rotation; whether the loop goes on. -/
def rotateStage (vreg : Nat) (k : Core) : Core × Bool :=
  let r : Core × Bool × Bool :=
    if k.lc ≠ 0#64 then ({ k with lc := k.lc - 1 }, true, true)
    else if k.ec > 1#8 then ({ k with ec := k.ec - 1 }, false, true)
    else ({ k with ec := 0#8 }, false, false)
  let nv := rotatingV vreg
  let k1 := { r.1 with rv := if nv = 0 then 0 else (r.1.rv + nv - 1) % nv, rs := (r.1.rs + 15) % 16, rp := (r.1.rp + 7) % 8 }
  (writeReg k1 (0x80 + physP k1 8) (.sc (if r.2.1 then 1#64 else 0#64)), r.2.2)

/-! ## References (R193 to R195, R213) -/

/-- R193. Tag 0 to 4 and reserved fields zero. -/
def wellFormedRef (r : Word) : Bool :=
  let n := r.toNat
  match refTag r with
  | 0 => true
  | 1 | 2 | 4 => field n 24 22 = 0
  | 3 => field n 40 16 = 0
  | _ => false

/-- A place that a checked reference names: bytes of a handle of a core, a virtual address, or a region's plane. -/
inductive Target where
  | handle (core handle off : Nat)
  | glob (va : Nat)
  | step (region off : Nat)
  deriving DecidableEq, Repr

/-- R213. The checks of a STEP reference for n bytes. -/
def checkStep (s : State) (c : Nat) (r : Word) (n : Nat) : Res Target :=
  let k := coreOf s c
  let l := coreLaunch s c
  let j := refRegion r
  let d := stepDecl l j
  let lvl := (findWp s k.wp).elim 0 fun w => w.level
  let bound := match l.levels[lvl]? with
    | some w => w.step && w.rmask.getLsbD j
    | none => false
  let (hc, hh) := stepHolder d (dieOf c)
  let held := d.loc = 2 || field d.base.toNat 8 6 ≤ 47 && (match handleOf s hc hh with
    | some h => h.owner.launch = k.wp.launch && h.level = .spad && stepStorage d ≤ h.size
    | none => false)
  let off := refStepOffset r
  if !d.valid || !bound || !held then raise tcRefInvalid r
  else if d.loc = 0 && hc ≠ c then raise tcForeignHandle r
  else if d.loc = 1 && clusterOf hc ≠ clusterOf c then raise tcClusterRange r
  else if off + n > d.count * d.esize then raise tcHandleBounds r
  else if off % d.esize ≠ 0 || n % d.esize ≠ 0 then raise tcMisaligned r
  else .ok (.step j off)

/-- R195. The checks of a reference for n bytes, aligned to `align`, in a use that accepts the given tags; the first that
fails traps. -/
def checkRef (s : State) (c : Nat) (r : Word) (n align : Nat) (tags : List Nat) : Res Target :=
  let k := coreOf s c
  let t := refTag r
  let hc := dieOf c * 48 + refCore r
  let aligned (x : Target) : Res Target := if refPos r % align = 0 then .ok x else raise tcMisaligned r
  if !wellFormedRef r || !tags.contains t then raise tcRefInvalid r
  else if t = 0 then aligned (.glob (refVa r))
  else if t = 3 then
    match checkStep s c r n with
    | .ok x => aligned x
    | .error e => .error e
  else if t ≠ 2 && hc ≠ c then raise tcForeignHandle r
  else if t = 2 && (refCore r > 47 || clusterOf hc ≠ clusterOf c) then raise tcClusterRange r
  else match handleOf s hc (refHandle r) with
    | none => raise tcHandleBounds r
    | some h =>
      if (t = 2 && h.owner.launch ≠ k.wp.launch) || (t ≠ 2 && h.owner ≠ k.wp) then raise tcForeignHandle r
      else if h.level ≠ (if t = 4 then Level.opd else Level.spad) then raise tcHandleBounds r
      else if refOffset r + n > h.size then raise tcHandleBounds r
      else aligned (.handle hc (refHandle r) (refOffset r))

/-- R194. Spaces of LD, ST and SA.PUSH. -/
def memTags : List Nat := [1, 2, 3]

/-! ## Loads and stores -/

/-- Is the region open, so that effects are gated (R183)? -/
def gating (k : Core) : Bool := k.region.isSome && !k.frozen && !k.hm

/-- R183. The core's own gated stores to a handle laid over bytes read from it. -/
def overlay (k : Core) (c h off : Nat) (bs : List Byte) : List Byte :=
  match k.region with
  | none => bs
  | some r =>
    if k.frozen then bs
    else
      let put (bs : List Byte) (o : Nat) (b : Byte) : List Byte :=
        if off ≤ o ∧ o < off + bs.length then bs.set (o - off) b else bs
      r.gate.foldl (fun now e => match e with
        | .store c' h' l => if c' = c ∧ h' = h then l.foldl (fun l ob => put l ob.1 ob.2) now else now
        | .zero c' h' line n =>
          if c' = c ∧ h' = h then (span (128 * line) (128 * n)).foldl (fun l o => put l o 0#8) now else now
        | .mark c' h' o n =>
          if c' = c ∧ h' = h then (span o n).foldl (fun l i => put l i (bs.getD (i - off) 0#8)) now else now
        | _ => now) bs

/-- R202. The state of a line as the core sees it behind its own gated stores. -/
def gatedState (k : Core) (c h line : Nat) (st0 : LineState) : LineState :=
  match k.region with
  | none => st0
  | some r =>
    if k.frozen then st0
    else r.gate.foldl (fun st e => match e with
      | .store c' h' l =>
        if c' = c ∧ h' = h then
          let n := (l.filter fun ob => ob.1 / 128 = line).length
          if n = 0 then st else lineAfterStore st (n = 128)
        else st
      | .sete c' h' a n => if c' = c ∧ h' = h ∧ a ≤ line ∧ line < a + n then .empty else st
      | .zero c' h' a n => if c' = c ∧ h' = h ∧ a ≤ line ∧ line < a + n then .full else st
      | .mark c' h' o n => if c' = c ∧ h' = h ∧ o / 128 ≤ line ∧ 128 * line < o + n then st0 else st
      | _ => st) st0

/-- R203. A load of n bytes of a handle by core c: it waits on an EMPTY line and traps on a POISON line. `r` is the reference,
whose offset is replaced by the line's in k.trapi. -/
def loadHandle (s : State) (c hc h off n : Nat) (r : Word) : Res (List Byte) :=
  let k := coreOf s c
  match handleOf s hc h with
  | none => raise tcHandleBounds r
  | some hd =>
    let st (l : Nat) : LineState := gatedState k hc h l (lineState (coreOf s hc) hd l)
    match (linesOf off n).find? fun l => st l ≠ .full with
    | some l =>
      if st l = .empty then .error (.wait (.line hc h l))
      else raise tcLinePoison ((r &&& ~~~0xFFFFFF#64) ||| BitVec.ofNat 64 (128 * l))
    | none => .ok (overlay k hc h off (handleBytes (coreOf s hc) hd off n))

/-- R214. A load of the present plane. -/
def loadStep (s : State) (c : Nat) (l : Launch) (j off n : Nat) (r : Word) : Res (List Byte) :=
  match readPlane s l j off n false { core := c } with
  | .data bs => .ok bs
  | .blocked a b d => .error (.wait (.line a b d))
  | .needs n => .error (.wait (.needs n))
  | .poison _ => raise tcLinePoison r
  | .miss m va => raiseMiss m va 1

/-- R222, R223. The commands that hold accesses of core c on a path (R220: 0 LS, 1 CR, 2 CP, 3 MX, 4 SA, 5 ST, 6 XF). -/
def fenceIds (s : State) (c path : Nat) : List Nat :=
  ((coreOf s c).fences.filter fun f => f.2.getLsbD path).flatMap fun f => f.1.filter (liveId s)
/-- R222. An access on a path waits while a fence holds the path. -/
def pathClear (s : State) (c path : Nat) : Res Unit := if (fenceIds s c path).isEmpty then .ok () else block
/-- R214, R220. The path of an access of core c: LS at its own port, CR at another core's. -/
def pathOf (s : State) (c : Nat) (t : Target) : Nat :=
  match t with
  | .handle hc _ _ => if hc = c then 0 else 1
  | .step j _ =>
    let d := stepDecl (coreLaunch s c) j
    if d.loc = 1 ∧ (stepHolder d (dieOf c)).1 ≠ c then 1 else 0
  | .glob _ => 2

/-- R390. A load of n bytes at a checked place. -/
def loadAt (s : State) (c : Nat) (t : Target) (n : Nat) (r : Word) : Res (List Byte) :=
  match pathClear s c (pathOf s c t) with
  | .error e => .error e
  | .ok _ =>
    match t with
    | .handle hc h off => loadHandle s c hc h off n r
    | .step j off => loadStep s c (coreLaunch s c) j off n r
    | .glob _ => raise tcRefInvalid r

/-- R183. The lines that the gate holds: each line of a gated store once, one for a command, eight for an SA.PUSH. -/
def gateLines (s : State) (es : List Eff) : Nat :=
  let keys := es.flatMap fun e => match e with
    | .store c h l => l.map fun ob => ((c * 256 + h) * 2 ^ 24 + ob.1 / 128) * 4
    | .sete c h a n => (span a n).map fun x => ((c * 256 + h) * 2 ^ 24 + x) * 4
    | .zero c h a n => (span a n).map fun x => ((c * 256 + h) * 2 ^ 24 + x) * 4
    | .step l j _ el => el.map fun x => ((l * 128 + j) * 2 ^ 40 + x.1 * (stepDecl (launchOf s l) (j % 16)).esize / 128) * 4 + 1
    | .copy _ | .mark _ _ _ _ => []
  let cmds := (es.map fun e => match e with
    | .copy c => if c.kind = .sa then 8 else 1
    | _ => 0).foldl (· + ·) 0
  (dedup keys).length + cmds

/-- R183. A gated effect joins the gate: stores merge, line by line, into a store of the same line that nothing else has touched
since. -/
def gateAdd (g : List Eff) (e : Eff) : List Eff :=
  match e with
  | .store c h bytes =>
    (dedup (bytes.map fun b => b.1 / 128)).reverse.foldl (fun g line =>
      let mine := bytes.filter fun b => b.1 / 128 = line
      let touches (x : Eff) : Bool := match x with
        | .store c' h' l => c' = c && h' = h && l.any fun b => b.1 / 128 = line
        | .sete c' h' a n | .zero c' h' a n => c' = c && h' = h && a ≤ line && line < a + n
        | .mark c' h' o n => c' = c && h' = h && o / 128 ≤ line && 128 * line < o + n
        | _ => false
      let back := g.reverse.takeWhile fun x => !touches x
      match g.reverse.dropWhile fun x => !touches x with
      | .store _ _ l :: rest =>
        rest.reverse ++ [.store c h (mine.foldl (fun m b => Map.set m b.1 b.2) l)] ++ back.reverse
      | _ => g ++ [.store c h mine]) g
  | e => g ++ [e]

/-- R183, R202. An effect of core c: held in the gate of an open region, else it performs. -/
def effect (s : State) (c : Nat) (e : Eff) : Res State :=
  let k := coreOf s c
  match k.region with
  | some r =>
    if gating k then
      let g := gateAdd r.gate e
      if gateLines s g > 64 then raise tcGateOverflow 0#64
      else .ok (setCore s c { k with region := some { r with gate := g } })
    else .ok (performEff s e)
  | none => .ok (performEff s e)

/-- R214. The rank of core c's waypoint: its coordinate modulo 65,536. -/
def rankOf (s : State) (c : Nat) : Nat := ((findWp s (coreOf s c).wp).elim 0 fun w => w.lo) % 65536

/-- R214. The contributions of stored bytes, made through the cluster's engine where the region is GLOBAL. -/
def storeStep (s : State) (c j : Nat) (elems : List (Nat × Nat)) : Res State :=
  let l := coreLaunch s c
  let d := stepDecl l j
  let miss := if d.loc = 2 then elems.findSome? fun e =>
      let va := d.base.toNat % 2 ^ 52 + planeOffset s l j (dieOf c) true + e.1 * d.esize
      match translate s l.ptroot l.sys va 2 with
      | .error m => some (m, va)
      | .ok _ => none
    else none
  match miss with
  | some (m, va) => raiseMiss m va 2
  | none => effect s c (.step l.id (regionNo d j (dieOf c)) (rankOf s c) elems)

/-- R394. A store of bytes at a checked place. -/
def storeAt (s : State) (c : Nat) (t : Target) (bs : List Byte) : Res State :=
  match pathClear s c (pathOf s c t) with
  | .error e => .error e
  | .ok _ =>
    match t with
    | .handle hc h off => effect s c (.store hc h (atOffset off bs))
    | .step j off => storeStep s c j (elementsOf (stepDecl (coreLaunch s c) j) off bs)
    | .glob va => raise tcRefInvalid (BitVec.ofNat 64 va)

/-! ## Regions (R182 to R187) -/

/-- R187. The shadowed state restored; the full/empty bits of v stay as they are (R192). -/
def restoreShadow (k : Core) (h : Shadow) : Core :=
  let vbits : BitVec 320 := 0xFFFFFFFFFFFFFFFF#320 <<< 0x40
  { k with sc := h.sc, pr := h.pr, ma := h.ma, empty := (h.empty &&& ~~~vbits) ||| (k.empty &&& vbits), pends := h.pends, aside := [],
           rv := h.rv, rs := h.rs, rp := h.rp, lc := h.lc, ec := h.ec, flg := h.flg, trapc := h.trapc, trapi := h.trapi,
           epc := h.epc, hs := h.hs, sd := h.sd, ty := h.ty, dv := h.dv, dm := h.dm, sticky := h.sticky }

/-- R184. The open region of core c closes: its gated effects leave the core in program order. -/
def closeRegion (s : State) (c : Nat) : State :=
  let k := coreOf s c
  match k.region with
  | none => s
  | some r => if k.frozen then s else performAll (setCore s c { k with region := none }) r.gate

/-- R182. A region opens at a bundle: the shadow is taken as earlier executions left the core. -/
def openRegion (s : State) (c a : Nat) : State :=
  let s1 := closeRegion s c
  modCore s1 c fun k =>
    { k with region := some { mark := a, tag := k.tags + 1, shadow := shadowOf k }, markAt := a, tags := k.tags + 1, closed := false,
             reopen := false, opened := true }

/-- R187, R204. A command cancelled: it never completes, its unfilled lines become POISON, and its requests are dropped. -/
def cancelCmd (s : State) (cmd : Cmd) : State :=
  let s1 := poisonUnfilled s cmd
  beginHeld (dropCmd
    (modEngine s1 (engineOf cmd.core) fun g => { g with reqs := g.reqs.filter fun r => r.cmd ≠ cmd.id }) cmd.id)

/-- R187. A core's registers and place after RollBack of a region. What is in flight completes first (R169). -/
def rolledBack (k : Core) (r : Region) : Core :=
  { restoreShadow (retireAll k) r.shadow with
    region := none, frozen := false, closed := false, reopen := true, opened := false, pc := r.mark, rep := 0, seqStep := 0,
    rpi := 0#64, mxs := 0#64, held := [], sent := [], sentAside := [], remote := [], visit := k.visit + 1, waitUntil := none, latch := [] }
/-- R187. The commands of a waypoint that carry a region's tag cancelled. -/
def cancelTagged (s : State) (key : WpKey) (tag : Nat) : State :=
  (s.cmds.filter fun x => x.wp = key && x.tag = tag && x.tag ≠ 0).foldl cancelCmd s

/-- R187. RollBack of core c to the mark of its region, open or frozen. -/
def rollBack (s : State) (c : Nat) : State :=
  let k := coreOf s c
  match k.region with
  | none => s
  | some r => modCore (cancelTagged s k.wp r.tag) c fun k => rolledBack k r

/-! ## Waypoints and launches in progress -/

/-- R141. A waypoint made READY: class and ready time start anew. -/
def makeReady (s : State) (k : WpKey) : State :=
  let l := launchOf s k.launch
  modWp s k fun w => { w with state := .ready, wait := 0, frameAt := none, prio := l.prio, readyAt := s.chron, agedAt := s.chron }

/-- Does a core stand in a relaunch (R151, R152)? -/
def isRelaunching (m : CoreMode) : Bool := m = .relaunching true || m = .relaunching false

/-- A core left without a waypoint; banks that waited for it are retired (R153). -/
def freeCore (s : State) (c : Nat) : State :=
  retireIdle (modCore s c fun k => { k with mode := .idle, wp := ⟨0, 0⟩, region := none, frozen := false, closed := false,
                                             reopen := false, opened := false,
                                             window := [], held := [], sent := [], remote := [], visit := k.visit + 1, waitUntil := none, stalls := [], ahead := 0,
                                             heads := [], hm := false, fences := [],
                                             flight := [], tids := [], reserved := [], seqOps := [] }) c

/-- R196. Every handle of a waypoint released, on whatever core. -/
def releaseAll (s : State) (k : WpKey) : State :=
  (s.cores.map (·.1)).foldl (fun s c => releaseHandles s c fun _ h => h.owner = k) s

/-- R142, R190. Is a waypoint an entry of its dispatcher: READY, PREEMPTED, or FAULTED with a handler run to come? -/
def isEntry (s : State) (w : Waypoint) : Bool :=
  w.state = .ready || w.state = .preempted || (w.state = .faulted && w.frame.isSome && (heldByCore s w.key).isNone)
/-- The entries of die d's dispatcher, on chip and spilled. -/
def entriesOf (s : State) (d : Nat) : List Waypoint := s.waypoints.filter fun w => w.holder = d && isEntry s w
/-- R142. Those that stand on chip. -/
def onChip (s : State) (d : Nat) : List Waypoint := (entriesOf s d).filter fun w => !w.spilled
/-- R145. An entry has left die d's dispatcher: where it was the last, the count towards a steal starts. -/
def noteEmpty (s : State) (d : Nat) : State :=
  if (entriesOf s d).isEmpty then modDisp s d fun x => { x with emptySince := s.chron, steals := 0 } else s

/-- A waypoint removed without an end of its own (R115, R118): its handles are released. -/
def discardWp (s : State) (k : WpKey) : State :=
  let s1 := releaseAll s k
  let s2 := { s1 with waypoints := s1.waypoints.filter fun w => w.key ≠ k }
  match findWp s k with
  | some w => if isEntry s w then noteEmpty s2 w.holder else s2
  | none => s2

/-- R115, R118. A waypoint that a core has left, or that has come into being: one of a launch that has ended is discarded; a
pre-emption of it is over. -/
def settleFreed (s : State) (key : WpKey) : State :=
  if (launchOf s key.launch).ending ≠ .running then discardWp s key else modWp s key fun w => { w with preempt := false }

/-- R115, R118, R318. A launch ends: waypoints that no core holds are discarded, the others are pre-empted. -/
def endLaunch (s : State) (l : Nat) (how : Ending) : State :=
  let s1 := modLaunch s l fun x => { x with ending := if x.ending = .running then how else x.ending }
  (s1.waypoints.filter fun w => w.key.launch = l && !ended s1 w).foldl
    (fun s w => match heldByCore s w.key with
      | some c => enqueue (modWp s w.key fun w => { w with preempt := true }) .preemptHalt { core := c }
      | none => discardWp s w.key) s1

/-- R115. EndFaulted: the waypoint ends FAULTED with a fault that the completion record reports when it is the first; without
a handler that ends the launch. One that was an entry leaves its dispatcher (R145). -/
def endFaulted (s : State) (k : WpKey) (code : BitVec 16) (at_ : Nat) : State :=
  let s1 := releaseAll s k
  let s1' := modWp s1 k fun w => { w with state := .faulted, resume := at_, fault := none, frame := none, frameAt := none }
  let s2 := match findWp s k with
    | some w => if isEntry s w then noteEmpty s1' w.holder else s1'
    | none => s1'
  let s3 := modLaunch s2 k.launch fun l =>
    { l with nfault := l.nfault + 1, everFaulted := true,
             fcode := if l.everFaulted then l.fcode else code.toNat,
             fwaypt := if l.everFaulted then l.fwaypt else k.wpid,
             faddr := if l.everFaulted then l.faddr else at_ }
  if (launchOf s3 k.launch).traph = 0 then endLaunch s3 k.launch .faulted else s3

/-- R125. The groups of 32 handles in which a waypoint holds one. -/
def pinnedMask (k : Core) (w : WpKey) : BitVec 8 :=
  (k.handles.filter fun h => h.2.owner = w).foldl (fun m h => m ||| (1#8 <<< (h.1 / 32))) 0#8

/-- R130. The record of a waypoint that leaves core c: with handles it is pinned there, else AFF is unchanged. -/
def pinTo (k : Core) (c : Nat) (w : Waypoint) : Waypoint :=
  let m := pinnedMask k k.wp
  if m = 0#8 then { w with pmask := m } else { w with aff := 2, anchorDie := dieOf c, anchorCore := coreNo c, pmask := m }

/-- The context frame of core c (R148, R192): the core as it stands, in program order, every result arrived. -/
def frameOf (k : Core) : Core :=
  { retireAll k with held := [], remote := [], visit := k.visit + 1, flight := [], tids := [], waitUntil := none, stalls := [], ahead := 0,
                     heads := [], latch := [] }

/-- R190. TakeTrap on the core that runs the waypoint: FAULTED in the record, RESUME naming the bundle (R126); without a handler, or in
handler mode, the waypoint ends; else the handler starts with k.trapc, k.trapi and k.epc, the region of an interrupted program frozen,
its pending distances set aside (R169). -/
def enterHandler (s : State) (c : Nat) (code : BitVec 16) (info : Word) (at_ : Nat) : State :=
  let k := coreOf s c
  let l := coreLaunch s c
  let s1 := modWp s k.wp fun w => { w with state := .faulted, resume := at_ }
  if k.hm || l.traph = 0 then freeCore (endFaulted s1 k.wp code at_) c
  else modCore s1 c fun k =>
    { k with trapc := code.zeroExtend 64, trapi := info, epc := BitVec.ofNat 64 at_, hm := true, mode := .running,
             frozen := k.region.isSome, pc := l.traph, rep := 0, seqStep := 0, waitUntil := none, held := [],
             sent := [], sentAside := k.sent, aside := k.pends.filter fun p => p.fixed && p.left ≠ 0, remote := [], visit := k.visit + 1,
             stalls := [], ahead := 0, heads := [], latch := [] }

/-- R155, R33. A machine check quarantines its core at once, sends its cluster to self-test and triggers a Sighting. -/
def quarantine (s : State) (c : Nat) (code : BitVec 16) (info : Word) : State :=
  let s1 := logEvent (machineCheckSighting s) 6 (dieOf c) (coreNo c) code.toNat 0 (coreOf s c).wp.launch info.toNat
  let s2 := modCore s1 c fun k => { k with quarantined := true }
  modDisp s2 (dieOf c) fun d => { d with urgentTest := d.urgentTest ++ [clusterOf c] }

/-- R175. Every earlier execution has retired; k.rpi and k.mxs name the repetition and step of the boundary. -/
def nameBoundary (k : Core) : Core :=
  { retireAll k with rpi := BitVec.ofNat 64 k.rep, mxs := BitVec.ofNat 64 k.seqStep, seqStep := 0 }

/-- R188, R190. A fault that does not belong to the bundle where the core stopped, or a machine check: RollBack with an open
region, the frame written, the core freed, and the FAULTED waypoint left for a handler run; without a handler it ends. A region
frozen by an earlier trap belongs to a handler, whose waypoint ends. `older`: the fault is not of the region that is rolled back. -/
def takeAsync (s : State) (c : Nat) (code : BitVec 16) (info : Word) (older : Bool) : State :=
  let s0 := if isMachineCheck code then quarantine s c code info else s
  let k := coreOf s0 c
  let l := coreLaunch s0 c
  let rolls := k.region.isSome && !k.frozen
  let info' := if code.toNat / 16 = 3 && older && rolls then info ||| (1#64 <<< 63) else info
  let s1 := if rolls then rollBack s0 c else modCore s0 c nameBoundary
  let k1 := coreOf s1 c
  let at_ := k1.pc
  if k.hm || l.traph = 0 then freeCore (endFaulted (modWp s1 k.wp fun w => { w with state := .faulted }) k.wp code at_) c
  else
    let s2 := modWp s1 k.wp fun w =>
      pinTo k1 c { w with state := .faulted, resume := at_, readyAt := s.chron, agedAt := s.chron,
                          holder := dieOf c, leftAt := s.chron, prio := l.prio,
                          fault := some { code := code, info := info', addr := at_, handlerRun := true } }
    settleFreed (freeCore (putFrame s2 k.wp (some c) (frameOf k1)) c) k.wp

/-- R188, R190. A trap met by the execution of the bundle at core c's pc. An arrival at a barrier that has not ended is
withdrawn (R147). -/
def takeTrap (s0 : State) (c : Nat) (t : Trap) : State :=
  let k := (coreOf s0 c).wp
  let s1 := withdraw (if barrierTrap s0 k t then leaveBarrier s0 k else s0) k
  let s := t.slot.elim s1 fun p => modCore s1 c fun k =>
    { k with plans := k.plans.map fun e =>
        if e.1 = p then (e.1, { e.2 with call := e.2.call.map fun x => { x with trapTaken := true } }) else e }
  if t.asynch || isMachineCheck t.code then
    takeAsync (logEntryError s (engineOf c) (coreLaunch s c) t.code (t.info.toNat % 2 ^ 52)) c t.code t.info false
  else
    let s1 := modCore s c nameBoundary
    enterHandler s1 c t.code t.info (coreOf s c).pc

/-- s1 to s4. -/
def savedScalars (k : Core) : List Word := (span 1 4).map (scalarAt k)

/-- R141, R151, R191. A waypoint that core c picks up at once as its handler returns it to service: READY with a RESUME and its class,
then RUNNING from there. -/
def pickUpAgain (s : State) (c resume : Nat) : State :=
  let k := coreOf s c
  let mine := (k.handles.filter fun h => h.2.owner = k.wp).map (·.1)
  modWp s k.wp fun w =>
    { w with state := .running, resume := resume, fault := none, prio := (launchOf s k.wp.launch).prio, pickedAt := s.chron,
             start := (resume, savedScalars k), startHandles := mine, startCmd := s.nextCmd }

/-- R191. The return from a handler by the resume form: its executions retire, HM is cleared, the waypoint READY and picked up at once
by the same core at k.epc, repetition k.rpi; a frozen region is open again, and the distances that were pending at the trap go on
(R169). -/
def resumeFromHandler (s : State) (c : Nat) : State :=
  let s1 := modCore s c retireAll
  modCore (pickUpAgain s1 c (coreOf s1 c).epc.toNat) c fun k =>
    { k with hm := false, pc := k.epc.toNat, rep := k.rpi.toNat, seqStep := k.mxs.toNat, frozen := false, latch := [],
             pends := (k.pends.filter fun p => !k.aside.any fun q => q.reg = p.reg) ++ k.aside, aside := [],
             sent := k.sentAside, sentAside := [], remote := [], visit := k.visit + 1,
             opened := k.opened && k.region.elim false fun r => r.mark = k.epc.toNat }

/-- R191. The return by the rollback form: RollBack of a frozen region and a start at its mark; without one, the resume form. -/
def rollbackFromHandler (s : State) (c : Nat) : State :=
  match (coreOf s c).region with
  | none => resumeFromHandler s c
  | some r =>
    let s1 := rollBack s c
    modCore (pickUpAgain s1 c r.mark) c fun k => { k with hm := false }

/-! ## What a blocked execution leaves (R117, R179, R320, R405) -/

/-- The command that marked a line EMPTY, for hotness. -/
def fillerOf (s : State) (c h line : Nat) : Option Cmd := s.cmds.find? fun x => x.unfilled.contains (c, h, line)

/-- R117. The buffer whose request has marked a line EMPTY. -/
def stalledOn (s : State) (c h line : Nat) : Option Nat :=
  (fillerOf s c h line).bind fun x => if refTag x.src = 0 then some (refBuf x.src) else none

/-- The marks that a wait leaves on the state before the execution. -/
def parked (s : State) (c : Nat) (p : Park) : State :=
  match p with
  | .none => modCore s c fun k => { k with stalls := [] }
  | .line a h l => modCore s c fun k =>
      { k with stalls := (stalledOn s a h l).toList }
  | .needs n => askNeed (modCore s c fun k => { k with stalls := [] }) { core := c } (coreOf s c).wp n
  | .untilTime t => modCore s c fun k => { k with waitUntil := some t }
  | .forward l => modCore s c fun k => { k with held := l }
  | .closeFirst => modCore (closeRegion s c) c fun k => { k with closed := true }
  | .arrive isStep =>
    match findWp s (coreOf s c).wp with
    | none => s
    | some w => arriveAt s w isStep

/-- The outcome of an execution on core c that stopped. -/
def stopped (s : State) (c : Nat) (e : Stop) : Out :=
  match e with
  | .trap t => .next (takeTrap s c t)
  | .wait p => .next (parked s c p)
  | .fault f => .fault f

end Sys2Proof.Machine
end

