-- ==== Sys2Proof/Machine/Operands.lean ====
section
/-! DEFINITION. Every operand form: a move's source and its width, the delivery of a value to a port or a register, the operands
that an operation finds at its ports, and the registers its result goes to (R156 to R161, R163 to R169, R266 to R268). -/
namespace Sys2Proof.Machine

/-- R189. ILLEGAL_SOURCE and its kin: move index and port or selector in k.trapi. -/
def raiseMove {α : Type} (code : BitVec 16) (idx : Nat) (p : BitVec 12) : Res α := raise code (moveInfo idx p)

/-- An operation as it issues: its core, the index, source and port of its trigger move, its bundle, and the trigger's value. -/
structure OpIn where
  c : Nat
  idx : Nat
  sel : BitVec 12
  port : BitVec 12
  addr : Nat
  len : Nat
  val : PVal
  deriving DecidableEq, Repr

/-! ## Widths (R159) -/

/-- R159. The low `bits` of a word replicated over n bits. -/
def replicate (w : Word) (bits n : Nat) : BitVec n :=
  let x := w.toNat % 2 ^ bits
  BitVec.ofNat n ((List.range (n / bits)).foldl (fun acc i => acc + x * 2 ^ (i * bits)) 0)

/-- A value as a scalar, where its width allows. -/
def PVal.scalar? : PVal → Option Word
  | .sc w => some w
  | .im w _ => some w
  | .ve _ | .ma _ => none
/-- A value as a vector: an immediate is replicated. -/
def PVal.vector? : PVal → Option Vec
  | .ve v => some v
  | .im w b => some (replicate w b 4096)
  | .sc _ | .ma _ => none
/-- A value as a mask. -/
def PVal.mask? : PVal → Option LaneMask
  | .ma m => some m
  | .sc _ | .im _ _ | .ve _ => none

/-- The type register of a unit, by key (0 S0, 1 S1, 2 V0, 3 V1). -/
def typeReg (k : Core) (u : Nat) : Nat := (Map.get k.ty u 0#4).toNat

/-- R159. Element width at which an immediate moved to a port of a page is replicated. -/
def immWidth (k : Core) (d : BitVec 12) : Nat :=
  match d.toNat / 256 with
  | 3 => typeBits (typeReg k 2)
  | 4 => typeBits (typeReg k 3)
  | _ => 64

/-! ## Sources (R156, R160, R161, R168, R267) -/

/-- R168. The register at a key read: a move with the wait bit waits while it is EMPTY, and a result that stands ready arrives;
without it, REG_EMPTY where it is EMPTY or a fixed distance is not over. -/
def readReg (k : Core) (key : Nat) (wait : Bool) (idx : Nat) (sel : BitVec 12) : Res (PVal × Core) :=
  if hardWired key then .ok (valueAt k key, k)
  else
    let pend := k.pends.find? fun p => p.reg = key
    if wait then
      if !isEmpty k key then .ok (valueAt k key, k)
      else match pend with
        | some p => if p.cmd.isSome then block else .ok (valueAt k key, arriveResult k key)
        | none => block
    else if isEmpty k key || (pend.elim false fun p => p.fixed && p.left ≠ 0) then raiseMove tcRegEmpty idx sel
    else .ok (valueAt k key, k)

/-- R159 to R161, R168, R267. The value of a move's source, with the core as the read leaves it. `d` is the destination, which
fixes how an immediate is replicated; `longs` are the bundle's long immediates. -/
def readSource (s : State) (c : Nat) (longs : List Word) (idx : Nat) (d : BitVec 12) (m : MoveF) : Res (PVal × Core) :=
  let k := coreOf s c
  let vreg := (coreLaunch s c).vreg
  let n := m.src.toNat
  let w := immWidth k d
  if m.imm then .ok (.im (sext64 m.src) w, k)
  else if 0x120 ≤ n ∧ n < 0x123 then
    match longs[n - 0x120]? with
    | some x => .ok (.im x w, k)
    | none => raiseMove tcIllegalSource idx m.src
  else if 0xA0 ≤ n ∧ n < 0xE0 then
    if !controlListed n then raiseMove tcIllegalSource idx m.src
    else if controlHandler n && !k.hm then raise tcPrivilege (m.src.zeroExtend 64)
    else .ok (.sc (controlValue s c n), k)
  else if !srcAssigned 0 m.src then raiseMove tcIllegalSource idx m.src
  else if 0x40 ≤ n ∧ n < 0x80 ∧ n - 0x40 ≥ vreg then raiseMove tcIllegalSource idx m.src
  else readReg k (regKey vreg k n) m.wait idx m.src

/-- R180. The forward register that a move consumes, if any. -/
def consumes (m : MoveF) : Option Nat :=
  if !m.imm && 0x90 ≤ m.src.toNat && m.src.toNat ≤ 0x93 then some (m.src.toNat - 0x90) else none

/-- R164. Is a move live: its guard read under rotation, negated by NEG? A guard that is EMPTY is read as it stands. -/
def guardTrue (k : Core) (m : MoveF) : Bool := predAt k (physP k m.guard.toNat) != m.neg

/-- R185. A closing operation: where it finds the region open it first closes it; then it acts, and the next bundle opens a
region if it closed one. -/
def closing (s : State) (c : Nat) : Res Unit :=
  if gating (coreOf s c) then .error (.wait .closeFirst) else .ok ()

/-- R185. A move that reads f0 to f3 closes the region first. -/
def consumeCheck (s : State) (c : Nat) (m : MoveF) : Res Unit := if (consumes m).isSome then closing s c else .ok ()

/-! ## Register and control destinations (R159 to R161, R268) -/

/-- R159 to R161. A move's write of a register or control register. -/
def moveInto (s : State) (c idx : Nat) (d : BitVec 12) (sel : BitVec 12) (k0 : Core) (v : PVal) : Res State :=
  let vreg := (coreLaunch s c).vreg
  let n := d.toNat
  let put (x : Option PVal) : Res State :=
    match x with
    | some x => .ok (modCore s c fun k => writeReg k (regKey vreg k0 n) x)
    | none => raiseMove tcIllegalSource idx sel
  if n < 0x40 then put (v.scalar?.map .sc)
  else if n < 0x80 then
    if n - 0x40 ≥ vreg then raiseMove tcIllegalDest idx d
    else put (match v with
      | .im w _ => some (.ve (replicate w 64 4096))
      | v => v.vector?.map .ve)
  else if n < 0x90 then put (v.scalar?.map .sc)
  else if 0x98 ≤ n ∧ n < 0xA0 then put (v.mask?.map .ma)
  else if 0xA0 ≤ n ∧ n < 0xE0 then
    if !controlListed n || !controlWritable n then raiseMove tcIllegalDest idx d
    else if controlHandler n && !k0.hm then raise tcPrivilege (d.zeroExtend 64)
    else match v.scalar? with
      | some w => .ok (modCore s c fun k => writeControl vreg k n w)
      | none => raiseMove tcIllegalSource idx sel
  else raiseMove tcIllegalDest idx d

/-! ## Ports (R157, R158) -/

/-- R157. The key of a unit with a type register. -/
def tyKey (page : Nat) : Option Nat := if 1 ≤ page ∧ page ≤ 4 then some (page - 1) else none
/-- R157. The key of a unit with a vector destination. -/
def dvKey (page : Nat) : Option Nat :=
  match page with
  | 3 => some 2 | 4 => some 3 | 5 => some 4 | 6 => some 5 | 8 => some 6 | _ => none

/-- Is the port a sticky port: TY, DV or DM? -/
def isStickyPort (d : BitVec 12) : Bool :=
  let page := d.toNat / 256
  let o := d.toNat % 256
  (o = 0xF && (tyKey page).isSome) || (o = 0xE && (dvKey page).isSome) || (o = 0xD && (page = 3 || page = 4))

/-- R157. A value delivered to an operand or sticky port. A sticky port takes a scalar; an operand port holds what came, for the
operation to take at its width. -/
def deliverPort (s : State) (c idx : Nat) (d sel : BitVec 12) (v : PVal) : Res State :=
  let page := d.toNat / 256
  let o := d.toNat % 256
  if isStickyPort d then
    match v.scalar? with
    | none => raiseMove tcIllegalSource idx sel
    | some w =>
      .ok (modCore s c fun k =>
        if o = 0xF then { k with ty := Map.set k.ty ((tyKey page).getD 0) (w.truncate 4) }
        else if o = 0xE then { k with dv := Map.set k.dv ((dvKey page).getD 0) (w.truncate 6) }
        else { k with dm := Map.set k.dm (page - 1) (w.truncate 3) })
  else .ok (modCore s c fun k => { k with latch := Map.set k.latch d.toNat { val := v, idx := idx, sel := sel } })

/-! ## Operands of an operation (R157, R159) -/

/-- The unit page of an operation. -/
def OpIn.page (o : OpIn) : Nat := o.port.toNat / 256
/-- What stands at operand port n of the operation's unit. -/
def latched (s : State) (o : OpIn) (n : Nat) : Option Latched := Map.find (coreOf s o.c).latch (o.page * 256 + n)

/-- R175, R189. ILLEGAL_SOURCE of the move that brought an operand of another width: it stands at that move's place. -/
def raiseOperand {α : Type} (l : Latched) : Res α :=
  .error (.trap { code := tcIllegalSource, info := moveInfo l.idx l.sel, place := some l.idx })

/-- R157, R159. Operand port n as a scalar; zero where no move reached it. -/
def scOp (s : State) (o : OpIn) (n : Nat) : Res Word :=
  match latched s o n with
  | none => .ok 0#64
  | some l => match l.val.scalar? with
    | some w => .ok w
    | none => raiseOperand l
/-- Operand port n as a vector. -/
def veOp (s : State) (o : OpIn) (n : Nat) : Res Vec :=
  match latched s o n with
  | none => .ok 0#4096
  | some l => match l.val.vector? with
    | some w => .ok w
    | none => raiseOperand l
/-- Operand port n as a mask. -/
def maOp (s : State) (o : OpIn) (n : Nat) : Res LaneMask :=
  match latched s o n with
  | none => .ok 0#1024
  | some l => match l.val.mask? with
    | some w => .ok w
    | none => raiseOperand l
/-- The trigger value as a scalar. -/
def scVal (o : OpIn) : Res Word :=
  match o.val.scalar? with
  | some w => .ok w
  | none => raiseMove tcIllegalSource o.idx o.sel
/-- The trigger value as a vector. -/
def veVal (o : OpIn) : Res Vec :=
  match o.val.vector? with
  | some w => .ok w
  | none => raiseMove tcIllegalSource o.idx o.sel
/-- The trigger value as a mask. -/
def maVal (o : OpIn) : Res LaneMask :=
  match o.val.mask? with
  | some w => .ok w
  | none => raiseMove tcIllegalSource o.idx o.sel

/-- R189. ILLEGAL_TYPE: trigger port and type code. -/
def illegalType {α : Type} (o : OpIn) (t : Nat) : Res α :=
  raise tcIllegalType (BitVec.ofNat 64 (o.port.toNat * 256 + t % 16))

/-! ## Results (R158, R160, R170) -/

/-- R158. A scalar result: into the unit's result register with a distance. -/
def scalarResult (s : State) (o : OpIn) (w : Word) (dist : Nat) : State :=
  modCore s o.c fun k => issueResult k (resultKey o.page) (.sc w) dist true o.page
/-- R170. A scalar result of a variable operation. -/
def variableResult (s : State) (o : OpIn) (w : Word) : State :=
  modCore s o.c fun k => issueResult k (resultKey o.page) (.sc w) 0 false o.page

/-- R158, R160. The number of the vector register that DV names, n registers on; ILLEGAL_DEST at or above VREG. -/
def dvNumber (s : State) (o : OpIn) (n : Nat) : Res Nat :=
  let k := coreOf s o.c
  let d := (Map.get k.dv ((dvKey o.page).getD 0) 0#6).toNat + n
  if d ≥ (coreLaunch s o.c).vreg then raiseMove tcIllegalDest o.idx o.port else .ok d

/-- R158. A vector result into DV, or the register n after it. -/
def vectorResult (s : State) (o : OpIn) (n : Nat) (v : Vec) (dist : Nat) (fixed : Bool) : Res State :=
  match dvNumber s o n with
  | .error e => .error e
  | .ok d => .ok (modCore s o.c fun k =>
      issueResult k (regKey (coreLaunch s o.c).vreg k (0x40 + d)) (.ve v) dist fixed o.page)

/-- R158. A mask result into DM. -/
def maskResult (s : State) (o : OpIn) (m : LaneMask) (dist : Nat) : State :=
  modCore s o.c fun k => issueResult k (0x98 + (Map.get k.dm (o.page - 1) 0#3).toNat) (.ma m) dist true o.page

/-! ## One move by itself -/

/-- The meaning of a trigger move on the current core, its unit's operand ports holding what was delivered: guard, source,
issue. A trap is taken at the bundle; a wait leaves the state but for its mark (log 17). -/
def runTrigger (op : OpIn → State → Res State) (d : BitVec 12) (m : MoveF) (s : State) : Out :=
  let c := s.cur
  let k := coreOf s c
  if !guardTrue k m then .next s
  else match readSource s c [] 0 d m, consumeCheck s c m with
    | .error e, _ => stopped s c e
    | _, .error e => stopped s c e
    | .ok (v, k1), .ok _ =>
      match op { c := c, idx := 0, sel := m.src, port := d, addr := k.pc, len := 2, val := v } (setCore s c k1) with
      | .error e => stopped s c e
      | .ok s' =>
        match consumes m with
        | some j => .next (modCore s' c fun k => markEmpty k (0x90 + j))
        | none => .next s'

end Sys2Proof.Machine
end

