-- ==== Sys2Proof/Machine/Fetch.lean ====
section
/-! DEFINITION. Reading code (R262, R263; log 9), the address after a bundle, and the rules that every closing operation
shares (R185). -/
namespace Sys2Proof.Machine

/-- The word that a read of code at an address finds. -/
def codeWord (va : Nat) (r : Fetched) : Res (BitVec 32) :=
  match r with
  | .data bs => .ok (BitVec.ofNat 32 (ofBytes bs))
  | .needs n => .error (.wait (.needs n))
  | .poison _ | .blocked _ _ _ | .miss _ _ => raise tcLinePoison (BitVec.ofNat 64 va)

/-- R262. The instruction word at a code address: code lies in the launch's address space (log 9). -/
def fetchWord (s : State) (c va : Nat) : Res (BitVec 32) :=
  let l := coreLaunch s c
  match translate s l.ptroot l.sys va 1 with
  | .error m => raiseMiss m va 1
  | .ok t =>
    match t.place with
    | .dev homes =>
      codeWord va (readDev s (atHome s (nearestReplica (dieOf c) homes)) 4)
    | .host h => .ok (BitVec.ofNat 32 (ofBytes (readBytes s.hostMem h 4)))
    | .remote p a => codeWord va (readRemote s { core := c } p a 4)

/-- R262. n words of code from an address within one fetch packet. -/
def fetchWords (s : State) (c : Nat) : (n va : Nat) → Res (List (BitVec 32))
  | 0, _ => .ok []
  | n + 1, va =>
    match fetchWord s c va with
    | .error e => .error e
    | .ok w => match fetchWords s c n (va + 4) with
      | .error e => .error e
      | .ok ws => .ok (w :: ws)

/-- R263. NextBundle(A, len). The word after the bundle is read only where it lies in the same packet. -/
def nextOf (s : State) (c a len : Nat) : Nat :=
  nextBundle a len (if a % 64 / 4 + len ≥ 16 then 0#32 else match fetchWord s c (a + 4 * len) with
    | .ok w => w
    | .error _ => 0#32)

/-- R164, R185. A bundle of core c has run its last execution: the core stands at the next one, a region that the bundle closed
opens there, and what the waits of the bundle left is gone. In handler mode the marks of the interrupted bundle stay. -/
def endBundle (s : State) (c next : Nat) : State :=
  modCore s c fun k =>
    { k with pc := next, rep := 0, seqStep := 0, waitUntil := none, held := [], sent := [], stalls := [], ahead := k.ahead - 1, heads := [], latch := [],
             remote := [], visit := k.visit + 1, closed := false, reopen := k.reopen || k.closed, opened := k.hm && k.opened }

end Sys2Proof.Machine
end

