-- ==== Sys2Proof/Machine/Waypoints.lean ====
section
/-! DEFINITION. Waypoints at their creation and at suspension points (R124 to R134, R311 to R314). -/
namespace Sys2Proof.Machine

/-- R134. An id of a launch that no waypoint of it holds: ascending, then the lowest free (log 20). -/
def freeWpid (s : State) (l : Nat) : Option Nat :=
  let n := (launchOf s l).nextWp
  if n ≤ 0xFFFFF then some n
  else (List.range 0xFFFFF).findSome? fun i =>
    if s.waypoints.any fun w => w.key = ⟨l, i + 1⟩ && !ended s w then none else some (i + 1)

/-- R124, R134. A waypoint added under its id, its record allocated on the memory die paired with its dispatcher's compute die; an ended
one of the same id is forgotten. -/
def addWaypoint (s : State) (w : Waypoint) : State :=
  let ws := s.waypoints.filter fun x => x.key ≠ w.key
  let at_ := firstFree (ws.map fun x => x.record) (recordAddr w.holder)
  let s1 := { s with waypoints := ws ++ [{ w with record := at_ }] }
  modLaunch s1 w.key.launch fun l => { l with nextWp := max l.nextWp (w.key.wpid + 1) }

/-- R128, R130. The record written at a suspension point: RESUME, SVAL, the state, and for a waypoint that holds handles AFF,
anchor and PMASK. -/
def writeRecord (s : State) (c : Nat) (st : WpState) (wait resume : Nat) : State :=
  let k := coreOf s c
  modWp s k.wp fun w =>
    pinTo k c { w with state := st, wait := wait, resume := resume, sval := savedScalars k, frame := none, frameAt := none,
                       holder := dieOf c, leftAt := s.chron }

/-- R115, R312. The core writes the record READY and is free; a waypoint of a launch that has ended is discarded there. -/
def yieldCore (s : State) (c resume : Nat) : State :=
  let k := (coreOf s c).wp
  settleFreed (freeCore (makeReady (writeRecord s c .ready 0 resume) k) c) k

/-- R313, R315. Where a word named by a reference lies: a page of this package's device memory, outside a replicated region, with
the permission of an access kind. -/
def wordHome (s : State) (c va kind : Nat) : Except Miss Nat :=
  match engineTranslate s (engineOf c) (coreLaunch s c) va kind with
  | .error m => .error m
  | .ok t =>
    match t.place with
    | .dev [a] => .ok a
    | _ => .error .page

/-- R311 steps 1 and 2. A suspension operation closes the region, then waits for what the waypoint has issued. -/
def quiesce (s : State) (c : Nat) : Res Unit :=
  match closing s c with
  | .error e => .error e
  | .ok _ =>
    let k := coreOf s c
    if (s.cmds.any fun x => x.wp = k.wp) || !k.flight.isEmpty then block else .ok ()

/-- R185. A region that a suspension operation has closed is not opened anew. -/
def noReopen (k : Core) : Core := { k with closed := false, reopen := false }

end Sys2Proof.Machine
end

