-- ==== Sys2Proof/Machine/Branch.lean ====
section
/-! DEFINITION. The branch unit BR (R302 to R321): jumps, loops, suspension, spawning, services, traps and returns. An operation
finds the core standing at the next bundle and moves it where it redirects. -/
namespace Sys2Proof.Machine

/-! ## Targets (R304) -/

/-- R304. The checks of a target, and the core there. -/
def branchTo (s : State) (c : Nat) (t : Word) : Res State :=
  if t.toNat % 4 ≠ 0 || field t.toNat 52 12 ≠ 0 then raise tcMisaligned t
  else match fetchWord s c t.toNat with
    | .error e => .error e
    | .ok w => if !w.getLsbD 31 then raise tcBranchMid t else .ok (modCore s c fun k => { k with pc := t.toNat })

/-- R304. The target of a word offset from the bundle. -/
def offsetTarget (o : OpIn) (v : Word) : Word := BitVec.ofNat 64 o.addr + v * 4#64

/-- R306. JMP. -/
def opBrJmp (o : OpIn) (s : State) : Res State :=
  match scVal o with
  | .error e => .error e
  | .ok v => branchTo s o.c (offsetTarget o v)
/-- R306. JMPI, and RET. -/
def opBrJmpi (o : OpIn) (s : State) : Res State :=
  match scVal o with
  | .error e => .error e
  | .ok v => branchTo s o.c v

/-- R307. A call to a target: the return address into s(n), after the bundle's own writes. -/
def callTo (s : State) (o : OpIn) (t : Word) : Res State :=
  match scOp s o 0 with
  | .error e => .error e
  | .ok n =>
    match branchTo s o.c t with
    | .error e => .error e
    | .ok s1 =>
      let ret := BitVec.ofNat 64 (nextOf s o.c o.addr o.len)
      .ok (modCore s1 o.c fun k => writeReg k (physS k (n.toNat % 64)) (.sc ret))
/-- R307. CALL. -/
def opBrCall (o : OpIn) (s : State) : Res State :=
  match scVal o with
  | .error e => .error e
  | .ok v => callTo s o (offsetTarget o v)
/-- R307. CALLI. -/
def opBrCalli (o : OpIn) (s : State) : Res State :=
  match scVal o with
  | .error e => .error e
  | .ok v => callTo s o v

/-- R308. LOOP. -/
def opBrLoop (o : OpIn) (s : State) : Res State :=
  match scVal o with
  | .error e => .error e
  | .ok v =>
    if (coreOf s o.c).lc = 0#64 then .ok s
    else branchTo (modCore s o.c fun k => { k with lc := k.lc - 1 }) o.c (offsetTarget o v)
/-- R309. LOOPR. -/
def opBrLoopr (o : OpIn) (s : State) : Res State :=
  match scVal o with
  | .error e => .error e
  | .ok v =>
    let (k, go) := rotateStage (coreLaunch s o.c).vreg (coreOf s o.c)
    let s1 := setCore s o.c k
    if go then branchTo s1 o.c (offsetTarget o v) else .ok s1
/-- R310. LEAVE. -/
def opBrLeave (o : OpIn) (s : State) : Res State :=
  match scVal o with
  | .error e => .error e
  | .ok v => .ok (modCore s o.c fun k => { k with lc := 0#64, ec := if v.getLsbD 0 then 0#8 else k.ec })

/-! ## Suspension (R311 to R314) -/

/-- R311. Step 3: PRIVILEGE in handler mode. -/
def noHandler (s : State) (o : OpIn) : Res Unit :=
  if (coreOf s o.c).hm then raise tcPrivilege (o.port.zeroExtend 64) else .ok ()

/-- R312. YIELD. -/
def opBrYield (o : OpIn) (s : State) : Res State :=
  match quiesce s o.c, noHandler s o with
  | .error e, _ => .error e
  | _, .error e => .error e
  | .ok _, .ok _ => .ok (yieldCore s o.c (nextOf s o.c o.addr o.len))

/-- R313. The checks of a suspension word: its home. -/
def suspendWord (s : State) (o : OpIn) : Res Nat :=
  match scVal o with
  | .error e => .error e
  | .ok w =>
    match checkRef s o.c w 8 32 [0] with
    | .error e => .error e
    | .ok _ =>
      match wordHome s o.c (refVa w) 1 with
      | .ok a => .ok a
      | .error m => raiseMiss m (refVa w) 1

/-- R128. The request of a suspended waypoint to the word's home; the core waits for the answer. -/
def requestWait (s : State) (c a : Nat) (join : Bool) : State :=
  let k := coreOf s c
  let p : Packet :=
    { kind := 6, agent := engineOf c, seq := 0#32, pkg := s.eq.pkg, paddr := a, opa := waitOpa k.wp (dieOf c) join }
  sendPacket (modCore s c fun k => { noReopen k with mode := .answer }) (2 * dieOf c) (2 * dpaDie a + 1) p none

/-- R313. SUSP, and JOINW where `join`. -/
def suspendOp (join : Bool) (o : OpIn) (s : State) : Res State :=
  match suspendWord s o, quiesce s o.c, noHandler s o with
  | .error e, _, _ => .error e
  | _, .error e, _ => .error e
  | _, _, .error e => .error e
  | .ok a, .ok _, .ok _ =>
    .ok (requestWait (writeRecord s o.c .suspended (if join then 1 else 2) (nextOf s o.c o.addr o.len)) o.c a join)
/-- R313. SUSP. -/
def opBrSusp : OpIn → State → Res State := suspendOp false
/-- R313. JOINW. -/
def opBrJoinw : OpIn → State → Res State := suspendOp true

/-- R129, R314. The decrement of a halted waypoint's join counter is on its way, or its translation fails and is logged. -/
def sendDecrement (s : State) (c : Nat) (w : Waypoint) : State :=
  if w.join = 0#47 then s
  else
    let va := w.join.toNat * 32
    match wordHome s c va 3 with
    | .ok a => { s with joinDecs := s.joinDecs ++ [{ dpa := a, launch := w.key.launch, wpid := w.key.wpid, core := c }] }
    | .error m =>
      let code := (missTrap m va 3).1
      logEvent (logEntryError s (engineOf c) (coreLaunch s c) code va) 4 (dieOf c) (coreNo c) (0x40000 + code.toNat) 0
        w.key.launch va

/-- R129, R314. HALT. -/
def opBrHalt (o : OpIn) (s : State) : Res State :=
  match quiesce s o.c with
  | .error e => .error e
  | .ok _ =>
    let k := coreOf s o.c
    match findWp s k.wp with
    | none => .ok (freeCore s o.c)
    | some w =>
      let s1 := writeRecord s o.c .done 0 w.resume
      let s2 := modWp s1 k.wp fun w => { w with fault := none }
      .ok (freeCore (releaseAll (sendDecrement s2 o.c w) k.wp) o.c)

/-! ## Spawning (R315, R316) -/

/-- R315. The join reference of a spawn: no counter, or the home of its word. -/
def spawnJoin (s : State) (o : OpIn) (j : Word) : Res (Option Nat) :=
  if j = 0#64 then .ok none
  else match checkRef s o.c j 8 32 [0] with
    | .error e => .error e
    | .ok _ =>
      match wordHome s o.c (refVa j) 3 with
      | .ok a => .ok (some a)
      | .error m => raiseMiss m (refVa j) 3

/-- R316. The range that a spawn creates: level, lo, hi. -/
def spawnRange (s : State) (c : Nat) (lo hi : Nat) : Option (Nat × Nat × Nat) :=
  let l := coreLaunch s c
  let lvl := (findWp s (coreOf s c).wp).elim 0 fun w => w.level + 1
  match l.levels[lvl]? with
  | none => none
  | some d =>
    let top := min hi (min d.extent (lo + 65536))
    if lo ≥ top then none else some (lvl, lo, top)

/-- R15, R316. A word of device memory increased at its home, modulo 2^64; a poisoned one stays as it is (log 52). -/
def addAtHome (s : State) (a n : Nat) : State :=
  let b := (forwardTo s a).getD a
  if poisonIn s b 8 then s else storeDramNat s b ((dramNat s b 8 + n) % 2 ^ 64) 8

/-- R316. The range made and handed to the die's dispatcher. -/
def makeRange (s : State) (c entry lvl lo hi aff : Nat) (join : Word) (wpid : Nat) : State :=
  let k := coreOf s c
  addWaypoint s
    { key := ⟨k.wp.launch, wpid⟩, range := true, resume := entry, level := lvl, prio := (coreLaunch s c).prio, aff := aff,
      hi := hi, lo := lo, anchorDie := dieOf c, anchorCore := coreNo c,
      join := BitVec.ofNat 47 (refVa join / 32), sval := savedScalars k, parent := k.wp.wpid, holder := dieOf c,
      readyAt := s.chron, agedAt := s.chron }

/-- R115, R315, R316. SPAWN; a child of a launch that has ended is discarded. -/
def opBrSpawn (o : OpIn) (s : State) : Res State :=
  match scOp s o 0, scOp s o 1, scOp s o 2, scOp s o 3, scVal o with
  | .ok e, .ok j, .ok lo, .ok aff, .ok hi =>
    if e.toNat % 4 ≠ 0 || field e.toNat 52 12 ≠ 0 then raise tcMisaligned e
    else match spawnJoin s o j, closing s o.c with
      | .error x, _ => .error x
      | _, .error x => .error x
      | .ok home, .ok _ =>
        match spawnRange s o.c lo.toNat hi.toNat with
        | none => .ok s
        | some (lvl, a, b) =>
          match freeWpid s (coreOf s o.c).wp.launch with
          | none => block
          | some id =>
            if s.cmds.any fun x => x.wp = (coreOf s o.c).wp then block
            else
              let s1 := home.elim s fun h => addAtHome s h (b - a)
              .ok (settleFreed (makeRange s1 o.c e.toNat lvl a b (aff.toNat % 2) j id) ⟨(coreOf s o.c).wp.launch, id⟩)
  | .error e, _, _, _, _ => .error e
  | _, .error e, _, _, _ => .error e
  | _, _, .error e, _, _ => .error e
  | _, _, _, .error e, _ => .error e
  | _, _, _, _, .error e => .error e

/-! ## Traps, services and returns (R317 to R319) -/

/-- R317. TRAP. -/
def opBrTrap (o : OpIn) (_s : State) : Res State :=
  match scVal o with
  | .error e => .error e
  | .ok v => raise tcTrap v

/-- R318. SYS; an unlisted service is refused before the region closes. -/
def opBrSys (o : OpIn) (s : State) : Res State :=
  match scOp s o 0, scVal o, closing s o.c with
  | .ok a, .ok v, close =>
    let l := (coreOf s o.c).wp.launch
    let done (s' : State) : Res State := match close with
      | .ok _ => .ok s'
      | .error e => .error e
    (match v.toNat % 2 ^ 16 with
      | 0 => done (logEvent s 4 (dieOf o.c) 0xFF (a.toNat % 2 ^ 32) 0 l a.toNat)
      | 1 => done (fireSighting s)
      | 2 => done (endLaunch s l .cancelled)
      | _ => raise tcPrivilege 0xB1E#64)
  | .error e, _, _ => .error e
  | _, .error e, _ => .error e

/-- R191, R263, R319. RFE; a start at a word whose bit 31 is clear is a branch into the middle of a bundle. -/
def opBrRfe (o : OpIn) (s : State) : Res State :=
  match scVal o with
  | .error e => .error e
  | .ok v =>
    let k := coreOf s o.c
    let back := v.getLsbD 0
    let t := match back, k.region with
      | true, some r => r.mark
      | _, _ => k.epc.toNat
    if !k.hm then raise tcPrivilege 0xB1F#64
    else match fetchWord s o.c t with
      | .error e => .error e
      | .ok w =>
        if !w.getLsbD 31 then raise tcBranchMid (BitVec.ofNat 64 t)
        else .ok (if back then rollbackFromHandler s o.c else resumeFromHandler s o.c)

/-! ## Timed waits and capacity checks (R320, R321) -/

/-- R320. The time that a WAITT waits for: fixed at its first issue for .rel. -/
def waitTime (s : State) (c : Nat) (rel : Bool) (v : Word) : Word :=
  if rel then ((coreOf s c).waitUntil).getD (chronOf s (dieOf c) + v) else v

/-- R320. WAITT. -/
def opBrWaitt (o : OpIn) (s : State) : Res State :=
  match scOp s o 0, scVal o with
  | .ok r, .ok v =>
    let t := waitTime s o.c (r = 1#64) v
    if (chronOf s (dieOf o.c) - t).toNat < 2 ^ 63 then .ok s else .error (.wait (.untilTime t))
  | .error e, _ => .error e
  | _, .error e => .error e

/-- R109, R321. Do a core's present capacities cover a NEEDS word? -/
def covers (k : Core) (n : Nat) : Bool :=
  field n 0 9 + (heldBanks k .spad).length ≤ capacity k .spad && field n 16 7 + (heldBanks k .opd).length ≤ capacity k .opd &&
  field n 9 7 ≤ capVreg k && field n 23 5 ≤ capTiles k

/-- R321. KCHK. -/
def opBrKchk (o : OpIn) (s : State) : Res State :=
  match scOp s o 0, scVal o with
  | .ok n, .ok v =>
    .ok (modCore s o.c fun k =>
      writeReg k (0x80 + physP k (n.toNat % 16)) (.sc (if covers k v.toNat then 1#64 else 0#64)))
  | .error e, _ => .error e
  | _, .error e => .error e

/-! ## The meanings -/

/-- BR.JMP. -/
def execBrJmp (m : MoveF) (s : State) : Out := runTrigger opBrJmp 0xB10#12 m s
/-- BR.JMPI. -/
def execBrJmpi (m : MoveF) (s : State) : Out := runTrigger opBrJmpi 0xB11#12 m s
/-- BR.CALL. -/
def execBrCall (m : MoveF) (s : State) : Out := runTrigger opBrCall 0xB12#12 m s
/-- BR.CALLI. -/
def execBrCalli (m : MoveF) (s : State) : Out := runTrigger opBrCalli 0xB13#12 m s
/-- BR.RET: JMPI under another port. -/
def execBrRet (m : MoveF) (s : State) : Out := runTrigger opBrJmpi 0xB14#12 m s
/-- BR.LOOP. -/
def execBrLoop (m : MoveF) (s : State) : Out := runTrigger opBrLoop 0xB15#12 m s
/-- BR.LOOPR. -/
def execBrLoopr (m : MoveF) (s : State) : Out := runTrigger opBrLoopr 0xB16#12 m s
/-- BR.LEAVE. -/
def execBrLeave (m : MoveF) (s : State) : Out := runTrigger opBrLeave 0xB17#12 m s
/-- BR.SUSP. -/
def execBrSusp (m : MoveF) (s : State) : Out := runTrigger opBrSusp 0xB18#12 m s
/-- BR.YIELD. -/
def execBrYield (m : MoveF) (s : State) : Out := runTrigger opBrYield 0xB19#12 m s
/-- BR.SPAWN. -/
def execBrSpawn (m : MoveF) (s : State) : Out := runTrigger opBrSpawn 0xB1A#12 m s
/-- BR.JOINW. -/
def execBrJoinw (m : MoveF) (s : State) : Out := runTrigger opBrJoinw 0xB1B#12 m s
/-- BR.HALT. -/
def execBrHalt (m : MoveF) (s : State) : Out := runTrigger opBrHalt 0xB1C#12 m s
/-- BR.TRAP. -/
def execBrTrap (m : MoveF) (s : State) : Out := runTrigger opBrTrap 0xB1D#12 m s
/-- BR.SYS. -/
def execBrSys (m : MoveF) (s : State) : Out := runTrigger opBrSys 0xB1E#12 m s
/-- BR.RFE. -/
def execBrRfe (m : MoveF) (s : State) : Out := runTrigger opBrRfe 0xB1F#12 m s
/-- BR.WAITT. -/
def execBrWaitt (m : MoveF) (s : State) : Out := runTrigger opBrWaitt 0xB20#12 m s
/-- BR.KCHK. -/
def execBrKchk (m : MoveF) (s : State) : Out := runTrigger opBrKchk 0xB21#12 m s

end Sys2Proof.Machine
end

