-- ==== Sys2Proof/Machine/Crypto.lean ====
section
/-! DEFINITION. The check and the cryptographic functions that the manual fixes by name: CRC-32C (R39), AES-256-GCM of NIST SP 800-38D
(R77, R80) and HKDF-Expand with SHA-512 (R88). A string of bytes is a list, first byte first; where a word stands for one, its byte i
is bits [8i+7:8i]. -/
namespace Sys2Proof.Machine

/-- The n bytes of a word, byte 0 first. -/
def wordBytes (x n : Nat) : List Byte := (List.range n).map fun i => BitVec.ofNat 8 (x >>> (8 * i))
/-- The word of a string of bytes, byte 0 lowest. -/
def bytesWord (bs : List Byte) : Nat := bs.foldr (fun b a => b.toNat + 256 * a) 0
/-- The number of a string of bytes, most significant byte first. -/
def bytesNat (bs : List Byte) : Nat := bs.foldl (fun a b => 256 * a + b.toNat) 0
/-- The n bytes of a number, most significant byte first. -/
def natBytes (x n : Nat) : List Byte := (wordBytes x n).reverse
/-- A string cut into blocks of n bytes. -/
def blocksOfBytes (n : Nat) (bs : List Byte) : List (List Byte) :=
  (List.range ((bs.length + n - 1) / n)).map fun i => (bs.drop (n * i)).take n
/-- Two strings combined byte by byte. -/
def xorBytes (a b : List Byte) : List Byte := List.zipWith (· ^^^ ·) a b

/-! ## CRC-32C (R39) -/

/-- One bit of CRC-32C's division, the polynomial 0x1EDC_6F41 with its bits in the order of transmission, lowest first. -/
def crcBit (c : BitVec 32) : BitVec 32 := if c.getLsbD 0 then (c >>> 1) ^^^ 0x82F63B78#32 else c >>> 1
/-- R39. CRC-32C of a string of bytes: initial value and final exclusive-OR 0xFFFF_FFFF. -/
def crc32c (bs : List Byte) : BitVec 32 :=
  ~~~ (bs.foldl (fun c b => (List.range 8).foldl (fun c _ => crcBit c) (c ^^^ b.zeroExtend 32)) 0xFFFFFFFF#32)

/-! ## AES-256 (FIPS 197) -/

/-- Multiplication by x in AES's field. -/
def aesTwice (a : Byte) : Byte := if a.getLsbD 7 then (a <<< 1) ^^^ 0x1B#8 else a <<< 1
/-- The substitution table: row x holds the substitutes of the bytes xy in hexadecimal, that of x0 first. -/
def aesTable : List Nat :=
  [0x637C777BF26B6FC53001672BFED7AB76, 0xCA82C97DFA5947F0ADD4A2AF9CA472C0,
   0xB7FD9326363FF7CC34A5E5F171D83115, 0x04C723C31896059A071280E2EB27B275,
   0x09832C1A1B6E5AA0523BD6B329E32F84, 0x53D100ED20FCB15B6ACBBE394A4C58CF,
   0xD0EFAAFB434D338545F9027F503C9FA8, 0x51A3408F929D38F5BCB6DA2110FFF3D2,
   0xCD0C13EC5F974417C4A77E3D645D1973, 0x60814FDC222A908846EEB814DE5E0BDB,
   0xE0323A0A4906245CC2D3AC629195E479, 0xE7C8376D8DD54EA96C56F4EA657AAE08,
   0xBA78252E1CA6B4C6E8DD741F4BBD8B8A, 0x703EB5664803F60E613557B986C11D9E,
   0xE1F8981169D98E949B1E87E9CE5528DF, 0x8CA1890DBFE6426841992D0FB054BB16]
/-- The substitution of a byte. -/
def aesSub (a : Byte) : Byte := BitVec.ofNat 8 (aesTable.getD (a.toNat / 16) 0 >>> (8 * (15 - a.toNat % 16)))

/-- The key schedule: the words after the eight of the key, each four bytes, up to sixty. -/
def aesSchedule (key : List Byte) : List (List Byte) :=
  let first := blocksOfBytes 4 key
  ((List.range 52).foldl (fun (acc : List (List Byte) × Byte) j =>
    let i := j + 8
    let t := acc.1.getD (i - 1) []
    let rot := (t.drop 1 ++ t.take 1).map aesSub
    let u := if i % 8 = 0 then xorBytes rot [acc.2, 0#8, 0#8, 0#8] else if i % 8 = 4 then t.map aesSub else t
    (acc.1 ++ [xorBytes (acc.1.getD (i - 8) []) u], if i % 8 = 0 then aesTwice acc.2 else acc.2)) (first, 1#8)).1

/-- The rows of the state shifted; byte r + 4c is row r of column c. -/
def aesShift (x : List Byte) : List Byte := (List.range 16).map fun i => x.getD ((i + 4 * (i % 4)) % 16) 0#8
/-- The columns of the state mixed. -/
def aesMix (x : List Byte) : List Byte :=
  (List.range 16).map fun i =>
    let at_ (k : Nat) : Byte := x.getD (i / 4 * 4 + (i + k) % 4) 0#8
    aesTwice (at_ 0) ^^^ aesTwice (at_ 1) ^^^ at_ 1 ^^^ at_ 2 ^^^ at_ 3
/-- A block enciphered under a 32-byte key. -/
def aesBlock (key block : List Byte) : List Byte :=
  let w := aesSchedule key
  let roundKey (r : Nat) : List Byte := ((w.drop (4 * r)).take 4).flatten
  let x := (List.range 13).foldl (fun x r => xorBytes (aesMix (aesShift (x.map aesSub))) (roundKey (r + 1))) (xorBytes block (roundKey 0))
  xorBytes (aesShift (x.map aesSub)) (roundKey 14)

/-! ## GCM (SP 800-38D) -/

/-- The product of two blocks in GCM's field; bit 127 of the number is the block's first bit. -/
def ghashMul (x y : BitVec 128) : BitVec 128 :=
  ((List.range 128).foldl (fun (acc : BitVec 128 × BitVec 128) i =>
    (if x.getLsbD (127 - i) then acc.1 ^^^ acc.2 else acc.1,
     if acc.2.getLsbD 0 then (acc.2 >>> 1) ^^^ (0xE1#128 <<< 120) else acc.2 >>> 1)) (0#128, y)).1
/-- GHASH of a string of whole blocks. -/
def ghash (h : BitVec 128) (bs : List Byte) : BitVec 128 :=
  (blocksOfBytes 16 bs).foldl (fun y b => ghashMul (y ^^^ BitVec.ofNat 128 (bytesNat b)) h) 0#128
/-- A string filled with zeros to whole blocks. -/
def padBlock (bs : List Byte) : List Byte := bs ++ List.replicate ((16 - bs.length % 16) % 16) 0#8
/-- The counter block i of a 96-bit nonce. -/
def gcmCounter (nonce : List Byte) (i : Nat) : List Byte := nonce ++ natBytes i 4
/-- GCTR from counter block 2 on. -/
def gcmCrypt (key nonce data : List Byte) : List Byte :=
  let bs := blocksOfBytes 16 data
  ((List.range bs.length).zip bs).flatMap fun b => xorBytes b.2 (aesBlock key (gcmCounter nonce (b.1 + 2)))
/-- The tag of a ciphertext and its additional data. -/
def gcmTagBytes (key nonce aad cipher : List Byte) : List Byte :=
  let h := BitVec.ofNat 128 (bytesNat (aesBlock key (List.replicate 16 0#8)))
  let s := ghash h (padBlock aad ++ padBlock cipher ++ natBytes (8 * aad.length) 8 ++ natBytes (8 * cipher.length) 8)
  xorBytes (natBytes s.toNat 16) (aesBlock key (gcmCounter nonce 1))

/-- R77. The nonce as a string: most significant byte first. -/
def nonceBytes (n : BitVec 96) : List Byte := natBytes n.toNat 12
/-- R77. A payload enciphered: its first 8·len bytes, under a key and a nonce. The same deciphers. -/
def gcmSeal (key : BitVec 256) (nonce : BitVec 96) (payload : Payload) (len : Nat) : Payload :=
  BitVec.ofNat 2048 (bytesWord (gcmCrypt (wordBytes key.toNat 32) (nonceBytes nonce) (wordBytes payload.toNat (8 * len))))
/-- R77. The tag over header bits [223:0], from the least significant byte upward, and a sealed payload's first 8·len bytes. -/
def gcmTag (key : BitVec 256) (nonce : BitVec 96) (header : BitVec 224) (sealed_ : Payload) (len : Nat) : BitVec 128 :=
  BitVec.ofNat 128 (bytesWord (gcmTagBytes (wordBytes key.toNat 32) (nonceBytes nonce) (wordBytes header.toNat 28)
    (wordBytes sealed_.toNat (8 * len))))
/-- R80. GcmOpen: the plaintext where the tag is good. -/
def gcmOpen (key : BitVec 256) (nonce : BitVec 96) (header : BitVec 224) (sealed_ : Payload) (len : Nat) (tag : BitVec 128) :
    Option Payload :=
  if gcmTag key nonce header sealed_ len = tag then some (gcmSeal key nonce sealed_ len) else none

/-! ## SHA-512, HMAC, HKDF-Expand (FIPS 180-4, FIPS 198-1, RFC 5869) -/

/-- The greatest r below 2^bits with r^k at most n. -/
def rootOf (k n bits : Nat) : Nat :=
  (List.range bits).foldl (fun r i => let t := r + 2 ^ (bits - 1 - i); if t ^ k ≤ n then t else r) 0
/-- The first eighty primes. -/
def primes80 : List Nat := (List.range 410).filter fun n => 2 ≤ n && (List.range 21).all fun d => d < 2 || n ≤ d || n % d ≠ 0
/-- SHA-512's constants: 64 bits of the fractional parts of the primes' cube roots, and of the first eight's square roots. -/
def shaK : List Word := primes80.map fun p => BitVec.ofNat 64 (rootOf 3 (p * 2 ^ 192) 67)
def shaInit : List Word := (primes80.take 8).map fun p => BitVec.ofNat 64 (rootOf 2 (p * 2 ^ 128) 69)

/-- The message schedule of a block. -/
def shaSchedule (block : List Byte) : List Word :=
  let first := (blocksOfBytes 8 block).map fun b => BitVec.ofNat 64 (bytesNat b)
  (List.range 64).foldl (fun w j =>
    let at_ (i : Nat) : Word := w.getD (j + i) 0#64
    let s0 := (at_ 1).rotateRight 1 ^^^ (at_ 1).rotateRight 8 ^^^ at_ 1 >>> 7
    let s1 := (at_ 14).rotateRight 19 ^^^ (at_ 14).rotateRight 61 ^^^ at_ 14 >>> 6
    w ++ [at_ 0 + s0 + at_ 9 + s1]) first
/-- One round on the eight working words. -/
def shaRound (v : List Word) (kw : Word × Word) : List Word :=
  match v with
  | [a, b, c, d, e, f, g, h] =>
    let t1 := h + (e.rotateRight 14 ^^^ e.rotateRight 18 ^^^ e.rotateRight 41) + ((e &&& f) ^^^ (~~~e &&& g)) + kw.1 + kw.2
    let t2 := (a.rotateRight 28 ^^^ a.rotateRight 34 ^^^ a.rotateRight 39) + ((a &&& b) ^^^ (a &&& c) ^^^ (b &&& c))
    [t1 + t2, a, b, c, d + t1, e, f, g]
  | _ => v
/-- SHA-512 of a string. -/
def sha512 (bs : List Byte) : List Byte :=
  let padded := bs ++ [0x80#8] ++ List.replicate ((239 - bs.length % 128) % 128) 0#8 ++ natBytes (8 * bs.length) 16
  let out := (blocksOfBytes 128 padded).foldl (fun h b =>
    List.zipWith (· + ·) h ((shaK.zip (shaSchedule b)).foldl shaRound h)) shaInit
  out.flatMap fun w => natBytes w.toNat 8
/-- HMAC with SHA-512 under a key of at most 128 bytes. -/
def hmacSha512 (key bs : List Byte) : List Byte :=
  let k := key ++ List.replicate (128 - key.length) 0#8
  sha512 (k.map (· ^^^ 0x5C#8) ++ sha512 (k.map (· ^^^ 0x36#8) ++ bs))
/-- R88. HKDF-Expand with SHA-512 of an export master secret and an info string: its first 32 bytes. -/
def hkdfExpand (secret : BitVec 512) (info : List Byte) : BitVec 256 :=
  BitVec.ofNat 256 (bytesWord ((hmacSha512 (wordBytes secret.toNat 64) (info ++ [1#8])).take 32))

end Sys2Proof.Machine
end

