-- ==== Sys2Proof/Machine/Ring.lean ====
section
/-! DEFINITION. Stations of the Meridian and the Equator: flags, Almanac entries and their firing (R36 to R59, R66). -/
namespace Sys2Proof.Machine

/-! ## Places -/

/-- R36. A direction as a number: 0 east, 1 west. -/
def dirNo (d : Dir) : Nat :=
  match d with
  | .east => 0
  | .west => 1
/-- R46, R68. The key of a direction, lane and position. -/
def slotKey (d : Dir) (lane pos : Nat) : Nat := dirNo d * 512 + lane % 8 * 64 + pos % 64
def keyPos (key : Nat) : Nat := key % 64
def keyLane (key : Nat) : Nat := key / 64 % 8
def keyWest (key : Nat) : Bool := key / 512 % 2 = 1
def keyDir (key : Nat) : Dir := if keyWest key then .west else .east

/-- R37. The station of pass number h since training. -/
def passStation (west : Bool) (h : Nat) : Nat := if west then 15 - h % 16 else h % 16
/-- R37. The ring clock of pass number h of a position. -/
def passClock (pos h : Nat) : Nat := pos + 4 * h
/-- R37. The offset at which position 0 passes station k. -/
def stationOffset (west : Bool) (k : Nat) : Nat := 4 * (if west then 15 - k else k)

/-- R41. Class and stream of a position: 0 best-effort, 1 stream, 2 control. -/
def ownerOf (s : State) (key : Nat) : Owner :=
  Map.get s.owners key { cls := if keyLane key = 0 && keyPos key = 0 then 2 else 0, stream := 0 }
def setOwner (s : State) (key : Nat) (o : Owner) : State := { s with owners := Map.set s.owners key o }
def slotOf (s : State) (key : Nat) : Slot := Map.get s.slots key {}
def setSlot (s : State) (key : Nat) (x : Slot) : State := { s with slots := Map.set s.slots key x }

/-! ## The ring clock (R37) -/

/-- R46. OP of an entry. -/
def entryOp (e : AlmEntry) : Nat := field e.word.toNat 60 4
/-- R46. Is an entry armed: an operation other than NOP and the reserved codes? -/
def armed (e : AlmEntry) : Bool := 1 ≤ entryOp e && entryOp e ≤ 5

/-- R41. The tokens on the Meridian. -/
def meridianTokens (s : State) : List Token := s.tokens.filter fun t => !t.equator
/-- The positions whose slots are in use: full, marked or to be reclaimed, or for which some station has an entry armed; and the
east control position while a token is under way or owed once more. -/
def busyKeys (s : State) : List Nat :=
  let full := s.slots.filter fun (x : Nat × Slot) => x.2.valid || x.2.reclaim || x.2.thr
  let entries (t : Nat × Station) : List Nat := if t.1 < 16 then (t.2.almanac.filter fun (e : Nat × AlmEntry) => armed e.2).map Prod.fst else []
  ((if (meridianTokens s).isEmpty then [] else [0]) ++ full.map Prod.fst ++ s.stations.flatMap entries).eraseDups
/-- R37. The number of a position's next pass: the slot has made its last one, and the ring clock has come past those before. -/
def nextPass (s : State) (key : Nat) : Nat := max (slotOf s key).hops (ceilDiv (s.ring - keyPos key) 4)
/-- R37. The ring clock of a position's next pass. -/
def dueClock (s : State) (key : Nat) : Nat := passClock (keyPos key) (nextPass s key)
/-- R41, R406, R412. Does the slot that carries a ring's tokens stand at station k? The Equator's stands at its station (16) whenever a
token step names it. -/
def controlAt (s : State) (k : Nat) : Bool := k = 16 || (nextPass s 0 % 16 = (k + 1) % 16 && k < 16)
/-- R37. Is no slot in use to pass a station before the slot of a position does? -/
def passDue (s : State) (key : Nat) : Bool := (busyKeys s).all fun j => dueClock s key ≤ dueClock s j
/-- R37. The ring clock up to which nothing passes a station: of the earliest pass of a slot in use, no later than t. -/
def quietUntil (s : State) (t : Nat) : Nat := (busyKeys s).foldl (fun a j => min a (dueClock s j)) t

/-! ## The slot's header (R39, R40, R76) -/

/-- R76. The Equator's fields of a slot header. -/
structure EqHead where
  pseq : Nat
  spkg : Nat
  dpkg : Nat
  ksb : Bool
  enc : Bool
  ekind : Nat
  deriving DecidableEq, Repr

/-- R39, R76. Header bits [223:0]. -/
def headerOf (x : Slot) (h : EqHead) : BitVec 224 :=
  BitVec.ofNat 224
    (h.ekind % 4 * 2 ^ 32 + h.enc.toNat * 2 ^ 34 + h.ksb.toNat * 2 ^ 35 + h.dpkg % 64 * 2 ^ 36 + h.spkg % 64 * 2 ^ 42 +
      h.pseq % 2 ^ 64 * 2 ^ 48 + x.sand.toNat * 2 ^ 112 + x.valid.toNat * 2 ^ 144 + x.cls % 4 * 2 ^ 146 + x.ptype % 16 * 2 ^ 148 +
      x.len % 64 * 2 ^ 152 + x.ovf.toNat * 2 ^ 161 + x.poison.toNat * 2 ^ 162 + x.thr.toNat * 2 ^ 163 + x.mark % 16 * 2 ^ 164 +
      x.dst % 16 * 2 ^ 168 + x.src % 16 * 2 ^ 172 + x.stream % 1024 * 2 ^ 176 + x.seq.toNat * 2 ^ 192 + x.exp.toNat * 2 ^ 208)
/-- R76. The Equator's fields of a header. -/
def eqHeadOf (h : BitVec 224) : EqHead :=
  let n := h.toNat
  { pseq := field n 48 64, spkg := field n 42 6, dpkg := field n 36 6, ksb := n.testBit 35, enc := n.testBit 34, ekind := field n 32 2 }
/-- R39. The slot of a header and a payload. -/
def slotOfHeader (h : BitVec 224) (payload : Payload) : Slot :=
  let n := h.toNat
  { payload := payload, exp := BitVec.ofNat 16 (field n 208 16), seq := BitVec.ofNat 16 (field n 192 16), stream := field n 176 10,
    src := field n 172 4, dst := field n 168 4, mark := field n 164 4, thr := n.testBit 163, poison := n.testBit 162,
    ovf := n.testBit 161, len := field n 152 6, ptype := field n 148 4, cls := field n 146 2, valid := n.testBit 144,
    sand := BitVec.ofNat 32 (field n 112 32) }
/-- The Equator's fields of a slot of the Meridian, where they are reserved (R39). -/
def noEqHead : EqHead := { pseq := 0, spkg := 0, dpkg := 0, ksb := false, enc := false, ekind := 0 }

/-- R39. CRC of header bits [223:0] and a payload. -/
def crcOf (h : BitVec 224) (payload : Payload) : BitVec 32 := crc32c (wordBytes h.toNat 28 ++ wordBytes payload.toNat 256)
/-- R39. A slot of the Meridian that its station has changed: CRC is computed again. -/
def stamp (x : Slot) : Slot := { x with crc := crcOf (headerOf x noEqHead) x.payload }

/-- R40. A slot freed: VALID, LEN, SEQ, SAND, OVF and POISON cleared; with LEN 0 its payload reads as zero (R39). A free best-effort
slot keeps THR and MARK. -/
def freeSlot (x : Slot) : Slot :=
  stamp { x with payload := 0#2048, valid := false, len := 0, seq := 0#16, sand := 0#32, ovf := false, poison := false, origin := none, integrity := false }

/-! ## Streams and flags (R42, R58, R401) -/

/-- The streams of a launch at a ring that have been granted. -/
def grantedStreams (l : Launch) : List StreamReq := l.streams.filter fun x => x.id ≠ 0
/-- R112. Is a stream's flag granted at station k? The Equator station's mask stands first. -/
def streamFlag (x : StreamReq) (k f : Nat) : Bool :=
  if k = 16 then x.ring = .equator && (x.flags.getD 0 0#64).getLsbD f
  else x.ring = .meridian && (x.flags.getD k 0#64).getLsbD f
/-- R401. Is flag f of station k granted to a launch? -/
def flagGranted (l : Launch) (k f : Nat) : Bool := (grantedStreams l).any fun x => streamFlag x k f
/-- R73. The ring of a station: ids of its streams form a space of their own. -/
def ringAt (k : Nat) : RingId := if k = 16 then .equator else .meridian
/-- The launch of a live stream at station k. -/
def streamLaunch (s : State) (k id : Nat) : Option Launch :=
  s.launches.find? fun l => l.streams.any fun x => x.id = id && x.id ≠ 0 && x.ring = ringAt k

def flagOf (s : State) (k f : Nat) : Flag := Map.get (station s k).flags f {}
/-- R58. A flag set with a status: SET stays, the status is the higher. -/
def setFlag (s : State) (k f status : Nat) : State :=
  modStation s k fun t => { t with flags := Map.update t.flags f {} fun x => { set := true, status := max x.status status } }
/-- R43, R58. A stream's flags cleared at every station of its ring. -/
def clearStreamFlags (s : State) (x : StreamReq) : State :=
  { s with stations := s.stations.map fun t =>
      if ringAt t.1 = x.ring then (t.1, { t.2 with flags := t.2.flags.filter fun f => !streamFlag x t.1 f.1 }) else t }
/-- R58. A flag cleared. -/
def clearFlag (s : State) (k f : Nat) : State := modStation s k fun t => { t with flags := Map.erase t.flags f }

/-! ## Almanac entries (R46, R47) -/

def entryType (e : AlmEntry) : Nat := field e.word.toNat 58 2
def entryFe (e : AlmEntry) : Bool := e.word.getLsbD 57
def entryFlag (e : AlmEntry) : Nat := field e.word.toNat 51 6
def entryStream (e : AlmEntry) : Nat := field e.word.toNat 41 10
def entryRep (e : AlmEntry) : Nat := field e.word.toNat 35 6
def entryStep (e : AlmEntry) : Nat := field e.word.toNat 28 7
def entryLen (e : AlmEntry) : Nat := if field e.word.toNat 23 5 = 0 then 32 else field e.word.toNat 23 5
def entryRef (e : AlmEntry) : Nat := field e.word.toNat 0 23
/-- The operations that read a fragment, and those that write. -/
def readsLocal (op : Nat) : Bool := op = 1 || op = 3 || op = 5
def writesLocal (op : Nat) : Bool := op = 2 || op = 4 || op = 5

def entryAt (s : State) (k key : Nat) : AlmEntry := Map.get (station s k).almanac key {}
def setEntry (s : State) (k key : Nat) (e : AlmEntry) : State :=
  modStation s k fun t => { t with almanac := if e.word = 0#64 then Map.erase t.almanac key else Map.set t.almanac key e }
/-- R44. The row of a stream. -/
def rowOf (s : State) (k id : Nat) : StreamRow := Map.get (station s k).rows id {}
/-- R47, R56. Does an entry carry F32 data that is converted? -/
def converts (s : State) (k : Nat) (e : AlmEntry) : Bool := entryType e = 2 && (rowOf s k (entryStream e)).cvt
/-- R47. Bytes of a firing's local extent. -/
def extentBytes (s : State) (k : Nat) (e : AlmEntry) : Nat := (if converts s k e then 4 else 8) * entryLen e

/-- A local extent: bytes of a handle of a core, or of a window of a launch. -/
inductive Local where
  | handle (core handle off : Nat)
  | window (launch base : Nat)
  deriving DecidableEq, Repr

/-- R46, R47, R49. The local extent of firing n, where the reference is without fault. -/
def extentOf (s : State) (k : Nat) (e : AlmEntry) (n : Nat) : Option Local :=
  let r := entryRef e
  let len := extentBytes s k e
  match streamLaunch s k (entryStream e) with
  | none => none
  | some l =>
    if k % 2 = 0 ∧ k ≠ 16 then
      let c := k / 2 * 48 + field r 17 6
      let off := 128 * (field r 0 9 + n * entryStep e)
      if field r 17 6 > 47 then none
      else match handleOf s c (field r 9 8) with
        | none => none
        | some h => if h.owner.launch = l.id ∧ off + len ≤ h.size then some (.handle c (field r 9 8) off) else none
    else
      match l.windows[field r 19 4]? with
      | none => none
      | some w =>
        let off := 128 * (field r 0 19 + n * entryStep e)
        if (k = 16 ∨ w.die = k / 2) ∧ off + len ≤ w.length then some (.window l.id (w.base + off)) else none

/-- R73, R75. Is an Equator stream collective, by the ownership table? -/
def collectiveStream (s : State) (id : Nat) : Bool :=
  s.eq.owners.any fun e => field e.2.toNat 10 2 = 1 && field e.2.toNat 0 10 = id && e.2.getLsbD 31

/-- R49, R75. Format mismatch of a firing. A LOAD fills a free slot, which carries no format (log 21). -/
def formatMismatch (s : State) (k : Nat) (e : AlmEntry) (x : Slot) : Bool :=
  let t := entryType e
  let op := entryOp e
  op ≠ 1 &&
  ((x.ptype ≠ t && !(t = 3 && (op = 2 || op = 4))) || x.len ≠ entryLen e || ((op = 3 || op = 5) && t = 3) ||
    (t = 2 && x.exp ≠ (rowOf s k (entryStream e)).exp) ||
    (k = 16 && (op = 3 || op = 5) && !collectiveStream s (entryStream e)))

/-! ## Local data (R50 to R53) -/

/-- R51, R101. The fragment of a local extent, `none` while a line is EMPTY or may be held by the host. -/
def readLocal (s : State) (a : Local) (n : Nat) : Option Fragment :=
  match a with
  | .handle c h off =>
    if (handleOf s c h).elim false (fun hd => anyEmpty (coreOf s c) hd off n) then none
    else match readHandle s c h off n with
      | .data bs => some { bytes := BitVec.ofNat 2048 (ofBytes bs), poison := false }
      | .blocked _ _ _ => none
      | .poison _ | .miss _ _ | .needs _ => some { bytes := 0#2048, poison := true }
  | .window l va =>
    if (heldVa s (launchOf s l) va n).isSome then none else
    let r := (lineParts va n).foldl (fun (acc : List Byte × Bool) p =>
      match translate s (launchOf s l).ptroot true p.1 1 with
      | .ok t =>
        match t.place with
        | .dev (a :: _) => let d := atHome s a; (acc.1 ++ dramBytes s d p.2, acc.2 || poisonIn s d p.2)
        | _ => (acc.1 ++ List.replicate p.2 0#8, true)
      | .error _ => (acc.1 ++ List.replicate p.2 0#8, true)) ([], false)
    some { bytes := BitVec.ofNat 2048 (ofBytes r.1), poison := r.2 }

/-- The homes of a window extent's line parts. -/
def windowParts (s : State) (l va n : Nat) : List (Nat × Nat × Nat) :=
  (lineParts va n).filterMap fun p =>
    match translate s (launchOf s l).ptroot true p.1 2 with
    | .ok t => (match t.place with
      | .dev (d :: _) => some (atHome s d, p.1 - va, p.2)
      | _ => none)
    | .error _ => none

/-- R50, R53. Bytes written at a local extent. -/
def writeLocal (s : State) (a : Local) (bs : List Byte) : State :=
  match a with
  | .handle c h off =>
    match handleOf s c h with
    | none => s
    | some hd => modCore s c fun k => storeHandle k hd (atOffset off bs)
  | .window l va =>
    (windowParts s l va bs.length).foldl (fun s p => storeDram s p.1 ((bs.drop p.2.1).take p.2.2)) s

/-- R50. MarkLocalPoison. -/
def poisonLocal (s : State) (a : Local) (n : Nat) : State :=
  match a with
  | .handle c h off =>
    match handleOf s c h with
    | none => s
    | some hd => modCore s c fun k => (linesOf off n).foldl (fun k l => setLine k hd l .poison) k
  | .window l va => (windowParts s l va n).foldl (fun s p => poisonRange s p.1 p.2.2) s

/-! ## Add-in-passing (R50, R56, R57) -/

/-- 64-bit word i of a payload. -/
def payloadWord (x : Payload) (i : Nat) : Nat := field x.toNat (64 * i) 64
/-- A payload from 64-bit words. -/
def packPayload (ws : List Nat) : Payload := BitVec.ofNat 2048 (ws.foldr (fun w acc => w % 2 ^ 64 + 2 ^ 64 * acc) 0)

/-- What Ingress makes of a fragment: its payload, whether it is poisoned, whether a conversion saturated, and the words that
came from −0. -/
structure Ingress where
  words : Payload
  poison : Bool
  ovf : Bool
  negZero : BitVec 32

/-- R56. Ingress of an entry: F32 data converted where the stream converts. -/
def ingress (s : State) (k : Nat) (e : AlmEntry) (x : Fragment) : Ingress :=
  if converts s k e then
    let ex := (rowOf s k (entryStream e)).exp.toInt
    let vs := (List.range (entryLen e)).map fun i => field x.bytes.toNat (32 * i) 32
    let rs := vs.map fun v => fxwFrom 0 v ex
    { words := packPayload (rs.map fun r => wrapN r.1 64), poison := x.poison || vs.any (isNaN 0), ovf := rs.any fun r => r.2.2.1,
      negZero := BitVec.ofNat 32 (((vs.zip rs).map fun p => negOf 0 p.1 && p.2.1 = 0 && p.2.2.1).foldr
        (fun b acc => b.toNat + 2 * acc) 0) }
  else { words := x.bytes, poison := x.poison, ovf := false, negZero := 0#32 }

/-- R57. Egress: the local bytes of a payload, and whether a conversion overflowed. -/
def egress (s : State) (k : Nat) (e : AlmEntry) (x : Slot) : List Byte × Bool :=
  let n := entryLen e
  if converts s k e then
    let ex := (rowOf s k (entryStream e)).exp.toInt
    let rs := (List.range n).map fun i =>
      let w := signed (payloadWord x.payload i) 64
      if w = 0 then (withSign 0 (x.sand.getLsbD i) 0, false)
      else
        let r := (f32FromFxw w ex).1
        (r, isInfCode 0 r)
    (rs.flatMap fun r => bytesOf r.1 4, rs.any (·.2))
  else (bytesOf x.payload.toNat (8 * n), false)

/-- R50, R56. Element sums of a payload and a contribution, by width; and whether one leaves the signed range. -/
def addPayload (bits words : Nat) (x y : Payload) : Payload × Bool :=
  let n := words * 64 / bits
  let sums := (List.range n).map fun i =>
    signed (field x.toNat (bits * i) bits) bits + signed (field y.toNat (bits * i) bits) bits
  (BitVec.ofNat 2048 (sums.foldr (fun v acc => wrapN v bits + 2 ^ bits * acc) 0),
   sums.any fun v => decide (v < -((2 ^ (bits - 1) : Nat) : Int)) || decide (v ≥ ((2 ^ (bits - 1) : Nat) : Int)))

/-- What a firing leaves: the state, the slot, the status. -/
structure Fired where
  state : State
  slot : Slot
  status : Nat

/-- R50, R74. LOAD. The Equator station has no number that SRC could hold, and the spec gives it none: its slots carry 15, the station of
its tap, as its packets do (DESIGN CHOICE, log 66). -/
def fireLoad (s : State) (k : Nat) (e : AlmEntry) (x : Slot) (frag : Option Fragment) (bad : Bool) : Slot :=
  let y : Slot :=
    { x with payload := 0#2048, len := entryLen e, ptype := entryType e, stream := entryStream e, cls := 1, src := min k 15,
             seq := BitVec.ofNat 16 e.n, ovf := false, sand := 0#32,
             exp := if entryType e = 2 then (rowOf s k (entryStream e)).exp else 0#16, valid := true }
  match frag with
  | some f =>
    let i := ingress s k e f
    if bad || i.poison then { y with poison := true }
    else { y with payload := BitVec.ofNat 2048 (i.words.toNat % 2 ^ (64 * entryLen e)), poison := false, ovf := i.ovf,
                  sand := i.negZero }
  | none => { y with poison := true }

/-- R50, R56. ADD and ADDEMPTY: the contribution added. -/
def fireAdd (s : State) (k : Nat) (e : AlmEntry) (x : Slot) (frag : Option Fragment) (bad : Bool) : Slot :=
  if x.poison then x
  else match frag with
    | none => { x with poison := true }
    | some f =>
      let i := ingress s k e f
      if bad || i.poison then { x with poison := true }
      else
        let (p, out) := addPayload (if entryType e = 0 then 32 else 64) (entryLen e) x.payload i.words
        { x with payload := p, ovf := x.ovf || out || i.ovf, sand := x.sand &&& i.negZero }

/-- R50. One firing of a matching entry. For an extent with a reference fault, such as one that passes the end of its handle, the spec
does not say which lines MarkLocalPoison marks: none is marked (DESIGN CHOICE, log 55). -/
def fire (s : State) (k : Nat) (e : AlmEntry) (x : Slot) (frag : Option Fragment) : Fired :=
  let op := entryOp e
  let ext := extentOf s k e e.n
  let bad := formatMismatch s k e x || ext.isNone
  let s0 := if bad then modStation s k fun t => { t with format := min (t.format + 1) 0xFFFF } else s
  let y := if op = 1 then fireLoad s k e x frag bad else if op = 3 || op = 5 then fireAdd s k e x frag bad else x
  let out := egress s k e y
  let s1 := if !writesLocal op then s0
    else match ext with
      | none => s0
      | some a => if bad || y.poison then poisonLocal s0 a (extentBytes s k e) else writeLocal s0 a out.1
  let st := max e.status (if y.poison then 2 else if y.ovf || (writesLocal op && !bad && out.2) then 1 else 0)
  { state := s1, slot := if op = 4 || op = 5 then freeSlot y else if op = 2 then y else stamp y, status := st }

/-- R48. Does a slot match an armed entry whose stream owns its position? -/
def slotMatches (e : AlmEntry) (x : Slot) : Bool :=
  if entryOp e = 1 then !x.valid else x.valid && (x.poison || x.seq = BitVec.ofNat 16 e.n)

/-- R51. The fragment of the entry's next firing, as it stands or as it is read now. -/
def stagedNow (s : State) (k : Nat) (e : AlmEntry) : Option Fragment :=
  match e.staged with
  | some f => some f
  | none => match extentOf s k e e.n with
    | some a => readLocal s a (extentBytes s k e)
    | none => none

/-- R52. The lines of every firing of a COPY, EMPTY or ADDEMPTY entry at a compute-die station marked EMPTY; of a firing with a
reference fault none (DESIGN CHOICE, log 55). -/
def markEntryLines (s : State) (k : Nat) (e : AlmEntry) : State :=
  if k % 2 = 1 || k = 16 || !writesLocal (entryOp e) then s
  else (List.range (entryRep e + 1)).foldl (fun s n =>
    match extentOf s k e n with
    | some (.handle c h off) =>
      (match handleOf s c h with
        | some hd => modCore s c fun kc => (linesOf off (extentBytes s k e)).foldl (fun kc l => setLine kc hd l .empty) kc
        | none => s)
    | _ => s) s

/-- R54. An entry written: n starts at 0, nothing is staged. -/
def writeEntry (s : State) (k key : Nat) (w : Word) (launch : Nat) (chunk : Option (Nat × Nat × Nat)) : State :=
  let e : AlmEntry := { word := w, launch := launch, chunk := chunk }
  setEntry (markEntryLines s k e) k key e

/-- Entries of every station for which p holds set to NOP. -/
def disarm (s : State) (p : Nat → AlmEntry → Bool) : State :=
  { s with stations := s.stations.map fun st =>
      (st.1, { st.2 with almanac := st.2.almanac.filter fun e => !p st.1 e.2 }) }

end Sys2Proof.Machine
end

