-- ==== Sys2Proof/Machine/Forward.lean ====
section
/-! DEFINITION. Neighbour forwarding (R178 to R181, R425): the chain of cores, a forward write's destination, and the delivery of
a held write. -/
namespace Sys2Proof.Machine

/-- R425. The compute dies of a launch, ascending. -/
def diesOf (l : Launch) : List Nat := if l.dies = 0#8 then List.range 8 else bitsSet l.dies.toNat 8
/-- R112. The CHAIN streams of a launch in launch-local order. -/
def chainsOf (l : Launch) : List StreamReq := l.streams.filter fun x => x.chain

/-- R425. The die whose core 0 follows core 47 of die d in the chain of a launch, if a CHAIN stream joins them: stream i joins
die i of DIES to die i + 1, and one beyond the pairs joins the highest to the lowest. -/
def nextDie (l : Launch) (d : Nat) : Option Nat :=
  let ds := diesOf l
  let i := ds.findIdx (· = d)
  if i ≥ ds.length || i ≥ (chainsOf l).length then none
  else if i + 1 < ds.length then ds[i + 1]? else if ds.length > 1 then ds[0]? else none
/-- R425. The die whose core 47 precedes core 0 of die d. -/
def prevDie (l : Launch) (d : Nat) : Option Nat := (diesOf l).find? fun e => nextDie l e = some d

/-- R178. The successor or the predecessor of a core in the chain of a launch. -/
def chainNext (l : Launch) (c : Nat) : Option Nat :=
  if coreNo c < 47 then some (c + 1) else (nextDie l (dieOf c)).map fun d => d * 48
def chainPrev (l : Launch) (c : Nat) : Option Nat :=
  if coreNo c > 0 then some (c - 1) else (prevDie l (dieOf c)).map fun d => d * 48 + 47

/-- R178. The core that a forwarding port (0 to 3 nx, 4 to 7 pv) of core c writes. -/
def portCore (s : State) (c port : Nat) : Option Nat :=
  if port < 4 then chainNext (coreLaunch s c) c else chainPrev (coreLaunch s c) c

/-- R137, R179. Does core n run a member of the step group of core c's waypoint, of a level whose STEP is 1? -/
def sameGroup (s : State) (c n : Nat) : Bool :=
  match runningOn s c, runningOn s n with
  | some a, some b => groupOf a = groupOf b && levelSteps s a
  | _, _ => false

/-- R178, R179. A forward write of an execution at its place: ILLEGAL_DEST where the neighbour runs no member of the group; it
is held, and the bundle waits, until it has been delivered. A fence that names XF holds it first (R222). `info` is the trap's k.trapi. -/
def forwardWrite (s : State) (c place port : Nat) (v : Vec) (info : Word) : Res Unit :=
  match portCore s c port with
  | none => raise tcIllegalDest info
  | some n =>
    if !sameGroup s c n then raise tcIllegalDest info
    else match pathClear s c 6, closing s c with
      | .error e, _ => .error e
      | _, .error e => .error e
      | .ok _, .ok _ => if (coreOf s c).sent.contains place then .ok () else .error (.wait (.forward [(place, port, v)]))

/-- R179. The held write at a place of core c delivered into the neighbour's f register, which becomes FULL. It stays held while
that register is FULL, and behind an earlier write to the same port. -/
def deliverForward (s : State) (c place : Nat) : State :=
  let k := coreOf s c
  match k.held.find? fun h => h.1 = place with
  | none => s
  | some (_, port, v) =>
    match portCore s c port with
    | none => s
    | some n =>
      let key := 0x90 + port % 4
      let first := (k.held.find? fun h => h.2.1 = port).elim false fun h => h.1 = place
      if !sameGroup s c n || !first || !isEmpty (coreOf s n) key then s
      else
        modCore (modCore s n fun kn => markFull { kn with ve := Map.set kn.ve key v } key) c fun k =>
          { k with held := k.held.filter fun h => h.1 ≠ place, sent := k.sent ++ [place] }

end Sys2Proof.Machine
end

