-- ==== Sys2Proof/Machine/Scalar.lean ====
section
/-! DEFINITION. The integer and reference operations of S0 and S1 (R289 to R294, R299 to R301). Each operation is a function of
its operands at width w, an `op` that takes them from their ports and issues the result, and a meaning for each port. -/
namespace Sys2Proof.Machine

/-! ## Values at a width (R290 to R293) -/

/-- R290. ScalarResult. -/
def scalarOut (w : Nat) (r : Int) : Word :=
  if w = 64 then BitVec.ofInt 64 r else (BitVec.ofInt 32 r).signExtend 64

/-- R290. A result of 1 or 0. -/
def bool01 (p : Prop) [Decidable p] : Int := if p then 1 else 0
/-- The complement of a w-bit number. -/
def notN (w x : Nat) : Nat := 2 ^ w - 1 - x
/-- R291. A w-bit number rotated left by n ≤ w bits. -/
def rotl (w x n : Nat) : Nat := (x * 2 ^ n) % 2 ^ w + x / 2 ^ (w - n)
/-- R292. Zero bits above the highest one bit; w of zero. -/
def countLead (w x : Nat) : Nat :=
  match (bitsSet x w).getLast? with
  | some i => w - 1 - i
  | none => w
/-- R292. Bit i moved to bit w − 1 − i. -/
def reverseBits (w x : Nat) : Nat := (bitsSet x w).foldl (fun acc i => acc + 2 ^ (w - 1 - i)) 0
/-- R292. Byte i moved to byte w/8 − 1 − i. -/
def swapBytes (w x : Nat) : Nat := ofBytes (bytesOf x (w / 8)).reverse
/-- R293. The index of the one bit with exactly n one bits below it; w where there is none. -/
def findNth (w x n : Nat) : Nat := (bitsSet x w).getD n w

/-- R294. The four divisions: which of them, and whether the quotient is signed. -/
inductive DivOp where
  | div | divu | rem | remu
  deriving DecidableEq, Repr

/-- R294. Divide: the result, and whether IDZ is set. -/
def divide (op : DivOp) (w x y : Nat) : Int × Bool :=
  let sx := signed x w
  let sy := signed y w
  let corner := sx = -((2 ^ (w - 1) : Nat) : Int) ∧ sy = -1
  if y = 0 then
    match op with
    | .div | .divu => (((2 ^ w - 1 : Nat) : Int), true)
    | .rem | .remu => ((x : Int), true)
  else match op with
    | .div => (if corner then (x : Int) else Int.tdiv sx sy, false)
    | .rem => (if corner then 0 else Int.tmod sx sy, false)
    | .divu => (((x / y : Nat) : Int), false)
    | .remu => (((x % y : Nat) : Int), false)

/-! ## Shapes of an operation (R289) -/

/-- One operand, at the trigger. -/
def intOp1 (w dist : Nat) (f : (w x : Nat) → Int) (o : OpIn) (s : State) : Res State :=
  match scVal o with
  | .error e => .error e
  | .ok x => .ok (scalarResult s o (scalarOut w (f w (x.toNat % 2 ^ w))) dist)

/-- Two operands: o0 and the trigger. -/
def intOp2 (w dist : Nat) (f : (w x y : Nat) → Int) (o : OpIn) (s : State) : Res State :=
  match scOp s o 0, scVal o with
  | .ok x, .ok y => .ok (scalarResult s o (scalarOut w (f w (x.toNat % 2 ^ w) (y.toNat % 2 ^ w))) dist)
  | .error e, _ => .error e
  | _, .error e => .error e

/-- R293. An operand and a count that is clamped to the width. -/
def countOp (w : Nat) (f : (w x len : Nat) → Int) (o : OpIn) (s : State) : Res State :=
  match scOp s o 0, scVal o with
  | .ok x, .ok n => .ok (scalarResult s o (scalarOut w (f w (x.toNat % 2 ^ w) (min n.toNat w))) 1)
  | .error e, _ => .error e
  | _, .error e => .error e

/-- R294. A division, its flag set at once. -/
def divOp (op : DivOp) (w : Nat) (o : OpIn) (s : State) : Res State :=
  match scOp s o 0, scVal o with
  | .ok x, .ok y =>
    let (r, idz) := divide op w (x.toNat % 2 ^ w) (y.toNat % 2 ^ w)
    .ok (scalarResult (modCore s o.c fun k => setFlags k (flIf idz flIDZ)) o (scalarOut w r) 24)
  | .error e, _ => .error e
  | _, .error e => .error e

/-! ## Operations at a width -/

/-- R291. X + Y. -/
def valAdd (_w x y : Nat) : Int := (x : Int) + y
/-- R291. ADD. -/
def opSAdd (w : Nat) : OpIn → State → Res State := intOp2 w 1 valAdd

/-- R291. X − Y. -/
def valSub (_w x y : Nat) : Int := (x : Int) - y
/-- R291. SUB. -/
def opSSub (w : Nat) : OpIn → State → Res State := intOp2 w 1 valSub

/-- R291. X · Y. -/
def valMul (_w x y : Nat) : Int := (x : Int) * y
/-- R291. MUL. -/
def opSMul (w : Nat) : OpIn → State → Res State := intOp2 w 3 valMul

/-- R291. Floor(SX · SY / 2^w). -/
def valMulh (w x y : Nat) : Int := signed x w * signed y w / (2 ^ w : Nat)
/-- R291. MULH. -/
def opSMulh (w : Nat) : OpIn → State → Res State := intOp2 w 3 valMulh

/-- R291. Floor(X · Y / 2^w). -/
def valMulhu (w x y : Nat) : Int := (x * y / 2 ^ w : Nat)
/-- R291. MULHU. -/
def opSMulhu (w : Nat) : OpIn → State → Res State := intOp2 w 3 valMulhu

/-- R291. X and Y. -/
def valAnd (_w x y : Nat) : Int := (x &&& y : Nat)
/-- R291. AND. -/
def opSAnd (w : Nat) : OpIn → State → Res State := intOp2 w 1 valAnd

/-- R291. X or Y. -/
def valOr (_w x y : Nat) : Int := (x ||| y : Nat)
/-- R291. OR. -/
def opSOr (w : Nat) : OpIn → State → Res State := intOp2 w 1 valOr

/-- R291. X xor Y. -/
def valXor (_w x y : Nat) : Int := (x ^^^ y : Nat)
/-- R291. XOR. -/
def opSXor (w : Nat) : OpIn → State → Res State := intOp2 w 1 valXor

/-- R291. X and not Y. -/
def valAndn (w x y : Nat) : Int := (x &&& notN w y : Nat)
/-- R291. ANDN. -/
def opSAndn (w : Nat) : OpIn → State → Res State := intOp2 w 1 valAndn

/-- R291. X or not Y. -/
def valOrn (w x y : Nat) : Int := (x ||| notN w y : Nat)
/-- R291. ORN. -/
def opSOrn (w : Nat) : OpIn → State → Res State := intOp2 w 1 valOrn

/-- R291. X · 2^(Y mod w). -/
def valShl (w x y : Nat) : Int := (x * 2 ^ (y % w) : Nat)
/-- R291. SHL. -/
def opSShl (w : Nat) : OpIn → State → Res State := intOp2 w 1 valShl

/-- R291. Floor(X / 2^(Y mod w)). -/
def valShr (w x y : Nat) : Int := (x / 2 ^ (y % w) : Nat)
/-- R291. SHR. -/
def opSShr (w : Nat) : OpIn → State → Res State := intOp2 w 1 valShr

/-- R291. Floor(SX / 2^(Y mod w)). -/
def valSra (w x y : Nat) : Int := signed x w / (2 ^ (y % w) : Nat)
/-- R291. SRA. -/
def opSSra (w : Nat) : OpIn → State → Res State := intOp2 w 1 valSra

/-- R291. X rotated left by Y mod w bits. -/
def valRol (w x y : Nat) : Int := (rotl w x (y % w) : Nat)
/-- R291. ROL. -/
def opSRol (w : Nat) : OpIn → State → Res State := intOp2 w 1 valRol

/-- R291. X rotated right by Y mod w bits. -/
def valRor (w x y : Nat) : Int := (rotl w x (w - y % w) : Nat)
/-- R291. ROR. -/
def opSRor (w : Nat) : OpIn → State → Res State := intOp2 w 1 valRor

/-- R291. X = Y. -/
def valCmpeq (_w x y : Nat) : Int := bool01 (x = y)
/-- R291. CMPEQ. -/
def opSCmpeq (w : Nat) : OpIn → State → Res State := intOp2 w 1 valCmpeq

/-- R291. X ≠ Y. -/
def valCmpne (_w x y : Nat) : Int := bool01 (x ≠ y)
/-- R291. CMPNE. -/
def opSCmpne (w : Nat) : OpIn → State → Res State := intOp2 w 1 valCmpne

/-- R291. SX < SY. -/
def valCmplt (w x y : Nat) : Int := bool01 (signed x w < signed y w)
/-- R291. CMPLT. -/
def opSCmplt (w : Nat) : OpIn → State → Res State := intOp2 w 1 valCmplt

/-- R291. X < Y. -/
def valCmpltu (_w x y : Nat) : Int := bool01 (x < y)
/-- R291. CMPLTU. -/
def opSCmpltu (w : Nat) : OpIn → State → Res State := intOp2 w 1 valCmpltu

/-- R291. SX ≤ SY. -/
def valCmple (w x y : Nat) : Int := bool01 (signed x w ≤ signed y w)
/-- R291. CMPLE. -/
def opSCmple (w : Nat) : OpIn → State → Res State := intOp2 w 1 valCmple

/-- R291. X ≤ Y. -/
def valCmpleu (_w x y : Nat) : Int := bool01 (x ≤ y)
/-- R291. CMPLEU. -/
def opSCmpleu (w : Nat) : OpIn → State → Res State := intOp2 w 1 valCmpleu

/-- R291. SEL: X if bit 0 of c is 1, else Y; c, at the trigger, is not reduced. -/
def opSSel (w : Nat) (o : OpIn) (s : State) : Res State :=
  match scOp s o 0, scOp s o 1, scVal o with
  | .ok x, .ok y, .ok c => .ok (scalarResult s o (scalarOut w ((if c.getLsbD 0 then x.toNat else y.toNat) % 2 ^ w : Nat)) 1)
  | .error e, _, _ => .error e
  | _, .error e, _ => .error e
  | _, _, .error e => .error e

/-- R291. the lesser of SX, SY. -/
def valMin (w x y : Nat) : Int := min (signed x w) (signed y w)
/-- R291. MIN. -/
def opSMin (w : Nat) : OpIn → State → Res State := intOp2 w 1 valMin

/-- R291. the greater of SX, SY. -/
def valMax (w x y : Nat) : Int := max (signed x w) (signed y w)
/-- R291. MAX. -/
def opSMax (w : Nat) : OpIn → State → Res State := intOp2 w 1 valMax

/-- R291. the lesser of X, Y. -/
def valMinu (_w x y : Nat) : Int := (min x y : Nat)
/-- R291. MINU. -/
def opSMinu (w : Nat) : OpIn → State → Res State := intOp2 w 1 valMinu

/-- R291. the greater of X, Y. -/
def valMaxu (_w x y : Nat) : Int := (max x y : Nat)
/-- R291. MAXU. -/
def opSMaxu (w : Nat) : OpIn → State → Res State := intOp2 w 1 valMaxu

/-- R291. the absolute value of SX. -/
def valAbs (w x : Nat) : Int := ((signed x w).natAbs : Int)
/-- R291. ABS. -/
def opSAbs (w : Nat) : OpIn → State → Res State := intOp1 w 1 valAbs

/-- R293. the low bits of X sign-extended. -/
def valSext (_w x len : Nat) : Int := if len = 0 then 0 else signed (x % 2 ^ len) len
/-- R293. SEXT. -/
def opSSext (w : Nat) : OpIn → State → Res State := countOp w valSext

/-- R293. the low bits of X. -/
def valZext (_w x len : Nat) : Int := (x % 2 ^ len : Nat)
/-- R293. ZEXT. -/
def opSZext (w : Nat) : OpIn → State → Res State := countOp w valZext

/-- R292. number of one bits in X. -/
def valPopc (w x : Nat) : Int := ((bitsSet x w).length : Nat)
/-- R292. POPC. -/
def opSPopc (w : Nat) : OpIn → State → Res State := intOp1 w 1 valPopc

/-- R292. zero bits above the highest one bit. -/
def valClz (w x : Nat) : Int := (countLead w x : Nat)
/-- R292. CLZ. -/
def opSClz (w : Nat) : OpIn → State → Res State := intOp1 w 1 valClz

/-- R292. zero bits below the lowest one bit. -/
def valCtz (w x : Nat) : Int := (((bitsSet x w).headD w : Nat) : Int)
/-- R292. CTZ. -/
def opSCtz (w : Nat) : OpIn → State → Res State := intOp1 w 1 valCtz

/-- R292. bit i moved to bit w − 1 − i. -/
def valBrev (w x : Nat) : Int := (reverseBits w x : Nat)
/-- R292. BREV. -/
def opSBrev (w : Nat) : OpIn → State → Res State := intOp1 w 1 valBrev

/-- R292. byte i moved to byte w/8 − 1 − i. -/
def valBswap (w x : Nat) : Int := (swapBytes w x : Nat)
/-- R292. BSWAP. -/
def opSBswap (w : Nat) : OpIn → State → Res State := intOp1 w 1 valBswap

/-- R294. DIV. -/
def opSDiv (w : Nat) : OpIn → State → Res State := divOp .div w

/-- R294. DIVU. -/
def opSDivu (w : Nat) : OpIn → State → Res State := divOp .divu w

/-- R294. REM. -/
def opSRem (w : Nat) : OpIn → State → Res State := divOp .rem w

/-- R294. REMU. -/
def opSRemu (w : Nat) : OpIn → State → Res State := divOp .remu w

/-- R293. EXT: X[pos + len − 1 : pos], zero-extended. -/
def valExt (_w x pos len : Nat) : Int := ((x / 2 ^ pos % 2 ^ len : Nat) : Int)
/-- R293. EXT: operand, position and length. -/
def opSExt (w : Nat) (o : OpIn) (s : State) : Res State :=
  match scOp s o 0, scOp s o 1, scVal o with
  | .ok x, .ok p, .ok n =>
    .ok (scalarResult s o (scalarOut w (valExt w (x.toNat % 2 ^ w) (min p.toNat w) (min n.toNat w))) 1)
  | .error e, _, _ => .error e
  | _, .error e, _ => .error e
  | _, _, .error e => .error e

/-- R293. INS: X with bits from pos, at most len of them below w, replaced by the low bits of v. -/
def valIns (w x v pos len : Nat) : Int :=
  let n := min (pos + len) w - pos
  ((x - x / 2 ^ pos % 2 ^ n * 2 ^ pos + v % 2 ^ n * 2 ^ pos : Nat) : Int)
/-- R293. INS: operand, inserted value, position and length. -/
def opSIns (w : Nat) (o : OpIn) (s : State) : Res State :=
  match scOp s o 0, scOp s o 1, scOp s o 2, scVal o with
  | .ok x, .ok v, .ok p, .ok n =>
    .ok (scalarResult s o (scalarOut w (valIns w (x.toNat % 2 ^ w) v.toNat (min p.toNat w) (min n.toNat w))) 1)
  | .error e, _, _, _ => .error e
  | _, .error e, _, _ => .error e
  | _, _, .error e, _ => .error e
  | _, _, _, .error e => .error e

/-- R293. FNS: n is not reduced. -/
def opSFns (w : Nat) (o : OpIn) (s : State) : Res State :=
  match scOp s o 0, scVal o with
  | .ok x, .ok n => .ok (scalarResult s o (scalarOut w (findNth w (x.toNat % 2 ^ w) n.toNat : Nat)) 1)
  | .error e, _ => .error e
  | _, .error e => .error e

/-! ## References (R299 to R301) -/

/-- R299. The tag of a well-formed reference, else 0xF. -/
def spTest (r : Word) : Word := if wellFormedRef r then BitVec.ofNat 64 (refTag r) else 0xF#64

/-- R299. SPTEST. -/
def opSSptest (o : OpIn) (s : State) : Res State :=
  match scVal o with
  | .ok r => .ok (scalarResult s o (spTest r) 1)
  | .error e => .error e

/-- R300. The null reference. -/
def nullRef : Word := 0xF000000000000000#64

/-- R300. The result of SPCAST on core number `core` of its die, or the trap. -/
def spCast (core : Nat) (r : Word) (tag : Nat) : Res Word :=
  let own := refCore r = core
  if !wellFormedRef r then raise tcRefInvalid r
  else if refTag r = tag then .ok r
  else if refTag r = 1 && tag = 2 then
    if own then .ok ((r &&& 0x0FFFFFFFFFFFFFFF#64) ||| 0x2000000000000000#64) else raise tcForeignHandle r
  else if refTag r = 2 && tag = 1 then
    if own then .ok ((r &&& 0x0FFFFFFFFFFFFFFF#64) ||| 0x1000000000000000#64) else .ok nullRef
  else .ok nullRef

/-- R300. SPCAST. -/
def opSSpcast (o : OpIn) (s : State) : Res State :=
  match scOp s o 0, scVal o with
  | .ok r, .ok t =>
    match spCast (coreNo o.c) r (t.toNat % 16) with
    | .ok w => .ok (scalarResult s o w 1)
    | .error e => .error e
  | .error e, _ => .error e
  | _, .error e => .error e

/-- R193, R301. A reference made from its fields, or `none` where one is out of range. -/
def makeRef (kind core idx off : Nat) : Option Word :=
  match kind with
  | 0 => if idx < 256 ∧ off < 2 ^ 52 then some (BitVec.ofNat 64 (idx * 2 ^ 52 + off)) else none
  | 3 => if idx < 16 ∧ off < 2 ^ 40 then some (BitVec.ofNat 64 (3 * 2 ^ 60 + idx * 2 ^ 56 + off)) else none
  | _ =>
    if kind ≤ 4 ∧ core < 48 ∧ idx < 256 ∧ off < 2 ^ 24 then
      some (BitVec.ofNat 64 (kind * 2 ^ 60 + core * 2 ^ 54 + idx * 2 ^ 46 + off))
    else none

/-- R301. REFMK. -/
def opSRefmk (o : OpIn) (s : State) : Res State :=
  match scOp s o 0, scOp s o 1, scOp s o 2, scVal o with
  | .ok c, .ok i, .ok k, .ok off =>
    match makeRef k.toNat c.toNat i.toNat off.toNat with
    | some r => .ok (scalarResult s o r 1)
    | none => raise tcRefInvalid (k <<< 60)
  | .error e, _, _, _ => .error e
  | _, .error e, _, _ => .error e
  | _, _, .error e, _ => .error e
  | _, _, _, .error e => .error e

/-! ## The meanings -/

/-- S.ADD. -/
def execSAdd (u : SUnit) (m : MoveF) (s : State) : Out := runTrigger (opSAdd 64) (sPort u 0x10) m s
/-- S.SUB. -/
def execSSub (u : SUnit) (m : MoveF) (s : State) : Out := runTrigger (opSSub 64) (sPort u 0x11) m s
/-- S.MUL. -/
def execSMul (u : SUnit) (m : MoveF) (s : State) : Out := runTrigger (opSMul 64) (sPort u 0x12) m s
/-- S.MULH. -/
def execSMulh (u : SUnit) (m : MoveF) (s : State) : Out := runTrigger (opSMulh 64) (sPort u 0x13) m s
/-- S.MULHU. -/
def execSMulhu (u : SUnit) (m : MoveF) (s : State) : Out := runTrigger (opSMulhu 64) (sPort u 0x14) m s
/-- S.DIV. -/
def execSDiv (u : SUnit) (m : MoveF) (s : State) : Out := runTrigger (opSDiv 64) (sPort u 0x15) m s
/-- S.DIVU. -/
def execSDivu (u : SUnit) (m : MoveF) (s : State) : Out := runTrigger (opSDivu 64) (sPort u 0x16) m s
/-- S.REM. -/
def execSRem (u : SUnit) (m : MoveF) (s : State) : Out := runTrigger (opSRem 64) (sPort u 0x17) m s
/-- S.REMU. -/
def execSRemu (u : SUnit) (m : MoveF) (s : State) : Out := runTrigger (opSRemu 64) (sPort u 0x18) m s
/-- S.AND. -/
def execSAnd (u : SUnit) (m : MoveF) (s : State) : Out := runTrigger (opSAnd 64) (sPort u 0x19) m s
/-- S.OR. -/
def execSOr (u : SUnit) (m : MoveF) (s : State) : Out := runTrigger (opSOr 64) (sPort u 0x1A) m s
/-- S.XOR. -/
def execSXor (u : SUnit) (m : MoveF) (s : State) : Out := runTrigger (opSXor 64) (sPort u 0x1B) m s
/-- S.ANDN. -/
def execSAndn (u : SUnit) (m : MoveF) (s : State) : Out := runTrigger (opSAndn 64) (sPort u 0x1C) m s
/-- S.ORN. -/
def execSOrn (u : SUnit) (m : MoveF) (s : State) : Out := runTrigger (opSOrn 64) (sPort u 0x1D) m s
/-- S.SHL. -/
def execSShl (u : SUnit) (m : MoveF) (s : State) : Out := runTrigger (opSShl 64) (sPort u 0x1E) m s
/-- S.SHR. -/
def execSShr (u : SUnit) (m : MoveF) (s : State) : Out := runTrigger (opSShr 64) (sPort u 0x1F) m s
/-- S.SRA. -/
def execSSra (u : SUnit) (m : MoveF) (s : State) : Out := runTrigger (opSSra 64) (sPort u 0x20) m s
/-- S.ROL. -/
def execSRol (u : SUnit) (m : MoveF) (s : State) : Out := runTrigger (opSRol 64) (sPort u 0x21) m s
/-- S.ROR. -/
def execSRor (u : SUnit) (m : MoveF) (s : State) : Out := runTrigger (opSRor 64) (sPort u 0x22) m s
/-- S.CMPEQ. -/
def execSCmpeq (u : SUnit) (m : MoveF) (s : State) : Out := runTrigger (opSCmpeq 64) (sPort u 0x23) m s
/-- S.CMPNE. -/
def execSCmpne (u : SUnit) (m : MoveF) (s : State) : Out := runTrigger (opSCmpne 64) (sPort u 0x24) m s
/-- S.CMPLT. -/
def execSCmplt (u : SUnit) (m : MoveF) (s : State) : Out := runTrigger (opSCmplt 64) (sPort u 0x25) m s
/-- S.CMPLTU. -/
def execSCmpltu (u : SUnit) (m : MoveF) (s : State) : Out := runTrigger (opSCmpltu 64) (sPort u 0x26) m s
/-- S.CMPLE. -/
def execSCmple (u : SUnit) (m : MoveF) (s : State) : Out := runTrigger (opSCmple 64) (sPort u 0x27) m s
/-- S.CMPLEU. -/
def execSCmpleu (u : SUnit) (m : MoveF) (s : State) : Out := runTrigger (opSCmpleu 64) (sPort u 0x28) m s
/-- S.SEL. -/
def execSSel (u : SUnit) (m : MoveF) (s : State) : Out := runTrigger (opSSel 64) (sPort u 0x29) m s
/-- S.MIN. -/
def execSMin (u : SUnit) (m : MoveF) (s : State) : Out := runTrigger (opSMin 64) (sPort u 0x2A) m s
/-- S.MAX. -/
def execSMax (u : SUnit) (m : MoveF) (s : State) : Out := runTrigger (opSMax 64) (sPort u 0x2B) m s
/-- S.MINU. -/
def execSMinu (u : SUnit) (m : MoveF) (s : State) : Out := runTrigger (opSMinu 64) (sPort u 0x2C) m s
/-- S.MAXU. -/
def execSMaxu (u : SUnit) (m : MoveF) (s : State) : Out := runTrigger (opSMaxu 64) (sPort u 0x2D) m s
/-- S.ABS. -/
def execSAbs (u : SUnit) (m : MoveF) (s : State) : Out := runTrigger (opSAbs 64) (sPort u 0x2E) m s
/-- S.SEXT. -/
def execSSext (u : SUnit) (m : MoveF) (s : State) : Out := runTrigger (opSSext 64) (sPort u 0x2F) m s
/-- S.ZEXT. -/
def execSZext (u : SUnit) (m : MoveF) (s : State) : Out := runTrigger (opSZext 64) (sPort u 0x30) m s
/-- S.EXT. -/
def execSExt (u : SUnit) (m : MoveF) (s : State) : Out := runTrigger (opSExt 64) (sPort u 0x31) m s
/-- S.INS. -/
def execSIns (u : SUnit) (m : MoveF) (s : State) : Out := runTrigger (opSIns 64) (sPort u 0x32) m s
/-- S.POPC. -/
def execSPopc (u : SUnit) (m : MoveF) (s : State) : Out := runTrigger (opSPopc 64) (sPort u 0x33) m s
/-- S.CLZ. -/
def execSClz (u : SUnit) (m : MoveF) (s : State) : Out := runTrigger (opSClz 64) (sPort u 0x34) m s
/-- S.CTZ. -/
def execSCtz (u : SUnit) (m : MoveF) (s : State) : Out := runTrigger (opSCtz 64) (sPort u 0x35) m s
/-- S.FNS. -/
def execSFns (u : SUnit) (m : MoveF) (s : State) : Out := runTrigger (opSFns 64) (sPort u 0x36) m s
/-- S.BREV. -/
def execSBrev (u : SUnit) (m : MoveF) (s : State) : Out := runTrigger (opSBrev 64) (sPort u 0x37) m s
/-- S.BSWAP. -/
def execSBswap (u : SUnit) (m : MoveF) (s : State) : Out := runTrigger (opSBswap 64) (sPort u 0x38) m s
/-- S.ADD.32. -/
def execSAdd32 (u : SUnit) (m : MoveF) (s : State) : Out := runTrigger (opSAdd 32) (sPort u 0x50) m s
/-- S.SUB.32. -/
def execSSub32 (u : SUnit) (m : MoveF) (s : State) : Out := runTrigger (opSSub 32) (sPort u 0x51) m s
/-- S.MUL.32. -/
def execSMul32 (u : SUnit) (m : MoveF) (s : State) : Out := runTrigger (opSMul 32) (sPort u 0x52) m s
/-- S.MULH.32. -/
def execSMulh32 (u : SUnit) (m : MoveF) (s : State) : Out := runTrigger (opSMulh 32) (sPort u 0x53) m s
/-- S.MULHU.32. -/
def execSMulhu32 (u : SUnit) (m : MoveF) (s : State) : Out := runTrigger (opSMulhu 32) (sPort u 0x54) m s
/-- S.DIV.32. -/
def execSDiv32 (u : SUnit) (m : MoveF) (s : State) : Out := runTrigger (opSDiv 32) (sPort u 0x55) m s
/-- S.DIVU.32. -/
def execSDivu32 (u : SUnit) (m : MoveF) (s : State) : Out := runTrigger (opSDivu 32) (sPort u 0x56) m s
/-- S.REM.32. -/
def execSRem32 (u : SUnit) (m : MoveF) (s : State) : Out := runTrigger (opSRem 32) (sPort u 0x57) m s
/-- S.REMU.32. -/
def execSRemu32 (u : SUnit) (m : MoveF) (s : State) : Out := runTrigger (opSRemu 32) (sPort u 0x58) m s
/-- S.AND.32. -/
def execSAnd32 (u : SUnit) (m : MoveF) (s : State) : Out := runTrigger (opSAnd 32) (sPort u 0x59) m s
/-- S.OR.32. -/
def execSOr32 (u : SUnit) (m : MoveF) (s : State) : Out := runTrigger (opSOr 32) (sPort u 0x5A) m s
/-- S.XOR.32. -/
def execSXor32 (u : SUnit) (m : MoveF) (s : State) : Out := runTrigger (opSXor 32) (sPort u 0x5B) m s
/-- S.ANDN.32. -/
def execSAndn32 (u : SUnit) (m : MoveF) (s : State) : Out := runTrigger (opSAndn 32) (sPort u 0x5C) m s
/-- S.ORN.32. -/
def execSOrn32 (u : SUnit) (m : MoveF) (s : State) : Out := runTrigger (opSOrn 32) (sPort u 0x5D) m s
/-- S.SHL.32. -/
def execSShl32 (u : SUnit) (m : MoveF) (s : State) : Out := runTrigger (opSShl 32) (sPort u 0x5E) m s
/-- S.SHR.32. -/
def execSShr32 (u : SUnit) (m : MoveF) (s : State) : Out := runTrigger (opSShr 32) (sPort u 0x5F) m s
/-- S.SRA.32. -/
def execSSra32 (u : SUnit) (m : MoveF) (s : State) : Out := runTrigger (opSSra 32) (sPort u 0x60) m s
/-- S.ROL.32. -/
def execSRol32 (u : SUnit) (m : MoveF) (s : State) : Out := runTrigger (opSRol 32) (sPort u 0x61) m s
/-- S.ROR.32. -/
def execSRor32 (u : SUnit) (m : MoveF) (s : State) : Out := runTrigger (opSRor 32) (sPort u 0x62) m s
/-- S.CMPEQ.32. -/
def execSCmpeq32 (u : SUnit) (m : MoveF) (s : State) : Out := runTrigger (opSCmpeq 32) (sPort u 0x63) m s
/-- S.CMPNE.32. -/
def execSCmpne32 (u : SUnit) (m : MoveF) (s : State) : Out := runTrigger (opSCmpne 32) (sPort u 0x64) m s
/-- S.CMPLT.32. -/
def execSCmplt32 (u : SUnit) (m : MoveF) (s : State) : Out := runTrigger (opSCmplt 32) (sPort u 0x65) m s
/-- S.CMPLTU.32. -/
def execSCmpltu32 (u : SUnit) (m : MoveF) (s : State) : Out := runTrigger (opSCmpltu 32) (sPort u 0x66) m s
/-- S.CMPLE.32. -/
def execSCmple32 (u : SUnit) (m : MoveF) (s : State) : Out := runTrigger (opSCmple 32) (sPort u 0x67) m s
/-- S.CMPLEU.32. -/
def execSCmpleu32 (u : SUnit) (m : MoveF) (s : State) : Out := runTrigger (opSCmpleu 32) (sPort u 0x68) m s
/-- S.SEL.32. -/
def execSSel32 (u : SUnit) (m : MoveF) (s : State) : Out := runTrigger (opSSel 32) (sPort u 0x69) m s
/-- S.MIN.32. -/
def execSMin32 (u : SUnit) (m : MoveF) (s : State) : Out := runTrigger (opSMin 32) (sPort u 0x6A) m s
/-- S.MAX.32. -/
def execSMax32 (u : SUnit) (m : MoveF) (s : State) : Out := runTrigger (opSMax 32) (sPort u 0x6B) m s
/-- S.MINU.32. -/
def execSMinu32 (u : SUnit) (m : MoveF) (s : State) : Out := runTrigger (opSMinu 32) (sPort u 0x6C) m s
/-- S.MAXU.32. -/
def execSMaxu32 (u : SUnit) (m : MoveF) (s : State) : Out := runTrigger (opSMaxu 32) (sPort u 0x6D) m s
/-- S.ABS.32. -/
def execSAbs32 (u : SUnit) (m : MoveF) (s : State) : Out := runTrigger (opSAbs 32) (sPort u 0x6E) m s
/-- S.SEXT.32. -/
def execSSext32 (u : SUnit) (m : MoveF) (s : State) : Out := runTrigger (opSSext 32) (sPort u 0x6F) m s
/-- S.ZEXT.32. -/
def execSZext32 (u : SUnit) (m : MoveF) (s : State) : Out := runTrigger (opSZext 32) (sPort u 0x70) m s
/-- S.EXT.32. -/
def execSExt32 (u : SUnit) (m : MoveF) (s : State) : Out := runTrigger (opSExt 32) (sPort u 0x71) m s
/-- S.INS.32. -/
def execSIns32 (u : SUnit) (m : MoveF) (s : State) : Out := runTrigger (opSIns 32) (sPort u 0x72) m s
/-- S.POPC.32. -/
def execSPopc32 (u : SUnit) (m : MoveF) (s : State) : Out := runTrigger (opSPopc 32) (sPort u 0x73) m s
/-- S.CLZ.32. -/
def execSClz32 (u : SUnit) (m : MoveF) (s : State) : Out := runTrigger (opSClz 32) (sPort u 0x74) m s
/-- S.CTZ.32. -/
def execSCtz32 (u : SUnit) (m : MoveF) (s : State) : Out := runTrigger (opSCtz 32) (sPort u 0x75) m s
/-- S.FNS.32. -/
def execSFns32 (u : SUnit) (m : MoveF) (s : State) : Out := runTrigger (opSFns 32) (sPort u 0x76) m s
/-- S.BREV.32. -/
def execSBrev32 (u : SUnit) (m : MoveF) (s : State) : Out := runTrigger (opSBrev 32) (sPort u 0x77) m s
/-- S.BSWAP.32. -/
def execSBswap32 (u : SUnit) (m : MoveF) (s : State) : Out := runTrigger (opSBswap 32) (sPort u 0x78) m s
/-- S.SPTEST. -/
def execSSptest (u : SUnit) (m : MoveF) (s : State) : Out := runTrigger opSSptest (sPort u 0x43) m s
/-- S.SPCAST. -/
def execSSpcast (u : SUnit) (m : MoveF) (s : State) : Out := runTrigger opSSpcast (sPort u 0x44) m s
/-- S.REFMK. -/
def execSRefmk (u : SUnit) (m : MoveF) (s : State) : Out := runTrigger opSRefmk (sPort u 0x45) m s

end Sys2Proof.Machine
end

