-- ==== Sys2Proof/Machine/Vector.lean ====
section
/-! DEFINITION. The vector units V0 and V1 (R322 to R340): lanes, element-wise operations, conversions, lane movement, reductions
and scans. -/
namespace Sys2Proof.Machine

/-! ## Lanes (R322, R324) -/

/-- R322. Lanes of a type. -/
def laneCount (t : Nat) : Nat := 4096 / typeBits t
/-- R322. The lanes of a register. -/
def lanes (t : Nat) (v : Vec) : List Nat :=
  (List.range (laneCount t)).map fun i => field v.toNat (i * typeBits t) (typeBits t)
/-- R322. A register from its lanes. -/
def packLanes (t : Nat) (l : List Nat) : Vec :=
  BitVec.ofNat 4096 (l.foldr (fun x acc => x % 2 ^ typeBits t + 2 ^ typeBits t * acc) 0)
/-- R322. A mask from its bits, the higher ones zero. -/
def packMask (l : List Bool) : LaneMask := BitVec.ofNat 1024 (l.foldr (fun b acc => b.toNat + 2 * acc) 0)

/-- R324. The type sets. -/
def inInt (t : Nat) : Bool := 8 ≤ t && t ≤ 15
def inFlt (t : Nat) : Bool := t ≤ 2
def inBit (t : Nat) : Bool := t ≤ 15 && t ≠ 6 && t ≠ 7
def inIntFlt (t : Nat) : Bool := inInt t || inFlt t
/-- R331. I32, U32, I16, U16, I8 and U8. -/
def inWideInt (t : Nat) : Bool := 8 ≤ t && t ≤ 13

/-- R322. The type register of the operation's V unit. -/
def vType (s : State) (o : OpIn) : Nat := typeReg (coreOf s o.c) (o.page - 1)

/-- R170. The distance of arithmetic: 4 on a FLT type, 2 on an INT type. -/
def arithDist (t : Nat) : Nat := if inFlt t then 4 else 2
/-- R170. The distance of logic, bit count and the bit-only operations. -/
def bitDist (_t : Nat) : Nat := 2

/-! ## Lane functions (R327) -/

/-- R327. An exact integer result: clamped under .sat, a clamped lane setting OF; else modulo 2^w. -/
def satOrWrap (t : Nat) (sat : Bool) (x : Int) : Nat × Flags :=
  if sat then (intCode t (clampI x (intMin t) (intMax t)), flIf (decide (x < intMin t) || decide (x > intMax t)) flOF)
  else (intCode t x, flNone)

def laneAdd (sat : Bool) (t x y : Nat) : Nat × Flags :=
  if inFlt t then fAdd t false x y else satOrWrap t sat (intOf t x + intOf t y)
def laneSub (sat : Bool) (t x y : Nat) : Nat × Flags :=
  if inFlt t then fAdd t true x y else satOrWrap t sat (intOf t x - intOf t y)
def laneMul (sat : Bool) (t x y : Nat) : Nat × Flags :=
  if inFlt t then fMul t x y else satOrWrap t sat (intOf t x * intOf t y)
/-- R327. FMA, or FMS where `sub`. -/
def laneFma (sub : Bool) (t x y z : Nat) : Nat × Flags :=
  if inFlt t then fFma t sub x y z
  else satOrWrap t false (intOf t x * intOf t y + (if sub then -(intOf t z) else intOf t z))
/-- R327. MIN, or MAX. -/
def laneMinMax (wantMax : Bool) (t x y : Nat) : Nat × Flags :=
  if inFlt t then minMaxCode t wantMax x y
  else (if (intOf t y < intOf t x) != wantMax then y else x, flNone)
/-- R326, R327. ABS: a floating type's sign bit cleared. -/
def laneAbs (sat : Bool) (t x : Nat) : Nat × Flags :=
  if inFlt t then (magOf t x, flNone) else satOrWrap t sat ((intOf t x).natAbs : Int)
/-- R326, R327. NEG: a floating type's sign bit inverted. -/
def laneNeg (sat : Bool) (t x : Nat) : Nat × Flags :=
  if inFlt t then (withSign t (!negOf t x) (magOf t x), flNone) else satOrWrap t sat (-(intOf t x))
/-- A lane function without flags. -/
def plain (f : (w x y : Nat) → Nat) (_sat : Bool) (t x y : Nat) : Nat × Flags := (f (typeBits t) x y, flNone)
def plain1 (f : (w x : Nat) → Nat) (_sat : Bool) (t x : Nat) : Nat × Flags := (f (typeBits t) x, flNone)

/-! ## Shapes -/

/-- A vector result into DV and its flags at retirement (R326). -/
def laneResult (s : State) (o : OpIn) (t : Nat) (r : List (Nat × Flags)) (dist : Nat) : Res State :=
  match vectorResult s o 0 (packLanes t (r.map (·.1))) dist true with
  | .error e => .error e
  | .ok s' => .ok (modCore s' o.c fun k => noteFlags k (flAll (r.map (·.2))))

/-- R323. The control port of an operation that has .sat. -/
def satPort (s : State) (o : OpIn) (hasSat : Bool) : Res Word := if hasSat then scOp s o 2 else .ok 0#64

/-- R327. One operand, at the trigger; bit 0 of o2 is .sat where the operation has it. -/
def vecOp1 (hasSat : Bool) (ok : Nat → Bool) (dist : Nat → Nat) (f : (sat : Bool) → (t x : Nat) → Nat × Flags) (o : OpIn) (s : State) :
    Res State :=
  let t := vType s o
  if !ok t then illegalType o t
  else match satPort s o hasSat, veVal o with
    | .ok c, .ok x => laneResult s o t ((lanes t x).map fun a => f (c.getLsbD 0) t a) (dist t)
    | .error e, _ => .error e
    | _, .error e => .error e

/-- R327. Two operands: o0 and the trigger. -/
def vecOp2 (hasSat : Bool) (ok : Nat → Bool) (dist : Nat → Nat) (f : (sat : Bool) → (t x y : Nat) → Nat × Flags) (o : OpIn) (s : State) :
    Res State :=
  let t := vType s o
  if !ok t then illegalType o t
  else match veOp s o 0, satPort s o hasSat, veVal o with
    | .ok x, .ok c, .ok y =>
      laneResult s o t (((lanes t x).zip (lanes t y)).map fun p => f (c.getLsbD 0) t p.1 p.2) (dist t)
    | .error e, _, _ => .error e
    | _, .error e, _ => .error e
    | _, _, .error e => .error e

/-- R327. Three operands: o0, o1 and the trigger. -/
def vecOp3 (ok : Nat → Bool) (dist : Nat → Nat) (f : (t x y z : Nat) → Nat × Flags) (o : OpIn) (s : State) : Res State :=
  let t := vType s o
  if !ok t then illegalType o t
  else match veOp s o 0, veOp s o 1, veVal o with
    | .ok x, .ok y, .ok z =>
      laneResult s o t (((lanes t x).zip ((lanes t y).zip (lanes t z))).map fun p => f t p.1 p.2.1 p.2.2) (dist t)
    | .error e, _, _ => .error e
    | _, .error e, _ => .error e
    | _, _, .error e => .error e

/-! ## Element-wise operations (R327 to R331) -/

/-- R327. ADD. -/
def opVAdd : OpIn → State → Res State := vecOp2 true inIntFlt arithDist laneAdd
/-- R327. SUB. -/
def opVSub : OpIn → State → Res State := vecOp2 true inIntFlt arithDist laneSub
/-- R327. MUL. -/
def opVMul : OpIn → State → Res State := vecOp2 true inIntFlt arithDist laneMul
/-- R327. FMA. -/
def opVFma : OpIn → State → Res State := vecOp3 inIntFlt arithDist (laneFma false)
/-- R327. FMS. -/
def opVFms : OpIn → State → Res State := vecOp3 inIntFlt arithDist (laneFma true)
/-- R327. MIN. -/
def opVMin : OpIn → State → Res State := vecOp2 false inIntFlt arithDist fun _ => laneMinMax false
/-- R327. MAX. -/
def opVMax : OpIn → State → Res State := vecOp2 false inIntFlt arithDist fun _ => laneMinMax true
/-- R327. ABS. -/
def opVAbs : OpIn → State → Res State := vecOp1 true inIntFlt bitDist laneAbs
/-- R327. NEG. -/
def opVNeg : OpIn → State → Res State := vecOp1 true inIntFlt bitDist laneNeg
/-- R327. AND. -/
def opVAnd : OpIn → State → Res State := vecOp2 false inBit bitDist (plain fun _ x y => x &&& y)
/-- R327. OR. -/
def opVOr : OpIn → State → Res State := vecOp2 false inBit bitDist (plain fun _ x y => x ||| y)
/-- R327. XOR. -/
def opVXor : OpIn → State → Res State := vecOp2 false inBit bitDist (plain fun _ x y => x ^^^ y)
/-- R327. ANDN. -/
def opVAndn : OpIn → State → Res State := vecOp2 false inBit bitDist (plain fun w x y => x &&& notN w y)
/-- R327. NOT. -/
def opVNot : OpIn → State → Res State := vecOp1 false inBit bitDist (plain1 fun w x => notN w x)
/-- R327. SHL. -/
def opVShl : OpIn → State → Res State := vecOp2 false inInt bitDist (plain fun w x y => x * 2 ^ (y % w) % 2 ^ w)
/-- R327. SHR. -/
def opVShr : OpIn → State → Res State := vecOp2 false inInt bitDist (plain fun w x y => x / 2 ^ (y % w))
/-- R327. SRA. -/
def opVSra : OpIn → State → Res State :=
  vecOp2 false inInt bitDist (plain fun w x y => wrapN (signed x w / (2 ^ (y % w) : Nat)) w)
/-- R329. MOV. -/
def opVMov : OpIn → State → Res State := vecOp1 false inBit bitDist (plain1 fun _ x => x)
/-- R331. POPC. -/
def opVPopc : OpIn → State → Res State := vecOp1 false inWideInt bitDist (plain1 fun w x => (bitsSet x w).length)
/-- R331. CLZ. -/
def opVClz : OpIn → State → Res State := vecOp1 false inWideInt bitDist (plain1 countLead)
/-- R331. BREV. -/
def opVBrev : OpIn → State → Res State := vecOp1 false inWideInt bitDist (plain1 reverseBits)
/-- R331. FNS: lane i of the trigger operand gives the count. -/
def opVFns : OpIn → State → Res State := vecOp2 false inWideInt bitDist (plain findNth)

/-- R328. A comparison of two lanes under a condition. -/
def laneCmp (cond t x y : Nat) : Bool × Flags :=
  if inFlt t then fCompare t cond x y
  else
    let a := intOf t x
    let b := intOf t y
    (match cond with
      | 0 => decide (a = b)
      | 1 => decide (a ≠ b)
      | 2 => decide (a < b)
      | 3 => decide (a ≤ b)
      | 4 => decide (a > b)
      | 5 => decide (a ≥ b)
      | 6 => false
      | _ => true, flNone)

/-- R328. CMP. -/
def opVCmp (o : OpIn) (s : State) : Res State :=
  let t := vType s o
  if !inIntFlt t then illegalType o t
  else match veOp s o 0, scOp s o 2, veVal o with
    | .ok x, .ok c, .ok y =>
      let r := ((lanes t x).zip (lanes t y)).map fun p => laneCmp (c.toNat % 8) t p.1 p.2
      .ok (modCore (maskResult s o (packMask (r.map (·.1))) (arithDist t)) o.c fun k => noteFlags k (flAll (r.map (·.2))))
    | .error e, _, _ => .error e
    | _, .error e, _ => .error e
    | _, _, .error e => .error e

/-- R329. SEL: lane i of x where bit i of the mask is 1, else of y. -/
def opVSel (o : OpIn) (s : State) : Res State :=
  let t := vType s o
  if !inBit t then illegalType o t
  else match veOp s o 0, veOp s o 1, maVal o with
    | .ok x, .ok y, .ok m =>
      let r := ((lanes t x).zip (lanes t y)).zip (List.range (laneCount t))
      laneResult s o t (r.map fun p => (if m.getLsbD p.2 then p.1.1 else p.1.2, flNone)) 2
    | .error e, _, _ => .error e
    | _, .error e, _ => .error e
    | _, _, .error e => .error e

/-- R330. The lanes of a mask below n. -/
def lowMask (n : Nat) (m : LaneMask) : LaneMask := BitVec.ofNat 1024 (m.toNat % 2 ^ n)

/-- R330. MSKP. -/
def opVMskp (o : OpIn) (s : State) : Res State :=
  let t := vType s o
  let n := laneCount t
  let mask (f : LaneMask → LaneMask → LaneMask) : Res State :=
    match maOp s o 0, maVal o with
    | .ok x, .ok y => .ok (maskResult s o (lowMask n (f x y)) 2)
    | .error e, _ => .error e
    | _, .error e => .error e
  let count (f : List Nat → Nat) : Res State :=
    match maVal o with
    | .ok y => .ok (scalarResult s o (BitVec.ofNat 64 (f (bitsSet y.toNat n))) 2)
    | .error e => .error e
  if !inBit t then illegalType o t
  else match scOp s o 2 with
    | .error e => .error e
    | .ok c =>
      match c.toNat % 8 with
      | 0 => mask fun x y => x &&& y
      | 1 => mask fun x y => x ||| y
      | 2 => mask fun x y => x ^^^ y
      | 3 => mask fun x y => x &&& ~~~y
      | 4 => (match maVal o with
          | .ok y => .ok (maskResult s o (lowMask n (~~~y)) 2)
          | .error e => .error e)
      | 5 => count fun l => l.length
      | 6 => count fun l => l.headD n
      | _ => .ok (maskResult s o (lowMask n (BitVec.allOnes 1024)) 2)

/-! ## Lane movement (R332) -/

/-- A vector operand and a scalar at the trigger, moved lane by lane. -/
def moveLanes (s : State) (o : OpIn) (t : Nat) (r : List Nat) : Res State := laneResult s o t (r.map fun x => (x, flNone)) 3

/-- R332. BCAST of a scalar, or of a lane. -/
def opVBcast (o : OpIn) (s : State) : Res State :=
  let t := vType s o
  let n := laneCount t
  if !inBit t then illegalType o t
  else match scOp s o 2, scVal o with
    | .ok c, .ok x =>
      if c.getLsbD 0 then
        match veOp s o 0 with
        | .ok v => moveLanes s o t (List.replicate n ((lanes t v).getD (x.toNat % n) 0))
        | .error e => .error e
      else moveLanes s o t (List.replicate n (x.toNat % 2 ^ typeBits t))
    | .error e, _ => .error e
    | _, .error e => .error e

/-- R332. PERM. -/
def opVPerm (o : OpIn) (s : State) : Res State :=
  let t := vType s o
  let n := laneCount t
  if !inBit t then illegalType o t
  else match veOp s o 0, veVal o with
    | .ok x, .ok ix => moveLanes s o t ((lanes t ix).map fun i => field x.toNat (i % n * typeBits t) (typeBits t))
    | .error e, _ => .error e
    | _, .error e => .error e

/-- R332. ROT. -/
def opVRot (o : OpIn) (s : State) : Res State :=
  let t := vType s o
  let n := laneCount t
  if !inBit t then illegalType o t
  else match veOp s o 0, scVal o with
    | .ok x, .ok k =>
      moveLanes s o t ((List.range n).map fun i => field x.toNat ((i + k.toNat) % n * typeBits t) (typeBits t))
    | .error e, _ => .error e
    | _, .error e => .error e

/-- R332. IOTA. -/
def opVIota (o : OpIn) (s : State) : Res State :=
  let t := vType s o
  if !inInt t then illegalType o t
  else match scVal o with
    | .ok k => moveLanes s o t ((List.range (laneCount t)).map fun i => (k.toNat + i) % 2 ^ typeBits t)
    | .error e => .error e

/-! ## Groups (R325) -/

/-- R325. ILLEGAL_DEST where a register of DV to DV + g − 1 is at or above VREG. -/
def groupCheck (s : State) (o : OpIn) (g : Nat) : Res Unit :=
  match dvNumber s o (g - 1) with
  | .error e => .error e
  | .ok _ => .ok ()

/-- R325. A group result: register n of the list into DV + n. -/
def groupResult (s : State) (o : OpIn) (dist : Nat) (fixed : Bool) : (n : Nat) → List Vec → Res State
  | _, [] => .ok s
  | n, v :: vs =>
    match vectorResult s o n v dist fixed with
    | .error e => .error e
    | .ok s' => groupResult s' o dist fixed (n + 1) vs

/-- R325. The register DV + n, read at issue: it waits while the register is EMPTY. -/
def readDv (s : State) (o : OpIn) (n : Nat) : Res (Vec × State) :=
  match dvNumber s o n with
  | .error e => .error e
  | .ok d =>
    match readReg (coreOf s o.c) (regKey (coreLaunch s o.c).vreg (coreOf s o.c) (0x40 + d)) true o.idx o.port with
    | .error e => .error e
    | .ok (v, k) => .ok ((v.vector?).getD 0#4096, setCore s o.c k)

/-- R325. The registers from DV + n on, g of them, read at issue. -/
def readGroup (o : OpIn) : (g : Nat) → State → (n : Nat) → Res (List Vec × State)
  | 0, s, _ => .ok ([], s)
  | g + 1, s, n =>
    match readDv s o n with
    | .error e => .error e
    | .ok (v, s') =>
      match readGroup o g s' (n + 1) with
      | .error e => .error e
      | .ok (vs, s'') => .ok (v :: vs, s'')

/-- Lanes cut into registers of a type: the blocked order of R325. -/
def blocked (t : Nat) (g : Nat) (l : List Nat) : List Vec :=
  (List.range g).map fun r => packLanes t ((l.drop (r * laneCount t)).take (laneCount t))

/-- A group result with its flags. -/
def groupFlags (s : State) (o : OpIn) (vs : List Vec) (f : Flags) (dist : Nat) (fixed : Bool) : Res State :=
  match groupResult s o dist fixed 0 vs with
  | .error e => .error e
  | .ok s' => .ok (modCore s' o.c fun k => noteFlags k f)

/-! ## Conversions (R333 to R336) -/

/-- R333. CvtPlace where the target is no wider: part q of DV replaced by the converted lanes, the others kept. -/
def placeNarrow (s : State) (o : OpIn) (tgt q ratio : Nat) (xs : List (Nat × Flags)) : Res State :=
  let ns := xs.length
  let at_ := q % ratio * ns
  let put (s : State) (old : Vec) : Res State :=
    let l := lanes tgt old
    groupFlags s o [packLanes tgt (l.take at_ ++ xs.map (·.1) ++ l.drop (at_ + ns))] (flAll (xs.map (·.2))) 4 true
  if ratio = 1 then put s 0#4096
  else match readDv s o 0 with
    | .error e => .error e
    | .ok (old, s') => put s' old

/-- R333. CvtPlace where the target is wider by a ratio: the source lanes converted, from `first`, into a group of registers. -/
def placeWide (s : State) (o : OpIn) (tgt q ratio : Nat) (xs : List Nat) (f : (i x : Nat) → Nat × Flags) : Res State :=
  let g := min ratio 4
  let nt := laneCount tgt
  let first := q % (ratio / g) * g * nt
  match groupCheck s o g with
  | .error e => .error e
  | .ok _ =>
    let r := (List.range (g * nt)).map fun i => f (first + i) (xs.getD (first + i) 0)
    groupFlags s o (blocked tgt g (r.map (·.1))) (flAll (r.map (·.2))) 4 true

/-- R333. CVT. -/
def opVCvt (o : OpIn) (s : State) : Res State :=
  let src := vType s o
  match scOp s o 2, veVal o with
  | .ok c, .ok x =>
    let tgt := c.toNat % 16
    let q := c.toNat / 16 % 16
    if src = 6 then illegalType o src
    else if tgt = 6 then illegalType o tgt
    else if typeBits tgt ≤ typeBits src then
      placeNarrow s o tgt q (typeBits src / typeBits tgt) ((lanes src x).map (convertCode src tgt))
    else placeWide s o tgt q (typeBits tgt / typeBits src) (lanes src x) fun _ v => convertCode src tgt v
  | .error e, _ => .error e
  | _, .error e => .error e

/-- R323. The group size in o2 [9:8]. -/
def groupSize (c : Word) : Nat := match c.toNat / 256 % 4 with
  | 1 => 64
  | 2 => 128
  | _ => 32

/-- R334, R335. The narrow types of a quantisation. -/
def quantType (t : Nat) : Bool := t = 3 || t = 4 || t = 5 || t = 12 || t = 14 || t = 7

/-- R334. QNT. -/
def opVQnt (o : OpIn) (s : State) : Res State :=
  let src := vType s o
  match veOp s o 0, scOp s o 2, scVal o with
  | .ok x, .ok c, .ok b =>
    let tgt := c.toNat % 16
    let q := c.toNat / 16 % 16
    let gs := groupSize c
    if !inFlt src then illegalType o src
    else if !quantType tgt then illegalType o tgt
    else
      let vs := (lanes src x).map (valueOf src)
      let base := signed b.toNat 8
      let rs := (List.range (vs.length / gs)).map fun j => quantiseGroup ((vs.drop (j * gs)).take gs) tgt base
      let codes := rs.flatMap fun r => r.2.1
      let scales := BitVec.ofNat 64 ((rs.map (·.1)).foldr (fun c acc => c + 256 * acc) 0)
      match placeNarrow (scalarResult s o scales 4) o tgt q (typeBits src / typeBits tgt) (codes.map fun c => (c, flNone)) with
      | .error e => .error e
      | .ok s' => .ok (modCore s' o.c fun k => noteFlags k (flAll (rs.map fun r => r.2.2)))
  | .error e, _, _ => .error e
  | _, .error e, _ => .error e
  | _, _, .error e => .error e

/-- R335, R245. One dequantised lane: the exact value times its scale, rounded once; a reserved TRN code sets NV. -/
def dequant (src tgt x code : Nat) (b : Int) : Nat × Flags :=
  let r := roundFmt (scaled (elemValue src x) (scaleValue code b)) tgt
  (r.1, r.2 ||| flIf (src = 7 && x % 4 = 2) flNV)

/-- R335. DEQ. -/
def opVDeq (o : OpIn) (s : State) : Res State :=
  let src := vType s o
  match veOp s o 0, veOp s o 1, scOp s o 2, scVal o with
  | .ok x, .ok sc, .ok c, .ok b =>
    let tgt := c.toNat % 16
    let q := c.toNat / 16 % 16
    let gs := groupSize c
    if !quantType src then illegalType o src
    else if !inFlt tgt then illegalType o tgt
    else placeWide s o tgt q (typeBits tgt / typeBits src) (lanes src x) fun i v =>
      dequant src tgt v (field sc.toNat (8 * (i / gs)) 8) (signed b.toNat 8)
  | .error e, _, _, _ => .error e
  | _, .error e, _, _ => .error e
  | _, _, .error e, _ => .error e
  | _, _, _, .error e => .error e

/-- R336. The FXW words of a group of registers, 64 each. -/
def fxwWords (vs : List Vec) : List Int := vs.flatMap fun v => (List.range 64).map fun i => signed (field v.toNat (64 * i) 64) 64
/-- R336. FXW words as registers. -/
def fxwBlocks (g : Nat) (ws : List Int) : List Vec :=
  (List.range g).map fun r => BitVec.ofNat 4096 (((ws.drop (64 * r)).take 64).foldr (fun w acc => wrapN w 64 + 2 ^ 64 * acc) 0)

/-- R336. FXA. -/
def opVFxa (o : OpIn) (s : State) : Res State :=
  let t := vType s o
  match veOp s o 0, scOp s o 2, scVal o with
  | .ok x, .ok c, .ok ex =>
    let e := signed ex.toNat 16
    let mode := c.toNat % 4
    if mode = 3 then
      match groupCheck s o 2 with
      | .error err => .error err
      | .ok _ =>
        match readGroup o 2 s 0 with
        | .error err => .error err
        | .ok (vs, s') =>
          let r := (fxwWords vs).map fun w => f32FromFxw w e
          groupFlags s' o [packLanes 0 (r.map (·.1))] (flAll (r.map (·.2))) 4 true
    else if !inFlt t then illegalType o t
    else
      let g := laneCount t / 64
      let cs := (lanes t x).map fun v => fxwFrom t v e
      let fl := flAll (cs.map fun r => r.2.2.2)
      match groupCheck s o g with
      | .error err => .error err
      | .ok _ =>
        if mode = 1 then groupFlags s o (fxwBlocks g (cs.map (·.1))) fl 4 true
        else match readGroup o g s 0 with
          | .error err => .error err
          | .ok (vs, s') =>
            let sums := ((fxwWords vs).zip cs).map fun p => if mode = 0 then p.1 + p.2.1 else p.1 - p.2.1
            let overflow := sums.any fun w => w > maxI64 || w < minI64
            groupFlags s' o (fxwBlocks g sums) (fl ||| flIf overflow flOF) 4 true
  | .error e, _, _ => .error e
  | _, .error e, _ => .error e
  | _, _, .error e => .error e

/-! ## Reductions and scans (R337 to R340) -/

/-- One level of a tree: neighbours combined, the lower-numbered side first. -/
def pairUp {α : Type} (f : α → α → α) : List α → List α
  | a :: b :: t => f a b :: pairUp f t
  | l => l
/-- Levels of a tree until one value is left. -/
def treeUp {α : Type} (f : α → α → α) : (fuel : Nat) → List α → List α
  | 0, l => l
  | n + 1, l => match l with
    | [] => []
    | [a] => [a]
    | l => treeUp f n (pairUp f l)
/-- R337. TreeReduce. -/
def treeReduce {α : Type} (f : α → α → α) (d : α) (l : List α) : α := (treeUp f (l.length.log2 + 1) l).headD d
/-- R337. TreeScan: blocks joined pairwise, each value of the right block combined with the last of the left. -/
def treeScan {α : Type} (f : α → α → α) (l : List α) : List α :=
  let join (a b : List α) : List α := match a.getLast? with
    | some x => a ++ b.map (f x)
    | none => b
  treeReduce join [] (l.map fun x => [x])

/-- R338. The Op of a floating reduction on F32 codes with the flags so far; a scan's right value keeps its own flags, the left
value's standing with it. -/
def floatRed (op : Nat) (p q : Nat × Flags) : Nat × Flags :=
  let r := match op with
    | 1 => minMaxCode 0 false p.1 q.1
    | 2 => minMaxCode 0 true p.1 q.1
    | _ => fAdd 0 false p.1 q.1
  (r.1, p.2 ||| q.2 ||| r.2)
/-- R338. The Op of an integer reduction. -/
def intRed (op : Nat) (p q : Int) : Int :=
  match op with
  | 1 => min p q
  | 2 => max p q
  | _ => p + q

/-- R338. RED. -/
def opVRed (o : OpIn) (s : State) : Res State :=
  let t := vType s o
  if !inIntFlt t then illegalType o t
  else match scOp s o 2, veVal o with
    | .ok c, .ok x =>
      let op := c.toNat % 4
      if inFlt t then
        let leaves := (lanes t x).map fun v => convertCode t 0 (if op = 3 then magOf t v else v)
        let r := treeReduce (floatRed op) (0, flNone) leaves
        .ok (modCore (scalarResult s o (BitVec.ofNat 64 r.1) 8) o.c fun k => noteFlags k r.2)
      else
        let leaves := (lanes t x).map fun v => if op = 3 then ((intOf t v).natAbs : Int) else intOf t v
        .ok (scalarResult s o (BitVec.ofInt 64 (treeReduce (intRed op) 0 leaves)) 8)
    | .error e, _ => .error e
    | _, .error e => .error e

/-- R338. SCAN. -/
def opVScan (o : OpIn) (s : State) : Res State :=
  let t := vType s o
  if !(t = 0 || inWideInt t) then illegalType o t
  else match scOp s o 2, veVal o with
    | .ok c, .ok x =>
      let op := c.toNat % 4
      if t = 0 then
        laneResult s o t (treeScan (floatRed op) ((lanes t x).map fun v => (if op = 3 then magOf t v else v, flNone))) 8
      else
        let leaves := (lanes t x).map fun v => if op = 3 then ((intOf t v).natAbs : Int) else intOf t v
        laneResult s o t ((treeScan (intRed op) leaves).map fun v => (wrapN v (typeBits t), flNone)) 8
    | .error e, _ => .error e
    | _, .error e => .error e

/-- R339. Combine, with the flags so far. -/
def combineLinear (p q : Nat × Nat × Flags) : Nat × Nat × Flags :=
  let a := fMul 0 p.1 q.1
  let b := fFma 0 false q.1 p.2.1 q.2.1
  (a.1, b.1, p.2.2 ||| q.2.2 ||| a.2 ||| b.2)

/-- R339. ScanLinear: the F32 codes of h_0 to h_(n−1), and the flags. -/
def scanLinear (t : Nat) (a b : List Nat) (h : Nat) : List Nat × Flags :=
  let es := (a.zip b).map fun p =>
    let x := convertCode t 0 p.1
    let y := convertCode t 0 p.2
    (x.1, y.1, x.2 ||| y.2)
  let hs := (treeScan combineLinear es).map fun e =>
    let r := fFma 0 false e.1 h e.2.1
    (r.1, r.2 ||| e.2.2)
  (hs.map (·.1), flAll (hs.map (·.2)))

/-- R339. The types of SCANL and SCANF. -/
def scanType (t : Nat) : Bool := t ≤ 4

/-- R339. SCANL. -/
def opVScanl (o : OpIn) (s : State) : Res State :=
  let t := vType s o
  if !scanType t then illegalType o t
  else match veOp s o 0, veOp s o 1, scVal o with
    | .ok a, .ok b, .ok h =>
      let g := 32 / typeBits t
      match groupCheck s o g with
      | .error e => .error e
      | .ok _ =>
        let (hs, fl) := scanLinear t (lanes t a) (lanes t b) (h.toNat % 2 ^ 32)
        groupFlags (scalarResult s o (BitVec.ofNat 64 (hs.getLastD 0)) 8) o (blocked 0 g hs) fl 8 true
    | .error e, _, _ => .error e
    | _, .error e, _ => .error e
    | _, _, .error e => .error e

/-- R340. The carry-in of SCANF: +0.0 with .first, else bits [31:0] of a forward register, waited for and consumed. -/
def scanfCarry (s : State) (o : OpIn) (c : Word) : Res (Nat × State) :=
  if c.getLsbD 4 then .ok (0, s)
  else
    let j := c.toNat % 4
    match readReg (coreOf s o.c) (0x90 + j) true o.idx o.port with
    | .error e => .error e
    | .ok (v, k) =>
      match closing s o.c with
      | .error e => .error e
      | .ok _ =>
        let k1 := { k with window := match k.window.getLast? with
          | some u => k.window.dropLast ++ [{ u with consumes := u.consumes ||| (1#4 <<< j) }]
          | none => k.window }
        let k2 := if k.window.isEmpty then markEmpty k1 (0x90 + j) else k1
        .ok (((v.vector?).getD 0#4096).toNat % 2 ^ 32, setCore s o.c k2)

/-- R340. SCANF: SCANL with its carry from a forward register and on to the successor. Its forward write stands after those of
the bundle's own moves. -/
def opVScanf (o : OpIn) (s : State) : Res State :=
  let t := vType s o
  if !scanType t then illegalType o t
  else match veOp s o 0, scOp s o 2, veVal o with
    | .ok a, .ok c, .ok b =>
      let g := 32 / typeBits t
      match groupCheck s o g with
      | .error e => .error e
      | .ok _ =>
        match scanfCarry s o c with
        | .error e => .error e
        | .ok (h, s1) =>
          let (hs, fl) := scanLinear t (lanes t a) (lanes t b) h
          let last := hs.getLastD 0
          let out : Res Unit :=
            if c.getLsbD 5 then .ok ()
            else forwardWrite s1 o.c (32 + o.idx) (c.toNat / 4 % 4) (BitVec.ofNat 4096 last) (moveInfo o.idx o.port)
          match out with
          | .error e => .error e
          | .ok _ => groupFlags (variableResult s1 o (BitVec.ofNat 64 last)) o (blocked 0 g hs) fl 0 false
    | .error e, _, _ => .error e
    | _, .error e, _ => .error e
    | _, _, .error e => .error e

/-! ## The meanings -/

/-- V.ADD. -/
def execVAdd (u : VUnit) (m : MoveF) (s : State) : Out := runTrigger opVAdd (vPort u 0x10) m s
/-- V.SUB. -/
def execVSub (u : VUnit) (m : MoveF) (s : State) : Out := runTrigger opVSub (vPort u 0x11) m s
/-- V.MUL. -/
def execVMul (u : VUnit) (m : MoveF) (s : State) : Out := runTrigger opVMul (vPort u 0x12) m s
/-- V.FMA. -/
def execVFma (u : VUnit) (m : MoveF) (s : State) : Out := runTrigger opVFma (vPort u 0x13) m s
/-- V.FMS. -/
def execVFms (u : VUnit) (m : MoveF) (s : State) : Out := runTrigger opVFms (vPort u 0x14) m s
/-- V.MIN. -/
def execVMin (u : VUnit) (m : MoveF) (s : State) : Out := runTrigger opVMin (vPort u 0x15) m s
/-- V.MAX. -/
def execVMax (u : VUnit) (m : MoveF) (s : State) : Out := runTrigger opVMax (vPort u 0x16) m s
/-- V.ABS. -/
def execVAbs (u : VUnit) (m : MoveF) (s : State) : Out := runTrigger opVAbs (vPort u 0x17) m s
/-- V.NEG. -/
def execVNeg (u : VUnit) (m : MoveF) (s : State) : Out := runTrigger opVNeg (vPort u 0x18) m s
/-- V.AND. -/
def execVAnd (u : VUnit) (m : MoveF) (s : State) : Out := runTrigger opVAnd (vPort u 0x19) m s
/-- V.OR. -/
def execVOr (u : VUnit) (m : MoveF) (s : State) : Out := runTrigger opVOr (vPort u 0x1A) m s
/-- V.XOR. -/
def execVXor (u : VUnit) (m : MoveF) (s : State) : Out := runTrigger opVXor (vPort u 0x1B) m s
/-- V.ANDN. -/
def execVAndn (u : VUnit) (m : MoveF) (s : State) : Out := runTrigger opVAndn (vPort u 0x1C) m s
/-- V.NOT. -/
def execVNot (u : VUnit) (m : MoveF) (s : State) : Out := runTrigger opVNot (vPort u 0x1D) m s
/-- V.SHL. -/
def execVShl (u : VUnit) (m : MoveF) (s : State) : Out := runTrigger opVShl (vPort u 0x1E) m s
/-- V.SHR. -/
def execVShr (u : VUnit) (m : MoveF) (s : State) : Out := runTrigger opVShr (vPort u 0x1F) m s
/-- V.SRA. -/
def execVSra (u : VUnit) (m : MoveF) (s : State) : Out := runTrigger opVSra (vPort u 0x20) m s
/-- V.CMP. -/
def execVCmp (u : VUnit) (m : MoveF) (s : State) : Out := runTrigger opVCmp (vPort u 0x21) m s
/-- V.SEL. -/
def execVSel (u : VUnit) (m : MoveF) (s : State) : Out := runTrigger opVSel (vPort u 0x22) m s
/-- V.MOV. -/
def execVMov (u : VUnit) (m : MoveF) (s : State) : Out := runTrigger opVMov (vPort u 0x23) m s
/-- V.POPC. -/
def execVPopc (u : VUnit) (m : MoveF) (s : State) : Out := runTrigger opVPopc (vPort u 0x24) m s
/-- V.CLZ. -/
def execVClz (u : VUnit) (m : MoveF) (s : State) : Out := runTrigger opVClz (vPort u 0x25) m s
/-- V.FNS. -/
def execVFns (u : VUnit) (m : MoveF) (s : State) : Out := runTrigger opVFns (vPort u 0x26) m s
/-- V.BREV. -/
def execVBrev (u : VUnit) (m : MoveF) (s : State) : Out := runTrigger opVBrev (vPort u 0x27) m s
/-- V.MSKP. -/
def execVMskp (u : VUnit) (m : MoveF) (s : State) : Out := runTrigger opVMskp (vPort u 0x28) m s
/-- V.CVT. -/
def execVCvt (u : VUnit) (m : MoveF) (s : State) : Out := runTrigger opVCvt (vPort u 0x29) m s
/-- V.QNT. -/
def execVQnt (u : VUnit) (m : MoveF) (s : State) : Out := runTrigger opVQnt (vPort u 0x2A) m s
/-- V.DEQ. -/
def execVDeq (u : VUnit) (m : MoveF) (s : State) : Out := runTrigger opVDeq (vPort u 0x2B) m s
/-- V.FXA. -/
def execVFxa (u : VUnit) (m : MoveF) (s : State) : Out := runTrigger opVFxa (vPort u 0x2C) m s
/-- V.BCAST. -/
def execVBcast (u : VUnit) (m : MoveF) (s : State) : Out := runTrigger opVBcast (vPort u 0x2D) m s
/-- V.PERM. -/
def execVPerm (u : VUnit) (m : MoveF) (s : State) : Out := runTrigger opVPerm (vPort u 0x2E) m s
/-- V.ROT. -/
def execVRot (u : VUnit) (m : MoveF) (s : State) : Out := runTrigger opVRot (vPort u 0x2F) m s
/-- V.IOTA. -/
def execVIota (u : VUnit) (m : MoveF) (s : State) : Out := runTrigger opVIota (vPort u 0x30) m s
/-- V.RED. -/
def execVRed (u : VUnit) (m : MoveF) (s : State) : Out := runTrigger opVRed (vPort u 0x31) m s
/-- V.SCAN. -/
def execVScan (u : VUnit) (m : MoveF) (s : State) : Out := runTrigger opVScan (vPort u 0x32) m s
/-- V.SCANL. -/
def execVScanl (u : VUnit) (m : MoveF) (s : State) : Out := runTrigger opVScanl (vPort u 0x33) m s
/-- V.SCANF. -/
def execVScanf (u : VUnit) (m : MoveF) (s : State) : Out := runTrigger opVScanf (vPort u 0x34) m s

end Sys2Proof.Machine
end

