-- ==== Sys2Proof/Machine/LoadStore.lean ====
section
/-! DEFINITION. The LD and ST units (R387 to R395). -/
namespace Sys2Proof.Machine

/-! ## References and sizes (R387 to R389) -/

/-- R388. Eff(r, d). -/
def effRef (r d : Word) : Res Word :=
  let t := refTag r
  if t = 1 ∨ t = 2 ∨ t = 3 then
    let w := if t = 3 then 40 else 24
    let off : Int := (if t = 3 then refStepOffset r else refOffset r) + d.toInt
    if off < 0 ∨ off ≥ ((2 ^ w : Nat) : Int) then raise tcHandleBounds r
    else .ok (BitVec.ofNat 64 (r.toNat / 2 ^ w * 2 ^ w + off.toNat))
  else .ok r

/-- R387. Bytes of an access by the control port's size code. -/
def accessSize (c : Word) : Nat :=
  match c.toNat % 4 with
  | 0 => 8
  | 1 => 4
  | 2 => 2
  | _ => 1

/-- R387. The control port of LD, ST and RG. -/
def ctlPort (s : State) (o : OpIn) : Res Word := scOp s o 12

/-- The reference and displacement of a load: its effective reference and the control port. -/
def loadOperands (s : State) (o : OpIn) : Res (Word × Word) :=
  match scOp s o 0, ctlPort s o, scVal o with
  | .ok r, .ok c, .ok d =>
    match effRef r d with
    | .ok e => .ok (e, c)
    | .error e => .error e
  | .error e, _, _ => .error e
  | _, .error e, _ => .error e
  | _, _, .error e => .error e

/-- R195, R390. A checked load of n bytes aligned to `align`. -/
def checkedLoad (s : State) (c : Nat) (r : Word) (n align : Nat) : Res (List Byte) :=
  match checkRef s c r n align memTags with
  | .error e => .error e
  | .ok t => loadAt s c t n r

/-- R195, R394. A checked store. -/
def checkedStore (s : State) (c : Nat) (r : Word) (align : Nat) (bs : List Byte) : Res State :=
  match checkRef s c r bs.length align memTags with
  | .error e => .error e
  | .ok t => storeAt s c t bs

/-- R391, R394. The reference of element x of an indexed access. -/
def elementRef (r : Word) (x size : Nat) : Res Word := effRef r (BitVec.ofNat 64 (x * size))

/-- Lanes of `size` bytes of a vector. -/
def sizedLanes (size : Nat) (v : Vec) : List Nat := (List.range (512 / size)).map fun i => field v.toNat (8 * size * i) (8 * size)
/-- A vector of lanes of `size` bytes. -/
def packSized (size : Nat) (l : List Nat) : Vec :=
  BitVec.ofNat 4096 (l.foldr (fun x acc => x % 2 ^ (8 * size) + 2 ^ (8 * size) * acc) 0)

/-! ## Loads (R390 to R392) -/

/-- R390. LD.V. -/
def opLdV (o : OpIn) (s : State) : Res State :=
  match loadOperands s o, groupCheck s o 1 with
  | .ok (r, _), .ok _ =>
    match checkedLoad s o.c r 512 128 with
    | .error e => .error e
    | .ok bs => vectorResult s o 0 (BitVec.ofNat 4096 (ofBytes bs)) 0 false
  | .error e, _ => .error e
  | _, .error e => .error e

/-- R391. LD.S: unsigned, or sign-extended under .sx. -/
def opLdS (o : OpIn) (s : State) : Res State :=
  match loadOperands s o with
  | .error e => .error e
  | .ok (r, c) =>
    let n := accessSize c
    match checkedLoad s o.c r n n with
    | .error e => .error e
    | .ok bs =>
      let x := ofBytes bs
      .ok (variableResult s o (if c.getLsbD 2 then BitVec.ofInt 64 (signed x (8 * n)) else BitVec.ofNat 64 x))

/-- R391. LD.B. -/
def opLdB (o : OpIn) (s : State) : Res State :=
  match loadOperands s o, groupCheck s o 1 with
  | .ok (r, c), .ok _ =>
    let n := accessSize c
    match checkedLoad s o.c r n n with
    | .error e => .error e
    | .ok bs => vectorResult s o 0 (packSized n (List.replicate (512 / n) (ofBytes bs))) 0 false
  | .error e, _ => .error e
  | _, .error e => .error e

/-- R391. The checked places of an indexed access, every one before any is read or written. -/
def elementPlaces (s : State) (c : Nat) (r : Word) (size : Nat) : List Nat → Res (List (Word × Target))
  | [] => .ok []
  | x :: xs =>
    match elementRef r x size with
    | .error e => .error e
    | .ok er =>
      match checkRef s c er size size memTags with
      | .error e => .error e
      | .ok t => match elementPlaces s c r size xs with
        | .error e => .error e
        | .ok ts => .ok ((er, t) :: ts)

/-- Elements read in order. -/
def loadElements (s : State) (c size : Nat) : List (Word × Target) → Res (List Nat)
  | [] => .ok []
  | p :: ps =>
    match loadAt s c p.2 size p.1 with
    | .error e => .error e
    | .ok bs => match loadElements s c size ps with
      | .error e => .error e
      | .ok xs => .ok (ofBytes bs :: xs)

/-- R391. Lane j of an index vector as U32, for the first n lanes. -/
def indexLanes (v : Vec) (n : Nat) : List Nat := (sizedLanes 4 v).take n

/-- R391. LD.I. -/
def opLdI (o : OpIn) (s : State) : Res State :=
  match scOp s o 0, ctlPort s o, veVal o, groupCheck s o 1 with
  | .ok r, .ok c, .ok ix, .ok _ =>
    let size := accessSize c
    if c.toNat % 4 ≥ 2 then illegalType o (c.toNat % 4)
    else if !memTags.contains (refTag r) then raise tcRefInvalid r
    else match elementPlaces s o.c r size (indexLanes ix (512 / size)) with
      | .error e => .error e
      | .ok ps => match loadElements s o.c size ps with
        | .error e => .error e
        | .ok xs => vectorResult s o 0 (packSized size xs) 0 false
  | .error e, _, _, _ => .error e
  | _, .error e, _, _ => .error e
  | _, _, .error e, _ => .error e
  | _, _, _, .error e => .error e

/-- R392. The code of a line's state. -/
def lineCode (st : LineState) : Nat :=
  match st with
  | .full => 0 | .empty => 1 | .poison => 2

/-- R392. LD.FE: the states of 32 lines from the one that holds the byte. -/
def opLdFe (o : OpIn) (s : State) : Res State :=
  match loadOperands s o with
  | .error e => .error e
  | .ok (r, _) =>
    match checkRef s o.c r 1 1 [1, 2] with
    | .error e => .error e
    | .ok t =>
      match pathClear s o.c (pathOf s o.c t), t with
      | .error e, _ => .error e
      | .ok _, .handle hc h off =>
        (match handleOf s hc h with
          | none => raise tcHandleBounds r
          | some hd =>
            let code (l : Nat) : Nat :=
              if 128 * l ≥ hd.size then 3
              else lineCode (gatedState (coreOf s o.c) hc h l (lineState (coreOf s hc) hd l))
            .ok (variableResult s o (BitVec.ofNat 64
              ((List.range 32).foldr (fun l acc => code (off / 128 + l) + 4 * acc) 0))))
      | .ok _, _ => raise tcRefInvalid r

/-! ## Stores (R393 to R395) -/

/-- R394. ST.V. -/
def opStV (o : OpIn) (s : State) : Res State :=
  match scOp s o 0, veVal o with
  | .ok r, .ok v => checkedStore s o.c r 128 (bytesOf v.toNat 512)
  | .error e, _ => .error e
  | _, .error e => .error e

/-- R394. ST.S. -/
def opStS (o : OpIn) (s : State) : Res State :=
  match scOp s o 0, ctlPort s o, scVal o with
  | .ok r, .ok c, .ok x => checkedStore s o.c r (accessSize c) (bytesOf x.toNat (accessSize c))
  | .error e, _, _ => .error e
  | _, .error e, _ => .error e
  | _, _, .error e => .error e

/-- R394. The elements of an indexed or masked store at their checked places, in ascending lane order: one store of a handle's
bytes, a later lane's value standing, or one contribution each. -/
def storeElements (s : State) (c size : Nat) (l : List (Target × Nat)) : Res State :=
  match l with
  | [] => .ok s
  | (t, _) :: _ =>
    match pathClear s c (pathOf s c t), t with
    | .error e, _ => .error e
    | .ok _, .handle hc h _ =>
      let bytes := l.flatMap fun p => match p.1 with
        | .handle _ _ off => atOffset off (bytesOf p.2 size)
        | _ => []
      effect s c (.store hc h (bytes.foldl (fun m b => Map.set m b.1 b.2) []))
    | .ok _, .step j _ =>
      let d := stepDecl (coreLaunch s c) j
      storeStep s c j (l.flatMap fun p => match p.1 with
        | .step _ off => elementsOf d off (bytesOf p.2 size)
        | _ => [])
    | .ok _, .glob va => raise tcRefInvalid (BitVec.ofNat 64 va)

/-- R394. ST.I. -/
def opStI (o : OpIn) (s : State) : Res State :=
  match scOp s o 0, veOp s o 1, ctlPort s o, veVal o with
  | .ok r, .ok ix, .ok c, .ok v =>
    let size := accessSize c
    if c.toNat % 4 ≥ 2 then illegalType o (c.toNat % 4)
    else if !memTags.contains (refTag r) then raise tcRefInvalid r
    else match elementPlaces s o.c r size (indexLanes ix (512 / size)) with
      | .error e => .error e
      | .ok ps => storeElements s o.c size ((ps.map (·.2)).zip (sizedLanes size v))
  | .error e, _, _, _ => .error e
  | _, .error e, _, _ => .error e
  | _, _, .error e, _ => .error e
  | _, _, _, .error e => .error e

/-- R394. ST.M. -/
def opStM (o : OpIn) (s : State) : Res State :=
  match scOp s o 0, maOp s o 1, ctlPort s o, veVal o with
  | .ok r, .ok m, .ok c, .ok v =>
    let size := accessSize c
    let set := bitsSet m.toNat (512 / size)
    match checkRef s o.c r 0 size memTags with
    | .error e => .error e
    | .ok t =>
      let wrong : Bool := match t with
        | .step j _ => decide ((stepDecl (coreLaunch s o.c) j).esize ≠ size)
        | _ => false
      if wrong then raise tcMisaligned r
      else match elementPlaces s o.c r size set with
        | .error e => .error e
        | .ok ps => storeElements s o.c size ((ps.map (·.2)).zip (set.map fun i => (sizedLanes size v).getD i 0))
  | .error e, _, _, _ => .error e
  | _, .error e, _, _ => .error e
  | _, _, .error e, _ => .error e
  | _, _, _, .error e => .error e

/-- R395. An operation on n lines from the referenced one. -/
def lineOp (mk : (core handle line n : Nat) → Eff) (o : OpIn) (s : State) : Res State :=
  match scOp s o 0, scVal o with
  | .ok r, .ok x =>
    let n := x.toNat % 64
    if n = 0 ∨ n > 32 then raise tcHandleBounds r
    else match checkRef s o.c r (128 * n) 128 [1, 2] with
      | .error e => .error e
      | .ok t =>
        match pathClear s o.c (pathOf s o.c t), t with
        | .error e, _ => .error e
        | .ok _, .handle hc h off => effect s o.c (mk hc h (off / 128) n)
        | .ok _, _ => raise tcRefInvalid r
  | .error e, _ => .error e
  | _, .error e => .error e

/-- R395. ST.SETE. -/
def opStSete : OpIn → State → Res State := lineOp Eff.sete
/-- R395. ST.ZERO. -/
def opStZero : OpIn → State → Res State := lineOp Eff.zero

/-! ## The meanings -/

/-- LD.V. -/
def execLdV (m : MoveF) (s : State) : Out := runTrigger opLdV 0x610#12 m s
/-- LD.S. -/
def execLdS (m : MoveF) (s : State) : Out := runTrigger opLdS 0x611#12 m s
/-- LD.B. -/
def execLdB (m : MoveF) (s : State) : Out := runTrigger opLdB 0x612#12 m s
/-- LD.I. -/
def execLdI (m : MoveF) (s : State) : Out := runTrigger opLdI 0x613#12 m s
/-- LD.FE. -/
def execLdFe (m : MoveF) (s : State) : Out := runTrigger opLdFe 0x614#12 m s
/-- ST.V. -/
def execStV (m : MoveF) (s : State) : Out := runTrigger opStV 0x710#12 m s
/-- ST.S. -/
def execStS (m : MoveF) (s : State) : Out := runTrigger opStS 0x711#12 m s
/-- ST.I. -/
def execStI (m : MoveF) (s : State) : Out := runTrigger opStI 0x712#12 m s
/-- ST.M. -/
def execStM (m : MoveF) (s : State) : Out := runTrigger opStM 0x713#12 m s
/-- ST.SETE. -/
def execStSete (m : MoveF) (s : State) : Out := runTrigger opStSete 0x714#12 m s
/-- ST.ZERO. -/
def execStZero (m : MoveF) (s : State) : Out := runTrigger opStZero 0x715#12 m s

end Sys2Proof.Machine
end

