-- ==== Sys2Proof/Machine/Matrix.lean ====
section
/-! DEFINITION. The matrix unit MX (R247 to R260, R348 to R367): tensor identifiers, tile arithmetic, tile operations. -/
namespace Sys2Proof.Machine

/-! ## Tensor identifiers (R247 to R249) -/

/-- R247. An identifier-table entry. -/
structure Tensor where
  base : Word
  exts : List Nat
  strs : List Nat
  fmt : Nat
  ndim : Nat
  scaled : Bool
  valid : Bool
  sct : Nat
  sbase : Int
  gsz : Nat
  gdim : Nat
  low : Nat
  deriving DecidableEq, Repr

/-- R247. The fields of an entry's 32 bytes. -/
def tensorOf (e : BitVec 256) : Tensor :=
  let n := e.toNat
  { base := BitVec.ofNat 64 n, exts := (List.range 4).map fun d => field n (64 + 16 * d) 16,
    strs := (List.range 3).map fun d => field n (128 + 32 * d) 32, fmt := field n 252 4, ndim := field n 250 2,
    scaled := n.testBit 249, valid := n.testBit 248, sct := field n 240 8, sbase := signed (field n 232 8) 8,
    gsz := field n 230 2, gdim := field n 228 2, low := field n 224 4 }

/-- R247. The extent of a dimension; those not used read as 1. -/
def Tensor.ext (t : Tensor) (d : Nat) : Nat := if d ≤ t.ndim then t.exts.getD d 1 else 1
/-- R247. The stride of dimension d ≥ 1 in bytes. -/
def Tensor.stride (t : Tensor) (d : Nat) : Nat := 16 * t.strs.getD (d - 1) 0
/-- R247. G. -/
def Tensor.group (t : Tensor) : Nat := 32 * 2 ^ t.gsz
/-- Element width in bits. -/
def Tensor.bits (t : Tensor) : Nat := typeBits t.fmt

/-- R249 step 1, TIDT apart. -/
def Tensor.sound (t : Tensor) : Bool :=
  t.valid && t.low = 0 && t.gsz ≠ 3 && t.gdim ≤ t.ndim &&
  (List.range 4).all (fun d => if d ≤ t.ndim then t.exts.getD d 0 ≠ 0 else t.exts.getD d 0 = 0) &&
  (span 1 3).all (fun d => d ≤ t.ndim || t.strs.getD (d - 1) 0 = 0) &&
  (!t.scaled || [3, 4, 5, 12, 14, 7].contains t.fmt)

/-- R249 step 2. A scale tensor of t. -/
def Tensor.scaleFits (t sc : Tensor) : Bool :=
  sc.sound && !sc.scaled && sc.fmt = 13 &&
  (List.range 4).all fun d => (if d = t.gdim then (t.ext d - 1) / t.group else t.ext d - 1) < sc.ext d

/-- R248. ElemOffset in bits from BASE. -/
def Tensor.bitAt (t : Tensor) (i0 i1 i2 i3 : Nat) : Nat :=
  8 * (i1 * t.stride 1 + i2 * t.stride 2 + i3 * t.stride 3) + i0 * t.bits

/-- R249 step 4. Bytes from element (0, 0, 0, 0) to an element. -/
def Tensor.spanTo (t : Tensor) (i0 i1 i2 i3 : Nat) : Nat := ceilDiv (t.bitAt i0 i1 i2 i3 + t.bits) 8

/-- R249, R350. The read of an entry of the launch's table. -/
def readIdentifier (s : State) (c n : Nat) : Res (BitVec 256) :=
  let l := coreLaunch s c
  let va := l.tidt + 32 * n
  if l.tidt = 0 then raise tcRefInvalid 0#64
  else match pathClear s c 2 with
    | .error e => .error e
    | .ok _ =>
      match readVaRange s { core := c } l va 32 with
      | .data bs => .ok (BitVec.ofNat 256 (ofBytes bs))
      | .miss m a => raiseMiss m a 1
      | .poison _ => raise tcLinePoison (BitVec.ofNat 64 va)
      | .blocked a b d => .error (.wait (.line a b d))
      | .needs n => .error (.wait (.needs n))

/-- R350. MX's copy of an identifier, made where it holds none. -/
def idCopy (s : State) (c n : Nat) : Res (BitVec 256 × State) :=
  match Map.find (coreOf s c).tids n with
  | some e => .ok (e, s)
  | none =>
    match readIdentifier s c n with
    | .error e => .error e
    | .ok e => .ok (e, modCore s c fun k => { k with tids := Map.set k.tids n e })

/-- R249 steps 1 and 2 on an entry. -/
def checkTensor (s : State) (c : Nat) (t : Tensor) : Res (Option Tensor × State) :=
  if !t.sound then raise tcRefInvalid t.base
  else if !t.scaled then .ok (none, s)
  else match idCopy s c t.sct with
    | .error e => .error e
    | .ok (e, s') => if t.scaleFits (tensorOf e) then .ok (some (tensorOf e), s') else raise tcRefInvalid t.base

/-- R249, R350. Identifier n with its scale tensor. -/
def identifier (s : State) (c n : Nat) : Res (Tensor × Option Tensor × State) :=
  match idCopy s c n with
  | .error e => .error e
  | .ok (e, s1) =>
    match checkTensor s1 c (tensorOf e) with
    | .error e => .error e
    | .ok (sc, s2) => .ok (tensorOf e, sc, s2)

/-! ## Tile operations (R351 to R356) -/

/-- R354, R355. The operands of one tile operation. -/
structure TileOp where
  tile : Nat
  k : Nat
  ta : Nat
  tb : Nat
  ka : Nat
  m0 : Nat
  kb : Nat
  n0 : Nat
  i2 : Nat
  i3 : Nat
  deriving DecidableEq, Repr

/-- R354, R355. From the origins, the batch and the control word. -/
def tileOpOf (a b batch ctl : Word) : TileOp :=
  { tile := field ctl.toNat 0 4, k := field ctl.toNat 4 12 + 1, ta := field ctl.toNat 16 8, tb := field ctl.toNat 24 8,
    ka := field a.toNat 32 32, m0 := field a.toNat 0 32, kb := field b.toNat 32 32, n0 := field b.toNat 0 32,
    i2 := field batch.toNat 0 16, i3 := field batch.toNat 16 16 }

/-- R354. The batch indices that a tensor uses. -/
def TileOp.batch (p : TileOp) (t : Tensor) : Nat × Nat := (if t.ndim < 2 then 0 else p.i2, if t.ndim < 3 then 0 else p.i3)

/-- The operands of a tile operation with their tensors. -/
structure Operands where
  op : TileOp
  a : Tensor
  sa : Option Tensor
  b : Tensor
  sb : Option Tensor
  deriving DecidableEq, Repr

/-- R349. A tile mask that an operation may name; the trap differs for a tile written and one only read. -/
def tileCheck (s : State) (o : OpIn) (mask : Nat) (writes : Bool) : Res Unit :=
  if mask % 2 ^ 16 / 2 ^ (coreLaunch s o.c).acct ≠ 0 then
    raiseMove (if writes then tcIllegalDest else tcIllegalSource) o.idx o.port
  else .ok ()

/-- R351. Spaces and GDIM of an operand. -/
def spaceCheck (t : Tensor) (sc : Option Tensor) (tags scTags : List Nat) (gdim : Nat) : Res Unit :=
  if !tags.contains (refTag t.base) then raise tcRefInvalid t.base
  else match sc with
    | none => .ok ()
    | some u =>
      if !scTags.contains (refTag u.base) then raise tcRefInvalid u.base
      else if t.gdim ≠ gdim then raise tcRefInvalid t.base
      else .ok ()

/-- R352. Kmax of a pair, 0 where it is none. -/
def pairKmax (a b : Nat) : Nat :=
  let wide (t : Nat) : Bool := t = 1 || t = 2
  let byte (t : Nat) : Bool := t = 3 || t = 4
  if a = 6 && b = 6 then 32
  else if a = 0 && b = 0 then 64
  else if wide a && wide b then 256
  else if byte a && byte b then 512
  else if a = 5 && b = 5 then 1024
  else if (a = 5 && byte b) || (byte a && b = 5) then 512
  else if (a = 12 && (b = 12 || b = 14)) || (a = 14 && b = 12) then 512
  else if a = 14 && b = 14 then 1024
  else if a = 7 && b = 12 then 2048
  else 0

/-- R251, R352. Does a mode accept a pair that MX accepts? -/
def modeAccepts (m : TileMode) (a : Nat) : Bool :=
  match m with
  | .W => a ≠ 6 && a ≠ 0
  | .F => 1 ≤ a && a ≤ 5
  | .I32 => a ≤ 5
  | .I64 => a ≤ 6

/-- R351. An origin inside its extent. -/
def originOk (t : Tensor) (i0 i1 : Nat) (ix : Nat × Nat) : Bool :=
  i0 < t.ext 0 && i1 < t.ext 1 && ix.1 < t.ext 2 && ix.2 < t.ext 3

/-- The last index of a run of n from i that lies within an extent. -/
def lastIn (i n ext : Nat) : Nat := min (i + n) ext - 1

/-- R249 step 4, R356 step 6. The place of a tensor whose span reaches an element. -/
def tensorPlace (s : State) (c : Nat) (t : Tensor) (i0 i1 : Nat) (ix : Nat × Nat) : Res Target :=
  checkRef s c t.base (t.spanTo i0 i1 ix.1 ix.2) 16 [refTag t.base]

/-- R356 step 6. The spans of one operand and of its scales; `gd` is the dimension along which the scales run. -/
def spansOk (s : State) (c : Nat) (t : Tensor) (sc : Option Tensor) (i0 i1 : Nat) (ix : Nat × Nat) (gd : Nat) : Res Unit :=
  match tensorPlace s c t i0 i1 ix with
  | .error e => .error e
  | .ok _ =>
    match sc with
    | none => .ok ()
    | some u =>
      match tensorPlace s c u (if gd = 0 then i0 / t.group else i0) (if gd = 1 then i1 / t.group else i1) ix with
      | .error e => .error e
      | .ok _ => .ok ()

/-- R189, R352. ILLEGAL_TYPE with A's type. -/
def wrongPair {α : Type} (o : OpIn) (a : Tensor) : Res α := illegalType o a.fmt

/-- R356. The checks of a tile operation from step 2 on, against a tile in mode `mode`: its tensors. `aTags` are
the spaces of A. -/
def checkTileOp (s : State) (o : OpIn) (p : TileOp) (tern : Bool) (aTags : List Nat) (mode : TileMode) : Res (Operands × State) :=
  match identifier s o.c p.ta with
  | .error e => .error e
  | .ok (a, sa, s1) =>
    match identifier s1 o.c p.tb with
    | .error e => .error e
    | .ok (b, sb, s2) =>
      match spaceCheck a sa aTags [refTag a.base] 0, spaceCheck b sb [4] [1, 4] 1 with
      | .error e, _ => .error e
      | _, .error e => .error e
      | .ok _, .ok _ =>
        let kmax := pairKmax a.fmt b.fmt
        if kmax = 0 || p.k > kmax || (a.fmt = 7) != tern || !modeAccepts mode (min a.fmt b.fmt) then wrongPair o a
        else if !originOk a p.ka p.m0 (p.batch a) then raise tcHandleBounds a.base
        else if !originOk b p.n0 p.kb (p.batch b) then raise tcHandleBounds b.base
        else
          match spansOk s2 o.c a sa (lastIn p.ka p.k (a.ext 0)) (lastIn p.m0 32 (a.ext 1)) (p.batch a) 0,
                spansOk s2 o.c b sb (lastIn p.n0 32 (b.ext 0)) (lastIn p.kb p.k (b.ext 1)) (p.batch b) 1 with
          | .error e, _ => .error e
          | _, .error e => .error e
          | .ok _, .ok _ => .ok ({ op := p, a := a, sa := sa, b := b, sb := sb }, s2)

/-! ## Reading operands (R351, R356, R358) -/

/-- A read of n bytes at an offset from a tensor's BASE. -/
abbrev Reader := Tensor → (off n : Nat) → Res (List Byte)

/-- One row of a tensor: the elements i0 to i0 + n − 1 of index i1, as codes. -/
def readTensorRow (rd : Reader) (t : Tensor) (i0 n i1 : Nat) (ix : Nat × Nat) : Res (List Nat) :=
  if n = 0 then .ok []
  else
    let b := t.bitAt i0 i1 ix.1 ix.2
    let e := b + n * t.bits
    match rd t (b / 8) (ceilDiv e 8 - b / 8) with
    | .error e => .error e
    | .ok bs =>
      let x := ofBytes bs
      .ok ((List.range n).map fun j => field x (b % 8 + j * t.bits) t.bits)

/-- The rows of a block. -/
def readTensorRows (rd : Reader) (t : Tensor) (i0 n : Nat) (ix : Nat × Nat) : List Nat → Res (List (List Nat))
  | [] => .ok []
  | i :: is =>
    match readTensorRow rd t i0 n i ix with
    | .error e => .error e
    | .ok r => match readTensorRows rd t i0 n ix is with
      | .error e => .error e
      | .ok rs => .ok (r :: rs)

/-- The numbers from lo, n of them, below a bound. -/
def spanBelow (lo n bound : Nat) : List Nat := span lo (min (lo + n) bound - lo)

/-- R245, R248. A block of an operand, scaled: rows i1 from r0, elements i0 from c0, as far as the extents go. -/
def readBlock (rd : Reader) (t : Tensor) (sc : Option Tensor) (c0 cn r0 rn : Nat) (ix : Nat × Nat) (gd : Nat) :
    Res (List (List Exact)) :=
  let cols := spanBelow c0 cn (t.ext 0)
  let rows := spanBelow r0 rn (t.ext 1)
  match readTensorRows rd t c0 cols.length ix rows with
  | .error e => .error e
  | .ok codes =>
    match sc with
    | none => .ok (codes.map fun r => r.map (elemValue t.fmt))
    | some u =>
      let g := t.group
      let sCols := if gd = 0 then dedup (cols.map (· / g)) else cols
      let sRows := if gd = 1 then dedup (rows.map (· / g)) else rows
      match readTensorRows rd u (sCols.headD 0) sCols.length ix sRows with
      | .error e => .error e
      | .ok scales =>
        let scaleAt (i1 i0 : Nat) : Nat :=
          let r := if gd = 1 then i1 / g - sRows.headD 0 else i1 - sRows.headD 0
          let q := if gd = 0 then i0 / g - sCols.headD 0 else i0 - sCols.headD 0
          (scales.getD r []).getD q 0
        .ok ((rows.zip codes).map fun rc => (cols.zip rc.2).map fun p =>
          scaled (elemValue t.fmt p.2) (scaleValue (scaleAt rc.1 p.1) t.sbase))

/-- R356, R358. The reader of core c's own tile operations: handles behind its own gated stores (R220), GLOBAL bytes as an operand fetch
has brought them. -/
def coreReader (s : State) (c : Nat) : Reader := fun t off n =>
  match refTag t.base with
  | 0 =>
    (lineParts (refVa t.base + off) n).foldl (fun (acc : Res (List Byte)) p =>
      match acc with
      | .error e => .error e
      | .ok bs =>
        match readVa s { core := c, packets := true } (coreLaunch s c) p.1 p.2 with
        | .data b => .ok (bs ++ b)
        | .miss m a => raiseMiss m a 1
        | .needs n => .error (.wait (.needs n))
        | .poison _ | .blocked _ _ _ =>
          raise tcLinePoison ((t.base &&& ~~~0xFFFFFFFFFFFFF#64) ||| BitVec.ofNat 64 (p.1 / 128 * 128))) (.ok [])
  | _ => loadHandle s c (dieOf c * 48 + refCore t.base) (refHandle t.base) (refOffset t.base + off) n t.base

/-- R206. The bytes of a block's rows: virtual address and length of each. -/
def blockRanges (t : Tensor) (i0 n : Nat) (ix : Nat × Nat) (rows : List Nat) : List (Nat × Nat) :=
  if n = 0 then []
  else rows.map fun i =>
    let b := t.bitAt i0 i ix.1 ix.2
    (refVa t.base + b / 8, ceilDiv (b + n * t.bits) 8 - b / 8)

/-- R206, R358. The failed translation of a GLOBAL operand fetch at the lowest virtual address. -/
def fetchFailed (s : State) (c : Nat) (x : Operands) : Option (Miss × Nat) :=
  let p := x.op
  let cols := spanBelow p.ka p.k (x.a.ext 0)
  let rows := spanBelow p.m0 32 (x.a.ext 1)
  let ix := p.batch x.a
  let g := x.a.group
  let ranges := blockRanges x.a (cols.headD 0) cols.length ix rows ++ (match x.sa with
    | none => []
    | some u =>
      let q := dedup (cols.map (· / g))
      blockRanges u (q.headD 0) q.length ix rows)
  (ranges.flatMap fun r => lineParts r.1 r.2).foldl (fun acc part =>
    match engineTranslate s (engineOf c) (coreLaunch s c) part.1 1 with
    | .ok _ => acc
    | .error m => match acc with
      | some (_, va) => if part.1 < va then some (m, part.1) else acc
      | none => some (m, part.1)) none

/-- R380. The reader of a follow-on, outside the core: `none` for a POISON line stands as LINE_POISON. -/
def arrayReader (s : State) (c : Nat) : Reader := fun t off n =>
  match readHandle s (dieOf c * 48 + refCore t.base) (refHandle t.base) (refOffset t.base + off) n with
  | .data bs => .ok bs
  | .blocked a b d => .error (.wait (.line a b d))
  | .poison _ | .miss _ _ | .needs _ => raise tcLinePoison t.base

/-! ## Tile arithmetic (R252 to R257) -/

/-- R351. The product of an element beyond its extent. -/
def zeroProduct : Exact := .fin false 0 0 false

/-- R252. The products of one element in ascending k. -/
def products (k : Nat) (row col : List Exact) : List Exact :=
  let ps := (row.zip col).map fun p => (exactMul p.1 p.2).1
  ps ++ List.replicate (k - ps.length) zeroProduct

/-- R253. Products aligned at a row exponent and added; `none` where one has no headroom. -/
def alignedSum (e : Int) (ps : List Exact) : Option Int :=
  ps.foldl (fun acc p =>
    match acc, p with
    | some x, .fin n m pe _ =>
      let q := floorTo n m pe e
      if q.natAbs ≥ 2 ^ 44 then none else some (x + q)
    | _, _ => none) (some 0)

/-- R256. The sum of one group of 32 products, a code of F32. -/
def groupSum (ps : List Exact) : Nat :=
  let bad := ps.any (· == .nan) || (ps.contains (.inf true) && ps.contains (.inf false))
  if bad then defaultNaN 0
  else if ps.contains (.inf true) then withSign 0 true (infCode 0)
  else if ps.contains (.inf false) then infCode 0
  else if ps.all Exact.isZero then withSign 0 (ps.all Exact.neg) 0
  else
    let es := (ps.filter fun p => !p.isZero).map Exact.exponent
    let em := es.foldl max (es.headD 0)
    let u := em - 27
    let sum := ps.foldl (fun acc p =>
      match p with
      | .fin n m pe _ => let q := floorTo false m pe u; acc + (if n then -q else q)
      | _ => acc) (0 : Int)
    (roundFmt (exactScaled sum u) 0).1

/-- R256. AddGroupF over the groups of 32, for as many groups as there may be. -/
def addGroupsF : (groups : Nat) → (acc : Nat) → List Exact → Nat
  | 0, acc, _ => acc
  | g + 1, acc, ps => if ps.isEmpty then acc else addGroupsF g (fAdd 0 false acc (groupSum (ps.take 32))).1 (ps.drop 32)

/-- R257. Products fused one by one into an accumulator of F32 or F64. -/
def addFused (t : Nat) (acc : Nat) (ps : List Exact) : Nat :=
  ps.foldl (fun a p => (roundFmt (exactAdd (valueOf t a) p).1 t).1) acc

/-- The word of a tile. -/
def Tile.word (t : Tile) (i j : Nat) : Word := Map.get t.words (32 * i + j) 0#64
/-- The exponent of a row. -/
def Tile.exp (t : Tile) (i : Nat) : Int := (Map.get t.exps i 0#16).toInt
/-- The guard of a row. -/
def Tile.guard (t : Tile) (i : Nat) : Nat := Map.get t.guards i 0
/-- Words of a tile from a function; zero words are not listed. -/
def tileWords (f : Nat → Nat → Word) : Map Word :=
  ((List.range 1024).map fun n => (n, f (n / 32) (n % 32))).filter fun e => e.2 ≠ 0#64

/-- R252 to R257. The products of an operation added to a tile: the lowest failing row where there is no headroom. -/
def tileAdd (t : Tile) (k : Nat) (a b : List (List Exact)) : Except Nat Tile :=
  let cols := (List.range 32).map fun j => b.filterMap fun r => r[j]?
  let ps (i j : Nat) : List Exact := products k (a.getD i []) (cols.getD j [])
  match t.mode with
  | .W =>
    let g := ceilDiv k 32
    let sums := (List.range 32).map fun i => (List.range 32).map fun j => alignedSum (t.exp i) (ps i j)
    match (List.range 32).find? fun i => (sums.getD i []).contains none || t.guard i + g > 2 ^ 14 with
    | some i => .error i
    | none =>
      .ok { t with
        words := tileWords fun i j => t.word i j + BitVec.ofInt 64 (((sums.getD i []).getD j none).getD 0),
        guards := (List.range 32).map fun i => (i, t.guard i + g) }
  | .F =>
    .ok { t with words := tileWords fun i j => BitVec.ofNat 64 (addGroupsF (ceilDiv k 32) (t.word i j).toNat (ps i j)) }
  | .I32 => .ok { t with words := tileWords fun i j => BitVec.ofNat 64 (addFused 0 (t.word i j).toNat (ps i j)) }
  | .I64 => .ok { t with words := tileWords fun i j => BitVec.ofNat 64 (addFused 6 (t.word i j).toNat (ps i j)) }

/-! ## The tiles of a core -/

def tileOf (k : Core) (n : Nat) : Tile := Map.get k.tiles n {}
/-- R365. A tile written by a numbered operation. -/
def writeTile (k : Core) (n : Nat) (t : Tile) : Core := { k with tiles := Map.set k.tiles n t }
/-- R356, R365. One more tile-writing operation: the tiles that it writes are in flight under its number until it ends. -/
def countTileOp (k : Core) (tiles : List Nat) : Core :=
  { k with mxNo := (k.mxNo + 1) % 2 ^ 32, flight := k.flight ++ tiles.map fun n => (n, k.mxNo) }
/-- R381. Is a tile of a mask reserved? -/
def anyReserved (k : Core) (mask : Nat) : Bool := k.reserved.any fun r => mask.testBit r.1
/-- R363. Is a tile in flight or reserved? -/
def tileBusy (k : Core) (n : Nat) : Bool := k.flight.any (fun f => f.1 = n) || k.reserved.any fun r => r.1 = n

/-- R365. The oldest number in flight or reserved. -/
def oldestTileOp (k : Core) : Nat :=
  let ns := k.flight.map (·.2) ++ k.reserved.map (·.2.1)
  let age (n : Nat) : Nat := (k.mxNo + 2 ^ 32 - n) % 2 ^ 32
  ns.foldl (fun best n => if age n > age best then n else best) (ns.headD 0)

/-- R254. ACC_HEADROOM. -/
def headroom {α : Type} (row tile : Nat) : Res α := raise tcAccHeadroom (BitVec.ofNat 64 (row * 16 + tile))

/-- The operands of a tile operation read. -/
def readOperands (rd : Reader) (x : Operands) : Res (List (List Exact) × List (List Exact)) :=
  let p := x.op
  match readBlock rd x.a x.sa p.ka p.k p.m0 32 (p.batch x.a) 0 with
  | .error e => .error e
  | .ok a =>
    match readBlock rd x.b x.sb p.n0 32 p.kb p.k (p.batch x.b) 1 with
    | .error e => .error e
    | .ok b => .ok (a, b)

/-- R117, R358. Bytes of the operand fetch of a GLOBAL A. -/
def fetchBytes (x : Operands) : Nat :=
  let p := x.op
  let n := (spanBelow p.ka p.k (x.a.ext 0)).length
  let m := (spanBelow p.m0 32 (x.a.ext 1)).length
  m * ceilDiv (n * x.a.bits) 8 + (match x.sa with
    | none => 0
    | some _ => m * ceilDiv n x.a.group)

/-- R356. One tile operation of core c: checks, reads, sum, write. -/
def runTileOp (s : State) (o : OpIn) (p : TileOp) (tern : Bool) : Res State :=
  match pathClear s o.c 3, checkTileOp s o p tern [0, 1, 2] (tileOf (coreOf s o.c) p.tile).mode with
  | .error e, _ => .error e
  | _, .error e => .error e
  | .ok _, .ok (x, s1) =>
    let failed := if refTag x.a.base = 0 then fetchFailed s1 o.c x else none
    match failed.elim (readOperands (coreReader s1 o.c) x) fun f => raiseMiss f.1 f.2 1 with
    | .error e => .error e
    | .ok (a, b) =>
      match tileAdd (tileOf (coreOf s1 o.c) p.tile) p.k a b with
      | .error row => headroom row p.tile
      | .ok t =>
        let s2 := if refTag x.a.base = 0 then
            countHot s1 (engineOf o.c) (coreOf s o.c).wp.launch (refBuf x.a.base) (fetchBytes x) 0
          else s1
        .ok (modCore s2 o.c fun k =>
          countTileOp (writeTile k p.tile t) [p.tile])

/-- The tile operation at an MX operation's ports. -/
def tileOperands (s : State) (o : OpIn) : Res (TileOp × Word) :=
  match scOp s o 0, scOp s o 1, scOp s o 2, scVal o with
  | .ok a, .ok b, .ok n, .ok c => .ok (tileOpOf a b n c, c)
  | .error e, _, _, _ => .error e
  | _, .error e, _, _ => .error e
  | _, _, .error e, _ => .error e
  | _, _, _, .error e => .error e

/-- R356. MMA, or MMAT where `tern`. -/
def mmaOp (tern : Bool) (o : OpIn) (s : State) : Res State :=
  match tileOperands s o with
  | .error e => .error e
  | .ok (p, _) =>
    match tileCheck s o (2 ^ p.tile) true with
    | .error e => .error e
    | .ok _ => runTileOp s o p tern
/-- R356. MX.MMA. -/
def opMxMma : OpIn → State → Res State := mmaOp false
/-- R356. MX.MMAT. -/
def opMxMmat : OpIn → State → Res State := mmaOp true

/-- R359. Step s of a sequence. -/
def seqTileOp (p : TileOp) (nt s : Nat) : TileOp :=
  let j := s % nt
  let q := s / nt
  { p with tile := p.tile + j, ka := p.ka + q * p.k, kb := p.kb + q * p.k, n0 := p.n0 + 32 * j }

/-- R359. MX.SEQ: the step that the core stands at; the next one, with a fetch of its own (R358), stands in the core, 0 when the sequence
is over. -/
def opMxSeq (o : OpIn) (s : State) : Res State :=
  match tileOperands s o with
  | .error e => .error e
  | .ok (p, ctl) =>
    let nt := field ctl.toNat 32 2 + 1
    let total := field ctl.toNat 34 12 + 1
    let n := (coreOf s o.c).seqStep
    match tileCheck s o 0 true with
    | .error e => .error e
    | .ok _ =>
      if p.tile + nt > min 16 (coreLaunch s o.c).acct then raiseMove tcIllegalDest o.idx o.port
      else
        let q := seqTileOp p nt n
        match idCopy s o.c q.ta with
        | .error e => .error e
        | .ok (e, s1) =>
          match runTileOp s1 o q ((tensorOf e).fmt = 7) with
          | .error e => .error e
          | .ok s2 => .ok (modCore s2 o.c fun k =>
              { k with seqStep := if n + 1 ≥ total then 0 else n + 1 })

/-! ## Identifiers, modes and rows (R350, R360 to R364) -/

/-- R350. MX.TID. -/
def opMxTid (o : OpIn) (s : State) : Res State :=
  match scVal o with
  | .error e => .error e
  | .ok x =>
    let n := x.toNat % 256
    match readIdentifier s o.c n with
    | .error e => .error e
    | .ok e =>
      match checkTensor s o.c (tensorOf e) with
      | .error e => .error e
      | .ok (_, s1) => .ok (modCore s1 o.c fun k => { k with tids := Map.set k.tids n e })

/-- Every tile of a mask changed, as one numbered operation. -/
def overTiles (k : Core) (mask : Nat) (f : Tile → Tile) : Core :=
  countTileOp ((bitsSet mask 16).foldl (fun k n => writeTile k n (f (tileOf k n))) k) (bitsSet mask 16)

/-- R360. A mode of its code. -/
def modeOf (n : Nat) : TileMode :=
  match n with
  | 0 => .W | 1 => .F | 2 => .I32 | _ => .I64

/-- R360. MX.MODE. -/
def opMxMode (o : OpIn) (s : State) : Res State :=
  match scOp s o 0, scVal o with
  | .ok x, .ok v =>
    let mask := x.toNat % 2 ^ 16
    let mode := modeOf (v.toNat % 4)
    match tileCheck s o mask true with
    | .error e => .error e
    | .ok _ =>
      if mode = .F && mask % 2 ^ 12 ≠ 0 then illegalType o 1
      else if anyReserved (coreOf s o.c) mask then block
      else .ok (modCore s o.c fun k => overTiles k mask fun _ => { mode := mode })
  | .error e, _ => .error e
  | _, .error e => .error e

/-- R360. MX.ZERO. -/
def opMxZero (o : OpIn) (s : State) : Res State :=
  match scVal o with
  | .error e => .error e
  | .ok v =>
    let mask := v.toNat % 2 ^ 16
    match tileCheck s o mask true with
    | .error e => .error e
    | .ok _ =>
      if anyReserved (coreOf s o.c) mask then block
      else .ok (modCore s o.c fun k => overTiles k mask fun t => { mode := t.mode })

/-- Floor(w · 2^d). -/
def shiftFloor (w d : Int) : Int := if d ≥ 0 then w * ((2 ^ d.toNat : Nat) : Int) else Int.fdiv w ((2 ^ (-d).toNat : Nat) : Int)

/-- R361. SetExp over rows: the lowest row without headroom, else the tile. -/
def setExp (t : Tile) (rows : List Nat) (e : BitVec 16) : Except Nat Tile :=
  let w' (i j : Nat) : Int := shiftFloor (t.word i j).toInt (t.exp i - e.toInt)
  match rows.find? fun i => (List.range 32).any fun j => (w' i j).natAbs ≥ 2 ^ 44 with
  | some i => .error i
  | none => .ok { t with
      words := tileWords fun i j => if rows.contains i then BitVec.ofInt 64 (w' i j) else t.word i j,
      exps := rows.foldl (fun m i => Map.set m i e) t.exps }

/-- R361. MX.SETE. -/
def opMxSete (o : OpIn) (s : State) : Res State :=
  match scOp s o 0, scOp s o 1, scVal o with
  | .ok x, .ok r, .ok v =>
    let n := x.toNat % 16
    let mask := r.toNat % 2 ^ 32
    match tileCheck s o (2 ^ n) true with
    | .error e => .error e
    | .ok _ =>
      let k := coreOf s o.c
      let t := tileOf k n
      if anyReserved k (2 ^ n) then block
      else if t.mode ≠ .W then .ok (modCore s o.c fun k => countTileOp k [])
      else match setExp t (if mask = 0 then List.range 32 else bitsSet mask 32) (v.truncate 16) with
        | .error i => headroom i n
        | .ok t' => .ok (modCore s o.c fun k => countTileOp (writeTile k n t') [n])
  | .error e, _, _ => .error e
  | _, .error e, _ => .error e
  | _, _, .error e => .error e

/-- R255. NormRow: the words, exponent and guard of a row, and the flags of its RoundFmt. -/
def normRow (t : Tile) (i : Nat) : Tile × Flags :=
  let vs := (List.range 32).map fun j => roundFmt (exactScaled (t.word i j).toInt (t.exp i)) 0
  let f := flAll (vs.map (·.2))
  if vs.any fun v => isInfCode 0 v.1 then (t, f)
  else
    let es := (vs.filter fun v => magOf 0 v.1 ≠ 0).map fun v => (valueOf 0 v.1).exponent
    let set (ws : List Word) (e : BitVec 16) : Tile :=
      { t with words := (List.range 32).foldl (fun m j => Map.set m (32 * i + j) (ws.getD j 0#64)) t.words,
               exps := Map.set t.exps i e, guards := Map.set t.guards i 1 }
    if es.isEmpty then (set [] (Map.get t.exps i 0#16), f)
    else
      let e := clampI (es.foldl max (es.headD 0) - 23) (-32768) 32767
      (set (vs.map fun v => match valueOf 0 v.1 with
        | .fin n m ve _ => BitVec.ofInt 64 (floorTo n m ve e)
        | _ => 0#64) (BitVec.ofInt 16 e), f)

/-- R362. MX.NRM. -/
def opMxNrm (o : OpIn) (s : State) : Res State :=
  match scOp s o 0, scVal o with
  | .ok x, .ok v =>
    let n := x.toNat % 16
    match tileCheck s o (2 ^ n) true with
    | .error e => .error e
    | .ok _ =>
      let k := coreOf s o.c
      let t := tileOf k n
      if anyReserved k (2 ^ n) then block
      else if t.mode ≠ .W then .ok (modCore s o.c fun k => countTileOp k [])
      else
        let r := (bitsSet v.toNat 32).foldl (fun (acc : Tile × Flags) i =>
          let (t', f) := normRow acc.1 i
          (t', acc.2 ||| f)) (t, flNone)
        .ok (modCore s o.c fun k => noteFlags (countTileOp (writeTile k n r.1) [n]) r.2)
  | .error e, _ => .error e
  | _, .error e => .error e

/-- R348. The control port of MX. -/
def mxCtl (s : State) (o : OpIn) : Res Word := scOp s o 12
/-- R363. Rows of a register of a type. -/
def rowsPer (t : Nat) : Nat := 128 / typeBits t

/-- R251, R258. An element of a tile converted to a type. -/
def readElement (t : Tile) (i j ty : Nat) : Nat × Flags :=
  match t.mode with
  | .W =>
    let x := exactScaled (t.word i j).toInt (t.exp i)
    if isFloat ty then roundFmt x ty else roundInt x ty
  | .F | .I32 => convertCode 0 ty (t.word i j).toNat
  | .I64 => convertCode 6 ty (t.word i j).toNat

/-- R363. MX.RD. -/
def opMxRd (o : OpIn) (s : State) : Res State :=
  match scOp s o 0, mxCtl s o, scVal o with
  | .ok x, .ok c, .ok v =>
    let n := x.toNat % 16
    let ty := c.toNat % 16
    let row := v.toNat % 32
    match tileCheck s o (2 ^ n) false with
    | .error e => .error e
    | .ok _ =>
      if !(List.contains [0, 1, 2, 3, 4, 5, 6, 8, 10, 12] ty) then illegalType o ty
      else if row % rowsPer ty ≠ 0 then raise tcMisaligned (BitVec.ofNat 64 row)
      else match groupCheck s o 1 with
        | .error e => .error e
        | .ok _ =>
          let k := coreOf s o.c
          if tileBusy k n then
            if c.getLsbD 4 then block else raise tcAccBusy (BitVec.ofNat 64 (oldestTileOp k * 2 ^ 16 + n))
          else
            let t := tileOf k n
            let r := (List.range (rowsPer ty * 32)).map fun e => readElement t (row + e / 32) (e % 32) ty
            match vectorResult s o 0 (packLanes ty (r.map (·.1))) 0 false with
            | .error e => .error e
            | .ok s1 =>
              let s2 := variableResult s1 o (BitVec.ofNat 64 ((r.map (·.1)).headD 0))
              .ok (modCore s2 o.c fun k => noteFlags k (flAll (r.map (·.2))))
  | .error e, _, _ => .error e
  | _, .error e, _ => .error e
  | _, _, .error e => .error e

/-- R364. An element written to a W row of exponent e. -/
def wideElement (ty x : Nat) (e : Int) : Option Int :=
  match elemValue ty x with
  | .fin n m xe _ => let q := floorTo n m xe e; if q.natAbs ≥ 2 ^ 44 then none else some q
  | _ => none

/-- R364. Rows written from lanes: the lowest row without headroom, else the tile and flags. -/
def writeRows (t : Tile) (row ty : Nat) (xs : List Nat) : Except Nat (Tile × Flags) :=
  let n := xs.length
  let put (f : Nat → Word) : Map Word := (List.range n).foldl (fun m e => Map.set m (32 * row + e) (f e)) t.words
  let conv (target : Nat) : Tile × Flags :=
    let r := xs.map (convertCode ty target)
    ({ t with words := put fun e => BitVec.ofNat 64 ((r.getD e (0, flNone)).1) }, flAll (r.map (·.2)))
  match t.mode with
  | .W =>
    let ws := (List.range n).map fun e => wideElement ty (xs.getD e 0) (t.exp (row + e / 32))
    match ws.findIdx? (· = none) with
    | some e => .error (row + e / 32)
    | none => .ok ({ t with words := put fun e => BitVec.ofInt 64 ((ws.getD e none).getD 0),
                            guards := (span row (n / 32)).foldl (fun m i => Map.set m i 1) t.guards }, flNone)
  | .F | .I32 => .ok (conv 0)
  | .I64 => .ok (conv 6)

/-- R364. MX.WR. -/
def opMxWr (o : OpIn) (s : State) : Res State :=
  match scOp s o 0, scOp s o 1, mxCtl s o, veVal o with
  | .ok x, .ok r, .ok c, .ok v =>
    let n := x.toNat % 16
    let ty := c.toNat % 16
    let row := r.toNat % 32
    match tileCheck s o (2 ^ n) true with
    | .error e => .error e
    | .ok _ =>
      if !(List.contains [0, 1, 2, 6, 8] ty) then illegalType o ty
      else if row % rowsPer ty ≠ 0 then raise tcMisaligned (BitVec.ofNat 64 row)
      else
        let k := coreOf s o.c
        if anyReserved k (2 ^ n) then block
        else match writeRows (tileOf k n) row ty ((lanes ty v).take (32 * rowsPer ty)) with
          | .error i => headroom i n
          | .ok (t, f) => .ok (modCore s o.c fun k => noteFlags (countTileOp (writeTile k n t) [n]) f)
  | .error e, _, _, _ => .error e
  | _, .error e, _, _ => .error e
  | _, _, .error e, _ => .error e
  | _, _, _, .error e => .error e

/-! ## BLD, WAIT and SOUND (R365 to R367) -/

/-- R366. MX.BLD: not gated (R183). -/
def opMxBld (o : OpIn) (s : State) : Res State :=
  match pathClear s o.c 3, scOp s o 0, veVal o with
  | .ok _, .ok r, .ok v =>
    match checkRef s o.c r 512 128 [4] with
    | .error e => .error e
    | .ok (.handle hc h off) => .ok (performEff s (.store hc h (atOffset off (bytesOf v.toNat 512))))
    | .ok _ => raise tcRefInvalid r
  | .error e, _, _ => .error e
  | _, .error e, _ => .error e
  | _, _, .error e => .error e

/-- R365. MX.WAIT. -/
def opMxWait (o : OpIn) (s : State) : Res State :=
  let k := coreOf s o.c
  if !k.flight.isEmpty || !k.reserved.isEmpty || (s.cmds.any fun c => c.core = o.c && c.wp = k.wp && c.kind = .getm) then block
  else .ok s

/-- R259. Next(x). -/
def soundNext (x : BitVec 32) : BitVec 32 :=
  let x1 := x ^^^ (x <<< 13)
  let x2 := x1 ^^^ (x1 >>> 17)
  x2 ^^^ (x2 <<< 5)

/-- R259. n draws from a state, and the state after them. -/
def soundDraws : (n : Nat) → BitVec 32 → List (BitVec 32) × BitVec 32
  | 0, x => ([], x)
  | n + 1, x =>
    let y := soundNext x
    let (l, z) := soundDraws n y
    (y :: l, z)

/-- R259, R260. The checksum of a Sounding. -/
def soundChecksum (seed : BitVec 32) (tern : Bool) : Word :=
  let (da, x) := soundDraws 1024 (if seed = 0#32 then 1#32 else seed)
  let (db, _) := soundDraws 1024 x
  let a := da.map fun d => if tern then intOf 7 (d.toNat % 4) else signed d.toNat 8
  let b := db.map fun d => signed d.toNat 8
  let rows := (List.range 32).map fun i => (a.drop (32 * i)).take 32
  let cols := (List.range 32).map fun j => (List.range 32).map fun k => b.getD (32 * k + j) 0
  let c (i j : Nat) : Int := ((rows.getD i []).zip (cols.getD j [])).foldl (fun acc p => acc + p.1 * p.2) 0
  BitVec.ofInt 64 ((List.range 1024).foldl (fun acc n => acc + c (n / 32) (n % 32) * (n + 1 : Nat)) 0)

/-- R367. MX.SOUND: a checksum that differs is a machine check. -/
def opMxSound (o : OpIn) (s : State) : Res State :=
  match scOp s o 0, mxCtl s o, scVal o with
  | .ok x, .ok c, .ok chk =>
    let tern := c.getLsbD 8
    if soundChecksum (x.truncate 32) tern = chk then .ok s else raise tcSounding (if tern then 1#64 else 0#64)
  | .error e, _, _ => .error e
  | _, .error e, _ => .error e
  | _, _, .error e => .error e

/-! ## The meanings -/

/-- MX.TID. -/
def execMxTid (m : MoveF) (s : State) : Out := runTrigger opMxTid 0x810#12 m s
/-- MX.MODE. -/
def execMxMode (m : MoveF) (s : State) : Out := runTrigger opMxMode 0x811#12 m s
/-- MX.ZERO. -/
def execMxZero (m : MoveF) (s : State) : Out := runTrigger opMxZero 0x812#12 m s
/-- MX.SETE. -/
def execMxSete (m : MoveF) (s : State) : Out := runTrigger opMxSete 0x813#12 m s
/-- MX.MMA. -/
def execMxMma (m : MoveF) (s : State) : Out := runTrigger opMxMma 0x814#12 m s
/-- MX.MMAT. -/
def execMxMmat (m : MoveF) (s : State) : Out := runTrigger opMxMmat 0x815#12 m s
/-- MX.NRM. -/
def execMxNrm (m : MoveF) (s : State) : Out := runTrigger opMxNrm 0x816#12 m s
/-- MX.RD. -/
def execMxRd (m : MoveF) (s : State) : Out := runTrigger opMxRd 0x817#12 m s
/-- MX.WR. -/
def execMxWr (m : MoveF) (s : State) : Out := runTrigger opMxWr 0x818#12 m s
/-- MX.BLD. -/
def execMxBld (m : MoveF) (s : State) : Out := runTrigger opMxBld 0x819#12 m s
/-- MX.SEQ. -/
def execMxSeq (m : MoveF) (s : State) : Out := runTrigger opMxSeq 0x81A#12 m s
/-- MX.WAIT. -/
def execMxWait (m : MoveF) (s : State) : Out := runTrigger opMxWait 0x81B#12 m s
/-- MX.SOUND. -/
def execMxSound (m : MoveF) (s : State) : Out := runTrigger opMxSound 0x81C#12 m s

end Sys2Proof.Machine
end

