-- ==== Sys2Proof/Machine/Copy.lean ====
section
/-! DEFINITION. The copy unit CP (R368 to R383): the checks of a command at issue, its start, and the completion counters. -/
namespace Sys2Proof.Machine

/-! ## Commands at issue -/

/-- R348. The control port of CP and SA. -/
def cpCtl (s : State) (o : OpIn) : Res Word := scOp s o 14

/-- R182, R204. A command of core c on a path: its number, counter and region tag, and the commands that fences put before it. -/
def newCmd (s : State) (c : Nat) (kind : CmdKind) (ctl : Word) (path : Nat) : Cmd :=
  let k := coreOf s c
  { id := s.nextCmd, core := c, wp := k.wp, kind := kind, counter := ctl.toNat % 16,
    tag := if gating k then k.region.elim 0 fun r => r.tag else 0, after := fenceIds s c path }

/-- The numbers of the collective calls that a core runs. -/
def runningCalls (k : Core) : List Nat :=
  k.plans.filterMap fun p => p.2.call.bind fun x => if x.running then some x.id else none

/-- R369. An engine holds at most 64 commands of a core: a further one waits. -/
def queueRoom (s : State) (c : Nat) : Res Unit :=
  if (s.cmds.filter fun x => x.core = c && x.kind ≠ .sa && x.kind ≠ .fetch).length ≥ Config.maxCommands then block else .ok ()

/-- R183. A command leaves: through the gate of an open region where it is gated, else at once. -/
def issueCmd (s : State) (cmd : Cmd) (gated : Bool) : Res State :=
  let s1 := { s with nextCmd := s.nextCmd + 1 }
  if gated then effect s1 cmd.core (.copy cmd) else .ok (startCommand s1 cmd)

/-- R183. Is a destination solely the issuing core's own scratchpad? -/
def ownScratchpad (c : Nat) (t : Target) : Bool :=
  match t with
  | .handle hc _ _ => hc = c
  | .glob _ | .step _ _ => false

/-- R202, R371. n bytes at each of the offsets of a handle of core c marked EMPTY line by line, in program order with the core's
gated stores; and the lines. -/
def markFill (s : State) (c h : Nat) (offs : List Nat) (n : Nat) : State × List (Nat × Nat × Nat) :=
  let lines := dedup (offs.flatMap fun o => linesOf o n)
  let s1 := lines.foldl (fun s l => performEff s (.sete c h l 1)) s
  let s2 := modCore s1 c fun k =>
    if gating k then
      { k with region := k.region.map fun r => { r with gate := r.gate ++ offs.map fun o => Eff.mark c h o n } }
    else k
  (s2, lines.map fun l => (c, h, l))

/-- R371. A destination in the issuing core's own storage, of the given tags: REF_INVALID for any other. -/
def ownDest (c : Nat) (r : Word) (tags : List Nat) : Res Unit :=
  if !tags.contains (refTag r) || refCore r ≠ coreNo c then raise tcRefInvalid r else .ok ()

/-- R195, R369, R370. A reference of a copy of rows. -/
def copyRef (s : State) (c : Nat) (r : Word) (rows pitch n align : Nat) (tags : List Nat) : Res Target :=
  match checkRef s c r ((rows - 1) * pitch + n) align tags with
  | .ok (.step j off) =>
    let e := (stepDecl (coreLaunch s c) j).esize
    if (rows > 1 && pitch % e ≠ 0) || n % e ≠ 0 then raise tcMisaligned r else .ok (.step j off)
  | x => x

/-- R370. The bytes of a row and the pitches of a shape. -/
def shapeCheck (src dst shape : Word) (n : Nat) : Res Unit :=
  if n % 4 ≠ 0 || field shape.toNat 40 24 % 4 ≠ 0 then raise tcMisaligned dst
  else if field shape.toNat 16 24 % 4 ≠ 0 then raise tcMisaligned src
  else if n < 4 || n > 2 ^ 24 - 4 then raise tcHandleBounds dst
  else .ok ()

/-- R194. Spaces of a copy's source, and of the destinations that are not the core's own. -/
def cpTags : List Nat := [0, 1, 2, 3]

/-- R370, R371. The checks of a copy of rows: the place of its destination. `own` are the tags of a destination that must be the
core's own. -/
def copyChecks (s : State) (c : Nat) (src dst shape : Word) (n : Nat) (own : Option (List Nat)) : Res Target :=
  let rows := field shape.toNat 0 16 + 1
  match shapeCheck src dst shape n with
  | .error e => .error e
  | .ok _ =>
    match copyRef s c src rows (field shape.toNat 16 24) n 4 cpTags with
    | .error e => .error e
    | .ok _ =>
      match own.elim (.ok ()) (ownDest c dst) with
      | .error e => .error e
      | .ok _ => copyRef s c dst rows (field shape.toNat 40 24) n 4 (own.getD cpTags)

/-- R368. Source, destination and shape at ports o0, o1 and a third, the bytes of a row and the control port. -/
def copyOperands (s : State) (o : OpIn) (shapePort : Nat) : Res (Word × Word × Word × Nat × Word) :=
  match scOp s o 0, scOp s o 1, scOp s o shapePort, cpCtl s o, scVal o with
  | .ok a, .ok b, .ok sh, .ok c, .ok n => .ok (a, b, sh, n.toNat, c)
  | .error e, _, _, _, _ => .error e
  | _, .error e, _, _, _ => .error e
  | _, _, .error e, _, _ => .error e
  | _, _, _, .error e, _ => .error e
  | _, _, _, _, .error e => .error e

/-- R371. A copy that fills the core's own storage: its lines marked, its command started. -/
def startFill (s : State) (cmd : Cmd) (t : Target) (offs : List Nat) (n : Nat) : Res State :=
  match t with
  | .handle hc h off =>
    let (s1, lines) := markFill s hc h (offs.map (off + ·)) n
    issueCmd s1 { cmd with unfilled := lines } false
  | .glob _ | .step _ _ => raise tcRefInvalid cmd.dst

/-- R371, R372. CP.GET and CP.PREF. -/
def fillCopy (kind : CmdKind) (o : OpIn) (s : State) : Res State :=
  match copyOperands s o 2 with
  | .error e => .error e
  | .ok (src, dst, shape, n, ctl) =>
    match copyChecks s o.c src dst shape n (some [1, 4]), queueRoom s o.c with
    | .error e, _ => .error e
    | _, .error e => .error e
    | .ok t, .ok _ =>
      let cmd := { newCmd s o.c kind ctl 2 with src := src, dst := dst, shape := shape, n := n }
      startFill s cmd t ((rowsOf shape).map (·.2)) n

/-- R371. CP.GET. -/
def opCpGet : OpIn → State → Res State := fillCopy .get
/-- R372. CP.PREF. -/
def opCpPref : OpIn → State → Res State := fillCopy .pref

/-- R371. CP.PUT. -/
def opCpPut (o : OpIn) (s : State) : Res State :=
  match copyOperands s o 2 with
  | .error e => .error e
  | .ok (src, dst, shape, n, ctl) =>
    match copyChecks s o.c src dst shape n none, queueRoom s o.c with
    | .error e, _ => .error e
    | _, .error e => .error e
    | .ok t, .ok _ =>
      issueCmd s { newCmd s o.c .put ctl 2 with src := src, dst := dst, shape := shape, n := n, one := ctl.getLsbD 4 }
        (!ownScratchpad o.c t)

/-- R373. The counts of a gather or scatter: index count, row bytes and table stride. -/
def indexCheck (dst : Word) (count rb stride : Nat) : Res Unit :=
  if rb % 4 ≠ 0 || stride % 4 ≠ 0 then raise tcMisaligned dst
  else if count = 0 || count > 4096 || rb = 0 then raise tcHandleBounds dst
  else .ok ()

/-- R368, R373. The operands of a gather or scatter as a command. -/
def indexedCmd (s : State) (o : OpIn) (kind : CmdKind) : Res Cmd :=
  match copyOperands s o 2, scOp s o 3 with
  | .ok (a, b, ix, n, ctl), .ok rs =>
    .ok { newCmd s o.c kind ctl 2 with
      src := a, dst := b, idx := ix, n := n, rb := field rs.toNat 0 24, stride := field rs.toNat 24 40, wide := ctl.getLsbD 6,
      one := ctl.getLsbD 4 }
  | .error e, _ => .error e
  | _, .error e => .error e

/-- R213, R373. The index list and the table of a gather or scatter; the rows of a step region are whole elements. -/
def listAndTable (s : State) (cmd : Cmd) (table : Word) : Res Unit :=
  match checkRef s cmd.core cmd.idx (cmd.n * if cmd.wide then 8 else 4) 4 [0, 1, 2] with
  | .error e => .error e
  | .ok _ =>
    match checkRef s cmd.core table 0 4 cpTags with
    | .error e => .error e
    | .ok (.step j _) =>
      let e := (stepDecl (coreLaunch s cmd.core) j).esize
      if cmd.rb % e ≠ 0 || cmd.stride % e ≠ 0 then raise tcMisaligned table else .ok ()
    | .ok (.handle _ _ _) | .ok (.glob _) => .ok ()

/-- R373. CP.GETG. -/
def opCpGetg (o : OpIn) (s : State) : Res State :=
  match indexedCmd s o .getg with
  | .error e => .error e
  | .ok cmd =>
    match indexCheck cmd.dst cmd.n cmd.rb cmd.stride, listAndTable s cmd cmd.src, ownDest o.c cmd.dst [1, 4],
          checkRef s o.c cmd.dst (cmd.n * cmd.rb) 4 [1, 4], queueRoom s o.c with
    | .error e, _, _, _, _ => .error e
    | _, .error e, _, _, _ => .error e
    | _, _, .error e, _, _ => .error e
    | _, _, _, .error e, _ => .error e
    | _, _, _, _, .error e => .error e
    | .ok _, .ok _, .ok _, .ok t, .ok _ => startFill s cmd t [0] (cmd.n * cmd.rb)

/-- R373. CP.PUTG: its source is the core's own scratchpad. -/
def opCpPutg (o : OpIn) (s : State) : Res State :=
  match indexedCmd s o .putg with
  | .error e => .error e
  | .ok cmd =>
    match indexCheck cmd.dst cmd.n cmd.rb cmd.stride, ownDest o.c cmd.src [1, 2],
          checkRef s o.c cmd.src (cmd.n * cmd.rb) 4 [1, 2], listAndTable s cmd cmd.dst, queueRoom s o.c with
    | .error e, _, _, _, _ => .error e
    | _, .error e, _, _, _ => .error e
    | _, _, .error e, _, _ => .error e
    | _, _, _, .error e, _ => .error e
    | _, _, _, _, .error e => .error e
    | .ok _, .ok _, .ok _, .ok _, .ok _ =>
      issueCmd s cmd (!(refTag cmd.dst ≠ 0 && refTag cmd.dst ≠ 3 && refCore cmd.dst = coreNo o.c))

/-- R374. CP.ACC. -/
def opCpAcc (o : OpIn) (s : State) : Res State :=
  match copyOperands s o 2 with
  | .error e => .error e
  | .ok (src, dst, ex, n, ctl) =>
    let f32 := ctl.getLsbD 5
    if n = 0 || n ≥ 2 ^ 21 then raise tcHandleBounds dst
    else match copyRef s o.c src 1 0 (n * if f32 then 4 else 8) 4 cpTags, copyRef s o.c dst 1 0 (8 * n) 4 cpTags,
               queueRoom s o.c with
      | .error e, _, _ => .error e
      | _, .error e, _ => .error e
      | _, _, .error e => .error e
      | .ok _, .ok t, .ok _ =>
        let regionOk : Bool := match t with
          | .step j _ => let d := stepDecl (coreLaunch s o.c) j; d.rule = 1 && d.fxw
          | .handle _ _ _ | .glob _ => true
        if !regionOk then raise tcRefInvalid dst
        else issueCmd s { newCmd s o.c .acc ctl 2 with
            src := src, dst := dst, n := n, f32 := f32, exp := signed ex.toNat 16 } (!ownScratchpad o.c t)

/-- R375. Does an ordering acquire (1, 3) or release (2, 3)? -/
def acquires (order : Nat) : Bool := order = 1 || order = 3
def releases (order : Nat) : Bool := order = 2 || order = 3

/-- R375, R223. CP.ATOM: a release waits for the waypoint's outstanding commands, an acquire holds its later accesses. -/
def opCpAtom (o : OpIn) (s : State) : Res State :=
  match scOp s o 0, scOp s o 1, cpCtl s o, scVal o with
  | .ok a, .ok cmp, .ok ctl, .ok v =>
    let w := if ctl.getLsbD 9 then 4 else 8
    let code := field ctl.toNat 10 4
    let order := field ctl.toNat 14 2
    if code > 10 then illegalType o code
    else match checkRef s o.c a w w [0], queueRoom s o.c, closing s o.c with
      | .error e, _, _ => .error e
      | _, .error e, _ => .error e
      | _, _, .error e => .error e
      | .ok _, .ok _, .ok _ =>
        let base := newCmd s o.c .atom ctl 2
        let cmd := { base with
          src := a, ctl := ctl, opa := v, opb := cmp,
          after := if releases order then ((cmdsOf s base.wp).map fun c => c.id) ++ runningCalls (coreOf s o.c) else base.after }
        let s1 := modCore s o.c fun k =>
          let k1 := issuePending k (resultKey 9) cmd.id
          if acquires order then { k1 with fences := k1.fences ++ [([cmd.id], 0x7F#7)] } else k1
        issueCmd s1 cmd false
  | .error e, _, _, _ => .error e
  | _, .error e, _, _ => .error e
  | _, _, .error e, _ => .error e
  | _, _, _, .error e => .error e

/-- R377, R378. A command that writes 16 bytes at a LOCAL destination. -/
def sixteenBytes (s : State) (o : OpIn) (cmd : Cmd) (align : Nat) (result : Bool) : Res State :=
  match checkRef s o.c cmd.dst 16 align [1], queueRoom s o.c, closing s o.c with
  | .error e, _, _ => .error e
  | _, .error e, _ => .error e
  | _, _, .error e => .error e
  | .ok t, .ok _, .ok _ =>
    let s1 := if result then modCore s o.c fun k => issuePending k (resultKey 9) cmd.id else s
    startFill s1 cmd t [0] 16

/-- R378. CP.CFA. -/
def opCpCfa (o : OpIn) (s : State) : Res State :=
  match scOp s o 0, cpCtl s o, scVal o with
  | .ok d, .ok ctl, .ok dst =>
    (match checkRef s o.c d 32 32 [0] with
      | .error e => .error e
      | .ok _ => sixteenBytes s o { newCmd s o.c .cfa ctl 2 with src := d, dst := dst, n := 16 } 4 true)
  | .error e, _, _ => .error e
  | _, .error e, _ => .error e
  | _, _, .error e => .error e

/-- R377. CP.RECOV. -/
def opCpRecov (o : OpIn) (s : State) : Res State :=
  match scOp s o 0, scOp s o 1, cpCtl s o, scVal o with
  | .ok a, .ok dst, .ok ctl, .ok tok =>
    (match checkRef s o.c a 4 4 [0] with
      | .error e => .error e
      | .ok _ => sixteenBytes s o { newCmd s o.c .recov ctl 2 with src := a, dst := dst, n := 16, opa := tok } 16 false)
  | .error e, _, _, _ => .error e
  | _, .error e, _, _ => .error e
  | _, _, .error e, _ => .error e
  | _, _, _, .error e => .error e

/-- R383. The size of the page that holds an address, as the engine translates it. -/
def pageSizeAt (s : State) (c va : Nat) : Nat :=
  match walk s (coreLaunch s c).ptroot va 4 1 with
  | .ok (level, _, _) => pageBytes level
  | .error _ => 65536

/-- R383. CP.MIG. -/
def opCpMig (o : OpIn) (s : State) : Res State :=
  match scOp s o 0, scOp s o 1, cpCtl s o, scVal o with
  | .ok page, .ok plc, .ok ctl, .ok pa =>
    let size := pageSizeAt s o.c (refVa page)
    if !(coreLaunch s o.c).sys then raise tcPrivilege (o.port.zeroExtend 64)
    else match checkRef s o.c page 1 size [0], queueRoom s o.c, closing s o.c with
      | .error e, _, _ => .error e
      | _, .error e, _ => .error e
      | _, _, .error e => .error e
      | .ok _, .ok _, .ok _ =>
        if plc.toNat % 16 = 0 || plc.toNat % 16 > 8 then raise tcRefInvalid page
        else if pa.toNat % size ≠ 0 then raise tcMisaligned pa
        else
          let cmd := { newCmd s o.c .mig ctl 2 with src := page, opa := pa, opb := plc }
          issueCmd (modCore s o.c fun k => issuePending k (resultKey 9) cmd.id) cmd false
  | .error e, _, _, _ => .error e
  | _, .error e, _, _ => .error e
  | _, _, .error e, _ => .error e
  | _, _, _, .error e => .error e

/-- R380. CP.GETM: the checks of the copy and of the follow-on, whose tile it reserves (R381). -/
def opCpGetm (o : OpIn) (s : State) : Res State :=
  match copyOperands s o 5, scOp s o 2, scOp s o 3, scOp s o 4, scOp s o 6 with
  | .ok (src, dst, shape, n, ctl), .ok a, .ok b, .ok mx, .ok batch =>
    let p := tileOpOf a b batch mx
    let mode := (tileOf (coreOf s o.c) p.tile).mode
    match copyChecks s o.c src dst shape n (some [1, 4]), tileCheck s o (2 ^ p.tile) true,
          checkTileOp s o p (mx.getLsbD 63) [1, 2] mode, queueRoom s o.c with
    | .error e, _, _, _ => .error e
    | _, .error e, _, _ => .error e
    | _, _, .error e, _ => .error e
    | _, _, _, .error e => .error e
    | .ok t, .ok _, .ok (x, s1), .ok _ =>
      if mode ≠ .W then illegalType o x.a.fmt
      else
        let k := coreOf s1 o.c
        let cmd := { newCmd s1 o.c .getm ctl 2 with
          src := src, dst := dst, shape := shape, n := n,
          follow := some { a := a, b := b, batch := batch, ctl := mx, seqNo := k.mxNo, ids := k.tids } }
        let s2 := modCore s1 o.c fun k =>
          countTileOp { k with reserved := k.reserved ++ [(p.tile, k.mxNo, cmd.id)] } []
        startFill s2 cmd t ((rowsOf shape).map (·.2)) n
  | .error e, _, _, _, _ => .error e
  | _, .error e, _, _, _ => .error e
  | _, _, .error e, _, _ => .error e
  | _, _, _, .error e, _ => .error e
  | _, _, _, _, .error e => .error e

/-- R380. The operands of a follow-on from the identifier copies of the GETM. -/
def followOperands (f : FollowOn) : Operands :=
  let p := tileOpOf f.a f.b f.batch f.ctl
  let tensor (n : Nat) : Tensor := tensorOf (Map.get f.ids n 0#256)
  let scale (t : Tensor) : Option Tensor := if t.scaled then some (tensor t.sct) else none
  { op := p, a := tensor p.ta, sa := scale (tensor p.ta), b := tensor p.tb, sb := scale (tensor p.tb) }

/-- R380, R398. The references that a command's follow-on reads. -/
def followRefs (c : Cmd) : List Word :=
  c.follow.elim [] fun f =>
    let x := followOperands f
    [x.a.base, x.b.base] ++ (x.sa.toList ++ x.sb.toList).map fun t => t.base

/-! ## Counters (R204, R379) -/

/-- A completion counter of a core. -/
def counterOf (k : Core) (n : Nat) : BitVec 32 := Map.get k.counters n 0#32
def setCounter (k : Core) (n : Nat) (x : BitVec 32) : Core := { k with counters := Map.set k.counters n x }

/-- R379. A counter's value into b.cp. -/
def counterResult (s : State) (o : OpIn) (x : BitVec 32) : State := variableResult s o (x.zeroExtend 64)

/-- R379. CP.WAITC. -/
def opCpWaitc (o : OpIn) (s : State) : Res State :=
  match scOp s o 0, cpCtl s o, scVal o with
  | .ok r, .ok ctl, .ok v =>
    let n := r.toNat % 16
    let x := counterOf (coreOf s o.c) n
    let d := (x.toNat % 2 ^ 24 + 2 ^ 24 - v.toNat % 2 ^ 24) % 2 ^ 24
    if d ≥ 2 ^ 23 then block
    else
      let s1 := counterResult s o x
      .ok (if ctl.getLsbD 7 then modCore s1 o.c fun k => setCounter k n (BitVec.ofNat 32 d) else s1)
  | .error e, _, _ => .error e
  | _, .error e, _ => .error e
  | _, _, .error e => .error e

/-- R379. CP.STAT. -/
def opCpStat (o : OpIn) (s : State) : Res State :=
  match scOp s o 0, cpCtl s o, scVal o with
  | .ok v, .ok ctl, .ok c =>
    let n := c.toNat % 16
    let s1 := if ctl.getLsbD 8 then modCore s o.c fun k => setCounter k n (v.truncate 32 &&& 0x7FFFFFFF#32) else s
    .ok (counterResult s1 o (counterOf (coreOf s1 o.c) n))
  | .error e, _, _ => .error e
  | _, .error e, _ => .error e
  | _, _, .error e => .error e

/-- R379. CP.DRAIN. -/
def opCpDrain (o : OpIn) (s : State) : Res State :=
  match closing s o.c with
  | .error e => .error e
  | .ok _ => if s.cmds.any fun c => c.core = o.c && c.wp = (coreOf s o.c).wp && c.kind ≠ .sa && c.kind ≠ .fetch then block else .ok s

/-! ## The meanings -/

/-- CP.GET. -/
def execCpGet (m : MoveF) (s : State) : Out := runTrigger opCpGet 0x910#12 m s
/-- CP.PUT. -/
def execCpPut (m : MoveF) (s : State) : Out := runTrigger opCpPut 0x911#12 m s
/-- CP.GETG. -/
def execCpGetg (m : MoveF) (s : State) : Out := runTrigger opCpGetg 0x912#12 m s
/-- CP.PUTG. -/
def execCpPutg (m : MoveF) (s : State) : Out := runTrigger opCpPutg 0x913#12 m s
/-- CP.ACC. -/
def execCpAcc (m : MoveF) (s : State) : Out := runTrigger opCpAcc 0x914#12 m s
/-- CP.GETM. -/
def execCpGetm (m : MoveF) (s : State) : Out := runTrigger opCpGetm 0x915#12 m s
/-- CP.ATOM. -/
def execCpAtom (m : MoveF) (s : State) : Out := runTrigger opCpAtom 0x916#12 m s
/-- CP.CFA. -/
def execCpCfa (m : MoveF) (s : State) : Out := runTrigger opCpCfa 0x917#12 m s
/-- CP.WAITC. -/
def execCpWaitc (m : MoveF) (s : State) : Out := runTrigger opCpWaitc 0x918#12 m s
/-- CP.DRAIN. -/
def execCpDrain (m : MoveF) (s : State) : Out := runTrigger opCpDrain 0x919#12 m s
/-- CP.PREF. -/
def execCpPref (m : MoveF) (s : State) : Out := runTrigger opCpPref 0x91A#12 m s
/-- CP.STAT. -/
def execCpStat (m : MoveF) (s : State) : Out := runTrigger opCpStat 0x91B#12 m s
/-- CP.RECOV. -/
def execCpRecov (m : MoveF) (s : State) : Out := runTrigger opCpRecov 0x91C#12 m s
/-- CP.MIG. -/
def execCpMig (m : MoveF) (s : State) : Out := runTrigger opCpMig 0x91D#12 m s

end Sys2Proof.Machine
end

