-- ==== Sys2Proof/Machine/Scatter.lean ====
section
/-! DEFINITION. The scatter-accumulate unit SA (R384, R385). -/
namespace Sys2Proof.Machine

/-- R384. Bytes of a destination element of a value type (0 I32, 1 I64, 2 FXW, 3 F32). -/
def saElement (ty : Nat) : Nat := if ty = 0 then 4 else 8

/-- R385. Does a step region take updates of an operation and a value type? -/
def saRegionOk (d : StepDecl) (op ty : Nat) : Bool :=
  d.rule = 1 && op = 0 &&
  (match ty with
    | 0 => d.esize = 4
    | 1 => d.esize = 8 && !d.fxw
    | _ => d.fxw)

/-- R385. The exponent of .f32 values for a base: the region's, else the operand's. -/
def saBase (s : State) (c : Nat) (base : Word) (op ty : Nat) (e : Int) : Res Int :=
  if refTag base = 3 then
    match checkRef s c base 0 1 memTags with
    | .error x => .error x
    | .ok _ =>
      let d := stepDecl (coreLaunch s c) (refRegion base)
      if saRegionOk d op ty then .ok d.exp.toInt else raise tcRefInvalid base
  else .ok e

/-- R385. The value that a pair contributes and the status it gives: 2 for a NaN, which contributes none, 1 for a saturation. -/
def saValue (ty x : Nat) (e : Int) : Option Int × Nat :=
  if ty = 3 then
    if isNaN 0 x then (none, 2)
    else
      let (v, _, sat, _) := fxwFrom 0 x e
      (some v, if sat then 1 else 0)
  else (some (signed x (8 * saElement ty)), 0)

/-- R385. Pairs checked in order: their places. -/
def saPlaces (s : State) (c : Nat) (base : Word) (size : Nat) : List Nat → Res (List Loc)
  | [] => .ok []
  | i :: is =>
    match elementRef base i size with
    | .error e => .error e
    | .ok r =>
      match checkRef s c r size size memTags with
      | .error e => .error e
      | .ok t =>
        match saPlaces s c base size is with
        | .error e => .error e
        | .ok l => match t with
          | .handle hc h off => .ok (Loc.spad hc h off :: l)
          | .step j off => .ok (Loc.step (coreOf s c).wp.launch j off :: l)
          | .glob _ => raise tcRefInvalid r

/-- R385. Pairs of an index and a raw value pushed as one command. -/
def saIssue (s : State) (o : OpIn) (base ctl : Word) (e : Int) (pairs : List (Nat × Nat)) (gated : Bool) : Res State :=
  let op := field ctl.toNat 4 2
  let ty := field ctl.toNat 6 2
  match saBase s o.c base op ty e, saPlaces s o.c base (saElement ty) (pairs.map (·.1)) with
  | .error x, _ => .error x
  | _, .error x => .error x
  | .ok ex, .ok ls =>
    let vs := pairs.map fun p => saValue ty p.2 ex
    issueCmd s { newCmd s o.c .sa ctl 4 with
      dst := base, saOp := op, saBytes := saElement ty, status := vs.foldl (fun m v => max m v.2) 0,
      updates := (ls.zip vs).filterMap fun p => p.2.1.map fun v => (p.1, v) } gated

/-- R384. The base reference, the exponent and the control port; update operation 3 is no operation, and the base must be LOCAL,
CLUSTER or STEP. -/
def saOperands (s : State) (o : OpIn) : Res (Word × Int × Word) :=
  match scOp s o 0, scOp s o 3, cpCtl s o with
  | .ok b, .ok e, .ok c =>
    if field c.toNat 4 2 = 3 then illegalType o 3
    else if !wellFormedRef b || !memTags.contains (refTag b) then raise tcRefInvalid b
    else .ok (b, signed e.toNat 16, c)
  | .error e, _, _ => .error e
  | _, .error e, _ => .error e
  | _, _, .error e => .error e

/-- R384. SA.OP: one update, not gated (R183). -/
def opSaOp (o : OpIn) (s : State) : Res State :=
  match saOperands s o, scOp s o 1, scVal o with
  | .ok (b, e, c), .ok i, .ok v => saIssue s o b c e [(i.toNat % 2 ^ 32, v.toNat)] false
  | .error e, _, _ => .error e
  | _, .error e, _ => .error e
  | _, _, .error e => .error e

/-- R384. The pairs of a push, from the lowest lanes, those of the skip mask left out. -/
def pushPairs (ty : Nat) (ix v : Vec) (skip : LaneMask) : List (Nat × Nat) :=
  let n := if ty = 1 ∨ ty = 2 then 64 else 128
  let vals := sizedLanes (if n = 64 then 8 else 4) v
  let idx := sizedLanes 4 ix
  ((List.range n).filter fun j => !skip.getLsbD j).map fun j => (idx.getD j 0, vals.getD j 0)

/-- R384, R385. SA.PUSH. -/
def opSaPush (o : OpIn) (s : State) : Res State :=
  match saOperands s o, veOp s o 1, maOp s o 2, veVal o with
  | .ok (b, e, c), .ok ix, .ok skip, .ok v => saIssue s o b c e (pushPairs (field c.toNat 6 2) ix v skip) true
  | .error e, _, _, _ => .error e
  | _, .error e, _, _ => .error e
  | _, _, .error e, _ => .error e
  | _, _, _, .error e => .error e

/-- R385. SA.FLUSH. -/
def opSaFlush (o : OpIn) (s : State) : Res State :=
  match closing s o.c with
  | .error e => .error e
  | .ok _ => if s.cmds.any fun c => c.core = o.c && c.wp = (coreOf s o.c).wp && c.kind = .sa then block else .ok s

/-! ## The meanings -/

/-- SA.OP. -/
def execSaOp (m : MoveF) (s : State) : Out := runTrigger opSaOp 0xA10#12 m s
/-- SA.PUSH. -/
def execSaPush (m : MoveF) (s : State) : Out := runTrigger opSaPush 0xA11#12 m s
/-- SA.FLUSH. -/
def execSaFlush (m : MoveF) (s : State) : Out := runTrigger opSaFlush 0xA12#12 m s

end Sys2Proof.Machine
end

