-- ==== Sys2Proof/Machine/Rg.lean ====
section
/-! DEFINITION. The register and ring unit RG but for its collective calls (R387, R396 to R408): handles, capacities, station
flags, Almanac writes, steps, barriers, fences and drains. -/
namespace Sys2Proof.Machine

/-- R387. The control port of RG. -/
def rgCtl (s : State) (o : OpIn) : Res Word := scOp s o 12

/-! ## Handles (R396 to R400) -/

/-- R193. A reference to the start of a handle: LOCAL (1) or OPERAND (4). -/
def refTo (tag core h : Nat) : Word := BitVec.ofNat 64 (tag * 2 ^ 60 + core * 2 ^ 54 + h * 2 ^ 46)

/-- R397. Lines of a handle written zero and FULL. -/
def zeroHandle (k : Core) (h : Handle) : Core :=
  (List.range (h.size / 128)).foldl (fun k l =>
    setLine (setStorage k h.level (zeroRange (storage k h.level) (handleByte k h (128 * l)) 128)) h l .full) k

/-- R397. HAlloc: its answer and the state after it. -/
def allocate (s : State) (c h rows cols : Nat) (ty : BitVec 4) (lvl : Level) : Word × State :=
  let k := coreOf s c
  if rows = 0 || rows > 65535 || cols = 0 || cols > 65535 then (0xF000000000000003#64, s)
  else
    let size := rows * pitchOf ty.toNat cols
    let nb := ceilDiv size (bankBytes lvl)
    let free := freeBanks k lvl
    if size > 2 ^ 24 then (0xF000000000000003#64, s)
    else if (Map.find k.handles h).isSome then (0xF000000000000002#64, s)
    else if free.length < nb then (0xF000000000000001#64, s)
    else
      let hd : Handle := { owner := k.wp, level := lvl, ty := ty, rows := rows, cols := cols, banks := free.take nb }
      (refTo (match lvl with | .spad => 1 | .opd => 4) (coreNo c) h,
       modCore s c fun k => zeroHandle { k with handles := Map.set k.handles h hd } hd)

/-- R397. HALLOC. -/
def opRgHalloc (o : OpIn) (s : State) : Res State :=
  match scOp s o 0, scOp s o 1, rgCtl s o, scVal o, closing s o.c with
  | .ok h, .ok rows, .ok ctl, .ok cols, .ok _ =>
    let r := allocate s o.c (h.toNat % 256) rows.toNat cols.toNat (ctl.extractLsb' 8 4) (if ctl.getLsbD 4 then .opd else .spad)
    .ok (variableResult r.2 o r.1)
  | .error e, _, _, _, _ => .error e
  | _, .error e, _, _, _ => .error e
  | _, _, .error e, _, _ => .error e
  | _, _, _, .error e, _ => .error e
  | _, _, _, _, .error e => .error e

/-- R398. Does a reference lead into handle h of core c? -/
def refNames (s : State) (c h : Nat) (l : Launch) (r : Word) : Bool :=
  match refTag r with
  | 1 | 4 => refCore r = coreNo c && refHandle r = h
  | 2 => refCore r = coreNo c && refHandle r = h
  | 3 => (stepDecl l (refRegion r)).loc ≠ 2 && stepHolder (stepDecl l (refRegion r)) (dieOf c) = (c, h) && (handleOf s c h).isSome
  | _ => false

/-- R398. Has core c a command in progress that accesses its handle h? -/
def handleBusy (s : State) (c h : Nat) : Bool :=
  s.cmds.any fun x => x.core = c &&
    (([x.src, x.dst, x.idx] ++ followRefs x).any (refNames s c h (launchOf s x.wp.launch)) || (x.unfilled.any fun u => u.1 = c && u.2.1 = h) ||
      (x.updates.any fun u => match u.1 with
        | .spad a b _ => a = c && b = h
        | _ => false))

/-- R398. HFREE. -/
def opRgHfree (o : OpIn) (s : State) : Res State :=
  match scVal o with
  | .error e => .error e
  | .ok v =>
    let h := v.toNat % 256
    let r := refTo 1 (coreNo o.c) h
    match Map.find (coreOf s o.c).handles h with
    | none => raise tcHandleBounds r
    | some hd =>
      if hd.owner ≠ (coreOf s o.c).wp then raise tcForeignHandle r
      else match closing s o.c with
        | .error e => .error e
        | .ok _ => if handleBusy s o.c h then block else .ok (releaseHandles s o.c fun n _ => n = h)

/-- R399. The word of a handle-table entry. -/
def handleInfo (k : Core) (h : Nat) : Word :=
  match Map.find k.handles h with
  | none => 0#64
  | some hd =>
    if hd.owner ≠ k.wp then 0x8000#64
    else BitVec.ofNat 64 (2 ^ 63 + (if hd.level = .opd then 2 ^ 62 else 0) + hd.ty.toNat * 2 ^ 58 + hd.banks.length % 1024 * 2 ^ 48 +
      hd.rows % 65536 * 2 ^ 32 + hd.cols % 65536 * 2 ^ 16)
/-- R399. HINFO. -/
def opRgHinfo (o : OpIn) (s : State) : Res State :=
  match scVal o with
  | .error e => .error e
  | .ok v => .ok (variableResult s o (handleInfo (coreOf s o.c) (v.toNat % 256)))

/-- R400. The quantity that a selector names. -/
def capQuantity (s : State) (c sel : Nat) : Nat :=
  let k := coreOf s c
  match sel with
  | 0 => capacity k .spad
  | 1 => capacity k .opd
  | 2 => capVreg k
  | 3 => capTiles k
  | 4 => (freeBanks k .spad).length
  | 5 => (freeBanks k .opd).length
  | 6 => banksOf s c .spad k.wp
  | 7 => banksOf s c .opd k.wp
  | _ => 0
/-- R400. CAP. -/
def opRgCap (o : OpIn) (s : State) : Res State :=
  match scVal o with
  | .error e => .error e
  | .ok v => .ok (variableResult s o (BitVec.ofNat 64 (capQuantity s o.c (v.toNat % 16))))

/-! ## Station flags (R401, R402) -/

/-- R401. The station that the control port selects. -/
def flagStation (c : Nat) (ctl : Word) : Nat :=
  if ctl.getLsbD 0 then 16 else 2 * dieOf c + (if ctl.getLsbD 1 then 1 else 0)

/-- R401. Station, flag, and whether the flag is granted; the operation waits while a fence holds the ST path. -/
def flagOperands (s : State) (o : OpIn) : Res (Nat × Nat × Bool × Word) :=
  match rgCtl s o, scVal o, pathClear s o.c 5 with
  | .ok ctl, .ok v, .ok _ =>
    let k := flagStation o.c ctl
    .ok (k, v.toNat % 64, flagGranted (coreLaunch s o.c) k (v.toNat % 64), ctl)
  | .error e, _, _ => .error e
  | _, .error e, _ => .error e
  | _, _, .error e => .error e

/-- R402. WAITF. -/
def opRgWaitf (o : OpIn) (s : State) : Res State :=
  match flagOperands s o with
  | .error e => .error e
  | .ok (k, f, granted, ctl) =>
    if !granted then .ok (variableResult s o 8#64)
    else if (station s k).passThrough || !(flagOf s k f).set then block
    else
      let r := variableResult s o (BitVec.ofNat 64 (flagOf s k f).status)
      .ok (if ctl.getLsbD 2 then clearFlag r k f else r)

/-- R401, R402. POST and CLR: a change of a granted flag at a station that is not in pass-through. -/
def changeFlag (f : State → Nat → Nat → State) (o : OpIn) (s : State) : Res State :=
  match flagOperands s o, closing s o.c with
  | .ok (k, n, granted, _), .ok _ =>
    .ok (if !granted then variableResult s o 8#64
      else if (station s k).passThrough then variableResult s o 9#64
      else variableResult (f s k n) o 0#64)
  | .error e, _ => .error e
  | _, .error e => .error e
/-- R402. POST. -/
def opRgPost : OpIn → State → Res State := changeFlag fun s k n => setFlag s k n 0
/-- R402. CLR. -/
def opRgClr : OpIn → State → Res State := changeFlag clearFlag

/-! ## Almanac writes (R403, R404) -/

/-- R403. The station of a stream's entries for core c, under .m. -/
def streamStation (c : Nat) (x : StreamReq) (paired : Bool) : Nat :=
  match x.ring with
  | .equator => 16
  | .meridian => 2 * dieOf c + (if paired then 1 else 0)

/-- R403, R404, R425. The stream and station that an ALM names: ALMANAC_OWNER where the stream is not the launch's or is a CHAIN
stream, or the station is in pass-through. -/
def almStream (s : State) (o : OpIn) (w ctl : Word) : Res (StreamReq × Nat) :=
  let i := w.toNat % 32
  match (coreLaunch s o.c).streams[i]? with
  | none => raise tcAlmanacOwner (BitVec.ofNat 64 i)
  | some x =>
    let k := streamStation o.c x (ctl.getLsbD 1)
    if x.chain || (station s k).passThrough then raise tcAlmanacOwner (BitVec.ofNat 64 i) else .ok (x, k)

/-- R404. The stream form. -/
def opRgAlmStrm (o : OpIn) (s : State) : Res State :=
  match scOp s o 0, rgCtl s o, scVal o, pathClear s o.c 5 with
  | .ok i, .ok ctl, .ok v, .ok _ =>
    (match almStream s o i ctl, closing s o.c with
      | .ok (x, k), .ok _ =>
        .ok (modStation s k fun t => { t with rows := Map.set t.rows x.id { exp := v.truncate 16, cvt := v.getLsbD 16 } })
      | .error e, _ => .error e
      | _, .error e => .error e)
  | .error e, _, _, _ => .error e
  | _, .error e, _, _ => .error e
  | _, _, .error e, _ => .error e
  | _, _, _, .error e => .error e

/-- R403. The entry form. -/
def almEntry (o : OpIn) (s : State) : Res State :=
  match scOp s o 0, scOp s o 1, rgCtl s o, scVal o, pathClear s o.c 5 with
  | .ok i, .ok p, .ok ctl, .ok v, .ok _ =>
    (match almStream s o i ctl with
      | .error e => .error e
      | .ok (x, k) =>
        let pos := p.toNat % 64
        if !x.pos.getLsbD pos || (v.getLsbD 57 && !streamFlag x k (field v.toNat 51 6)) then
          raise tcAlmanacOwner (BitVec.ofNat 64 (i.toNat % 32))
        else match closing s o.c with
          | .error e => .error e
          | .ok _ =>
            let e := (v &&& ~~~(0x3FF#64 <<< 41)) ||| BitVec.ofNat 64 (x.id % 1024 * 2 ^ 41)
            .ok (writeEntry s k (slotKey x.dir x.lane pos) e (coreLaunch s o.c).id none))
  | .error e, _, _, _, _ => .error e
  | _, .error e, _, _, _ => .error e
  | _, _, .error e, _, _ => .error e
  | _, _, _, .error e, _ => .error e
  | _, _, _, _, .error e => .error e

/-- R403, R404. ALM: bit 3 of the control port chooses the stream form. -/
def opRgAlm (o : OpIn) (s : State) : Res State :=
  match rgCtl s o with
  | .error e => .error e
  | .ok ctl => if ctl.getLsbD 3 then opRgAlmStrm o s else almEntry o s

/-! ## Steps and barriers (R215, R405) -/

/-- R215 step 1. Has the waypoint a command whose stores go to a step region? -/
def stepStoresOut (s : State) (k : WpKey) : Bool :=
  s.cmds.any fun x => x.wp = k && (refTag x.dst = 3 || x.updates.any fun u => match u.1 with
    | .step _ _ _ => true
    | _ => false)

/-- R405. A member at its group's barrier: BARRIER_MISMATCH or the trap of the last generation, the overflow bits once it may
pass, else it arrives and waits. -/
def meet (s : State) (o : OpIn) (w : Waypoint) (isStep : Bool) : Res (State × BitVec 16) :=
  let b := barrierOf s (groupOf w)
  if b.mismatch.contains w.key.wpid then raise tcBarrierMismatch (if isStep then 1#64 else 0#64)
  else if b.release.contains w.key.wpid then
    match b.trap with
    | some t => .error (.trap t)
    | none => .ok (leaveBarrier s w.key, b.ovf)
  else if isStep && stepStoresOut s (coreOf s o.c).wp then block
  else .error (.wait (.arrive isStep))

/-- R405. STEP. -/
def opRgStep (o : OpIn) (s : State) : Res State :=
  match scVal o, closing s o.c with
  | .error e, _ => .error e
  | _, .error e => .error e
  | .ok _, .ok _ =>
    match findWp s (coreOf s o.c).wp with
    | none => .ok (variableResult s o 0#64)
    | some w =>
      if !levelSteps s w then
        if !(cmdsOf s w.key).isEmpty || !(coreOf s o.c).flight.isEmpty || !(runningCalls (coreOf s o.c)).isEmpty then block
        else .ok (variableResult s o 0#64)
      else match meet s o w true with
        | .error e => .error e
        | .ok (s1, ovf) => .ok (variableResult s1 o (ovf.zeroExtend 64))

/-- R405. BAR. -/
def opRgBar (o : OpIn) (s : State) : Res State :=
  match scVal o, closing s o.c with
  | .error e, _ => .error e
  | _, .error e => .error e
  | .ok _, .ok _ =>
    match findWp s (coreOf s o.c).wp with
    | none => .ok s
    | some w =>
      if !levelSteps s w then .ok s
      else match meet s o w false with
        | .error e => .error e
        | .ok (s1, _) => .ok s1

/-! ## Fences and drains (R221, R222, R408) -/

/-- R222. What core c's waypoint has issued on the paths of a mask and not yet performed: commands and calls by number. The rest has
performed once its bundle has passed: LS and CR accesses, the operand fetches of MX but those of CP.GETM, and Almanac writes, posts
and clears perform when they issue; an entry's own accesses perform at its passes, before its flag is set (R53); and a forward write holds
its bundle until it is delivered (R179). -/
def outstanding (s : State) (c : Nat) (mask : BitVec 7) : List Nat :=
  let mine := (cmdsOf s (coreOf s c).wp).filter fun x => x.kind ≠ CmdKind.fetch
  (mine.filter fun x =>
    (mask.getLsbD 2 && x.kind ≠ CmdKind.sa) || (mask.getLsbD 3 && x.kind = CmdKind.getm) ||
    (mask.getLsbD 4 && x.kind = CmdKind.sa)).map (fun x => x.id) ++
  (if mask.getLsbD 5 then runningCalls (coreOf s c) else [])

/-- R408. XFENCE. -/
def opRgXfence (o : OpIn) (s : State) : Res State :=
  match scOp s o 0, scVal o, closing s o.c with
  | .ok a, .ok b, .ok _ =>
    let ids := outstanding s o.c (a.truncate 7)
    .ok (modCore s o.c fun k =>
      let live := k.fences.filter fun f => f.1.any (liveId s)
      { k with fences := if ids.isEmpty || b.truncate 7 = 0#7 then live else live ++ [(ids, b.truncate 7)] })
  | .error e, _, _ => .error e
  | _, .error e, _ => .error e
  | _, _, .error e => .error e

/-- R221, R408. DRAIN: stores on the CR path perform when they leave the region. -/
def opRgDrain (o : OpIn) (s : State) : Res State :=
  match scVal o, closing s o.c with
  | .error e, _ => .error e
  | _, .error e => .error e
  | .ok _, .ok _ => .ok s

/-! ## The meanings -/

/-- RG.HALLOC. -/
def execRgHalloc (m : MoveF) (s : State) : Out := runTrigger opRgHalloc 0xC10#12 m s
/-- RG.HFREE. -/
def execRgHfree (m : MoveF) (s : State) : Out := runTrigger opRgHfree 0xC11#12 m s
/-- RG.HINFO. -/
def execRgHinfo (m : MoveF) (s : State) : Out := runTrigger opRgHinfo 0xC12#12 m s
/-- RG.CAP. -/
def execRgCap (m : MoveF) (s : State) : Out := runTrigger opRgCap 0xC13#12 m s
/-- RG.WAITF. -/
def execRgWaitf (m : MoveF) (s : State) : Out := runTrigger opRgWaitf 0xC14#12 m s
/-- RG.POST. -/
def execRgPost (m : MoveF) (s : State) : Out := runTrigger opRgPost 0xC15#12 m s
/-- RG.CLR. -/
def execRgClr (m : MoveF) (s : State) : Out := runTrigger opRgClr 0xC16#12 m s
/-- RG.ALM. -/
def execRgAlm (m : MoveF) (s : State) : Out := runTrigger opRgAlm 0xC17#12 m s
/-- RG.ALM.strm. -/
def execRgAlmStrm (m : MoveF) (s : State) : Out := runTrigger opRgAlmStrm 0xC17#12 m s
/-- RG.STEP. -/
def execRgStep (m : MoveF) (s : State) : Out := runTrigger opRgStep 0xC18#12 m s
/-- RG.BAR. -/
def execRgBar (m : MoveF) (s : State) : Out := runTrigger opRgBar 0xC19#12 m s
/-- RG.XFENCE. -/
def execRgXfence (m : MoveF) (s : State) : Out := runTrigger opRgXfence 0xC1A#12 m s
/-- RG.DRAIN. -/
def execRgDrain (m : MoveF) (s : State) : Out := runTrigger opRgDrain 0xC1B#12 m s

end Sys2Proof.Machine
end

