-- ==== Sys2Proof/Machine/Collective.lean ====
section
/-! DEFINITION. Collective calls (R90, R409 to R416): plans, calls, the chunks that a call arms, and the tokens of its handshake. -/
namespace Sys2Proof.Machine

/-! ## Plans (R409, R410) -/

/-- R409. The chunk of a record's two words. -/
def chunkOf (w0 w1 : Nat) : Chunk :=
  { op := field w0 60 4, phase := field w0 52 8, stream := field w0 47 5, pos := field w0 41 6, msta := w0.testBit 40,
    buf := field w0 38 2, deps := field w0 30 8, line := field w0 0 17, succ0 := field w1 48 16, succ1 := field w1 32 16,
    rep := field w1 26 6, step := field w1 19 7, len := field w1 14 5 }

/-- R409. The successors of a chunk, each once. -/
def successors (c : Chunk) : List Nat := dedup ([c.succ0, c.succ1].filter (· ≠ 0xFFFF))
/-- The chunks of a plan that name chunk i as a successor. -/
def predecessors (cs : List Chunk) (i : Nat) : List Nat :=
  (List.range cs.length).filter fun j => (cs[j]?).elim false fun c => (successors c).contains i

/-- R409. A plan from its header words and chunk words; and whether a reserved field is nonzero. -/
def planOf (h0 h1 : Nat) (ws : List (Nat × Nat)) : Plan × Bool :=
  ({ group := field h0 48 16, rank := field h0 40 8, nparty := field h0 32 8, nphase := field h0 16 8 + 1, op := field h0 4 4,
     ty := field h0 0 4, pkgMask := BitVec.ofNat 64 h1, chunks := ws.map fun w => chunkOf w.1 w.2 },
   field h0 8 8 ≠ 0 || ws.any fun w => field w.1 17 13 ≠ 0 || field w.2 0 14 ≠ 0)

/-- R73, R75. Is an Equator stream point-to-point, by the ownership table entry of its lowest position number? -/
def pointToPoint (s : State) (x : StreamReq) : Bool :=
  match bitsSet x.pos.toNat 64 with
  | [] => false
  | p :: _ => !(Map.get s.eq.owners (slotKey x.dir x.lane p) 0#32).getLsbD 31

/-- R90, R410. Status 3 of a plan. -/
def planForeign (s : State) (l : Launch) (p : Plan) : Bool :=
  (p.chunks.any fun c => 2 ≤ c.op && c.op ≤ 5 && match l.streams[c.stream]? with
    | some x => x.ring = .equator && pointToPoint s x
    | none => false) ||
  p.pkgMask &&& ~~~s.eq.members ≠ 0#64 || (p.pkgMask ≠ 0#64 && !s.eq.members.getLsbD s.eq.pkg)

/-- R410. A chunk of a plan that breaks a condition of status 8. An undefined plan OP or TYPE counts as one (log 23). -/
def chunkBad (l : Launch) (p : Plan) (i : Nat) (c : Chunk) : Bool :=
  c.op < 1 || c.op > 5 || ((c.op = 3 || c.op = 5) && p.op = 1) || c.phase ≥ p.nphase ||
  ((predecessors p.chunks i).any fun j => (p.chunks[j]?).elim false fun q => c.phase < q.phase) ||
  (match l.streams[c.stream]? with
    | none => true
    | some x => !x.pos.getLsbD c.pos || (x.ring = .equator && c.msta)) ||
  ((successors c).any fun j => j ≤ i || j ≥ p.chunks.length) || c.deps ≠ (predecessors p.chunks i).length || c.buf = 3

/-- Does a chunk's stream run on the Equator? -/
def onEquator (l : Launch) (c : Chunk) : Bool := (l.streams[c.stream]?).elim false fun x => x.ring = .equator

/-- R410. Status 8 of a plan. -/
def planBad (l : Launch) (p : Plan) (reserved : Bool) : Bool :=
  reserved || p.nparty < 2 || p.rank ≥ p.nparty || p.op > 1 || (p.op = 0 && p.ty > 3) ||
  ((List.range p.chunks.length).any fun i => (p.chunks[i]?).elim false (chunkBad l p i)) ||
  ((p.chunks.any (onEquator l)) && (p.chunks.any fun c => !onEquator l c))

/-! ## Calls (R411, R413 to R416) -/

/-- A plan slot of a core that belongs to the launch it runs. -/
def planSlot (s : State) (c p : Nat) : Option PlanSlot :=
  (Map.find (coreOf s c).plans p).bind fun x => if x.launch = (coreOf s c).wp.launch then some x else none
/-- Is a call of the slot in progress? -/
def slotBusy (x : Option PlanSlot) : Bool := match x.bind fun y => y.call with
  | some q => q.running
  | none => false

def modSlot (s : State) (c p : Nat) (f : PlanSlot → PlanSlot) : State :=
  modCore s c fun k => { k with plans := k.plans.map fun e => if e.1 = p then (e.1, f e.2) else e }
def modCall (s : State) (c p : Nat) (f : Call → Call) : State := modSlot s c p fun x => { x with call := x.call.map f }

/-- The buffer reference that a chunk names. -/
def bufferOf (q : Call) (buf : Nat) : Word := if buf = 0 then q.src else if buf = 1 then q.dst else q.scr
/-- R413, R47. Bytes of one firing of a chunk. -/
def chunkBytes (p : Plan) (c : Chunk) : Nat :=
  (if p.op = 0 && p.ty = 3 then 4 else 8) * (if c.len = 0 then 32 else c.len)
/-- R411. The span of a buffer that the chunks of a plan reach, in bytes; `none` where no chunk names it. -/
def bufferSpan (p : Plan) (buf : Nat) : Option Nat :=
  greatest ((p.chunks.filter fun c => c.buf = buf).map fun c => 128 * (c.line + c.rep * c.step) + chunkBytes p c)

/-- R411. The ring window of a launch in which a span of virtual addresses lies. -/
def windowOf (l : Launch) (va n : Nat) : Option (Nat × RingWindow) :=
  ((List.range l.windows.length).zip l.windows).find? fun w => w.2.base ≤ va && va + n ≤ w.2.base + w.2.length

/-- R411. The check of one buffer of a call. -/
def checkBuffer (s : State) (c : Nat) (p : Plan) (buf : Nat) (r : Word) : Res Unit :=
  match bufferSpan p buf with
  | none => .ok ()
  | some n =>
    let l := coreLaunch s c
    let eq := p.chunks.any (onEquator l)
    match checkRef s c r n 128 [if eq then 0 else 1] with
    | .error e => .error e
    | .ok _ => if eq && (windowOf l (refVa r) n).isNone then raise tcHandleBounds r else .ok ()

/-- R413. The progress of a call: leading phases whose chunks have all completed. -/
def progressOf (p : Plan) (q : Call) : Nat :=
  ((List.range p.nphase).takeWhile fun ph =>
    (List.range p.chunks.length).all fun i =>
      (p.chunks[i]?).elim true fun c => c.phase ≠ ph || q.done.contains i).length

/-- R116, R204. A status bit of a launch. -/
def noteSummary (s : State) (l st : Nat) : State :=
  if st = 0 || st > 7 then s else modLaunch s l fun x => { x with summary := x.summary ||| (1#7 <<< (st - 1)) }

/-- R416. A call ends with a status, and commands that a fence held behind it begin. -/
def endCall (s : State) (c p status : Nat) : State :=
  match Map.find (coreOf s c).plans p with
  | none => s
  | some x =>
    match x.call with
    | none => s
    | some q =>
      if !q.running then s
      else
        let st := max q.status status
        beginHeld (noteSummary (modCall s c p fun q => { q with running := false, status := st, armed := [] }) x.launch st)

/-- R414. A call ends early: its armed entries are set to NOP, its progress is kept. -/
def endCallEarly (s : State) (c p status : Nat) : State :=
  endCall (disarm s fun _ e => match e.chunk with
    | some (a, b, _) => a = c && b = p
    | none => false) c p status

/-- R413. The entry word of a chunk for core c. -/
def chunkWord (l : Launch) (c : Nat) (p : Plan) (q : Call) (x : Chunk) : Word :=
  let id := (l.streams[x.stream]?).elim 0 fun y => y.id
  let ty := if p.op = 1 then 3 else if p.ty = 3 then 2 else p.ty
  let r := bufferOf q x.buf
  let ref :=
    if onEquator l x then
      match windowOf l (refVa r) 128 with
      | some (i, w) => i * 2 ^ 19 + ((refVa r - w.base) / 128 + x.line) % 2 ^ 19
      | none => 0
    else coreNo c * 2 ^ 17 + refHandle r * 2 ^ 9 + (refOffset r / 128 + x.line) % 2 ^ 9
  BitVec.ofNat 64 (x.op * 2 ^ 60 + ty * 2 ^ 58 + id % 1024 * 2 ^ 41 + x.rep * 2 ^ 35 + x.step * 2 ^ 28 + x.len * 2 ^ 23 + ref)

/-- R413. Is chunk i of a started call ready: not armed, its predecessors of the phases run have completed, and every chunk of a
lower phase? -/
def chunkReady (p : Plan) (q : Call) (i : Nat) : Bool :=
  match p.chunks[i]? with
  | none => false
  | some c =>
    let isOver (j : Nat) : Bool := q.done.contains j || (p.chunks[j]?).elim true fun x => x.phase < q.startPhase
    c.phase ≥ q.startPhase && !q.armed.contains i && !q.done.contains i && (predecessors p.chunks i).all isOver &&
      (List.range p.chunks.length).all fun j => (p.chunks[j]?).elim true fun x => x.phase ≥ c.phase || isOver j

/-- R413. The ready chunks of a call armed at their stations; it ends when every chunk has completed, or early where a station is
in pass-through (R414). -/
def advanceCall (s : State) (c p : Nat) : State :=
  match Map.find (coreOf s c).plans p with
  | none => s
  | some x =>
    match x.call with
    | none => s
    | some q =>
      if !q.running || !q.started then s
      else
        let l := launchOf s x.launch
        let all := (List.range x.plan.chunks.length).all fun i =>
          q.done.contains i || (x.plan.chunks[i]?).elim true fun y => y.phase < q.startPhase
        if all then endCall s c p 0
        else
          let ready := (List.range x.plan.chunks.length).filter (chunkReady x.plan q)
          let place (i : Nat) : Option (Nat × Nat × Word) :=
            match x.plan.chunks[i]? with
            | none => none
            | some y =>
              match l.streams[y.stream]? with
              | none => none
              | some st => some (streamStation c st y.msta, slotKey st.dir st.lane y.pos, chunkWord l c x.plan q y)
          let places := ready.filterMap fun i => (place i).map fun t => (i, t)
          if places.any fun t => (station s t.2.1).passThrough then endCallEarly s c p 5
          else places.foldl (fun s t => writeEntry s t.2.1 t.2.2.1 t.2.2.2 x.launch (some (c, p, t.1)))
            (modCall s c p fun q => { q with armed := q.armed ++ places.map (·.1) })

/-- R413. The last firing of a chunk has completed with a status. -/
def chunkDone (s : State) (c p i status : Nat) : State :=
  advanceCall (modCall s c p fun q =>
    if q.armed.contains i then
      { q with armed := q.armed.filter (· ≠ i), done := q.done ++ [i], status := max q.status status }
    else q) c p

/-! ## The operations (R410, R411, R415, R416) -/

/-- R410. LOAD: a plan read, checked and kept. -/
def opRgCollLoad (o : OpIn) (s : State) : Res State :=
  match scOp s o 0, scVal o, closing s o.c, pathClear s o.c 2 with
  | .ok r, .ok v, .ok _, .ok _ =>
    let l := coreLaunch s o.c
    let slot := v.toNat % 8
    let give (st : Nat) : Res State := .ok (variableResult s o (BitVec.ofNat 64 st))
    let word (bs : List Byte) (i : Nat) : Nat := ofBytes ((bs.drop (8 * i)).take 8)
    (match checkRef s o.c r 16 1 [0] with
      | .error x => .error x
      | .ok _ =>
        match readVaRange s { core := o.c } l (refVa r) 16 with
        | .miss m va => raiseMiss m va 1
        | .needs n => .error (.wait (.needs n))
        | .poison _ | .blocked _ _ _ => give 2
        | .data hd =>
          let n := field (word hd 0) 24 8 + 1
          match readVaRange s { core := o.c } l (refVa r + 16) (16 * n) with
          | .miss m va => raiseMiss m va 1
          | .needs n => .error (.wait (.needs n))
          | .poison _ | .blocked _ _ _ => give 2
          | .data bs =>
            let (p, reserved) := planOf (word hd 0) (word hd 1)
              ((List.range n).map fun i => (word bs (2 * i), word bs (2 * i + 1)))
            if planForeign s l p then give 3
            else if planBad l p reserved then give 8
            else if slotBusy (planSlot s o.c slot) then give 9
            else .ok (variableResult (modCore s o.c fun k =>
              { k with plans := Map.set k.plans slot { launch := l.id, plan := p, nextSeq := 0#16, call := none } }) o 0#64))
  | .error e, _, _, _ => .error e
  | _, .error e, _, _ => .error e
  | _, _, .error e, _ => .error e
  | _, _, _, .error e => .error e

/-- R410. DROP. -/
def opRgCollDrop (o : OpIn) (s : State) : Res State :=
  match scVal o, closing s o.c with
  | .ok v, .ok _ =>
    let slot := v.toNat % 8
    .ok (if slotBusy (planSlot s o.c slot) then variableResult s o 9#64
      else variableResult (modCore s o.c fun k => { k with plans := Map.erase k.plans slot }) o 0#64)
  | .error e, _ => .error e
  | _, .error e => .error e

/-- R411. The operands of a call: source, destination, scratch, count, slot. -/
def callOperands (s : State) (o : OpIn) : Res (Word × Word × Word × Nat × Nat) :=
  match scOp s o 0, scOp s o 1, scOp s o 2, scOp s o 3, scVal o with
  | .ok a, .ok b, .ok c, .ok n, .ok p => .ok (a, b, c, n.toNat % 2 ^ 40, p.toNat % 8)
  | .error e, _, _, _, _ => .error e
  | _, .error e, _, _, _ => .error e
  | _, _, .error e, _, _ => .error e
  | _, _, _, .error e, _ => .error e
  | _, _, _, _, .error e => .error e

/-- R411. The three buffers of a call. -/
def checkBuffers (s : State) (c : Nat) (p : Plan) (src dst scr : Word) : Res Unit :=
  match checkBuffer s c p 0 src, checkBuffer s c p 1 dst, checkBuffer s c p 2 scr with
  | .ok _, .ok _, .ok _ => .ok ()
  | .error e, _, _ => .error e
  | _, .error e, _ => .error e
  | _, _, .error e => .error e

/-- R411, R415. CALL, and RESUME where `resume`. -/
def callOp (resume : Bool) (o : OpIn) (s : State) : Res State :=
  match callOperands s o, closing s o.c, pathClear s o.c 5 with
  | .ok (src, dst, scr, n, p), .ok _, .ok _ =>
    let give (s : State) (code : Nat) (seq : BitVec 16) : Res State :=
      .ok (variableResult s o (BitVec.ofNat 64 (code * 2 ^ 16 + seq.toNat)))
    (match planSlot s o.c p with
      | none => give s 8 0#16
      | some x =>
        if slotBusy (some x) then give s 9 x.nextSeq
        else if resume && !(x.call.elim false fun q => q.status ≠ 0) then give s 10 x.nextSeq
        else match checkBuffers s o.c x.plan src dst scr with
          | .error e => .error e
          | .ok _ =>
            let seq := if resume then x.nextSeq else x.nextSeq + 1
            let q : Call :=
              { id := s.nextCmd, seq := seq, running := true, resume := resume, src := src, dst := dst, scr := scr, count := n,
                done := if resume then x.call.elim [] fun q => q.done else [] }
            let s1 := modSlot { s with nextCmd := s.nextCmd + 1 } o.c p fun x => { x with nextSeq := seq, call := some q }
            give s1 0 seq)
  | .error e, _, _ => .error e
  | _, .error e, _ => .error e
  | _, _, .error e => .error e
/-- R415. RESUME. -/
def opRgCollResume : OpIn → State → Res State := callOp true

/-- R411. COLL: bits [13:12] of the control port choose the form (R387). -/
def opRgColl (o : OpIn) (s : State) : Res State :=
  match rgCtl s o with
  | .error e => .error e
  | .ok ctl =>
    match field ctl.toNat 12 2 with
    | 0 => callOp false o s
    | 1 => opRgCollLoad o s
    | 2 => opRgCollResume o s
    | _ => opRgCollDrop o s

/-- R416. CWAIT. -/
def opRgCwait (o : OpIn) (s : State) : Res State :=
  match scVal o with
  | .error e => .error e
  | .ok v =>
    let p := v.toNat % 8
    match planSlot s o.c p with
    | none => .ok (variableResult s o 0#64)
    | some x =>
      match x.call with
      | none => .ok (variableResult s o 0#64)
      | some q =>
        if q.running then block
        else if q.status = 8 && !q.trapTaken then
          .error (.trap { code := tcCollMismatch, info := q.seq.zeroExtend 64, slot := some p })
        else .ok (variableResult s o
          (BitVec.ofNat 64 (q.seq.toNat * 2 ^ 32 + progressOf x.plan q * 2 ^ 16 + q.status)))

/-! ## The handshake (R412) -/

/-- R412. What a read of a call's source elements finds. -/
def sourceRead (s : State) (c : Nat) (x : PlanSlot) (q : Call) : Fetched :=
  if refTag q.src = 0 then readVaRange s { core := c } (launchOf s x.launch) (refVa q.src) (4 * q.count)
  else readHandle s c (refHandle q.src) (refOffset q.src) (4 * q.count)

/-- R412. The greatest exponent of a party's source elements; `none` while a source line is EMPTY or held by the host. A source that
reads as poison contributes −126. -/
def sourceExponent (s : State) (c : Nat) (x : PlanSlot) (q : Call) : Option Int :=
  if x.plan.op = 0 && x.plan.ty = 3 then
    match sourceRead s c x q with
    | .blocked _ _ _ | .needs _ => none
    | .poison _ | .miss _ _ => some (-126)
    | .data bs =>
      let es := (List.range q.count).filterMap fun i =>
        let e := field (ofBytes ((bs.drop (4 * i)).take 4)) 23 8
        if e = 255 then none else some (max e 1)
      some ((((greatest es).getD 1 : Nat) : Int) - 127)
  else some (-126)
/-- R101. What a source that cannot be read yet needs is asked for. -/
def askSource (s : State) (c : Nat) (x : PlanSlot) (q : Call) : State :=
  match sourceRead s c x q with
  | .needs n => askNeed s { core := c } (coreOf s c).wp n
  | .data _ | .poison _ | .blocked _ _ _ | .miss _ _ => s

/-- The parties at a station whose started call a token names: core, slot, plan slot, call. At the Equator station they are the
package's. -/
def partiesAt (s : State) (k group : Nat) (equator : Bool) : List (Nat × Nat × PlanSlot × Call) :=
  s.cores.flatMap fun e => e.2.plans.filterMap fun p =>
    match p.2.call with
    | none => none
    | some q =>
      if q.running && p.2.plan.group = group && (k = 16 || 2 * dieOf e.1 = k) &&
          (p.2.plan.chunks.any (onEquator (launchOf s p.2.launch))) = equator then some (e.1, p.1, p.2, q)
      else none

/-- R412 step 2. A party merges into a HANDSHAKE token. -/
def mergeParty (acc : State × Token) (a : Nat × Nat × PlanSlot × Call) : State × Token :=
  let (s, t) := acc
  let (c, p, x, q) := a
  if q.started || t.arrived.contains c then (s, t)
  else match sourceExponent s c x q with
    | none => (askSource s c x q, t)
    | some em =>
      (modCall s c p fun q => { q with merged := true },
       { t with arrived := t.arrived ++ [c], em := max t.em em, prog := min t.prog (progressOf x.plan q),
                mismatch := t.mismatch || t.seq ≠ q.seq || t.op ≠ x.plan.op || (x.plan.op = 0 && t.ty ≠ x.plan.ty) ||
                  t.count ≠ q.count || t.res ≠ q.resume })

/-- R412 step 1. The HANDSHAKE that the station of rank 0 sends. -/
def newHandshake (k : Nat) (equator : Bool) (a : Nat × Nat × PlanSlot × Call) : Token :=
  { kind := 0x10, group := a.2.2.1.plan.group, equator := equator, origin := k, seq := a.2.2.2.seq, op := a.2.2.1.plan.op,
    ty := a.2.2.1.plan.ty, nparty := a.2.2.1.plan.nparty, count := a.2.2.2.count, res := a.2.2.2.resume }

/-- R412 step 4. What rank 0 sends once every party has merged: ABORT or GO. -/
def outcomeOf (t : Token) : Token :=
  if t.mismatch then { t with kind := 0x12, acted := [], copy := 0 }
  else { t with kind := 0x11, acted := [], copy := 0, e := chooseExp t.em t.nparty }

/-- Is a token of the tokens of a state the one named? -/
def isToken (t : Token) (kind group : Nat) (equator : Bool) : Bool :=
  t.kind = kind && t.group = group && t.equator = equator

/-- The state with the named token replaced, or added. -/
def putToken (s : State) (kind group : Nat) (equator : Bool) (t : Option Token) : State :=
  { s with tokens := (s.tokens.filter fun x => !isToken x kind group equator) ++ t.toList }

/-- R412. Rows and start phase of a party on GO. -/
def startParty (s : State) (t : Token) (a : Nat × Nat × PlanSlot × Call) : State :=
  let (c, p, x, q) := a
  if q.started || q.seq ≠ t.seq then s
  else
    let l := launchOf s x.launch
    let s1 := if x.plan.op = 0 && x.plan.ty = 3 then
        x.plan.chunks.foldl (fun s y => match l.streams[y.stream]? with
          | none => s
          | some st => modStation s (streamStation c st y.msta) fun z =>
              { z with rows := Map.set z.rows st.id { exp := BitVec.ofInt 16 t.e, cvt := true } }) s
      else s
    let m := if t.res then t.prog else 0
    let s2 := modCall s1 c p fun q =>
      { q with started := true, startPhase := m, armed := [], status := 0,
               done := q.done.filter fun i => (x.plan.chunks[i]?).elim false fun y => y.phase < m }
    advanceCall s2 c p

/-- R412. HANDSHAKE passes a station (16: the Equator station), as the control slot does. Fields of the argument: station; index, the
plan's GROUP; on the Equator, nums the parties of other packages merged, their EM + 32,768, their PROG and their MISMATCH, when the token
has come round. -/
def execHandshake (s : State) : Out :=
  let k := s.arg.station
  let g := s.arg.index
  let eq := k = 16
  let here := partiesAt s k g eq
  let sent := s.tokens.find? fun t => isToken t 0x10 g eq
  let t0 := match sent with
    | some t => some t
    | none => (here.find? fun (a : Nat × Nat × PlanSlot × Call) => a.2.2.1.plan.rank = 0 && !a.2.2.2.started).map (newHandshake k eq)
  match t0 with
  | none => .next s
  | some t =>
    if t.lost || !controlAt s k then .next s
    else
      let (s1, t1) := here.foldl mergeParty (s, t)
      let t2 := if eq then
          { t1 with others := s.arg.nums.getD 0 t1.others, em := max t1.em (((s.arg.nums.getD 1 32642 : Nat) : Int) - 32768),
                    prog := min t1.prog (s.arg.nums.getD 2 65535), mismatch := t1.mismatch || s.arg.nums.getD 3 0 ≠ 0 }
        else t1
      let rank0 := here.any fun (a : Nat × Nat × PlanSlot × Call) => a.2.2.1.plan.rank = 0
      let s2 := putToken s1 0x10 g eq (some t2)
      if rank0 && t2.arrived.length + t2.others ≥ t2.nparty then
        let r := outcomeOf t2
        .next (putToken (putToken s2 0x10 g eq none) r.kind g eq (some r))
      else .next s2

/-- R412. A GO or ABORT token as another package's rank 0 sent it. -/
def foreignOutcome (s : State) (kind : Nat) : Token :=
  { kind := kind, group := s.arg.index, equator := true, origin := 17, seq := s.arg.seq.truncate 16, nparty := 0,
    e := ((s.arg.nums.getD 0 32768 : Nat) : Int) - 32768, prog := s.arg.nums.getD 1 0, res := !s.arg.ok }

/-- R412. The token of an outcome that passes station k: the device's own, or on the Equator one from another package. -/
def outcomeAt (s : State) (kind : Nat) : Option Token :=
  match s.tokens.find? fun t => isToken t kind s.arg.index (s.arg.station = 16) with
  | some t => if t.lost || !controlAt s s.arg.station then none else some t
  | none => if s.arg.station = 16 then some (foreignOutcome s kind) else none

/-- R407, R412. The token after the parties at a station acted: it is removed once it is back at its originator. -/
def outcomePassed (s : State) (t : Token) (here : List (Nat × Nat × PlanSlot × Call)) : State :=
  let acted := t.acted ++ here.map (·.1)
  let isOver := t.origin = 17 || (t.origin = s.arg.station && t.acted ≠ [] && t.arrived.all acted.contains)
  putToken s t.kind t.group t.equator (if isOver then none else some { t with acted := acted })

/-- R412. GO passes a station. Fields of the argument: station, index (GROUP); from another package also seq, nums E + 32,768 and
PROG, and ok = false for a resume call. -/
def execGo (s : State) : Out :=
  match outcomeAt s 0x11 with
  | none => .next s
  | some t =>
    let here := partiesAt s s.arg.station s.arg.index t.equator
    .next (outcomePassed (here.foldl (fun s a => startParty s t a) s) t here)

/-- R412. ABORT passes a station: the calls of its parties end and no chunk fires. Fields as for GO. -/
def execAbort (s : State) : Out :=
  match outcomeAt s 0x12 with
  | none => .next s
  | some t =>
    let here := partiesAt s s.arg.station s.arg.index t.equator
    let s1 := here.foldl (fun s a => if a.2.2.2.started then s else endCall s a.1 a.2.1 8) s
    .next (outcomePassed s1 t here)

/-! ## The meanings -/

/-- RG.COLL. -/
def execRgColl (m : MoveF) (s : State) : Out := runTrigger opRgColl 0xC1C#12 m s
/-- RG.COLL.load. -/
def execRgCollLoad (m : MoveF) (s : State) : Out := runTrigger opRgCollLoad 0xC1C#12 m s
/-- RG.COLL.resume. -/
def execRgCollResume (m : MoveF) (s : State) : Out := runTrigger opRgCollResume 0xC1C#12 m s
/-- RG.COLL.drop. -/
def execRgCollDrop (m : MoveF) (s : State) : Out := runTrigger opRgCollDrop 0xC1C#12 m s
/-- RG.CWAIT. -/
def execRgCwait (m : MoveF) (s : State) : Out := runTrigger opRgCwait 0xC1D#12 m s

end Sys2Proof.Machine
end

