-- ==== Sys2Proof/Machine/LoopNest.lean ====
section
/-! DEFINITION. The loop-nest instruction LN (R343 to R347). The model runs one output a step; the output reached stands in the
core's `rep`, which is k.rpi (R347). -/
namespace Sys2Proof.Machine

/-- An LN in progress: its core, its reduced levels, type, function and body. -/
structure Nest where
  c : Nat
  body : BitVec 224
  nred : Nat
  ty : Nat
  func : Nat
  deriving DecidableEq, Repr

def Nest.of (c : Nat) (b : BitVec 224) : Nest :=
  { c := c, body := b, nred := (lnNred b).toNat, ty := (lnType b).toNat, func := (lnFunc b).toNat }

/-- R343. Types of LN. -/
def lnTypeOk (t : Nat) : Bool := t ≤ 2 || (8 ≤ t && t ≤ 13)
/-- R343. Bytes of an element. -/
def Nest.bytes (n : Nest) : Nat := typeBits n.ty / 8
/-- R343. The byte stride of operand o (0 A, 1 B, 2 D) at a level; D's at reduced levels are ignored (R344). -/
def Nest.stride (n : Nest) (o i : Nat) : Int :=
  if o = 2 ∧ i < n.nred then 0 else lnStride n.body o i * ((2 ^ lnShift n.body o : Nat) : Int)

/-- The index at each of a run of levels, lowest fastest, of flat number j. -/
def unflatten (n : Nest) : (j : Nat) → List Nat → List (Nat × Nat)
  | _, [] => []
  | j, l :: ls => (l, j % lnExtent n.body l) :: unflatten n (j / lnExtent n.body l) ls
/-- The product of extents of levels. -/
def Nest.count (n : Nest) (ls : List Nat) : Nat := ls.foldl (fun acc l => acc * lnExtent n.body l) 1
/-- R344. The reduced and the other levels. -/
def Nest.reduced (n : Nest) : List Nat := span 0 n.nred
def Nest.outer (n : Nest) : List Nat := span n.nred (5 - n.nred)
/-- Offset of operand o at indices, from its reference. -/
def Nest.offset (n : Nest) (o : Nat) (ix : List (Nat × Nat)) : Int :=
  ix.foldl (fun acc p => acc + (p.2 : Int) * n.stride o p.1) 0

/-- R344. Which operands a function reads. -/
def Nest.readsB (n : Nest) : Bool := (1 ≤ n.func && n.func ≤ 9) || n.func = 0x11
def Nest.readsD (n : Nest) : Bool := n.func = 6

/-- R345. The lowest offset of operand o over the whole nest, and the span's bytes. -/
def Nest.span (n : Nest) (o : Nat) : Int × Nat :=
  let ends := (List.range 5).map fun i => ((lnExtent n.body i : Int) - 1) * n.stride o i
  let lo := ends.foldl (fun acc e => acc + min e 0) 0
  let hi := ends.foldl (fun acc e => acc + max e 0) 0
  (lo, (hi - lo).toNat + n.bytes)

/-- R345. Every offset of operand o lies on an element. -/
def Nest.aligned (n : Nest) (o : Nat) (r : Word) : Bool :=
  refPos r % n.bytes = 0 && (List.range 5).all fun i => lnExtent n.body i = 1 || n.stride o i % (n.bytes : Int) = 0

/-- A trap's information replaced by a reference. -/
def blame {α : Type} (r : Word) (x : Res α) : Res α :=
  match x with
  | .error (.trap t) => .error (.trap { t with info := r })
  | x => x

/-- R345. The check of one used operand: the place of its reference. -/
def checkNest (s : State) (n : Nest) (o : Nat) (r : Word) : Res Target :=
  let (lo, len) := n.span o
  if wellFormedRef r && (refPos r : Int) + lo < 0 then
    match checkRef s n.c r 0 1 memTags with
    | .error e => .error e
    | .ok _ => raise tcHandleBounds r
  else
    let low := BitVec.ofInt 64 ((r.toNat : Int) + lo)
    match blame r (checkRef s n.c low len 1 memTags) with
    | .error e => .error e
    | .ok t =>
      if !n.aligned o r then raise tcMisaligned r
      else match t with
        | .handle c h _ => .ok (.handle c h (refPos r))
        | .step j _ => .ok (.step j (refPos r))
        | .glob va => .ok (.glob va)

/-- A place moved by a signed number of bytes. -/
def Target.move (t : Target) (d : Int) : Target :=
  match t with
  | .handle c h o => .handle c h ((o : Int) + d).toNat
  | .step j o => .step j ((o : Int) + d).toNat
  | .glob va => .glob va

/-- R346. An element of an operand read. -/
def readElem (s : State) (n : Nest) (t : Target) (r : Word) (d : Int) : Res Nat :=
  match loadAt s n.c (t.move d) n.bytes (BitVec.ofInt 64 ((r.toNat : Int) + d)) with
  | .error e => .error e
  | .ok bs => .ok (ofBytes bs)

/-- R344. The element-wise functions. -/
def nestValue (f t a b d : Nat) : Nat × Flags :=
  match f with
  | 0 => (a, flNone)
  | 1 => laneAdd false t a b
  | 2 => laneSub false t a b
  | 3 => laneMul false t a b
  | 4 => laneMinMax false t a b
  | 5 => laneMinMax true t a b
  | 6 => laneFma false t a b d
  | 7 => (a &&& b, flNone)
  | 8 => (a ||| b, flNone)
  | 9 => (a ^^^ b, flNone)
  | 10 => laneAbs false t a
  | _ => laneNeg false t a

/-- R344. A floating leaf: the exact term. -/
def floatLeaf (f t a b : Nat) : Exact × Flags :=
  let x := valueOf t a
  let y := valueOf t b
  match f with
  | 0x11 =>
    let (p, bad) := exactMul x y
    (p, snanFlag t [a, b] ||| flIf bad flNV)
  | 0x14 => (x.abs, snanFlag t [a])
  | 0x15 => ((exactMul x x).1, snanFlag t [a])
  | _ => (x, snanFlag t [a])

/-- R344. The Op of a floating reduction: its result rounded to F32. -/
def floatNode (f : Nat) (p q : Exact × Flags) : Exact × Flags :=
  if f = 0x12 ∨ f = 0x13 then
    let r := minMaxCode 0 (f = 0x13) (roundFmt p.1 0).1 (roundFmt q.1 0).1
    (valueOf 0 r.1, p.2 ||| q.2 ||| r.2)
  else
    let (v, bad) := exactAdd p.1 q.1
    let (c, g) := roundFmt v 0
    (valueOf 0 c, p.2 ||| q.2 ||| g ||| flIf bad flNV)

/-- R344. The integer terms and their combination. -/
def intLeaf (f t a b : Nat) : Int :=
  match f with
  | 0x11 => intOf t a * intOf t b
  | 0x14 => ((intOf t a).natAbs : Int)
  | 0x15 => intOf t a * intOf t a
  | _ => intOf t a
def intNode (f : Nat) (p q : Int) : Int :=
  match f with
  | 0x12 => min p q
  | 0x13 => max p q
  | _ => p + q

/-- R344. A reduction of pairs of elements: the code of the type and the flags. -/
def nestReduce (f t : Nat) (l : List (Nat × Nat)) : Nat × Flags :=
  if inFlt t then
    let (v, g) := treeReduce (floatNode f) (.nan, flNone) (l.map fun p => floatLeaf f t p.1 p.2)
    let (c, g1) := roundFmt v 0
    let (d, g2) := roundFmt (valueOf 0 c) t
    (d, g ||| g1 ||| g2)
  else
    let v := treeReduce (intNode f) 0 (l.map fun p => intLeaf f t p.1 p.2)
    (intCode t v, flIf (decide (v < intMin t) || decide (v > intMax t)) flOF)

/-- The elements that an output reduces, read in flattened order. -/
def readTerms (s : State) (n : Nest) (a b : Target) (ra rb : Word) (ix : List (Nat × Nat)) :
    List Nat → Res (List (Nat × Nat))
  | [] => .ok []
  | j :: js =>
    let jx := unflatten n j n.reduced ++ ix
    match readElem s n a ra (n.offset 0 jx) with
    | .error e => .error e
    | .ok x =>
      match (if n.readsB then readElem s n b rb (n.offset 1 jx) else .ok 0) with
      | .error e => .error e
      | .ok y => match readTerms s n a b ra rb ix js with
        | .error e => .error e
        | .ok l => .ok ((x, y) :: l)

/-- R344, R346. One output: its reads, its value, its write. -/
def nestOutput (s : State) (n : Nest) (a b d : Target) (ra rb rd : Word) (j : Nat) : Res State :=
  let ix := unflatten n j n.outer
  let at_ := n.offset 2 ix
  let write (v : Nat × Flags) : Res State :=
    match storeAt s n.c (d.move at_) (bytesOf v.1 n.bytes) with
    | .error e => .error e
    | .ok s' => .ok (modCore s' n.c fun k => setFlags k v.2)
  if n.nred = 0 then
    match readElem s n a ra (n.offset 0 ix) with
    | .error e => .error e
    | .ok x =>
      match (if n.readsB then readElem s n b rb (n.offset 1 ix) else .ok 0),
            (if n.readsD then readElem s n d rd at_ else .ok 0) with
      | .ok y, .ok z => write (nestValue n.func n.ty x y z)
      | .error e, _ => .error e
      | _, .error e => .error e
  else
    match readTerms s n a b ra rb ix (List.range (n.count n.reduced)) with
    | .error e => .error e
    | .ok l => write (nestReduce n.func n.ty l)

/-- R343 to R347. The output that core c stands at, and whether it is the last. -/
def lnStep (s : State) (c : Nat) (ba bb bd : BitVec 6) (body : BitVec 224) : Res (State × Bool) :=
  let n := Nest.of c body
  let k := coreOf s c
  let ra := scalarAt k (physS k ba.toNat)
  let rb := scalarAt k (physS k bb.toNat)
  let rd := scalarAt k (physS k bd.toNat)
  if !lnTypeOk n.ty then raise tcIllegalType (BitVec.ofNat 64 (0xFFF * 256 + n.ty))
  else match checkNest s n 0 ra with
    | .error e => .error e
    | .ok a =>
      match (if n.readsB then checkNest s n 1 rb else .ok a) with
      | .error e => .error e
      | .ok b =>
        match checkNest s n 2 rd with
        | .error e => .error e
        | .ok d =>
          let total := n.count n.outer
          if total > 2 ^ 48 then raise tcHandleBounds rd
          else match nestOutput s n a b d ra rb rd k.rep with
            | .error e => .error e
            | .ok s' => .ok (s', k.rep + 1 ≥ total)

/-- R343 to R347. LN on the current core: the next output is written, and after the last the core stands at the next bundle. -/
def execLn (ba bb bd : BitVec 6) (body : BitVec 224) (s : State) : Out :=
  let c := s.cur
  let k := coreOf s c
  let s1 := if k.rep = 0 then modCore s c fun k => agePends (retireAll k) else s
  match lnStep s1 c ba bb bd body with
  | .error e => stopped s c e
  | .ok (s', true) => .next (endBundle s' c (nextOf s c k.pc 8))
  | .ok (s', false) => .next (modCore s' c fun k => { k with rep := k.rep + 1, stalls := [] })

end Sys2Proof.Machine
end

