-- ==== Sys2Proof/Machine/Move.lean ====
section
/-! DEFINITION. The raw move (R159 to R161, R266 to R268): a source into a register, a control register, a port or a
neighbour's forward register. -/
namespace Sys2Proof.Machine

/-- R178. A value for a forwarding port: vector width, or an immediate replicated (R159). -/
def forwardValue (v : PVal) (idx : Nat) (sel : BitVec 12) : Res Vec :=
  match v.vector? with
  | some x => .ok x
  | none => raiseMove tcIllegalSource idx sel

/-- R159 to R161, R178. The effect of a value that a raw move brings to its destination. `k0` is the core under whose rotation
the destination is named. -/
def moveEffect (s : State) (c idx : Nat) (d sel : BitVec 12) (k0 : Core) (v : PVal) : Res State :=
  match portKind d with
  | .register | .control => moveInto s c idx d sel k0 v
  | .operand | .ty => deliverPort s c idx d sel v
  | .forward =>
    match forwardValue v idx sel with
    | .error e => .error e
    | .ok x =>
      match forwardWrite s c idx (d.toNat - 0xE0) x (moveInfo idx d) with
      | .error e => .error e
      | .ok _ => .ok s
  | .illegal => raiseMove tcIllegalDest idx d
  | .undefined | .trigger => raiseMove tcUndefinedPort idx d

/-- The raw move on the current core (log 17). A consuming read empties its forward register. -/
def execMove (d : BitVec 12) (m : MoveF) (s : State) : Out :=
  let c := s.cur
  let k := coreOf s c
  if !guardTrue k m then .next s
  else match readSource s c [] 0 d m, consumeCheck s c m with
    | .error e, _ => stopped s c e
    | _, .error e => stopped s c e
    | .ok (v, k1), .ok _ =>
      match moveEffect (setCore s c k1) c 0 d m.src k v with
      | .error e => stopped s c e
      | .ok s' =>
        let s1 := modCore s' c fun k => { k with sent := [], held := [], waitUntil := none, stalls := [] }
        match consumes m with
        | some j => .next (modCore s1 c fun k => markEmpty k (0x90 + j))
        | none => .next s1

end Sys2Proof.Machine
end

