-- ==== Sys2Proof/Machine/ScalarFloat.lean ====
section
/-! DEFINITION. Scalar floating point (R295 to R298). -/
namespace Sys2Proof.Machine

/-- R295. The formats that FADD to FCMP accept. -/
def sFloatType (t : Nat) : Bool := t = 6 || t = 0 || t = 2 || t = 1

/-- R295. The type register of the operation's unit. -/
def sType (s : State) (o : OpIn) : Nat := typeReg (coreOf s o.c) (o.page - 1)

/-- R295, R238. A code of the type register's format delivered, zero-extended, with its flags set at once. -/
def floatResult (s : State) (o : OpIn) (r : Nat × Flags) (dist : Nat) : State :=
  scalarResult (modCore s o.c fun k => setFlags k r.2) o (BitVec.ofNat 64 r.1) dist

/-- R296. A floating operation of two operands. -/
def floatOp2 (dist : Nat) (f : (t x y : Nat) → Nat × Flags) (o : OpIn) (s : State) : Res State :=
  let t := sType s o
  let n := 2 ^ typeBits t
  if !sFloatType t then illegalType o t
  else match scOp s o 0, scVal o with
    | .ok x, .ok y => .ok (floatResult s o (f t (x.toNat % n) (y.toNat % n)) dist)
    | .error e, _ => .error e
    | _, .error e => .error e

/-- R296. FADD. -/
def opSFadd : OpIn → State → Res State := floatOp2 4 fun t x y => fAdd t false x y
/-- R296. FSUB. -/
def opSFsub : OpIn → State → Res State := floatOp2 4 fun t x y => fAdd t true x y
/-- R296. FMUL. -/
def opSFmul : OpIn → State → Res State := floatOp2 4 fMul
/-- R296. FDIV. -/
def opSFdiv : OpIn → State → Res State := floatOp2 16 fDiv
/-- R296. FMIN. -/
def opSFmin : OpIn → State → Res State := floatOp2 4 fun t x y => minMaxCode t false x y
/-- R296. FMAX. -/
def opSFmax : OpIn → State → Res State := floatOp2 4 fun t x y => minMaxCode t true x y

/-- R296. FSQRT. -/
def opSFsqrt (o : OpIn) (s : State) : Res State :=
  let t := sType s o
  if !sFloatType t then illegalType o t
  else match scVal o with
    | .ok x => .ok (floatResult s o (fSqrt t (x.toNat % 2 ^ typeBits t)) 16)
    | .error e => .error e

/-- R296. FMA: x · y + z, rounded once. -/
def opSFma (o : OpIn) (s : State) : Res State :=
  let t := sType s o
  let n := 2 ^ typeBits t
  if !sFloatType t then illegalType o t
  else match scOp s o 0, scOp s o 1, scVal o with
    | .ok x, .ok y, .ok z => .ok (floatResult s o (fFma t false (x.toNat % n) (y.toNat % n) (z.toNat % n)) 4)
    | .error e, _, _ => .error e
    | _, .error e, _ => .error e
    | _, _, .error e => .error e

/-- R297. FCMP under the condition in o2 [2:0]. -/
def opSFcmp (o : OpIn) (s : State) : Res State :=
  let t := sType s o
  let n := 2 ^ typeBits t
  if !sFloatType t then illegalType o t
  else match scOp s o 0, scOp s o 2, scVal o with
    | .ok x, .ok c, .ok y =>
      let (b, f) := fCompare t (c.toNat % 8) (x.toNat % n) (y.toNat % n)
      .ok (floatResult s o (b.toNat, f) 4)
    | .error e, _, _ => .error e
    | _, .error e, _ => .error e
    | _, _, .error e => .error e

/-- R298. A type code that FCVT accepts. -/
def cvtCode (t : Nat) : Bool := t ≤ 6 || t = 8 || t = 9
/-- R298. The type of a code with its 64-bit bit, which a floating type ignores. -/
def cvtType (t : Nat) (wide : Bool) : Nat := if wide && (t = 8 || t = 9) then 0x10 + t else t
/-- R298. A converted code as a scalar: a signed integer sign-extended, any other zero-extended. -/
def cvtOut (t code : Nat) : Word :=
  if isSigned t then BitVec.ofInt 64 (signed code (typeBits t)) else BitVec.ofNat 64 code

/-- R298. FCVT. Of two codes refused the source's is reported (log 27). -/
def opSFcvt (o : OpIn) (s : State) : Res State :=
  let src := sType s o
  match scOp s o 1, scVal o with
  | .ok f, .ok x =>
    let dst := f.toNat % 16
    if !cvtCode src then illegalType o src
    else if !cvtCode dst then illegalType o dst
    else
      let a := cvtType src (f.getLsbD 5)
      let b := cvtType dst (f.getLsbD 4)
      let (c, fl) := convertCode a b (x.toNat % 2 ^ typeBits a)
      .ok (scalarResult (modCore s o.c fun k => setFlags k fl) o (cvtOut b c) 4)
  | .error e, _ => .error e
  | _, .error e => .error e

/-! ## The meanings -/

/-- S.FADD. -/
def execSFadd (u : SUnit) (m : MoveF) (s : State) : Out := runTrigger opSFadd (sPort u 0x39) m s
/-- S.FSUB. -/
def execSFsub (u : SUnit) (m : MoveF) (s : State) : Out := runTrigger opSFsub (sPort u 0x3A) m s
/-- S.FMUL. -/
def execSFmul (u : SUnit) (m : MoveF) (s : State) : Out := runTrigger opSFmul (sPort u 0x3B) m s
/-- S.FMA. -/
def execSFma (u : SUnit) (m : MoveF) (s : State) : Out := runTrigger opSFma (sPort u 0x3C) m s
/-- S.FDIV. -/
def execSFdiv (u : SUnit) (m : MoveF) (s : State) : Out := runTrigger opSFdiv (sPort u 0x3D) m s
/-- S.FSQRT. -/
def execSFsqrt (u : SUnit) (m : MoveF) (s : State) : Out := runTrigger opSFsqrt (sPort u 0x3E) m s
/-- S.FMIN. -/
def execSFmin (u : SUnit) (m : MoveF) (s : State) : Out := runTrigger opSFmin (sPort u 0x3F) m s
/-- S.FMAX. -/
def execSFmax (u : SUnit) (m : MoveF) (s : State) : Out := runTrigger opSFmax (sPort u 0x40) m s
/-- S.FCMP. -/
def execSFcmp (u : SUnit) (m : MoveF) (s : State) : Out := runTrigger opSFcmp (sPort u 0x41) m s
/-- S.FCVT. -/
def execSFcvt (u : SUnit) (m : MoveF) (s : State) : Out := runTrigger opSFcvt (sPort u 0x42) m s

end Sys2Proof.Machine
end

