-- ==== Sys2Proof/Machine/Functions.lean ====
section
/-! DEFINITION. The elementary functions of X (R341, R342): each result is a free code within the bound that R341 states, the
exact results and the special values of R342 fixed. The bound is judged by a binary approximation of the function to about
440 fraction bits, far finer than any ulp (log 14). -/
namespace Sys2Proof.Machine

/-! ## Approximations: m · 2^e -/

/-- A real number m · 2^e. -/
structure Approx where
  m : Int
  e : Int
  deriving DecidableEq, Repr

/-- Fraction bits of the fixed-point work. -/
def fixBits : Nat := 448
def fixOne : Int := ((2 ^ fixBits : Nat) : Int)
/-- π and ln 2, in fixed point. -/
def fixPi : Int := 0x3243f6a8885a308d313198a2e03707344a4093822299f31d0082efa98ec4e6c89452821e638d01377be5466cf34e90c6cc0ac29b7c97c50dd
def fixLn2 : Int := 0xb17217f7d1cf79abc9e3b39803f2f6af40f343267298b62d8a0d175b8baafa2be7b876206debac98559552fb4afa1b10ed2eae35c1382144
def mulFix (a b : Int) : Int := a * b / fixOne
def divFix (a b : Int) : Int := a * fixOne / b
/-- x · 2^n rounded down. -/
def scaleInt (x n : Int) : Int := if 0 ≤ n then x * ((2 ^ n.toNat : Nat) : Int) else x / ((2 ^ (-n).toNat : Nat) : Int)
/-- The nearest integer of a fixed-point number. -/
def nearInt (x : Int) : Int := (x + fixOne / 2) / fixOne

/-- Σ over n of term n, each made from the one before: n runs up from `n`. -/
def series (next : (n : Nat) → Int → Int) : (fuel n : Nat) → (term : Int) → Int
  | 0, _, _ => 0
  | k + 1, n, t => if t = 0 then 0 else t + series next k (n + 1) (next (n + 1) t)

/-- e^r for |r| ≤ 1, fixed point. -/
def expSmall (r : Int) : Int := series (fun n t => mulFix t r / n) 140 0 fixOne
/-- e^x of a fixed-point x, for |x| below 2^12. -/
def expApprox (x : Int) : Approx :=
  let k := nearInt (divFix x fixLn2)
  ⟨expSmall (x - k * fixLn2), k - fixBits⟩
/-- 2^x of a fixed-point x. -/
def exp2Approx (x : Int) : Approx :=
  let k := nearInt x
  ⟨expSmall (mulFix (x - k * fixOne) fixLn2), k - fixBits⟩
/-- An approximation as a fixed-point number. -/
def Approx.fix (a : Approx) : Int := scaleInt a.m (a.e + fixBits)
/-- ln of m · 2^e > 0, fixed point. -/
def lnFix (m : Nat) (e : Int) : Int :=
  let l := m.log2
  let y : Int := scaleInt m ((fixBits : Int) - l)
  let up : Bool := mulFix y y > 2 * fixOne
  let y' := if up then y / 2 else y
  let k : Int := e + l + (if up then 1 else 0)
  let z := divFix (y' - fixOne) (y' + fixOne)
  let z2 := mulFix z z
  -- each term carries z^(2n+1); the divisor is taken when it is added
  let sum := (List.range 100).foldl (fun (acc : Int × Int) (n : Nat) => (acc.1 + acc.2 / (2 * n + 1), mulFix acc.2 z2)) (0, z)
  k * fixLn2 + 2 * sum.1
/-- erf(x / √2) of a fixed-point x with |x| ≤ 16. -/
def erfHalf (x : Int) : Int :=
  let z2 := mulFix x x / 2
  let root : Int := ((Nat.sqrt (fixPi * 2 * fixOne).toNat : Nat) : Int)   -- √(2π)
  -- erf(z) = 2/√π · Σ (−1)^n z^(2n+1) / (n! (2n+1)), z = x/√2
  let sum := (List.range 700).foldl (fun (acc : Int × Int) (n : Nat) =>
    (acc.1 + acc.2 / (2 * n + 1), -(mulFix acc.2 z2) / (n + 1))) (0, x)
  divFix (2 * sum.1) root
/-- sin and cos of |r| ≤ 1, fixed point. -/
def sinSmall (r : Int) : Int :=
  let r2 := mulFix r r
  series (fun n t => -(mulFix t r2) / ((2 * n : Nat) * (2 * n + 1 : Nat))) 70 0 r
def cosSmall (r : Int) : Int :=
  let r2 := mulFix r r
  series (fun n t => -(mulFix t r2) / ((2 * n : Nat) * (2 * n - 1 : Nat))) 70 0 fixOne
/-- sin(x + q · π/2) of a fixed-point x. -/
def sinFix (x q : Int) : Int :=
  let n := nearInt (divFix (2 * x) fixPi)
  let r := x - n * fixPi / 2
  match ((n + q) % 4).toNat with
  | 0 => sinSmall r
  | 1 => cosSmall r
  | 2 => -(sinSmall r)
  | _ => -(cosSmall r)

/-- 1 / (1 + e^(−x)) of a fixed-point x. -/
def sigApprox (x : Int) : Approx :=
  let e := expApprox (if x < 0 then x else -x)
  let d := fixOne + e.fix
  if x < 0 then ⟨e.m * fixOne / d, e.e⟩ else ⟨fixOne * fixOne / d, -(fixBits : Int)⟩

/-! ## The functions (R341) -/

/-- A finite value as a fixed-point number, brought within ±2^12 where `lim` asks. -/
def toFix (neg : Bool) (m : Nat) (e : Int) (lim : Bool) : Int :=
  let x := scaleInt m (e + fixBits)
  let x' := if lim then min x (4096 * fixOne) else x
  if neg then -x' else x'

/-- The value of an exact number as an approximation. -/
def ofExact (x : Exact) : Approx :=
  match x with
  | .fin n m e _ => ⟨if n then -(m : Int) else m, e⟩
  | _ => ⟨0, 0⟩

/-- R341. Function `op` (trigger offset − 0x10) of a finite nonzero value in its domain. -/
def xApprox (op : Nat) (neg : Bool) (m : Nat) (e : Int) : Approx :=
  let x := toFix neg m e true
  let v : Exact := .fin neg m e false
  let fx (w : Int) : Approx := ⟨w, -(fixBits : Int)⟩
  match op with
  | 0 => expApprox x
  | 1 => exp2Approx x
  | 2 => fx (lnFix m e)
  | 3 => fx (divFix (lnFix m e) fixLn2)
  | 4 => ofExact (exactDiv (exactInt 1) v).1
  | 5 => ofExact (exactDiv (exactInt 1) (exactSqrt v).1).1
  | 6 => ofExact (exactSqrt v).1
  | 7 => sigApprox x
  | 8 =>
    let t := (expApprox (-(2 * (toFix false m e true)))).fix
    let r := divFix (fixOne - t) (fixOne + t)
    fx (if neg then -r else r)
  | 9 =>
    let g := sigApprox x
    ⟨g.m * (if neg then -(m : Int) else m), g.e + e⟩
  | 10 =>
    let y := toFix false m e true
    let r := if y > 16 * fixOne then (if neg then 0 else fixOne) else (fixOne + erfHalf (if neg then -y else y)) / 2
    ⟨r * (if neg then -(m : Int) else m), e - fixBits⟩
  | 11 => fx (sinFix (toFix neg m e false) 0)
  | _ => fx (sinFix (toFix neg m e false) 1)

/-! ## The bound (R341) -/

/-- Least exponent of a normal number of a type. -/
def minExp (t : Nat) : Int := 1 - (bias t : Int)
/-- The ulp of a type at a real number, as an exponent. -/
def ulpExp (t : Nat) (f : Approx) : Int :=
  let e : Int := if f.m = 0 then minExp t else (f.m.natAbs.log2 : Int) + f.e
  max e (minExp t) - mantW t

/-- R341. The bound of a function in half ulps for a type (0 F32, 1 BF16, 2 F16). -/
def xBound (op t : Nat) : Nat :=
  if t ≠ 0 then 2
  else match op with
    | 4 | 6 => 1
    | 7 | 8 | 11 | 12 => 4
    | 9 | 10 => 6
    | _ => 2

/-- Is |a − b| ≤ n · 2^q? -/
def within (a b : Approx) (n : Nat) (q : Int) : Bool :=
  let lo := min (min a.e b.e) q
  (scaleInt a.m (a.e - lo) - scaleInt b.m (b.e - lo)).natAbs ≤ n * 2 ^ (q - lo).toNat

/-- The value of a code that is no NaN; an infinity stands for the first power of two beyond the range. -/
def codeApprox (t code : Nat) : Approx :=
  match valueOf t code with
  | .inf n => ⟨if n then -1 else 1, (2 : Int) ^ (expW t - 1)⟩
  | x => ofExact x

/-- R341. Does a code lie within the bound of function `op` at a finite value? `big`: |x| > 2^16. -/
def xAdmits (op t : Nat) (big : Bool) (f : Approx) (code : Nat) : Bool :=
  let v := codeApprox t code
  let beyond := decide (f.m ≠ 0) && (f.m.natAbs.log2 : Int) + f.e ≥ (2 : Int) ^ (expW t - 1)
  let trig := op = 11 || op = 12
  !isNaN t code &&
    (if beyond then isInfCode t code && (negOf t code == decide (f.m < 0))
     else if trig && big then within v f 1 (-20) || (t ≠ 0 && within v f 2 (ulpExp t f - 1))
     else within v f (xBound op t) (ulpExp t f - 1) ||
       ((op = 7 || op = 8 || op = 9 || op = 10) && within v f 1 (-126)))

/-! ## One lane (R342) -/

/-- R342. The result of an X function where the spec fixes it: the special values and the exact results. -/
def xFixed (op t code : Nat) : Option (Nat × Flags) :=
  let one := bias t * 2 ^ mantW t
  let half := (bias t - 1) * 2 ^ mantW t
  let inf (neg : Bool) : Nat := withSign t neg (infCode t)
  let zero (neg : Bool) : Nat := withSign t neg 0
  let nan (f : Flags) : Option (Nat × Flags) := some (defaultNaN t, f)
  match valueOf t code with
  | .nan => nan (flIf (isSNaN t code) flNV)
  | .inf neg =>
    match op, neg with
    | 0, false | 1, false | 2, false | 3, false | 6, false | 9, false | 10, false => some (inf false, flNone)
    | 0, true | 1, true | 7, true => some (zero false, flNone)
    | 4, n => some (zero n, flNone)
    | 5, false => some (zero false, flNone)
    | 7, false => some (one, flNone)
    | 8, n => some (withSign t n one, flNone)
    | 9, true | 10, true => some (zero true, flNone)
    | _, _ => nan flNV
  | .fin neg m e _ =>
    if m = 0 then
      match op with
      | 0 | 1 | 12 => some (one, flNone)
      | 2 | 3 => some (inf true, flDZ)
      | 4 | 5 => some (inf neg, flDZ)
      | 7 => some (half, flNone)
      | _ => some (zero neg, flNone)
    else
      let pow2 := m = 2 ^ m.log2
      let exact (x : Exact) : Option (Nat × Flags) :=
        let r := roundFmt x t
        some (r.1, r.2 &&& flOF)
      match op with
      | 1 =>
        if (0 ≤ e || m % 2 ^ (-e).toNat = 0) && (m.log2 : Int) + e < 12 then
          let r := roundFmt (.fin false 1 (scaleInt (if neg then -(m : Int) else m) e) false) t
          if r.2 &&& flNX = 0#6 then some r else none
        else none
      | 2 => if neg then nan flNV else if pow2 && (m.log2 : Int) + e = 0 then some (0, flNone) else none
      | 3 => if neg then nan flNV else if pow2 then exact (exactInt ((m.log2 : Int) + e)) else none
      | 4 => if t = 0 || pow2 then exact (exactDiv (exactInt 1) (.fin neg m e false)).1 else none
      | 5 => if neg then nan flNV else none
      | 6 =>
        if neg then nan flNV
        else
          let r := roundFmt (exactSqrt (.fin neg m e false)).1 t
          if t = 0 || r.2 &&& flNX = 0#6 then some (r.1, flNone) else none
      | _ => none

/-- R341, R342. One lane: fixed where the spec fixes it, else the implementation's code where it lies within the bound. -/
def xLane (op t code : Nat) : Nat × Flags :=
  match xFixed op t code with
  | some r => r
  | none =>
    match valueOf t code with
    | .fin neg m e _ =>
      let f := xApprox op neg m e
      let big := (m.log2 : Int) + e ≥ 16 && !(m = 2 ^ m.log2 && (m.log2 : Int) + e = 16)
      let free := Config.xCode op t code % 2 ^ typeBits t
      let c := if xAdmits op t big f free then free else (roundFmt (.fin (f.m < 0) f.m.natAbs f.e true) t).1
      (c, flIf (isInfCode t c) flOF)
    | _ => (0, flNone)

end Sys2Proof.Machine
end

