-- ==== Sys2Proof/Machine/Special.lean ====
section
/-! DEFINITION. The X unit (R341, R342). -/
namespace Sys2Proof.Machine

/-- R341. Function `op` on every lane of the trigger operand, in the type of o1: the results into DV of X, lane 0 into b.x. -/
def xOp (op : Nat) (o : OpIn) (s : State) : Res State :=
  match scOp s o 1, veVal o with
  | .ok ty, .ok x =>
    let t := ty.toNat
    if t > 2 then illegalType o t
    else
      let r := (lanes t x).map (xLane op t)
      match vectorResult s o 0 (packLanes t (r.map (·.1))) 12 true with
      | .error e => .error e
      | .ok s' =>
        .ok (modCore (scalarResult s' o (BitVec.ofNat 64 ((r.map (·.1)).headD 0)) 12) o.c fun k =>
          noteFlags k (flAll (r.map (·.2))))
  | .error e, _ => .error e
  | _, .error e => .error e

/-- R341. EXP. -/
def opXExp : OpIn → State → Res State := xOp 0
/-- R341. EXP2. -/
def opXExp2 : OpIn → State → Res State := xOp 1
/-- R341. LOG. -/
def opXLog : OpIn → State → Res State := xOp 2
/-- R341. LOG2. -/
def opXLog2 : OpIn → State → Res State := xOp 3
/-- R341. RCP. -/
def opXRcp : OpIn → State → Res State := xOp 4
/-- R341. RSQ. -/
def opXRsq : OpIn → State → Res State := xOp 5
/-- R341. SQRT. -/
def opXSqrt : OpIn → State → Res State := xOp 6
/-- R341. SIG. -/
def opXSig : OpIn → State → Res State := xOp 7
/-- R341. TANH. -/
def opXTanh : OpIn → State → Res State := xOp 8
/-- R341. SILU. -/
def opXSilu : OpIn → State → Res State := xOp 9
/-- R341. GELU. -/
def opXGelu : OpIn → State → Res State := xOp 10
/-- R341. SIN. -/
def opXSin : OpIn → State → Res State := xOp 11
/-- R341. COS. -/
def opXCos : OpIn → State → Res State := xOp 12

/-! ## The meanings -/

/-- X.EXP. -/
def execXExp (m : MoveF) (s : State) : Out := runTrigger opXExp 0x510#12 m s
/-- X.EXP2. -/
def execXExp2 (m : MoveF) (s : State) : Out := runTrigger opXExp2 0x511#12 m s
/-- X.LOG. -/
def execXLog (m : MoveF) (s : State) : Out := runTrigger opXLog 0x512#12 m s
/-- X.LOG2. -/
def execXLog2 (m : MoveF) (s : State) : Out := runTrigger opXLog2 0x513#12 m s
/-- X.RCP. -/
def execXRcp (m : MoveF) (s : State) : Out := runTrigger opXRcp 0x514#12 m s
/-- X.RSQ. -/
def execXRsq (m : MoveF) (s : State) : Out := runTrigger opXRsq 0x515#12 m s
/-- X.SQRT. -/
def execXSqrt (m : MoveF) (s : State) : Out := runTrigger opXSqrt 0x516#12 m s
/-- X.SIG. -/
def execXSig (m : MoveF) (s : State) : Out := runTrigger opXSig 0x517#12 m s
/-- X.TANH. -/
def execXTanh (m : MoveF) (s : State) : Out := runTrigger opXTanh 0x518#12 m s
/-- X.SILU. -/
def execXSilu (m : MoveF) (s : State) : Out := runTrigger opXSilu 0x519#12 m s
/-- X.GELU. -/
def execXGelu (m : MoveF) (s : State) : Out := runTrigger opXGelu 0x51A#12 m s
/-- X.SIN. -/
def execXSin (m : MoveF) (s : State) : Out := runTrigger opXSin 0x51B#12 m s
/-- X.COS. -/
def execXCos (m : MoveF) (s : State) : Out := runTrigger opXCos 0x51C#12 m s

end Sys2Proof.Machine
end

