-- ==== Sys2Proof/Machine/Bundle.lean ====
section
/-! DEFINITION. One execution of a bundle (R162 to R187, R262 to R277, R302 to R304): fetch and decode, live moves and sticky
replays, reads, deliveries, issues, register writes, the end of a stage, and the branch operation of the last execution. -/
namespace Sys2Proof.Machine

/-! ## Operations by instruction -/

/-- The operation that a trigger move issues on its unit. -/
def issueOf (i : Instr) : Option (OpIn → State → Res State) :=
  match i with
  | .sAdd _ _ => some (opSAdd 64)
  | .sSub _ _ => some (opSSub 64)
  | .sMul _ _ => some (opSMul 64)
  | .sMulh _ _ => some (opSMulh 64)
  | .sMulhu _ _ => some (opSMulhu 64)
  | .sDiv _ _ => some (opSDiv 64)
  | .sDivu _ _ => some (opSDivu 64)
  | .sRem _ _ => some (opSRem 64)
  | .sRemu _ _ => some (opSRemu 64)
  | .sAnd _ _ => some (opSAnd 64)
  | .sOr _ _ => some (opSOr 64)
  | .sXor _ _ => some (opSXor 64)
  | .sAndn _ _ => some (opSAndn 64)
  | .sOrn _ _ => some (opSOrn 64)
  | .sShl _ _ => some (opSShl 64)
  | .sShr _ _ => some (opSShr 64)
  | .sSra _ _ => some (opSSra 64)
  | .sRol _ _ => some (opSRol 64)
  | .sRor _ _ => some (opSRor 64)
  | .sCmpeq _ _ => some (opSCmpeq 64)
  | .sCmpne _ _ => some (opSCmpne 64)
  | .sCmplt _ _ => some (opSCmplt 64)
  | .sCmpltu _ _ => some (opSCmpltu 64)
  | .sCmple _ _ => some (opSCmple 64)
  | .sCmpleu _ _ => some (opSCmpleu 64)
  | .sSel _ _ => some (opSSel 64)
  | .sMin _ _ => some (opSMin 64)
  | .sMax _ _ => some (opSMax 64)
  | .sMinu _ _ => some (opSMinu 64)
  | .sMaxu _ _ => some (opSMaxu 64)
  | .sAbs _ _ => some (opSAbs 64)
  | .sSext _ _ => some (opSSext 64)
  | .sZext _ _ => some (opSZext 64)
  | .sExt _ _ => some (opSExt 64)
  | .sIns _ _ => some (opSIns 64)
  | .sPopc _ _ => some (opSPopc 64)
  | .sClz _ _ => some (opSClz 64)
  | .sCtz _ _ => some (opSCtz 64)
  | .sFns _ _ => some (opSFns 64)
  | .sBrev _ _ => some (opSBrev 64)
  | .sBswap _ _ => some (opSBswap 64)
  | .sAdd32 _ _ => some (opSAdd 32)
  | .sSub32 _ _ => some (opSSub 32)
  | .sMul32 _ _ => some (opSMul 32)
  | .sMulh32 _ _ => some (opSMulh 32)
  | .sMulhu32 _ _ => some (opSMulhu 32)
  | .sDiv32 _ _ => some (opSDiv 32)
  | .sDivu32 _ _ => some (opSDivu 32)
  | .sRem32 _ _ => some (opSRem 32)
  | .sRemu32 _ _ => some (opSRemu 32)
  | .sAnd32 _ _ => some (opSAnd 32)
  | .sOr32 _ _ => some (opSOr 32)
  | .sXor32 _ _ => some (opSXor 32)
  | .sAndn32 _ _ => some (opSAndn 32)
  | .sOrn32 _ _ => some (opSOrn 32)
  | .sShl32 _ _ => some (opSShl 32)
  | .sShr32 _ _ => some (opSShr 32)
  | .sSra32 _ _ => some (opSSra 32)
  | .sRol32 _ _ => some (opSRol 32)
  | .sRor32 _ _ => some (opSRor 32)
  | .sCmpeq32 _ _ => some (opSCmpeq 32)
  | .sCmpne32 _ _ => some (opSCmpne 32)
  | .sCmplt32 _ _ => some (opSCmplt 32)
  | .sCmpltu32 _ _ => some (opSCmpltu 32)
  | .sCmple32 _ _ => some (opSCmple 32)
  | .sCmpleu32 _ _ => some (opSCmpleu 32)
  | .sSel32 _ _ => some (opSSel 32)
  | .sMin32 _ _ => some (opSMin 32)
  | .sMax32 _ _ => some (opSMax 32)
  | .sMinu32 _ _ => some (opSMinu 32)
  | .sMaxu32 _ _ => some (opSMaxu 32)
  | .sAbs32 _ _ => some (opSAbs 32)
  | .sSext32 _ _ => some (opSSext 32)
  | .sZext32 _ _ => some (opSZext 32)
  | .sExt32 _ _ => some (opSExt 32)
  | .sIns32 _ _ => some (opSIns 32)
  | .sPopc32 _ _ => some (opSPopc 32)
  | .sClz32 _ _ => some (opSClz 32)
  | .sCtz32 _ _ => some (opSCtz 32)
  | .sFns32 _ _ => some (opSFns 32)
  | .sBrev32 _ _ => some (opSBrev 32)
  | .sBswap32 _ _ => some (opSBswap 32)
  | .sSptest _ _ => some opSSptest
  | .sSpcast _ _ => some opSSpcast
  | .sRefmk _ _ => some opSRefmk
  | .sFadd _ _ => some opSFadd
  | .sFsub _ _ => some opSFsub
  | .sFmul _ _ => some opSFmul
  | .sFma _ _ => some opSFma
  | .sFdiv _ _ => some opSFdiv
  | .sFsqrt _ _ => some opSFsqrt
  | .sFmin _ _ => some opSFmin
  | .sFmax _ _ => some opSFmax
  | .sFcmp _ _ => some opSFcmp
  | .sFcvt _ _ => some opSFcvt
  | .vAdd _ _ => some opVAdd
  | .vSub _ _ => some opVSub
  | .vMul _ _ => some opVMul
  | .vFma _ _ => some opVFma
  | .vFms _ _ => some opVFms
  | .vMin _ _ => some opVMin
  | .vMax _ _ => some opVMax
  | .vAbs _ _ => some opVAbs
  | .vNeg _ _ => some opVNeg
  | .vAnd _ _ => some opVAnd
  | .vOr _ _ => some opVOr
  | .vXor _ _ => some opVXor
  | .vAndn _ _ => some opVAndn
  | .vNot _ _ => some opVNot
  | .vShl _ _ => some opVShl
  | .vShr _ _ => some opVShr
  | .vSra _ _ => some opVSra
  | .vCmp _ _ => some opVCmp
  | .vSel _ _ => some opVSel
  | .vMov _ _ => some opVMov
  | .vPopc _ _ => some opVPopc
  | .vClz _ _ => some opVClz
  | .vFns _ _ => some opVFns
  | .vBrev _ _ => some opVBrev
  | .vMskp _ _ => some opVMskp
  | .vCvt _ _ => some opVCvt
  | .vQnt _ _ => some opVQnt
  | .vDeq _ _ => some opVDeq
  | .vFxa _ _ => some opVFxa
  | .vBcast _ _ => some opVBcast
  | .vPerm _ _ => some opVPerm
  | .vRot _ _ => some opVRot
  | .vIota _ _ => some opVIota
  | .vRed _ _ => some opVRed
  | .vScan _ _ => some opVScan
  | .vScanl _ _ => some opVScanl
  | .vScanf _ _ => some opVScanf
  | .xExp _ => some opXExp
  | .xExp2 _ => some opXExp2
  | .xLog _ => some opXLog
  | .xLog2 _ => some opXLog2
  | .xRcp _ => some opXRcp
  | .xRsq _ => some opXRsq
  | .xSqrt _ => some opXSqrt
  | .xSig _ => some opXSig
  | .xTanh _ => some opXTanh
  | .xSilu _ => some opXSilu
  | .xGelu _ => some opXGelu
  | .xSin _ => some opXSin
  | .xCos _ => some opXCos
  | .ldV _ => some opLdV
  | .ldS _ => some opLdS
  | .ldB _ => some opLdB
  | .ldI _ => some opLdI
  | .ldFe _ => some opLdFe
  | .stV _ => some opStV
  | .stS _ => some opStS
  | .stI _ => some opStI
  | .stM _ => some opStM
  | .stSete _ => some opStSete
  | .stZero _ => some opStZero
  | .mxTid _ => some opMxTid
  | .mxMode _ => some opMxMode
  | .mxZero _ => some opMxZero
  | .mxSete _ => some opMxSete
  | .mxMma _ => some opMxMma
  | .mxMmat _ => some opMxMmat
  | .mxNrm _ => some opMxNrm
  | .mxRd _ => some opMxRd
  | .mxWr _ => some opMxWr
  | .mxBld _ => some opMxBld
  | .mxSeq _ => some opMxSeq
  | .mxWait _ => some opMxWait
  | .mxSound _ => some opMxSound
  | .cpGet _ => some opCpGet
  | .cpPut _ => some opCpPut
  | .cpGetg _ => some opCpGetg
  | .cpPutg _ => some opCpPutg
  | .cpAcc _ => some opCpAcc
  | .cpGetm _ => some opCpGetm
  | .cpAtom _ => some opCpAtom
  | .cpCfa _ => some opCpCfa
  | .cpWaitc _ => some opCpWaitc
  | .cpDrain _ => some opCpDrain
  | .cpPref _ => some opCpPref
  | .cpStat _ => some opCpStat
  | .cpRecov _ => some opCpRecov
  | .cpMig _ => some opCpMig
  | .saOp _ => some opSaOp
  | .saPush _ => some opSaPush
  | .saFlush _ => some opSaFlush
  | .brJmp _ => some opBrJmp
  | .brJmpi _ => some opBrJmpi
  | .brCall _ => some opBrCall
  | .brCalli _ => some opBrCalli
  | .brRet _ => some opBrJmpi
  | .brLoop _ => some opBrLoop
  | .brLoopr _ => some opBrLoopr
  | .brLeave _ => some opBrLeave
  | .brSusp _ => some opBrSusp
  | .brYield _ => some opBrYield
  | .brSpawn _ => some opBrSpawn
  | .brJoinw _ => some opBrJoinw
  | .brHalt _ => some opBrHalt
  | .brTrap _ => some opBrTrap
  | .brSys _ => some opBrSys
  | .brRfe _ => some opBrRfe
  | .brWaitt _ => some opBrWaitt
  | .brKchk _ => some opBrKchk
  | .rgHalloc _ => some opRgHalloc
  | .rgHfree _ => some opRgHfree
  | .rgHinfo _ => some opRgHinfo
  | .rgCap _ => some opRgCap
  | .rgWaitf _ => some opRgWaitf
  | .rgPost _ => some opRgPost
  | .rgClr _ => some opRgClr
  | .rgAlm _ => some opRgAlm
  | .rgAlmStrm _ => some opRgAlmStrm
  | .rgStep _ => some opRgStep
  | .rgBar _ => some opRgBar
  | .rgXfence _ => some opRgXfence
  | .rgDrain _ => some opRgDrain
  | .rgColl _ => some opRgColl
  | .rgCollLoad _ => some opRgCollLoad
  | .rgCollResume _ => some opRgCollResume
  | .rgCollDrop _ => some opRgCollDrop
  | .rgCwait _ => some opRgCwait
  | _ => none

/-! ## Live moves (R164, R166, R303) -/

/-- The re-issue of a sticky record: its trigger port, its count and the two strides. -/
structure Restep where
  trig : Nat
  count : Nat
  sd0 : Word
  sd1 : Word
  deriving DecidableEq, Repr

/-- A live move: its place, destination, fields, the long immediates it may name, and the re-issue it belongs to. -/
structure Live where
  idx : Nat
  d : BitVec 12
  m : MoveF
  longs : List Word
  re : Option Restep := none
  deriving DecidableEq, Repr

/-- The unit page of a move's destination, 0 for the register files. -/
def Live.page (l : Live) : Nat := l.d.toNat / 256
/-- Is it a trigger move? -/
def Live.isTrigger (l : Live) : Bool := portKind l.d = .trigger

/-- The bundle's own moves whose guard holds; those of BR in the last execution only. -/
def ownLives (k : Core) (b : Bundle) (last : Bool) : List Live :=
  ((List.range b.words.length).zip b.words).filterMap fun iw =>
    let l : Live := { idx := iw.1, d := moveDst iw.2, m := moveFields iw.2, longs := b.longs }
    if (l.page = 11 && !last) || !guardTrue k l.m then none else some l

/-- The sticky units of a bundle that replay: those with no move of the bundle. -/
def replayUnits (b : Bundle) : List Nat :=
  b.stick.filter fun u => !b.words.any fun w => stickIndex ((moveDst w).toNat / 256) = some u

/-- R166. The recorded moves of unit u that are live, its re-issue count being `n`. Such a move has no place in the bundle; k.trapi of a
trap that it raises names place word count + 8 · u + i, modulo 16: the spec gives no index (DESIGN CHOICE, log 70). -/
def replayLives (k : Core) (first u n : Nat) : List Live :=
  let r := Map.get k.sticky u {}
  let re : Restep :=
    { trig := r.trig.toNat, count := n, sd0 := Map.get k.sd (2 * u) 0#64, sd1 := Map.get k.sd (2 * u + 1) 0#64 }
  ((List.range r.words.length).zip r.words).filterMap fun iw =>
    let l : Live := { idx := first + iw.1, d := moveDst iw.2, m := moveFields iw.2, longs := r.longs, re := some re }
    if guardTrue k l.m then some l else none

/-- R164. The live moves of an execution: its own, then the replays by unit. `again` is 1 where the counts have not been
increased yet. -/
def livesOf (k : Core) (b : Bundle) (last : Bool) (again : Nat) : List Live :=
  (replayUnits b).foldl (fun acc u =>
    acc ++ replayLives k (b.words.length + 8 * u) u ((Map.get k.sticky u {}).count + again)) (ownLives k b last)

/-- R166. The counts of the replayed records increased. -/
def countReplays (k : Core) (b : Bundle) : Core :=
  { k with sticky := (replayUnits b).foldl (fun m u => Map.update m u {} fun r => { r with count := r.count + 1 }) k.sticky }

/-! ## Stepping of replayed operands (R166, R193) -/

/-- Does operand port n (0 or 1) of a recorded operation hold a reference? -/
def holdsReference (trig n : Nat) : Bool :=
  let page := trig / 256
  let off := trig % 256
  match page with
  | 6 | 7 => n = 0
  | 8 => n = 0 && off = 0x19
  | 9 => off ≤ 0x15 || off = 0x1A || off = 0x1C || (n = 0 && (off = 0x16 || off = 0x17 || off = 0x1D))
  | 10 => n = 0
  | 12 => off = 0x1C
  | _ => false

/-- Does operand port n (0 or 1) of a recorded operation take a scalar? -/
def takesScalar (trig n : Nat) : Bool :=
  let page := trig / 256
  !(page = 3 || page = 4 || (page = 7 && n = 1) || (page = 10 && n = 1 && trig % 256 = 0x11))

/-- R166. A reference stepped in its byte-offset field. The stride is taken as signed, and a field that would fall below 0 is a carry out of
it too: the rule says neither (DESIGN CHOICE, log 71). -/
def stepReference (r : Word) (by_ : Int) : Res Word :=
  let w : Nat := if refTag r = 0 then 52 else if refTag r = 3 then 40 else 24
  let f : Nat := r.toNat % 2 ^ w
  let g := (f : Int) + by_
  if g < 0 || g ≥ ((2 ^ w : Nat) : Int) then raise tcHandleBounds r
  else .ok (BitVec.ofNat 64 (r.toNat - f + g.toNat))

/-- R166. The value that a replayed move delivers. -/
def stepped (l : Live) (v : PVal) : Res PVal :=
  match l.re with
  | none => .ok v
  | some r =>
    let n := l.d.toNat % 256
    if n > 1 || !takesScalar r.trig n then .ok v
    else match v.scalar? with
      | none => .ok v
      | some w =>
        let by_ : Int := (r.count : Int) * (if n = 0 then r.sd0 else r.sd1).toInt
        if holdsReference r.trig n then
          match stepReference w by_ with
          | .ok x => .ok (.sc x)
          | .error e => .error e
        else .ok (.sc (w + BitVec.ofInt 64 by_))

/-! ## An execution in the making -/

/-- An execution so far: the state it would leave, the values read, and what stopped its moves, by place. -/
structure Exec where
  s : State
  vals : List (Live × PVal) := []
  stops : List (Nat × Stop) := []

/-- R175. The place of a stop met at the move of a place: that of the move that raises it. -/
def stopPlace (idx : Nat) (e : Stop) : Nat :=
  match e with
  | .trap t => t.place.getD idx
  | .wait _ | .fault _ => idx
/-- A part of the execution: on success the new state, on failure a stop at a place. -/
def Exec.put (x : Exec) (idx : Nat) (r : Res State) : Exec :=
  match r with
  | .ok s => { x with s := s }
  | .error e => { x with stops := x.stops ++ [(stopPlace idx e, e)] }

/-- R164. One source read, every read before any write; a consuming read closes the region (R185). -/
def readLive (c : Nat) (x : Exec) (l : Live) : Exec :=
  match readSource x.s c l.longs l.idx l.d l.m with
  | .error e => { x with stops := x.stops ++ [(l.idx, e)] }
  | .ok (v, k) =>
    match stepped l v, consumeCheck x.s c l.m with
    | .error e, _ => { x with stops := x.stops ++ [(l.idx, e)] }
    | _, .error e => { x with stops := x.stops ++ [(l.idx, e)] }
    | .ok w, .ok _ => { x with s := setCore x.s c k, vals := x.vals ++ [(l, w)] }

/-- The reads of an execution: live moves, values and stops. -/
def readAll (s : State) (c : Nat) (lives : List Live) : Exec := lives.foldl (readLive c) { s := s }

/-- R159. An immediate at the width of its port as the type registers stand when it is delivered. -/
def widthNow (k : Core) (d : BitVec 12) (v : PVal) : PVal :=
  match v with
  | .im w _ => .im w (immWidth k d)
  | .sc _ | .ve _ | .ma _ => v

/-- R164. Is a move delivered before the others: to an operand port or a sticky port? -/
def deliversFirst (p : Live × PVal) : Bool := portKind p.1.d = .operand || portKind p.1.d = .ty

/-- A value at its port's width; operand and sticky ports take it. -/
def deliverLive (c : Nat) (x : Exec) (p : Live × PVal) : Exec :=
  let v := widthNow (coreOf x.s c) p.1.d p.2
  let y := { x with vals := x.vals ++ [(p.1, v)] }
  match portKind p.1.d with
  | .operand | .ty => y.put p.1.idx (deliverPort y.s c p.1.idx p.1.d p.1.m.src v)
  | _ => y

/-- R164. Every value read is delivered: operand and sticky ports first, in the order of the moves. -/
def deliverAll (c : Nat) (x : Exec) : Exec :=
  (x.vals.filter deliversFirst ++ x.vals.filter fun p => !deliversFirst p).foldl (deliverLive c) { x with vals := [] }

/-- Has a move to a unit's page stopped? Its operation then has no operands. -/
def pageStopped (x : Exec) (lives : List Live) (page : Nat) : Bool :=
  lives.any fun l => l.page = page && x.stops.any fun e => e.1 = l.idx

/-- The operation of a trigger move issued. -/
def issueAt (s : State) (c : Nat) (b : Bundle) (idx : Nat) (d : BitVec 12) (m : MoveF) (v : PVal) : Res State :=
  match (opAt (d.toNat / 256) (d.toNat % 256) m).bind issueOf with
  | none => raiseMove tcUndefinedPort idx d
  | some f => f { c := c, idx := idx, sel := m.src, port := d, addr := b.addr, len := b.len, val := v } s

/-- R220. Units in the order in which their operations take effect within an execution: loads and operand fetches read before
stores. -/
def unitOrder : List Nat := [6, 1, 2, 3, 4, 5, 8, 7, 9, 10, 12]

/-- The triggers of a page issued. -/
def issuePage (c : Nat) (b : Bundle) (lives : List Live) (x : Exec) (page : Nat) : Exec :=
  if pageStopped x lives page then x
  else (x.vals.filter fun p => p.1.page = page && p.1.isTrigger).foldl (fun x p =>
    x.put p.1.idx (issueAt x.s c b p.1.idx p.1.d p.1.m p.2)) x

/-- Register, control and forward writes. -/
def writeLive (c : Nat) (k0 : Core) (x : Exec) (p : Live × PVal) : Exec :=
  match portKind p.1.d with
  | .register | .control | .forward => x.put p.1.idx (moveEffect x.s c p.1.idx p.1.d p.1.m.src k0 p.2)
  | _ => x

/-- R166. Record(u) of the bundle's own triggers. -/
def recordOwn (c : Nat) (b : Bundle) (lives : List Live) (s : State) : State :=
  (lives.filter fun l => l.isTrigger && l.re.isNone).foldl (fun s l =>
    match stickIndex l.page with
    | none => s
    | some u =>
      let ws := b.words.filter fun w => (moveDst w).toNat / 256 = l.page
      modCore s c fun k =>
        { k with sticky := Map.set k.sticky u { valid := ws.length ≤ 8, trig := l.d, words := ws, longs := b.longs } }) s

/-- R180. The forward registers that the live moves consume. -/
def consumedBy (lives : List Live) : BitVec 4 :=
  lives.foldl (fun m l => match consumes l.m with
    | some j => m ||| (1#4 <<< j)
    | none => m) 0#4

/-- R172. The execution enters the slip window: the oldest of 16 retires first; every distance falls by one (R168). -/
def enterWindow (k : Core) (b : Bundle) (lives : List Live) : Core :=
  let k1 := agePends (if k.window.length ≥ 16 then retireOldest k else k)
  { k1 with window := k1.window ++ [{ addr := b.addr, regs := [], consumes := consumedBy lives, flags := 0#6 }], latch := [] }

/-! ## Which stop is taken (R175, R179, R185) -/

/-- The stop of the lowest place. -/
def firstStop : List (Nat × Stop) → Option (Nat × Stop)
  | [] => none
  | x :: t => match firstStop t with
    | none => some x
    | some y => if y.1 < x.1 then some y else some x

def isCloseFirst (e : Stop) : Bool := e = .wait .closeFirst
def isArrival (e : Stop) : Bool := match e with
  | .wait (.arrive _) => true
  | _ => false
/-- The forward writes that a stop holds. -/
def heldWrites (e : Stop) : List (Nat × Nat × Vec) := match e with
  | .wait (.forward l) => l
  | _ => []
def isWait (e : Stop) : Bool := match e with
  | .wait _ => true
  | _ => false

/-- The stop of an execution: a trap of the lowest place; then the closing of the region that an operation needs; then the
lowest wait; then the forward writes held at their ports; last an arrival at a barrier. -/
def chooseStop (l : List (Nat × Stop)) : Option Stop :=
  let hard := l.filter fun e => !isCloseFirst e.2 && !isArrival e.2 && (heldWrites e.2).isEmpty
  match firstStop hard with
  | some (_, e) =>
    if !isWait e then some e else if l.any fun e => isCloseFirst e.2 then some (.wait .closeFirst) else some e
  | none =>
    if l.any fun e => isCloseFirst e.2 then some (.wait .closeFirst)
    else
      let hs := l.flatMap fun e => heldWrites e.2
      if !hs.isEmpty then some (.wait (.forward hs)) else (firstStop l).map (·.2)

/-! ## The end of an execution -/

/-- R164, R177, R303. The end of an execution whose operations have passed: the stage rotates, and after the last execution the
core goes to the next bundle and BR acts. -/
def finish (x : Exec) (c : Nat) (b : Bundle) (last : Bool) (br : Option (Live × PVal)) : Exec :=
  let loopr := br.elim false fun p => p.1.d = 0xB16#12
  let vreg := (coreLaunch x.s c).vreg
  let s1 := if b.eos && !loopr then modCore x.s c fun k => (rotateStage vreg k).1 else x.s
  if !last then
    { x with s := modCore s1 c fun k =>
        { k with rep := k.rep + 1, seqStep := 0, waitUntil := none, held := [], sent := [], remote := [], visit := k.visit + 1, stalls := [],
                 ahead := k.ahead - 1, heads := [], latch := [] } }
  else
    let next := nextOf s1 c b.addr b.len
    let s2 := modCore s1 c fun k => { k with pc := next }
    match br with
    | none => { x with s := endBundle s2 c next }
    | some (l, v) =>
      match issueAt s2 c b l.idx l.d l.m v with
      | .error e => { x with stops := x.stops ++ [(l.idx, e)] }
      | .ok s3 => { x with s := if l.d = 0xB1F#12 then s3 else endBundle s3 c (coreOf s3 c).pc }

/-- The live branch operation among the values read. -/
def branchOf (x : Exec) : Option (Live × PVal) := x.vals.find? fun p => p.1.page = 11 && p.1.isTrigger

/-! ## The bundle at hand (R262 to R276) -/

/-- R262 to R276. The bundle at core c's address. -/
def bundleAt (s : State) (c : Nat) : Res Bundle :=
  let k := coreOf s c
  let n := 16 - k.pc % 64 / 4
  match fetchWord s c k.pc with
  | .error e => .error e
  | .ok h =>
    let want := if !h.getLsbD 31 then 1 else if bits h 27 4 = 15#4 then 8
      else 1 + (bits h 27 4).toNat + 2 * (bits h 25 2).toNat
    match fetchWords s c (min want n) k.pc with
    | .error e => .error e
    | .ok ws =>
      match decodeBundle k.pc (fun j => ws.getD j 0#32) fun u => (Map.get k.sticky u {}).valid with
      | .ok b => .ok b
      | .error t => .error (.trap { code := t.code, info := t.info })

/-- R182, R185. Does a bundle open a region at its start? -/
def opensRegion (k : Core) (b : Bundle) : Bool :=
  k.rep = 0 && k.seqStep = 0 && !k.hm && !k.opened && (k.reopen || b.mark)

/-! ## Queues that slip past a waiting execution (R171, R172, R277) -/

/-- R171, R277. The unit queue of a move, in the order of R156: that of its port's unit; into a register file or a control register, that
of the unit whose result it reads; else S1. -/
def unitQueue (l : Live) : Nat :=
  if l.page ≠ 0 then l.page - 1
  else if l.m.imm then 1
  else match l.m.src.toNat with
    | 0x100 => 0 | 0x102 => 2 | 0x103 => 3 | 0x104 => 4 | 0x105 => 5 | 0x106 => 7 | 0x107 => 8 | 0x108 => 9 | 0x109 => 11
    | _ => 1

/-- The executions decoded while one waits, tried out on a copy of the state of which nothing else is kept: which queues stand, and at
which bundle; the buffers on whose EMPTY lines they stall; how many executions have been decoded. -/
structure Slip where
  s : State
  stands : Map Nat := []
  stalls : List Nat := []
  count : Nat := 0

/-- The registers that a move which does not run leaves for later: its own, or its operation's results. -/
def pendingKeys (vreg : Nat) (k : Core) (l : Live) : List Nat :=
  if l.page = 0 then [regKey vreg k l.d.toNat]
  else if !l.isTrigger then []
  else [resultKey l.page] ++ (dvKey l.page).elim [] fun u => [regKey vreg k (0x40 + (Map.get k.dv u 0#6).toNat)]

/-- One more execution decoded: the moves of queues that stand do not run, and a move that waits stands its queue. `none` where decoding
stops: the bundle is dispatched with every earlier one retired, a trap is met, or a branch is not decided. -/
def slipOne (c : Nat) (x : Slip) : Option Slip :=
  let k := coreOf x.s c
  match bundleAt x.s c with
  | .error _ => none
  | .ok b =>
    let wide := match b.moves with
      | [.ln _ _ _ _] => true
      | _ => false
    if k.mode ≠ .running || k.seqStep ≠ 0 || wide || (x.count ≠ 0 && (b.sync || opensRegion k b)) then none
    else
      let last := k.rep ≥ b.rep
      let lives := livesOf k b last 1
      let free := lives.filter fun l => (Map.find x.stands (unitQueue l)).isNone
      let x1 := readAll (setCore x.s c (enterWindow (countReplays k b) b free)) c free
      let x2 := unitOrder.foldl (issuePage c b free) (deliverAll c x1)
      let x3 := x2.vals.foldl (writeLive c k) x2
      if x3.stops.any fun e => !isWait e.2 then none
      else
        let stuck := lives.filter fun l => !free.contains l || x3.stops.any fun e => e.1 = l.idx
        let stands := stuck.foldl (fun m l => if (Map.find m (unitQueue l)).isSome then m else Map.set m (unitQueue l) b.addr) x.stands
        let lines := x3.stops.filterMap fun e => match e.2 with
          | .wait (.line a h l) => stalledOn x.s a h l
          | _ => none
        let x4 := finish { x3 with stops := [] } c b last (if pageStopped x3 lives 11 then none else branchOf x3)
        let vreg := (coreLaunch x.s c).vreg
        let undecided := !x4.stops.isEmpty || stuck.any fun l => l.page = 11
        let s1 := modCore x4.s c fun k =>
          let k1 := (stuck.flatMap (pendingKeys vreg k)).foldl markEmpty k
          if undecided then { k1 with mode := .stopping } else k1
        some { s := s1, stands := stands, stalls := dedup (x.stalls ++ lines), count := x.count + 1 }

/-- Up to n executions decoded. -/
def slipBy (c : Nat) : (n : Nat) → Slip → Slip
  | 0, x => x
  | n + 1, x => (slipOne c x).elim x (slipBy c n)

/-- R117, R122, R171, R172. A core whose execution waits has decoded one execution more, within 16 of the oldest that has not retired: the
heads of its queues and the buffers that they stall on. -/
def noteSlip (s0 s : State) (c : Nat) : State :=
  let k := coreOf s0 c
  let x := slipBy c (min (k.ahead + 2) (16 - k.window.length)) { s := s0 }
  let next := (coreOf x.s c).pc
  if x.count = 0 then s
  else modCore s c fun k =>
    { k with ahead := x.count - 1, heads := (List.range 12).map fun u => Map.get x.stands u next, stalls := x.stalls }

/-- The outcome of an execution from the state before it. -/
def outcome (s : State) (c : Nat) (x : Exec) : Out :=
  match chooseStop x.stops with
  | none => .next x.s
  | some (.wait .closeFirst) => stopped s c (.wait .closeFirst)
  | some (.wait p) => .next (noteSlip s (parked s c p) c)
  | some e => stopped s c e

/-! ## MX.SEQ (R164, R175, R359) -/

/-- What the ports of MX and BR hold, with the trigger values at their trigger ports. -/
def keptPorts (x : Exec) (c : Nat) : Map Latched :=
  let ports := (coreOf x.s c).latch.filter fun e => e.1 / 256 = 8 || e.1 / 256 = 11
  (x.vals.filter fun p => p.1.isTrigger && (p.1.page = 8 || p.1.page = 11)).foldl (fun m p =>
    Map.set m p.1.d.toNat { val := p.2, idx := p.1.idx, sel := p.1.m.src }) ports

/-- The operands of an MX.SEQ kept for its later steps. -/
def keepSeq (s : State) (c : Nat) (ports : Map Latched) : State :=
  modCore s c fun k =>
    { k with seqOps := (k.seqOps.filter fun q => q.hm ≠ k.hm) ++ [{ hm := k.hm, addr := k.pc, rep := k.rep, ports := ports }],
             waitUntil := none, held := [], sent := [], remote := [], visit := k.visit + 1, stalls := [], ahead := 0, heads := [],
             latch := [] }
def dropSeq (s : State) (c : Nat) : State :=
  modCore s c fun k => { k with seqOps := k.seqOps.filter fun q => q.hm ≠ k.hm }

/-- A kept trigger as a live move with its value. -/
def keptTrigger (ports : Map Latched) (page : Nat) : Option (Live × PVal) :=
  (ports.find? fun e => e.1 / 256 = page && e.1 % 256 ≥ 0x10).map fun e =>
    ({ idx := e.2.idx, d := BitVec.ofNat 12 e.1, m := { guard := 0#4, neg := false, wait := false, imm := false, src := e.2.sel },
       longs := [] }, e.2.val)

/-- One further step of the MX.SEQ in progress, with kept operands. -/
def seqStepOnce (s : State) (c : Nat) (b : Bundle) (last : Bool) (ports : Map Latched) : Out :=
  match keptTrigger ports 8 with
  | none => outcome s c (finish { s := dropSeq (modCore s c fun k => { k with seqStep := 0 }) c } c b last none)
  | some (l, v) =>
    let s1 := modCore s c fun k => { k with latch := ports }
    match issueAt s1 c b l.idx l.d l.m v with
    | .error e => stopped s c e
    | .ok s2 =>
      if (coreOf s2 c).seqStep ≠ 0 then .next (keepSeq s2 c ports)
      else outcome s c (finish { s := dropSeq s2 c } c b last (keptTrigger ports 11))

/-! ## The execution (R164) -/

/-- R359. The operands of an MX.SEQ that resumes without kept ones: the moves of MX and BR read and delivered afresh. -/
def freshPorts (s : State) (c : Nat) (b : Bundle) (last : Bool) : Exec :=
  let lives := (livesOf (coreOf s c) b last 0).filter fun l => l.page = 8 || l.page = 11
  let x := readAll (modCore s c fun k => { k with latch := [] }) c lives
  deliverAll c x

/-- R164. One execution of bundle b on core c. -/
def runBundle (s : State) (c : Nat) (b : Bundle) : Out :=
  let k := coreOf s c
  let last := k.rep ≥ b.rep
  if k.seqStep ≠ 0 then
    match k.seqOps.find? fun q => q.hm = k.hm && q.addr = k.pc && q.rep = k.rep with
    | some q => seqStepOnce s c b last q.ports
    | none =>
      let x := freshPorts s c b last
      match chooseStop x.stops with
      | some e => stopped s c e
      | none => seqStepOnce s c b last (keptPorts x c)
  else
    let lives := livesOf k b last 1
    let k1 := enterWindow (countReplays k b) b lives
    let x1 := readAll (setCore s c k1) c lives
    let x2 := deliverAll c x1
    let x3 := unitOrder.foldl (issuePage c b lives) x2
    let x4 := x3.vals.foldl (writeLive c k) x3
    let x5 := { x4 with s := recordOwn c b lives x4.s }
    if (coreOf x5.s c).seqStep ≠ 0 then
      match chooseStop x5.stops with
      | some e => stopped s c e
      | none => .next (keepSeq x5.s c (keptPorts x5 c))
    else outcome s c (finish x5 c b last (if pageStopped x5 lives 11 then none else branchOf x5))

/-- R162, R172, R180. Must earlier executions have retired before a bundle runs: a realign bit, a forward register consumed
before or now, a control register written, or a carry between neighbours (R340)? -/
def needsRetired (k : Core) (b : Bundle) : Bool :=
  b.sync || b.mark || k.window.any (fun u => u.consumes ≠ 0#4) ||
  b.words.any fun w => (consumes (moveFields w)).isSome || portKind (moveDst w) = .control || moveDst w = 0x334#12 ||
    moveDst w = 0x434#12

/-- R164. One execution of the bundle at the current core's address. The opening of a region is a step of its own. -/
def execBundleExecute (s : State) : Out :=
  let c := s.cur
  let k := coreOf s c
  if k.mode ≠ .running then .next s
  else match bundleAt s c with
    | .error e => stopped s c e
    | .ok b =>
      let s1 := if needsRetired k b && k.seqStep = 0 then modCore s c retireAll else s
      if opensRegion k b then .next (openRegion (modCore s1 c retireAll) c b.addr)
      else match b.moves with
        | [.ln ba bb bd body] => execLn ba bb bd body s1
        | _ => runBundle s1 c b

end Sys2Proof.Machine
end

