-- ==== Sys2Proof/Machine/Dispatching.lean ====
section
/-! DEFINITION. The dispatchers (R131 to R155, R181): placement sets, the choice of an entry, pick-up, step groups, pre-emption,
context frames, evacuation, relaunch, stealing and the self-test rotation. -/
namespace Sys2Proof.Machine

/-! ## Placement (R135, R144, R425) -/

/-- The codes of DOMAIN (R109). -/
def domainOfLevel (l : Launch) (n : Nat) : Nat := (levelWord l n).elim 0 fun w => w.domain
/-- R135. The domain that governs a level: the nearest lower level's where it is NONE, PACKAGE where every one is. -/
def governing (l : Launch) : Nat → Nat
  | 0 => if domainOfLevel l 0 = 0 then 2 else domainOfLevel l 0
  | n + 1 => if domainOfLevel l (n + 1) = 0 then governing l n else domainOfLevel l (n + 1)

/-- Is compute die d in service? -/
def dieServes (s : State) (d : Nat) : Bool := s.mgmt.csvc.getLsbD d
/-- Is core c in service? -/
def coreServes (s : State) (c : Nat) : Bool := dieServes s (dieOf c) && !(coreOf s c).quarantined
/-- R25, R154. Does the dispatcher place on core c: its die is not draining and its cluster not under test? -/
def coreOpen (s : State) (c : Nat) : Bool :=
  coreServes s c && !s.mgmt.cdrain.getLsbD (dieOf c) && (disp s (dieOf c)).underTest ≠ some (clusterOf c)

/-- R135. Is core c in the placement set of a waypoint, in service or not? -/
def inDomain (l : Launch) (w : Waypoint) (c : Nat) : Bool :=
  match governing l w.level with
  | 3 => dieOf c = w.anchorDie
  | 4 => dieOf c = w.anchorDie && clusterOf c = w.anchorCore / 6
  | 5 => c = w.anchorDie * 48 + w.anchorCore
  | _ => l.dies = 0#8 || l.dies.getLsbD (dieOf c)
/-- R135. The placement set. -/
def inPlacement (s : State) (l : Launch) (w : Waypoint) (c : Nat) : Bool := coreServes s c && inDomain l w c
/-- The anchor of a waypoint as a core of the package. -/
def anchorOf (w : Waypoint) : Nat := w.anchorDie * 48 + w.anchorCore

/-- R144. Do core c's present capacities cover a launch's needs for one of its waypoints? -/
def coversNeeds (s : State) (c : Nat) (l : Launch) (key : WpKey) : Bool :=
  let k := coreOf s c
  let others (lv : Level) : Nat :=
    ((k.handles.filter fun h => h.2.owner ≠ key && h.2.level = lv).flatMap fun h => h.2.banks).length + (reservedBanks (chartOf k lv)).length
  l.spb + others .spad ≤ capacity k .spad && l.opb + others .opd ≤ capacity k .opd && l.vreg ≤ capVreg k && l.acct ≤ capTiles k

/-- R132. Can core c allocate the evacuated handles of a waypoint: their numbers and banks are free? -/
def canRestore (s : State) (c : Nat) (w : Waypoint) : Bool :=
  let k := coreOf s c
  let need (lv : Level) : Nat :=
    ((w.evacuated.filter fun e => e.handle.level = lv).map fun e => e.handle.banks.length).foldl (· + ·) 0
  (w.evacuated.all fun e => (Map.find k.handles e.number).isNone) && need .spad ≤ (freeBanks k .spad).length &&
    need .opd ≤ (freeBanks k .opd).length

/-- R143, R144. May core c take an entry? A member of a step group is placed with its group alone, but for a handler run; a range
is split only while an id is free (R134). -/
def mayTake (s : State) (c : Nat) (w : Waypoint) : Bool :=
  let l := launchOf s w.key.launch
  l.granted && !l.held && l.ending = .running && isEntry s w &&
  (w.state = .faulted || !((levelWord l w.level).elim false fun x => x.step)) &&
  (if w.aff = 2 then anchorOf w = c && coreServes s c else inPlacement s l w c) && coversNeeds s c l w.key && canRestore s c w &&
  (!w.range || w.hi ≤ w.lo + 1 || (freeWpid s w.key.launch).isSome)

/-- R143. The order in which a core looks at an entry: pinned to it, of its cluster, any other. -/
def takeRank (c : Nat) (w : Waypoint) : Nat :=
  if w.aff = 2 then 0 else if w.aff = 1 && w.anchorDie = dieOf c && w.anchorCore / 6 = clusterOf c then 1 else 2

/-! ## The rotation of launches (R140) -/

/-- The entry of a list that became ready first. -/
def oldest : List Waypoint → Option Waypoint
  | [] => none
  | w :: t => match oldest t with
    | some v => if v.readyAt < w.readyAt then some v else some w
    | none => some w

/-- R140. The live launches in acceptance order, from launch `cur` on; from the first where it is not live. -/
def launchesFrom (s : State) (cur : Nat) : List Nat :=
  let ids := s.launches.map fun l => l.id
  ids.dropWhile (· ≠ cur) ++ ids.takeWhile (· ≠ cur)
/-- R140. Has a launch entries of class q at die d? -/
def hasEntries (s : State) (d q l : Nat) : Bool := (entriesOf s d).any fun w => w.key.launch = l && w.prio = q
/-- R140. The circular list of class q at die d, from the pointer on. -/
def rotation (s : State) (d q : Nat) : List Nat := (launchesFrom s (Map.get (disp s d).current q 0)).filter (hasEntries s d q)

/-- R140. The pointers of die d after entries have left it: one whose launch has no entry left in the class moves to the next launch, and
starts anew there. -/
def settlePointers (s : State) (d : Nat) : State :=
  (disp s d).current.foldl (fun s (e : Nat × Nat) =>
    if hasEntries s d e.1 e.2 then s
    else modDisp s d fun x =>
      { x with charge := Map.erase x.charge e.1,
               current := match (rotation s d e.1).head? with
                 | some l => Map.set x.current e.1 l
                 | none => Map.erase x.current e.1 }) s

/-! ## The spill queue (R142) -/

/-- R142. On-chip entries of a dispatcher. -/
def chipEntries : Nat := 1024

/-- R142. The entry that is spilled first: the newest of the lowest class. -/
def spillFirst : List Waypoint → Option Waypoint
  | [] => none
  | w :: t => match spillFirst t with
    | some v => if v.prio > w.prio || (v.prio = w.prio && v.readyAt ≥ w.readyAt) then some v else some w
    | none => some w

/-- R142. Up to n entries of die d go to the spill queue, or come back from it, oldest first, until the chip holds what it can. -/
def settleSpill : (n : Nat) → (d : Nat) → State → State
  | 0, _, s => s
  | n + 1, d, s =>
    let chip := onChip s d
    if chip.length > chipEntries then
      match spillFirst chip with
      | some w => settleSpill n d (modWp s w.key fun w => { w with spilled := true })
      | none => s
    else if chip.length < chipEntries then
      match oldest ((entriesOf s d).filter fun w => w.spilled) with
      | some w => settleSpill n d (modWp s w.key fun w => { w with spilled := false })
      | none => s
    else s

/-- R140, R142. What the dispatchers do by themselves between steps: their pointers and their spill queues. -/
def settleDispatchers (s : State) : State :=
  let s1 := (s.disps.map Prod.fst).foldl settlePointers s
  if s1.waypoints.length ≤ chipEntries && !s1.waypoints.any (fun w => w.spilled) then s1
  else (List.range 8).foldl (fun s d => settleSpill s.waypoints.length d s) s1

/-- R140, R142. The on-chip entry of class q and a rank that core c takes first. -/
def takeFrom (s : State) (c q rank : Nat) : Option Waypoint :=
  (rotation s (dieOf c) q).findSome? fun i =>
    oldest ((onChip s (dieOf c)).filter fun w => w.key.launch = i && w.prio = q && takeRank c w = rank && mayTake s c w)

/-- R140, R143. The entry that an idle core takes. -/
def choice (s : State) (c : Nat) : Option Waypoint :=
  (List.range 3).findSome? fun rank => (List.range 4).findSome? fun q => takeFrom s c q rank

/-- R140. A placement charged to a launch, and the pointer moved where the current launch's weight is used up. -/
def charge (s : State) (d q launch : Nat) : State :=
  match rotation s d q with
  | [] => s
  | cur :: rest =>
    let x := disp s d
    let spent := (if Map.get x.current q 0 = cur then Map.get x.charge q 0 else 0) + (if launch = cur then 1 else 0)
    modDisp s d fun x =>
      if spent ≥ (launchOf s cur).weight then
        { x with current := Map.set x.current q (rest.headD cur), charge := Map.set x.charge q 0 }
      else { x with current := Map.set x.current q cur, charge := Map.set x.charge q spent }

/-! ## Starting a waypoint on a core (R132, R143, R149, R163) -/

/-- The storage of a core with the running state of another core value. -/
def withStorage (k f : Core) : Core :=
  { f with quarantined := k.quarantined, handles := k.handles, spadChart := k.spadChart, opdChart := k.opdChart,
           vregChart := k.vregChart, tileChart := k.tileChart, spad := k.spad,
           opd := k.opd, spadLines := k.spadLines, opdLines := k.opdLines, plans := k.plans }

/-- R163. A core that picks up a READY waypoint without a frame. -/
def freshCore (k : Core) (w : Waypoint) : Core :=
  withStorage k { mode := .running, wp := w.key, pc := w.resume, sc := (span 1 4).zip w.sval }

/-- R149. Completions held while the waypoint was PREEMPTED, added. -/
def addHeld (m : Map (BitVec 32)) (held : List (Nat × Nat)) : Map (BitVec 32) :=
  held.foldl (fun m h => Map.update m h.1 0#32 fun x =>
    ((x &&& 0xFF000000#32) ||| ((x + 1) &&& 0xFFFFFF#32)) ||| (if h.2 = 0 then 0#32 else 1#32 <<< (23 + h.2))) m

/-- R149, R191. A core that restores a context frame. A handler keeps its own repetition and step beside k.rpi and k.mxs of the
program that it interrupts. -/
def restoredCore (s : State) (k f : Core) (w : Waypoint) : Core :=
  let g := withStorage k f
  { g with mode := .running, wp := w.key, pc := w.resume, rep := if f.hm then f.rep else f.rpi.toNat,
           seqStep := if f.hm then f.seqStep else f.mxs.toNat, counters := addHeld f.counters w.heldDone,
           reserved := f.reserved.filter fun r => s.cmds.any fun x => x.id = r.2.2 }

/-- R132. An evacuated handle allocated on core c under its number, its bytes and line states restored. -/
def restoreHandle (s : State) (c : Nat) (key : WpKey) (e : Evacuated) : State :=
  modCore s c fun k =>
    let hd := { e.handle with owner := key, banks := (freeBanks k e.handle.level).take e.handle.banks.length }
    let k1 := { k with handles := Map.set k.handles e.number hd }
    let k2 := putBytes k1 hd ((List.range hd.size).map fun o => (o, Map.get e.bytes o 0#8))
    (List.range (hd.size / 128)).foldl (fun k l => setLine k hd l (Map.get e.lines l .full)) k2

/-- R132. A waypoint's evacuated handles restored on core c. -/
def restoreHandles (s : State) (c : Nat) (w : Waypoint) : State :=
  let s1 := w.evacuated.foldl (fun s e => restoreHandle s c w.key e) s
  modWp s1 w.key fun w => { w with evac := false, evacuated := [] }

/-- R133, R143. A waypoint of the device's records runs on core c: its evacuated handles come back, its registers are as R163 or
its frame gives them, and a fault that waits for a handler run is taken there. -/
def runOn (s : State) (c : Nat) (w : Waypoint) : State :=
  let s0 := restoreHandles s c w
  let s1 := modCore s0 c fun k => match w.frame with
    | some f => restoredCore s0 k f w
    | none => freshCore k w
  let mine := ((coreOf s1 c).handles.filter fun h => h.2.owner = w.key).map (·.1)
  let s2 := modWp s1 w.key fun x =>
    { x with state := if x.state = .faulted then .faulted else .running, wait := 0, frame := none, heldDone := [], pickedAt := s.chron,
             start := (w.resume, w.sval), startHandles := mine, startCmd := s.nextCmd, holder := dieOf c, preempt := false, urged := false,
             spilled := false }
  let s3 := modLaunch s2 w.key.launch fun l => if l.start = 0#64 then { l with start := chronNow s } else l
  match w.fault with
  | some f => enterHandler s3 c f.code f.info f.addr
  | none => s3

/-- R133, R141. The first coordinate of a range as a waypoint of its own, of its launch's class where it is created, and the state with the
rest of the range. -/
def splitFirst (s : State) (w : Waypoint) : State × Waypoint :=
  if !w.range then (s, w)
  else if w.hi ≤ w.lo + 1 then
    let one := { w with range := false }
    (modWp s w.key fun _ => one, one)
  else match freeWpid s w.key.launch with
    | none => (s, w)
    | some id =>
      let one := { w with key := ⟨w.key.launch, id⟩, range := false, hi := w.lo + 1, prio := (launchOf s w.key.launch).prio }
      (addWaypoint (modWp s w.key fun x => { x with lo := x.lo + 1 }) one, one)

/-- R143. WAYPOINT_PICKUP: an idle core takes an entry of its die's dispatcher. Field of the argument: core. -/
def execWaypointPickup (s : State) : Out :=
  let c := s.arg.core
  if (coreOf s c).mode ≠ .idle || !coreOpen s c then .next s
  else match choice s c with
    | none => .next s
    | some w =>
      let s0 := charge s (dieOf c) w.prio w.key.launch
      let (s1, one) := splitFirst s0 w
      .next (noteEmpty (runOn s1 c one) (dieOf c))

/-! ## Step groups (R137, R181) -/

/-- The end of the run of coordinates from r on that some waypoints cover, found in n rounds. -/
def reachOf (ws : List Waypoint) : (n r : Nat) → Nat
  | 0, r => r
  | n + 1, r => reachOf ws n (ws.foldl (fun r w => if w.lo ≤ r then max r w.hi else r) r)
/-- R137. Do the coordinates of some waypoints, ended ones included, cover [0, extent)? -/
def coversAll (ws : List Waypoint) (extent : Nat) : Bool := reachOf ws ws.length 0 ≥ extent

/-- R181. n consecutive chain positions from core c, where the chain has them. -/
def chainRun (l : Launch) : (n c : Nat) → Option (List Nat)
  | 0, _ => some []
  | 1, c => some [c]
  | n + 2, c =>
    match chainNext l c with
    | none => none
    | some d => (chainRun l (n + 1) d).map fun r => c :: r

/-- R181. The runs of chain positions within the placement set of a member, every one in service. -/
def groupRuns (s : State) (l : Launch) (w : Waypoint) (extent : Nat) : List (List Nat) :=
  (List.range 384).filterMap fun c =>
    if extent > 384 then none
    else match chainRun l extent c with
      | some r => if r.all (inPlacement s l w) && (dedup r).length = extent then some r else none
      | none => none

/-- The member that holds a coordinate, live. -/
def memberAt (ms : List Waypoint) (x : Nat) : Option Waypoint := ms.find? fun w => w.lo ≤ x && x < w.hi

/-- R137. Can every live member of a group go to its place of a run now: idle, open, covered, and its anchor where it is pinned? -/
def runFits (s : State) (l : Launch) (ms : List Waypoint) (r : List Nat) : Bool :=
  (List.range r.length).all fun i =>
    match memberAt ms i, r[i]? with
    | some w, some c =>
      (coreOf s c).mode = .idle && coreOpen s c && coversNeeds s c l w.key && canRestore s c w && (w.aff ≠ 2 || anchorOf w = c)
    | _, _ => true

/-- R137. Members placed, one after another, on the cores of a run. -/
def placeRun (s : State) (g : GroupKey) (r : List Nat) : State :=
  (List.range r.length).foldl (fun s i =>
    match memberAt ((membersOf s g).filter (isEntry s)) i, r[i]? with
    | some w, some c =>
      let (s1, one) := splitFirst (charge s w.holder w.prio w.key.launch) w
      noteEmpty (runOn s1 c one) w.holder
    | _, _ => s) s

/-- R137, R181. Members made FAULTED with PLACEMENT. -/
def faultGroup (s : State) (g : GroupKey) : State :=
  (liveMembers s g).foldl (fun s w => endFaulted s w.key tcPlacement w.resume) s

/-- R134, R137. Has a launch ids free for every waypoint still to be split from the ranges among some of its waypoints? -/
def idsEnough (s : State) (launch : Nat) (ms : List Waypoint) : Bool :=
  let used := (s.waypoints.filter fun w => w.key.launch = launch && !ended s w).length
  let more := (ms.map fun w => if w.range then w.hi - w.lo - 1 else 0).foldl (· + ·) 0
  used + more ≤ 0xFFFFF

/-- R146. A waypoint's pre-emption asked for; in a step group, that of every member on a core (R137). -/
def askPreempt (s : State) (key : WpKey) : State :=
  match findWp s key with
  | none => s
  | some w =>
    let all := if (levelWord (launchOf s key.launch) w.level).elim false fun x => x.step then membersOf s (groupOf w) else [w]
    all.foldl (fun s m => match heldByCore s m.key with
      | some c => enqueue (modWp s m.key fun x => { x with preempt := true }) .preemptHalt { core := c }
      | none => s) s

/-- R137, R146. The re-placement of a group: its members on cores pre-empted, once no member is suspended or ended by a fault. -/
def recallGroup (s : State) (ms : List Waypoint) : State :=
  if ms.all fun m => m.state = .ready || m.state = .preempted || m.state = .running then
    match ms.find? fun m => m.state = .running && !m.preempt with
    | some m => askPreempt s m.key
    | none => s
  else s

/-- R137. STEP_GROUP_PLACE: a complete step group placed at once, or made FAULTED; where some members still run, they are
pre-empted first. Field: group. -/
def execStepGroupPlace (s : State) : Out :=
  let g := s.arg.group
  let l := launchOf s g.launch
  let ms := liveMembers s g
  match levelWord l g.level, ms with
  | some x, w :: _ =>
    let whole := coversAll (membersOf s g) x.extent || (ms.any fun m => m.state = .preempted || m.state = .running)
    if !x.step || !l.granted || l.held || l.ending ≠ .running || !whole || !(ms.any fun m => m.state = .ready || m.state = .preempted) then
      .next s
    else if !(ms.all fun m => m.state = .ready || m.state = .preempted) then .next (recallGroup s ms)
    else if !idsEnough s g.launch ms then .next s
    else
      let runs := groupRuns s l w x.extent
      if runs.isEmpty then .next (faultGroup s g)
      else match runs.find? (runFits s l ms) with
        | some r => .next (placeRun s g r)
        | none => .next s
  | _, _ => .next s

/-! ## Priority (R141, R146) -/

/-- R141. PRIORITY_AGE. Field: wp. -/
def execPriorityAge (s : State) : Out :=
  match findWp s s.arg.wp with
  | none => .next s
  | some w =>
    if isEntry s w && w.prio > 0 && s.chron ≥ w.agedAt + 100000 then
      .next (modWp s w.key fun w => { w with prio := w.prio - 1, agedAt := w.agedAt + 100000 })
    else .next s

/-- R146. Of the cores whose waypoint may make room for a waiting one, that of the longest run. -/
def victim (s : State) (l : Launch) (w : Waypoint) : Option Nat :=
  let cs := s.cores.filterMap fun e =>
    match findWp s e.2.wp with
    | none => none
    | some v =>
      if e.2.mode = .running && (launchOf s v.key.launch).prio ≥ 2 && s.chron ≥ v.pickedAt + 100000 && inPlacement s l w e.1 &&
          coreOpen s e.1 && coversNeeds s e.1 l w.key && canRestore s e.1 w && (w.aff ≠ 2 || anchorOf w = e.1) then
        some (v.pickedAt, e.1)
      else none
  cs.foldl (fun best x => match best with
    | none => some x
    | some b => if x.1 < b.1 then some x else some b) none |>.map (·.2)

/-- R146. PRIORITY_PREEMPT: a class-0 waypoint has waited 20,000 ticks and no core can take it. Field: wp. -/
def execPriorityPreempt (s : State) : Out :=
  match findWp s s.arg.wp with
  | none => .next s
  | some w =>
    let l := launchOf s w.key.launch
    let free := (List.range 384).any fun c => (coreOf s c).mode = .idle && coreOpen s c && mayTake s c w
    if !isEntry s w || w.prio ≠ 0 || w.urged || s.chron < w.readyAt + 20000 || free then .next s
    else match victim s l w with
      | none => .next s
      | some c => .next (askPreempt (modWp s w.key fun x => { x with urged := true }) (coreOf s c).wp)

/-! ## Stealing (R133, R145) -/

/-- R145. The entry of die e's dispatcher that die d may steal. A range that cannot be split, as its launch has no free id (R134), is
passed over for the next entry: the spec does not say what such a steal takes (DESIGN CHOICE, log 67). -/
def stealable (s : State) (d e : Nat) : Option Waypoint :=
  (List.range 4).findSome? fun q =>
    oldest ((entriesOf s e).filter fun w =>
      let l := launchOf s w.key.launch
      w.prio = q && w.aff ≠ 2 && !((levelWord l w.level).elim false fun x => x.step) &&
        (span (48 * d) 48).any (inPlacement s l w) && (!w.range || w.hi ≤ w.lo + 1 || (freeWpid s w.key.launch).isSome))

/-- R133, R145. The entry, or the upper half of a range, goes to die d. -/
def stealEntry (s : State) (d : Nat) (w : Waypoint) : State :=
  if w.range && w.hi ≥ w.lo + 2 then
    match freeWpid s w.key.launch with
    | none => s
    | some id =>
      let mid := w.lo + ceilDiv (w.hi - w.lo) 2
      addWaypoint (modWp s w.key fun x => { x with hi := mid })
        { w with key := ⟨w.key.launch, id⟩, lo := mid, holder := d, spilled := false }
  else noteEmpty (modWp s w.key fun x => { x with holder := d, spilled := false }) w.holder

/-- R145. The nearest in-service die to the east, and the nearest to the west, that is not draining. -/
def nearestDies (s : State) (d : Nat) : List Nat :=
  let open_ (e : Nat) : Bool := dieServes s e
  let east := ((span 1 7).map fun j => (d + j) % 8).find? open_
  let west := ((span 1 7).map fun j => (d + 8 - j) % 8).find? open_
  (east.toList ++ west.toList).filter fun e => !s.mgmt.cdrain.getLsbD e

/-- R145. DISPATCHER_STEAL: die `die` has been without entries for a further 2,000 ticks. -/
def execDispatcherSteal (s : State) : Out :=
  let d := s.arg.die
  let x := disp s d
  if !dieServes s d || s.mgmt.cdrain.getLsbD d || !(entriesOf s d).isEmpty || s.chron < x.emptySince + 2000 * (x.steals + 1) then
    .next s
  else
    let s1 := modDisp s d fun x => { x with steals := x.steals + 1 }
    match (nearestDies s d).findSome? (stealable s d) with
    | some w => .next (stealEntry s1 d w)
    | none => .next s1

/-! ## Pre-emption and context frames (R147, R148) -/

/-- R148, R191. The boundary at which core c stops: earlier executions retire, and k.rpi and k.mxs name it, but in a handler,
where they keep naming the interrupted program's. -/
def haltCore (k : Core) : Core :=
  let k1 := retireAll k
  if k.hm then k1 else { k1 with rpi := BitVec.ofNat 64 k.rep, mxs := BitVec.ofNat 64 k.seqStep }

/-- R147. PREEMPT_HALT: a pre-empted core halts at a bundle boundary and abandons what is blocked. A forward write of the abandoned
execution that has been delivered (R181) stays noted, and is not sent again when it runs again (DEDUCED, log 68). A waypoint of a launch
that has ended is discarded there (R115, R118). Field: core. -/
def execPreemptHalt (s : State) : Out :=
  let c := s.arg.core
  let k := coreOf s c
  match findWp s k.wp with
  | none => .next s
  | some w =>
    if !w.preempt || k.mode = .idle || k.mode = .answer || isRelaunching k.mode then .next s
    else
      let s1 := modCore (withdraw s k.wp) c fun k =>
        { haltCore k with mode := .stopping, held := [], waitUntil := none, stalls := [], ahead := 0, heads := [] }
      if (launchOf s k.wp.launch).ending ≠ .running then .next (discardWp (freeCore s1 c) k.wp)
      else .next (enqueue s1 .contextSaveDone { core := c })

/-- R130, R148. The record of a waypoint whose frame is saved, in a state; with handles it is pinned. -/
def saveFrame (s : State) (c : Nat) (st : WpState) : State :=
  let k := coreOf s c
  let l := launchOf s k.wp.launch
  let s1 := modWp s k.wp fun w =>
    pinTo k c { w with state := st, wait := 0, resume := k.pc, holder := dieOf c, leftAt := s.chron,
                       readyAt := s.chron, agedAt := s.chron, prio := l.prio, preempt := false }
  putFrame s1 k.wp (some c) (frameOf k)

/-- R148. CONTEXT_SAVE_DONE: the frame has been written and the waypoint is PREEMPTED. A record that reads FAULTED while its
handler runs keeps that state (R190). Field: core. -/
def execContextSaveDone (s : State) : Out :=
  let c := s.arg.core
  let k := coreOf s c
  match findWp s k.wp with
  | none => .next s
  | some w =>
    if k.mode ≠ .stopping || !w.preempt then .next s
    else .next (settleFreed (freeCore (saveFrame s c (if w.state = .faulted then .faulted else .preempted)) c) k.wp)

/-! ## Evacuation (R131, R55) -/

/-- R131. Does a command in progress, or a collective call that runs, access handle h of core c? -/
def handleTargeted (s : State) (c h : Nat) : Bool :=
  (s.cmds.any fun x =>
    dieOf x.core = dieOf c && [x.src, x.dst, x.idx].any (refNames s c h (launchOf s x.wp.launch)) || x.updates.any fun u => match u.1 with
      | .spad a b _ => a = c && b = h
      | _ => false) ||
  s.cores.any fun e => dieOf e.1 = dieOf c && e.2.plans.any fun (p : Nat × PlanSlot) => match p.2.call with
    | some x => x.running && [x.src, x.dst, x.scr].any (refNames s c h (launchOf s p.2.launch))
    | none => false
/-- R55. Does an armed entry of a live stream name handle h of core c? -/
def handleArmed (s : State) (c h : Nat) : Bool :=
  (station s (2 * dieOf c)).almanac.any fun e =>
    armed e.2 && field (entryRef e.2) 17 6 = coreNo c && field (entryRef e.2) 9 8 = h &&
      (streamLaunch s (2 * dieOf c) (entryStream e.2)).isSome

/-- The handles of a waypoint on core c. -/
def handlesOf (s : State) (c : Nat) (key : WpKey) : List (Nat × Handle) :=
  (coreOf s c).handles.filter fun h => h.2.owner = key

/-- R131. May a waypoint's handles leave core c now? -/
def mayEvacuate (s : State) (c : Nat) (key : WpKey) : Bool :=
  (handlesOf s c key).all fun h => !handleTargeted s c h.1 && !handleArmed s c h.1

/-- R131. The copy of a handle of a core. -/
def copyOut (k : Core) (h : Nat × Handle) : Evacuated :=
  { number := h.1, handle := h.2,
    bytes := (atOffset 0 (handleBytes k h.2 0 h.2.size)).filter fun b => b.2 ≠ 0#8,
    lines := ((List.range (h.2.size / 128)).map fun l => (l, lineState k h.2 l)).filter fun x => x.2 ≠ .full }

/-- R131. A waypoint's handles copied out of core c and freed: it is free, with EVAC set. -/
def evacuate (s : State) (c : Nat) (key : WpKey) : State :=
  let hs := handlesOf s c key
  if hs.isEmpty then s
  else
    let out := hs.map (copyOut (coreOf s c))
    let s1 := modWp s key fun w => { w with evac := true, evacuated := out, aff := 0, pmask := 0#8 }
    releaseHandles s1 c fun _ h => h.owner = key

/-- R150. Is what core c's handles hold of a level more than its capacity? -/
def levelShort (s : State) (c : Nat) (l : Level) : Bool := (heldBanks (coreOf s c) l).length > capacity (coreOf s c) l
/-- R150. The waypoint pinned to core c whose handles a fall of capacity takes next: the oldest that holds banks of a short level and no
handle that an armed entry names. -/
def shrinkTurn (s : State) (c : Nat) : Option Waypoint :=
  (pinnedTo s c).find? fun w =>
    ((levelShort s c .spad && banksOf s c .spad w.key > 0) || (levelShort s c .opd && banksOf s c .opd w.key > 0)) &&
      !((handlesOf s c w.key).any fun h => handleArmed s c h.1)
/-- R131. The cases in which a pinned waypoint's handles must leave its core. -/
def mustEvacuate (s : State) (w : Waypoint) : Bool :=
  let c := anchorOf w
  w.aff = 2 && (w.state = .ready || w.state = .suspended || w.state = .preempted) && (heldByCore s w.key).isNone &&
  ((disp s (dieOf c)).underTest = some (clusterOf c) || s.mgmt.cdrain.getLsbD (dieOf c) || (coreOf s c).quarantined ||
    (shrinkTurn s c).elim false fun v => v.key = w.key)

/-- R131. EVACUATION_COMPLETE: what targets a pinned waypoint's handles has completed, and they are copied out. Fields: wp. -/
def execEvacuationComplete (s : State) : Out :=
  match findWp s s.arg.wp with
  | none => .next s
  | some w =>
    if mustEvacuate s w && mayEvacuate s (anchorOf w) w.key then .next (evacuate s (anchorOf w) w.key) else .next s

/-! ## Loss of capacity (R150 to R152) -/

/-- R150. The banks by which core c's running waypoint is over the core's capacity. -/
def banksShort (s : State) (c : Nat) : Nat :=
  let k := coreOf s c
  if (capacity k .spad < (heldBanks k .spad).length && banksOf s c .spad k.wp > 0) ||
      (capacity k .opd < (heldBanks k .opd).length && banksOf s c .opd k.wp > 0) then
    ((heldBanks k .spad).length - capacity k .spad) + ((heldBanks k .opd).length - capacity k .opd)
  else 0

/-- R150. Is a pinned waypoint of the core still to be evacuated first? -/
def evacuationDue (s : State) (c : Nat) : Bool := (shrinkTurn s c).isSome

/-- R150. A relaunch counted in the record and in the launch. -/
def countRelaunch (s : State) (key : WpKey) : State :=
  modLaunch (modWp s key fun w => { w with rcount := w.rcount + 1 }) key.launch fun l => { l with nrelaunch := min (l.nrelaunch + 1) 0xFFFF }

/-- R151. What the waypoint on core c has done since its pick-up is dropped: its gate, and by their tags the copies that it has issued
since in marked regions. -/
def dropWork (s : State) (c : Nat) (w : Waypoint) : State :=
  (s.cmds.filter fun x => x.wp = w.key && x.tag ≠ 0 && x.id ≥ w.startCmd).foldl cancelCmd
    (modCore s c fun k => { k with region := none, frozen := false, held := [], sent := [] })

/-- R151. RESTART, its commands over: handles allocated since the pick-up are freed, and it is READY as its record stood then; FAULTED
where it held handles then. -/
def restart (s : State) (c : Nat) (w : Waypoint) : State :=
  if w.startHandles ≠ [] then freeCore (endFaulted s w.key tcOverCapacity (coreOf s c).pc) c
  else
    let s1 := modWp (makeReady (freeCore (releaseAll s w.key) c) w.key) w.key fun x =>
      { x with resume := x.start.1, sval := x.start.2, frame := none, frameAt := none, leftAt := s.chron, holder := dieOf c, fault := none }
    settleFreed (countRelaunch s1 w.key) w.key

/-- R131, R152. RESUME, its region rolled back and its commands over: the frame is saved, the handles are evacuated, and it is READY as
free. -/
def relaunch (s : State) (c : Nat) (w : Waypoint) : State :=
  settleFreed (countRelaunch (evacuate (freeCore (saveFrame (modCore s c haltCore) c .ready) c) c w.key) w.key) w.key

/-- R149, R151, R152. A relaunch goes on: it ends once the waypoint has no command left and, under RESUME, its handles may leave. -/
def relaunchNow (s : State) (c : Nat) (w : Waypoint) (resume : Bool) : State :=
  if s.cmds.any fun x => x.wp = w.key then s
  else if !resume then restart s c w
  else if mayEvacuate s c w.key then relaunch s c w
  else s

/-- R150. OVER_CAPACITY at a bundle boundary of core c: the relaunch under the launch's RULE begins, or goes on. RESUME without an open
region acts as RESTART (R152). Field: core. -/
def execOverCapacity (s : State) : Out :=
  let c := s.arg.core
  let k := coreOf s c
  match findWp s k.wp with
  | none => .next s
  | some w =>
    match k.mode with
    | .relaunching resume => .next (relaunchNow s c w resume)
    | .idle | .answer => .next s
    | .running | .stopping =>
      if banksShort s c = 0 || evacuationDue s c then .next s
      else
        let l := launchOf s k.wp.launch
        let resume := l.resumeRule && k.region.isSome && !k.frozen
        let s0 := withdraw s k.wp
        if w.rcount ≥ l.rlimit then
          .next (freeCore (endFaulted (modWp s0 k.wp fun w => { w with state := .faulted }) k.wp tcOverCapacity k.pc) c)
        else
          let s1 := modCore (if resume then rollBack s0 c else dropWork s0 c w) c fun k => { k with mode := .relaunching resume }
          .next (relaunchNow s1 c w resume)

/-! ## Self-test (R154, R155) -/

/-- R154. The period of die d's rotation at the present time: I seconds, the selections of Cn n · I/8 seconds after the others'. -/
def testPeriodNow (s : State) (d : Nat) : Nat :=
  let i := s.mgmt.stInterval * 10 ^ 9
  if s.chron < d * i / 8 then 0 else (s.chron - d * i / 8) / i + 1

/-- R154. Must a selection of a cluster be deferred? -/
def testDeferred (s : State) (d cl : Nat) : Bool :=
  let cs := span (48 * d + 6 * cl) 6
  s.mgmt.cdrain.getLsbD d || !dieServes s d ||
  (cs.any fun c => (coreOf s c).handles.any fun h => handleArmed s c h.1) ||
  (s.launches.any fun l => l.steps.any fun x => x.valid && x.loc ≠ 2 && cs.any fun c =>
    stepHolder x d = (c, field x.base.toNat 0 8) && match handleOf s c (field x.base.toNat 0 8) with
      | some h => h.owner.launch = l.id
      | none => false)

/-- R154 steps 1 and 2. A cluster is drained for self-test: no placing, its waypoints pre-empted, pinned ones evacuated. -/
def drainCluster (s : State) (d cl : Nat) : State :=
  let s1 := modDisp s d fun x => { x with underTest := some cl }
  let cs := span (48 * d + 6 * cl) 6
  let s2 := cs.foldl (fun s c => if (coreOf s c).mode = .idle then s else askPreempt s (coreOf s c).wp) s1
  (cs.flatMap (pinnedTo s)).foldl (fun s w => enqueue s .evacuationComplete { wp := w.key }) s2

/-- R154, R155. SELFTEST_ROTATION: die `die` selects its next cluster, or one that a machine check sent to self-test. -/
def execSelftestRotation (s : State) : Out :=
  let d := s.arg.die
  let x := disp s d
  if x.underTest.isSome then .next s
  else match x.urgentTest with
    | cl :: rest => .next (drainCluster (modDisp s d fun x => { x with urgentTest := rest }) d cl)
    | [] =>
      let p := testPeriodNow s d
      if p ≤ x.testPeriod || !underway s then .next s
      else
        let cl := x.nextCluster
        let s1 := modDisp s d fun x => { x with testPeriod := p, nextCluster := (cl + 1) % 8 }
        if testDeferred s d cl then .next (logEvent s1 7 d cl 0x702 0 0 0) else .next (drainCluster s1 d cl)

/-- R154 step 2. Is a cluster drained: its cores idle, nothing pinned to them that R131 evacuates, its engine without commands? A FAULTED
waypoint that waits for its handler run is none of these: its handles stay where they are (DESIGN CHOICE, log 72). -/
def clusterDrained (s : State) (d cl : Nat) : Bool :=
  (span (48 * d + 6 * cl) 6).all fun c =>
    (coreOf s c).mode = .idle && !(s.cmds.any fun x => engineOf x.core = d * 8 + cl) &&
      (coreOf s c).handles.all fun h => (findWp s h.2.owner).elim false fun w => w.state = .faulted

/-- R28, R155, R198. The failing banks that a self-test found in the cores for which p holds are charted. Fields: banks; regs, core and
vector bank, or 16 + tile. -/
def testFindings (s : State) (p : Nat → Bool) : State :=
  let s1 := (s.arg.banks.filter fun b => p b.core && b.bank < physicalBanks b.level).foldl
    (fun s b => bankFails s b.core b.level b.bank) s
  (s.arg.regs.filter fun r => p r.1).foldl (fun s r => regFails s r.1 r.2) s1
/-- The number of banks that it found there. -/
def findingsIn (s : State) (p : Nat → Bool) : Nat :=
  (s.arg.banks.filter fun b => p b.core && b.bank < physicalBanks b.level).length + (s.arg.regs.filter fun r => p r.1).length

/-- R155. SELFTEST_DONE: the test of a drained cluster ends. Fields: die; failed, the failing cores of the cluster; banks and regs, the
failing banks found. -/
def execSelftestDone (s : State) : Out :=
  let d := s.arg.die
  match (disp s d).underTest with
  | none => .next s
  | some cl =>
    if !clusterDrained s d cl then .next s
    else
      let mine (c : Nat) : Bool := dieOf c = d && clusterOf c = cl
      let s1 := testFindings s mine
      let fails := bitsSet s.arg.failed.toNat 6
      let s2 := fails.foldl (fun s i => modCore s (48 * d + 6 * cl + i) fun k => { k with quarantined := true }) s1
      let found := findingsIn s mine
      let code := if fails.isEmpty && found = 0 then 0x601 else 0x602
      .next (modDisp (logEvent s2 6 d cl code 0 0 found) d fun x => { x with underTest := none })

/-! ## Notifications (R128) -/

/-- R128. DISPATCHER_NOTIFY: a home's notification at the dispatcher of die `die` makes a SUSPENDED waypoint READY, or is passed on
to the dispatcher that now holds it. Fields: die, wp. -/
def execDispatcherNotify (s : State) : Out :=
  let key := s.arg.wp
  match findWp s key with
  | none => .next s
  | some w =>
    if w.state ≠ .suspended || (heldByCore s key).isSome then .next s
    else if w.holder ≠ s.arg.die then .next (enqueue s .dispatcherNotify { die := w.holder, wp := key })
    else .next (makeReady s key)

end Sys2Proof.Machine
end

