-- ==== Sys2Proof/Machine/Launching.lean ====
section
/-! DEFINITION. The launch unit and the slot allocator (R42 to R45, R104 to R119): launch queues, the acceptance of a record, the
granting and reclaiming of streams, the root waypoint and completion. -/
namespace Sys2Proof.Machine

/-! ## Launch queues (R104 to R107) -/

/-- R104. LOC and ADDR of a queue's base. -/
def Queue.inDevice (q : Queue) : Bool := q.base.getLsbD 63
def Queue.baseAddr (q : Queue) : Nat := field q.base.toNat 0 52
def Queue.pidxAddr (q : Queue) : Nat := field q.paddr.toNat 0 52
def Queue.cidxAddr (q : Queue) : Nat := field q.caddr.toNat 0 52

/-- n bytes of a queue's memory; `none` outside the device's address space. What the launch unit does with a poisoned word the spec
does not say: its bytes are free values (DESIGN CHOICE, log 52). -/
def queueRead (s : State) (q : Queue) (a n : Nat) : Option (List Byte) :=
  if !q.inDevice then some (readBytes s.hostMem a n)
  else if dpaExists (a + n - 1) then some (seenBytes s (atHome s a) n)
  else none
/-- Bytes written to a queue's memory. -/
def queueWrite (s : State) (q : Queue) (a : Nat) (bs : List Byte) : Option State :=
  if !q.inDevice then some (emitLink { s with hostMem := writeBytes s.hostMem a bs } (.hostWrite .itoMWr a bs))
  else if dpaExists (a + bs.length - 1) then some (storeDram s (atHome s a) bs)
  else none

/-- R101. The first line of a queue's memory that the host may hold. -/
def queueHeld (s : State) (q : Queue) (a n : Nat) : Option Nat := if q.inDevice then heldLine s (atHome s a) n else none

/-- R105. The launch unit begins to read a queue's producer index line, or notes that it must read it once more. In host memory the
read is a CXL.cache request of the launch unit. -/
def startIndexRead (s : State) (n : Nat) : State :=
  let q := queueOf s n
  if !q.en || !underway s then s
  else if q.reading then modQueue s n fun q => { q with again := true }
  else
    let s1 := modQueue s n fun q => { q with reading := true }
    if q.inDevice then enqueue s1 .pidxReadDone { index := n }
    else emitLink { s1 with cxlReqs := s1.cxlReqs ++ [{ agent := 72, seq := BitVec.ofNat 32 n, hpa := q.pidxAddr, kind := .rdShared }] }
      (.cxlCache 72 .rdShared q.pidxAddr 0#1024)

/-- R105. A producer index line in device memory is registered with its home. -/
def registerIndex (s : State) (n : Nat) : State :=
  let q := queueOf s n
  if q.inDevice then modHome s (dpaDie q.pidxAddr) fun h =>
    { h with queues := (h.queues.filter fun x => x.2 ≠ n) ++ [(q.pidxAddr, n)] }
  else s

/-- R104, R107. EN = 1 written to the LQ_CTL of queue n with word v: the queue is enabled at once where its size and addresses are
sound. -/
def enableQueue (s : State) (n : Nat) (v : Word) : State :=
  let q := queueOf s n
  if q.en || !v.getLsbD 31 then s
  else
    let size := v.extractLsb' 0 5
    let sound := 2 ≤ size.toNat && size.toNat ≤ 16 && q.baseAddr % 4096 = 0 && q.pidxAddr % 64 = 0 && q.cidxAddr % 4 = 0
    let s1 := modQueue s n fun q =>
      { q with en := sound, overrun := if sound then false else q.overrun, ien := v.getLsbD 10, pcap := v.extractLsb' 8 2, size := size,
               pidx := none }
    if sound then startIndexRead (registerIndex s1 n) n else s1

/-- R104, R107. LQ_ENABLE: a write of EN = 1 to LQ_CTL. Fields: index, the queue; value, the word written. -/
def execLqEnable (s : State) : Out := .next (enableQueue s (s.arg.index % 64) s.arg.value)

/-- Host memory as the host's own stores have left it. Fields: off, an address; nums, the bytes that stand there. -/
def hostStores (s : State) : State :=
  { s with hostMem := writeBytes s.hostMem s.arg.off (s.arg.nums.map (BitVec.ofNat 8)) }

/-- R105. PIDX_NOTIFY: an invalidation of a producer index line, or its home's notification. Fields: index, the queue; off and nums,
what the host has stored in its memory. -/
def execPidxNotify (s : State) : Out := .next (startIndexRead (hostStores s) (s.arg.index % 64))

/-- R105. CXL_LINK_RECOVER: every enabled queue's producer index line is read again. -/
def execCxlLinkRecover (s : State) : Out := .next ((List.range 64).foldl startIndexRead s)

/-- R101, R105, R106. PIDX_READ_DONE: a read of a producer index line returns; its home first has the host give up the line. Field:
index, the queue. -/
def execPidxReadDone (s : State) : Out :=
  let n := s.arg.index % 64
  let q := queueOf s n
  if !q.reading || s.cxlReqs.any fun r => r.agent = 72 && r.seq.toNat = n then .next s
  else if let some line := queueHeld s q q.pidxAddr 4 then .next (sendSnoop s line)
  else match queueRead s q q.pidxAddr 4 with
    | none => .fault (.noSuchAddress q.pidxAddr)
    | some bs =>
      let p := BitVec.ofNat 32 (ofBytes bs)
      let s1 := modQueue s n fun q => { q with reading := false, again := false }
      if !q.en || !underway s then .next s1
      else if (p - q.cidx).toNat > 2 ^ q.size.toNat then
        let s2 := modQueue s1 n fun q => { q with en := false, overrun := true, pidx := none }
        .next (logEvent s2 4 16 n (0x20000 + n) 0 0 (p.toNat + q.cidx.toNat * 2 ^ 32))
      else
        let s2 := modQueue s1 n fun q => { q with pidx := some p }
        .next (if q.again then startIndexRead s2 n else s2)

/-! ## The launch record (R109 to R112) -/

/-- R109. 64-bit word i of a record. -/
def recWord (r : List Byte) (i : Nat) : Nat := ofBytes ((r.drop (8 * i)).take 8)

/-- R109. A level word. -/
def levelOf (w : Nat) : LevelWord :=
  { extent := field w 32 32, domain := field w 29 3, scope := field w 26 3, step := w.testBit 25, chunk := w.testBit 24,
    cidx := field w 16 8, rmask := BitVec.ofNat 16 w }

/-- R109. The launch of a record's words, without its tables. -/
def recordLaunch (r : List Byte) (id queue index : Nat) : Launch :=
  let w0 := recWord r 0
  let nd := recWord r 11
  { id := id, queue := queue, record := index, weight := field w0 48 8, dies := BitVec.ofNat 8 (field w0 40 8),
    rlimit := field w0 36 4, resumeRule := w0.testBit 35, prio := field w0 30 2, tag := BitVec.ofNat 64 (recWord r 1),
    asid := field (recWord r 2) 48 16, ptroot := field (recWord r 2) 0 48, entry := recWord r 3, traph := recWord r 4,
    compl := recWord r 5, hot := recWord r 6, tidt := recWord r 7, stept := recWord r 8, ringt := recWord r 9, chunkt := recWord r 10,
    acct := field nd 23 5, opb := field nd 16 7, vreg := field nd 9 7, spb := field nd 0 9,
    args := (span 12 4).map fun i => BitVec.ofNat 64 (recWord r i),
    levels := (List.range (min (field w0 26 4) 8)).map fun i => levelOf (recWord r (16 + i)), streams := [], windows := [] }

/-- R109. NLEV, NWIN, NSTR and RINGT of a record. -/
def recLevels (r : List Byte) : Nat := field (recWord r 0) 26 4
def recWindows (r : List Byte) : Nat := field (recWord r 0) 21 5
def recStreams (r : List Byte) : Nat := field (recWord r 0) 15 6
def recRing (r : List Byte) : Nat := recWord r 9

/-- R110. Reason FORMAT. -/
def badFormat (r : List Byte) (l : Launch) : Bool :=
  field (recWord r 0) 56 8 ≠ 1 || field (recWord r 0) 32 3 ≠ 0 || field (recWord r 0) 0 15 ≠ 0 || field (recWord r 11) 28 36 ≠ 0 ||
  (span 24 8).any (fun i => recWord r i ≠ 0) || l.weight = 0 || l.asid = 0
/-- R110. Reason ALIGN. -/
def badAlign (l : Launch) : Bool :=
  l.ptroot % 4096 ≠ 0 || l.entry % 64 ≠ 0 || l.traph % 64 ≠ 0 || l.compl % 64 ≠ 0 || l.hot % 4096 ≠ 0 || l.tidt % 64 ≠ 0 ||
  l.stept % 64 ≠ 0 || l.chunkt % 32 ≠ 0
/-- R110. Reason LEVELS. -/
def badLevels (r : List Byte) (l : Launch) : Bool :=
  recLevels r < 1 || recLevels r > 8 || l.levels.any fun w =>
    w.extent = 0 || w.domain > 5 || w.scope > 4 || (w.chunk && l.chunkt = 0) || (w.rmask ≠ 0#16 && l.stept = 0)
/-- R110. Reason NEEDS. -/
def badNeeds (l : Launch) : Bool := l.spb > 384 || l.vreg > 64 || l.opb > 64 || l.acct > 16
/-- R110. Reason COUNTS. -/
def badCounts (r : List Byte) : Bool :=
  recWindows r > 16 || recStreams r > 32 || (recRing r = 0 && (recWindows r ≠ 0 || recStreams r ≠ 0))

/-- Addresses of a range at which a page or a 4 KiB block of it may begin. -/
def blocksOf (va n : Nat) : List Nat :=
  if n = 0 then [] else (span (va / 4096) ((va + n - 1) / 4096 - va / 4096 + 1)).map fun p => max va (4096 * p)

/-- R110. Is a range of virtual addresses resident with an access kind, not in an EQUATOR page, and in device memory where
`dev`? -/
def residentRange (s : State) (l : Launch) (va n kind : Nat) (dev : Bool) : Bool :=
  va + n ≤ 2 ^ 52 && (blocksOf va n).all fun a =>
    match translate s l.ptroot l.sys a kind with
    | .error _ => false
    | .ok t => match t.place with
      | .dev _ => true
      | .host _ => !dev
      | .remote _ _ => false

/-- R109, R110. Reason TRANSLATE: the addresses of the record and the pages they cover. Those for which R109 gives zero the meaning
none are not asked about where they are zero. -/
def badTranslate (s : State) (r : List Byte) (l : Launch) : Bool :=
  let ring := ringTableBytes (recStreams r) (recWindows r)
  let optional := [(l.traph, 4, 0, false), (l.hot, 4096, 2, true), (l.tidt, 8192, 0, false), (l.stept, 512, 0, false), (l.ringt, ring, 0, false)]
  let want := [(l.entry, 4, 0, false), (l.compl, 64, 2, false)] ++ (optional.filter fun x => x.1 ≠ 0) ++
    (l.levels.filter fun w => w.chunk).map fun w => (l.chunkt + 32 * w.cidx, 32, 0, false)
  want.any fun x => !residentRange s l x.1 x.2.1 x.2.2.1 x.2.2.2

/-- n bytes of a table at a virtual address of a launch; a part that does not translate reads as zero, and the bytes of a poisoned
word are free values (DESIGN CHOICE, log 52). -/
def tableBytes (s : State) (l : Launch) (va n : Nat) : List Byte :=
  (lineParts va n).flatMap fun p =>
    match translate s l.ptroot l.sys p.1 0 with
    | .ok t => (match t.place with
      | .dev (a :: _) => seenBytes s (atHome s a) p.2
      | .host h => readBytes s.hostMem h p.2
      | _ => List.replicate p.2 0#8)
    | .error _ => List.replicate p.2 0#8

/-- R45, R112. A ring window that fails no condition, with the memory die of its pages. -/
def windowAt (s : State) (l : Launch) (base len : Nat) : Option RingWindow :=
  if base % 128 ≠ 0 || len % 128 ≠ 0 || len < 128 || len > 2 ^ 26 || base + len > 2 ^ 52 then none
  else
    let die (a : Nat) : Option Nat :=
      match translate s l.ptroot l.sys a 1, translate s l.ptroot l.sys a 2 with
      | .ok t, .ok _ => (match t.place with
        | .dev [d] => some (dpaDie d)
        | _ => none)
      | _, _ => none
    match die base with
    | none => none
    | some d => if (blocksOf base len).all fun a => die a = some d then some { base := base, length := len, die := d } else none

/-- R112. The windows of a record's ring table. -/
def readWindows (s : State) (l : Launch) (r : List Byte) : List (Option RingWindow) :=
  let bs := tableBytes s l (recRing r) (16 * recWindows r)
  (List.range (recWindows r)).map fun i => windowAt s l (recWord bs (2 * i)) (recWord bs (2 * i + 1))

/-- R112. The stream entries of a record's ring table. -/
def readStreams (s : State) (l : Launch) (r : List Byte) : List StreamReq :=
  let bs := tableBytes s l (recRing r + 256) (144 * recStreams r)
  (List.range (recStreams r)).map fun i =>
    let w := recWord bs (18 * i)
    { ring := if w.testBit 63 then .equator else .meridian, chain := w.testBit 62, dir := if w.testBit 61 then .west else .east,
      lane := field w 58 3, eqid := field w 48 10, pos := BitVec.ofNat 64 (recWord bs (18 * i + 1)),
      flags := (List.range 16).map fun k => BitVec.ofNat 64 (recWord bs (18 * i + 2 + k)) }

/-- R73. Does the Equator ownership table give every position number of a request to its stream? -/
def equatorOwned (s : State) (x : StreamReq) : Bool :=
  (bitsSet x.pos.toNat 64).all fun p =>
    let e := (Map.get s.eq.owners (slotKey x.dir x.lane p) 0#32).toNat
    field e 10 2 = 1 && field e 0 10 = x.eqid && x.eqid ≠ 0

/-- R110, R425. Reason STREAM. -/
def badStreams (s : State) (l : Launch) (xs : List StreamReq) : Bool :=
  let dies := (diesOf l).length
  let chains := (xs.filter fun x => x.chain).length
  (xs.any fun x => x.pos = 0#64 || (x.lane = 0 && x.pos.getLsbD 0) || (x.ring = .equator && !equatorOwned s x)) || chains > dies ||
  (chains ≠ 0 && dies = 1)

/-- R212. The step-region entries at STEPT, read at the launch's acceptance. An entry with an invalid code declares no region. -/
def readSteps (s : State) (l : Launch) : List StepDecl :=
  if l.stept = 0 then []
  else
    let bs := tableBytes s l l.stept 512
    (List.range 16).map fun j =>
      let w := recWord bs (4 * j)
      let d : StepDecl :=
        { valid := w.testBit 63, loc := field w 61 2, esize := if w.testBit 60 then 8 else 4, rule := field w 58 2, fxw := w.testBit 57,
          exp := BitVec.ofNat 16 (field w 40 16), count := field w 0 40, base := BitVec.ofNat 64 (recWord bs (4 * j + 1)) }
      { d with valid := d.valid && d.loc ≠ 3 && d.rule ≠ 3 && d.count ≠ 0 && (!d.fxw || (d.rule = 1 && d.esize = 8)) }

/-- R110. The reason for which a record is rejected (0: none), and the launch with its tables. -/
def validate (s : State) (r : List Byte) (l : Launch) (pcap : Nat) : Nat × Launch :=
  if badFormat r l then (1, l)
  else if badAlign l then (2, l)
  else if badLevels r l then (3, l)
  else if badNeeds l then (4, l)
  else if l.prio < pcap then (5, l)
  else if badCounts r then (6, l)
  else if badTranslate s r l then (7, l)
  else
    let ws := readWindows s l r
    if ws.any Option.isNone then (8, l)
    else
      let xs := readStreams s l r
      if badStreams s l xs then (9, l)
      else (0, { l with windows := ws.filterMap id, streams := xs, steps := readSteps s l })

/-! ## Acceptance (R105, R108) -/

/-- R105. The next queue with a record pending, in ascending order from the one after the last served. -/
def nextQueue (s : State) : Option Nat :=
  ((List.range 64).map fun i => (s.rrQueue + i) % 64).find? fun n =>
    let q := queueOf s n
    q.en && match q.pidx with
      | some p => p ≠ q.cidx
      | none => false

/-- R108. The next launch id that no live launch has. -/
def freshLaunchId (s : State) : Nat :=
  let from_ (i : Nat) : Nat := (s.nextLaunch - 1 + i) % (2 ^ 32 - 1) + 1
  (((List.range 1025).map from_).find? fun i => !s.launches.any fun l => l.id = i).getD 1

/-- R108, R116. A word stored at a virtual address of a launch, where it translates. -/
def storeQuiet (s : State) (l : Launch) (va : Nat) (bs : List Byte) : State :=
  match storeVaRange s l va bs with
  | .ok s' => s'
  | .error _ => s

/-- R116. The completion record: words 1 to 7 first, then word 0 as one write, then the vector of the queue (R103). -/
def writeCompletion (s : State) (l : Launch) (word0 : Nat) (words : List Nat) : State :=
  let s1 := storeQuiet s l (l.compl + 8) (words.flatMap fun w => bytesOf w 8)
  let s2 := storeQuiet s1 l l.compl (bytesOf word0 8)
  if (queueOf s l.queue).ien then emit s2 (.msix l.queue) else s2

/-- R108, R110. A record rejected: its completion record where that translates, and the error log. -/
def reject (s : State) (l : Launch) (reason : Nat) : State :=
  let s1 := logEvent s 4 16 l.queue (0x10000 + reason) 0 0 l.record
  if residentRange s1 l l.compl 64 2 false then
    writeCompletion s1 l (2 ^ 63 + 2 * 2 ^ 48 + reason * 2 ^ 40) [l.tag.toNat, 0, s.chron % 2 ^ 64, 0, 0, 0, 0]
  else s1

/-- R108. A launch is live: its completion word and hotness block are zero and it has its id. -/
def enlist (s : State) (l : Launch) : State :=
  let s1 := storeQuiet s l l.compl (bytesOf 0 8)
  let s2 := if l.hot = 0 then s1 else storeQuiet s1 l l.hot (List.replicate 4096 0#8)
  { s2 with mgmt := { s2.mgmt with contexts := Map.set s2.mgmt.contexts l.asid l.ptroot },
            launches := s2.launches ++ [l], nextLaunch := l.id % (2 ^ 32 - 1) + 1 }

/-- R101. The first line that the host may hold among those that the acceptance of a record reads and writes: the record, the consumer
index, the completion record and the hotness block. -/
def acceptHeld (s : State) (q : Queue) (a : Nat) (l : Launch) : Option Nat :=
  (queueHeld s q a 256).orElse fun _ => (queueHeld s q q.cidxAddr 4).orElse fun _ => (heldVa s l l.compl 64).orElse fun _ =>
    if l.hot = 0 then none else heldVa s l l.hot 4096

/-- R101, R108. LAUNCH_RECORD_ACCEPT: the next pending record is read, validated, translated and pinned, given its id, and CIDX moves on.
R42: its streams are requested with that. -/
def execLaunchRecordAccept (s : State) : Out :=
  if !underway s || s.launches.length ≥ 1024 then .next s
  else match nextQueue s with
    | none => .next s
    | some n =>
      let q := queueOf s n
      let a := q.baseAddr + 256 * (q.cidx.toNat % 2 ^ q.size.toNat)
      match queueRead s q a 256 with
      | none => .fault (.noSuchAddress a)
      | some r =>
        let (reason, l) := validate s r (recordLaunch r (freshLaunchId s) n q.cidx.toNat) q.pcap.toNat
        if let some line := acceptHeld s q a l then .next (sendSnoop s line) else
        let s1 := if reason = 0 then enlist s l else s
        let s2 := modQueue { s1 with rrQueue := (n + 1) % 64 } n fun q => { q with cidx := q.cidx + 1 }
        match queueWrite s2 q q.cidxAddr (bytesOf (q.cidx + 1).toNat 4) with
        | none => .fault (.noSuchAddress q.cidxAddr)
        | some s3 => .next (if reason = 0 then s3 else reject s3 { l with id := 0 } reason)

/-! ## Streams (R42, R43) -/

/-- The requests of the live launches that wait, in the order of R42: launch, place in its list, request. -/
def waitingStreams (s : State) : List (Nat × Nat × StreamReq) :=
  s.launches.flatMap fun l =>
    ((List.range l.streams.length).zip l.streams).filterMap fun x =>
      if x.2.id = 0 && l.ending = .running then some (l.id, x.1, x.2) else none

/-- The granted streams of every launch. -/
def liveStreams (s : State) : List StreamReq := s.launches.flatMap grantedStreams

/-- R42. Do two requests name a common position or flag? -/
def overlap (a b : StreamReq) : Bool :=
  (a.ring = b.ring && a.dir = b.dir && a.lane = b.lane && a.pos &&& b.pos ≠ 0#64) ||
  (a.ring = b.ring && (a.flags.zip b.flags).any fun p => p.1 &&& p.2 ≠ 0#64)

/-- R42. The best-effort positions of a request's lane outside some positions. -/
def bestEffortLeft (s : State) (x : StreamReq) (without : BitVec 64) : Nat :=
  ((List.range 64).filter fun p => (ownerOf s (slotKey x.dir x.lane p)).cls = 0 && !without.getLsbD p).length

/-- R42, R73. The best-effort position numbers of an Equator lane, by the ownership table. -/
def eqBestEffortLeft (s : State) (x : StreamReq) : Nat :=
  ((List.range 64).filter fun p =>
    let key := slotKey x.dir x.lane p
    key % 512 ≠ 0 && field (Map.get s.eq.owners key 0#32).toNat 10 2 = 0).length

/-- R42, R73. May a request be granted beside the requests that wait before it? -/
def grantable (s : State) (x : StreamReq) (before : List StreamReq) : Bool :=
  let live := liveStreams s
  let same := live.filter fun y => y.ring = x.ring
  let held := x.ring = .meridian && (bitsSet x.pos.toNat 64).any fun p => (ownerOf s (slotKey x.dir x.lane p)).cls ≠ 0
  let room (e : StreamReq) : Bool :=
    x.ring = .equator || e.ring = .equator || e.dir ≠ x.dir || e.lane ≠ x.lane || bestEffortLeft s x (x.pos ||| e.pos) ≥ Config.minBestEffort
  !held && !((live ++ s.reclaiming).any (overlap x)) && same.length < 64 &&
  (if x.ring = .equator then eqBestEffortLeft s x else bestEffortLeft s x x.pos) ≥ Config.minBestEffort && before.all fun e => !overlap x e && room e

/-- R42. The first request that can be granted. -/
def nextGrant (s : State) : Option (Nat × Nat × StreamReq) :=
  let ws := waitingStreams s
  (List.range ws.length).findSome? fun i =>
    match ws[i]? with
    | some w => if grantable s w.2.2 ((ws.take i).map fun y => y.2.2) then some w else none
    | none => none

/-- R42. A stream id that no live stream of the Meridian uses, nor one whose positions are still to be reclaimed. -/
def freshStreamId (s : State) : Nat :=
  ((span 1 1023).find? fun i => !(liveStreams s ++ s.reclaiming).any fun y => y.ring = .meridian && y.id = i).getD 1

/-- R42, R44. A request granted: its id, its positions, and its row at every station at its default. What becomes of a best-effort
packet that travels in a position granted to a stream the spec does not say: the grant does not wait for it, and it goes on in the slot
to its destination (DESIGN CHOICE, log 56). -/
def grant (s : State) (l i : Nat) (x : StreamReq) : State :=
  let id := if x.ring = .equator then x.eqid else freshStreamId s
  let s1 := modLaunch s l fun y => { y with streams := y.streams.set i { x with id := id } }
  if x.ring = .equator then s1
  else (bitsSet x.pos.toNat 64).foldl (fun s p => setOwner s (slotKey x.dir x.lane p) { cls := 1, stream := id }) s1

/-- R113. The root waypoint, at the lowest die of DIES in service. -/
def rootWaypoint (s : State) (l : Launch) (d : Nat) : State :=
  let ext := (levelWord l 0).elim 1 fun w => w.extent
  let s1 := modLaunch s l.id fun x => { x with granted := true }
  addWaypoint s1
    { key := ⟨l.id, 1⟩, range := ext > 1, resume := l.entry, level := 0, prio := l.prio, hi := ext, lo := 0, anchorDie := d,
      anchorCore := 0, sval := l.args, holder := d, readyAt := s.chron, agedAt := s.chron }

/-- R113. A launch whose streams have all been granted, whose root waits for a die in service. -/
def rootless (s : State) : Option (Launch × Nat) :=
  s.launches.findSome? fun l =>
    if l.granted || l.held || l.ending ≠ .running || l.streams.any (fun x => x.id = 0) then none
    else ((diesOf l).find? (dieServes s)).map fun d => (l, d)

/-- R42, R113. STREAM_GRANT: after a launch's last grant its root waypoint is created; else the first request that can be is
granted. -/
def execStreamGrant (s : State) : Out :=
  if !underway s then .next s
  else match rootless s with
    | some (l, d) => .next (rootWaypoint s l d)
    | none => match nextGrant s with
      | some (l, i, x) =>
        let s1 := grant s l i x
        .next (match rootless s1 with
          | some (y, d) => if y.id = l then rootWaypoint s1 y d else s1
          | none => s1)
      | none => .next s

/-- R43. A stream ends: its entries read NOP and its rows are gone at every station, its positions are to be reclaimed as they pass
station 15, and its flags are cleared after that. The Equator's positions stay with its ownership table (R73). -/
def reclaimStream (s : State) (x : StreamReq) : State :=
  let here (k : Nat) : Bool := ringAt k = x.ring
  let s1 := disarm s fun k e => here k && entryStream e = x.id
  let s2 := { s1 with stations := s1.stations.map fun t => if here t.1 then (t.1, { t.2 with rows := Map.erase t.2.rows x.id }) else t }
  if x.ring = .equator then clearStreamFlags s2 x
  else (bitsSet x.pos.toNat 64).foldl (fun s p =>
    let key := slotKey x.dir x.lane p
    setSlot s key { slotOf s key with reclaim := true }) { s2 with reclaiming := s2.reclaiming ++ [x] }

/-! ## Completion (R114 to R116) -/

/-- R114. Have a launch's waypoints ended, its commands completed and its join decrements performed? -/
def launchOver (s : State) (l : Launch) : Bool :=
  (l.granted || l.ending ≠ .running) && (s.waypoints.all fun w => w.key.launch ≠ l.id || ended s w) &&
  !(s.cmds.any fun c => c.wp.launch = l.id) && !(s.joinDecs.any fun j => j.launch = l.id) &&
  !(s.cores.any fun e => e.2.mode ≠ .idle && e.2.wp.launch = l.id)

/-- R116. STATUS of a launch that ends. -/
def finalStatus (l : Launch) : Nat :=
  match l.ending with
  | .cancelled => 3
  | .aborted => 4
  | .dieOffline => 5
  | .faulted => 1
  | .running => if l.nfault = 0 then 0 else 1

/-- R114. The steps of a launch's completion. -/
def completeLaunch (s : State) (l : Launch) : State :=
  -- its ring work is disarmed, its collective calls end, its streams, handles and capacities are reclaimed
  let s1 := { s with cores := s.cores.map fun e => (e.1, { e.2 with plans := e.2.plans.filter fun p => p.2.launch ≠ l.id }) }
  let s2 := (grantedStreams l).foldl reclaimStream (disarm s1 fun _ e => e.launch = l.id)
  let s3 := (s2.cores.map (·.1)).foldl (fun s c => releaseHandles s c fun _ h => h.owner.launch = l.id) s2
  -- hotness (R117)
  let s4 := (s3.engines.map (·.1)).foldl (fun s e => flushHot s e l.id) s3
  -- the completion record
  let words := [l.tag.toNat, l.start.toNat, s.chron % 2 ^ 64, l.fcode * 2 ^ 48 + l.fwaypt, l.faddr,
    min l.nfault (2 ^ 32 - 1) * 2 ^ 32 + l.nrelaunch * 2 ^ 16 + l.summary.toNat, 0]
  let s5 := writeCompletion s4 l (2 ^ 63 + finalStatus l * 2 ^ 48 + l.id) words
  -- the pins are released with the launch
  { s5 with launches := s5.launches.filter fun x => x.id ≠ l.id, waypoints := s5.waypoints.filter fun w => w.key.launch ≠ l.id,
            barriers := s5.barriers.filter fun b => b.1.launch ≠ l.id, regions := s5.regions.filter fun r => r.1 / 128 ≠ l.id,
            tokens := s5.tokens.filter fun t => t.key.launch ≠ l.id || t.key.launch = 0 }

/-! ## The return to Harbour (R23, R119) -/

/-- DEV_STATE written: vector 66 is sent where it changes. -/
def setDev (s : State) (st stage reason : Nat) : State :=
  let m := s.mgmt
  if m.devState = st && m.stage = stage && m.reason = reason then s
  else emit { s with mgmt := { m with devState := st, stage := stage, reason := reason } } (.msix 66)

/-- R32. The DIE_CMD command in progress ends with a status. -/
def endDieCmd (s : State) (st : Nat) : State := { s with mgmt := { s.mgmt with dieStatus := st, job := .none } }

/-- R23. Harbour is reached, with every launch completed: what is still under way in the engines and on the rings ends, and DEV_STATE
changes last. -/
def reachHarbour (s : State) (reason : Nat) : State :=
  let engines := s.engines.map fun e => (e.1, { e.2 with reqs := [] })
  let homes := s.homes.map fun h => (h.1, { h.2 with waiters := [], migrations := [] })
  let s1 : State :=
    { s with waypoints := [], cmds := [], joinDecs := [], waiting := [], inbox := [], tokens := [], cxlReqs := [],
             engines := engines, homes := homes, disps := [], mgmt := { s.mgmt with csvc := 0#8, cdrain := 0#8, leaving := none } }
  let s2 := if s1.mgmt.dieStatus = 1 then endDieCmd s1 6 else s1
  setDev s2 1 s2.mgmt.stage reason

/-- R23, R119. The device leaves Underway or its advance for Harbour: every core halts, launch queues are no longer read, and the live
launches end ABORTED; their commands and join decrements complete (R114), and Harbour is reached with the last completion record. An
alarm at level 3 gives its reason to a return already begun. -/
def leaveToHarbour (s : State) (reason : Nat) : State :=
  if s.mgmt.devState = 1 then s
  else if s.mgmt.leaving.isSome then (if reason = 9 then { s with mgmt := { s.mgmt with leaving := some 9 } } else s)
  else
    let s1 := (s.cores.map (·.1)).foldl (fun s c => if (coreOf s c).mode = .idle then s else freeCore s c) s
    let queues := s1.queues.map fun q => (q.1, { q.2 with reading := false, again := false, pidx := none })
    let s2 : State :=
      { s1 with queues := queues, waypoints := s1.waypoints.filter (ended s1), launches := s1.launches.map fun l => { l with ending := .aborted },
                mgmt := { s1.mgmt with leaving := some reason } }
    if s2.launches.isEmpty then reachHarbour s2 reason else s2

/-- R101, R114. The line that the host may hold among those that a launch's completion writes. One that the host cannot give up, as the
link carries only configuration traffic (R102), is not waited for (DESIGN CHOICE, log 69). -/
def completionHeld (s : State) (l : Launch) : Option Nat :=
  if s.eq.linkShut then none
  else (heldVa s l l.compl 64).orElse fun _ => if l.hot = 0 then none else heldVa s l l.hot 4096

/-- R101, R114. LAUNCH_COMPLETE. The homes first have the host give up the lines of the completion record and the hotness block. With the
last launch a return to Harbour that has waited for it ends (R119). Field: index, the launch id. -/
def execLaunchComplete (s : State) : Out :=
  match findLaunch s s.arg.index with
  | none => .next s
  | some l =>
    if !launchOver s l then .next s
    else match completionHeld s l with
      | some line => .next (sendSnoop s line)
      | none =>
        let s1 := completeLaunch s l
        .next (match s1.mgmt.leaving with
          | some reason => if s1.launches.isEmpty then reachHarbour s1 reason else s1
          | none => s1)

end Sys2Proof.Machine
end

