-- ==== Sys2Proof/Machine/Service.lean ====
section
/-! DEFINITION. The management processor (R17, R20 to R35, R96, R97, R119, R207): start-up, the return to Harbour, dies leaving and
entering service, Sighting, supply and temperature, the alarm level, and the invalidation of translations. -/
namespace Sys2Proof.Machine

/-! ## DEV_STATE (R23, R24, R103) -/

/-- R24. REASON in Underway: NONE with every die in service, else DEGRADED. -/
def serviceReason (m : Mgmt) : Nat := if m.csvc = 0xFF#8 && m.msvc = 0xFF#8 && m.retired = 0#8 then 0 else 8
/-- REASON written anew after a change of service in Underway. -/
def refreshReason (s : State) : State :=
  if s.mgmt.devState = 3 then setDev s 3 s.mgmt.stage (serviceReason s.mgmt) else s

/-- R17. The copies of some dies lock to within two ticks of the source: nums holds the offset of each plus 2. What a copy has read
stays its floor, so that it never runs backwards. -/
def lockCopies (s : State) (dies : List Nat) : State :=
  { s with chronFloor := dies.foldl (fun m d => Map.set m d (copyOf s d)) s.chronFloor,
           skew := dies.foldl (fun m d => Map.set m d ((min (s.arg.nums.getD d 2) 4 : Nat) - 2 : Int)) s.skew }
/-- R17. The dies that keep a copy of the Chronometer: compute and memory dies, by R122's numbers. -/
def copyDies : List Nat := List.range 16

/-! ## Start-up (R17, R20 to R22) -/

/-- R17. POWER_ON_RESET: the module is as State.reset gives it; what lies outside it stays. Field: nums, the copies' offsets. -/
def execPowerOnReset (s : State) : Out :=
  .next (lockCopies { State.reset with agenda := s.agenda, arg := s.arg, out := s.out, hostMem := s.hostMem } copyDies)

/-- R21. The advance begins at stage 0x01. -/
def beginAdvance (s : State) : State := setDev s 2 1 s.mgmt.reason

/-- R20. FUNDAMENTAL_RESET_DEASSERT: Harbour, and the advance unless Claolo's configuration holds it. -/
def execFundamentalResetDeassert (s : State) : Out :=
  if !s.mgmt.resetAsserted then .next s
  else
    let s1 := { s with mgmt := { s.mgmt with resetAsserted := false } }
    .next (if s1.mgmt.autoHeld then setDev s1 1 0 2 else beginAdvance s1)

/-- Stations of the compute dies of a mask put into pass-through, the others out of it (R22). -/
def passStations (s : State) (failing : BitVec 8) : State :=
  (List.range 8).foldl (fun s d => modStation s (2 * d) fun t => { t with passThrough := failing.getLsbD d }) s

/-- R21, R22, R96. Underway is reached. -/
def reachUnderway (s : State) : State :=
  let m := { s.mgmt with csvc := s.mgmt.tested, cdrain := 0#8 }
  let s1 := { s with mgmt := m, eq := { s.eq with level := if s.eq.level = 3 then 0 else s.eq.level },
                     disps := (List.range 8).map fun d =>
                       (d, { emptySince := s.chron, testPeriod := testPeriodNow s d : Dispatcher }) }
  (List.range 64).foldl (fun s n => startIndexRead (if (queueOf s n).en then registerIndex s n else s) n)
    (setDev s1 3 7 (serviceReason m))

/-- R21, R28, R121. The Claolo image that has verified runs, and every die loads its microcode from it. -/
def loadImage (s : State) : State :=
  { s with mgmt := { s.mgmt with running := s.mgmt.image, microcode := copyDies.map fun d => (d, s.mgmt.image) } }

/-- R21, R22. ADVANCE_STAGE_COMPLETE: the stage in progress ends. Fields: ok; failed, the stacks (stage 2) or compute dies (stage 3)
that fail; banks and regs, failing banks found at stage 3; nums, the copies' offsets at stage 5. A stack that has failed stage 2 fails
it again until a RESET_M has repaired it. -/
def execAdvanceStageComplete (s : State) : Out :=
  if s.mgmt.devState ≠ 2 then .next s
  else
    let next := setDev s 2 (s.mgmt.stage + 1) s.mgmt.reason
    let fail (reason : Nat) : Out := .next (leaveToHarbour s reason)
    match s.mgmt.stage with
    | 1 => if s.arg.ok then .next (loadImage next) else fail 3
    | 2 =>
      let bad := s.arg.failed ||| s.mgmt.untrained
      if bad = 0#8 then .next next else .next (leaveToHarbour { s with mgmt := { s.mgmt with untrained := bad } } 4)
    | 3 =>
      let s1 := passStations { s with mgmt := { s.mgmt with tested := ~~~s.arg.failed } } s.arg.failed
      let s2 := testFindings s1 fun _ => true
      if s.arg.failed = 0xFF#8 then .next (leaveToHarbour s2 5) else .next (setDev s2 2 4 s2.mgmt.reason)
    | 4 => if s.arg.ok then .next { next with slots := [], ring := 0 } else fail 6
    | 5 => if s.arg.ok then .next (lockCopies next copyDies) else fail 7
    | _ =>
      if !s.arg.ok then fail 6
      else
        let clear (t : Station) : Station := { t with almanac := [], rows := [], flags := [], starving := [], marks := [] }
        .next (reachUnderway
          { next with slots := next.slots.map fun x => (x.1, { hops := x.2.hops }), owners := [], reclaiming := [],
                      stations := next.stations.map fun t => (t.1, clear t.2) })

/-! ## Supply and temperature (R34, R35) -/

/-- R34. SUPPLY_RANGE_CHANGE. Field: ok, the supply is in its range. -/
def execSupplyRangeChange (s : State) : Out :=
  .next { s with mgmt := { s.mgmt with supplyOut := !s.arg.ok, supplySince := if s.mgmt.supplyOut then s.mgmt.supplySince else s.chron } }

/-- R34. SUPPLY_TIMEOUT: out of range for more than 1 ms. -/
def execSupplyTimeout (s : State) : Out :=
  if s.mgmt.supplyOut && s.chron > s.mgmt.supplySince + 1000000 then .next (leaveToHarbour s 0x0B) else .next s

/-- R35. The clock of a die one step lower or higher. -/
def throttled (mhz : Nat) (hot : Bool) : Nat := if hot then max (mhz - 100) 1000 else min (mhz + 100) 2100

/-- R35. TEMPERATURE_REPORT. Fields: nums, the hottest sensor of each die in °C; nums2, the module's power in W. -/
def execTemperatureReport (s : State) : Out :=
  if s.arg.nums.any (· ≥ 115) then .next (leaveToHarbour s 0x0A)
  else
    let overCap := s.arg.nums2.headD 0 > s.mgmt.powerCap
    .next { s with mgmt := { s.mgmt with clocks := (List.range 8).foldl (fun m d =>
      Map.set m d (throttled (clockOf s d) (overCap || s.arg.nums.getD d 0 > 105))) s.mgmt.clocks } }

/-! ## The alarm level (R96, R97) -/

/-- R97, R102. Zeroisation: sessions, key slots, counters and IDE keys; the package drops out of the domain, and the host link carries
only configuration traffic until IDE is set up again. EQ_EPOCH and LEADER keep their values (DESIGN CHOICE, log 62). -/
def zeroise (s : State) : State :=
  { s with eq := { s.eq with sessions := [], keys := [], send := [], expected := [], ideKeys := [], linkShut := true, members := 0#64, dstate := 0,
                             rekey := none, queued := [], joining := false } }

/-- R96. The alarm level raised to a level with its cause. -/
def raiseAlarm (s : State) (level cause : Nat) : State :=
  if level ≤ s.eq.level then s
  else
    let s1 := logEvent { s with eq := { s.eq with level := level } } 5 16 0 level 0 0 cause
    if level = 3 then leaveToHarbour (zeroise s1) 9 else s1

/-- R96. ALARM_DETECTOR. Field: detector. -/
def execAlarmDetector (s : State) : Out :=
  .next (match s.arg.detector with
    | .supplyClock => raiseAlarm s 1 2
    | .voltageGlitch => raiseAlarm s 2 3
    | .tamperMesh => raiseAlarm s 3 4
    | .clockGlitch => raiseAlarm s 3 5)

/-- R96. CLR2 written 1. -/
def clearAlarm2 (s : State) : State := if s.eq.level = 2 then { s with eq := { s.eq with level := 0 } } else s
/-- R96. ALARM_CLR2. -/
def execAlarmClr2 (s : State) : Out := .next (clearAlarm2 s)

/-! ## Compute dies (R25 to R29, R32) -/

/-- R32. A DIE_CMD command for die n: ignored while one is in progress, refused with a status, or begun. -/
def dieCommand (s : State) (cmd n refusal : Nat) (begin_ : State → State) : State :=
  if s.mgmt.dieStatus = 1 then s
  else
    let s1 := { s with mgmt := { s.mgmt with dieCmd := cmd, dieIdx := n } }
    if refusal ≠ 0 then endDieCmd s1 refusal
    else begin_ { s1 with mgmt := { s1.mgmt with dieStatus := 1 } }

/-- R26. Does die n hold a part of a launch: an entry armed at its station by a stream of it, a CHAIN stream that ends there, or a
step region in a scratchpad? -/
def launchOnDie (s : State) (l : Launch) (n : Nat) : Bool :=
  ((station s (2 * n)).almanac.any fun e => armed e.2 &&
    (grantedStreams l).any fun x => x.ring = .meridian && x.id = entryStream e.2) ||
  (diesOf l).any (fun d => match nextDie l d with
    | some e => d = n || e = n
    | none => false) ||
  (l.steps.any fun d => d.valid && d.loc ≠ 2 && match handleOf s (stepHolder d n).1 (stepHolder d n).2 with
    | some h => h.owner.launch = l.id
    | none => false)

/-- R26. A launch held for die n, its waypoints pre-empted on every die. -/
def holdLaunch (s : State) (n : Nat) (l : Launch) : State :=
  let bad := ((station s (2 * n)).almanac.filter fun e => armed e.2).map (fun e => entryStream e.2)
  let mine := ((grantedStreams l).filter fun x => x.ring = .meridian && bad.contains x.id).map fun x => (n, x.id)
  let s1 := modLaunch s l.id fun l => { l with heldFor := l.heldFor ++ [n], broken := l.broken ++ mine }
  (s1.waypoints.filter fun w => w.key.launch = l.id).foldl (fun s w => askPreempt s w.key) s1

/-- R26. Launches that hold a part of a draining die and are not yet held for it are held. -/
def holdLaunches (s : State) (n : Nat) : State :=
  (s.launches.filter fun l => launchOnDie s l n && !l.heldFor.contains n).foldl (fun s l => holdLaunch s n l) s

/-- R25. DRAIN_C of die n. -/
def drainC (s : State) (n : Nat) : State :=
  let refusal := if !underway s || !s.mgmt.csvc.getLsbD n then 5 else if s.mgmt.csvc = 1#8 <<< n then 2 else 0
  dieCommand s 1 n refusal fun s =>
    let s1 := { s with mgmt := { s.mgmt with job := .drain n false, cdrain := s.mgmt.cdrain ||| (1#8 <<< n) } }
    let s2 := holdLaunches s1 n
    let s3 := (span (48 * n) 48).foldl (fun s c => if (coreOf s c).mode = .idle then s else askPreempt s (coreOf s c).wp) s2
    ((span (48 * n) 48).flatMap (pinnedTo s3)).foldl (fun s w => enqueue s .evacuationComplete { wp := w.key }) s3
/-- R25. DRAIN_C. Field: die. -/
def execDrainC (s : State) : Out := .next (drainC s (s.arg.die % 8))

/-- The next compute die east of n that is in service. -/
def nextServing (s : State) (n : Nat) : Option Nat := ((span 1 7).map fun j => (n + j) % 8).find? (dieServes s)

/-- R25 step 3. The waypoints of die n's dispatcher moved to another, and renamed at the homes where they are registered. -/
def moveEntries (s : State) (n d : Nat) : State :=
  let moves (w : Waypoint) : Bool := w.holder = n && w.aff ≠ 2 && (isEntry s w || w.state = .suspended)
  { s with waypoints := s.waypoints.map fun w => if moves w then { w with holder := d } else w,
           homes := s.homes.map fun h => (h.1, { h.2 with waiters := h.2.waiters.map fun x =>
             if x.die = n then { x with die := d } else x }) }

/-- R25, R55. The waypoints pinned to die n that can still be evacuated. -/
def dieEvacuees (s : State) (n : Nat) : List Waypoint :=
  s.waypoints.filter fun w => mustEvacuate s w && w.anchorDie = n &&
    !((handlesOf s (anchorOf w) w.key).any fun h => handleArmed s (anchorOf w) h.1)

/-- R414. The calls of plans with a station that enters pass-through end early with DIE_OFFLINE. -/
def endCallsAt (s : State) (k : Nat) : State :=
  (s.cores.flatMap fun e => e.2.plans.map fun p => (e.1, p.1, p.2)).foldl (fun s x =>
    let l := launchOf s x.2.2.launch
    let uses := x.2.2.plan.chunks.any fun y => (l.streams[y.stream]?).elim false fun st => streamStation x.1 st y.msta = k
    if uses && slotBusy (some x.2.2) then endCallEarly s x.1 x.2.1 5 else s) s

/-- R25. Step 3 of a drain ends: what Cn's dispatcher holds goes to the next compute die east in service. -/
def endEvacuation (s : State) (n : Nat) : State :=
  let s1 := match nextServing s n with
    | some d => moveEntries s n d
    | none => s
  { s1 with mgmt := { s1.mgmt with job := .drain n true } }

/-- R25 steps 5 and 6. Station 2n passes through, and Cn is out of service. -/
def finishDrain (s1 : State) (n : Nat) : State :=
  let s2 := endCallsAt (modStation s1 (2 * n) fun t => { t with passThrough := true }) (2 * n)
  let off : BitVec 8 := ~~~(1#8 <<< n)
  refreshReason (endDieCmd { s2 with mgmt := { s2.mgmt with csvc := s2.mgmt.csvc &&& off, cdrain := s2.mgmt.cdrain &&& off } } 0)

/-- R25. Have the cores of a draining die halted, and has what can be evacuated been? -/
def drainEvacuated (s : State) (n : Nat) : Bool :=
  (span (48 * n) 48).all (fun c => (coreOf s c).mode = .idle) && (dieEvacuees s n).isEmpty

/-- R25, R26. DRAIN_C_COMPLETE: a drain goes on as far as it can. A launch that has come to hold a part of the die meanwhile is held;
when the cores have halted and what can be evacuated has been, step 3 ends; when the die's commands have completed, the drain. -/
def execDrainCComplete (s0 : State) : Out :=
  match s0.mgmt.job with
  | .drain n moved =>
    let s := holdLaunches s0 n
    if !moved && !drainEvacuated s n then .next s
    else
      let s1 := if moved then s else endEvacuation s n
      if s1.cmds.any fun x => dieOf x.core = n then .next s1 else .next (finishDrain s1 n)
  | _ => .next s0

/-- R28. RESET_C of die n. The die's cores, but for the handles that waypoints of held launches still have there, its engines
and its core clocks start anew; its microcode is reloaded from the image verified last. -/
def resetC (s : State) (n : Nat) : State :=
  let refusal := if !underway s || s.mgmt.csvc.getLsbD n then 5 else 0
  dieCommand s 2 n refusal fun s =>
    let fresh (c : Nat) (k : Core) : Core :=
      if dieOf c ≠ n then k else if k.handles.isEmpty then {} else { k with quarantined := false, vregChart := {}, tileChart := {} }
    { s with mgmt := { s.mgmt with job := .reset n, resetDone := s.mgmt.resetDone &&& ~~~(1#8 <<< n),
                                   microcode := Map.set s.mgmt.microcode n s.mgmt.image },
             cores := s.cores.map fun e => (e.1, fresh e.1 e.2), engines := Map.clearRange s.engines (8 * n) (8 * n + 8),
             clocks := Map.set s.clocks n 0 }
/-- R28. RESET_C. Field: die. -/
def execResetC (s : State) : Out := .next (resetC s (s.arg.die % 8))

/-- R28. RESET_C_COMPLETE: the self-test ends. Fields: ok; banks and regs, the failing banks found. -/
def execResetCComplete (s : State) : Out :=
  match s.mgmt.job with
  | .reset n =>
    let s1 := testFindings s fun c => dieOf c = n
    if s.arg.ok then .next (endDieCmd { s1 with mgmt := { s1.mgmt with resetDone := s1.mgmt.resetDone ||| (1#8 <<< n) } } 0)
    else .next (endDieCmd s1 6)
  | _ => .next s

/-- R29. RETURN_C of die n. -/
def returnC (s : State) (n : Nat) : State :=
  let refusal := if !underway s || s.mgmt.csvc.getLsbD n || !s.mgmt.resetDone.getLsbD n then 5 else 0
  dieCommand s 3 n refusal fun s => { s with mgmt := { s.mgmt with job := .ret n } }
/-- R29. RETURN_C. Field: die. -/
def execReturnC (s : State) : Out := .next (returnC s (s.arg.die % 8))

/-- R29 step 4. A launch held for die n goes on: every flag granted to a stream that was broken there is set POISONED. -/
def resumeLaunch (s : State) (n : Nat) (l : Launch) : State :=
  let bad := (l.broken.filter fun b => b.1 = n).map (·.2)
  let flags := (grantedStreams l).flatMap fun x =>
    if x.ring = .meridian && bad.contains x.id then
      (List.range 16).flatMap fun k => ((List.range 64).filter (streamFlag x k)).map fun f => (k, f)
    else []
  let s1 := flags.foldl (fun s p => setFlag s p.1 p.2 2) s
  modLaunch s1 l.id fun l => { l with heldFor := l.heldFor.filter (· ≠ n), broken := l.broken.filter fun b => b.1 ≠ n }

/-- R29. RETURN_C_COMPLETE: the copy has locked. Field: nums, the copies' offsets. -/
def execReturnCComplete (s : State) : Out :=
  match s.mgmt.job with
  | .ret n =>
    let s1 := modStation (lockCopies s [n]) (2 * n) fun t => { t with passThrough := false, almanac := [], flags := [] }
    let s2 := modDisp (endDieCmd { s1 with mgmt := { s1.mgmt with csvc := s1.mgmt.csvc ||| (1#8 <<< n) } } 0) n
      fun x => { x with emptySince := s.chron, steals := 0 }
    .next (refreshReason ((s2.launches.filter fun l => l.heldFor.contains n).foldl (fun s l => resumeLaunch s n l) s2))
  | _ => .next s

/-! ## Memory dies (R30, R31) -/

/-- R30. The leaf entries of an address space below a table. -/
def leavesBelow (s : State) (table : Nat) : (fuel level : Nat) → List Nat
  | 0, _ => []
  | fuel + 1, level =>
    (List.range 512).flatMap fun i =>
      let e := dramNat s (atHome s (table + 8 * i)) 8
      if !pteV e then []
      else if pteSize e ≠ 0 then [e]
      else leavesBelow s (pteFrame e) fuel (level + 1)

/-- R30. Does a context, or a migration, still name memory die n? The contexts are those that records have named, by ASID (log 53). -/
def homesRemain (s : State) (n : Nat) : Bool :=
  let roots := dedup (s.mgmt.contexts.map (·.2) ++ s.launches.map (·.ptroot))
  (roots.any fun r => (List.range 64).any fun i => (regionEntry s r i).elim false fun e => e.dset.testBit n) ||
  (roots.any fun r => (leavesBelow s r 4 1).any fun e => ptePlc e = n + 1) ||
  (s.homes.any fun h => h.2.migrations.any fun m => m.oldDie = n || m.newDie = n)

/-- R30. RETIRE_M of die n. -/
def retireM (s : State) (n : Nat) : State :=
  let refusal := if !underway s || !s.mgmt.msvc.getLsbD n then 5 else if n = 7 then 4 else if homesRemain s n then 3 else 0
  dieCommand s 4 n refusal fun s => { s with mgmt := { s.mgmt with job := .retireM n } }
/-- R30. RETIRE_M. Field: die. -/
def execRetireM (s : State) : Out := .next (retireM s (s.arg.die % 8))

/-- R30. Has memory die n a request that it has accepted and not completed: a packet, a numbered store that it orders or has not
applied, a snoop, a join decrement or a migration? -/
def requestsLeft (s : State) (n : Nat) : Bool :=
  let h := home s n
  s.inbox.any (fun p => p.1 = 2 * n + 1) || s.waiting.any (fun w => w.station = 2 * n + 1) ||
  !h.mcasts.isEmpty || !h.snoops.isEmpty || !h.migrations.isEmpty ||
  s.homes.any (fun x => x.2.mcasts.any fun m => m.owed.any fun a => dpaDie a = n) || s.joinDecs.any fun j => dpaDie j.dpa = n

/-- R30. RETIRE_M_COMPLETE: the die has no request left. -/
def execRetireMComplete (s : State) : Out :=
  match s.mgmt.job with
  | .retireM n =>
    if requestsLeft s n then .next s
    else
      let s1 := endCallsAt (modStation s (2 * n + 1) fun t => { t with passThrough := true }) (2 * n + 1)
      let m := s1.mgmt
      .next (refreshReason (endDieCmd
        { s1 with mgmt := { m with msvc := m.msvc &&& ~~~(1#8 <<< n), retired := m.retired ||| (1#8 <<< n) } } 0))
  | _ => .next s

/-- R30. RETURN_M of die n. -/
def returnM (s : State) (n : Nat) : State :=
  let refusal := if !underway s || s.mgmt.msvc.getLsbD n then 5 else 0
  dieCommand s 5 n refusal fun s => { s with mgmt := { s.mgmt with job := .returnM n } }
/-- R30. RETURN_M. Field: die. -/
def execReturnM (s : State) : Out := .next (returnM s (s.arg.die % 8))

/-- R30, R31. The station of a memory die that serves again leaves pass-through, its Almanac NOP and its flags clear. -/
def memoryStationBack (s : State) (n : Nat) : State :=
  modStation s (2 * n + 1) fun t => { t with passThrough := false, almanac := [], flags := [] }

/-- R30. RETURN_M_COMPLETE: the stack has trained. Field: ok. -/
def execReturnMComplete (s : State) : Out :=
  match s.mgmt.job with
  | .returnM n =>
    if !s.arg.ok then .next (endDieCmd s 6)
    else
      let s1 := memoryStationBack s n
      let m := s1.mgmt
      .next (refreshReason (endDieCmd
        { s1 with mgmt := { m with msvc := m.msvc ||| (1#8 <<< n), retired := m.retired &&& ~~~(1#8 <<< n) } } 0))
  | _ => .next s

/-- R31. RESET_M of die n, in Harbour alone. -/
def resetM (s : State) (n : Nat) : State :=
  dieCommand s 6 n (if s.mgmt.devState ≠ 1 then 5 else 0) fun s => { s with mgmt := { s.mgmt with job := .resetM n } }
/-- R31. RESET_M. Field: die. -/
def execResetM (s : State) : Out := .next (resetM s (s.arg.die % 8))

/-- R31. The stack of memory die n without its contents, its near-memory unit started anew with the verified image's microcode and its
cache banks found failing charted; the producer index lines stay registered (R105). The spec says that the contents are not kept and not
what the stack holds then: the model's DRAM reads zero and is not poisoned (DESIGN CHOICE, log 6). -/
def clearStack (s : State) (n : Nat) (failing : List Nat) : State :=
  let h := home s n
  let s1 : State :=
    { s with mem := zeroRange s.mem (dpaOf n 0) Config.dieSpan, poisoned := s.poisoned.filter fun w => dpaDie (8 * w) ≠ n,
             homes := Map.set s.homes n { cacheChart := h.cacheChart, queues := h.queues },
             mgmt := { s.mgmt with microcode := Map.set s.mgmt.microcode (8 + n) s.mgmt.image } }
  failing.foldl (fun s b => cacheFails s n b) s1

/-- R31. RESET_M_COMPLETE: training and self-test end. Fields: ok; nums, the failing cache banks. -/
def execResetMComplete (s : State) : Out :=
  match s.mgmt.job with
  | .resetM n =>
    let s1 := clearStack s n s.arg.nums
    let m := s1.mgmt
    let bit : BitVec 8 := 1#8 <<< n
    if s.arg.ok then .next (endDieCmd (memoryStationBack { s1 with mgmt :=
      { m with msvc := m.msvc ||| bit, retired := m.retired &&& ~~~bit, untrained := m.untrained &&& ~~~bit } } n) 0)
    else .next (endDieCmd { s1 with mgmt := { m with msvc := m.msvc &&& ~~~bit, untrained := m.untrained ||| bit } } 6)
  | _ => .next s

/-! ## Sighting (R33, R122) -/

/-- R33. SGT_FIRE. -/
def execSgtFire (s : State) : Out := .next (fireSighting s)

/-- R33. CMP_EN set: the compare trigger. -/
def enableCompare (s : State) : State :=
  if s.mgmt.cmpEn then s
  else sightTrigger { s with mgmt := { s.mgmt with cmpEn := true } } (max s.mgmt.sgtTime.toNat (s.chron + 128)) 2
/-- R33. SGT_COMPARE_ENABLE. -/
def execSgtCompareEnable (s : State) : Out := .next (enableCompare s)

/-- R33. ARMED written 1; the snapshots that a pending Sighting has taken so far stay. -/
def armSighting (s : State) : State :=
  { s with mgmt := { s.mgmt with armed := true, valid := false, missed := 0,
                                 snapshot := if s.mgmt.pendingSgt.isSome then s.mgmt.snapshot else [] } }
/-- R33. SGT_ARM. -/
def execSgtArm (s : State) : Out := .next (armSighting s)

/-- R33. SGT_VALID_CLEAR. -/
def execSgtValidClear (s : State) : Out := .next { s with mgmt := { s.mgmt with valid := false } }

/-- R122. The key of a snapshot word. -/
def snapKey (die kind index word : Nat) : Nat := (((die * 8) + kind) * 64 + index) * 512 + word

/-- R67. MER_ERR of a station. -/
def merErr (t : Station) : Nat := t.ownerSkip * 2 ^ 48 + t.crcDiscard * 2 ^ 32 + t.format * 2 ^ 16 + t.throttle
/-- R122. The words of station k. -/
def stationWords (s : State) (k : Nat) : List Nat :=
  let t := s.ring
  let st := station s k
  [(t + 64 - 4 * k % 64) % 64 + (t + 64 - 4 * (15 - k)) % 64 * 256,
   (st.flags.filter fun f => f.2.set).foldl (fun a f => a + 2 ^ f.1) 0, merErr st]

/-- R99. EQ_ERR of a peer. -/
def eqErrWord (e : Equator) (p : Nat) : Nat :=
  Map.get e.tagFail p 0 * 2 ^ 48 + Map.get e.gap p 0 * 2 ^ 32 + Map.get e.replay p 0 * 2 ^ 16 + Map.get e.late p 0
/-- R68. The word of an ownership-table entry. -/
def ownerWord (o : Owner) : Nat := o.cls * 1024 + o.stream

/-- R99, R122. The words of a block, by die, kind and index. Kind 6, which SIGHT_READ does not name, is the Equator's EQ_ERR registers. -/
def blockWords (s : State) (die kind index : Nat) : List Nat :=
  match kind with
  | 0 =>
    let k := coreOf s (48 * die + index)
    k.pc :: if k.heads = [] then List.replicate 12 k.pc else k.heads
  | 1 =>
    let es := entriesOf s die
    ((List.range 4).map fun q => (es.filter fun w => w.prio = q).length) ++ [(es.filter fun w => w.spilled).length]
  | 2 => stationWords s (if die < 8 then 2 * die else 2 * (die - 8) + 1)
  | 3 => [(s.cmds.filter fun c => engineOf c.core = 8 * die + index).length]
  | 4 => [(s.inbox.filter fun p => p.1 = 2 * (die - 8) + 1).length]
  | 6 => (List.range 64).map (eqErrWord s.eq)
  | _ => (List.range 512).map fun w => ownerWord (ownerOf s (2 * w)) + ownerWord (ownerOf s (2 * w + 1)) * 2 ^ 32

/-- R122. The blocks of a die: kind and number of indexes. -/
def blocksOfDie (die : Nat) : List (Nat × Nat) :=
  if die < 8 then [(0, 48), (1, 1), (2, 1), (3, 8)] else if die < 16 then [(2, 1), (4, 1)] else [(5, 1), (6, 1)]

/-- R33. Is a die, by R122's number, in service and not in reset? -/
def dieServing (s : State) (d : Nat) : Bool :=
  if d < 8 then s.mgmt.csvc.getLsbD d else if d < 16 then s.mgmt.msvc.getLsbD (d - 8) else true

/-- R33, R122. The snapshots of every block of some dies, of those that are in service. -/
def snapshotOf (s : State) (dies : List Nat) : Snapshot :=
  (dies.filter (dieServing s)).flatMap fun d => (blocksOfDie d).flatMap fun b => (List.range b.2).flatMap fun i =>
    let ws := blockWords s d b.1 i
    ((List.range ws.length).zip ws).filterMap fun w => if w.2 = 0 then none else some (snapKey d b.1 i w.1, BitVec.ofNat 64 w.2)

/-- R33. The dies whose copies have come to instant t and that have not latched yet. -/
def dueDies (s : State) (t : Nat) : List Nat :=
  (List.range 17).filter fun d => copyOf s d ≥ t && !s.mgmt.sgtDone.contains d

/-- R33. SIGHTING_LATCH: every block latches when its die's copy reads the pending instant; with the last of them the Sighting has
latched. -/
def execSightingLatch (s : State) : Out :=
  match s.mgmt.pendingSgt with
  | none => .next s
  | some (t, cause) =>
    let due := dueDies s t
    let done := s.mgmt.sgtDone ++ due
    let m := { s.mgmt with snapshot := s.mgmt.snapshot ++ snapshotOf s due, sgtDone := done }
    if due.isEmpty then .next s
    else if done.length < 17 then .next { s with mgmt := m }
    else .next { s with mgmt := { m with
      armed := false, valid := true, cause := cause, sgtLatch := BitVec.ofNat 64 t, pendingSgt := none, sgtDone := [] } }

/-! ## Invalidation of translations (R207, R230) -/

/-- R207. The requests that engines have in progress, by engine and number. -/
def requestsOut (s : State) : List (Nat × BitVec 32) := s.engines.flatMap fun e => e.2.reqs.map fun r => (e.1, r.seq)

/-- R207. A TLB_INV_CTL command: ignored while one is in progress; every engine drops the entries for which p holds. -/
def invalidate (s : State) (p : TlbEntry → Bool) : State :=
  if s.mgmt.tlbBusy then s
  else { s with mgmt := { s.mgmt with tlbBusy := true, tlbWait := requestsOut s },
                engines := s.engines.map fun e => (e.1, { e.2 with tlb := e.2.tlb.filter fun t => !p t }) }

/-- R207. Scope 0: the page of TLB_INV_VA in TLB_INV_CTL's ASID. -/
def invalidatePage (s : State) : State :=
  invalidate s fun t => t.asid = s.mgmt.tlbAsid.toNat && s.mgmt.tlbPage.toNat * 65536 / pageBytes t.level = t.page
/-- R207. Scope 1: TLB_INV_CTL's ASID. -/
def invalidateAsid (s : State) : State := invalidate s fun t => t.asid = s.mgmt.tlbAsid.toNat
/-- R207. TLB_INV_PAGE. -/
def execTlbInvPage (s : State) : Out := .next (invalidatePage s)
/-- R207. TLB_INV_ASID. -/
def execTlbInvAsid (s : State) : Out := .next (invalidateAsid s)
/-- R207. Scope 2: every ASID, with the region-table caches. -/
def invalidateAll (s : State) : State :=
  if s.mgmt.tlbBusy then s
  else
    let s1 := invalidate s fun _ => true
    { s1 with engines := s1.engines.map fun e => (e.1, { e.2 with regions := [] }) }
/-- R207. TLB_INV_ALL. -/
def execTlbInvAll (s : State) : Out := .next (invalidateAll s)

/-- R207, R230. Scope 3: the forwarding records of the old frame at a placement address are released. -/
def releaseForwarding (s : State) : State :=
  if s.mgmt.tlbBusy then s
  else { s with mgmt := { s.mgmt with tlbBusy := true, tlbWait := [] },
                homes := s.homes.map fun h => (h.1, { h.2 with
                  forwarding := h.2.forwarding.filter fun f => f.oldPa / 65536 ≠ s.mgmt.tlbPage.toNat % 2 ^ 32 }) }
/-- R207, R230. TLB_RELEASE_FORWARDING. -/
def execTlbReleaseForwarding (s : State) : Out := .next (releaseForwarding s)

/-- R207. TLB_INV_COMPLETE: every request that was in progress has performed. -/
def execTlbInvComplete (s : State) : Out :=
  if s.mgmt.tlbBusy && !(s.mgmt.tlbWait.any fun x => (findReq s x.1 x.2).isSome) then
    .next { s with mgmt := { s.mgmt with tlbBusy := false, tlbWait := [] } }
  else .next s

end Sys2Proof.Machine
end

