-- ==== Sys2Proof/Machine/Packets.lean ====
section
/-! DEFINITION. The homes (R128, R129, R139, R211, R214, R225 to R231, R374 to R378, R386): requests that reach a near-memory unit,
multicast stores and migrating lines. -/
namespace Sys2Proof.Machine

/-! ## Packets that a station has taken -/

/-- The i-th element of a list for which p holds, and the list without it. -/
def takeNth {α : Type} (p : α → Bool) : Nat → List α → Option (α × List α)
  | _, [] => none
  | 0, x :: t => if p x then some (x, t) else (takeNth p 0 t).map fun r => (r.1, x :: r.2)
  | n + 1, x :: t => (takeNth p (if p x then n else n + 1) t).map fun r => (r.1, x :: r.2)

/-- R386. Is a kind a request of a requester to a home? -/
def isRequest (kind : Nat) : Bool := 1 ≤ kind && kind ≤ 7
/-- R82. Is a packet at a station one for the Equator station, or the answer to a requester of another package? -/
def forEquator (s : State) (x : Nat × Packet) : Bool :=
  x.1 = 15 && (if isRequest x.2.kind then x.2.pkg ≠ s.eq.pkg else x.2.origin.isSome)
/-- The packet of a kind that the event's index names: where it stands, itself, and the state without it. -/
def takeKind (s : State) (kind : Nat) : Option (Nat × Packet × State) :=
  (takeNth (fun x => x.2.kind = kind && !forEquator s x) s.arg.index s.inbox).map fun r =>
    (r.1.1, r.1.2, { s with inbox := r.2 })

/-- The number of a requester at a home: engines, near-memory units and the launch unit of this package, then those of others. -/
def requesterKey (p : Packet) : Nat := p.agent + 128 * (p.origin.elim 0 fun k => k + 1)

/-- The station to which the answer to a request goes. -/
def answerStation (p : Packet) : Nat := if p.origin.isSome then 15 else agentStation p.agent
/-- R386. The answer of home d to a request. -/
def answerTo (p : Packet) (kind status : Nat) : Packet :=
  { kind := kind, agent := p.agent, seq := p.seq, status := status, pkg := p.pkg, paddr := p.paddr, origin := p.origin }
def answer (s : State) (d : Nat) (p r : Packet) : State := sendPacket s (2 * d + 1) (answerStation p) r none

/-! ## What a request names at its requester -/

/-- The request that a packet of this package's engine belongs to, with its command. -/
def requestOf (s : State) (p : Packet) : Option (Req × Cmd) :=
  if p.origin.isSome then none
  else (findReq s p.agent p.seq).bind fun r => (findCmd s r.cmd).map fun c => (r, c)

/-- R211. The replicas that a store or an atomic names; the anchor alone where its address is not replicated. -/
def replicasOf (s : State) (p : Packet) : List Nat :=
  if p.origin.isSome then replicasAt s p.paddr
  else match (requestOf s p).bind fun x => x.1.piece with
  | some q => (match q.dst with
    | .repl homes => homes
    | _ => [p.paddr])
  | none => [p.paddr]

/-- R211. Does a store or an addition go to every replica of its address: is its page replicated, and is it not .one? -/
def goesToAll (s : State) (p : Packet) : Bool :=
  !p.one && if p.origin.isSome then (replicasAt s p.paddr).length > 1 else ((requestOf s p).bind fun x => x.1.piece).elim false fun q => match q.dst with
    | .repl _ => true
    | _ => false

/-- R214. The place in a step region that a WRITE or ACC with STEPW contributes to: launch, region number, declaration, rank and
offset. -/
def stepPlace (s : State) (p : Packet) : Option (Nat × Nat × StepDecl × Nat × Nat) :=
  (requestOf s p).bind fun x => x.1.piece.bind fun q => match q.dst with
    | .step l j o =>
      let d := stepDecl (launchOf s l) j
      some (l, regionNo d j (dieOf x.2.core), d, cmdRank s x.2, o)
    | _ => none

/-! ## Repetitions (R225) -/

def alreadySeen (s : State) (d : Nat) (p : Packet) : Bool := (home s d).seen.contains (requesterKey p, p.seq)
/-- R225. A store or counter operation noted; those whose engine no longer waits are forgotten. -/
def noteSeen (s : State) (d : Nat) (p : Packet) : State :=
  modHome s d fun h => { h with
    seen := (h.seen.filter fun x => x.1 ≥ 128 || (findReq s x.1 x.2).isSome) ++ [(requesterKey p, p.seq)] }

/-- R226, R377. The requester that a RECOV asks about. -/
def recoveredKey (p : Packet) : Nat := requesterKey { p with agent := field p.opa.toNat 57 7 }
/-- R225, R226, R231. Does home d hold a record of a request: of a store or addition, of a chunk fetch, of an atomic or of the atomic that
a recovery asks about? -/
def recordHeld (s : State) (d : Nat) (p : Packet) : Bool :=
  match p.kind with
  | 2 | 5 => alreadySeen s d p
  | 3 => (home s d).atoms.any fun r => r.agent = requesterKey p && r.seq = p.seq
  | 4 => (home s d).cfaDone.any fun r => r.agent = requesterKey p && r.seq = p.seq
  | 7 => (home s d).atoms.any fun r => r.agent = recoveredKey p && r.seq = p.opa.truncate 32
  | _ => false

/-- R101, R225, R230. A request at the home of its address: one that the home has applied is answered by its record; else it performs
there by f, goes on to the new home of a page that moves, waits for the line at the migration pointer, or waits for the host to give up
the line. -/
def serve (s : State) (kind : Nat) (f : State → Nat → Packet → State) : Out :=
  match takeKind s kind with
  | none => .next s
  | some (st, p, s1) =>
    if !dpaExists p.paddr then .fault (.noSuchAddress p.paddr)
    else if recordHeld s (st / 2) p then .next (f s1 (st / 2) p)
    else match forwardTo s p.paddr with
      | none => .next s
      | some a =>
        let d := dpaDie a
        if st ≠ 2 * d + 1 then .next (sendPacket s1 st (2 * d + 1) { p with fwd := true, paddr := a } none)
        else match heldLine s a 1 with
          | some line => .next (sendSnoop s line)
          | none => .next (f s1 d { p with paddr := a })

/-! ## Multicast (R211) -/

/-- R211. The packet of a numbered store to one replica. -/
def mcastPacket (anchor no : Nat) (pkg a : Nat) (bs : List Byte) : Packet :=
  { kind := 0xC, agent := 64 + anchor, seq := BitVec.ofNat 32 no, dlen := ceilDiv bs.length 4, pkg := pkg, paddr := a,
    opa := BitVec.ofNat 64 bs.length, data := packData bs }
/-- R211. A numbered store sent to some replicas. -/
def sendMcast (s : State) (d : Nat) (m : Mcast) (homes : List Nat) : State :=
  homes.foldl (fun s a => sendPacket s (2 * d + 1) (2 * dpaDie a + 1) { m.pkt with paddr := a } none) s

/-- R211. Home d, the anchor, performs a store at its own replica, numbers it and sends it to the others; the requester is answered
when every replica has applied it. -/
def multicast (s : State) (d : Nat) (p reply : Packet) (homes : List Nat) (bs : List Byte) : State :=
  let s1 := storeDram s p.paddr bs
  let others := homes.filter (· ≠ p.paddr)
  if others.isEmpty then answer s1 d p reply
  else
    let no := (home s1 d).mcastNo
    let m : Mcast :=
      { no := no, pkt := mcastPacket d no p.pkg 0 bs, dst := answerStation p, reply := reply, left := others, owed := others }
    sendMcast (modHome s1 d fun h => { h with mcastNo := no + 1, mcasts := h.mcasts ++ [m] }) d m others

/-- R225. The numbered store of a repeated request, sent once more to the replicas that have not acknowledged it. -/
def remulticast (s : State) (d : Nat) (p : Packet) : Option State :=
  ((home s d).mcasts.find? fun m => m.reply.agent = p.agent && m.reply.seq = p.seq && m.reply.origin = p.origin).map fun m =>
    sendMcast s d m m.owed

/-- The bytes of a numbered store. -/
def mcastBytes (p : Packet) : List Byte := bytesOf p.data.toNat p.opa.toNat

/-- R211. A numbered store at the replica's home: applied in number order, once, and acknowledged. Field: index. -/
def execMcast (s : State) : Out :=
  match takeKind s 0xC with
  | none => .next s
  | some (st, p, s1) =>
    let d := st / 2
    let anchor := p.agent - 64
    let no := p.seq.toNat
    let ms := (home s anchor).mcasts
    let mine := ms.find? fun m => m.no % 2 ^ 32 = no
    let before := ms.any fun m => m.left.any (fun a => dpaDie a = d) && mine.elim false fun x => m.no < x.no
    if before then .next s
    else if let some line := heldLine s p.paddr 1 then .next (sendSnoop s line)
    else
      let due := mine.elim false fun m => m.left.contains p.paddr
      let s2 := if due then storeDram s1 p.paddr (mcastBytes p) else s1
      let s3 := modHome s2 anchor fun h => { h with mcasts := h.mcasts.map fun m =>
        if m.no % 2 ^ 32 = no then { m with left := m.left.filter (· ≠ p.paddr) } else m }
      .next (sendPacket s3 st (2 * anchor + 1)
        { kind := 9, agent := p.agent, seq := p.seq, pkg := p.pkg, paddr := p.paddr } none)

/-- R211. A replica's acknowledgement at the anchor: with the last one the store has performed. -/
def mcastAck (s : State) (d : Nat) (p : Packet) : State :=
  let ms := (home s d).mcasts.map fun m =>
    if m.no % 2 ^ 32 = p.seq.toNat then { m with owed := m.owed.filter (· ≠ p.paddr) } else m
  let s1 := modHome s d fun h => { h with mcasts := ms.filter fun m => !m.owed.isEmpty }
  (ms.filter fun m => m.owed.isEmpty).foldl (fun s m => sendPacket s (2 * d + 1) m.dst m.reply none) s1

/-! ## Reads and stores -/

/-- R386. READ at its home: the line's bytes, or POISONED. -/
def serveRead (s : State) (d : Nat) (p : Packet) : State :=
  if poisonIn s p.paddr (4 * p.dlen) then answer s d p (answerTo p 8 2)
  else answer s d p { answerTo p 8 0 with dlen := p.dlen, data := packData (dramBytes s p.paddr (4 * p.dlen)) }

/-- R386. READ. Field: index, the place among the packets of the kind. -/
def execRead (s : State) : Out := serve s 1 serveRead

/-- R214, R227. Contributions of a WRITE or ACC; none where the near-memory unit is offline. -/
def serveStep (s : State) (d : Nat) (p : Packet) (elems : StepDecl → Nat → List (Nat × Nat)) : State :=
  if !(home s d).online then answer s d p (answerTo p 9 4)
  else match stepPlace s p with
    | none => s
    | some (l, r, decl, rank, o) =>
      answer (contribute (noteSeen s d p) l r rank (elems decl o)) d p (answerTo p 9 0)

/-- R211, R214, R227, R386. WRITE at its home. -/
def serveWrite (s : State) (d : Nat) (p : Packet) : State :=
  let ok := answerTo p 9 0
  if alreadySeen s d p then (remulticast s d p).getD (answer s d p ok)
  else if p.stepw then serveStep s d p fun decl o => elementsOf decl o p.bytes
  else
    if !goesToAll s p then answer (storeDram (noteSeen s d p) p.paddr p.bytes) d p ok
    else if !(home s d).online then answer s d p (answerTo p 9 4)
    else multicast (noteSeen s d p) d p ok (replicasOf s p) p.bytes

/-- R386. WRITE. Field: index. -/
def execWrite (s : State) : Out := serve s 2 serveWrite

/-! ## Atomics (R226, R375) -/

/-- R375. The value that an atomic leaves, at a width of n bits. -/
def atomValue (op n m v c : Nat) : Nat :=
  let less (a b : Nat) : Bool := signed a n < signed b n
  match op with
  | 0 => (m + v) % 2 ^ n
  | 1 => m &&& v
  | 2 => m ||| v
  | 3 => m ^^^ v
  | 4 => if less v m then v else m
  | 5 => if less m v then v else m
  | 6 => min m v
  | 7 => max m v
  | 8 => v
  | 9 => if m = c then v else m
  | _ => m

/-- R226. The records that a home keeps for a requester. -/
def recordsOf (s : State) (d key : Nat) : List AtomRecord := (home s d).atoms.filter fun r => r.agent = key
/-- R226. Is number x older than number o? -/
def older (x o : BitVec 32) : Bool := 1 ≤ (o - x).toNat && (o - x).toNat < 2 ^ 31
/-- R226. The oldest number among some records. -/
def oldestRecord (rs : List AtomRecord) : Option (BitVec 32) :=
  rs.foldl (fun best r => match best with
    | none => some r.seq
    | some o => some (if older r.seq o then r.seq else o)) none
/-- R226. Is a number older than the oldest of 256 records? -/
def beyondRecords (rs : List AtomRecord) (x : BitVec 32) : Bool :=
  rs.length ≥ Config.maxAtomRecords && (oldestRecord rs).elim false (older x)
/-- R226. A record kept; of 257 the oldest is dropped. -/
def keepRecord (s : State) (d : Nat) (r : AtomRecord) : State :=
  let rs := recordsOf s d r.agent ++ [r]
  let tooMany := rs.length > Config.maxAtomRecords
  modHome s d fun h => { h with atoms := (h.atoms ++ [r]).filter fun x =>
    !(tooMany && x.agent = r.agent && some x.seq = oldestRecord rs) }

/-- R226, R227, R375. ATOM at its home: refused, not applied, or performed and recorded. Its control bits stand in the packet's
first data word. -/
def serveAtom (s : State) (d : Nat) (p : Packet) : State :=
  let key := requesterKey p
  let rs := recordsOf s d key
  let ctl := p.data.toNat
  let n := if ctl.testBit 9 then 4 else 8
  if !(home s d).online then answer s d p (answerTo p 0xA 4)
  else if (rs.any fun r => r.seq = p.seq) || beyondRecords rs p.seq then answer s d p (answerTo p 0xE 0)
  else if poisonIn s p.paddr n then answer s d p (answerTo p 0xA 2)
  else
    let m := dramNat s p.paddr n
    let v := atomValue (field ctl 10 4) (8 * n) m (p.opa.toNat % 2 ^ (8 * n)) (p.opb.toNat % 2 ^ (8 * n))
    multicast (keepRecord s d { agent := key, seq := p.seq, result := some (BitVec.ofNat 64 m) }) d p
      { answerTo p 0xA 0 with opa := BitVec.ofNat 64 m } (replicasOf s p) (bytesOf v n)

/-- R375. ATOM. Field: index. -/
def execAtom (s : State) : Out := serve s 3 serveAtom

/-- R226, R377. RECOV at its home: 16 bytes, M and the state. -/
def serveRecov (s : State) (d : Nat) (p : Packet) : State :=
  let key := recoveredKey p
  let x := p.opa.truncate 32
  let rs := recordsOf s d key
  let give (s : State) (m st : Nat) : State :=
    answer s d p { answerTo p 8 0 with dlen := 4, data := BitVec.ofNat 1024 (m + st * 2 ^ 64) }
  match rs.find? fun r => r.seq = x with
  | some r => (match r.result with
    | some m => give s m.toNat 0
    | none => give s 0 1)
  | none =>
    if beyondRecords rs x then give s 0 2
    else give (keepRecord s d { agent := key, seq := x, result := none }) 0 1

/-- R226. RECOV. Field: index. -/
def execRecov (s : State) : Out := serve s 7 serveRecov

/-! ## Chunk fetches and additions (R139, R374) -/

/-- R139. ChunkLength. -/
def chunkLength (rem p m : Nat) : Nat := min rem (max m (ceilDiv rem (2 * p)))

/-- R138, R139, R225, R227. CFA at the descriptor's home: 16 bytes, start and length. -/
def serveCfa (s : State) (d : Nat) (p : Packet) : State :=
  let give (s : State) (a n : Nat) : State :=
    answer s d p { answerTo p 8 0 with dlen := 4, data := BitVec.ofNat 1024 (a + n * 2 ^ 64) }
  match (home s d).cfaDone.find? fun r => r.agent = requesterKey p && r.seq = p.seq with
  | some r => give s r.start r.len
  | none =>
    if !(home s d).online then answer s d p (answerTo p 8 4)
    else if poisonIn s p.paddr 24 then answer s d p (answerTo p 8 2)
    else
      let next := dramNat s p.paddr 8
      let len := chunkLength (dramNat s (p.paddr + 8) 8 - next) (max (dramNat s (p.paddr + 16) 4) 1)
        (max (dramNat s (p.paddr + 20) 4) 1)
      let s1 := modHome s d fun h => { h with
        cfaDone := (h.cfaDone.filter fun x => x.agent ≥ 128 || (findReq s x.agent x.seq).isSome) ++
          [{ agent := requesterKey p, seq := p.seq, start := next, len := len }] }
      if len = 0 then give s1 next len
      else multicast s1 d p { answerTo p 8 0 with dlen := 4, data := BitVec.ofNat 1024 (next + len * 2 ^ 64) } (replicasOf s p)
        (bytesOf (next + len) 8)

/-- R139. Has an earlier fetch come to the same home and not been served? -/
def fetchBefore (s : State) : Bool :=
  let cfas := s.inbox.filter fun x => x.2.kind = 4 && !forEquator s x
  (cfas[s.arg.index]?).elim false fun x => (cfas.take s.arg.index).any fun y => y.1 = x.1

/-- R139. CFA: a home serves its fetches in the order of their arrival. Field: index. -/
def execCfa (s : State) : Out := if fetchBefore s then .next s else serve s 4 serveCfa

/-- R374, R386. The FXW words of an ACC packet: those whose bit of OPB is set. -/
def accOf (p : Packet) : List (Option Int) :=
  (List.range (p.dlen / 2)).map fun i => if p.opb.getLsbD i then some (signed (field p.data.toNat (64 * i) 64) 64) else none

/-- R374. The words after the additions, as bytes: poisoned words stay. -/
def accSums (s : State) (a : Nat) (ws : List (Option Int)) : List Byte :=
  ((List.range ws.length).zip ws).flatMap fun x => bytesOf (wrapN (dramNat s (a + 8 * x.1) 8 + x.2.getD 0) 64) 8

/-- R211, R214, R227, R374. ACC at its home. A destination word that is poisoned takes no addition. -/
def serveAcc (s : State) (d : Nat) (p : Packet) : State :=
  let ws := accOf p
  if alreadySeen s d p then (remulticast s d p).getD (answer s d p (answerTo p 9 0))
  else if p.stepw then serveStep s d p fun _ o =>
    ((List.range ws.length).zip ws).filterMap fun x => x.2.map fun w => (o / 8 + x.1, wrapN w 64)
  else if !(home s d).online then answer s d p (answerTo p 9 4)
  else
    let homes := replicasOf s p
    let bad (i : Nat) : Bool := poisonIn s (p.paddr + 8 * i) 8
    let hurt := ((List.range ws.length).zip ws).any fun x => x.2.isSome && bad x.1
    let ok := answerTo p 9 (if hurt then 2 else 0)
    let s1 := noteSeen s d p
    if !goesToAll s p then
      answer (accDram s1 p.paddr (((List.range ws.length).zip ws).map fun x => if bad x.1 then none else x.2)) d p ok
    else if hurt then answer s1 d p ok
    else multicast s1 d p ok homes (accSums s p.paddr ws)

/-- R374. ACC. Field: index. -/
def execAcc (s : State) : Out := serve s 5 serveAcc

/-! ## Suspension (R128) -/

/-- R128. A registration request at the word's home: MET (1), RETRY (2) or REGISTERED (3). -/
def serveWait (s : State) (d : Nat) (p : Packet) : State :=
  let w : Waiter :=
    { dpa := p.paddr, join := p.opa.getLsbD 0, wp := ⟨field p.opa.toNat 32 32, field p.opa.toNat 12 20⟩,
      die := field p.opa.toNat 1 3 }
  let give (s : State) (st : Nat) : State := answer s d p { answerTo p 0xB st with opa := p.opa }
  if !(home s d).online then give s 2
  else if waiterMet s w then give s 1
  else if ((home s d).waiters.filter fun x => x.dpa = w.dpa).length ≥ Config.maxWaiters then give s 2
  else give (modHome s d fun h => { h with waiters := h.waiters ++ [w] }) 3

/-- R128. WAITREG. Field: index. -/
def execWaitreg (s : State) : Out := serve s 6 serveWait

/-- R129. JOIN_DECREMENT: a join decrement performs at the counter's home; a poisoned counter stays as it is (R375; log 52). Field:
index, its place among those on their way. -/
def execJoinDecrement (s : State) : Out :=
  match takeNth (fun _ => true) s.arg.index s.joinDecs with
  | none => .next s
  | some (j, rest) =>
    match forwardTo s j.dpa with
    | none => .next s
    | some a =>
      let s1 := { s with joinDecs := rest }
      if let some line := heldLine s a 8 then .next (sendSnoop s line)
      else if !(home s (dpaDie a)).online || poisonIn s a 8 then .next s1
      else
        let v := dramNat s a 8
        if v = 0 then .next (logEvent s1 4 (8 + dpaDie a) (coreNo j.core) 0x30000 a j.launch j.wpid)
        else .next (storeDramNat s1 a (v - 1) 8)

/-! ## Migration (R230) -/

/-- R230. The line at the migration pointer copied, with its poison; the registrations on it move with it. -/
def copyLine (s : State) (m : Migration) : State :=
  let a := dpaOf m.oldDie (m.oldL + 128 * m.ptr)
  let b := dpaOf m.newDie (m.newL + 128 * m.ptr)
  let s1 := putDram s b (dramBytes s a 128)
  let bad := (span (a / 8) 16).filter s.poisoned.contains
  let s2 := bad.foldl (fun s w => poisonRange s (b + (8 * w - a)) 8) s1
  let there (w : Waiter) : Bool := w.dpa / 128 = a / 128
  let moved := ((home s m.oldDie).waiters.filter there).map fun w => { w with dpa := b + (w.dpa - a) }
  let s3 := modHome s2 m.oldDie fun h => { h with waiters := h.waiters.filter fun w => !there w }
  modHome s3 m.newDie fun h => { h with waiters := h.waiters ++ moved }

/-- R230. MIGLINE: a migrating line arrives at the new home, and the pointer goes on. Nothing has changed at the old home since it
was sent, which holds every request for the line (R230). Field: index. -/
def execMigline (s : State) : Out :=
  match takeKind s 0xD with
  | none => .next s
  | some (_, p, s1) =>
    let old := p.agent - 64
    match (home s old).migrations.find? fun m => m.cmd % 2 ^ 32 = p.seq.toNat with
    | none => .next s1
    | some m =>
      let s2 := copyLine s1 m
      let m' := { m with ptr := m.ptr + 1 }
      let s3 := modHome s2 old fun h => { h with migrations := h.migrations.map fun x => if x = m then m' else x }
      .next (if 128 * m'.ptr ≥ m.size then enqueue s3 .migrationComplete { die := old } else sendLine s3 m')

/-- R205, R230. A page entry with a new frame and PLC. -/
def movedEntry (e newL newPlc : Nat) : Nat :=
  e % 2 ^ 16 + newL / 4096 * 2 ^ 16 + field e 52 8 * 2 ^ 52 + newPlc * 2 ^ 60

/-- R230. Does a cached translation's frame lie in the old page of a migration, whose entry it was? -/
def inOldPage (m : Migration) (entry t : Nat) : Bool :=
  let f := pteFrame t
  if 1 ≤ ptePlc t && ptePlc t ≤ 8 then ptePlc t - 1 = m.oldDie && m.oldL ≤ f && f < m.oldL + m.size
  else pteTgt t = 0 && ptePlc t = ptePlc entry && pteFrame entry ≤ f && f < pteFrame entry + m.size

/-- R230. The last line of a page has been copied: its entry is rewritten, translations go, a forwarding record stays. -/
def finishMigration (s : State) (m : Migration) : State :=
  let at_ := atHome s m.entryAt
  let e := dramNat s at_ 8
  let base := pteFrame e
  let stale (t : TlbEntry) : Bool := inOldPage m e t.entry.toNat
  let s1 := storeDramNat s at_ (movedEntry e m.newL m.newPlc) 8
  let s2 := { s1 with engines := s1.engines.map fun x => (x.1, { x.2 with tlb := x.2.tlb.filter fun t => !stale t }) }
  let s3 := modHome s2 m.oldDie fun h => { h with
    migrations := h.migrations.filter (· ≠ m),
    forwarding := h.forwarding ++ [{ oldPa := base, oldL := m.oldL, size := m.size, newDie := m.newDie, newL := m.newL }] }
  modCmd s3 m.cmd fun c => { c with result := some 0#64 }

/-- R230. MIGRATION_COMPLETE. Field: die, the old home. -/
def execMigrationComplete (s : State) : Out :=
  match (home s s.arg.die).migrations.find? fun m => 128 * m.ptr ≥ m.size with
  | none => .next s
  | some m => .next (finishMigration s m)

/-- R227. NEAR_MEMORY_UNIT_DOWN. Field: die. -/
def execNearMemoryUnitDown (s : State) : Out := .next (modHome s (s.arg.die % 8) fun h => { h with online := false })

/-! ## Reserved kinds (R386) -/

/-- R386, R430. RESERVED_KIND_DISCARD: a packet of a reserved kind is discarded and logged. Field: index. -/
def execReservedKindDiscard (s : State) : Out :=
  match takeNth (fun x => x.2.kind = 0 || x.2.kind = 15) s.arg.index s.inbox with
  | none => .next s
  | some ((st, p), rest) =>
    let die := if st = 16 then 16 else if st % 2 = 0 then st / 2 else 8 + st / 2
    .next (logEvent { s with inbox := rest } 2 die 0 0x205 0 0 ((encodePacket p).toNat % 2 ^ 64))

end Sys2Proof.Machine
end

