-- ==== Sys2Proof/Machine/Completion.lean ====
section
/-! DEFINITION. Requesters (R128, R149, R188, R203, R204, R225, R226, R371 to R380, R386): answers that reach an engine, a core or a
dispatcher, requests without an answer, the completion of a command, and its asynchronous fault. -/
namespace Sys2Proof.Machine

/-! ## Answers to an engine -/

/-- R376. A recovery token. -/
def recoveryToken (e : Nat) (seq : BitVec 32) : Word := BitVec.ofNat 64 (e * 2 ^ 57 + seq.toNat)

/-- R203, R204, R375. A request of engine e ends with a status other than OK: what it was to fill becomes POISON, and an atomic whose
result is lost gives its recovery token. -/
def failRequest (s : State) (e : Nat) (r : Req) (st : Nat) : State :=
  let s1 := dropReq s e r.seq
  match findCmd s1 r.cmd with
  | none => s1
  | some cmd =>
    let s2 := if cmd.kind = .atom && st ≥ 6 then
        modCmd s1 cmd.id fun c => { c with result := some (recoveryToken e r.seq) } else s1
    let s3 := match r.piece with
      | some p => if r.pkt.kind = 1 then deliver (addStatus s2 cmd.id st) cmd p (.poison 0) else s2
      | none => s2
    addStatus s3 cmd.id st

/-- R377, R378. Sixteen bytes written at a command's LOCAL destination. -/
def fillWords (s : State) (cmd : Cmd) (bs : List Byte) : State :=
  let c := dieOf cmd.core * 48 + refCore cmd.dst
  let h := refHandle cmd.dst
  let o := refOffset cmd.dst
  match handleOf s c h with
  | none => addStatus s cmd.id 2
  | some hd => settleLine (modCore s c fun k => putBytes k hd (atOffset o bs)) cmd.id c h (o / 128) .full

/-- R386. The bytes of a DATA answer to the request r of engine e. -/
def takeAnswer (s : State) (e : Nat) (r : Req) (bs : List Byte) : State :=
  let s1 := dropReq s e r.seq
  match findCmd s1 r.cmd with
  | none => s1
  | some cmd =>
    match r.pkt.kind, r.piece with
    | 4, _ =>
      modCmd (fillWords s1 cmd (bs.take 16)) cmd.id fun c => { c with result := some (BitVec.ofNat 64 (ofBytes ((bs.drop 8).take 8))) }
    | 7, _ => fillWords s1 cmd (bs.take 16)
    | _, some p => deliver s1 cmd p (.data (bs.take (srcBytes cmd p)))
    | _, none => s1

/-- R386. DATA at its requester; one whose number the requester does not hold is discarded. Field: index. -/
def execData (s : State) : Out :=
  match takeKind s 8 with
  | none => .next s
  | some (_, p, s1) =>
    match findReq s1 p.agent p.seq with
    | none => .next s1
    | some r => .next (if p.status = 0 then takeAnswer s1 p.agent r p.bytes else failRequest s1 p.agent r p.status)

/-- R211, R386. ACK at its requester: an engine, or the anchor of a numbered store. Field: index. -/
def execAck (s : State) : Out :=
  match takeKind s 9 with
  | none => .next s
  | some (st, p, s1) =>
    if 64 ≤ p.agent then .next (mcastAck s1 (st / 2) p)
    else match findReq s1 p.agent p.seq with
      | none => .next s1
      | some r => .next (addStatus (dropReq s1 p.agent r.seq) r.cmd p.status)

/-- R375. ATOM_RSP at the engine. Field: index. -/
def execAtomRsp (s : State) : Out :=
  match takeKind s 0xA with
  | none => .next s
  | some (_, p, s1) =>
    match findReq s1 p.agent p.seq with
    | none => .next s1
    | some r =>
      if p.status = 0 then .next (modCmd (dropReq s1 p.agent r.seq) r.cmd fun c => { c with result := some p.opa })
      else .next (failRequest s1 p.agent r p.status)

/-- R226. REFUSE at the engine. Field: index. -/
def execRefuse (s : State) : Out :=
  match takeKind s 0xE with
  | none => .next s
  | some (_, p, s1) =>
    match findReq s1 p.agent p.seq with
    | none => .next s1
    | some r => .next (failRequest s1 p.agent r 6)

/-! ## Requests without an answer (R225) -/

/-- R100. Is a request at the host? -/
def atHost (s : State) (e : Nat) (r : Req) : Bool := s.cxlReqs.any fun q => q.agent = e && q.seq = r.seq
/-- R102. Is it held at a link that carries only configuration traffic? It then ends as one lost twice (DESIGN CHOICE, log 69). -/
def heldAtLink (s : State) (e : Nat) (r : Req) : Bool := s.eq.linkShut && atHost s e r
/-- R83, R100. Is a request beyond the Meridian: at the Equator station, or at the host? -/
def beyondMeridian (s : State) (e : Nat) (r : Req) : Bool :=
  (s.eq.requests.any fun q => q.agent = e && q.seq = r.seq) || (s.eq.waitingCmds.any fun p => p.agent = e && p.seq = r.seq) ||
  (!s.eq.linkShut && atHost s e r)

/-- R225. A request sent once more; the data of a store from storage is read when it is injected. -/
def reissue (s : State) (e : Nat) (r : Req) : State :=
  let pkt := { r.pkt with retry := true }
  let s1 := modEngine s e fun g => { g with reqs := g.reqs.map fun x =>
    if x.seq = r.seq then { x with reissued := true, sentAt := s.chron, pkt := pkt } else x }
  let late := match r.piece with
    | some p => (match p.src with
      | .spad _ _ _ | .step _ _ _ | .zeros => if pkt.kind = 2 || pkt.kind = 5 then some (r.cmd, p) else none
      | _ => none)
    | none => none
  sendPacket s1 (agentStation e) r.dst pkt late

/-- R225. REQUEST_REISSUE_TIMEOUT. Fields: index, the engine; seq. -/
def execRequestReissueTimeout (s : State) : Out :=
  let e := s.arg.index
  match findReq s e s.arg.seq with
  | none => .next s
  | some r =>
    if s.chron < r.sentAt + Config.requestTimeout || beyondMeridian s e r then .next s
    else if r.pkt.kind = 3 && !heldAtLink s e r then .next (failRequest s e r 6)
    else if r.reissued || heldAtLink s e r then
      .next (failRequest { s with cxlReqs := s.cxlReqs.filter fun q => !(q.agent = e && q.seq = r.seq) } e r 3)
    else .next (reissue s e r)

/-! ## The completion of a command (R204, R379, R380) -/

/-- A command has nothing left to do but to complete. -/
def cmdOver (s : State) (cmd : Cmd) : Bool :=
  cmd.begun && cmd.fault.isNone && cmd.pieces.isEmpty && !cmd.waitList && cmd.updates.isEmpty &&
  (reqsOf s (engineOf cmd.core) cmd.id).isEmpty && (cmd.kind ≠ .mig || cmd.result.isSome)

/-- A command's work goes on: the index list, parts or updates that have not begun (at most `lim`, 0: all), a migration that waited. -/
def advanceCmd (s : State) (cmd : Cmd) (lim : Nat) : State :=
  if !cmd.begun || cmd.fault.isSome then s
  else if cmd.waitList then readList s cmd
  else if !cmd.pieces.isEmpty then advancePieces s cmd.id lim
  else if !cmd.updates.isEmpty then advanceUpdates s cmd.id lim
  else if cmd.kind = .mig && cmd.result.isNone && !(s.homes.any fun h => h.2.migrations.any fun m => m.cmd = cmd.id) then
    startMigration s cmd
  else s

/-- R149, R204. A completion counted in the waypoint's core, or held while the waypoint is PREEMPTED. -/
def countDone (s : State) (cmd : Cmd) (st : Nat) : State :=
  match heldByCore s cmd.wp with
  | some c => modCore s c fun k => { k with counters := addHeld k.counters [(cmd.counter, st)] }
  | none => modWp s cmd.wp fun w => if w.frame.isSome then { w with heldDone := w.heldDone ++ [(cmd.counter, st)] } else w

/-- R167, R187, R375. A command's result in a core: the register and, where it was issued before the open region, the shadow. -/
def resultInto (k : Core) (id : Nat) (v : Word) : Core :=
  let k1 := match k.pends.find? fun p => p.cmd = some id with
    | none => k
    | some p => markFull (putValue { k with pends := k.pends.filter fun q => q.cmd ≠ some id } p.reg (.sc v)) p.reg
  match k1.region with
  | none => k1
  | some r =>
    match r.shadow.pends.find? fun p => p.cmd = some id with
    | none => k1
    | some p =>
      let h := r.shadow
      let h1 : Shadow :=
        { h with sc := Map.set h.sc p.reg v, empty := h.empty &&& ~~~(1#320 <<< p.reg),
                 pends := h.pends.filter fun q => q.cmd ≠ some id }
      { k1 with region := some { r with shadow := h1 } }

/-- The core value of a waypoint, on its core or in its frame, changed by f. -/
def modHolder (s : State) (key : WpKey) (f : Core → Core) : State :=
  match heldByCore s key with
  | some c => modCore s c f
  | none => match (findWp s key).bind fun w => w.frame with
    | some k => putFrame s key none (f k)
    | none => s
/-- That core value. -/
def holderOf (s : State) (key : WpKey) : Option Core :=
  match heldByCore s key with
  | some c => some (coreOf s c)
  | none => (findWp s key).bind fun w => w.frame

/-- R380. A follow-on: its status with the new state; `none` while a line that it reads is EMPTY. -/
def runFollowOn (s : State) (cmd : Cmd) (f : FollowOn) : Option (State × Nat) :=
  let x := followOperands f
  match readOperands (arrayReader s cmd.core) x with
  | .error (.wait _) => none
  | .error _ => some (s, 2)
  | .ok (a, b) =>
    match holderOf s cmd.wp with
    | none => some (s, 0)
    | some k =>
      match tileAdd (tileOf k x.op.tile) x.op.k a b with
      | .error _ => some (s, 1)
      | .ok t => some (modHolder s cmd.wp fun k => writeTile k x.op.tile t, 0)

/-- R204. A command completes: its counter, its result, the launch's SUMMARY; commands held behind it begin. -/
def completeCmd (s : State) (cmd : Cmd) : State :=
  let s1 := countDone (poisonUnfilled s cmd) cmd cmd.status
  let s2 := modHolder s1 cmd.wp fun k => resultInto k cmd.id (cmd.result.getD 0#64)
  beginHeld (dropCmd (noteSummary s2 cmd.wp.launch cmd.status) cmd.id)

/-- R204. COMMAND_COMPLETE: a command's work goes on, and where nothing is left it completes. Fields: index, the command; off, a
bound on the parts that begin (0: none). -/
def execCommandComplete (s : State) : Out :=
  match findCmd s s.arg.index with
  | none => .next s
  | some cmd0 =>
    let s1 := advanceCmd s cmd0 s.arg.off
    match findCmd s1 s.arg.index with
    | none => .next s1
    | some cmd =>
      if !cmdOver s1 cmd then .next s1
      else match cmd.follow with
        | none => .next (completeCmd s1 cmd)
        | some f =>
          match runFollowOn s1 cmd f with
          | none => .next s1
          | some (s2, st) => .next (completeCmd s2 { cmd with status := max cmd.status st })

/-! ## Asynchronous faults (R149, R188) -/

/-- R149. A fault applied to the frame of a waypoint without a core: rolled back to its mark, or for a command issued outside any marked
region (tag 0) at its halt point; FAULTED. -/
def faultFrame (s : State) (w : Waypoint) (k : Core) (code : BitVec 16) (info : Word) (tag : Nat) : State :=
  let rolls := k.region.isSome && !k.frozen && tag ≠ 0
  let s1 := match rolls, k.region with
    | true, some r => cancelTagged s w.key r.tag
    | _, _ => s
  let k1 := match rolls, k.region with
    | true, some r => rolledBack k r
    | _, _ => k
  let mine := k.region.elim false fun r => r.tag = tag && tag ≠ 0
  let info' := if rolls && !mine then info ||| (1#64 <<< 63) else info
  let s2 := modWp s1 w.key fun w => { w with state := .faulted }
  if k.hm || (launchOf s w.key.launch).traph = 0 then endFaulted s2 w.key code k1.pc
  else
    let s3 := modWp s2 w.key fun w =>
      { w with resume := k1.pc, fault := some { code := code, info := info', addr := k1.pc, handlerRun := true } }
    putFrame s3 w.key none { k1 with mode := .idle }

/-- R149, R188. ASYNC_FAULT: the fault of a command arrives at the core that runs its waypoint, or is applied to the waypoint's frame;
the command ends there. Field: index, the command. -/
def execAsyncFault (s : State) : Out :=
  match findCmd s s.arg.index with
  | none => .next s
  | some cmd =>
    match cmd.fault with
    | none => .next s
    | some (code, info) =>
      let ends (t : State) : State := match findCmd t cmd.id with
        | some x => cancelCmd t x
        | none => t
      match heldByCore s cmd.wp with
      | some c =>
        let k := coreOf s c
        let mine := k.region.elim false fun r => r.tag = cmd.tag && cmd.tag ≠ 0
        if k.mode ≠ .running && !isRelaunching k.mode then .next s else .next (ends (takeAsync s c code info !mine))
      | none =>
        match findWp s cmd.wp with
        | none => .next (ends s)
        | some w => (match w.frame with
          | some k => .next (ends (faultFrame s w k code info cmd.tag))
          | none => .next (ends s))

/-! ## Answers to a core and a dispatcher (R128) -/

/-- R128. The bundle of the suspension operation that core c waits in. -/
def suspensionBundle (k : Core) : Nat := (k.window.getLast?).elim k.pc fun u => u.addr

/-- R126, R128. The answer to core c's request: MET (1), RETRY (2) or REGISTERED (3). On MET the record is RUNNING again, with the address at
pick-up. -/
def takeWaitAnswer (s : State) (c : Nat) (st : Nat) : State :=
  let k := coreOf s c
  if st = 1 then
    let s1 := modCore (modWp s k.wp fun w => { w with state := .running, wait := 0, resume := w.start.1 }) c fun k => { k with mode := .running }
    if (findWp s k.wp).elim false fun w => w.preempt then enqueue s1 .preemptHalt { core := c } else s1
  else if st = 2 then
    let at_ := suspensionBundle k
    settleFreed (freeCore (modWp (makeReady s k.wp) k.wp fun w => { w with resume := at_ }) c) k.wp
  else settleFreed (freeCore s c) k.wp

/-- R128. NOTIFY: an answer at its core, or a home's notification at a dispatcher, which waits until the core that asked has its
answer. Field: index. -/
def execNotify (s : State) : Out :=
  match takeKind s 0xB with
  | none => .next s
  | some (st, p, s1) =>
    let key : WpKey := ⟨field p.opa.toNat 32 32, field p.opa.toNat 12 20⟩
    match heldByCore s key with
    | some c =>
      if (coreOf s c).mode ≠ .answer then .next s1
      else if p.status = 0 then .next s
      else .next (takeWaitAnswer s1 c p.status)
    | none =>
      if p.status = 0 then .next (enqueue s1 .dispatcherNotify { die := st / 2, wp := key }) else .next s1

end Sys2Proof.Machine
end

