-- ==== Sys2Proof/Machine/CoreEvents.lean ====
section
/-! DEFINITION. Steps of a core beside its bundles (R167, R173, R179, R320), ECC errors (R15, R198, R201, R430) and the moving of a
bank's lines (R200). -/
namespace Sys2Proof.Machine

/-! ## Results and retirement -/

/-- R365. A tile operation in flight ends: the oldest of its tile. -/
def endFlight (l : List (Nat × Nat)) (tile : Nat) : List (Nat × Nat) :=
  match takeNth (fun x => x.1 = tile) 0 l with
  | some r => r.2
  | none => l

/-- R167. OPERATION_COMPLETE: a result arrives in its register, or a tile operation ends. Fields: core; index, the register's key, or
0x800 + tile. -/
def execOperationComplete (s : State) : Out :=
  let i := s.arg.index
  .next (modCore s s.arg.core fun k => if i ≥ 0x800 then { k with flight := endFlight k.flight (i - 0x800) } else arriveResult k i)

/-- R173. BUNDLE_RETIRE: the oldest execution of a core retires. Field: core. -/
def execBundleRetire (s : State) : Out :=
  let c := s.arg.core
  if (coreOf s c).mode = .running then .next (modCore s c retireOldest) else .next s

/-- R179. FORWARD_DELIVER. Fields: core; index, the place of the held write in its execution. -/
def execForwardDeliver (s : State) : Out := .next (deliverForward s s.arg.core s.arg.index)

/-- R320. TIMED_WAIT_EXPIRY: the time of the wait in which a core stands has come, and its bundle executes. Field: core. -/
def execTimedWaitExpiry (s : State) : Out :=
  let c := s.arg.core
  match (coreOf s c).waitUntil with
  | none => .next s
  | some t =>
    if (chronOf s (dieOf c) - t).toNat < 2 ^ 63 then execBundleExecute { s with cur := c } else .next s

/-! ## ECC errors -/

/-- R430. The class and the code's base of a corrected or an uncorrectable error. -/
def errorClass (corrected : Bool) : Nat := if corrected then 1 else 2
def errorCode (corrected : Bool) (n : Nat) : Nat := errorClass corrected * 256 + n

/-- R198. An error of a scratchpad or operand-die bank. -/
def bankError (s : State) (b : BankId) (line : Nat) (corrected : Bool) : State :=
  let c := b.core
  let s1 := logEvent s (errorClass corrected) (dieOf c) (coreNo c) (errorCode corrected 1) 0 0
    (storageDetail (levelCode b.level) b.bank line)
  if corrected then
    let (m, full) := countError (chartOf (coreOf s c) b.level).corrected b.bank s.chron
    let s2 := modChart s1 c b.level fun ch => { ch with corrected := m }
    if full then bankFails s2 c b.level b.bank else s2
  else
    let s2 := modCore s1 c fun k =>
      setLineStates k b.level (Map.set (lineStates k b.level) (b.bank * bankBytes b.level / 128 + line) .poison)
    bankFails s2 c b.level b.bank

/-- R188, R189. An uncorrectable error in the register or tile of a selector of the waypoint that runs on core c: the machine check. -/
def regCheck (s : State) (c sel : Nat) : State :=
  if (coreOf s c).mode = .running then takeAsync s c tcRegUncorrectable (BitVec.ofNat 64 sel) false else s

/-- R188, R198, R201. An error of a vector register or a tile row: storage code, physical bank as `regFails` numbers it, the line that
the log names, and the selector that REG_UNCORRECTABLE reports. -/
def regError (s : State) (c storage bank line sel : Nat) (corrected : Bool) : State :=
  let s1 := logEvent s (errorClass corrected) (dieOf c) (coreNo c) (errorCode corrected 1) 0 0 (storageDetail storage (bank % 16) line)
  if corrected then
    let k := coreOf s c
    let (m, full) := countError (if bank < 16 then k.vregChart else k.tileChart).corrected (bank % 16) s.chron
    let s2 := modCore s1 c fun k =>
      if bank < 16 then { k with vregChart := { k.vregChart with corrected := m } }
      else { k with tileChart := { k.tileChart with corrected := m } }
    if full then regFails s2 c bank else s2
  else regCheck (regFails s1 c bank) c sel

/-- R15, R198. An error of a memory-side cache bank at a protected word. -/
def cacheError (s : State) (d bank dpa : Nat) (corrected : Bool) : State :=
  let s1 := logEvent s (errorClass corrected) (8 + d) 0 (errorCode corrected 2) (dpa / 8 * 8) 0 (bank * 2 ^ 16)
  if corrected then
    let (m, full) := countError (home s d).cacheChart.corrected bank s.chron
    let s2 := modHome s1 d fun h => { h with cacheChart := { h.cacheChart with corrected := m } }
    if full then cacheFails s2 d bank else s2
  else cacheFails (poisonRange s1 (dpa / 8 * 8) 8) d bank

/-- R15. ECC_ERROR: an access meets an error. Fields: place; ok, the error is corrected. A DRAM error is counted for its stack, which
has no banks in the spec, and an error of s, p, m, f or a result register for none (log 52). -/
def execEccError (s : State) : Out :=
  let fixed := s.arg.ok
  .next (match s.arg.place with
    | .bank b line => bankError s b line fixed
    | .vreg c r => regError s c 2 ((coreOf s c).vregChart.phys (r % 64 / 8)) (r % 64) (0x40 + r % 64) fixed
    | .reg c sel => if fixed then s else regCheck s c sel
    | .tile c t row => regError s c 3 (16 + (coreOf s c).tileChart.phys (t % 16)) row (0x800 + t % 16) fixed
    | .cache d bank dpa => if bank < Config.cachePhysical then cacheError s (d % 8) bank dpa fixed else s
    | .dram dpa =>
      let s1 := logEvent s (errorClass fixed) (8 + dpaDie dpa) 0 (errorCode fixed 3) (dpa / 8 * 8) 0 0
      if fixed then modHome s1 (dpaDie dpa) fun h => { h with dramCorrected := h.dramCorrected + 1 }
      else poisonRange s1 (dpa / 8 * 8) 8)

/-! ## A bank on its way (R200) -/

/-- R200. The line at the migration pointer copied with its state, and the pointer moved. -/
def moveLine (k : Core) (l : Level) (e : Evac) : Core :=
  let n := bankBytes l
  let bytes := readBytes (storage k l) (e.src * n + 128 * e.ptr) 128
  let k1 := setStorage k l (writeBytes (storage k l) (e.dst * n + 128 * e.ptr) bytes)
  let m := lineStates k1 l
  let st := Map.get m (e.src * (n / 128) + e.ptr) .full
  let dstLine := e.dst * (n / 128) + e.ptr
  let k2 := setLineStates k1 l (if st = .full then Map.erase m dstLine else Map.set m dstLine st)
  let ch := chartOf k2 l
  setChart k2 l { ch with evacs := ch.evacs.map fun x => if x = e then { e with ptr := e.ptr + 1 } else x }

/-- R199, R200. The flip: the logical bank maps to the target, the old bank is retired, and the target's own logical bank is unmapped;
a target that has become failing in the meantime is retired in its turn. -/
def flipBank (s : State) (c : Nat) (l : Level) (e : Evac) : State :=
  let s1 := modChart s c l fun ch =>
    { ch with map := Map.set ch.map e.logical e.dst, retired := ch.retired ++ [e.src], unmapped := ch.unmapped ++ e.unmap.toList,
              evacs := ch.evacs.filter fun x => x.logical ≠ e.logical }
  let s2 := logRetired s1 c (levelCode l) e.src
  let s3 := if e.fall then applyShrink s2 c l else s2
  if (chartOf (coreOf s3 c) l).failing.contains e.dst then retireBank s3 c l e.dst else s3

/-- R200. CHART_LINE_MOVE. Fields: core; level; index, the logical bank. -/
def execChartLineMove (s : State) : Out :=
  let c := s.arg.core
  let l := s.arg.level
  match (chartOf (coreOf s c) l).evacs.find? fun e => e.logical = s.arg.index with
  | none => .next s
  | some e =>
    let s1 := modCore s c fun k => moveLine k l e
    if 128 * (e.ptr + 1) ≥ bankBytes l then .next (flipBank s1 c l { e with ptr := e.ptr + 1 }) else .next s1

end Sys2Proof.Machine
end

