-- ==== Sys2Proof/Machine/Slots.lean ====
section
/-! DEFINITION. A slot at a station of the Meridian (R36 to R66): its CRC check, Almanac firing, the taking, removal and injection of
best-effort packets, throttling and reclaiming. -/
namespace Sys2Proof.Machine

/-! ## Almanac entries at a pass (R47 to R51) -/

/-- R48 to R51. The entry of station k for a passing slot whose position belongs to a stream (0: to none): it fires where it matches. A
LOAD without its fragment retries. After its last firing it reads NOP, its flag is set and its chunk has completed. -/
def passEntry (s : State) (k key stream : Nat) (x : Slot) : State × Slot :=
  let e := entryAt s k key
  if !armed e then (s, x)
  else if stream = 0 || entryStream e ≠ stream then
    (modStation s k fun t => { t with ownerSkip := min (t.ownerSkip + 1) 0xFFFF }, x)
  else if !slotMatches e x then (s, x)
  else
    let frag := if readsLocal (entryOp e) then stagedNow s k e else none
    if entryOp e = 1 && (extentOf s k e e.n).isSome && frag.isNone then (s, x)
    else
      let f := fire s k e x frag
      let st := if x.integrity then max f.status 3 else f.status
      if e.n ≥ entryRep e then
        let s1 := setEntry f.state k key {}
        let s2 := if entryFe e then setFlag s1 k (entryFlag e) st else s1
        (match e.chunk with
          | some (c, p, i) => chunkDone s2 c p i st
          | none => s2, f.slot)
      else (setEntry f.state k key { e with n := e.n + 1, status := st, staged := none }, f.slot)

/-- R51, R101. STAGE_FRAGMENT: the fragment of an entry's next firing is read, once its lines are filled and the host has given them up.
Fields: station, dir, lane, pos. -/
def execStageFragment (s : State) : Out :=
  let k := s.arg.station
  let key := slotKey s.arg.dir s.arg.lane s.arg.pos
  let e := entryAt s k key
  if armed e && readsLocal (entryOp e) && !(station s k).passThrough then
    match stagedNow s k e with
    | some f => .next (setEntry s k key { e with staged := some f })
    | none => .next (match extentOf s k e e.n with
      | some (.window l va) => (heldVa s (launchOf s l) va (extentBytes s k e)).elim s (sendSnoop s)
      | _ => s)
  else .next s

/-! ## Best-effort packets (R60 to R64) -/

/-- R60. Does a packet go west from station a to station b? -/
def goesWest (a b : Nat) : Bool := (b + 16 - a) % 16 > 8
/-- The direction of R60. -/
def wayTo (a b : Nat) : Dir := if goesWest a b then .west else .east

/-- R202, R203. What a waiting packet carries when it is injected: data in storage is read then. `none` while its source line is EMPTY; a
poisoned source sends nothing. -/
def loadPacket (s : State) (w : Waiting) : Option (State × Option Packet) :=
  match w.late with
  | none => some (s, some w.pkt)
  | some (id, p) =>
    match findCmd s id with
    | none => some (s, none)
    | some cmd =>
      match readLoc s cmd p.src (srcBytes cmd p) with
      | .blocked _ _ _ | .needs _ => none
      | .data bs =>
        let (q, st) := dataPacket s cmd w.pkt.pkg w.pkt.paddr (if w.pkt.stepw then some w.pkt.opa.toNat else none) w.pkt.one bs
        some (addStatus s id st, some { w.pkt with dlen := q.dlen, opb := q.opb, data := q.data })
      | r => some (deliver (dropReq s w.pkt.agent w.pkt.seq) cmd p r, none)

/-- R39. A free slot filled with a packet at station k. -/
def fillSlot (x : Slot) (k dst : Nat) (p : Packet) : Slot :=
  stamp { x with payload := encodePacket p, exp := 0#16, seq := 0#16, stream := 0, src := k, dst := dst, thr := false, mark := 0,
                 poison := false, ovf := false, len := max 1 (ceilDiv (32 + 4 * p.dlen) 8), ptype := 3, cls := 0, valid := true,
                 sand := 0#32, origin := p.origin }

/-- R60. The i-th waiting packet into the slot of a key, which stands at its station and is free. -/
def injectInto (s : State) (i key : Nat) : State :=
  match takeNth (fun _ => true) i s.waiting with
  | none => s
  | some (w, rest) =>
    match loadPacket s w with
    | none => s
    | some (s1, q) =>
      let s2 := { s1 with waiting := rest }
      match q with
      | none => s2
      | some p => setSlot s2 key (fillSlot (slotOf s2 key) w.station w.dst p)

/-- R60, R63. May station k inject into the slot of a key? One reserved by its own mark it uses as that slot comes back to it. -/
def freeFor (s : State) (key : Nat) : Bool :=
  let x := slotOf s key
  (ownerOf s key).cls = 0 && !x.valid && !x.reclaim && !x.thr

/-- R37. The position that passes station k in a direction at ring clock t. -/
def positionAt (d : Dir) (k t : Nat) : Nat := (t + 64 - stationOffset (d = .west) k) % 64
/-- R37, R60. The first lane, from 0 up, whose slot passing station k at ring clock t is free. A position's first slot leaves station 0 or
15 at the ring clock of its number. -/
def freeLane (s : State) (d : Dir) (k t : Nat) : Option Nat :=
  let p := positionAt d k t
  if t < p then none else ((List.range 8).map fun l => slotKey d l p).find? (freeFor s)
/-- R60. Where and when a station injects a waiting packet: the slot and its ring clock, before any slot in use passes a station;
`none` where no free slot comes to it so soon. -/
def injection (s : State) (w : Waiting) : Option (Nat × Nat) :=
  let d := wayTo w.station w.dst
  (span s.ring (quietUntil s (s.ring + 63) - s.ring + 1)).findSome? fun t => (freeLane s d w.station t).map fun key => (key, t)

/-- R60. BE_INJECT: a station injects a waiting packet into the first free best-effort slot that passes it, on the lowest lane. Field:
index, the waiting packet. -/
def execBeInject (s : State) : Out :=
  match s.waiting[s.arg.index]? with
  | none => .next s
  | some w =>
    if (station s w.station).passThrough then .next s
    else match injection s w, loadPacket s w with
      | some (key, t), some _ =>
        .next (injectInto (setSlot { s with ring := t } key { slotOf s key with hops := (t - keyPos key) / 4 + 1 }) s.arg.index key)
      | _, _ => .next s

/-- R63. The lane of a direction by number: dir · 8 + lane. -/
def laneNo (d : Dir) (lane : Nat) : Nat := dirNo d * 8 + lane % 8
/-- R63. Has a packet waited at station k for a direction for 64 ring clocks? -/
def starvedAt (s : State) (k : Nat) (d : Dir) : Bool :=
  s.waiting.any fun w => w.station = k && wayTo k w.dst = d && w.since + 64 ≤ s.ring

/-- R63. BE_STARVED: a packet has waited 64 ring clocks, and its station is to mark the next full best-effort slot that it forwards on a
lane, where no mark of its own is out there. Fields: index, the waiting packet; lane. -/
def execBeStarved (s : State) : Out :=
  match s.waiting[s.arg.index]? with
  | none => .next s
  | some w =>
    let k := w.station
    let lane := laneNo (wayTo k w.dst) s.arg.lane
    let st := station s k
    if s.ring < w.since + 64 || st.passThrough || st.starving.contains lane || st.marks.contains lane then .next s
    else .next (modStation s k fun t => { t with starving := t.starving ++ [lane] })

/-- R62. A packet removed at its source: its request completes with DIE_OFFLINE; a suspension request is answered RETRY. -/
def removePacket (s : State) (p : Packet) : State :=
  if p.origin.isSome || p.agent ≥ 64 then s
  else if p.kind = 6 then
    match heldByCore s ⟨field p.opa.toNat 32 32, field p.opa.toNat 12 20⟩ with
    | some c => if (coreOf s c).mode = .answer then takeWaitAnswer s c 2 else s
    | none => s
  else match findReq s p.agent p.seq with
    | some r => failRequest s p.agent r 5
    | none => s

/-- R61, R62. A best-effort packet at station k: taken at its destination, removed at its source. -/
def takePacket (s : State) (k : Nat) (x : Slot) : State × Slot :=
  let p := { decodePacket x.payload with origin := x.origin }
  if x.valid && x.dst = k then ({ s with inbox := s.inbox ++ [(k, p)] }, freeSlot x)
  else if x.valid && x.src = k then (removePacket s p, freeSlot x)
  else (s, x)

/-- R63. The marks at station k. A slot that comes back to the station that marked it loses its mark, and a waiting packet goes into
it. A full one without a mark is marked where the station is starved on its lane. -/
def passMarks (s : State) (k key : Nat) (x : Slot) : State × Slot :=
  let d := keyDir key
  let lane := laneNo d (keyLane key)
  let st := station s k
  let best := (ownerOf s key).cls = 0
  if x.thr && x.mark = k then
    let s1 := modStation s k fun t => { t with marks := t.marks.filter (· ≠ lane) }
    let y := stamp { x with thr := false, mark := 0 }
    if x.valid || x.reclaim || !best then (s1, y)
    else
      let s2 := injectInto (setSlot s1 key y) (s1.waiting.findIdx fun w => w.station = k && wayTo k w.dst = d) key
      (s2, slotOf s2 key)
  else if x.valid && best && !x.thr && st.starving.contains lane then
    if starvedAt s k d then
      (modStation s k fun t => { t with starving := t.starving.filter (· ≠ lane), marks := t.marks ++ [lane],
                                        throttle := min (t.throttle + 1) 0xFFFF }, stamp { x with thr := true, mark := k })
    else (modStation s k fun t => { t with starving := t.starving.filter (· ≠ lane) }, x)
  else (s, x)

/-- R61 to R63. A slot at station k that may carry a best-effort packet. Where its position has been granted to a stream meanwhile,
the packet goes on in it to its end (log 56). -/
def passBestEffort (s : State) (k key : Nat) (x : Slot) : State × Slot :=
  let (s1, x1) := if x.cls = 0 then takePacket s k x else (s, x)
  passMarks s1 k key x1

/-! ## The pass (R48 to R50, R65, R66, R43) -/

/-- R67. A slot that failed its CRC counted at station k. -/
def countCrc (s : State) (k : Nat) : State := modStation s k fun t => { t with crcDiscard := min (t.crcDiscard + 1) 0xFFFF }
/-- R66. A full slot fails its CRC at station k: a stream slot is poisoned, a best-effort slot freed. -/
def failCrc (s : State) (k : Nat) (o : Owner) (x : Slot) : State × Slot :=
  (countCrc s k, if o.cls = 1 then stamp { x with poison := true, cls := 1, stream := o.stream } else freeSlot x)

/-- R41. The tokens that a control position's slot carries, by their places. The spec gives a ring one control position each way and
does not say how several tokens share it: the east one carries them all (DESIGN CHOICE, log 38). -/
def carried (s : State) (key : Nat) : List Nat :=
  if key ≠ 0 then []
  else ((s.tokens.zip (List.range s.tokens.length)).filter fun t => !t.1.equator && !t.1.lost).map (·.2)
/-- R66. A full control slot fails its CRC at station k: the token that it carried, the i-th where it carried that, is lost. -/
def loseToken (s : State) (k key i : Nat) : State :=
  match carried s key with
  | [] => s
  | j :: rest =>
    let n := if rest.contains i then i else j
    let s1 := countCrc s k
    { s1 with tokens := ((List.range s1.tokens.length).zip s1.tokens).map fun t => if t.1 = n then { t.2 with lost := true } else t.2 }

/-- R43. The flags of a stream whose positions have all become best-effort are cleared at every station. -/
def clearReclaimed (s : State) : State :=
  let open_ (x : StreamReq) : Bool := (bitsSet x.pos.toNat 64).any fun p => (slotOf s (slotKey x.dir x.lane p)).reclaim
  (s.reclaiming.filter fun x => !open_ x).foldl clearStreamFlags { s with reclaiming := s.reclaiming.filter open_ }
/-- R43. The reclaiming of a position as its slot passes station 15, at whose tap the allocator stands whether or not the station is in
pass-through (DEDUCED, log 40). -/
def reclaimAt (s : State) (k key : Nat) : State :=
  let x := slotOf s key
  if x.reclaim && k = 15 then
    clearReclaimed (setOwner (setSlot s key (stamp { freeSlot x with cls := 0, stream := 0, reclaim := false })) key {})
  else s

/-- R50. The pass of the slot of a position at station k, with the ring clock and the hop made: its CRC, its packet, the station's
entry. -/
def passSlot (s : State) (k key : Nat) (x : Slot) : State :=
  let o := ownerOf s key
  let (s1, x1) := if x.valid && !s.arg.ok then failCrc s k o x else (s, x)
  let (s2, x2) := passBestEffort s1 k key x1
  let (s3, x3) := passEntry s2 k key (if o.cls = 1 then o.stream else 0) x2
  setSlot s3 key x3

/-- R50. SLOT_PASS: the slot of a position passes its next station, where no other slot in use is to pass one before (R37). Fields: dir,
lane, pos; ok, its CRC holds; index, on a control position the token that a bad CRC loses. -/
def execSlotPass (s : State) : Out :=
  let key := slotKey s.arg.dir s.arg.lane s.arg.pos
  if !passDue s key then .next s
  else
    let h := nextPass s key
    let k := passStation (keyWest key) h
    let x := { slotOf s key with hops := h + 1 }
    let s1 := setSlot { s with ring := passClock (keyPos key) h } key x
    if (ownerOf s key).cls = 2 then .next (if s.arg.ok || (station s k).passThrough then s1 else loseToken s1 k key s.arg.index)
    else .next (reclaimAt (if (station s k).passThrough then s1 else passSlot s1 k key x) k key)

end Sys2Proof.Machine
end

