-- ==== Sys2Proof/Machine/Sealing.lean ====
section
/-! DEFINITION. Sealed slots of the Equator (R77 to R79, R91, R92): members, channels and counters, sealing, and the control tokens of
a re-key as they leave the package. -/
namespace Sys2Proof.Machine

/-! ## Members and key slots -/

def memberOf (s : State) (p : Nat) : Bool := s.eq.members.getLsbD p
/-- R87. Is this package the leader of its domain? -/
def isLeader (s : State) : Bool := memberOf s s.eq.pkg && s.eq.leader = s.eq.pkg
/-- R87. The lowest package of a mask. -/
def lowestOf (m : BitVec 64) : Nat := (bitsSet m.toNat 64).headD 0
def maskOf (p : Nat) : BitVec 64 := 1#64 <<< p
def modEq (s : State) (f : Equator → Equator) : State := { s with eq := f s.eq }

/-- The key slot that is not the send slot, 0 A or 1 B. -/
def idleSlot (e : Equator) : Nat := if e.ksb then 0 else 1
def activeSlot (e : Equator) : Nat := if e.ksb then 1 else 0
/-- The number of a pair's key in a key slot. -/
def pairNo (slot i j : Nat) : Nat := slot * 4096 + i * 64 + j
/-- The number of a channel's counter in a key slot. -/
def channelNo (slot i j : Nat) (d : Dir) (lane : Nat) : Nat := pairNo slot i j * 16 + dirNo d * 8 + lane % 8

/-- R69, R89. The next package of a mask from this one in a direction; itself where there is no other. -/
def nextOfMask (s : State) (mask : BitVec 64) (d : Dir) : Nat :=
  let own := s.eq.pkg
  let n := max s.eq.count 1
  let step (i : Nat) : Nat := match d with
    | .east => (own + i) % n
    | .west => (own + n - i % n) % n
  (((span 1 n).map step).find? fun p => mask.getLsbD p).getD own
/-- R89. The next member from this package in a direction. -/
def nextMember (s : State) (d : Dir) : Nat := nextOfMask s s.eq.members d

/-! ## Sealing (R77 to R79) -/

/-- R78. PAIRID. -/
def pairId (spkg dpkg : Nat) (d : Dir) (lane : Nat) : Nat :=
  spkg % 64 * 2 ^ 26 + dpkg % 64 * 2 ^ 20 + dirNo d * 2 ^ 19 + lane % 8 * 2 ^ 16
/-- R77. The nonce: PAIRID and PSEQ. -/
def nonceOf (spkg dpkg : Nat) (d : Dir) (lane pseq : Nat) : BitVec 96 :=
  BitVec.ofNat 96 (pairId spkg dpkg d lane * 2 ^ 64 + pseq)
/-- R77. Payload bytes 0 to 8·LEN − 1. -/
def payloadPart (x : Payload) (len : Nat) : Payload := BitVec.ofNat 2048 (x.toNat % 2 ^ (64 * len))

/-- R79. The send counter of the active key slot's channel to a package. -/
def sendCount (s : State) (p : Nat) (d : Dir) (lane : Nat) : Nat :=
  Map.get s.eq.send (channelNo (activeSlot s.eq) s.eq.pkg p d lane) 0
/-- R77, R79. May this package seal a slot for a package: the pair has a key and its counter is below 2^63? -/
def canSeal (s : State) (p : Nat) (d : Dir) (lane : Nat) : Bool :=
  (Map.find s.eq.keys (pairNo (activeSlot s.eq) s.eq.pkg p)).isSome && sendCount s p d lane < 2 ^ 63
/-- R92. Has this package stopped sealing: from the REKEY it takes until it has processed RESUME? -/
def sealingStopped (s : State) : Bool := s.eq.rekey.elim false fun r => r.pass ≠ 5

/-- R77, R79. A slot sealed for a package and sent on. -/
def sealSlot (s : State) (x : Slot) (ekind p : Nat) (d : Dir) (lane pos : Nat) : State :=
  let slot := activeSlot s.eq
  let own := s.eq.pkg
  let n := sendCount s p d lane
  let h := headerOf x { pseq := n, spkg := own, dpkg := p, ksb := s.eq.ksb, enc := true, ekind := ekind }
  let key := Map.get s.eq.keys (pairNo slot own p) 0#256
  let nonce := nonceOf own p d lane n
  let sealed_ := gcmSeal key nonce x.payload x.len
  let out : SealedSlot :=
    { header := h, payload := sealed_, tag := gcmTag key nonce h sealed_ x.len }
  emit (modEq s fun e => { e with send := Map.set e.send (channelNo slot own p d lane) (n + 1) }) (.eqSlot d lane pos out)

/-! ## The tokens of a re-key (R92) -/

/-- R92. The control slot of a token: KIND, LEADER and EPOCH in word 0, the mask in word 1. -/
def tokenSlot (kind : Nat) (r : Rekeying) : Slot :=
  { payload := BitVec.ofNat 2048 (kind % 256 * 2 ^ 56 + r.leader % 64 * 2 ^ 50 + r.epoch.toNat + r.members.toNat * 2 ^ 64), cls := 2, ptype := 3,
    len := 2, valid := true }

/-- R92. A token sent east to the next package of the ring, sealed under the send slot. EKIND of a token the spec does not give: the model's
is 2; nor how a token passes between packages that share no key yet: it goes as it is (DESIGN CHOICE, log 61). -/
def sendToken (s : State) (kind : Nat) (r : Rekeying) : State :=
  let p := nextOfMask s r.ring .east
  if canSeal s p .east 0 then sealSlot s (tokenSlot kind r) 2 p .east 0 0
  else emit s (.token kind (BitVec.ofNat 6 r.leader) r.epoch r.members)

/-- R79, R80. A token opened from the package before: the expected counter of its channel under a key slot moves, where the pair has a
key there. -/
def tokenCame (s : State) (ring : BitVec 64) (slot : Nat) : State :=
  let p := nextOfMask s ring .west
  let c := channelNo slot p s.eq.pkg .east 0
  if (Map.find s.eq.keys (pairNo slot p s.eq.pkg)).isNone then s
  else modEq s fun e => { e with expected := Map.set e.expected c ((Map.get e.expected c 0 + 1) % 2 ^ 64) }

end Sys2Proof.Machine
end

