-- ==== Sys2Proof/Machine/Tokens.lean ====
section
/-! DEFINITION. Control tokens of barriers (R406) and the sending of a lost token once more (R407). -/
namespace Sys2Proof.Machine

/-- R406. The members of a group that have arrived at its barrier and stand at station k; at the Equator station, all of the package. -/
def arrivedAt (s : State) (g : GroupKey) (k : Nat) : List Nat :=
  let b := barrierOf s g
  ((liveMembers s g).filter fun w =>
    (b.atStep.contains w.key.wpid || b.atBar.contains w.key.wpid) &&
    (k = 16 || (heldByCore s w.key).elim false fun c => 2 * dieOf c = k)).map fun w => w.key.wpid

/-- Is a token the barrier token of a group? -/
def isBarrier (t : Token) (g : GroupKey) : Bool := (t.kind = 4 || t.kind = 5) && t.key = g
/-- The barrier token of a group on its ring. -/
def barrierTokenOf (s : State) (g : GroupKey) : Option Token := s.tokens.find? fun t => isBarrier t g
def putBarrierToken (s : State) (g : GroupKey) (t : Option Token) : State :=
  { s with tokens := (s.tokens.filter fun x => !isBarrier x g) ++ t.toList }

/-- R406. The first token of a generation, sent by the station where a member has arrived. -/
def newBarrierToken (s : State) (g : GroupKey) (k : Nat) : Token :=
  let b := barrierOf s g
  { kind := if b.atStep.isEmpty then 5 else 4, key := g, equator := k = 16, origin := k, count := b.gen, sentAt := s.ring }

/-- R136. Does a group take in waypoints of other packages? -/
def acrossPackages (s : State) (g : GroupKey) : Bool := governing (launchOf s g.launch) g.level = 1

/-- R406. BARRIER_TOKEN: the token of a group passes a station, which merges its members' arrivals; when all have arrived the barrier
ends. A station where a member has arrived sends the first token, as the control slot passes it. Fields: group; station (16: the Equator
station); for a group with members on other packages, nums the numbers of those merged at RG.STEP and at RG.BAR, and nums2 the number that
has not ended. -/
def execBarrierToken (s : State) : Out :=
  let g := s.arg.group
  let k := s.arg.station
  let scope := effectiveScope (launchOf s g.launch) g.level
  let here := arrivedAt s g k
  if scope ≥ 2 || (scope = 0) ≠ (k = 16) || (k ≠ 16 && (station s k).passThrough) || !controlAt s k then .next s
  else
    let t0 := match barrierTokenOf s g with
      | some t => some t
      | none => if here.isEmpty then none else some (newBarrierToken s g k)
    match t0 with
    | none => .next s
    | some t =>
      if t.lost then .next s
      else
        let sent := if t.origin = k then s.ring else t.sentAt
        let t1 := { t with arrived := t.arrived ++ here.filter (!t.arrived.contains ·), sentAt := sent }
        let steps := if acrossPackages s g then s.arg.nums.getD 0 0 else 0
        let bars := if acrossPackages s g then s.arg.nums.getD 1 0 else 0
        let foreign := if acrossPackages s g then s.arg.nums2.getD 0 0 else 0
        let whole := allArrived s g && (liveMembers s g).all (fun w => t1.arrived.contains w.key.wpid) && steps + bars ≥ foreign
        if whole then
          .next (completeBarrier (putBarrierToken s g none) g ((if steps > 0 then [true] else []) ++ (if bars > 0 then [false] else [])))
        else .next (putBarrierToken s g (some t1))

/-- R407. Ring clocks after a pass of its originator within which a token returns. -/
def returnTime (s : State) (t : Token) : Nat := if t.equator then (s.eq.qE + 8) * 24 else 72

/-- R407. A new copy of a token: its original contents with the originator's own contribution. -/
def newCopy (s : State) (t : Token) : State × Token :=
  let t1 := { t with copy := (t.copy + 1) % 65536, lost := false, sentAt := s.ring }
  if t.kind = 4 || t.kind = 5 then (s, { t1 with arrived := arrivedAt s t.key t.origin })
  else if t.kind = 0x10 then
    (partiesAt s t.origin t.group t.equator).foldl mergeParty
      (s, { t1 with arrived := [], others := 0, em := -126, prog := 65535, mismatch := false })
  else (s, { t1 with acted := [] })

/-- R407. The i-th token sent once more, where its copy has been lost and its time has passed. -/
def resendToken (s : State) (i : Nat) : State :=
  match s.tokens[i]? with
  | none => s
  | some t =>
    if !t.lost || s.ring < t.sentAt + returnTime s t then s
    else
      let (s1, t1) := newCopy s t
      { s1 with tokens := s1.tokens.set i t1 }

/-- R92, R407. The token of a re-key pass sent once more by the leader. -/
def resendRekey (s : State) : State :=
  match s.eq.rekey with
  | none => s
  | some r =>
    if r.leader ≠ s.eq.pkg then s
    else sendToken s (if r.pass ≤ 2 then 1 else if r.pass ≤ 4 then 2 else 3) r

/-- R407. TOKEN_RESEND. Field: index, the token; from 0x1000 on, the token of the re-key pass in progress. -/
def execTokenResend (s : State) : Out :=
  .next (if s.arg.index ≥ 0x1000 then resendRekey s else resendToken s s.arg.index)

end Sys2Proof.Machine
end

