-- ==== Sys2Proof/Machine/Domain.lean ====
section
/-! DEFINITION. The trust domain (R84 to R95): SPDM sessions between Binnacles, admission, heartbeats and re-keys. Messages and control
tokens of other packages are inputs; the package's own leave it as OutMsg (log 12). -/
namespace Sys2Proof.Machine

/-! ## Outstanding requests to other packages (R83, R92, R93) -/

/-- An Equator request ends with a status, at its engine. -/
def failEq (s : State) (agent : Nat) (seq : BitVec 32) (st : Nat) : State :=
  match findReq s agent seq with
  | some r => failRequest s agent r st
  | none => s

/-- Outstanding Equator requests for which p holds end with a status. -/
def failRequests (s : State) (p : EqReq → Bool) (st : Nat) : State :=
  let s1 := modEq s fun e => { e with requests := e.requests.filter fun q => !p q }
  (s.eq.requests.filter p).foldl (fun s q => failEq s q.agent q.seq st) s1
/-- Commands waiting at the station for which p holds end with a status. -/
def failWaiting (s : State) (p : Packet → Bool) (st : Nat) : State :=
  let s1 := modEq s fun e => { e with waitingCmds := e.waitingCmds.filter fun q => !p q }
  (s.eq.waitingCmds.filter p).foldl (fun s q => failEq s q.agent q.seq st) s1

/-- R386. Is a kind a response to an engine? -/
def isResponse (kind : Nat) : Bool := kind = 8 || kind = 9 || kind = 0xA || kind = 0xE
/-- Packets of requesters on other packages, and their answers, for which p holds dropped. -/
def dropForeign (s : State) (p : Packet → Bool) : State :=
  let keep (q : Packet) : Bool := !(q.origin.isSome && p q)
  { s with inbox := s.inbox.filter fun x => keep x.2, waiting := s.waiting.filter fun w => keep w.pkt,
           slots := s.slots.map fun x =>
             (x.1, if x.2.origin.isSome && p { decodePacket x.2.payload with origin := x.2.origin } then freeSlot x.2 else x.2),
           eq := { s.eq with waitingCmds := s.eq.waitingCmds.filter keep } }
/-- R92. Does a request of another package still await its answer here, or an answer its sending? -/
def answersPending (s : State) : Bool :=
  s.inbox.any (fun x => x.2.origin.isSome) || s.waiting.any (fun w => w.pkt.origin.isSome) ||
  s.slots.any (fun x => x.2.valid && x.2.origin.isSome) || s.eq.waitingCmds.any fun p => p.origin.isSome

/-- R414. Every collective call in progress ends early with a status. -/
def endCalls (s : State) (st : Nat) (p : Nat → PlanSlot → Bool) : State :=
  (s.cores.flatMap fun e => e.2.plans.map fun x => (e.1, x.1, x.2)).foldl (fun s x =>
    if p x.1 x.2.2 && slotBusy (some x.2.2) then endCallEarly s x.1 x.2.1 st else s) s

/-! ## Re-key (R91 to R93) -/

def setPass (s : State) (r : Rekeying) (n : Nat) : State := modEq s fun e => { e with rekey := some { r with pass := n } }

/-- R92. Pass 1 is forwarded where nothing is outstanding. -/
def tryForward (s : State) : State :=
  match s.eq.rekey with
  | some r => if r.pass = 1 && s.eq.requests.isEmpty && !answersPending s then sendToken (setPass s r 2) 1 r else s
  | none => s

/-- R92. Pass 1 at a member: sealing stops, calls in progress and the requests of departing members are aborted. -/
def beginRekey (s : State) (leader : Nat) (epoch : BitVec 32) (members : BitVec 64) : State :=
  let own := s.eq.pkg
  let gone (p : Nat) : Bool := !members.getLsbD own || !members.getLsbD p
  let r : Rekeying := { leader := leader, epoch := epoch, members := members, ring := s.eq.members ||| members, pass := 1, since := s.chron }
  let s1 := modEq s fun e => { e with rekey := some r, dstate := if e.members.getLsbD own then 3 else e.dstate }
  let s2 := endCalls s1 7 fun _ _ => true
  let s3 := failWaiting (failRequests s2 (fun q => gone q.pkg) 7) (fun q => gone q.pkg) 7
  tryForward (dropForeign s3 fun p => p.origin.elim false gone)

/-- R91. A re-key led by this package, by which some packages join the members and some leave them; one in progress ends first. -/
def startRekey (s : State) (joins leaves : BitVec 64) : State :=
  if s.eq.rekey.isSome then modEq s fun e => { e with queued := e.queued ++ [(joins, leaves)] }
  else beginRekey s s.eq.pkg (s.eq.epoch + 1) ((s.eq.members ||| joins) &&& ~~~leaves)

/-- R91. A re-key asked of the leader. -/
def askRekey (s : State) (joins leaves : BitVec 64) : State :=
  if isLeader s then startRekey s joins leaves
  else emit s (.token 0 (BitVec.ofNat 6 s.eq.leader) s.eq.epoch ((s.eq.members ||| joins) &&& ~~~leaves))

/-- R92. Pass 2: sessions with departing members end, and the derivation begins. -/
def beginDerivation (s : State) (r : Rekeying) : State :=
  modEq (setPass s r 3) fun e => { e with sessions := e.sessions.filter fun x => x.peer ≥ 64 || r.members.getLsbD x.peer }

/-- R88. The info string: the ASCII bytes of "dravus eq key", i, j, and the epoch, most significant byte first. -/
def keyInfo (i j : Nat) (epoch : BitVec 32) : List Byte :=
  [0x64#8, 0x72#8, 0x61#8, 0x76#8, 0x75#8, 0x73#8, 0x20#8, 0x65#8, 0x71#8, 0x20#8, 0x6B#8, 0x65#8, 0x79#8,
   BitVec.ofNat 8 i, BitVec.ofNat 8 j] ++ (bytesOf epoch.toNat 4).reverse

/-- The keys and counters of a key slot gone. -/
def zeroSlot (e : Equator) (slot : Nat) : Equator :=
  { e with keys := Map.clearRange e.keys (slot * 4096) (slot * 4096 + 4096),
           send := Map.clearRange e.send (slot * 65536) (slot * 65536 + 65536),
           expected := Map.clearRange e.expected (slot * 65536) (slot * 65536 + 65536) }

/-- R88, R92. The new epoch's pair keys in the idle slot, its counters at 0. -/
def deriveKeys (e : Equator) (r : Rekeying) : Equator :=
  let slot := idleSlot e
  let i := e.pkg
  if !r.members.getLsbD i then zeroSlot e slot
  else
    (e.sessions.filter fun x => x.up && x.peer < 64 && r.members.getLsbD x.peer && x.peer ≠ i).foldl (fun e x =>
      { e with keys := Map.set (Map.set e.keys (pairNo slot i x.peer) (hkdfExpand x.secret (keyInfo i x.peer r.epoch)))
                         (pairNo slot x.peer i) (hkdfExpand x.secret (keyInfo x.peer i r.epoch)) }) (zeroSlot e slot)

/-- R92. Pass 3: the new slot is the send slot and the only admitted one, the old slot is zeroised, and the commands that waited go
to the station again. A package that has departed is left without keys; what its EQ_EPOCH and EQ_STAT.LEADER read then the spec does
not say: they keep their values (DESIGN CHOICE, log 62). -/
def resumeDomain (s : State) (r : Rekeying) : State :=
  let own := s.eq.pkg
  let e := zeroSlot { s.eq with ksb := !s.eq.ksb } (activeSlot s.eq)
  let e1 : Equator :=
    if r.members.getLsbD own then
      { e with members := r.members, epoch := r.epoch, leader := lowestOf r.members, dstate := 2, joining := false, rekey := none }
    else { zeroSlot e (activeSlot e) with members := 0#64, dstate := 0, sessions := e.sessions.filter fun x => x.peer ≥ 64,
                                          joining := false, rekey := none, queued := [] }
  let waiting := s.eq.waitingCmds.map fun p => (15, p)
  { s with eq := { e1 with waitingCmds := [] }, inbox := s.inbox ++ waiting }

/-- R91. The leader's next re-key in line. A leader that has left hands the re-keys in line to the new one, each as it would be asked. -/
def nextRekey (s : State) (r : Rekeying) (queued : List (BitVec 64 × BitVec 64)) : State :=
  let s1 := modEq s fun e => { e with queued := [], rekey := none }
  if memberOf s1 s1.eq.pkg then
    match queued with
    | [] => s1
    | m :: rest => modEq (startRekey s1 m.1 m.2) fun e => { e with queued := rest }
  else queued.foldl (fun s m =>
    emit s (.token 0 (BitVec.ofNat 6 (lowestOf r.members)) r.epoch ((r.members ||| m.1) &&& ~~~m.2))) s1

/-- R92. REKEY: the token of pass 1 reaches this package. At the leader it has come round, and pass 2 begins there. A request for a
re-key reaches the leader in the same form, under the present epoch; its mask says which packages join and leave. A package that takes no
part sends the token on. Fields: leader, epoch, members. -/
def execRekey (s : State) : Out :=
  let joins := s.arg.members &&& ~~~s.eq.members
  let leaves := s.eq.members &&& ~~~s.arg.members
  let came (s : State) : State := tokenCame s (s.eq.members ||| s.arg.members) (activeSlot s.eq)
  match s.eq.rekey with
  | some r =>
    if s.arg.epoch = r.epoch then
      if r.leader = s.eq.pkg then
        if r.pass = 2 then .next (beginDerivation (came s) r) else .next (came s)
      else if r.pass = 1 then .next (tryForward (came s))
      else .next (sendToken (came s) 1 r)
    else if r.leader = s.eq.pkg && s.arg.epoch = s.eq.epoch then .next (startRekey s joins leaves)
    else .next s
  | none =>
    if s.arg.epoch = s.eq.epoch && memberOf s s.eq.pkg then
      if isLeader s then .next (startRekey s joins leaves) else .next (emit s (.token 1 s.arg.leader s.arg.epoch s.arg.members))
    else if memberOf s s.eq.pkg || s.arg.members.getLsbD s.eq.pkg then
      .next (beginRekey (came s) s.arg.leader.toNat s.arg.epoch s.arg.members)
    else .next (emit s (.token 1 s.arg.leader s.arg.epoch s.arg.members))

/-- R93. REKEY_DRAIN_TIMEOUT: 100 µs have passed since REKEY came: the requests sent are aborted, the responses not yet sent are dropped,
and REKEY goes on. -/
def execRekeyDrainTimeout (s : State) : Out :=
  match s.eq.rekey with
  | some r =>
    if r.pass = 1 && s.chron ≥ r.since + 100000 then
      let s1 := dropForeign (failRequests s (fun _ => true) 7) fun p => isResponse p.kind
      .next (sendToken (setPass s1 r 2) 1 r)
    else .next s
  | none => .next s

/-- R92. KEYED: the token of pass 2. Fields: leader, epoch, members. -/
def execKeyed (s : State) : Out :=
  match s.eq.rekey with
  | some r =>
    let s0 := tokenCame s r.ring (activeSlot s.eq)
    if s.arg.epoch ≠ r.epoch then .next s
    else if r.leader = s.eq.pkg then
      if r.pass = 4 then
        let s1 := modEq (resumeDomain s0 r) fun e => { e with rekey := some { r with pass := 5 }, queued := s.eq.queued }
        .next (sendToken s1 3 r)
      else .next s0
    else if r.pass = 2 then .next (beginDerivation s0 r)
    else if r.pass = 4 then .next (sendToken s0 2 r)
    else .next s0
  | none => .next (emit s (.token 2 s.arg.leader s.arg.epoch s.arg.members))

/-- R88, R92. KEY_DERIVED: the derivation is done, and KEYED goes on. -/
def execKeyDerived (s : State) : Out :=
  match s.eq.rekey with
  | some r => if r.pass = 3 then .next (sendToken (setPass (modEq s fun e => deriveKeys e r) r 4) 2 r) else .next s
  | none => .next s

/-- R92. RESUME: the token of pass 3; at the leader the re-key ends. Fields: leader, epoch, members. -/
def execResume (s : State) : Out :=
  match s.eq.rekey with
  | some r =>
    if s.arg.epoch ≠ r.epoch then .next s
    else if r.leader = s.eq.pkg then
      if r.pass = 5 then .next (nextRekey (tokenCame s r.ring (activeSlot s.eq)) r s.eq.queued) else .next s
    else if r.pass = 4 then .next (sendToken (resumeDomain (tokenCame s r.ring (idleSlot s.eq)) r) 3 r)
    else .next s
  | none => .next (emit s (.token 3 s.arg.leader s.arg.epoch s.arg.members))

/-! ## Departure (R94) -/

/-- R94. A member has departed: the leader, or the member with the next lowest PKG where it was the leader, starts a re-key. -/
def departed (s : State) (p : Nat) : State :=
  if !memberOf s p || p = s.eq.pkg then s
  else
    let mask := s.eq.members &&& ~~~(maskOf p)
    let s1 := if p = s.eq.leader then modEq s fun e => { e with leader := lowestOf mask } else s
    askRekey s1 0#64 (maskOf p)

def modSession (s : State) (p : Nat) (f : Session → Session) : State :=
  modEq s fun e => { e with sessions := e.sessions.map fun x => if x.peer = p then f x else x }

/-- R94. HEARTBEAT: the timer of a session expires. Field: index, the peer. -/
def execHeartbeat (s : State) : Out :=
  if s.eq.sessions.any fun x => x.peer = s.arg.index && x.up then .next (emit s (.spdm s.arg.index .heartbeat)) else .next s

/-- R94. HEARTBEAT_MISS: a heartbeat of a peer is missed; with the third the peer has departed. Field: index, the peer. -/
def execHeartbeatMiss (s : State) : Out :=
  let p := s.arg.index
  match s.eq.sessions.find? fun x => x.peer = p && x.up with
  | none => .next s
  | some x =>
    let s1 := modSession s p fun x => { x with missed := x.missed + 1 }
    if x.missed + 1 = 3 then .next (departed s1 p) else .next s1

/-! ## Sessions and admission (R84 to R87) -/

/-- R84. The place of a message in the exchange. -/
def messageNo (m : SpdmMsg) : Nat :=
  match m with
  | .getVersion _ => 0 | .getCapabilities _ => 1 | .negotiateAlgorithms _ => 2 | .getDigests => 3 | .getCertificate _ => 4
  | .getMeasurements _ => 5 | .keyExchange _ => 6 | .finish _ => 7 | .heartbeat => 8 | .endSession => 9

/-- R85. Does an offer hold the algorithm of every class? -/
def soundOffer (x : Offer) : Bool :=
  x.signature.contains .rsaPss4096Sha512 && x.hash.contains .sha512 && x.keyExchange.contains .ffdhe4096 && x.aead.contains .aes256Gcm &&
  x.keySchedule.contains .spdmHkdfSha512 && x.measurement.contains .dmtfSha512
/-- R85. What this package offers: one algorithm in each class. -/
def ownOffer : Offer :=
  { signature := [.rsaPss4096Sha512], hash := [.sha512], keyExchange := [.ffdhe4096], aead := [.aes256Gcm],
    keySchedule := [.spdmHkdfSha512], measurement := [.dmtfSha512] }

/-- R86. A session with a peer as it is opened: it is held to the admission policy of that time. -/
def newSession (s : State) (p : Nat) : Session := { peer := p, policyRoot := s.eq.policyRoot, policyList := s.eq.policyList }
def sessionWith (s : State) (p : Nat) : Session := (s.eq.sessions.find? fun x => x.peer = p).getD (newSession s p)

/-- R84 to R86, R96. Is a message of a session's exchange acceptable? The host (peer 64) is held to the alarm level and the algorithms
alone. -/
def acceptable (s : State) (x : Session) (m : SpdmMsg) : Bool :=
  let host := x.peer = 64
  match m with
  | .getVersion v13 => s.eq.level < 2 && (v13 || host)
  | .getCapabilities both => both || host
  | .negotiateAlgorithms offer => soundOffer offer
  | .getCertificate root => x.policyRoot = some root || host
  | .getMeasurements sum => x.policyList.contains sum || host
  | .keyExchange both => s.eq.level < 2 && (both || host)
  | .getDigests | .finish _ | .heartbeat | .endSession => true

/-- R84. This package's own message of a number in the exchange. Key material is in none (R88). -/
def ownMessage (n : Nat) : SpdmMsg :=
  match n with
  | 0 => .getVersion true
  | 1 => .getCapabilities true
  | 2 => .negotiateAlgorithms ownOffer
  | 3 => .getDigests
  | 4 => .getCertificate Config.identityRoot
  | 5 => .getMeasurements Config.identitySummary
  | 6 => .keyExchange true
  | _ => .finish 0#512

/-- A session after an accepted message. -/
def advanceSession (x : Session) (m : SpdmMsg) : Session :=
  let y := { x with stage := x.stage + 1 }
  match m with
  | .getCertificate r => { y with root := r }
  | .getMeasurements r => { y with summary := r }
  | .keyExchange b => { y with mutualAuth := b }
  | .finish k => { y with secret := k, up := true }
  | .getVersion _ | .getCapabilities _ | .negotiateAlgorithms _ | .getDigests | .heartbeat | .endSession => y

/-- R87. A session fails: it is gone, and an admission in progress has failed, its sessions ended. -/
def sessionFails (s : State) (p : Nat) : State :=
  let s1 := modEq s fun e => { e with sessions := e.sessions.filter fun x => x.peer ≠ p }
  if !s.eq.joining || p ≥ 64 then s1
  else
    let up := s1.eq.sessions.filter fun x => x.peer < 64
    let s2 := modEq s1 fun e => { e with joining := false, dstate := 4, sessions := e.sessions.filter fun x => x.peer ≥ 64 }
    up.foldl (fun s x => emit s (.spdm x.peer .endSession)) s2

/-- R84. What this package sends when it has accepted message n of a peer's session: the lower PKG is the requester and sends the next
request, with the first one too where the session had not been opened; the higher answers in kind. -/
def replyTo (s : State) (x : Session) (n : Nat) : State :=
  let p := x.peer
  if p ≥ 64 then s
  else if s.eq.pkg < p then
    let opened := s.eq.sessions.any fun z => z.peer = p
    let s1 := if n = 0 && !opened then emit s (.spdm p (ownMessage 0)) else s
    if n < 7 then emit s1 (.spdm p (ownMessage (n + 1))) else s1
  else emit s (.spdm p (ownMessage n))

/-- R87. The leader starts the re-key that admits a package whose sessions have all succeeded. -/
def admitPeer (s : State) (p : Nat) (others : Bool) : State :=
  if p < 64 && isLeader s && !memberOf s p && others && s.eq.sessions.any (fun x => x.peer = p && x.up) &&
      !(s.eq.rekey.elim false fun r => r.members.getLsbD p) && !s.eq.queued.any (fun q => q.1.getLsbD p) then
    startRekey s (maskOf p) 0#64
  else s

/-- R84, R87. A message of the session with a peer. R84 lists the messages of the exchange and states no order: the model takes each once,
in the order of the list, and any other fails the session (DESIGN CHOICE, log 64). `others`: the peer's sessions with the other members
have succeeded, which a later message may say as well. -/
def sessionMessage (s : State) (p : Nat) (m : SpdmMsg) (others : Bool) : State :=
  let n := messageNo m
  let x := sessionWith s p
  if n = 8 then if x.up then admitPeer (modSession s p fun x => { x with missed := 0 }) p others else s
  else if n = 9 then modEq s fun e => { e with sessions := e.sessions.filter fun x => x.peer ≠ p }
  else if n ≠ x.stage || !acceptable s x m then sessionFails s p
  else
    let y := advanceSession x m
    admitPeer (modEq (replyTo s x n) fun e => { e with sessions := (e.sessions.filter fun z => z.peer ≠ p) ++ [y] }) p others

/-- R84. SPDM_MESSAGE. Fields: index, the peer package; msg; ok, as `sessionMessage` takes `others`. -/
def execSpdmMessage (s : State) : Out := .next (sessionMessage s (s.arg.index % 64) s.arg.msg s.arg.ok)

/-- R84, R87. A joiner opens a session with a member; where its PKG is the lower it sends the first request. -/
def openSession (s : State) (p : Nat) : State :=
  if s.eq.sessions.any fun x => x.peer = p then s
  else
    let s1 := modEq s fun e => { e with sessions := e.sessions ++ [newSession s p] }
    if s.eq.pkg < p then emit s1 (.spdm p (ownMessage 0)) else s1

/-- R87. JOIN_TIMEOUT: one rotation has passed since a joiner announced itself. Where no member has answered it forms a domain alone, else
it opens a session with every member. Field: members, those that the answers name. -/
def execJoinTimeout (s : State) : Out :=
  if !s.eq.joining then .next s
  else
    let peers := (bitsSet s.arg.members.toNat 64).filter (· ≠ s.eq.pkg)
    if !peers.isEmpty then .next (peers.foldl openSession s)
    else if s.eq.sessions.any fun x => x.peer < 64 then .next s
    else .next (modEq s fun e => { e with joining := false, members := maskOf e.pkg, leader := e.pkg, epoch := 1#32, dstate := 2 })

end Sys2Proof.Machine
end

