-- ==== Sys2Proof/Machine/Equator.lean ====
section
/-! DEFINITION. The Equator station (R69 to R83, R89, R95): link training and loss, sealed slots, requests to other packages and their
responses. The slots of other packages are inputs; the package's own leave it as OutMsg.eqSlot, full slots only (log 12). -/
namespace Sys2Proof.Machine

/-! ## Training (R69 to R72, R95) -/

/-- R70, R71. A measured hop, in ring clocks, as slot times: at least 2. -/
def slotTimes (clocks : Nat) : Nat := max 2 (ceilDiv clocks 24)
/-- R71. The hops of a direction with the delay of its last hop, which makes the rotation a multiple of 64. A last hop of more than 255
slot times after that delay the model keeps as it is; EQ_HOP shows its low 8 bits (DESIGN CHOICE, log 59). -/
def paddedHops (l : List Nat) : List Nat :=
  let hs := l.map slotTimes
  let q := hs.foldl (· + ·) 0
  hs.dropLast ++ hs.getLast?.toList.map fun h => h + (alignUp q 64 - q)
/-- R69. The position of this package: eastward from the package with the lowest serial number. `serials` runs eastward from this one. -/
def ringPosition (serials : List Nat) : Nat :=
  let low := serials.foldl min (serials.headD 0)
  (serials.length - serials.findIdx (· = low)) % max serials.length 1

/-- R69, R71, R72, R95. EQ_LINK_TRAINING_DONE: a ring of 2 to 64 packages whose hops take at most 255 slot times has trained: the package's
ring position, the hops and the rotations. At a member the ring had lost its framing, and the domain is formed again by a re-key from the
packages that answer. Fields: serials, the packages' serial numbers eastward from this one; nums, the eastward hops from position 0 on,
in ring clocks; nums2, the westward hops from position N − 1 down; members, the packages that answer. -/
def execEqLinkTrainingDone (s : State) : Out :=
  let a := s.arg
  let n := a.serials.length
  if n < 2 || n > 64 || a.nums.length ≠ n || a.nums2.length ≠ n || (a.nums ++ a.nums2).any (fun h => slotTimes h > 255) then .next s
  else
    let east := paddedHops a.nums
    let west := paddedHops a.nums2
    let s1 := modEq s fun e => { e with
      pkg := ringPosition a.serials, count := n, link := true, qE := east.foldl (· + ·) 0, qW := west.foldl (· + ·) 0,
      -- EHOP of station k leaves k eastward; the i-th westward hop leaves station N − 1 − i
      ehop := ((List.range n).zip east).foldl (fun m x => Map.set m x.1 x.2) [],
      whop := ((List.range n).zip west).foldl (fun m x => Map.set m (n - 1 - x.1) x.2) [] }
    if !memberOf s1 s1.eq.pkg then .next s1
    else
      let left := s1.eq.members &&& a.members
      let s2 := modEq s1 fun e => { e with leader := lowestOf left }
      .next (if s2.eq.leader = s2.eq.pkg then startRekey s2 0#64 (s2.eq.members &&& ~~~a.members) else s2)

/-- R83, R95. The status that ends an Equator request: an atomic whose response never came has lost its result. -/
def lostStatus (atomic : Bool) : Nat := if atomic then 6 else 3

/-- R95, R414. EQ_FRAMING_LOSS: the ring stops; outstanding Equator commands and the collective calls of the Equator complete
INTEGRITY; a re-key in progress ends. -/
def execEqFramingLoss (s : State) : Out :=
  let s1 := failWaiting (failRequests s (fun _ => true) 3) (fun _ => true) 3
  let s2 := endCalls s1 3 fun _ x => x.plan.chunks.any (onEquator (launchOf s x.launch))
  .next (modEq { s2 with tokens := s2.tokens.filter fun t => !t.equator } fun e =>
    { e with link := false, rekey := none, dstate := if e.dstate = 3 then 2 else e.dstate })

/-! ## Counters that end (R79) -/

/-- R79. The sender's counter has reached its end: the leader starts a re-key with the same members. -/
def counterEnds (s : State) (p : Nat) (d : Dir) (lane : Nat) : State :=
  if s.eq.rekey.isSome || sendCount s p d lane < 2 ^ 63 then s else askRekey s 0#64 0#64

/-! ## Owners (R73, R75) -/

def eqOwnerOf (s : State) (key : Nat) : Nat := (Map.get s.eq.owners key 0#32).toNat
/-- The stream of a position number, 0 for none. -/
def eqStreamAt (s : State) (key : Nat) : Nat := if field (eqOwnerOf s key) 10 2 = 1 then field (eqOwnerOf s key) 0 10 else 0
/-- R75. Is this package an end of a position's point-to-point stream, or is the stream collective? -/
def fireable (s : State) (key : Nat) : Bool :=
  let o := eqOwnerOf s key
  o.testBit 31 || field o 25 6 = s.eq.pkg || field o 19 6 = s.eq.pkg

/-- R48, R75. An armed entry on a slot of a stream that passes between its ends is skipped and counted as FORMAT. -/
def skipBetween (s : State) (key : Nat) : State :=
  if armed (entryAt s 16 key) && !fireable s key then
    modStation s 16 fun t => { t with format := min (t.format + 1) 0xFFFF }
  else s

/-- R48, R74. The entry of a position on a slot: where the ownership table disagrees with the slot's STREAM it is skipped. -/
def eqEntry (s : State) (key : Nat) (x : Slot) : State × Slot :=
  passEntry s 16 key (if x.valid && x.stream ≠ eqStreamAt s key then 0 else eqStreamAt s key) x

/-! ## Discards (R81, R96, R99) -/

/-- R80. Why a slot is discarded. -/
inductive Discard where
  | tagFail | gap | replay
  deriving DecidableEq, Repr

def bumpErr (m : Map Nat) (p : Nat) : Map Nat := Map.update m p 0 fun v => min (v + 1) 0xFFFF

/-- R81, R96, R99. A discard counted and reported to Binnacle. -/
def countDiscard (s : State) (why : Discard) (p pseq : Nat) : State :=
  let s1 := modEq s fun e => match why with
    | .tagFail => { e with tagFail := bumpErr e.tagFail p }
    | .gap => { e with gap := bumpErr e.gap p }
    | .replay => { e with replay := bumpErr e.replay p }
  let code := match why with
    | .tagFail => 1
    | .gap => 2
    | .replay => 3
  let s2 := modEq (logEvent s1 3 16 p code 0 0 pseq) fun e => { e with
    discards := (e.discards.filter fun x => s.chron < x.1 + 1000000000) ++ [(s.chron, p)] }
  let s3 := raiseAlarm s2 1 1
  let s4 := if (s2.eq.discards.filter fun x => x.2 = p).length > s2.eq.thr2 then raiseAlarm s3 2 1 else s3
  if s2.eq.discards.length > s2.eq.thr3 then raiseAlarm s4 3 1 else s4

/-- R83, R386. A response whose command has completed: dropped and counted under LATE. -/
def countLate (s : State) (p : Nat) (pseq : Nat) : State :=
  logEvent (modEq s fun e => { e with late := bumpErr e.late p }) 3 16 p 4 0 0 pseq

/-! ## Responses and requests that arrive (R82, R83) -/

def awaited (p : Packet) (from_ : Nat) (q : EqReq) : Bool := q.pkg = from_ && q.agent = p.agent && q.seq = p.seq

/-- R81. A discarded packet: the command of a response completes. -/
def discardPacket (s : State) (p : Packet) (from_ : Nat) : State :=
  match s.eq.requests.find? (awaited p from_) with
  | some q => if isResponse p.kind then tryForward (failRequests s (fun x => x = q) (lostStatus q.atomic)) else s
  | none => s

/-- R82, R83, R205. A packet opened at its destination: a request goes to the home of its placement address, of a replicated one a read to
the nearest replica and a store to the anchor (R211); a response goes to its requester. -/
def deliverPacket (s : State) (p : Packet) (from_ pseq : Nat) : Out :=
  if isRequest p.kind then
    let homes := foreignHomes s p.paddr
    let a := if p.kind = 1 then nearestTo 15 homes else homes.headD p.paddr
    if !dpaExists a then .fault (.noSuchAddress a)
    else .next (sendPacket s 15 (2 * dpaDie a + 1) { p with paddr := a, origin := some from_ } none)
  else if p.kind = 0 || p.kind = 15 then .next { s with inbox := s.inbox ++ [(16, p)] }
  else if isResponse p.kind && s.eq.requests.any (awaited p from_) then
    let s1 := modEq s fun e => { e with requests := e.requests.filter fun q => !awaited p from_ q }
    .next (tryForward (sendPacket s1 15 (agentStation p.agent) { p with origin := none } none))
  else .next (countLate s from_ pseq)

/-! ## A slot at the station (R80, R89) -/

/-- R80. Admitted: the active key slot, and while a re-key has derived its keys the other one. -/
def admitted (s : State) (ksb : Bool) : Bool :=
  ksb = s.eq.ksb || s.eq.rekey.elim false fun r => r.pass = 4

/-- R80. The fate of a slot addressed to this package: its plaintext, or why it is discarded. -/
def openSlot (s : State) (h : EqHead) (x : Slot) (d : Dir) (lane : Nat) (sealed : SealedSlot) : State × Except Discard Payload :=
  let slot := h.ksb.toNat
  let own := s.eq.pkg
  if !admitted s h.ksb || !memberOf s h.spkg then (s, .error .tagFail)
  else
    let opened := (Map.find s.eq.keys (pairNo slot h.spkg own)).bind fun key =>
      gcmOpen key (nonceOf h.spkg own d lane h.pseq) sealed.header sealed.payload x.len sealed.tag
    match opened with
    | none => (s, .error .tagFail)
    | some plain =>
      let c := channelNo slot h.spkg own d lane
      let e := Map.get s.eq.expected c 0
      let moved := modEq s fun q => { q with expected := Map.set q.expected c ((h.pseq + 1) % 2 ^ 64) }
      if h.pseq = e then (moved, .ok (payloadPart plain x.len))
      else if h.pseq < e then (s, .error .replay)
      else (moved, .error .gap)

/-- A slot sent on as it came. -/
def passOn (s : State) (sealed : SealedSlot) : State := emit s (.eqSlot s.arg.dir s.arg.lane s.arg.pos sealed)
/-- R81. A slot of a stream sent on with its PSEQ, its payload zero, after an entry has acted on it. What its seal holds then the spec does
not say: the model's tag is 0 (DESIGN CHOICE, log 65). -/
def passPoisoned (s : State) (x : Slot) (h : EqHead) : State :=
  if x.valid then passOn s { header := headerOf { x with poison := true, payload := 0#2048 } h, payload := 0#2048, tag := 0#128 } else s

/-- R75, R81. A discarded stream slot: poisoned, under the entry of its position, and sent on. Between the ends of a point-to-point stream
the entry is skipped. -/
def discardStream (s : State) (key : Nat) (x : Slot) (h : EqHead) (integrity : Bool) : State :=
  let bad := { x with poison := true, payload := 0#2048, integrity := integrity }
  let (s1, y) := if fireable s key then eqEntry s key bad else (skipBetween s key, bad)
  passPoisoned s1 y h

/-- R89. A slot of a stream sealed for a package. Where sealing has stopped, the slot is freed (log 12). -/
def sealFor (s : State) (x : Slot) (ekind p : Nat) : State :=
  if !x.valid then s
  else if sealingStopped s || !canSeal s p s.arg.dir s.arg.lane then counterEnds s p s.arg.dir s.arg.lane
  else sealSlot s x ekind p s.arg.dir s.arg.lane s.arg.pos
/-- R75, R89. A slot that a LOAD has filled sealed for the package it goes to: by the ownership table the next member, or the
destination. -/
def sealOn (s : State) (key : Nat) (x : Slot) : State :=
  let o := eqOwnerOf s key
  if o.testBit 31 then sealFor s x 2 (nextMember s s.arg.dir) else sealFor s x 1 (field o 19 6)

/-- R81. The fate of a slot that this package opens and discards. -/
def discardSlot (s : State) (key : Nat) (x : Slot) (h : EqHead) (why : Discard) (plain : Option Payload) : State :=
  let s1 := countDiscard s why h.spkg h.pseq
  if h.ekind = 0 then match plain with
    | some p => discardPacket s1 (decodePacket p) h.spkg
    | none => s1
  else if h.ekind = 3 then s1
  else discardStream s1 key x h true

/-- R81. The plaintext of a slot whose tag is good. -/
def goodPlain (s : State) (h : EqHead) (x : Slot) (d : Dir) (lane : Nat) (sealed : SealedSlot) : Option Payload :=
  (Map.find s.eq.keys (pairNo h.ksb.toNat h.spkg s.eq.pkg)).bind fun key =>
    (gcmOpen key (nonceOf h.spkg s.eq.pkg d lane h.pseq) sealed.header sealed.payload x.len sealed.tag).map fun p =>
      payloadPart p x.len

/-- R80, R81, R89. A full slot whose DPKG is this package. -/
def openHere (s : State) (key : Nat) (x : Slot) (h : EqHead) (sealed : SealedSlot) : Out :=
  if !h.enc then
    if h.ekind = 3 then .next s else .next (discardSlot s key x h .tagFail none)
  else
    let (s1, r) := openSlot s h x s.arg.dir s.arg.lane sealed
    match r with
    | .error .tagFail => .next (discardSlot s1 key x h .tagFail none)
    | .error why => .next (discardSlot s1 key x h why (goodPlain s h x s.arg.dir s.arg.lane sealed))
    | .ok plain =>
      if h.ekind = 0 then deliverPacket s1 (decodePacket plain) h.spkg h.pseq
      else if h.ekind = 3 then .next s1
      else
        let z := { x with payload := plain }
        let (s2, y) := if h.ekind = 1 && !fireable s1 key then (skipBetween s1 key, z) else eqEntry s1 key z
        if h.ekind = 2 then .next (sealFor s2 y 2 (nextMember s2 s.arg.dir))
        else if y.poison && !x.poison then .next (passPoisoned s2 y h)
        else if y.valid then .next (passOn s2 sealed) else .next s2

/-- R66, R81. A full control slot of the Equator fails its CRC: it is counted, and the token that it carried, the i-th where it carried
that, is lost (log 38). -/
def loseEqToken (s : State) (i : Nat) : State :=
  let held := ((s.tokens.zip (List.range s.tokens.length)).filter fun t => t.1.equator && !t.1.lost).map (·.2)
  let n := if held.contains i then i else held.headD s.tokens.length
  let s1 := countCrc s 16
  { s1 with tokens := ((List.range s1.tokens.length).zip s1.tokens).map fun t => if t.1 = n then { t.2 with lost := true } else t.2 }

/-- R80. EQ_SLOT_OPEN: a slot reaches the Equator station. A control slot's token comes as a step of its own. Fields: dir, lane, pos; sealed,
the slot; ok, its header CRC holds; index, on the control position the token that a bad CRC loses. -/
def execEqSlotOpen (s : State) : Out :=
  let key := slotKey s.arg.dir s.arg.lane s.arg.pos
  let sealed := s.arg.sealed
  let h := eqHeadOf sealed.header
  let x := slotOfHeader sealed.header sealed.payload
  let own := s.eq.pkg
  if !s.eq.link then .next s
  else if s.arg.lane % 8 = 0 && s.arg.pos % 64 = 0 then .next (if x.valid && !s.arg.ok then loseEqToken s s.arg.index else s)
  else if !x.valid then
    if eqStreamAt s key = 0 then .next s
    else if !fireable s key then .next (skipBetween s key)
    else if sealingStopped s || !memberOf s own then .next s
    else
      let (s1, y) := eqEntry s key x
      .next (sealOn s1 key y)
  else if !s.arg.ok then
    let s1 := countCrc s 16
    if eqStreamAt s key = 0 then .next s1
    else .next (discardStream s1 key { x with cls := 1, stream := eqStreamAt s key } h false)
  else if h.dpkg = own then openHere s key x h sealed
  else if h.ekind = 0 && h.spkg = own then .next s
  else if h.ekind = 2 && x.poison && memberOf s own then .next (discardStream s key x h true)
  else if h.ekind = 1 then .next (passOn (skipBetween s key) sealed)
  else .next (passOn s sealed)

/-! ## Requests to other packages (R82, R83) -/

/-- R72. Slot times from this package to another, going east and going west. -/
def eastTimes (s : State) (p : Nat) : Nat :=
  let n := max s.eq.count 1
  (List.range ((p + n - s.eq.pkg % n) % n)).foldl (fun a i => a + Map.get s.eq.ehop ((s.eq.pkg + i) % n) 0) 0
def westTimes (s : State) (p : Nat) : Nat :=
  let n := max s.eq.count 1
  (List.range ((s.eq.pkg + n - p % n) % n)).foldl (fun a i => a + Map.get s.eq.whop ((s.eq.pkg + n - i % n) % n) 0) 0
/-- R82. The direction with fewer slot times, east on a tie. -/
def eqWay (s : State) (p : Nat) : Dir := if westTimes s p < eastTimes s p then .west else .east

/-- R386. The kind of the response to a request. -/
def responseKind (kind : Nat) : Nat :=
  if kind = 1 || kind = 4 || kind = 7 then 8 else if kind = 3 then 0xA else if kind = 6 then 0xB else 9

/-- R39, R82. A packet in a slot of the Equator. -/
def eqPacketSlot (p : Packet) : Slot := fillSlot {} 15 0 { p with origin := none }

/-- A packet that the station keeps until sealing goes on. -/
def keepWaiting (s : State) (p : Packet) : State := modEq s fun e => { e with waitingCmds := e.waitingCmds ++ [p] }

/-- R82. The next packet for the Equator station sealed to a package, or kept waiting while sealing has stopped. -/
def forwardRequest (s : State) (p : Packet) : State :=
  let d := eqWay s p.pkg
  if !memberOf s p.pkg || !memberOf s s.eq.pkg || !s.eq.link then
    sendPacket s 15 (agentStation p.agent) { answerTo p (responseKind p.kind) 3 with origin := none } none
  else if sealingStopped s || !canSeal s p.pkg d s.arg.lane then
    counterEnds (keepWaiting s p) p.pkg d s.arg.lane
  else
    let q : EqReq := { pkg := p.pkg, agent := p.agent, seq := p.seq, atomic := p.kind = 3, sentAt := s.chron }
    sealSlot (modEq s fun e => { e with requests := (e.requests.filter fun x => !(x.agent = q.agent && x.seq = q.seq)) ++ [q] })
      (eqPacketSlot p) 0 p.pkg d s.arg.lane s.arg.pos

/-- R79, R82, R92. A response sealed on the reverse pair. It waits once REKEY has gone on, or where its counter has reached its end; one to
a package that is no member is dropped. -/
def forwardResponse (s : State) (p : Packet) (to_ : Nat) : State :=
  let d := eqWay s to_
  let late := s.eq.rekey.elim false fun r => 2 ≤ r.pass && r.pass ≠ 5
  if !memberOf s to_ || !s.eq.link then tryForward s
  else if late || !canSeal s to_ d s.arg.lane then counterEnds (keepWaiting s p) to_ d s.arg.lane
  else tryForward (sealSlot s (eqPacketSlot p) 0 to_ d s.arg.lane s.arg.pos)

/-- R73. Is a position number of the Equator best-effort by the ownership table, and not the control position? -/
def eqBestEffort (s : State) (key : Nat) : Bool := key % 512 ≠ 0 && field (eqOwnerOf s key) 10 2 = 0

/-- R82. EQ_REQUEST_FORWARD: a free best-effort slot stands at the Equator station, which no other station has marked, and the station puts
a packet into it. Fields: index, the packet's place among those for the station; lane, pos, those of the slot; sealed, the slot. -/
def execEqRequestForward (s : State) : Out :=
  let free := slotOfHeader s.arg.sealed.header s.arg.sealed.payload
  match takeNth (forEquator s) s.arg.index s.inbox with
  | none => .next s
  | some ((_, p), rest) =>
    let way := eqWay s (p.origin.getD p.pkg)
    if !eqBestEffort s (slotKey way s.arg.lane s.arg.pos) || free.valid || free.thr then .next s
    else
      let s1 := { s with inbox := rest }
      match p.origin with
      | none => .next (forwardRequest s1 p)
      | some q => .next (forwardResponse s1 p q)

/-- R83. EQ_RESPONSE_TIMEOUT: a request has had no response within EQ_TMO. Fields: index, the requester; seq. -/
def execEqResponseTimeout (s : State) : Out :=
  match s.eq.requests.find? fun q => q.agent = s.arg.index && q.seq = s.arg.seq with
  | none => .next s
  | some q =>
    if s.chron < q.sentAt + max s.eq.tmo.toNat 0x2710 then .next s
    else .next (tryForward (failRequests s (fun x => x = q) (lostStatus q.atomic)))

end Sys2Proof.Machine
end

