-- ==== Sys2Proof/Machine/HostIf.lean ====
section
/-! DEFINITION. The host's side (R20, R23 to R35, R67, R68, R98 to R107, R120, R207): registers of the management and launch windows,
host accesses to device memory, back-invalidation, IDE keys, SPDM of the host, and the host's answers over CXL.cache. -/
namespace Sys2Proof.Machine

/-! ## Registers of the management window -/

/-- R23. DEV_STATE. -/
def devStateWord (m : Mgmt) : Nat := m.reason * 2 ^ 16 + m.stage * 2 ^ 8 + m.devState
/-- R25. DIE_SERVICE. -/
def dieServiceWord (m : Mgmt) : Nat := m.cdrain.toNat * 2 ^ 16 + m.msvc.toNat * 2 ^ 8 + m.csvc.toNat
/-- R25. DIE_CMD; GO reads as zero. -/
def dieCmdWord (m : Mgmt) : Nat := m.dieCmd * 2 ^ 24 + m.dieIdx * 2 ^ 16 + m.dieStatus * 2 ^ 8
/-- R33. SGT_CTL; FIRE reads as zero. -/
def sgtCtlWord (m : Mgmt) : Nat := m.armed.toNat * 2 ^ 7 + m.mchkEn.toNat * 2 ^ 3 + m.cmpEn.toNat * 2 ^ 2
/-- R33. SGT_STAT. -/
def sgtStatWord (m : Mgmt) : Nat := m.missed * 2 ^ 16 + m.valid.toNat * 2 ^ 4 + m.cause
/-- R98. EQ_STAT. -/
def eqStatWord (e : Equator) : Nat :=
  e.pkg % 64 * 2 ^ 26 + e.leader % 64 * 2 ^ 20 + e.count % 128 * 2 ^ 13 + e.ksb.toNat * 2 ^ 8 + e.dstate * 2 ^ 4 + e.level * 2 ^ 2 +
    e.link.toNat * 2
/-- R97. BN_ALARM; CLR2 reads as zero. -/
def alarmWord (e : Equator) : Nat := e.thr3 * 2 ^ 16 + e.thr2 * 2 ^ 8 + e.level * 2 ^ 4
/-- R207. TLB_INV_CTL; GO reads as zero. -/
def tlbCtlWord (m : Mgmt) : Nat := m.tlbBusy.toNat * 2 ^ 30 + m.tlbScope * 2 ^ 16 + m.tlbAsid.toNat
/-- R120. MB_CMD; GO reads as zero. -/
def mbCmdWord (m : Mgmt) : Nat := m.mbOpcode * 2 ^ 16 + m.mbLen
/-- R120. MB_STAT. -/
def mbStatWord (m : Mgmt) : Nat := m.mbOlen * 2 ^ 16 + m.mbStatus

/-- Is an offset that of register i of a group of n registers of a size? -/
def inGroup (off base size n : Nat) : Bool := base ≤ off && off < base + size * n && (off - base) % size = 0

/-- The registers of the management window: size in bytes and value. -/
def mgmtRegister (s : State) (off : Nat) : Option (Nat × Nat) :=
  let m := s.mgmt
  let e := s.eq
  if off = 0x0 then some (4, devStateWord m)
  else if off = 0x8 then some (4, dieServiceWord m)
  else if off = 0xC then some (4, dieCmdWord m)
  else if off = 0x10 then some (8, s.chron % 2 ^ 64)
  else if off = 0x20 then some (4, sgtCtlWord m)
  else if off = 0x28 then some (8, m.sgtTime.toNat)
  else if off = 0x30 then some (4, sgtStatWord m)
  else if off = 0x38 then some (8, m.sgtLatch.toNat)
  else if inGroup off 0x1000 8 16 then some (8, merErr (station s ((off - 0x1000) / 8)))
  else if inGroup off 0x2000 4 1024 then some (4, ownerWord (ownerOf s ((off - 0x2000) / 4)))
  else if off = 0x4000 then some (4, eqStatWord e)
  else if off = 0x4008 then some (4, e.epoch.toNat)
  else if off = 0x4010 then some (8, e.members.toNat)
  else if off = 0x4018 then some (4, e.qW % 2 ^ 16 * 2 ^ 16 + e.qE % 2 ^ 16)
  else if off = 0x4020 then some (4, e.tmo.toNat)
  else if off = 0x4030 then some (4, alarmWord e)
  else if inGroup off 0x4100 8 64 then some (8, eqErrWord e ((off - 0x4100) / 8))
  else if inGroup off 0x4400 4 64 then
    some (4, Map.get e.whop ((off - 0x4400) / 4) 0 % 256 * 2 ^ 8 + Map.get e.ehop ((off - 0x4400) / 4) 0 % 256)
  else if off = 0x5000 then some (8, m.tlbPage.toNat * 2 ^ 16)
  else if off = 0x5008 then some (4, tlbCtlWord m)
  else if off = 0x10000 then some (4, mbCmdWord m)
  else if off = 0x10004 then some (4, mbStatWord m)
  else if inGroup off 0x11000 4 1024 then some (4, ofBytes (readBytes m.mbData (off - 0x11000) 4))
  else none

/-- R104. LQ_CTL. -/
def lqCtlWord (q : Queue) : Nat :=
  q.en.toNat * 2 ^ 31 + q.overrun.toNat * 2 ^ 30 + q.ien.toNat * 2 ^ 10 + q.pcap.toNat * 2 ^ 8 + q.size.toNat

/-- R104. The registers of the launch window: size in bytes and value. -/
def launchRegister (s : State) (off : Nat) : Option (Nat × Nat) :=
  let q := queueOf s (off / 64)
  let r := off % 64
  if off / 64 > 63 then none
  else if r = 0x0 then some (8, q.base.toNat)
  else if r = 0x8 then some (8, q.paddr.toNat)
  else if r = 0x10 then some (8, q.caddr.toNat)
  else if r = 0x18 then some (4, lqCtlWord q)
  else if r = 0x20 then some (4, q.cidx.toNat)
  else none

def register (s : State) (w : Window) (off : Nat) : Option (Nat × Nat) :=
  match w with
  | .management => mgmtRegister s off
  | .launch => launchRegister s off

/-- The 4 bytes at an aligned offset of a window; an offset without a register reads as zero (R9). -/
def readWindow (s : State) (w : Window) (off : Nat) : Nat :=
  match register s w off with
  | some (_, v) => v % 2 ^ 32
  | none => if off % 8 ≠ 4 then 0 else match register s w (off - 4) with
    | some (8, v) => v / 2 ^ 32
    | _ => 0

/-! ## Writes of the management window -/

def modMgmt (s : State) (f : Mgmt → Mgmt) : State := { s with mgmt := f s.mgmt }

/-- R25, R32. DIE_CMD written: with GO its command is begun at once, and STATUS reads BUSY or the refusal from then on; an undefined
one is refused with BAD_CMD. While a command is in progress the write is ignored. -/
def writeDieCmd (s : State) (v : Nat) : State :=
  if s.mgmt.dieStatus = 1 then s
  else
    let n := field v 16 3
    let s1 := modMgmt s fun m => { m with dieCmd := field v 24 4, dieIdx := n }
    if !v.testBit 31 then s1
    else match field v 24 4 with
      | 1 => drainC s1 n
      | 2 => resetC s1 n
      | 3 => returnC s1 n
      | 4 => retireM s1 n
      | 5 => returnM s1 n
      | 6 => resetM s1 n
      | _ => modMgmt s1 fun m => { m with dieStatus := 7 }

/-- R33. SGT_CTL written: ARMED first, then the compare and the management trigger. -/
def writeSgtCtl (s : State) (v : Nat) : State :=
  let s1 := modMgmt s fun m => { m with mchkEn := v.testBit 3, cmpEn := m.cmpEn && v.testBit 2, armed := m.armed && v.testBit 7 }
  let s2 := if v.testBit 7 then armSighting s1 else s1
  let s3 := if v.testBit 2 then enableCompare s2 else s2
  if v.testBit 0 then fireSighting s3 else s3

/-- R207. TLB_INV_CTL written: a GO while BUSY is ignored, and while it reads 1 SCOPE and ASID stay those of the command. -/
def writeTlbCtl (s : State) (v : Nat) : State :=
  if s.mgmt.tlbBusy then s
  else
    let s1 := modMgmt s fun m => { m with tlbScope := field v 16 2, tlbAsid := BitVec.ofNat 16 v }
    if !v.testBit 31 then s1
    else match field v 16 2 with
      | 0 => invalidatePage s1
      | 1 => invalidateAsid s1
      | 2 => invalidateAll s1
      | _ => releaseForwarding s1

/-- R120, R121. A mailbox command ends: STATUS, OLEN and the output, then vector 64. -/
def endMail (s : State) (st : Nat) (out : List Byte) : State :=
  emit (modMgmt s fun m => { m with mbStatus := st, mbOlen := out.length, mbData := writeBytes m.mbData 0 out, mailing := .none }) (.msix 64)

/-- R121. The commands of the mailbox by their opcodes. -/
def mailCommand (op : Nat) : Option Instr :=
  match op with
  | 0x01 => some .advance
  | 0x02 => some .returnHarbour
  | 0x03 => some .fwStage
  | 0x04 => some .fwCommit
  | 0x05 => some .powerCap
  | 0x06 => some .selftestInterval
  | 0x07 => some .sightRead
  | 0x08 => some .errlogRead
  | 0x09 => some .errlogClear
  | 0x0A => some .launchCancel
  | 0x0B => some .eqOwnership
  | 0x0C => some .admitPolicy
  | 0x0D => some .domainJoin
  | 0x0E => some .domainLeave
  | 0x0F => some .domainExpel
  | _ => none

/-- R120. MB_CMD written: OPCODE and LEN always; a GO makes STATUS read BUSY and starts the command with the LEN written; a GO while
BUSY is ignored; an unknown opcode ends BAD_OPCODE. -/
def writeMbCmd (s : State) (v : Nat) : State :=
  let op := field v 16 8
  let s1 := modMgmt s fun m => { m with mbOpcode := op, mbLen := field v 0 13 }
  if !v.testBit 31 || s.mgmt.mbStatus = 1 then s1
  else match mailCommand op with
    | some i => enqueue (modMgmt s1 fun m => { m with mbStatus := 1, mailing := .go op (field v 0 13) }) i {}
    | none => endMail s1 2 []

/-- A counter map with the entry of a key written. -/
def putCount (m : Map Nat) (k v : Nat) : Map Nat := if v = 0 then Map.erase m k else Map.set m k v

/-- A register of the management window written; read-only registers keep their values. -/
def writeMgmt (s : State) (off v : Nat) : State :=
  if off = 0xC then writeDieCmd s v
  else if off = 0x20 then writeSgtCtl s v
  else if off = 0x28 then modMgmt s fun m => { m with sgtTime := BitVec.ofNat 64 v }
  else if off = 0x30 then if v.testBit 4 then modMgmt s fun m => { m with valid := false } else s
  else if inGroup off 0x1000 8 16 then
    modStation s ((off - 0x1000) / 8) fun t =>
      { t with ownerSkip := field v 48 16, crcDiscard := field v 32 16, format := field v 16 16, throttle := field v 0 16 }
  else if off = 0x4020 then modEq s fun e => { e with tmo := BitVec.ofNat 32 v }
  else if off = 0x4030 then
    let s1 := modEq s fun e => { e with thr3 := field v 16 16, thr2 := field v 8 8 }
    if v.testBit 0 then clearAlarm2 s1 else s1
  else if inGroup off 0x4100 8 64 then
    let p := (off - 0x4100) / 8
    modEq s fun e => { e with tagFail := putCount e.tagFail p (field v 48 16), gap := putCount e.gap p (field v 32 16),
                              replay := putCount e.replay p (field v 16 16), late := putCount e.late p (field v 0 16) }
  else if off = 0x5000 then modMgmt s fun m => { m with tlbPage := BitVec.ofNat 36 (v / 2 ^ 16) }
  else if off = 0x5008 then writeTlbCtl s v
  else if off = 0x10000 then writeMbCmd s v
  else if inGroup off 0x11000 4 1024 then modMgmt s fun m => { m with mbData := writeBytes m.mbData (off - 0x11000) (bytesOf v 4) }
  else s

/-! ## Writes of the launch window (R104) -/

/-- R104, R107. LQ_CTL written: while the queue is enabled SIZE and PCAP stay; EN = 1 enables it. -/
def writeLqCtl (s : State) (n v : Nat) : State :=
  let s1 := modQueue s n fun q =>
    { q with ien := v.testBit 10, pcap := if q.en then q.pcap else BitVec.ofNat 2 (field v 8 2),
             size := if q.en then q.size else BitVec.ofNat 5 (field v 0 5), en := q.en && v.testBit 31,
             pidx := if v.testBit 31 then q.pidx else none }
  if v.testBit 31 then enableQueue s1 n (BitVec.ofNat 64 v) else s1

/-- R104. A register of the launch window written; while EN is 1, all but LQ_CTL are kept. -/
def writeLaunch (s : State) (off v : Nat) : State :=
  let n := off / 64
  let r := off % 64
  let addr := BitVec.ofNat 64 (v % 2 ^ 52)
  if n > 63 then s
  else if r = 0x18 then writeLqCtl s n v
  else if (queueOf s n).en then s
  else if r = 0x0 then modQueue s n fun q => { q with base := BitVec.ofNat 64 (v % 2 ^ 52 + field v 63 1 * 2 ^ 63) }
  else if r = 0x8 then modQueue s n fun q => { q with paddr := addr }
  else if r = 0x10 then modQueue s n fun q => { q with caddr := addr }
  else if r = 0x20 then modQueue s n fun q => { q with cidx := BitVec.ofNat 32 v }
  else s

def writeWindow (s : State) (w : Window) (off v : Nat) : State :=
  match w with
  | .management => writeMgmt s off v
  | .launch => writeLaunch s off v

/-- A 4-byte write at an aligned offset: a whole register, or the half of a 64-bit one. -/
def writeHalf (s : State) (w : Window) (off v : Nat) : State :=
  match register s w off with
  | some (8, old) => writeWindow s w off (old / 2 ^ 32 * 2 ^ 32 + v)
  | some _ => writeWindow s w off v
  | none => if off % 8 ≠ 4 then s else match register s w (off - 4) with
    | some (8, old) => writeWindow s w (off - 4) (old % 2 ^ 32 + v * 2 ^ 32)
    | _ => s

/-- R9. REGISTER_WRITE: a write of the host to one of its windows. A register with a behaviour of its own starts it. Fields: window; off;
value; wide, 1 where the write has 8 bytes. -/
def execRegisterWrite (s : State) : Out :=
  let w := s.arg.window
  let off := s.arg.off / 4 * 4
  let v := s.arg.value.toNat
  if s.mgmt.resetAsserted then .next s
  else if s.arg.wide = 1#1024 then match register s w off with
    | some (8, _) => .next (writeWindow s w off v)
    | _ => .next (writeHalf (writeHalf s w off (v % 2 ^ 32)) w (off + 4) (v / 2 ^ 32))
  else .next (writeHalf s w off (v % 2 ^ 32))

/-- R20. CONFIG_REQUEST: a read of one of the host's windows is answered, 8 bytes from an aligned offset. Fields: window; off. -/
def execConfigRequest (s : State) : Out :=
  let off := s.arg.off / 4 * 4
  if s.mgmt.resetAsserted then .next s
  else .next (emit s (.answer (BitVec.ofNat 512
    (readWindow s s.arg.window off + readWindow s s.arg.window (off + 4) * 2 ^ 32))))

/-! ## Host accesses to device memory (R101) -/

/-- R101. The device physical address of a byte of the HDM range: each stack less its reserved area, one after another. -/
def hdmAddress (h : Nat) : Nat := dpaOf (h / Config.reservedBase) (h % Config.reservedBase)

/-- R101, R102. HOST_MEM_ACCESS: the host reads or writes a 64-byte half line at its home, while the link carries such traffic. An access
to the line at a migration pointer waits. How many lines a snoop filter marks the spec does not say: the outside names the lines that
the home evicts by back-invalidation because its filter is full. Fields: off, the byte of the HDM range; ok, it is a read; wide, what it
writes; index, 1 where the host may keep the line; nums, the lines evicted. -/
def execHostMemAccess (s : State) : Out :=
  let h := s.arg.off / 64 * 64
  if h ≥ 8 * Config.reservedBase || s.mgmt.resetAsserted || s.eq.linkShut then .next s
  else match forwardTo s (hdmAddress h) with
    | none => .next s
    | some a =>
      let line := a / 128
      let s1 := if s.arg.index = 1 then
          (s.arg.nums.filter (home s (dpaDie a)).held.contains).foldl sendSnoop
            (modHome s (dpaDie a) fun x => { x with held := if x.held.contains line then x.held else x.held ++ [line] })
        else s
      if !s.arg.ok then .next (storeDram s1 a (bytesOf s.arg.wide.toNat 64))
      else if poisonIn s a 64 then .next (emit s1 .answerPoison)
      else .next (emit s1 (.answer (BitVec.ofNat 512 (ofBytes (dramBytes s a 64)))))

/-- R101. BIRSP: the host answers a back-invalidation snoop, or gives a line up. Field: index, the line (device physical address over
128). -/
def execBirsp (s : State) : Out :=
  let line := s.arg.index
  if s.eq.linkShut then .next s
  else .next (modHome s (dpaDie (128 * line)) fun x =>
    { x with held := x.held.filter (· ≠ line), snoops := x.snoops.filter (· ≠ line) })

/-- R102. IDE_KM_KEY_PROG: taken only while the alarm level is below 2. IDE is set up again with it, and what waited for the link goes out.
Field: index, the key's place. -/
def execIdeKmKeyProg (s : State) : Out :=
  if s.eq.level < 2 then .next { s with
    out := s.out ++ s.eq.linkHeld,
    eq := { s.eq with ideKeys := if s.eq.ideKeys.contains s.arg.index then s.eq.ideKeys else s.eq.ideKeys ++ [s.arg.index],
                      linkShut := false, linkHeld := [] } }
  else .next s

/-- R102. HOST_SPDM_REQUEST: a message of the host's session through the DOE mailbox. Field: msg. -/
def execHostSpdmRequest (s : State) : Out := .next (sessionMessage s 64 s.arg.msg false)

/-! ## Answers over CXL.cache (R100) -/

/-- R139, R374, R375. The host's line has come for an atomic, a chunk fetch or an addition: the engine computes, writes the line back, and the
command has its result (DESIGN CHOICE, log 75). -/
def hostModify (s : State) (e : Nat) (r : Req) (h : Nat) : State :=
  let s1 := dropReq s e r.seq
  let word (a n : Nat) : Nat := ofBytes (readBytes s.hostMem a n)
  match findCmd s1 r.cmd with
  | none => s1
  | some cmd => match r.pkt.kind with
    | 3 =>
      let ctl := r.pkt.data.toNat
      let op := field ctl 10 4
      let n := if ctl.testBit 9 then 4 else 8
      let m := word h n
      let v := atomValue op (8 * n) m (r.pkt.opa.toNat % 2 ^ (8 * n)) (r.pkt.opb.toNat % 2 ^ (8 * n))
      modCmd (if op = 10 then s1 else hostStore s1 e cmd.id none h (bytesOf v n)) cmd.id fun c => { c with result := some (BitVec.ofNat 64 m) }
    | 4 =>
      let next := word h 8
      let len := chunkLength (word (h + 8) 8 - next) (max (word (h + 16) 4) 1) (max (word (h + 20) 4) 1)
      let s2 := fillWords s1 cmd (bytesOf next 8 ++ bytesOf len 8)
      modCmd (if len = 0 then s2 else hostStore s2 e cmd.id none h (bytesOf (next + len) 8)) cmd.id fun c =>
        { c with result := some (BitVec.ofNat 64 len) }
    | _ =>
      let ws := accOf r.pkt
      hostStore s1 e cmd.id r.piece h (((List.range ws.length).zip ws).flatMap fun x =>
        bytesOf (wrapN (word (h + 8 * x.1) 8 + x.2.getD 0) 64) 8)

/-- R100. CXL_CACHE_RESPONSE: the host answers a device-to-host request. Fields: index, the request's place; off and nums, what the host
has stored in its memory. -/
def execCxlCacheResponse (s : State) : Out :=
  match s.cxlReqs[s.arg.index]? with
  | none => .next s
  | some q =>
    if s.eq.linkShut then .next s else
    let s0 := hostStores s
    let s1 : State := { s0 with cxlReqs := s0.cxlReqs.eraseIdx s.arg.index }
    if q.agent = 72 then .next (enqueue s1 .pidxReadDone { index := q.seq.toNat })
    else match findReq s1 q.agent q.seq with
      | none => .next s1
      | some r => match q.kind with
        | .wrInv | .itoMWr => .next (dropReq s1 q.agent q.seq)
        | .rdShared | .rdCurr => .next (
          if 3 ≤ r.pkt.kind && r.pkt.kind ≤ 5 then hostModify s1 q.agent r q.hpa
          else takeAnswer s1 q.agent r (readBytes s1.hostMem q.hpa 128))

end Sys2Proof.Machine
end

