-- ==== Sys2Proof/Machine/Mailbox.lean ====
section
/-! DEFINITION. The mailbox commands (R35, R73, R86, R87, R91, R118, R120 to R123, R154). Their input is the first LEN bytes of MB_DATA. -/
namespace Sys2Proof.Machine

def inHarbour (s : State) : Bool := s.mgmt.devState = 1
def inUnderway (s : State) : Bool := s.mgmt.devState = 3
def inService (s : State) : Bool := inHarbour s || inUnderway s

/-- n bytes of the input at an offset, as a number. -/
def mailNat (s : State) (off n : Nat) : Nat := ofBytes (readBytes s.mgmt.mbData off n)

/-- R120. LEN of the command in hand: as it was written with GO. -/
def mailLen (m : Mgmt) : Nat :=
  match m.mailing with
  | .go _ len => len
  | _ => m.mbLen

/-- R120. May the command of an opcode run: it is the one that GO has started, or none is in progress? -/
def mailFree (m : Mgmt) (op : Nat) : Bool :=
  m.mbStatus ≠ 1 || match m.mailing with
    | .go o _ => o = op
    | _ => false

/-- R121. The command of an opcode: WRONG_STATE outside its states, BAD_ARG where its input is out of range, else its effect. One that
arrives while another takes its time is ignored. -/
def mail (s : State) (op : Nat) (allowed sound : Bool) (run : State → State) : Out :=
  if !mailFree s.mgmt op then .next s
  else if !allowed then .next (endMail s 4 [])
  else if !sound then .next (endMail s 3 [])
  else .next (run s)

/-- A command ends OK without output. -/
def mailOk (s : State) : State := endMail s 0 []
/-- A command that takes time begins. -/
def beginMail (s : State) (m : Mailing) : State := modMgmt s fun x => { x with mbStatus := 1, mailing := m }

/-- R121. ADVANCE. -/
def execAdvance (s : State) : Out :=
  mail s 0x01 (inHarbour s) (mailLen s.mgmt = 0) fun s => beginAdvance (beginMail s .advance)

/-- R23. RETURN_HARBOUR. -/
def execReturnHarbour (s : State) : Out :=
  mail s 0x02 (inUnderway s) (mailLen s.mgmt = 0) fun s => mailOk (leaveToHarbour s 0x0C)

/-- R121. FW_STAGE: an offset and image bytes into the 64 MiB staging area. -/
def execFwStage (s : State) : Out :=
  let len := mailLen s.mgmt
  let off := mailNat s 0 8
  mail s 0x03 (inService s) (8 ≤ len && len ≤ 4096 && off + (len - 8) ≤ 2 ^ 26) fun s =>
    mailOk (modMgmt s fun m => { m with staged := writeBytes m.staged off (readBytes m.mbData 8 (len - 8)) })

/-- R121. FW_COMMIT: Binnacle verifies the staged image. -/
def execFwCommit (s : State) : Out := mail s 0x04 (inService s) (mailLen s.mgmt = 0) fun s => beginMail s .fwCommit

/-- R35. POWER_CAP. -/
def execPowerCap (s : State) : Out :=
  let w := mailNat s 0 4
  mail s 0x05 (inService s) (mailLen s.mgmt = 4 && 2000 ≤ w && w ≤ 3600) fun s => mailOk (modMgmt s fun m => { m with powerCap := w })

/-- R154. SELFTEST_INTERVAL. The dispatchers' selections go on at the next boundary of the new period. -/
def execSelftestInterval (s : State) : Out :=
  let n := mailNat s 0 4
  mail s 0x06 (inService s) (mailLen s.mgmt = 4 && 1 ≤ n && n ≤ 3600) fun s =>
    let s1 := modMgmt s fun m => { m with stInterval := n }
    mailOk { s1 with disps := s1.disps.map fun (e : Nat × Dispatcher) => (e.1, { e.2 with testPeriod := testPeriodNow s1 e.1 }) }

/-- R122. The number of words of a block of a kind. -/
def snapWords (kind : Nat) : Nat :=
  match kind with
  | 0 => 13
  | 1 => 5
  | 2 => 3
  | 3 => 1
  | 4 => 1
  | _ => 512

/-- R122. SIGHT_READ: up to 512 words of a block's snapshot. -/
def execSightRead (s : State) : Out :=
  let die := mailNat s 0 1
  let kind := mailNat s 1 1
  let index := mailNat s 2 2
  let off := mailNat s 4 4
  let held := kind ≤ 5 && (blocksOfDie die).any fun b => b.1 = kind && index < b.2
  mail s 0x07 (inService s) (mailLen s.mgmt = 8 && die ≤ 16 && held && off < snapWords kind) fun s =>
    endMail s 0 ((span off (snapWords kind - off)).flatMap fun w =>
      bytesOf (Map.get s.mgmt.snapshot (snapKey die kind index w) 0#64).toNat 8)

/-- R123. The 64 bytes of an error-log entry. -/
def logBytes (e : LogEntry) : List Byte :=
  bytesOf e.time 8 ++ bytesOf (e.cls * 2 ^ 56 + e.die * 2 ^ 48 + e.unit * 2 ^ 40 + e.code) 8 ++ bytesOf e.addr 8 ++
    bytesOf (e.launch * 2 ^ 32 + e.index) 8 ++ bytesOf e.detail 32

/-- R123. ERRLOG_READ: the header and the entries held from an index on. -/
def execErrlogRead (s : State) : Out :=
  let first := mailNat s 0 4
  let count := mailNat s 4 4
  mail s 0x08 (inService s) (mailLen s.mgmt = 8 && 1 ≤ count && count ≤ 63) fun s =>
    let m := s.mgmt
    let oldest := (m.logNext - m.log.length) % 2 ^ 32
    let ahead := (first + 2 ^ 32 - oldest) % 2 ^ 32
    let es := ((m.log.drop (if ahead < 2 ^ 31 then ahead else 0)).take count)
    endMail s 0 (bytesOf oldest 4 ++ bytesOf (min m.logLost (2 ^ 32 - 1)) 4 ++ es.flatMap logBytes)

/-- R121. ERRLOG_CLEAR. -/
def execErrlogClear (s : State) : Out :=
  mail s 0x09 (inService s) (mailLen s.mgmt = 0) fun s => mailOk (modMgmt s fun m => { m with log := [], logLost := 0 })

/-- R118. LAUNCH_CANCEL: NOT_LIVE where the record holds no live launch. -/
def execLaunchCancel (s : State) : Out :=
  let q := mailNat s 0 1
  let r := mailNat s 1 4
  mail s 0x0A (inUnderway s) (mailLen s.mgmt = 5 && q < 64) fun s =>
    match s.launches.find? fun l => l.queue = q && l.record = r && !l.sys with
    | none => endMail s 7 []
    | some l => mailOk (endLaunch s l.id (if l.held then .dieOffline else .cancelled))

/-- R73. EQ_OWNERSHIP: the Equator ownership table. -/
def execEqOwnership (s : State) : Out :=
  let entry (i : Nat) : Nat := mailNat s (4 * i) 4
  mail s 0x0B (inUnderway s) (mailLen s.mgmt = 4096 && (List.range 1024).all fun i => field (entry i) 10 2 ≠ 3) fun s =>
    mailOk (modEq s fun e => { e with owners := (List.range 1024).filterMap fun i =>
      let v := entry i / 2 ^ 19 * 2 ^ 19 + entry i % 2 ^ 12
      if v = 0 || i % 512 = 0 then none else some (i, BitVec.ofNat 32 v) })

/-- R86. ADMIT_POLICY. -/
def execAdmitPolicy (s : State) : Out :=
  let n := mailNat s 64 4
  mail s 0x0C (inService s) (n ≤ 16 && mailLen s.mgmt = 68 + 64 * n) fun s =>
    mailOk (modEq s fun e => { e with
      policyRoot := some (BitVec.ofNat 512 (mailNat s 0 64)),
      policyList := (List.range n).map fun i => BitVec.ofNat 512 (mailNat s (68 + 64 * i) 64) })

/-- R87. DOMAIN_JOIN: refused at a member and from alarm level 2 on. -/
def execDomainJoin (s : State) : Out :=
  mail s 0x0D (inUnderway s) (mailLen s.mgmt = 0) fun s =>
    if memberOf s s.eq.pkg || s.eq.level ≥ 2 then endMail s 5 []
    else
      let s1 := modEq s fun e => { e with joining := true, dstate := 1 }
      mailOk (emit s1 (.token 0 (BitVec.ofNat 6 s.eq.pkg) 0#32 (maskOf s.eq.pkg)))

/-- R91. DOMAIN_LEAVE. -/
def execDomainLeave (s : State) : Out :=
  mail s 0x0E (inUnderway s) (mailLen s.mgmt = 0) fun s =>
    if !memberOf s s.eq.pkg then endMail s 5 [] else mailOk (askRekey s 0#64 (maskOf s.eq.pkg))

/-- R91. DOMAIN_EXPEL: refused where the named package is no member. -/
def execDomainExpel (s : State) : Out :=
  let p := mailNat s 0 1
  mail s 0x0F (inUnderway s) (mailLen s.mgmt = 1 && p < 64) fun s =>
    if !memberOf s p || !memberOf s s.eq.pkg then endMail s 5 [] else mailOk (askRekey s 0#64 (maskOf p))

/-- R120. MAILBOX_COMMAND_END: a command that took time ends. An advance ends in Underway, or FAILED in Harbour; a commit ends as the
image verifies. -/
def execMailboxCommandEnd (s : State) : Out :=
  match s.mgmt.mailing with
  | .none | .go _ _ => .next s
  | .advance => if inUnderway s then .next (mailOk s) else if inHarbour s then .next (endMail s 6 []) else .next s
  | .fwCommit =>
    if Config.imageVerifies s.mgmt.staged then
      .next (mailOk (modMgmt s fun m => { m with verified := true, image := m.staged }))
    else .next (endMail s 6 [])

end Sys2Proof.Machine
end

