-- ==== Sys2Proof/Machine/Dispatch.lean ====
section
/-! DEFINITION. Every step of the part, one arm for every constructor of Instr. -/
namespace Sys2Proof.Machine

/-- The meaning of one step. -/
def exec (i : Instr) (s : State) : Host.Outcome State Fault Refusal :=
  match i with
  | .powerOnReset => Sys2Proof.Machine.execPowerOnReset s
  | .fundamentalResetDeassert => Sys2Proof.Machine.execFundamentalResetDeassert s
  | .advanceStageComplete => Sys2Proof.Machine.execAdvanceStageComplete s
  | .supplyRangeChange => Sys2Proof.Machine.execSupplyRangeChange s
  | .supplyTimeout => Sys2Proof.Machine.execSupplyTimeout s
  | .temperatureReport => Sys2Proof.Machine.execTemperatureReport s
  | .alarmDetector => Sys2Proof.Machine.execAlarmDetector s
  | .registerWrite => Sys2Proof.Machine.execRegisterWrite s
  | .drainC => Sys2Proof.Machine.execDrainC s
  | .drainCComplete => Sys2Proof.Machine.execDrainCComplete s
  | .resetC => Sys2Proof.Machine.execResetC s
  | .resetCComplete => Sys2Proof.Machine.execResetCComplete s
  | .returnC => Sys2Proof.Machine.execReturnC s
  | .returnCComplete => Sys2Proof.Machine.execReturnCComplete s
  | .retireM => Sys2Proof.Machine.execRetireM s
  | .retireMComplete => Sys2Proof.Machine.execRetireMComplete s
  | .returnM => Sys2Proof.Machine.execReturnM s
  | .returnMComplete => Sys2Proof.Machine.execReturnMComplete s
  | .resetM => Sys2Proof.Machine.execResetM s
  | .resetMComplete => Sys2Proof.Machine.execResetMComplete s
  | .sgtFire => Sys2Proof.Machine.execSgtFire s
  | .sgtCompareEnable => Sys2Proof.Machine.execSgtCompareEnable s
  | .sgtArm => Sys2Proof.Machine.execSgtArm s
  | .sgtValidClear => Sys2Proof.Machine.execSgtValidClear s
  | .sightingLatch => Sys2Proof.Machine.execSightingLatch s
  | .tlbInvPage => Sys2Proof.Machine.execTlbInvPage s
  | .tlbInvAsid => Sys2Proof.Machine.execTlbInvAsid s
  | .tlbInvAll => Sys2Proof.Machine.execTlbInvAll s
  | .tlbReleaseForwarding => Sys2Proof.Machine.execTlbReleaseForwarding s
  | .tlbInvComplete => Sys2Proof.Machine.execTlbInvComplete s
  | .alarmClr2 => Sys2Proof.Machine.execAlarmClr2 s
  | .lqEnable => Sys2Proof.Machine.execLqEnable s
  | .advance => Sys2Proof.Machine.execAdvance s
  | .returnHarbour => Sys2Proof.Machine.execReturnHarbour s
  | .fwStage => Sys2Proof.Machine.execFwStage s
  | .fwCommit => Sys2Proof.Machine.execFwCommit s
  | .powerCap => Sys2Proof.Machine.execPowerCap s
  | .selftestInterval => Sys2Proof.Machine.execSelftestInterval s
  | .sightRead => Sys2Proof.Machine.execSightRead s
  | .errlogRead => Sys2Proof.Machine.execErrlogRead s
  | .errlogClear => Sys2Proof.Machine.execErrlogClear s
  | .launchCancel => Sys2Proof.Machine.execLaunchCancel s
  | .eqOwnership => Sys2Proof.Machine.execEqOwnership s
  | .admitPolicy => Sys2Proof.Machine.execAdmitPolicy s
  | .domainJoin => Sys2Proof.Machine.execDomainJoin s
  | .domainLeave => Sys2Proof.Machine.execDomainLeave s
  | .domainExpel => Sys2Proof.Machine.execDomainExpel s
  | .mailboxCommandEnd => Sys2Proof.Machine.execMailboxCommandEnd s
  | .configRequest => Sys2Proof.Machine.execConfigRequest s
  | .hostMemAccess => Sys2Proof.Machine.execHostMemAccess s
  | .birsp => Sys2Proof.Machine.execBirsp s
  | .ideKmKeyProg => Sys2Proof.Machine.execIdeKmKeyProg s
  | .hostSpdmRequest => Sys2Proof.Machine.execHostSpdmRequest s
  | .cxlLinkRecover => Sys2Proof.Machine.execCxlLinkRecover s
  | .pidxNotify => Sys2Proof.Machine.execPidxNotify s
  | .pidxReadDone => Sys2Proof.Machine.execPidxReadDone s
  | .launchRecordAccept => Sys2Proof.Machine.execLaunchRecordAccept s
  | .streamGrant => Sys2Proof.Machine.execStreamGrant s
  | .launchComplete => Sys2Proof.Machine.execLaunchComplete s
  | .waypointPickup => Sys2Proof.Machine.execWaypointPickup s
  | .stepGroupPlace => Sys2Proof.Machine.execStepGroupPlace s
  | .priorityAge => Sys2Proof.Machine.execPriorityAge s
  | .priorityPreempt => Sys2Proof.Machine.execPriorityPreempt s
  | .dispatcherSteal => Sys2Proof.Machine.execDispatcherSteal s
  | .preemptHalt => Sys2Proof.Machine.execPreemptHalt s
  | .contextSaveDone => Sys2Proof.Machine.execContextSaveDone s
  | .evacuationComplete => Sys2Proof.Machine.execEvacuationComplete s
  | .overCapacity => Sys2Proof.Machine.execOverCapacity s
  | .selftestRotation => Sys2Proof.Machine.execSelftestRotation s
  | .selftestDone => Sys2Proof.Machine.execSelftestDone s
  | .dispatcherNotify => Sys2Proof.Machine.execDispatcherNotify s
  | .bundleExecute => Sys2Proof.Machine.execBundleExecute s
  | .operationComplete => Sys2Proof.Machine.execOperationComplete s
  | .bundleRetire => Sys2Proof.Machine.execBundleRetire s
  | .forwardDeliver => Sys2Proof.Machine.execForwardDeliver s
  | .timedWaitExpiry => Sys2Proof.Machine.execTimedWaitExpiry s
  | .asyncFault => Sys2Proof.Machine.execAsyncFault s
  | .eccError => Sys2Proof.Machine.execEccError s
  | .chartLineMove => Sys2Proof.Machine.execChartLineMove s
  | .slotPass => Sys2Proof.Machine.execSlotPass s
  | .stageFragment => Sys2Proof.Machine.execStageFragment s
  | .beInject => Sys2Proof.Machine.execBeInject s
  | .beStarved => Sys2Proof.Machine.execBeStarved s
  | .read => Sys2Proof.Machine.execRead s
  | .write => Sys2Proof.Machine.execWrite s
  | .atom => Sys2Proof.Machine.execAtom s
  | .cfa => Sys2Proof.Machine.execCfa s
  | .acc => Sys2Proof.Machine.execAcc s
  | .waitreg => Sys2Proof.Machine.execWaitreg s
  | .recov => Sys2Proof.Machine.execRecov s
  | .data => Sys2Proof.Machine.execData s
  | .ack => Sys2Proof.Machine.execAck s
  | .atomRsp => Sys2Proof.Machine.execAtomRsp s
  | .notify => Sys2Proof.Machine.execNotify s
  | .mcast => Sys2Proof.Machine.execMcast s
  | .migline => Sys2Proof.Machine.execMigline s
  | .refuse => Sys2Proof.Machine.execRefuse s
  | .reservedKindDiscard => Sys2Proof.Machine.execReservedKindDiscard s
  | .joinDecrement => Sys2Proof.Machine.execJoinDecrement s
  | .requestReissueTimeout => Sys2Proof.Machine.execRequestReissueTimeout s
  | .commandComplete => Sys2Proof.Machine.execCommandComplete s
  | .migrationComplete => Sys2Proof.Machine.execMigrationComplete s
  | .barrierToken => Sys2Proof.Machine.execBarrierToken s
  | .handshake => Sys2Proof.Machine.execHandshake s
  | .go => Sys2Proof.Machine.execGo s
  | .abort => Sys2Proof.Machine.execAbort s
  | .tokenResend => Sys2Proof.Machine.execTokenResend s
  | .eqLinkTrainingDone => Sys2Proof.Machine.execEqLinkTrainingDone s
  | .eqFramingLoss => Sys2Proof.Machine.execEqFramingLoss s
  | .eqSlotOpen => Sys2Proof.Machine.execEqSlotOpen s
  | .eqRequestForward => Sys2Proof.Machine.execEqRequestForward s
  | .eqResponseTimeout => Sys2Proof.Machine.execEqResponseTimeout s
  | .spdmMessage => Sys2Proof.Machine.execSpdmMessage s
  | .joinTimeout => Sys2Proof.Machine.execJoinTimeout s
  | .heartbeat => Sys2Proof.Machine.execHeartbeat s
  | .heartbeatMiss => Sys2Proof.Machine.execHeartbeatMiss s
  | .rekey => Sys2Proof.Machine.execRekey s
  | .rekeyDrainTimeout => Sys2Proof.Machine.execRekeyDrainTimeout s
  | .keyed => Sys2Proof.Machine.execKeyed s
  | .keyDerived => Sys2Proof.Machine.execKeyDerived s
  | .resume => Sys2Proof.Machine.execResume s
  | .move d m => Sys2Proof.Machine.execMove d m s
  | .ln ba bb bd body => Sys2Proof.Machine.execLn ba bb bd body s
  | .sAdd u m => Sys2Proof.Machine.execSAdd u m s
  | .sSub u m => Sys2Proof.Machine.execSSub u m s
  | .sMul u m => Sys2Proof.Machine.execSMul u m s
  | .sMulh u m => Sys2Proof.Machine.execSMulh u m s
  | .sMulhu u m => Sys2Proof.Machine.execSMulhu u m s
  | .sDiv u m => Sys2Proof.Machine.execSDiv u m s
  | .sDivu u m => Sys2Proof.Machine.execSDivu u m s
  | .sRem u m => Sys2Proof.Machine.execSRem u m s
  | .sRemu u m => Sys2Proof.Machine.execSRemu u m s
  | .sAnd u m => Sys2Proof.Machine.execSAnd u m s
  | .sOr u m => Sys2Proof.Machine.execSOr u m s
  | .sXor u m => Sys2Proof.Machine.execSXor u m s
  | .sAndn u m => Sys2Proof.Machine.execSAndn u m s
  | .sOrn u m => Sys2Proof.Machine.execSOrn u m s
  | .sShl u m => Sys2Proof.Machine.execSShl u m s
  | .sShr u m => Sys2Proof.Machine.execSShr u m s
  | .sSra u m => Sys2Proof.Machine.execSSra u m s
  | .sRol u m => Sys2Proof.Machine.execSRol u m s
  | .sRor u m => Sys2Proof.Machine.execSRor u m s
  | .sCmpeq u m => Sys2Proof.Machine.execSCmpeq u m s
  | .sCmpne u m => Sys2Proof.Machine.execSCmpne u m s
  | .sCmplt u m => Sys2Proof.Machine.execSCmplt u m s
  | .sCmpltu u m => Sys2Proof.Machine.execSCmpltu u m s
  | .sCmple u m => Sys2Proof.Machine.execSCmple u m s
  | .sCmpleu u m => Sys2Proof.Machine.execSCmpleu u m s
  | .sSel u m => Sys2Proof.Machine.execSSel u m s
  | .sMin u m => Sys2Proof.Machine.execSMin u m s
  | .sMax u m => Sys2Proof.Machine.execSMax u m s
  | .sMinu u m => Sys2Proof.Machine.execSMinu u m s
  | .sMaxu u m => Sys2Proof.Machine.execSMaxu u m s
  | .sAbs u m => Sys2Proof.Machine.execSAbs u m s
  | .sSext u m => Sys2Proof.Machine.execSSext u m s
  | .sZext u m => Sys2Proof.Machine.execSZext u m s
  | .sExt u m => Sys2Proof.Machine.execSExt u m s
  | .sIns u m => Sys2Proof.Machine.execSIns u m s
  | .sPopc u m => Sys2Proof.Machine.execSPopc u m s
  | .sClz u m => Sys2Proof.Machine.execSClz u m s
  | .sCtz u m => Sys2Proof.Machine.execSCtz u m s
  | .sFns u m => Sys2Proof.Machine.execSFns u m s
  | .sBrev u m => Sys2Proof.Machine.execSBrev u m s
  | .sBswap u m => Sys2Proof.Machine.execSBswap u m s
  | .sFadd u m => Sys2Proof.Machine.execSFadd u m s
  | .sFsub u m => Sys2Proof.Machine.execSFsub u m s
  | .sFmul u m => Sys2Proof.Machine.execSFmul u m s
  | .sFma u m => Sys2Proof.Machine.execSFma u m s
  | .sFdiv u m => Sys2Proof.Machine.execSFdiv u m s
  | .sFsqrt u m => Sys2Proof.Machine.execSFsqrt u m s
  | .sFmin u m => Sys2Proof.Machine.execSFmin u m s
  | .sFmax u m => Sys2Proof.Machine.execSFmax u m s
  | .sFcmp u m => Sys2Proof.Machine.execSFcmp u m s
  | .sFcvt u m => Sys2Proof.Machine.execSFcvt u m s
  | .sSptest u m => Sys2Proof.Machine.execSSptest u m s
  | .sSpcast u m => Sys2Proof.Machine.execSSpcast u m s
  | .sRefmk u m => Sys2Proof.Machine.execSRefmk u m s
  | .sAdd32 u m => Sys2Proof.Machine.execSAdd32 u m s
  | .sSub32 u m => Sys2Proof.Machine.execSSub32 u m s
  | .sMul32 u m => Sys2Proof.Machine.execSMul32 u m s
  | .sMulh32 u m => Sys2Proof.Machine.execSMulh32 u m s
  | .sMulhu32 u m => Sys2Proof.Machine.execSMulhu32 u m s
  | .sDiv32 u m => Sys2Proof.Machine.execSDiv32 u m s
  | .sDivu32 u m => Sys2Proof.Machine.execSDivu32 u m s
  | .sRem32 u m => Sys2Proof.Machine.execSRem32 u m s
  | .sRemu32 u m => Sys2Proof.Machine.execSRemu32 u m s
  | .sAnd32 u m => Sys2Proof.Machine.execSAnd32 u m s
  | .sOr32 u m => Sys2Proof.Machine.execSOr32 u m s
  | .sXor32 u m => Sys2Proof.Machine.execSXor32 u m s
  | .sAndn32 u m => Sys2Proof.Machine.execSAndn32 u m s
  | .sOrn32 u m => Sys2Proof.Machine.execSOrn32 u m s
  | .sShl32 u m => Sys2Proof.Machine.execSShl32 u m s
  | .sShr32 u m => Sys2Proof.Machine.execSShr32 u m s
  | .sSra32 u m => Sys2Proof.Machine.execSSra32 u m s
  | .sRol32 u m => Sys2Proof.Machine.execSRol32 u m s
  | .sRor32 u m => Sys2Proof.Machine.execSRor32 u m s
  | .sCmpeq32 u m => Sys2Proof.Machine.execSCmpeq32 u m s
  | .sCmpne32 u m => Sys2Proof.Machine.execSCmpne32 u m s
  | .sCmplt32 u m => Sys2Proof.Machine.execSCmplt32 u m s
  | .sCmpltu32 u m => Sys2Proof.Machine.execSCmpltu32 u m s
  | .sCmple32 u m => Sys2Proof.Machine.execSCmple32 u m s
  | .sCmpleu32 u m => Sys2Proof.Machine.execSCmpleu32 u m s
  | .sSel32 u m => Sys2Proof.Machine.execSSel32 u m s
  | .sMin32 u m => Sys2Proof.Machine.execSMin32 u m s
  | .sMax32 u m => Sys2Proof.Machine.execSMax32 u m s
  | .sMinu32 u m => Sys2Proof.Machine.execSMinu32 u m s
  | .sMaxu32 u m => Sys2Proof.Machine.execSMaxu32 u m s
  | .sAbs32 u m => Sys2Proof.Machine.execSAbs32 u m s
  | .sSext32 u m => Sys2Proof.Machine.execSSext32 u m s
  | .sZext32 u m => Sys2Proof.Machine.execSZext32 u m s
  | .sExt32 u m => Sys2Proof.Machine.execSExt32 u m s
  | .sIns32 u m => Sys2Proof.Machine.execSIns32 u m s
  | .sPopc32 u m => Sys2Proof.Machine.execSPopc32 u m s
  | .sClz32 u m => Sys2Proof.Machine.execSClz32 u m s
  | .sCtz32 u m => Sys2Proof.Machine.execSCtz32 u m s
  | .sFns32 u m => Sys2Proof.Machine.execSFns32 u m s
  | .sBrev32 u m => Sys2Proof.Machine.execSBrev32 u m s
  | .sBswap32 u m => Sys2Proof.Machine.execSBswap32 u m s
  | .vAdd u m => Sys2Proof.Machine.execVAdd u m s
  | .vSub u m => Sys2Proof.Machine.execVSub u m s
  | .vMul u m => Sys2Proof.Machine.execVMul u m s
  | .vFma u m => Sys2Proof.Machine.execVFma u m s
  | .vFms u m => Sys2Proof.Machine.execVFms u m s
  | .vMin u m => Sys2Proof.Machine.execVMin u m s
  | .vMax u m => Sys2Proof.Machine.execVMax u m s
  | .vAbs u m => Sys2Proof.Machine.execVAbs u m s
  | .vNeg u m => Sys2Proof.Machine.execVNeg u m s
  | .vAnd u m => Sys2Proof.Machine.execVAnd u m s
  | .vOr u m => Sys2Proof.Machine.execVOr u m s
  | .vXor u m => Sys2Proof.Machine.execVXor u m s
  | .vAndn u m => Sys2Proof.Machine.execVAndn u m s
  | .vNot u m => Sys2Proof.Machine.execVNot u m s
  | .vShl u m => Sys2Proof.Machine.execVShl u m s
  | .vShr u m => Sys2Proof.Machine.execVShr u m s
  | .vSra u m => Sys2Proof.Machine.execVSra u m s
  | .vCmp u m => Sys2Proof.Machine.execVCmp u m s
  | .vSel u m => Sys2Proof.Machine.execVSel u m s
  | .vMov u m => Sys2Proof.Machine.execVMov u m s
  | .vPopc u m => Sys2Proof.Machine.execVPopc u m s
  | .vClz u m => Sys2Proof.Machine.execVClz u m s
  | .vFns u m => Sys2Proof.Machine.execVFns u m s
  | .vBrev u m => Sys2Proof.Machine.execVBrev u m s
  | .vMskp u m => Sys2Proof.Machine.execVMskp u m s
  | .vCvt u m => Sys2Proof.Machine.execVCvt u m s
  | .vQnt u m => Sys2Proof.Machine.execVQnt u m s
  | .vDeq u m => Sys2Proof.Machine.execVDeq u m s
  | .vFxa u m => Sys2Proof.Machine.execVFxa u m s
  | .vBcast u m => Sys2Proof.Machine.execVBcast u m s
  | .vPerm u m => Sys2Proof.Machine.execVPerm u m s
  | .vRot u m => Sys2Proof.Machine.execVRot u m s
  | .vIota u m => Sys2Proof.Machine.execVIota u m s
  | .vRed u m => Sys2Proof.Machine.execVRed u m s
  | .vScan u m => Sys2Proof.Machine.execVScan u m s
  | .vScanl u m => Sys2Proof.Machine.execVScanl u m s
  | .vScanf u m => Sys2Proof.Machine.execVScanf u m s
  | .xExp m => Sys2Proof.Machine.execXExp m s
  | .xExp2 m => Sys2Proof.Machine.execXExp2 m s
  | .xLog m => Sys2Proof.Machine.execXLog m s
  | .xLog2 m => Sys2Proof.Machine.execXLog2 m s
  | .xRcp m => Sys2Proof.Machine.execXRcp m s
  | .xRsq m => Sys2Proof.Machine.execXRsq m s
  | .xSqrt m => Sys2Proof.Machine.execXSqrt m s
  | .xSig m => Sys2Proof.Machine.execXSig m s
  | .xTanh m => Sys2Proof.Machine.execXTanh m s
  | .xSilu m => Sys2Proof.Machine.execXSilu m s
  | .xGelu m => Sys2Proof.Machine.execXGelu m s
  | .xSin m => Sys2Proof.Machine.execXSin m s
  | .xCos m => Sys2Proof.Machine.execXCos m s
  | .ldV m => Sys2Proof.Machine.execLdV m s
  | .ldS m => Sys2Proof.Machine.execLdS m s
  | .ldB m => Sys2Proof.Machine.execLdB m s
  | .ldI m => Sys2Proof.Machine.execLdI m s
  | .ldFe m => Sys2Proof.Machine.execLdFe m s
  | .stV m => Sys2Proof.Machine.execStV m s
  | .stS m => Sys2Proof.Machine.execStS m s
  | .stI m => Sys2Proof.Machine.execStI m s
  | .stM m => Sys2Proof.Machine.execStM m s
  | .stSete m => Sys2Proof.Machine.execStSete m s
  | .stZero m => Sys2Proof.Machine.execStZero m s
  | .mxTid m => Sys2Proof.Machine.execMxTid m s
  | .mxMode m => Sys2Proof.Machine.execMxMode m s
  | .mxZero m => Sys2Proof.Machine.execMxZero m s
  | .mxSete m => Sys2Proof.Machine.execMxSete m s
  | .mxMma m => Sys2Proof.Machine.execMxMma m s
  | .mxMmat m => Sys2Proof.Machine.execMxMmat m s
  | .mxNrm m => Sys2Proof.Machine.execMxNrm m s
  | .mxRd m => Sys2Proof.Machine.execMxRd m s
  | .mxWr m => Sys2Proof.Machine.execMxWr m s
  | .mxBld m => Sys2Proof.Machine.execMxBld m s
  | .mxSeq m => Sys2Proof.Machine.execMxSeq m s
  | .mxWait m => Sys2Proof.Machine.execMxWait m s
  | .mxSound m => Sys2Proof.Machine.execMxSound m s
  | .cpGet m => Sys2Proof.Machine.execCpGet m s
  | .cpPut m => Sys2Proof.Machine.execCpPut m s
  | .cpGetg m => Sys2Proof.Machine.execCpGetg m s
  | .cpPutg m => Sys2Proof.Machine.execCpPutg m s
  | .cpAcc m => Sys2Proof.Machine.execCpAcc m s
  | .cpGetm m => Sys2Proof.Machine.execCpGetm m s
  | .cpAtom m => Sys2Proof.Machine.execCpAtom m s
  | .cpCfa m => Sys2Proof.Machine.execCpCfa m s
  | .cpWaitc m => Sys2Proof.Machine.execCpWaitc m s
  | .cpDrain m => Sys2Proof.Machine.execCpDrain m s
  | .cpPref m => Sys2Proof.Machine.execCpPref m s
  | .cpStat m => Sys2Proof.Machine.execCpStat m s
  | .cpRecov m => Sys2Proof.Machine.execCpRecov m s
  | .cpMig m => Sys2Proof.Machine.execCpMig m s
  | .saOp m => Sys2Proof.Machine.execSaOp m s
  | .saPush m => Sys2Proof.Machine.execSaPush m s
  | .saFlush m => Sys2Proof.Machine.execSaFlush m s
  | .brJmp m => Sys2Proof.Machine.execBrJmp m s
  | .brJmpi m => Sys2Proof.Machine.execBrJmpi m s
  | .brCall m => Sys2Proof.Machine.execBrCall m s
  | .brCalli m => Sys2Proof.Machine.execBrCalli m s
  | .brRet m => Sys2Proof.Machine.execBrRet m s
  | .brLoop m => Sys2Proof.Machine.execBrLoop m s
  | .brLoopr m => Sys2Proof.Machine.execBrLoopr m s
  | .brLeave m => Sys2Proof.Machine.execBrLeave m s
  | .brSusp m => Sys2Proof.Machine.execBrSusp m s
  | .brYield m => Sys2Proof.Machine.execBrYield m s
  | .brSpawn m => Sys2Proof.Machine.execBrSpawn m s
  | .brJoinw m => Sys2Proof.Machine.execBrJoinw m s
  | .brHalt m => Sys2Proof.Machine.execBrHalt m s
  | .brTrap m => Sys2Proof.Machine.execBrTrap m s
  | .brSys m => Sys2Proof.Machine.execBrSys m s
  | .brRfe m => Sys2Proof.Machine.execBrRfe m s
  | .brWaitt m => Sys2Proof.Machine.execBrWaitt m s
  | .brKchk m => Sys2Proof.Machine.execBrKchk m s
  | .rgHalloc m => Sys2Proof.Machine.execRgHalloc m s
  | .rgHfree m => Sys2Proof.Machine.execRgHfree m s
  | .rgHinfo m => Sys2Proof.Machine.execRgHinfo m s
  | .rgCap m => Sys2Proof.Machine.execRgCap m s
  | .rgWaitf m => Sys2Proof.Machine.execRgWaitf m s
  | .rgPost m => Sys2Proof.Machine.execRgPost m s
  | .rgClr m => Sys2Proof.Machine.execRgClr m s
  | .rgAlm m => Sys2Proof.Machine.execRgAlm m s
  | .rgAlmStrm m => Sys2Proof.Machine.execRgAlmStrm m s
  | .rgStep m => Sys2Proof.Machine.execRgStep m s
  | .rgBar m => Sys2Proof.Machine.execRgBar m s
  | .rgXfence m => Sys2Proof.Machine.execRgXfence m s
  | .rgDrain m => Sys2Proof.Machine.execRgDrain m s
  | .rgColl m => Sys2Proof.Machine.execRgColl m s
  | .rgCollLoad m => Sys2Proof.Machine.execRgCollLoad m s
  | .rgCollResume m => Sys2Proof.Machine.execRgCollResume m s
  | .rgCollDrop m => Sys2Proof.Machine.execRgCollDrop m s
  | .rgCwait m => Sys2Proof.Machine.execRgCwait m s
  | .nearMemoryUnitDown => Sys2Proof.Machine.execNearMemoryUnitDown s
  | .cxlCacheResponse => Sys2Proof.Machine.execCxlCacheResponse s

end Sys2Proof.Machine
end

