-- ==== Sys2Proof/Machine/Schedule.lean ====
section
/-! DEFINITION. What happens next (log 1, log 2): the head of the agenda, or where the agenda is empty a turn of a running core or of
another agent that has work. The choice is the model's own; it only names a step and its argument. -/
namespace Sys2Proof.Machine

/-- A step with its argument. -/
abbrev Turn := Instr × Arg

/-! ## Time (R17, R117) -/

/-- R117. The buffers on whose EMPTY lines unit queues of a core stall: engine, launch, buffer. -/
def stallsOf (e : Nat × Core) : List (Nat × Nat × Nat) :=
  if e.2.mode = .running then e.2.stalls.map fun b => (engineOf e.1, e.2.wp.launch, b) else []
/-- R117. The ticks that stalled launches are charged, once for an engine, a launch and a buffer. -/
def chargeStalls (s : State) (t : Nat) : State :=
  (s.cores.flatMap stallsOf).eraseDups.foldl (fun s x => countHot s x.1 x.2.1 x.2.2 0 t) s
/-- R37, R100. Ring clocks pass with the Chronometer, 2.1 to a tick, up to the next pass of a slot in use. -/
def turnRing (s : State) (t : Nat) : State := { s with ring := quietUntil s (s.ring + t * 21 / 10) }
/-- Chronometer ticks pass. -/
def elapse (s : State) (t : Nat) : State := if t = 0 then s else chargeStalls (turnRing (passTime s t) t) t

/-! ## Turns of the device's agents -/

/-- A turn where a condition holds. -/
def turnIf (b : Bool) (i : Instr) (a : Arg) : List Turn := if b then [(i, a)] else []

/-- R20 to R35, R120, R207: what the management processor has to do. A step whose outcome the outside decides has its good one. -/
def mgmtTurns (s : State) : List Turn :=
  let m := s.mgmt
  turnIf m.resetAsserted .fundamentalResetDeassert {} ++
  turnIf (m.devState = 2) .advanceStageComplete {} ++
  turnIf (m.mailing = .fwCommit || (m.mailing = .advance && m.devState ≠ 2)) .mailboxCommandEnd {} ++
  (match m.job with
    | .none => []
    | .drain _ _ => [(.drainCComplete, {})]
    | .reset _ => [(.resetCComplete, {})]
    | .ret _ => [(.returnCComplete, {})]
    | .retireM _ => [(.retireMComplete, {})]
    | .returnM _ => [(.returnMComplete, {})]
    | .resetM _ => [(.resetMComplete, {})]) ++
  turnIf (m.supplyOut && s.chron > m.supplySince + 1000000) .supplyTimeout {} ++
  turnIf (m.pendingSgt.elim false fun p => !(dueDies s p.1).isEmpty) .sightingLatch {} ++
  turnIf (m.tlbBusy && !(m.tlbWait.any fun x => (findReq s x.1 x.2).isSome)) .tlbInvComplete {}

/-- R42, R105, R108, R114: what the launch unit and the slot allocator have to do. -/
def launchTurns (s : State) : List Turn :=
  turnIf (underway s && s.launches.length < 1024 && (nextQueue s).isSome) .launchRecordAccept {} ++
  turnIf (underway s && ((rootless s).isSome || (nextGrant s).isSome)) .streamGrant {} ++
  ((s.queues.filter fun (x : Nat × Queue) => x.2.reading && !s.cxlReqs.any fun r => r.agent = 72 && r.seq.toNat = x.1).map fun x =>
    (.pidxReadDone, { index := x.1 })) ++
  (s.launches.filter (launchOver s)).map fun l => (.launchComplete, { index := l.id })

/-- R131, R137, R141, R143, R145, R146, R150, R154, R155: what the dispatchers have to do. -/
def dispatchTurns (s : State) : List Turn :=
  let ready := s.waypoints.filter (isEntry s)
  let idle := if ready.isEmpty then [] else (List.range 384).filter fun c => (coreOf s c).mode = .idle && coreOpen s c
  ((idle.filter fun c => (choice s c).isSome).map fun c => (.waypointPickup, { core := c })) ++
  (((ready.map groupOf).eraseDups.filter fun g =>
    (levelWord (launchOf s g.launch) g.level).elim false fun w => w.step).map fun g => (.stepGroupPlace, { group := g })) ++
  ((ready.filter fun w => w.prio > 0 && s.chron ≥ w.agedAt + 100000).map fun w => (.priorityAge, { wp := w.key })) ++
  ((ready.filter fun w => w.prio = 0 && !w.urged && s.chron ≥ w.readyAt + 20000).map fun w => (.priorityPreempt, { wp := w.key })) ++
  ((s.waypoints.filter fun w => mustEvacuate s w && mayEvacuate s (anchorOf w) w.key).map fun w =>
    (.evacuationComplete, { wp := w.key })) ++
  (List.range 8).flatMap fun d =>
    let x := disp s d
    turnIf (dieServes s d && !s.waypoints.isEmpty && (entriesOf s d).isEmpty && s.chron ≥ x.emptySince + 2000 * (x.steals + 1))
      .dispatcherSteal { die := d } ++
    turnIf (x.underTest.isNone && (!x.urgentTest.isEmpty || (underway s && testPeriodNow s d > x.testPeriod)))
      .selftestRotation { die := d } ++
    turnIf (x.underTest.elim false (clusterDrained s d)) .selftestDone { die := d }

/-- R147, R150, R167, R173, R179, R200, R320: what the cores have to do beside their bundles. -/
def coreTurns (s : State) : List Turn :=
  s.cores.flatMap fun e =>
    let c := e.1
    let k := e.2
    turnIf (!k.window.isEmpty && k.mode = .running) .bundleRetire { core := c } ++
    (k.pends.filter fun p => p.cmd.isNone && isEmpty k p.reg).map (fun p => (.operationComplete, { core := c, index := p.reg })) ++
    (k.flight.map fun f => (.operationComplete, { core := c, index := 0x800 + f.1 })) ++
    (k.held.map fun h => (.forwardDeliver, { core := c, index := h.1 })) ++
    turnIf (k.mode = .stopping && (runningOn s c).elim false fun w => w.preempt) .contextSaveDone { core := c } ++
    turnIf (k.mode = .running && (runningOn s c).elim false fun w => w.preempt) .preemptHalt { core := c } ++
    turnIf (isRelaunching k.mode || (k.mode ≠ .idle && k.mode ≠ .answer && banksShort s c ≠ 0 && !evacuationDue s c))
      .overCapacity { core := c } ++
    (k.spadChart.evacs.map fun v => (.chartLineMove, { core := c, level := .spad, index := v.logical })) ++
    (k.opdChart.evacs.map fun v => (.chartLineMove, { core := c, level := .opd, index := v.logical }))

/-- R188, R204, R225, R83: what the engines have to do. -/
def engineTurns (s : State) : List Turn :=
  ((s.cmds.filter fun c => c.fault.isSome).map fun c => (.asyncFault, { index := c.id })) ++
  ((s.cmds.filter fun c => c.begun && c.fault.isNone).map fun c => (.commandComplete, { index := c.id })) ++
  (s.engines.flatMap fun e =>
    (e.2.reqs.filter fun r => s.chron ≥ r.sentAt + Config.requestTimeout && !beyondMeridian s e.1 r).map fun r =>
      (.requestReissueTimeout, { index := e.1, seq := r.seq })) ++
  (s.eq.requests.filter fun q => s.chron ≥ q.sentAt + max s.eq.tmo.toNat 0x2710).map fun q =>
    (.eqResponseTimeout, { index := q.agent, seq := q.seq })

/-- R386. The step that serves a packet of a kind. -/
def packetStep (kind : Nat) : Instr :=
  match kind with
  | 1 => .read
  | 2 => .write
  | 3 => .atom
  | 4 => .cfa
  | 5 => .acc
  | 6 => .waitreg
  | 7 => .recov
  | 8 => .data
  | 9 => .ack
  | 0xA => .atomRsp
  | 0xB => .notify
  | 0xC => .mcast
  | 0xD => .migline
  | 0xE => .refuse
  | _ => .reservedKindDiscard

/-- R60, R82, R101, R128, R129, R386: what homes and stations have to do with packets. -/
def packetTurns (s : State) : List Turn :=
  let mine := s.inbox.filter fun x => !forEquator s x
  ((mine.map fun x => x.2.kind).eraseDups.flatMap fun n =>
    (List.range ((mine.filter fun x => x.2.kind = n).length)).map fun i => (packetStep n, { index := i })) ++
  (if s.inbox.any (forEquator s) then
    (((List.range 512).find? (eqBestEffort s)).map fun (key : Nat) => ((.eqRequestForward, { lane := keyLane key, pos := keyPos key }) : Turn)).toList
    else []) ++
  (turnIf (!s.joinDecs.isEmpty) .joinDecrement {}) ++
  (((List.range s.waiting.length).zip s.waiting).filterMap fun w =>
    (injection s w.2).map fun _ => (.beInject, { index := w.1 })) ++
  (((List.range s.waiting.length).zip s.waiting).flatMap fun w =>
    let d := wayTo w.2.station w.2.dst
    let st := station s w.2.station
    ((if s.ring < w.2.since + 64 then [] else List.range 8).filter fun l =>
      !st.starving.contains (laneNo d l) && !st.marks.contains (laneNo d l)).map fun l => (.beStarved, { index := w.1, lane := l })) ++
  (s.cxlReqs.zip (List.range s.cxlReqs.length)).map (fun x => (.cxlCacheResponse, { index := x.2 })) ++
  (s.homes.flatMap fun h => h.2.snoops.map fun l => (.birsp, { index := l }))

/-- R51. The armed entries of stations that read storage and have nothing staged. -/
def stageTurns (s : State) : List Turn :=
  s.stations.flatMap fun (t : Nat × Station) => if t.2.passThrough then [] else
    (t.2.almanac.filter fun (e : Nat × AlmEntry) => armed e.2 && readsLocal (entryOp e.2) && e.2.staged.isNone).map fun e =>
      (.stageFragment, { station := t.1, dir := keyDir e.1, lane := keyLane e.1, pos := keyPos e.1 })

/-- R50, R406, R407, R412: what the rings have to do. -/
def ringTurns (s : State) : List Turn :=
  stageTurns s ++
  (((busyKeys s).filter (passDue s)).map fun key =>
    (.slotPass, { dir := keyDir key, lane := keyLane key, pos := keyPos key })) ++
  (((s.barriers.filter fun b => b.2.atStep ≠ [] || b.2.atBar ≠ []).flatMap fun b =>
    (if effectiveScope (launchOf s b.1.launch) b.1.level = 0 then [16] else (List.range 16).filter (controlAt s)).map fun k =>
      (.barrierToken, { group := b.1, station := k }))) ++
  (((s.cores.flatMap fun e => e.2.plans.filterMap fun p => if slotBusy (some p.2) then some p.2.plan.group else none).eraseDups).flatMap
    fun g => ((List.range 17).filter (controlAt s)).map fun k => (.handshake, { index := g, station := k })) ++
  ((s.tokens.filter fun t => t.kind = 0x11 || t.kind = 0x12).flatMap fun t =>
    (if t.equator then [16] else (List.range 16).filter (controlAt s)).map fun k =>
      (if t.kind = 0x11 then Instr.go else Instr.abort, { index := t.group, station := k })) ++
  ((s.tokens.zip (List.range s.tokens.length)).filter fun x => x.1.lost).map (fun x => (.tokenResend, { index := x.2 })) ++
  (match s.eq.rekey with
    | none => []
    | some r => turnIf (r.pass = 1 && s.chron ≥ r.since + 100000) .rekeyDrainTimeout {} ++ turnIf (r.pass = 3) .keyDerived {})

/-- Every turn that some agent beside the running cores' bundles could take. -/
def deviceTurns (s : State) : List Turn :=
  mgmtTurns s ++ launchTurns s ++ dispatchTurns s ++ coreTurns s ++ engineTurns s ++ packetTurns s ++ ringTurns s

/-- The cores that could execute a bundle. -/
def runningCores (s : State) : List Nat := (s.cores.filter fun e => e.2.mode = .running).map (·.1)

/-- A list's element by a running number. -/
def pickTurn {α : Type} (l : List α) (n : Nat) : Option α := l[n % l.length]?

/-- The turn where the agenda names none: cores and the other agents in alternation by the Chronometer. -/
def defaultTurn (s : State) : State × Option Turn :=
  let n := s.chron / 2
  let core (c : Nat) : State × Option Turn := ({ s with cur := c }, some (.bundleExecute, { core := c }))
  let device (_ : Unit) : State × Option Turn := (s, pickTurn (deviceTurns s) n)
  if s.chron % 2 = 0 then
    match pickTurn (runningCores s) n with
    | some c => core c
    | none => device ()
  else
    match pickTurn (deviceTurns s) n with
    | some t => (s, some t)
    | none => match pickTurn (runningCores s) n with
      | some c => core c
      | none => (s, none)

/-- The state as the next step finds it, with time passed and the argument in place, and the step; `none` where nothing has work. -/
def nextTurn (s : State) : State × Option Instr :=
  match s.agenda with
  | [] =>
    let (s1, t) := defaultTurn (elapse (settleDispatchers s) 1)
    ({ s1 with arg := (t.map (·.2)).getD {} }, t.map (·.1))
  | a :: rest =>
    let s1 := elapse { settleDispatchers s with agenda := rest } a.ticks
    match a.what with
    | some i => ({ s1 with arg := a.arg }, some i)
    | none =>
      let (s2, t) := defaultTurn s1
      ({ s2 with arg := (t.map (·.2)).getD {} }, t.map (·.1))

end Sys2Proof.Machine
end

