-- ==== Sys2Proof/Machine/Placing.lean ====
section
/-! DEFINITION. One instruction placed where core 0 fetches (log 10): a launch, a waypoint that runs there, the page tables of its
address space, and the instruction's bundle. -/
namespace Sys2Proof.Machine

/-- The device physical addresses used: root table, second table, code. -/
def placedRoot : Nat := 0x10000
def placedTable : Nat := 0x12000
def placedCode : Nat := 0x20000

/-- The root entry, naming the second table (R205). -/
def placedRootEntry : Nat := placedTable / 4096 * 2 ^ 16 + 1
/-- The second table's leaf: 16 GiB from placement address 0 at home M0, readable and writable, with accesses allowed (R205). -/
def placedLeaf : Nat := 2 ^ 60 + 3 * 2 ^ 4 + 0xF

/-- The launch that the placed instruction belongs to. -/
def placedLaunch : Launch :=
  { noLaunch with
    id := 1, dies := 0xFF#8, asid := 1, ptroot := placedRoot, entry := placedCode, vreg := 64, acct := 16, granted := true, nextWp := 2,
    args := [0#64, 0#64, 0#64, 0#64],
    levels := [{ extent := 1, domain := 0, scope := 1, step := false, chunk := false, cidx := 0, rmask := 0#16 }] }

/-- Its root waypoint, running on core 0. -/
def placedWaypoint : Waypoint :=
  { key := ⟨1, 1⟩, resume := placedCode, level := 0, state := .running, prio := 0, hi := 1, lo := 0, anchorDie := 0, anchorCore := 0,
    start := (placedCode, [0#64, 0#64, 0#64, 0#64]) }

/-- R262, R266, R274. The words of the bundle that holds an instruction: the wide form as it is, else a header with one move and three
long immediates of zero. -/
def placedWords (w : Nat) : List Nat :=
  if w.testBit 31 then (List.range 8).map fun j => field w (32 * j) 32
  else [0x8E000000, w % 2 ^ 32, 0, 0, 0, 0, 0, 0]

/-- The state with an instruction placed, and the bundle of core 0 as the next step. -/
def placeInstruction (s : State) (w : Nat) : State :=
  let s1 := putDram s placedRoot (bytesOf placedRootEntry 8)
  let s2 := putDram s1 placedTable (bytesOf placedLeaf 8)
  let s3 := putDram s2 placedCode ((placedWords w).flatMap fun x => bytesOf x 4)
  let k : Core := { coreOf s3 0 with mode := .running, wp := ⟨1, 1⟩, pc := placedCode, rep := 0, seqStep := 0 }
  { setCore s3 0 k with
    mgmt := { s3.mgmt with devState := 3, stage := 7, resetAsserted := false, csvc := 0xFF#8 },
    launches := [placedLaunch], nextLaunch := 2, waypoints := [placedWaypoint], cur := 0,
    agenda := { ticks := 0, what := some .bundleExecute } :: s3.agenda }

end Sys2Proof.Machine
end

