-- ==== Sys2Proof/Machine/Step.lean ====
section
/-! DEFINITION. One step of the package. -/
namespace Sys2Proof.Machine

/-- The step that is next, at the state in which it is next; where nothing has work, time passes. -/
def step (s : State) : Host.Outcome State Fault Refusal :=
  match nextTurn s with
  | (s1, some i) => exec i s1
  | (s1, none) => .next s1

/-- The state with the instruction of bits w placed where core 0 fetches next (log 10). -/
def State.withFetchWord (s : State) (_nbits w : Nat) : State := placeInstruction s w

end Sys2Proof.Machine
end

