-- ==== Sys2Proof/WellFormed.lean ====
section
/-! DEFINITION. Which instructions have words of their own, and which of them the decoder accepts (R266 to R276, R344). -/
namespace Sys2Proof

/-- R267. The source of a move: any immediate, or an assigned selector; of the long immediates the three that a bundle can
hold. -/
def MoveF.wf (m : MoveF) : Bool := m.imm || srcAssigned 3 m.src

/-- R268, R269. A destination of a raw move: a register, a control register, a forwarding port, an operand or TY port. -/
def rawDest (d : BitVec 12) : Bool :=
  match portKind d with
  | .register | .control | .forward | .operand | .ty => true
  | .trigger | .illegal | .undefined => false

/-- Is the instruction one with words, and one that decodes? -/
def Instr.wf (i : Instr) : Bool :=
  match i with
  | .ln _ _ _ b => lnFuncAssigned b
  | .move d m => rawDest d && m.wf
  | i => match i.port? with
    | some (_, m) => m.wf
    | none => false

/-- The instruction that stands for all the forms of one word: RG.ALM's two forms and RG.COLL's four are told apart by
operand o12 when they issue (R404, R410), not by the word. -/
def Instr.wordForm (i : Instr) : Instr :=
  match i with
  | .rgAlmStrm m => .rgAlm m
  | .rgCollLoad m => .rgColl m
  | .rgCollResume m => .rgColl m
  | .rgCollDrop m => .rgColl m
  | i => i

end Sys2Proof
end

