-- ==== Sys2Proof/Safety.lean ====
section
/-! DEFINITION. What counts as a sound state and as a safe step, and the terms in which statements speak of a trigger move, its
operands, its result, and what it leaves alone. -/
namespace Sys2Proof.Machine

/-! ## Steps and runs -/

/-- A step that neither faults nor is refused. -/
def Answers (s : State) : Prop := ∃ t, step s = .next t

/-- Both memories of a state are in their canonical form. -/
def State.MemoryOk (s : State) : Prop := Memory.wf s.mem = true ∧ Memory.wf s.hostMem = true

/-- A state that one step leads to. -/
def Leads (s t : State) : Prop := step s = .next t

/-- The states that steps lead to from a state. -/
inductive Reaches (s : State) : State → Prop where
  | refl : Reaches s s
  | tail (t u : State) : Reaches s t → Leads t u → Reaches s u

/-! ## A trigger move by itself on the current core (R164, log 17) -/

/-- The move is live, its source reads as v and leaves the core as k, and it waits for no region to close. -/
def Feeds (s : State) (d : BitVec 12) (m : MoveF) (v : PVal) (k : Core) : Prop :=
  guardTrue (coreOf s s.cur) m = true ∧ readSource s s.cur [] 0 d m = .ok (v, k) ∧ consumeCheck s s.cur m = .ok ()

/-- The operation that it issues. -/
def issued (s : State) (d : BitVec 12) (m : MoveF) (v : PVal) : OpIn :=
  { c := s.cur, idx := 0, sel := m.src, port := d, addr := (coreOf s s.cur).pc, len := 2, val := v }

/-- The state in which it issues. -/
def fed (s : State) (k : Core) : State := setCore s s.cur k

/-- R180. The forward register that the move consumed, EMPTY. -/
def spent (c : Nat) (m : MoveF) (t : State) : State :=
  match consumes m with
  | some j => modCore t c fun k => markEmpty k (0x90 + j)
  | none => t

/-- The operation of trigger instruction i at port d goes through from s and leaves t. -/
def Passes (i : Instr) (d : BitVec 12) (m : MoveF) (s t : State) : Prop :=
  ∃ v k f u, Feeds s d m v k ∧ issueOf i = some f ∧ f (issued s d m v) (fed s k) = .ok u ∧ t = spent s.cur m u

/-! ## What an operation leaves alone -/

/-- Nothing but core c differs. -/
def OnlyCore (c : Nat) (s t : State) : Prop :=
  t = { s with cores := t.cores } ∧ ∀ c', c' ≠ c → coreOf t c' = coreOf s c'

/-- The registers outside a list of keys hold what they held. -/
def RegsKept (except : List Nat) (k k' : Core) : Prop := ∀ key, key ∉ except → valueAt k' key = valueAt k key

/-- The control registers other than k.flg and the bookkeeping of results: of a program's flow, a handler, a region, the units'
sticky ports, the matrix unit, the storage. -/
def ControlKept (k k' : Core) : Prop :=
  k' = { k with sc := k'.sc, ve := k'.ve, ma := k'.ma, pr := k'.pr, empty := k'.empty, pends := k'.pends, aside := k'.aside,
                flg := k'.flg, window := k'.window }

/-! ## Scalar operations at a width (R291 to R294), in bit vectors -/

/-- An integer operation of S0 and S1: its port, its two widths, how many operand ports it reads, its distance, its result from
the operands and the trigger's value, and whether it divides (R294: IDZ where the divisor's low bits are zero). -/
structure ScalarRow where
  off : BitVec 12
  at64 : SUnit → MoveF → Instr
  at32 : SUnit → MoveF → Instr
  reads : Nat
  dist : Nat
  val : (w : Nat) → (Nat → Word) → Word → BitVec w
  divides : Bool := false

/-- An operation of two numbers: o0 and the trigger. -/
def row2 (off : BitVec 12) (at64 at32 : SUnit → MoveF → Instr) (dist : Nat) (f : (w : Nat) → BitVec w → BitVec w → BitVec w) :
    ScalarRow :=
  ⟨off, at64, at32, 1, dist, fun w a y => f w ((a 0).setWidth w) (y.setWidth w), false⟩

/-- An operation of one number: the trigger. -/
def row1 (off : BitVec 12) (at64 at32 : SUnit → MoveF → Instr) (f : (w : Nat) → BitVec w → BitVec w) : ScalarRow :=
  ⟨off, at64, at32, 0, 1, fun w _ y => f w (y.setWidth w), false⟩

/-- A truth as a number. -/
def oneIf (w : Nat) (b : Bool) : BitVec w := if b then 1 else 0

/-- R291. Arithmetic, logic, shifts, comparisons, selection and absolute value. -/
def arithmeticRows : List ScalarRow := [
  row2 0x10#12 .sAdd .sAdd32 1 fun _ x y => x + y,
  row2 0x11#12 .sSub .sSub32 1 fun _ x y => x - y,
  row2 0x12#12 .sMul .sMul32 3 fun _ x y => x * y,
  row2 0x13#12 .sMulh .sMulh32 3 fun w x y => (x.signExtend (2 * w) * y.signExtend (2 * w)).extractLsb' w w,
  row2 0x14#12 .sMulhu .sMulhu32 3 fun w x y => (x.setWidth (2 * w) * y.setWidth (2 * w)).extractLsb' w w,
  row2 0x19#12 .sAnd .sAnd32 1 fun _ x y => x &&& y,
  row2 0x1A#12 .sOr .sOr32 1 fun _ x y => x ||| y,
  row2 0x1B#12 .sXor .sXor32 1 fun _ x y => x ^^^ y,
  row2 0x1C#12 .sAndn .sAndn32 1 fun _ x y => x &&& ~~~y,
  row2 0x1D#12 .sOrn .sOrn32 1 fun _ x y => x ||| ~~~y,
  row2 0x1E#12 .sShl .sShl32 1 fun w x y => x <<< (y.toNat % w),
  row2 0x1F#12 .sShr .sShr32 1 fun w x y => x >>> (y.toNat % w),
  row2 0x20#12 .sSra .sSra32 1 fun w x y => x.sshiftRight (y.toNat % w),
  row2 0x21#12 .sRol .sRol32 1 fun w x y => x.rotateLeft (y.toNat % w),
  row2 0x22#12 .sRor .sRor32 1 fun w x y => x.rotateRight (y.toNat % w),
  row2 0x23#12 .sCmpeq .sCmpeq32 1 fun w x y => oneIf w (x == y),
  row2 0x24#12 .sCmpne .sCmpne32 1 fun w x y => oneIf w (x != y),
  row2 0x25#12 .sCmplt .sCmplt32 1 fun w x y => oneIf w (x.slt y),
  row2 0x26#12 .sCmpltu .sCmpltu32 1 fun w x y => oneIf w (x.ult y),
  row2 0x27#12 .sCmple .sCmple32 1 fun w x y => oneIf w (x.sle y),
  row2 0x28#12 .sCmpleu .sCmpleu32 1 fun w x y => oneIf w (x.ule y),
  ⟨0x29#12, .sSel, .sSel32, 2, 1, fun w a c => if c.getLsbD 0 then (a 0).setWidth w else (a 1).setWidth w, false⟩,
  row2 0x2A#12 .sMin .sMin32 1 fun _ x y => if x.slt y then x else y,
  row2 0x2B#12 .sMax .sMax32 1 fun _ x y => if x.slt y then y else x,
  row2 0x2C#12 .sMinu .sMinu32 1 fun _ x y => if x.ult y then x else y,
  row2 0x2D#12 .sMaxu .sMaxu32 1 fun _ x y => if x.ult y then y else x,
  row1 0x2E#12 .sAbs .sAbs32 fun _ x => if x.msb then -x else x]

/-- R294. The divisions. -/
def divisionRows : List ScalarRow := [
  { row2 0x15#12 .sDiv .sDiv32 24 (fun _ x y => if y = 0 then -1 else x.sdiv y) with divides := true },
  { row2 0x16#12 .sDivu .sDivu32 24 (fun _ x y => if y = 0 then -1 else x / y) with divides := true },
  { row2 0x17#12 .sRem .sRem32 24 (fun _ x y => if y = 0 then x else x.srem y) with divides := true },
  { row2 0x18#12 .sRemu .sRemu32 24 (fun _ x y => if y = 0 then x else x % y) with divides := true }]

/-- R293. A length or position: at most the width. -/
def upTo (w : Nat) (n : Word) : Nat := min n.toNat w

/-- The bytes of a number in the opposite order. -/
def bytesBack (w : Nat) (x : BitVec w) : BitVec w :=
  (List.range (w / 8)).foldl (fun acc i => (acc <<< 8) ||| ((x >>> (8 * i)) &&& 0xFF#w)) 0

/-- R292, R293. Bit counts and bit fields. -/
def fieldRows : List ScalarRow := [
  ⟨0x2F#12, .sSext, .sSext32, 1, 1, fun w a n => ((a 0).setWidth (upTo w n)).signExtend w, false⟩,
  ⟨0x30#12, .sZext, .sZext32, 1, 1, fun w a n => ((a 0).setWidth (upTo w n)).setWidth w, false⟩,
  ⟨0x31#12, .sExt, .sExt32, 2, 1, fun w a n =>
    (((a 0).setWidth w).extractLsb' (upTo w (a 1)) (upTo w n)).setWidth w, false⟩,
  ⟨0x32#12, .sIns, .sIns32, 3, 1, fun w a n =>
    let pos := upTo w (a 2)
    let mask := (BitVec.ofNat w (2 ^ (min (pos + upTo w n) w - pos) - 1)) <<< pos
    (((a 0).setWidth w) &&& ~~~mask) ||| ((((a 1).setWidth w) <<< pos) &&& mask), false⟩,
  row1 0x33#12 .sPopc .sPopc32 fun w x => BitVec.ofNat w ((List.range w).countP fun i => x.getLsbD i),
  row1 0x34#12 .sClz .sClz32 fun _ x => x.clz,
  row1 0x35#12 .sCtz .sCtz32 fun _ x => x.reverse.clz,
  ⟨0x36#12, .sFns, .sFns32, 1, 1, fun w a n =>
    BitVec.ofNat w (((List.range w).filter fun i => ((a 0).setWidth w).getLsbD i).getD n.toNat w), false⟩,
  row1 0x37#12 .sBrev .sBrev32 fun _ x => x.reverse,
  row1 0x38#12 .sBswap .sBswap32 fun w x => bytesBack w x]

/-- The core after the flag that a row sets: IDZ where a division's divisor, at width w, is zero. -/
def rowFlags (r : ScalarRow) (w : Nat) (y : Word) (k : Core) : Core :=
  if r.divides && y.setWidth w == 0#w then { k with flg := k.flg ||| flIDZ } else k

/-- What a row leaves at width 64 or 32: the result on its way to b.s0 or b.s1, sign-extended from 32 bits, with its distance. -/
def rowResult (r : ScalarRow) (s : State) (o : OpIn) (a : Nat → Word) (y : Word) (wide : Bool) : State :=
  let w := if wide then 64 else 32
  scalarResult (modCore s o.c (rowFlags r w y)) o ((r.val w a y).signExtend 64) r.dist

/-- R291 to R294. A row runs as it says, at both widths, on either unit, from every source form that reads as a scalar. -/
def ScalarRow.Runs (r : ScalarRow) : Prop :=
  ∀ (u : SUnit) (m : MoveF) (s : State) (v : PVal) (k : Core) (a : Nat → Word) (y : Word) (wide : Bool),
    let d := sPort u (if wide then r.off else r.off + 0x40#12)
    Feeds s d m v k → (∀ n, n < r.reads → scOp (fed s k) (issued s d m v) n = .ok (a n)) → scVal (issued s d m v) = .ok y →
    exec (if wide then r.at64 u m else r.at32 u m) s = .next (spent s.cur m (rowResult r (fed s k) (issued s d m v) a y wide))

/-- R295 to R297. A floating operation of S0 and S1: its port, the operand ports it reads as codes, its distance, and its result from
the type, those codes and the trigger's. -/
structure FloatRow where
  off : BitVec 12
  at_ : SUnit → MoveF → Instr
  reads : Nat
  dist : Nat
  val : (t : Nat) → (a : Nat → Nat) → (y : Nat) → Nat × Flags

/-- R296. The floating operations but FCMP and FCVT. -/
def floatRows : List FloatRow := [
  ⟨0x39#12, .sFadd, 1, 4, fun t a y => fAdd t false (a 0) y⟩,
  ⟨0x3A#12, .sFsub, 1, 4, fun t a y => fAdd t true (a 0) y⟩,
  ⟨0x3B#12, .sFmul, 1, 4, fun t a y => fMul t (a 0) y⟩,
  ⟨0x3C#12, .sFma, 2, 4, fun t a y => fFma t false (a 0) (a 1) y⟩,
  ⟨0x3D#12, .sFdiv, 1, 16, fun t a y => fDiv t (a 0) y⟩,
  ⟨0x3E#12, .sFsqrt, 0, 16, fun t _ y => fSqrt t y⟩,
  ⟨0x3F#12, .sFmin, 1, 4, fun t a y => minMaxCode t false (a 0) y⟩,
  ⟨0x40#12, .sFmax, 1, 4, fun t a y => minMaxCode t true (a 0) y⟩]

/-- A scalar result of an operation with flags set at once: zero-extended code, its distance. -/
def floated (s : State) (o : OpIn) (r : Nat × Flags) (dist : Nat) : State :=
  scalarResult (modCore s o.c fun k => { k with flg := k.flg ||| r.2 }) o (BitVec.ofNat 64 r.1) dist

/-- The trap of an operation, taken at its bundle from the state before it (R175, R188 to R190). -/
def traps (i : Instr) (s : State) (code : BitVec 16) (info : Word) : Prop :=
  exec i s = .next (takeTrap s s.cur { code := code, info := info })

/-! ## Vector results (R158, R322, R327, R331) -/

/-- Lane i of a register whose lanes are w bits wide. -/
def laneAt (w : Nat) (v : Vec) (i : Nat) : BitVec w := v.extractLsb' (w * i) w

/-- The register that DV + n of the operation's unit names lies below VREG. -/
def DvInRange (s : State) (o : OpIn) (n : Nat) : Prop :=
  (Map.get (coreOf s o.c).dv ((dvKey o.page).getD 0) 0#6).toNat + n < (coreLaunch s o.c).vreg

/-- The key of that register. -/
def dvReg (s : State) (o : OpIn) (n : Nat) : Nat :=
  regKey (coreLaunch s o.c).vreg (coreOf s o.c)
    (0x40 + ((Map.get (coreOf s o.c).dv ((dvKey o.page).getD 0) 0#6).toNat + n))

/-- A vector result on its way to DV + n. -/
def landed (s : State) (o : OpIn) (n : Nat) (v : Vec) (dist : Nat) (fixed : Bool) : State :=
  modCore s o.c fun k => issueResult k (dvReg s o n) (.ve v) dist fixed o.page

/-- Flags noted with the execution (R326). -/
def flagged (s : State) (o : OpIn) (f : Flags) : State := modCore s o.c fun k => noteFlags k f

/-- An operation on every lane: its port, the types it takes, whether o2 holds .sat, how many operand ports it reads (o0 on), its
distance by type, and its result and flags from the lanes. -/
structure LaneRow where
  off : BitVec 12
  at_ : VUnit → MoveF → Instr
  types : Nat → Bool
  sat : Bool
  reads : Nat
  dist : Nat → Nat
  val : (t : Nat) → (sat : Bool) → (a : Nat → Nat) → (y : Nat) → Nat × Flags

/-- An exact integer result of a type: clamped with OF where .sat, else modulo 2^w. -/
def fitted (t : Nat) (sat : Bool) (x : Int) : Nat × Flags :=
  let lo : Int := if isSigned t then -(2 ^ (typeBits t - 1)) else 0
  let hi : Int := if isSigned t then 2 ^ (typeBits t - 1) - 1 else 2 ^ typeBits t - 1
  if sat && decide (x < lo) then ((BitVec.ofInt (typeBits t) lo).toNat, flOF)
  else if sat && decide (hi < x) then ((BitVec.ofInt (typeBits t) hi).toNat, flOF)
  else ((BitVec.ofInt (typeBits t) x).toNat, flNone)

/-- A lane as its type's integer. -/
def laneInt (t x : Nat) : Int :=
  if isSigned t then (BitVec.ofNat (typeBits t) x).toInt else ((BitVec.ofNat (typeBits t) x).toNat : Int)

/-- An arithmetic operation of two lanes: of integers, exactly; of floating codes, by its function. -/
def rowArith (off : BitVec 12) (at_ : VUnit → MoveF → Instr) (sat : Bool) (i : Int → Int → Int) (f : (t x y : Nat) → Nat × Flags) :
    LaneRow :=
  ⟨off, at_, inIntFlt, sat, 1, arithDist, fun t sat a y =>
    if inFlt t then f t (a 0) y else fitted t sat (i (laneInt t (a 0)) (laneInt t y))⟩

/-- A bit operation of two lanes. -/
def rowBits (off : BitVec 12) (at_ : VUnit → MoveF → Instr) (types : Nat → Bool) (f : (w : Nat) → BitVec w → BitVec w → BitVec w) :
    LaneRow :=
  ⟨off, at_, types, false, 1, fun _ => 2, fun t _ a y =>
    ((f (typeBits t) (BitVec.ofNat _ (a 0)) (BitVec.ofNat _ y)).toNat, flNone)⟩

/-- A bit operation of one lane. -/
def rowBit (off : BitVec 12) (at_ : VUnit → MoveF → Instr) (types : Nat → Bool) (f : (w : Nat) → BitVec w → BitVec w) : LaneRow :=
  ⟨off, at_, types, false, 0, fun _ => 2, fun t _ _ y => ((f (typeBits t) (BitVec.ofNat _ y)).toNat, flNone)⟩

/-- R327, R329, R331. The operations on every lane. -/
def laneRows : List LaneRow := [
  rowArith 0x10#12 .vAdd true (fun x y => x + y) fun t x y => fAdd t false x y,
  rowArith 0x11#12 .vSub true (fun x y => x - y) fun t x y => fAdd t true x y,
  rowArith 0x12#12 .vMul true (fun x y => x * y) fMul,
  ⟨0x13#12, .vFma, inIntFlt, false, 2, arithDist, fun t _ a z =>
    if inFlt t then fFma t false (a 0) (a 1) z
    else fitted t false (laneInt t (a 0) * laneInt t (a 1) + laneInt t z)⟩,
  ⟨0x14#12, .vFms, inIntFlt, false, 2, arithDist, fun t _ a z =>
    if inFlt t then fFma t true (a 0) (a 1) z
    else fitted t false (laneInt t (a 0) * laneInt t (a 1) - laneInt t z)⟩,
  rowArith 0x15#12 .vMin false min fun t x y => minMaxCode t false x y,
  rowArith 0x16#12 .vMax false max fun t x y => minMaxCode t true x y,
  ⟨0x17#12, .vAbs, inIntFlt, true, 0, fun _ => 2, fun t sat _ y =>
    if inFlt t then (y % 2 ^ (typeBits t - 1), flNone) else fitted t sat (laneInt t y).natAbs⟩,
  ⟨0x18#12, .vNeg, inIntFlt, true, 0, fun _ => 2, fun t sat _ y =>
    if inFlt t then ((BitVec.ofNat (typeBits t) y ^^^ BitVec.twoPow (typeBits t) (typeBits t - 1)).toNat, flNone)
    else fitted t sat (-laneInt t y)⟩,
  rowBits 0x19#12 .vAnd inBit fun _ x y => x &&& y,
  rowBits 0x1A#12 .vOr inBit fun _ x y => x ||| y,
  rowBits 0x1B#12 .vXor inBit fun _ x y => x ^^^ y,
  rowBits 0x1C#12 .vAndn inBit fun _ x y => x &&& ~~~y,
  rowBit 0x1D#12 .vNot inBit fun _ x => ~~~x,
  rowBits 0x1E#12 .vShl inInt fun w x y => x <<< (y.toNat % w),
  rowBits 0x1F#12 .vShr inInt fun w x y => x >>> (y.toNat % w),
  rowBits 0x20#12 .vSra inInt fun w x y => x.sshiftRight (y.toNat % w),
  rowBit 0x23#12 .vMov inBit fun _ x => x,
  rowBit 0x24#12 .vPopc inWideInt fun w x => BitVec.ofNat w ((List.range w).countP fun i => x.getLsbD i),
  rowBit 0x25#12 .vClz inWideInt fun _ x => x.clz,
  rowBits 0x26#12 .vFns inWideInt fun w x n => BitVec.ofNat w (((List.range w).filter fun i => x.getLsbD i).getD n.toNat w),
  rowBit 0x27#12 .vBrev inWideInt fun _ x => x.reverse]

/-- Lane i of every operand port of a row, as numbers. -/
def rowLanes (t : Nat) (x : Nat → Vec) (i : Nat) (n : Nat) : Nat := (laneAt (typeBits t) (x n) i).toNat

/-- R326. The flags of all the lanes of a row. -/
def rowLaneFlags (r : LaneRow) (t : Nat) (sat : Bool) (x : Nat → Vec) (y : Vec) : Flags :=
  flAll ((List.range (4096 / typeBits t)).map fun i => (r.val t sat (rowLanes t x i) (laneAt (typeBits t) y i).toNat).2)

/-- R325. A group of results, register n of the list into DV + n. -/
def landedFrom (o : OpIn) (dist : Nat) (fixed : Bool) : State → (n : Nat) → List Vec → State
  | s, _, [] => s
  | s, n, v :: vs => landedFrom o dist fixed (landed s o n v dist fixed) (n + 1) vs

/-- R325. Element i of a group of registers whose type is w bits wide, in blocked order. -/
def blockedAt (w : Nat) (zs : List Vec) (i : Nat) : BitVec w := laneAt w (zs.getD (i / (4096 / w)) 0#4096) (i % (4096 / w))

/-! ## Bytes of handles (R196, R202, R203) -/

/-- Byte j of a handle of a core. -/
def byteOf (k : Core) (hd : Handle) (j : Nat) : Byte := readByte (storage k hd.level) (handleByte k hd j)

/-- A place that a store reaches at once: no region is open, and no fence holds the path. -/
def OpenHandle (s : State) (c hc h : Nat) (hd : Handle) : Prop :=
  handleOf s hc h = some hd ∧ (coreOf s c).region = none ∧ (fenceIds s c (if hc = c then 0 else 1)).isEmpty = true

/-- R196. The bytes of a handle lie in places of their own: what a sound Chart and handle table give. -/
def Sound (k : Core) (hd : Handle) : Prop :=
  ∀ i j, i < hd.size → j < hd.size → handleByte k hd i = handleByte k hd j → i = j

/-- R202. The state of a line after a store of n bytes at off: FULL where the store covers it all; of a line covered in part, POISON stays
POISON and any other is FULL; a line not touched keeps its state. -/
def lineStored (st : LineState) (off n line : Nat) : LineState :=
  if off ≤ 128 * line ∧ 128 * line + 128 ≤ off + n then .full
  else if off < 128 * line + 128 ∧ 128 * line < off + n then (if st = .poison then .poison else .full)
  else st

/-- Core c differs from what it was only in the bytes and line states of its storage. -/
def OnlyStorage (c : Nat) (s t : State) : Prop :=
  OnlyCore c s t ∧ coreOf t c = { coreOf s c with
    spad := (coreOf t c).spad, opd := (coreOf t c).opd, spadLines := (coreOf t c).spadLines, opdLines := (coreOf t c).opdLines }

/-! ## Moves and branches (R159 to R164, R304) -/

/-- What a raw move leaves of its core beside the registers, ports and control registers it may write: the marks of a wait that is over
are gone. -/
def MoveKept (k k' : Core) : Prop :=
  k' = { k with sc := k'.sc, ve := k'.ve, ma := k'.ma, pr := k'.pr, empty := k'.empty, pends := k'.pends,
                aside := k'.aside, sent := [], held := [], waitUntil := none, stalls := [] }

/-- A raw move done: the register it consumed is EMPTY and the marks of a wait are gone. -/
def moved (c : Nat) (m : MoveF) (t : State) : State :=
  spent c m (modCore t c fun k => { k with sent := [], held := [], waitUntil := none, stalls := [] })

/-- A move's write of a register: at its physical key it stands, FULL, unless the key is hard-wired; every other register holds what it
held. -/
def Writes (s t : State) (key : Nat) (v : PVal) : Prop :=
  OnlyCore s.cur s t ∧ MoveKept (coreOf s s.cur) (coreOf t s.cur) ∧ RegsKept [key] (coreOf s s.cur) (coreOf t s.cur) ∧
  (hardWired key = true → valueAt (coreOf t s.cur) key = valueAt (coreOf s s.cur) key) ∧
  (hardWired key = false → valueAt (coreOf t s.cur) key = v ∧ isEmpty (coreOf t s.cur) key = false)

/-- R304. A bundle may start at the target: aligned, within 52 bits, and its word is a header. -/
def StartsAt (s : State) (c : Nat) (t : Word) : Prop :=
  t.extractLsb' 0 2 = 0#2 ∧ t.extractLsb' 52 12 = 0#12 ∧ ∃ w, fetchWord s c t.toNat = .ok w ∧ w.getLsbD 31 = true

/-- The core at another address. -/
def redirected (s : State) (c : Nat) (t : Word) : State := modCore s c fun k => { k with pc := t.toNat }

/-- R311. Nothing that a suspension operation waits for: no region is open, no command and no tile operation of the waypoint is in
progress. -/
def Quiet (s : State) (c : Nat) : Prop :=
  gating (coreOf s c) = false ∧ (∀ x ∈ s.cmds, x.wp ≠ (coreOf s c).wp) ∧ (coreOf s c).flight = []

/-! ## Waits and the matrix unit (R147, R365) -/

/-- The bundle waits: nothing changes but the core's mark of a wait. -/
def waits (i : Instr) (s : State) : Prop := exec i s = .next (modCore s s.cur fun k => { k with stalls := [] })

/-- The core of its state with what the step of a trigger move left of it. -/
def left (s : State) (m : MoveF) (k k' : Core) : State := spent s.cur m (modCore (fed s k) s.cur fun _ => k')

/-- A core but for its tiles and their numbering. -/
def MatrixKept (k k' : Core) : Prop := k' = { k with tiles := k'.tiles, mxNo := k'.mxNo, flight := k'.flight }

/-- R365. Instruction i goes through as one tile-writing operation on the tiles of a list: tile n is then as f says, every other tile as it
was; it takes the next number, is in flight in the tiles it writes, and notes its flags; nothing else changes. -/
def TileWrite (i : Instr) (m : MoveF) (s : State) (k : Core) (ns : List Nat) (f : Nat → Tile → Prop) (fl : Flags) : Prop :=
  ∃ k1 : Core, exec i s = .next (left s m k (noteFlags k1 fl)) ∧ MatrixKept k k1 ∧
    k1.mxNo = (k.mxNo + 1) % 2 ^ 32 ∧ k1.flight = k.flight ++ ns.map (fun n => (n, k.mxNo)) ∧
    (∀ n ∈ ns, f n (tileOf k1 n)) ∧ ∀ n, n ∉ ns → tileOf k1 n = tileOf k n

/-- Row i of a tile as it was. -/
def SameRow (t t' : Tile) (i : Nat) : Prop :=
  (∀ j, j < 32 → t'.word i j = t.word i j) ∧ t'.exp i = t.exp i ∧ t'.guard i = t.guard i

/-- R255. The F32 value of a word of a W row, with its flags. -/
def rowValue (t : Tile) (i j : Nat) : Nat × Flags := roundFmt (exactScaled (t.word i j).toInt (t.exp i)) 0

/-- R255. A normalised row: as it was where a value is infinite; zero, with guard 1, where every value is; else its words at the exponent of
the greatest value less 23, clamped to 16 bits, with guard 1. -/
def NormRow (t t' : Tile) (i : Nat) : Prop :=
  let nonzero := ((List.range 32).filter fun j => magOf 0 (rowValue t i j).1 ≠ 0).map fun j => (valueOf 0 (rowValue t i j).1).exponent
  if (List.range 32).any (fun j => isInfCode 0 (rowValue t i j).1) = true then SameRow t t' i
  else t'.guard i = 1 ∧
    if nonzero = [] then t'.exp i = t.exp i ∧ ∀ j, j < 32 → t'.word i j = 0#64
    else ∃ e : Int, e = max (-32768) (min 32767 (nonzero.foldl max (nonzero.headD 0) - 23)) ∧ t'.exp i = e ∧
      ∀ j, j < 32 → ∀ n x xe, valueOf 0 (rowValue t i j).1 = .fin n x xe false →
        t'.word i j = BitVec.ofInt 64 (floorTo n x xe e)

/-- R252, R253. Product l of element (i, j), l-th of row i of A and of column j of B; zero beyond the extents. -/
def productAt (a b : List (List Exact)) (i j l : Nat) : Exact :=
  match (a.getD i [])[l]?, (b.getD l [])[j]? with
  | some x, some y => (exactMul x y).1
  | _, _ => zeroProduct

/-- R253. A product at a row's exponent. -/
def aligned (e : Int) (p : Exact) : Option Int :=
  match p with
  | .fin n x pe _ => if (floorTo n x pe e).natAbs < 2 ^ 44 then some (floorTo n x pe e) else none
  | _ => none

/-! ## Commands (R182, R183, R204, R369) -/

/-- The command that instruction i gives its unit: the next number, the core's waypoint, the counter of its control word, and what P
says. -/
def Command (s : State) (k : Core) (ctl : Word) (P : Cmd → Prop) (x : Cmd) : Prop :=
  x.id = s.nextCmd ∧ x.core = s.cur ∧ x.wp = k.wp ∧ x.counter = ctl.toNat % 16 ∧ P x

/-- R204, R369. Instruction i goes through with a command in progress; no register but b.cp changes; Q says more of the state after it. A
gather or scatter with a GLOBAL index list has asked for the list's first line under the number after its own (R82, R373). -/
def Issues (i : Instr) (m : MoveF) (s : State) (k : Core) (ctl : Word) (P : Cmd → Prop) (Q : State → Prop) : Prop :=
  ∃ u x, exec i s = .next (spent s.cur m u) ∧ x ∈ u.cmds ∧ Command s k ctl P x ∧
    (u.nextCmd = s.nextCmd + 1 ∨ (x.kind = .getg ∨ x.kind = .putg) ∧ u.nextCmd = s.nextCmd + 2) ∧
    RegsKept [resultKey 9] k (coreOf u s.cur) ∧ Q u

/-- R183, R184. A command that is gated: in a region, it joins the gate under the region's tag and no command is in progress yet, or takes
GATE_OVERFLOW where the gate is full; outside one it is in progress at once. -/
def GatedIssue (i : Instr) (m : MoveF) (s : State) (k : Core) (ctl : Word) (P : Cmd → Prop) : Prop :=
  (gating k = false → Issues i m s k ctl P fun _ => True) ∧
  ∀ r, k.region = some r → gating k = true → ∃ x, Command s k ctl P x ∧ x.tag = r.tag ∧
    (gateLines s (gateAdd r.gate (.copy x)) ≤ 64 → ∃ u, exec i s = .next (spent s.cur m u) ∧ u.cmds = s.cmds ∧ OnlyCore s.cur
      { s with nextCmd := s.nextCmd + 1 } u ∧ coreOf u s.cur = { k with region := some { r with gate := gateAdd r.gate (.copy x) } }) ∧
    (64 < gateLines s (gateAdd r.gate (.copy x)) → traps i s 0x0015#16 0#64)

/-- R371. The lines of n bytes at each of the offsets of a handle are EMPTY. -/
def LinesEmpty (s : State) (c h : Nat) (offs : List Nat) (n : Nat) : Prop :=
  ∀ hd, handleOf s c h = some hd → ∀ o ∈ offs, ∀ l ∈ linesOf o n, lineState (coreOf s c) hd l = .empty

/-- R370. The offsets of a copy's rows in its destination. -/
def rowPlaces (off : Nat) (shape : Word) : List Nat :=
  (List.range (shape.toNat % 2 ^ 16 + 1)).map fun r => off + r * (shape.toNat / 2 ^ 40)

/-! ## Events -/

/-- An instruction answers a next state, of which P holds. -/
def Gives (i : Instr) (s : State) (P : State → Prop) : Prop := ∃ t, exec i s = .next t ∧ P t

/-- R23, R119. The device stands in Harbour with a reason: no compute die is in service, every core is idle, no launch, waypoint or
command is left. -/
def InHarbour (reason : Nat) (t : State) : Prop :=
  t.mgmt.devState = 1 ∧ t.mgmt.reason = reason ∧ t.mgmt.csvc = 0#8 ∧ t.launches = [] ∧ t.waypoints = [] ∧ t.cmds = [] ∧
    ∀ c, (coreOf t c).mode = .idle

/-- R23, R119. The device leaves for Harbour: it stands there where no launch is live; otherwise every core has halted, every live launch
is to end ABORTED, and Harbour is reached with the last completion record. -/
def Returns (s : State) (reason : Nat) (t : State) : Prop :=
  (s.launches = [] → InHarbour reason t) ∧
  (s.launches ≠ [] → t.mgmt.leaving = some reason ∧ t.mgmt.devState = s.mgmt.devState ∧ t.mgmt.reason = s.mgmt.reason ∧
    (∀ c, (coreOf t c).mode = .idle) ∧ t.launches.map (·.id) = s.launches.map (·.id) ∧ ∀ l ∈ t.launches, l.ending = .aborted)

/-- R148. Device memory is as it was but for the bytes of the context frame that the record of a waypoint names. -/
def FrameOnly (s t : State) (key : WpKey) : Prop :=
  ∀ w, findWp t key = some w → (w.frameAt = none → t.mem = s.mem) ∧
    ∀ a, w.frameAt = some a → ∀ x, (x < a ∨ a + Config.frameSize ≤ x) → readByte t.mem x = readByte s.mem x

/-- The bit of a die. -/
def dieBit (n : Nat) : BitVec 8 := 1#8 <<< n

/-! ## Packets at a home (R386) -/

/-- Home d serves a request of a kind: the packet p, with the address at which it performs. -/
def Serves (s : State) (kind d : Nat) (p : Packet) : Prop :=
  ∃ s1 q, takeKind s kind = some (2 * d + 1, q, s1) ∧ dpaExists q.paddr = true ∧ forwardTo s q.paddr = some p.paddr ∧
    dpaDie p.paddr = d ∧ p.paddr / 128 ∉ (home s d).held ∧ p = { q with paddr := p.paddr }

/-- Home d has answered p, last of what it sent, with a packet of which P holds. -/
def Answered (t : State) (d : Nat) (p : Packet) (P : Packet → Prop) : Prop :=
  ∃ r, P r ∧ r.agent = p.agent ∧ r.seq = p.seq ∧
    if answerStation p = 2 * d + 1 then t.inbox.getLast? = some (2 * d + 1, r)
    else ∃ w, t.waiting.getLast? = some w ∧ w.station = 2 * d + 1 ∧ w.dst = answerStation p ∧ w.pkt = r

/-- Device memory holds the bytes of a list from a on, and outside them what it held. -/
def StoredAt (s t : State) (a : Nat) (bs : List Byte) : Prop :=
  ∀ x, readByte t.mem x = if a ≤ x ∧ x < a + bs.length then bs.getD (x - a) 0#8 else readByte s.mem x

/-- The 64-bit number at an address of device memory. -/
def wordAt (s : State) (a : Nat) : Word := BitVec.ofNat 64 (dramNat s a 8)

/-- R375. What an atomic leaves where it found m. -/
def atomResult (w op : Nat) (m v c : BitVec w) : BitVec w :=
  match op with
  | 0 => m + v
  | 1 => m &&& v
  | 2 => m ||| v
  | 3 => m ^^^ v
  | 4 => if v.slt m then v else m
  | 5 => if m.slt v then v else m
  | 6 => if v.ult m then v else m
  | 7 => if m.ult v then v else m
  | 8 => v
  | 9 => if m = c then v else m
  | _ => m

end Sys2Proof.Machine
end

