-- ==== Sys2Proof/Certificates/Slice0/Obligations.lean ====
section
/-! DEFINITION. The statements: each docstring says what it formalises. Statements about a move or a trigger by itself
(`exec i`, `Feeds`) take the model's own step of a single move (log 17); which agent's step comes next is the agenda's (log 1). -/

open Sys2Proof Sys2Proof.Machine

/-! ## S0 and S1 -/

/-- R289 to R293. Every arithmetic, logic, shift, compare, select and absolute-value operation, every bit count and reversal, and every
field operation, in its 64-bit and 32-bit form, on either unit: from readable scalar operands it answers the next state, which holds the
row's result, sign-extended from 32 bits, on its way to the unit's result register, and sets no flag; lengths and positions above the
width count as the width. -/
def Obligations.ScalarArithmetic : Prop := ∀ r ∈ arithmeticRows ++ fieldRows, r.Runs

/-- R294. DIV, DIVU, REM and REMU at both widths: the quotient toward zero, the remainder with the dividend's sign, the two corners, and
IDZ set exactly where the divisor is zero; no division traps. -/
def Obligations.ScalarDivision : Prop := ∀ r ∈ divisionRows, r.Runs

/-- R295, R296. The floating operations but FCMP and FCVT: in a format of R295, from readable operands, the row's code zero-extended, its
flags set at once; any other type code takes ILLEGAL_TYPE with the trigger port and the code. -/
def Obligations.ScalarFloat : Prop :=
  ∀ r ∈ floatRows, ∀ (u : SUnit) (m : MoveF) (s : State) (v : PVal) (k : Core) (a : Nat → Word) (y : Word),
    let d := sPort u r.off
    let o := issued s d m v
    let t := typeReg k (o.page - 1)
    let n := typeBits t
    Feeds s d m v k → (∀ n, n < r.reads → scOp (fed s k) o n = .ok (a n)) → scVal o = .ok y →
    ((t = 0 ∨ t = 1 ∨ t = 2 ∨ t = 6) →
      exec (r.at_ u m) s =
        .next (spent s.cur m (floated (fed s k) o (r.val t (fun j => (a j).toNat % 2 ^ n) (y.toNat % 2 ^ n)) r.dist))) ∧
    (¬(t = 0 ∨ t = 1 ∨ t = 2 ∨ t = 6) → traps (r.at_ u m) s 0x0006#16 (BitVec.ofNat 64 (d.toNat * 256 + t)))

/-- R297. FCMP: the condition in o2 [2:0] on the ordering of the two values, 1 or 0; NV for a signalling NaN under every condition, for a
quiet one under .lt, .le, .gt and .ge. R298. FCVT: source format in the type register, target in o1 [3:0], 64-bit integer sides by o1 [4]
and [5]; a signed result is sign-extended, any other zero-extended; a code that R298 does not list takes ILLEGAL_TYPE. -/
def Obligations.ScalarCompareConvert : Prop :=
  (∀ (u : SUnit) (m : MoveF) (s : State) (v : PVal) (k : Core) (x c y : Word),
     let d := sPort u 0x41#12
     let o := issued s d m v
     let t := typeReg k (o.page - 1)
     let a := x.toNat % 2 ^ typeBits t
     let b := y.toNat % 2 ^ typeBits t
     let cond := c.toNat % 8
     let quiet := isNaN t a || isNaN t b
     let signalling := isSNaN t a || isSNaN t b
     let order := exactCmp (valueOf t a) (valueOf t b)
     let truth := if quiet then cond == 1 || cond == 6 else
       match cond with
       | 0 => order == .eq
       | 1 => order != .eq
       | 2 => order == .lt
       | 3 => order != .gt
       | 4 => order == .gt
       | 5 => order != .lt
       | 6 => false
       | _ => true
     Feeds s d m v k → (t = 0 ∨ t = 1 ∨ t = 2 ∨ t = 6) → scOp (fed s k) o 0 = .ok x → scOp (fed s k) o 2 = .ok c → scVal o = .ok y →
     exec (.sFcmp u m) s =
       .next (spent s.cur m (floated (fed s k) o
         (truth.toNat, if signalling || (quiet && 2 ≤ cond && cond ≤ 5) then flNV else flNone) 4))) ∧
  (∀ (u : SUnit) (m : MoveF) (s : State) (v : PVal) (k : Core) (f x : Word),
     let d := sPort u 0x42#12
     let o := issued s d m v
     let src := typeReg k (o.page - 1)
     let dst := f.toNat % 16
     let listed (t : Nat) : Prop := t ≤ 6 ∨ t = 8 ∨ t = 9
     let side (t : Nat) (b : Bool) : Nat := if b ∧ (t = 8 ∨ t = 9) then 0x10 + t else t
     let a := side src (f.getLsbD 5)
     let b := side dst (f.getLsbD 4)
     let r := convertCode a b (x.toNat % 2 ^ typeBits a)
     Feeds s d m v k → scOp (fed s k) o 1 = .ok f → scVal o = .ok x →
     (listed src → listed dst → exec (.sFcvt u m) s = .next (spent s.cur m (scalarResult
       (modCore (fed s k) o.c fun k => { k with flg := k.flg ||| r.2 }) o
       (if b = 8 ∨ b = 0x18 then (BitVec.ofNat (typeBits b) r.1).signExtend 64 else BitVec.ofNat 64 r.1) 4))) ∧
     (¬listed src → traps (.sFcvt u m) s 0x0006#16 (BitVec.ofNat 64 (d.toNat * 256 + src))) ∧
     (listed src → ¬listed dst → traps (.sFcvt u m) s 0x0006#16 (BitVec.ofNat 64 (d.toNat * 256 + dst))))

/-- R299. SPTEST: the tag of a well-formed reference, else 0xF. R300. SPCAST of a well-formed reference: the same space, LOCAL to CLUSTER
on the core that the reference names, CLUSTER to LOCAL there, and the null reference else; FOREIGN_HANDLE for LOCAL to CLUSTER of another
core, REF_INVALID for a reference that is not well formed. R193, R301. REFMK: the fields laid out by space, each in its range; REF_INVALID
with o2 in k.trapi [63:60] for a field out of its range or a space above 4. -/
def Obligations.ScalarReferences : Prop :=
  (∀ (u : SUnit) (m : MoveF) (s : State) (v : PVal) (k : Core) (r : Word),
     let d := sPort u 0x43#12
     let o := issued s d m v
     let tag := r.extractLsb' 60 4
     let formed := tag = 0#4 ∨ (tag = 1#4 ∨ tag = 2#4 ∨ tag = 4#4) ∧ r.extractLsb' 24 22 = 0#22 ∨ tag = 3#4 ∧ r.extractLsb' 40 16 = 0#16
     Feeds s d m v k → scVal o = .ok r →
     (formed → exec (.sSptest u m) s = .next (spent s.cur m (scalarResult (fed s k) o (tag.zeroExtend 64) 1))) ∧
     (¬formed → exec (.sSptest u m) s = .next (spent s.cur m (scalarResult (fed s k) o 0xF#64 1)))) ∧
  (∀ (u : SUnit) (m : MoveF) (s : State) (v : PVal) (k : Core) (r t : Word),
     let d := sPort u 0x44#12
     let o := issued s d m v
     let from_ := r.extractLsb' 60 4
     let to_ := t.extractLsb' 0 4
     let own := (r.extractLsb' 54 6).toNat = s.cur % 48
     let gives (w : Word) : Prop := exec (.sSpcast u m) s = .next (spent s.cur m (scalarResult (fed s k) o w 1))
     Feeds s d m v k → scOp (fed s k) o 0 = .ok r → scVal o = .ok t →
     (¬wellFormedRef r → traps (.sSpcast u m) s 0x0010#16 r) ∧
     (wellFormedRef r → from_ = to_ → gives r) ∧
     (wellFormedRef r → from_ = 1#4 → to_ = 2#4 → own → gives (2#4 ++ r.extractLsb' 0 60)) ∧
     (wellFormedRef r → from_ = 1#4 → to_ = 2#4 → ¬own → traps (.sSpcast u m) s 0x0011#16 r) ∧
     (wellFormedRef r → from_ = 2#4 → to_ = 1#4 → own → gives (1#4 ++ r.extractLsb' 0 60)) ∧
     (wellFormedRef r → from_ = 2#4 → to_ = 1#4 → ¬own → gives 0xF000000000000000#64) ∧
     (wellFormedRef r → from_ ≠ to_ → ¬(from_ = 1#4 ∧ to_ = 2#4) → ¬(from_ = 2#4 ∧ to_ = 1#4) → gives 0xF000000000000000#64)) ∧
  (∀ (u : SUnit) (m : MoveF) (s : State) (v : PVal) (k : Core) (c i sp off : Word),
     let d := sPort u 0x45#12
     let o := issued s d m v
     let gives (w : Word) : Prop := exec (.sRefmk u m) s = .next (spent s.cur m (scalarResult (fed s k) o w 1))
     let global := sp = 0#64 ∧ i.toNat < 256 ∧ off.toNat < 2 ^ 52
     let held := (sp = 1#64 ∨ sp = 2#64 ∨ sp = 4#64) ∧ c.toNat < 48 ∧ i.toNat < 256 ∧ off.toNat < 2 ^ 24
     let step := sp = 3#64 ∧ i.toNat < 16 ∧ off.toNat < 2 ^ 40
     Feeds s d m v k → scOp (fed s k) o 0 = .ok c → scOp (fed s k) o 1 = .ok i → scOp (fed s k) o 2 = .ok sp → scVal o = .ok off →
     (global → gives (0#4 ++ i.extractLsb' 0 8 ++ off.extractLsb' 0 52)) ∧
     (held → gives (sp.extractLsb' 0 4 ++ c.extractLsb' 0 6 ++ i.extractLsb' 0 8 ++ 0#22 ++ off.extractLsb' 0 24)) ∧
     (step → gives (3#4 ++ i.extractLsb' 0 4 ++ 0#16 ++ off.extractLsb' 0 40)) ∧
     (¬global → ¬held → ¬step → traps (.sRefmk u m) s 0x0010#16 (sp <<< 60)))

/-! ## V0, V1 and X -/

/-- R322 to R327, R329, R331. The lane-by-lane operations: in a type of their set, from readable operands, with DV below VREG, every lane
of the result is the row's, the flags of all lanes are noted, and the result is on its way to DV; a type outside the set takes
ILLEGAL_TYPE. -/
def Obligations.VectorLanes : Prop :=
  ∀ r ∈ laneRows, ∀ (u : VUnit) (m : MoveF) (s : State) (v : PVal) (k : Core) (x : Nat → Vec) (c : Word) (y : Vec),
    let d := vPort u r.off
    let o := issued s d m v
    let t := typeReg k (o.page - 1)
    let sat := r.sat && c.getLsbD 0
    Feeds s d m v k → (∀ n, n < r.reads → veOp (fed s k) o n = .ok (x n)) → (r.sat = true → scOp (fed s k) o 2 = .ok c) →
    veVal o = .ok y →
    (r.types t = true → DvInRange (fed s k) o 0 → ∃ z : Vec,
      exec (r.at_ u m) s =
        .next (spent s.cur m (flagged (landed (fed s k) o 0 z (r.dist t) true) o (rowLaneFlags r t sat x y))) ∧
      ∀ i, i < 4096 / typeBits t →
        (laneAt (typeBits t) z i).toNat = (r.val t sat (rowLanes t x i) (laneAt (typeBits t) y i).toNat).1) ∧
    (r.types t = false → traps (r.at_ u m) s 0x0006#16 (BitVec.ofNat 64 (d.toNat * 256 + t)))

/-- R328. CMP: bit i of mask DM is the comparison of lanes i under o2 [2:0], signed for I types, unsigned for U types; the bits above the
lanes are zero. R330. MSKP: bit operations of two masks, a mask of all lanes, the count of the set lanes and the lowest of them. A mask
result has its bits from the lane count up zero; a count goes to b.v0 or b.v1. -/
def Obligations.VectorMasks : Prop :=
  (∀ (u : VUnit) (m : MoveF) (s : State) (v : PVal) (k : Core) (x y : Vec) (c : Word),
     let d := vPort u 0x21#12
     let o := issued s d m v
     let t := typeReg k (o.page - 1)
     let w := typeBits t
     Feeds s d m v k → veOp (fed s k) o 0 = .ok x → scOp (fed s k) o 2 = .ok c → veVal o = .ok y → inIntFlt t = true →
     ∃ (z : LaneMask) (f : Flags),
       exec (.vCmp u m) s = .next (spent s.cur m (flagged (maskResult (fed s k) o z (arithDist t)) o f)) ∧
       (∀ i, 4096 / w ≤ i → z.getLsbD i = false) ∧
       (inInt t = true → f = 0#6 ∧ ∀ i, i < 4096 / w →
         let a := laneInt t (laneAt w x i).toNat
         let b := laneInt t (laneAt w y i).toNat
         z.getLsbD i = match c.toNat % 8 with
           | 0 => decide (a = b)
           | 1 => decide (a ≠ b)
           | 2 => decide (a < b)
           | 3 => decide (a ≤ b)
           | 4 => decide (b < a)
           | 5 => decide (b ≤ a)
           | 6 => false
           | _ => true) ∧
       (inFlt t = true → ∀ i, i < 4096 / w →
         z.getLsbD i = (fCompare t (c.toNat % 8) (laneAt w x i).toNat (laneAt w y i).toNat).1)) ∧
  (∀ (u : VUnit) (m : MoveF) (s : State) (v : PVal) (k : Core) (x y : LaneMask) (c : Word),
     let d := vPort u 0x28#12
     let o := issued s d m v
     let t := typeReg k (o.page - 1)
     let n := 4096 / typeBits t
     let low (z : LaneMask) : LaneMask := z &&& ((BitVec.allOnes 1024) >>> (1024 - n))
     let mask (z : LaneMask) : Prop := exec (.vMskp u m) s = .next (spent s.cur m (maskResult (fed s k) o (low z) 2))
     let number (z : Nat) : Prop :=
       exec (.vMskp u m) s = .next (spent s.cur m (scalarResult (fed s k) o (BitVec.ofNat 64 z) 2))
     let set := (List.range n).filter fun i => y.getLsbD i
     Feeds s d m v k → inBit t = true → scOp (fed s k) o 2 = .ok c → maOp (fed s k) o 0 = .ok x → maVal o = .ok y →
     match c.toNat % 8 with
     | 0 => mask (x &&& y)
     | 1 => mask (x ||| y)
     | 2 => mask (x ^^^ y)
     | 3 => mask (x &&& ~~~y)
     | 4 => mask (~~~y)
     | 5 => number set.length
     | 6 => number (set.headD n)
     | _ => mask (BitVec.allOnes 1024))

/-- R329, R332. SEL, BCAST, PERM, ROT and IOTA: where each lane of the result comes from. -/
def Obligations.VectorMoves : Prop :=
  ∀ (u : VUnit) (m : MoveF) (s : State) (v : PVal) (k : Core),
    let lands (i : Instr) (d : BitVec 12) (dist : Nat) (lane : (w n : Nat) → Nat → BitVec w) : Prop :=
      let o := issued s d m v
      let w := typeBits (typeReg k (o.page - 1))
      ∃ z : Vec, exec i s = .next (spent s.cur m (flagged (landed (fed s k) o 0 z dist true) o 0#6)) ∧
        ∀ j, j < 4096 / w → laneAt w z j = lane w (4096 / w) j
    let ready (d : BitVec 12) (types : Nat → Bool) : Prop :=
      Feeds s d m v k ∧ DvInRange (fed s k) (issued s d m v) 0 ∧ types (typeReg k ((issued s d m v).page - 1)) = true
    (∀ (x y : Vec) (c : LaneMask), ready (vPort u 0x22#12) inBit → veOp (fed s k) (issued s (vPort u 0x22#12) m v) 0 = .ok x →
      veOp (fed s k) (issued s (vPort u 0x22#12) m v) 1 = .ok y → maVal (issued s (vPort u 0x22#12) m v) = .ok c →
      lands (.vSel u m) (vPort u 0x22#12) 2 fun w _ j => if c.getLsbD j then laneAt w x j else laneAt w y j) ∧
    (∀ (c x : Word), ready (vPort u 0x2D#12) inBit → scOp (fed s k) (issued s (vPort u 0x2D#12) m v) 2 = .ok c →
      scVal (issued s (vPort u 0x2D#12) m v) = .ok x → c.getLsbD 0 = false →
      lands (.vBcast u m) (vPort u 0x2D#12) 3 fun w _ _ => x.setWidth w) ∧
    (∀ (c x : Word) (y : Vec), ready (vPort u 0x2D#12) inBit → scOp (fed s k) (issued s (vPort u 0x2D#12) m v) 2 = .ok c →
      scVal (issued s (vPort u 0x2D#12) m v) = .ok x → c.getLsbD 0 = true →
      veOp (fed s k) (issued s (vPort u 0x2D#12) m v) 0 = .ok y →
      lands (.vBcast u m) (vPort u 0x2D#12) 3 fun w n _ => laneAt w y (x.toNat % n)) ∧
    (∀ (x y : Vec), ready (vPort u 0x2E#12) inBit → veOp (fed s k) (issued s (vPort u 0x2E#12) m v) 0 = .ok x →
      veVal (issued s (vPort u 0x2E#12) m v) = .ok y →
      lands (.vPerm u m) (vPort u 0x2E#12) 3 fun w n j => laneAt w x ((laneAt w y j).toNat % n)) ∧
    (∀ (x : Vec) (n : Word), ready (vPort u 0x2F#12) inBit → veOp (fed s k) (issued s (vPort u 0x2F#12) m v) 0 = .ok x →
      scVal (issued s (vPort u 0x2F#12) m v) = .ok n →
      lands (.vRot u m) (vPort u 0x2F#12) 3 fun w l j => laneAt w x ((j + n.toNat) % l)) ∧
    (∀ (n : Word), ready (vPort u 0x30#12) inInt → scVal (issued s (vPort u 0x30#12) m v) = .ok n →
      lands (.vIota u m) (vPort u 0x30#12) 3 fun w _ j => BitVec.ofNat w (n.toNat + j))

/-- R333. CVT. To a type no wider, the converted lanes fill part q of DV and its other lanes are kept; to a wider type, the lanes from
`first` on fill one, two or four registers in blocked order. R334, R335. QNT packs the codes of each group of lanes into part q of DV and
their scale codes into b.v, byte j for group j; DEQ scales the lanes from `first` on and fills two or four registers in blocked order.
R336. FXA: .set writes each lane's contribution as an FXW word; .add and .sub add it to or take it from the word that the group at DV
holds, modulo 2^64; .out reads two registers of words and writes their F32 codes to DV. -/
def Obligations.VectorConversions : Prop :=
  (∀ (u : VUnit) (m : MoveF) (s : State) (v : PVal) (k : Core) (x : Vec) (c : Word),
     let d := vPort u 0x29#12
     let o := issued s d m v
     let src := typeReg k (o.page - 1)
     let dst := c.toNat % 16
     let q := c.toNat / 16 % 16
     let ws := typeBits src
     let wt := typeBits dst
     let ns := 4096 / ws
     Feeds s d m v k → scOp (fed s k) o 2 = .ok c → veVal o = .ok x → src ≠ 6 → dst ≠ 6 →
     (wt = ws → DvInRange (fed s k) o 0 → ∃ (z : Vec) (f : Flags),
       exec (.vCvt u m) s = .next (spent s.cur m (flagged (landed (fed s k) o 0 z 4 true) o f)) ∧
       ∀ i, i < ns → (laneAt wt z i).toNat = (convertCode src dst (laneAt ws x i).toNat).1) ∧
     (∀ (old : Vec) (s1 : State), wt < ws → readDv (fed s k) o 0 = .ok (old, s1) → ∃ (z : Vec) (f : Flags),
       exec (.vCvt u m) s = .next (spent s.cur m (flagged (landed s1 o 0 z 4 true) o f)) ∧
       ∀ j, j < 4096 / wt →
         laneAt wt z j =
           let at_ := q % (ws / wt) * ns
           if at_ ≤ j ∧ j < at_ + ns then BitVec.ofNat wt (convertCode src dst (laneAt ws x (j - at_)).toNat).1 else laneAt wt old j) ∧
     (ws < wt → DvInRange (fed s k) o (min (wt / ws) 4 - 1) → ∃ (zs : List Vec) (f : Flags),
       let g := min (wt / ws) 4
       let first := q % (wt / ws / g) * g * (4096 / wt)
       zs.length = g ∧
       exec (.vCvt u m) s = .next (spent s.cur m (flagged (landedFrom o 4 true (fed s k) 0 zs) o f)) ∧
       ∀ i, i < g * (4096 / wt) → (blockedAt wt zs i).toNat = (convertCode src dst (laneAt ws x (first + i)).toNat).1)) ∧
  (∀ (u : VUnit) (m : MoveF) (s : State) (v : PVal) (k : Core) (x : Vec) (c b : Word),
     let src := typeReg k (match u with | .v0 => 2 | .v1 => 3)
     let ws := typeBits src
     let ns := 4096 / ws
     let wt := typeBits (c.toNat % 16)
     let q := c.toNat / 16 % 16
     let gs := if c.toNat / 256 % 4 = 1 then 64 else if c.toNat / 256 % 4 = 2 then 128 else 32
     let base := (b.setWidth 8).toInt
     (∀ (old : Vec) (s1 : State),
       let o := issued s (vPort u 0x2A#12) m v
       let group (j : Nat) : List Exact := (List.range gs).map fun i => valueOf src (laneAt ws x (j * gs + i)).toNat
       let scales : Word := BitVec.ofNat 64
         ((List.range (ns / gs)).foldr (fun j acc => (quantiseGroup (group j) (c.toNat % 16) base).1 % 256 + 256 * acc) 0)
       Feeds s (vPort u 0x2A#12) m v k → veOp (fed s k) o 0 = .ok x → scOp (fed s k) o 2 = .ok c → scVal o = .ok b →
       inFlt src = true → quantType (c.toNat % 16) = true → readDv (scalarResult (fed s k) o scales 4) o 0 = .ok (old, s1) →
       ∃ (z : Vec) (f : Flags),
         exec (.vQnt u m) s = .next (spent s.cur m (flagged (landed s1 o 0 z 4 true) o f)) ∧
         ∀ j, j < 4096 / wt →
           laneAt wt z j =
             let at_ := q % (ws / wt) * ns
             if at_ ≤ j ∧ j < at_ + ns then
               BitVec.ofNat wt ((quantiseGroup (group ((j - at_) / gs)) (c.toNat % 16) base).2.1.getD ((j - at_) % gs) 0)
             else laneAt wt old j) ∧
     (∀ sc : Vec,
       let o := issued s (vPort u 0x2B#12) m v
       let g := min (wt / ws) 4
       let first := q % (wt / ws / g) * g * (4096 / wt)
       Feeds s (vPort u 0x2B#12) m v k → veOp (fed s k) o 0 = .ok x → veOp (fed s k) o 1 = .ok sc → scOp (fed s k) o 2 = .ok c →
       scVal o = .ok b → quantType src = true → inFlt (c.toNat % 16) = true → DvInRange (fed s k) o (g - 1) →
       ∃ (zs : List Vec) (f : Flags), zs.length = g ∧
         exec (.vDeq u m) s = .next (spent s.cur m (flagged (landedFrom o 4 true (fed s k) 0 zs) o f)) ∧
         ∀ i, i < g * (4096 / wt) →
           (blockedAt wt zs i).toNat =
             (roundFmt (scaled (elemValue src (laneAt ws x (first + i)).toNat)
               (scaleValue (laneAt 8 sc ((first + i) / gs)).toNat base)) (c.toNat % 16)).1)) ∧
  (∀ (u : VUnit) (m : MoveF) (s : State) (v : PVal) (k : Core) (x : Vec) (c e : Word),
     let d := vPort u 0x2C#12
     let o := issued s d m v
     let t := typeReg k (o.page - 1)
     let g := 4096 / typeBits t / 64
     let ex := (e.setWidth 16).toInt
     let term (i : Nat) : Int := (fxwFrom t (laneAt (typeBits t) x i).toNat ex).1
     Feeds s d m v k → veOp (fed s k) o 0 = .ok x → scOp (fed s k) o 2 = .ok c → scVal o = .ok e →
     (c.toNat % 4 = 1 → inFlt t = true → DvInRange (fed s k) o (g - 1) → ∃ (zs : List Vec) (f : Flags), zs.length = g ∧
       exec (.vFxa u m) s = .next (spent s.cur m (flagged (landedFrom o 4 true (fed s k) 0 zs) o f)) ∧
       ∀ i, i < g * 64 → blockedAt 64 zs i = BitVec.ofInt 64 (term i)) ∧
     (∀ (olds : List Vec) (s1 : State), (c.toNat % 4 = 0 ∨ c.toNat % 4 = 2) → inFlt t = true → DvInRange (fed s k) o (g - 1) →
       readGroup o g (fed s k) 0 = .ok (olds, s1) → ∃ (zs : List Vec) (f : Flags), zs.length = g ∧
       exec (.vFxa u m) s = .next (spent s.cur m (flagged (landedFrom o 4 true s1 0 zs) o f)) ∧
       ∀ i, i < g * 64 → blockedAt 64 zs i = (fun a b => if c.toNat % 4 = 0 then a + b else a - b) (blockedAt 64 olds i)
         (BitVec.ofInt 64 (term i))) ∧
     (∀ (a b : Vec) (s1 : State), c.toNat % 4 = 3 → DvInRange (fed s k) o 1 → readGroup o 2 (fed s k) 0 = .ok ([a, b], s1) →
       ∃ (z : Vec) (f : Flags),
         exec (.vFxa u m) s = .next (spent s.cur m (flagged (landed s1 o 0 z 4 true) o f)) ∧
         ∀ i, i < 128 → (laneAt 32 z i).toNat = (f32FromFxw (blockedAt 64 [a, b] i).toInt ex).1))

/-- R337, R338. RED of an integer type gives the sum, the least, the greatest or the sum of the absolute values of all lanes, exactly,
modulo 2^64; SCAN gives each lane the same of the lanes up to it, modulo 2^w. The tree order does not show in exact results. R337.
TreeReduce over 2^d values: the left half's result combined with the right half's, the lower-numbered side first; of one value, the value.
R338 to R340. The floating reductions and scans complete: RED with its code in b.v, SCAN with its lanes in DV, SCANL and SCANF with the
hidden states in a group of F32 registers at DV and the last in b.v; SCANF takes its carry from a forward register that it consumes, or
+0.0 under .first, and has passed the last on to the successor unless .last. -/
def Obligations.VectorReductions : Prop :=
  (∀ (u : VUnit) (m : MoveF) (s : State) (v : PVal) (k : Core) (x : Vec) (c : Word),
     let t := typeReg k (match u with | .v0 => 2 | .v1 => 3)
     let w := typeBits t
     let leaf (i : Nat) : Int := if c.toNat % 4 = 3 then ((laneInt t (laneAt w x i).toNat).natAbs : Int) else laneInt t (laneAt w x i).toNat
     let both (p q : Int) : Int := match c.toNat % 4 with
       | 1 => min p q
       | 2 => max p q
       | _ => p + q
     let upTo (i : Nat) : Int := (List.range i).foldl (fun acc j => both acc (leaf (j + 1))) (leaf 0)
     (let o := issued s (vPort u 0x31#12) m v;
       Feeds s (vPort u 0x31#12) m v k → scOp (fed s k) o 2 = .ok c → veVal o = .ok x → inInt t = true →
       exec (.vRed u m) s = .next (spent s.cur m (scalarResult (fed s k) o (BitVec.ofInt 64 (upTo (4096 / w - 1))) 8))) ∧
     (let o := issued s (vPort u 0x32#12) m v;
       Feeds s (vPort u 0x32#12) m v k → scOp (fed s k) o 2 = .ok c → veVal o = .ok x → inWideInt t = true →
       DvInRange (fed s k) o 0 → ∃ z : Vec,
         exec (.vScan u m) s = .next (spent s.cur m (flagged (landed (fed s k) o 0 z 8 true) o 0#6)) ∧
         ∀ i, i < 4096 / w → laneAt w z i = BitVec.ofInt w (upTo i))) ∧
  (∀ (f : Nat × Flags → Nat × Flags → Nat × Flags) (d : Nat × Flags),
     (∀ x, treeReduce f d [x] = x) ∧
     ∀ (n : Nat) (l r : List (Nat × Flags)), l.length = 2 ^ n → r.length = 2 ^ n →
       treeReduce f d (l ++ r) = f (treeReduce f d l) (treeReduce f d r) ∧
       treeScan f (l ++ r) = treeScan f l ++ (treeScan f r).map (f (treeReduce f d l))) ∧
  (∀ (u : VUnit) (m : MoveF) (s : State) (v : PVal) (k : Core) (a b : Vec) (c : Word),
     let t := typeReg k (match u with | .v0 => 2 | .v1 => 3)
     let w := typeBits t
     let codes (x : Vec) : List Nat := (List.range (4096 / w)).map fun i => (laneAt w x i).toNat
     let leaf (x : Nat) : Nat := if c.toNat % 4 = 3 then x % 2 ^ (w - 1) else x
     (let o := issued s (vPort u 0x31#12) m v;
       Feeds s (vPort u 0x31#12) m v k → scOp (fed s k) o 2 = .ok c → veVal o = .ok a → inFlt t = true →
       let r := treeReduce (floatRed (c.toNat % 4)) (0, flNone) ((codes a).map fun x => convertCode t 0 (leaf x))
       exec (.vRed u m) s =
         .next (spent s.cur m (flagged (scalarResult (fed s k) o (BitVec.ofNat 64 r.1) 8) o r.2))) ∧
     (let o := issued s (vPort u 0x32#12) m v;
       Feeds s (vPort u 0x32#12) m v k → scOp (fed s k) o 2 = .ok c → veVal o = .ok a → t = 0 → DvInRange (fed s k) o 0 →
       let r := treeScan (floatRed (c.toNat % 4)) ((codes a).map fun x => (leaf x, flNone))
       ∃ z : Vec,
         exec (.vScan u m) s = .next (spent s.cur m (flagged (landed (fed s k) o 0 z 8 true) o (flAll (r.map (·.2))))) ∧
         ∀ i, i < 128 → (laneAt 32 z i).toNat = (r.getD i (0, flNone)).1 % 2 ^ 32) ∧
     (∀ h : Word, let o := issued s (vPort u 0x33#12) m v;
       Feeds s (vPort u 0x33#12) m v k → veOp (fed s k) o 0 = .ok a → veOp (fed s k) o 1 = .ok b → scVal o = .ok h → t ≤ 4 →
       DvInRange (fed s k) o (32 / w - 1) →
       let r := scanLinear t (codes a) (codes b) (h.toNat % 2 ^ 32)
       ∃ zs : List Vec, zs.length = 32 / w ∧
         exec (.vScanl u m) s = .next (spent s.cur m (flagged
           (landedFrom o 8 true (scalarResult (fed s k) o (BitVec.ofNat 64 (r.1.getLastD 0)) 8) 0 zs) o r.2)) ∧
         ∀ i, i < 4096 / w → (blockedAt 32 zs i).toNat = r.1.getD i 0 % 2 ^ 32) ∧
     (∀ (h : Nat) (s1 : State), let o := issued s (vPort u 0x34#12) m v;
       Feeds s (vPort u 0x34#12) m v k → veOp (fed s k) o 0 = .ok a → scOp (fed s k) o 2 = .ok c → veVal o = .ok b → t ≤ 4 →
       DvInRange (fed s k) o (32 / w - 1) → scanfCarry (fed s k) o c = .ok (h, s1) →
       let r := scanLinear t (codes a) (codes b) h
       (c.getLsbD 5 = true ∨
         forwardWrite s1 s.cur (32 + o.idx) (c.toNat / 4 % 4) (BitVec.ofNat 4096 (r.1.getLastD 0)) (moveInfo o.idx o.port) = .ok ()) →
       ∃ zs : List Vec, zs.length = 32 / w ∧
         exec (.vScanf u m) s = .next (spent s.cur m (flagged
           (landedFrom o 0 false (variableResult s1 o (BitVec.ofNat 64 (r.1.getLastD 0))) 0 zs) o r.2)) ∧
         ∀ i, i < 4096 / w → (blockedAt 32 zs i).toNat = r.1.getD i 0 % 2 ^ 32))

/-- R341. Every X function (xExp, xExp2, xLog, xLog2, xRcp, xRsq, xSqrt, xSig, xTanh, xSilu, xGelu, xSin, xCos) completes on a type of 0
to 2: each lane's result in DV, lane 0 zero-extended in b.x, the flags noted; any other type takes ILLEGAL_TYPE. The value of a lane that
R342 does not fix is the implementation's (free value). Where the spec leaves a choice the clauses are the model's own (log 14). -/
def Obligations.SpecialFunctions : Prop :=
  ∀ (op : Nat) (f : MoveF → Instr), xTable[op]? = some f →
    ∀ (m : MoveF) (s : State) (v : PVal) (k : Core) (ty : Word) (x : Vec),
      let d := BitVec.ofNat 12 (0x510 + op)
      let o := issued s d m v
      let t := ty.toNat
      let w := typeBits t
      Feeds s d m v k → scOp (fed s k) o 1 = .ok ty → veVal o = .ok x →
      (t ≤ 2 → DvInRange (fed s k) o 0 → ∃ z : Vec,
        exec (f m) s = .next (spent s.cur m (flagged
          (scalarResult (landed (fed s k) o 0 z 12 true) o (BitVec.ofNat 64 (xLane op t (laneAt w x 0).toNat).1) 12) o
          (flAll ((List.range (4096 / w)).map fun i => (xLane op t (laneAt w x i).toNat).2)))) ∧
        ∀ i, i < 4096 / w → (laneAt w z i).toNat = (xLane op t (laneAt w x i).toNat).1 % 2 ^ w) ∧
      (2 < t → traps (f m) s 0x0006#16 (BitVec.ofNat 64 (d.toNat * 256 + t % 16)))

/-- R342. The special values: a NaN, an infinity, a zero and, for LOG, LOG2, RSQ and SQRT, a negative finite number, for every type. -/
def Obligations.SpecialValues : Prop :=
  ∀ (t x : Nat), t ≤ 2 → x < 2 ^ typeBits t →
    let top := 2 ^ (typeBits t - 1)
    let inf := infCode t
    let one := bias t * 2 ^ mantW t
    let half := (bias t - 1) * 2 ^ mantW t
    let nan (f : Flags) : Nat × Flags := (defaultNaN t, f)
    (∀ op, op ≤ 12 → isNaN t x = true → xLane op t x = nan (if isSNaN t x then flNV else flNone)) ∧
    (xLane 0 t inf = (inf, flNone) ∧ xLane 1 t inf = (inf, flNone) ∧ xLane 2 t inf = (inf, flNone) ∧ xLane 3 t inf = (inf, flNone) ∧
      xLane 4 t inf = (0, flNone) ∧ xLane 5 t inf = (0, flNone) ∧ xLane 6 t inf = (inf, flNone) ∧ xLane 7 t inf = (one, flNone) ∧
      xLane 8 t inf = (one, flNone) ∧ xLane 9 t inf = (inf, flNone) ∧ xLane 10 t inf = (inf, flNone) ∧
      xLane 11 t inf = nan flNV ∧ xLane 12 t inf = nan flNV) ∧
    (xLane 0 t (top + inf) = (0, flNone) ∧ xLane 1 t (top + inf) = (0, flNone) ∧ xLane 2 t (top + inf) = nan flNV ∧
      xLane 3 t (top + inf) = nan flNV ∧ xLane 4 t (top + inf) = (top, flNone) ∧ xLane 5 t (top + inf) = nan flNV ∧
      xLane 6 t (top + inf) = nan flNV ∧ xLane 7 t (top + inf) = (0, flNone) ∧ xLane 8 t (top + inf) = (top + one, flNone) ∧
      xLane 9 t (top + inf) = (top, flNone) ∧ xLane 10 t (top + inf) = (top, flNone) ∧
      xLane 11 t (top + inf) = nan flNV ∧ xLane 12 t (top + inf) = nan flNV) ∧
    (∀ z, z = 0 ∨ z = top →
      xLane 0 t z = (one, flNone) ∧ xLane 1 t z = (one, flNone) ∧ xLane 2 t z = (top + inf, flDZ) ∧
      xLane 3 t z = (top + inf, flDZ) ∧ xLane 4 t z = (z + inf, flDZ) ∧ xLane 5 t z = (z + inf, flDZ) ∧
      xLane 6 t z = (z, flNone) ∧ xLane 7 t z = (half, flNone) ∧ xLane 8 t z = (z, flNone) ∧ xLane 9 t z = (z, flNone) ∧
      xLane 10 t z = (z, flNone) ∧ xLane 11 t z = (z, flNone) ∧ xLane 12 t z = (one, flNone)) ∧
    (top < x → x < top + inf →
      xLane 2 t x = nan flNV ∧ xLane 3 t x = nan flNV ∧ xLane 5 t x = nan flNV ∧ xLane 6 t x = nan flNV)

/-! ## LD and ST -/

/-- R387 to R391. LD.V, LD.S, LD.B and LD.I complete where the checks of R195 pass and the bytes can be read: 512 bytes, a scalar of 1, 2,
4 or 8 bytes (sign-extended under .sx), one element in every lane, or one element per index, into DV or b.ld, with no distance. R392.
LD.FE: two bits a line from the line that holds the byte: 0 FULL, 1 EMPTY, 2 POISON, 3 beyond the handle. It neither waits nor traps on a
line's state. Where the spec leaves a choice the clauses are the model's own (log 8). -/
def Obligations.Loads : Prop :=
  (∀ (m : MoveF) (s : State) (v : PVal) (k : Core) (r c x e : Word) (p : Target) (bs : List Byte),
     let size := accessSize c
     let number := ofBytes bs
     (let o := issued s 0x610#12 m v;
       Feeds s 0x610#12 m v k → scOp (fed s k) o 0 = .ok r → scOp (fed s k) o 12 = .ok c → scVal o = .ok x → effRef r x = .ok e →
       DvInRange (fed s k) o 0 → checkRef (fed s k) s.cur e 512 128 [1, 2, 3] = .ok p → loadAt (fed s k) s.cur p 512 e = .ok bs →
       exec (.ldV m) s = .next (spent s.cur m (landed (fed s k) o 0 (BitVec.ofNat 4096 number) 0 false))) ∧
     (let o := issued s 0x611#12 m v;
       Feeds s 0x611#12 m v k → scOp (fed s k) o 0 = .ok r → scOp (fed s k) o 12 = .ok c → scVal o = .ok x → effRef r x = .ok e →
       checkRef (fed s k) s.cur e size size [1, 2, 3] = .ok p → loadAt (fed s k) s.cur p size e = .ok bs →
       exec (.ldS m) s = .next (spent s.cur m (variableResult (fed s k) o
         (if c.getLsbD 2 then (BitVec.ofNat (8 * size) number).signExtend 64 else BitVec.ofNat 64 number)))) ∧
     (let o := issued s 0x612#12 m v;
       Feeds s 0x612#12 m v k → scOp (fed s k) o 0 = .ok r → scOp (fed s k) o 12 = .ok c → scVal o = .ok x → effRef r x = .ok e →
       DvInRange (fed s k) o 0 → checkRef (fed s k) s.cur e size size [1, 2, 3] = .ok p → loadAt (fed s k) s.cur p size e = .ok bs →
       ∃ z : Vec, exec (.ldB m) s = .next (spent s.cur m (landed (fed s k) o 0 z 0 false)) ∧
         ∀ i, i < 512 / size → laneAt (8 * size) z i = BitVec.ofNat (8 * size) number) ∧
     (∀ (ix : Vec) (ps : List (Word × Target)) (xs : List Nat), let o := issued s 0x613#12 m v;
       Feeds s 0x613#12 m v k → scOp (fed s k) o 0 = .ok r → scOp (fed s k) o 12 = .ok c → veVal o = .ok ix → DvInRange (fed s k) o 0 →
       c.toNat % 4 < 2 → (refTag r = 1 ∨ refTag r = 2 ∨ refTag r = 3) →
       elementPlaces (fed s k) s.cur r size ((List.range (512 / size)).map fun i => (laneAt 32 ix i).toNat) = .ok ps →
       loadElements (fed s k) s.cur size ps = .ok xs → ∃ z : Vec,
         exec (.ldI m) s = .next (spent s.cur m (landed (fed s k) o 0 z 0 false)) ∧
         ∀ i, i < 512 / size → (laneAt (8 * size) z i).toNat = xs.getD i 0 % 2 ^ (8 * size))) ∧
  (∀ (m : MoveF) (s : State) (v : PVal) (k : Core) (r c x e : Word) (hc h off : Nat) (hd : Handle),
     let o := issued s 0x614#12 m v
     Feeds s 0x614#12 m v k → scOp (fed s k) o 0 = .ok r → scOp (fed s k) o 12 = .ok c → scVal o = .ok x → effRef r x = .ok e →
     checkRef (fed s k) s.cur e 1 1 [1, 2] = .ok (.handle hc h off) → OpenHandle (fed s k) s.cur hc h hd →
     ∃ w : Word, exec (.ldFe m) s = .next (spent s.cur m (variableResult (fed s k) o w)) ∧
       ∀ i, i < 32 → w.extractLsb' (2 * i) 2 =
         if hd.size ≤ 128 * (off / 128 + i) then 3#2
         else match lineState (coreOf (fed s k) hc) hd (off / 128 + i) with
           | .full => 0#2
           | .empty => 1#2
           | .poison => 2#2)

/-- R203, R390. What a load of a handle finds: with no region open and no fence on its path, the bytes of the handle where every line it
touches is FULL; it waits, leaving the state but for the core's stall mark, where the first line that is not FULL is EMPTY; it takes
LINE_POISON with that line's offset where it is POISON. R202, R203, R394. A store to a handle with no region open and no fence on its path
is made at once: each byte of the handle in the stored range is the stored one, every other byte of the core's storage is as it was, each
line's state follows R202, and nothing else of the state changes; no line state holds a store back. -/
def Obligations.HandleAccess : Prop :=
  (∀ (s : State) (c hc h off n : Nat) (hd : Handle) (r : Word),
     OpenHandle s c hc h hd →
     ((∀ l ∈ linesOf off n, lineState (coreOf s hc) hd l = .full) →
       loadAt s c (.handle hc h off) n r = .ok ((List.range n).map fun i =>
         readByte (storage (coreOf s hc) hd.level) (handleByte (coreOf s hc) hd (off + i)))) ∧
     (∀ l, (linesOf off n).find? (fun l => lineState (coreOf s hc) hd l ≠ .full) = some l →
       (lineState (coreOf s hc) hd l = .empty → loadAt s c (.handle hc h off) n r = .error (.wait (.line hc h l))) ∧
       (lineState (coreOf s hc) hd l = .poison → loadAt s c (.handle hc h off) n r =
         .error (.trap { code := 0x0014#16, info := (r &&& 0xFFFFFFFFFF000000#64) ||| BitVec.ofNat 64 (128 * l) })))) ∧
  (∀ (s : State) (c hc h off : Nat) (hd : Handle) (bs : List Byte),
     OpenHandle s c hc h hd → Sound (coreOf s hc) hd → off + bs.length ≤ hd.size → ∃ t,
       storeAt s c (.handle hc h off) bs = .ok t ∧ OnlyStorage hc s t ∧
       (∀ j, j < hd.size → byteOf (coreOf t hc) hd j =
         if off ≤ j ∧ j < off + bs.length then bs.getD (j - off) 0#8 else byteOf (coreOf s hc) hd j) ∧
       (∀ (lv : Level) (a : Nat), (∀ j, off ≤ j → j < off + bs.length → lv = hd.level → a ≠ handleByte (coreOf s hc) hd j) →
         readByte (storage (coreOf t hc) lv) a = readByte (storage (coreOf s hc) lv) a) ∧
       ∀ l, 128 * l < hd.size → lineState (coreOf t hc) hd l = lineStored (lineState (coreOf s hc) hd l) off bs.length l)

/-- R393, R394. ST.V, ST.S, ST.I and ST.M complete where the checks of R195 pass and the store can be made: 512 bytes of a vector, the low
bytes of a scalar, one lane per index in ascending order, or the lanes whose mask bit is set. R395. ST.SETE empties the n lines from the
referenced one and leaves their bytes; ST.ZERO writes zero bytes to them and makes them FULL; no other line and no other byte of the
handle changes. An n of 0 or above 32 takes HANDLE_BOUNDS. -/
def Obligations.Stores : Prop :=
  (∀ (m : MoveF) (s t : State) (v : PVal) (k : Core) (r c : Word) (p : Target),
     let size := accessSize c
     let lane (x : Vec) (i : Nat) : Nat := (laneAt (8 * size) x i).toNat
     (∀ x : Vec, let o := issued s 0x710#12 m v;
       Feeds s 0x710#12 m v k → scOp (fed s k) o 0 = .ok r → veVal o = .ok x →
       checkRef (fed s k) s.cur r 512 128 [1, 2, 3] = .ok p →
       storeAt (fed s k) s.cur p ((List.range 512).map fun i => laneAt 8 x i) = .ok t →
       exec (.stV m) s = .next (spent s.cur m t)) ∧
     (∀ x : Word, let o := issued s 0x711#12 m v;
       Feeds s 0x711#12 m v k → scOp (fed s k) o 0 = .ok r → scOp (fed s k) o 12 = .ok c → scVal o = .ok x →
       checkRef (fed s k) s.cur r size size [1, 2, 3] = .ok p →
       storeAt (fed s k) s.cur p ((List.range size).map fun i => x.extractLsb' (8 * i) 8) = .ok t →
       exec (.stS m) s = .next (spent s.cur m t)) ∧
     (∀ (ix x : Vec) (ps : List (Word × Target)), let o := issued s 0x712#12 m v;
       Feeds s 0x712#12 m v k → scOp (fed s k) o 0 = .ok r → veOp (fed s k) o 1 = .ok ix → scOp (fed s k) o 12 = .ok c →
       veVal o = .ok x → c.toNat % 4 < 2 → (refTag r = 1 ∨ refTag r = 2 ∨ refTag r = 3) →
       elementPlaces (fed s k) s.cur r size ((List.range (512 / size)).map fun i => (laneAt 32 ix i).toNat) = .ok ps →
       storeElements (fed s k) s.cur size ((ps.map (·.2)).zip ((List.range (512 / size)).map (lane x))) = .ok t →
       exec (.stI m) s = .next (spent s.cur m t)) ∧
     (∀ (mask : LaneMask) (x : Vec) (ps : List (Word × Target)), let o := issued s 0x713#12 m v;
       let set := (List.range (512 / size)).filter fun i => mask.getLsbD i
       Feeds s 0x713#12 m v k → scOp (fed s k) o 0 = .ok r → maOp (fed s k) o 1 = .ok mask → scOp (fed s k) o 12 = .ok c →
       veVal o = .ok x → checkRef (fed s k) s.cur r 0 size [1, 2, 3] = .ok p →
       (∀ j off, p = .step j off → (stepDecl (coreLaunch (fed s k) s.cur) j).esize = size) →
       elementPlaces (fed s k) s.cur r size set = .ok ps →
       storeElements (fed s k) s.cur size ((ps.map (·.2)).zip (set.map (lane x))) = .ok t →
       exec (.stM m) s = .next (spent s.cur m t))) ∧
  (∀ (m : MoveF) (s : State) (v : PVal) (k : Core) (r x : Word) (hc h off : Nat) (hd : Handle),
     let n := x.toNat % 64
     let inside (l : Nat) : Prop := off / 128 ≤ l ∧ l < off / 128 + n
     let state (t : State) (l : Nat) : LineState := lineState (coreOf t hc) hd l
     (let o := issued s 0x714#12 m v;
       Feeds s 0x714#12 m v k → scOp (fed s k) o 0 = .ok r → scVal o = .ok x →
       ((n = 0 ∨ 32 < n) → traps (.stSete m) s 0x0013#16 r) ∧
       (0 < n → n ≤ 32 → checkRef (fed s k) s.cur r (128 * n) 128 [1, 2] = .ok (.handle hc h off) →
         OpenHandle (fed s k) s.cur hc h hd → Sound (coreOf (fed s k) hc) hd → ∃ t,
         exec (.stSete m) s = .next (spent s.cur m t) ∧ OnlyStorage hc (fed s k) t ∧
         (∀ j, j < hd.size → byteOf (coreOf t hc) hd j = byteOf (coreOf (fed s k) hc) hd j) ∧
         ∀ l, 128 * l < hd.size → (inside l → state t l = .empty) ∧ (¬inside l → state t l = state (fed s k) l))) ∧
     (let o := issued s 0x715#12 m v;
       Feeds s 0x715#12 m v k → scOp (fed s k) o 0 = .ok r → scVal o = .ok x →
       ((n = 0 ∨ 32 < n) → traps (.stZero m) s 0x0013#16 r) ∧
       (0 < n → n ≤ 32 → checkRef (fed s k) s.cur r (128 * n) 128 [1, 2] = .ok (.handle hc h off) →
         OpenHandle (fed s k) s.cur hc h hd → Sound (coreOf (fed s k) hc) hd → ∃ t,
         exec (.stZero m) s = .next (spent s.cur m t) ∧ OnlyStorage hc (fed s k) t ∧
         (∀ j, j < hd.size → byteOf (coreOf t hc) hd j =
           if 128 * (off / 128) ≤ j ∧ j < 128 * (off / 128) + 128 * n then 0#8 else byteOf (coreOf (fed s k) hc) hd j) ∧
         ∀ l, 128 * l < hd.size → (inside l → state t l = .full) ∧ (¬inside l → state t l = state (fed s k) l))))

/-! ## What operations leave alone -/

/-- R158, R162, R175. What a scalar operation that goes through leaves alone: every register but its unit's result register, every control
register but k.flg, in which it only sets bits, and everything outside its core, every byte of memory among it. R158, R325. What an
operation of V0, V1, X or LD that goes through leaves alone: every register but the group of four from DV, the mask DM and its unit's
result register, every control register but k.flg, and everything outside its core, every byte of memory among it. -/
def Obligations.RegisterFrame : Prop :=
  (∀ (i : Instr) (d : BitVec 12) (m : MoveF) (s t : State),
     i.port? = some (d, m) → (d.toNat / 256 = 1 ∨ d.toNat / 256 = 2) → Passes i d m s t →
     OnlyCore s.cur s t ∧
     RegsKept [resultKey (d.toNat / 256)] (coreOf s s.cur) (coreOf t s.cur) ∧
     ControlKept (coreOf s s.cur) (coreOf t s.cur) ∧
     (coreOf s s.cur).flg &&& ~~~(coreOf t s.cur).flg = 0#6) ∧
  (∀ (i : Instr) (d : BitVec 12) (m : MoveF) (s t : State),
     let page := d.toNat / 256
     i.port? = some (d, m) → 3 ≤ page → page ≤ 6 → Passes i d m s t →
     OnlyCore s.cur s t ∧
     RegsKept ([resultKey page, 0x98 + (Map.get (coreOf s s.cur).dm (page - 1) 0#3).toNat] ++
       (List.range 4).map (dvReg s (issued s d m (.sc 0#64)))) (coreOf s s.cur) (coreOf t s.cur) ∧
     ControlKept (coreOf s s.cur) (coreOf t s.cur) ∧
     (coreOf s s.cur).flg &&& ~~~(coreOf t s.cur).flg = 0#6)

/-- R393 to R395. What an operation of ST that goes through leaves alone: every register and control register of every core and all
memory; on any core only bytes and line states of storage change, on its own core also the gate of an open region and the fullness of the
register it read, and outside the cores only contributions to step regions. -/
def Obligations.StoreFrame : Prop :=
  ∀ (i : Instr) (d : BitVec 12) (m : MoveF) (s t : State),
    i.port? = some (d, m) → d.toNat / 256 = 7 → Passes i d m s t →
    t = { s with cores := t.cores, regions := t.regions } ∧
    ∀ c', coreOf t c' = { coreOf s c' with
        empty := (coreOf t c').empty, pends := (coreOf t c').pends, region := (coreOf t c').region, spad := (coreOf t c').spad,
        opd := (coreOf t c').opd, spadLines := (coreOf t c').spadLines, opdLines := (coreOf t c').opdLines } ∧
      (c' ≠ s.cur → (coreOf t c').empty = (coreOf s c').empty ∧ (coreOf t c').pends = (coreOf s c').pends ∧
        (coreOf t c').region = (coreOf s c').region)

/-- R158, R365, R369, R385. What an operation of MX, CP, SA or RG that goes through leaves alone. MX: everything outside its core, where
the launch keeps no hotness block, and of the core every register but b.mx and the one at DV. CP: device memory, where the launch keeps no
hotness block, and every register but b.cp. SA: everything but commands and cores, and every register. RG: all memory, and every register
but b.rg. No other core's registers change. -/
def Obligations.EngineFrame : Prop :=
  ∀ (i : Instr) (d : BitVec 12) (m : MoveF) (s t : State),
    let page := d.toNat / 256
    let c := s.cur
    let k := coreOf s c
    i.port? = some (d, m) → Passes i d m s t →
    (page = 8 ∨ page = 9 ∨ page = 10 ∨ page = 12 → ∀ c', c' ≠ c → RegsKept [] (coreOf s c') (coreOf t c')) ∧
    (page = 8 → (coreLaunch s c).hot = 0 → OnlyCore c s t ∧
      RegsKept [resultKey 8, dvReg s (issued s d m (.sc 0#64)) 0] k (coreOf t c) ∧
      coreOf t c = { k with
        sc := (coreOf t c).sc, ve := (coreOf t c).ve, empty := (coreOf t c).empty, pends := (coreOf t c).pends, aside := (coreOf t c).aside,
        flg := (coreOf t c).flg, window := (coreOf t c).window, tiles := (coreOf t c).tiles, tids := (coreOf t c).tids, mxNo := (coreOf t c).mxNo,
        flight := (coreOf t c).flight, seqStep := (coreOf t c).seqStep, opd := (coreOf t c).opd, opdLines := (coreOf t c).opdLines }) ∧
    (page = 9 → RegsKept [resultKey 9] k (coreOf t c) ∧ ((coreLaunch s c).hot = 0 → t.mem = s.mem)) ∧
    (page = 10 → t = { s with cores := t.cores, cmds := t.cmds, nextCmd := t.nextCmd } ∧ RegsKept [] k (coreOf t c)) ∧
    (page = 12 → RegsKept [resultKey 12] k (coreOf t c) ∧ t.mem = s.mem ∧ t.hostMem = s.hostMem)

/-! ## Moves and reads -/

/-- R159, R160, R176. A raw move into s, v, p or m: the register named under rotation holds the value and is FULL (p takes bit 0, an
immediate in v is replicated to eight-byte lanes), s0 and p0 discard it, and nothing else is written. A value of another width takes
ILLEGAL_SOURCE, a v register at or above VREG ILLEGAL_DEST. -/
def Obligations.MoveToRegister : Prop :=
  ∀ (d : BitVec 12) (m : MoveF) (s : State) (v : PVal) (k : Core),
    let n := d.toNat
    let vreg := (coreLaunch s s.cur).vreg
    let old := coreOf s s.cur
    let info := moveInfo 0
    Feeds s d m v k →
    (n < 64 → ∀ w, v.scalar? = some w → ∃ t, exec (.move d m) s = .next t ∧ Writes s t (physS old n) (.sc w)) ∧
    (64 ≤ n → n < 128 → n - 64 < vreg → ∀ x, v = .ve x →
      ∃ t, exec (.move d m) s = .next t ∧ Writes s t (0x40 + physV vreg old (n - 64)) (.ve x)) ∧
    (64 ≤ n → n < 128 → n - 64 < vreg → ∀ w b, v = .im w b → ∃ (t : State) (x : Vec), (∀ i, i < 64 → laneAt 64 x i = w) ∧
      exec (.move d m) s = .next t ∧ Writes s t (0x40 + physV vreg old (n - 64)) (.ve x)) ∧
    (128 ≤ n → n < 144 → ∀ w, v.scalar? = some w → ∃ t, exec (.move d m) s = .next t ∧
      Writes s t (0x80 + physP old (n - 128)) (.sc (if w.getLsbD 0 then 1#64 else 0#64))) ∧
    (152 ≤ n → n < 160 → ∀ x, v = .ma x → ∃ t, exec (.move d m) s = .next t ∧ Writes s t n (.ma x)) ∧
    ((n < 64 ∨ 128 ≤ n ∧ n < 144) → v.scalar? = none → traps (.move d m) s 0x0004#16 (info m.src)) ∧
    (64 ≤ n → n < 128 → vreg ≤ n - 64 → traps (.move d m) s 0x0005#16 (info d)) ∧
    (64 ≤ n → n < 128 → n - 64 < vreg → v.vector? = none → traps (.move d m) s 0x0004#16 (info m.src)) ∧
    (152 ≤ n → n < 160 → v.mask? = none → traps (.move d m) s 0x0004#16 (info m.src))

/-- R161, R162. A raw move of a scalar into a control register: k.rrb (RV modulo NV), k.lc, k.ec, k.flg and the strides in any mode,
k.trapc, k.trapi, k.epc, k.rpi, k.mxs and k.hs0 to k.hs3 in handler mode alone, each kept to its width; every other control register reads
as before. Outside handler mode a register of the handler takes PRIVILEGE; a read-only or unlisted selector takes ILLEGAL_DEST. R157. A
raw move to a port: an operand port holds the value until the execution ends; TY takes bits [3:0], DV [5:0] and DM [2:0] of a scalar and
keeps them; a vector or a mask at a sticky port takes ILLEGAL_SOURCE. Nothing outside the core changes. R178, R179. A move to a forwarding
port takes ILLEGAL_DEST where the neighbour does not run a member of the same step group; else it closes an open region first, is held at
its port until it has been delivered, and then completes; R222: while a fence holds the XF path it waits first. Where the spec leaves a
choice the clauses are the model's own (log 26). -/
def Obligations.MovesElsewhere : Prop :=
  (∀ (d : BitVec 12) (m : MoveF) (s : State) (v : PVal) (k : Core) (w : Word),
     let n := d.toNat
     let vreg := (coreLaunch s s.cur).vreg
     let free := 0xAB ≤ n ∧ n ≤ 0xAE ∨ 0xC0 ≤ n ∧ n ≤ 0xD5
     let handler := 0xB0 ≤ n ∧ n ≤ 0xB4 ∨ 0xB6 ≤ n ∧ n ≤ 0xB9
     let kept : Word :=
       if n = 0xAB then
         (if 32 < vreg then BitVec.ofNat 64 ((w.extractLsb' 16 5).toNat % (vreg - 32) * 2 ^ 16) else 0#64) ||| (w &&& 0xF07#64)
       else if n = 0xAD then w &&& 0xFF#64
       else if n = 0xAE then w &&& 0x3F#64
       else if n = 0xB0 then w &&& 0xFFFF#64
       else if n = 0xB2 then w &&& ~~~3#64
       else w
     Feeds s d m v k → 0xA0 ≤ n → n < 0xE0 → v = .sc w ∨ (∃ b, v = .im w b) →
     (free ∨ handler ∧ (coreOf s s.cur).hm = true → ∃ t, exec (.move d m) s = .next t ∧ OnlyCore s.cur s t ∧
       (vreg ≤ 64 → controlValue t s.cur n = kept) ∧
       RegsKept [] (coreOf s s.cur) (coreOf t s.cur) ∧
       ∀ j, controlListed j = true → j ≠ n → controlValue t s.cur j = controlValue s s.cur j) ∧
     (handler → (coreOf s s.cur).hm = false → traps (.move d m) s 0x0008#16 (d.zeroExtend 64)) ∧
     (¬free → ¬handler → traps (.move d m) s 0x0005#16 (moveInfo 0 d))) ∧
  (∀ (d : BitVec 12) (m : MoveF) (s : State) (v : PVal) (k : Core),
     let page := d.toNat / 256
     let off := d.toNat % 256
     let isTy := off = 0xF ∧ 1 ≤ page ∧ page ≤ 4
     let isDv := off = 0xE ∧ (page = 3 ∨ page = 4 ∨ page = 5 ∨ page = 6 ∨ page = 8)
     let isDm := off = 0xD ∧ (page = 3 ∨ page = 4)
     Feeds s d m v k → 1 ≤ page → page ≤ 12 → off ≤ 0xF → (off = 0xF → page ≤ 4) →
     (¬isTy → ¬isDv → ¬isDm → ∃ t, exec (.move d m) s = .next t ∧ OnlyCore s.cur s t ∧ RegsKept [] (coreOf s s.cur) (coreOf t s.cur) ∧
       Map.find (coreOf t s.cur).latch d.toNat = some { val := v, idx := 0, sel := m.src }) ∧
     (∀ w, v.scalar? = some w → isTy ∨ isDv ∨ isDm → ∃ t, exec (.move d m) s = .next t ∧ OnlyCore s.cur s t ∧
       RegsKept [] (coreOf s s.cur) (coreOf t s.cur) ∧
       (isTy → typeReg (coreOf t s.cur) (page - 1) = w.toNat % 16) ∧
       (isDv → Map.get (coreOf t s.cur).dv ((dvKey page).getD 0) 0#6 = w.setWidth 6) ∧
       (isDm → Map.get (coreOf t s.cur).dm (page - 1) 0#3 = w.setWidth 3)) ∧
     (v.scalar? = none → isTy ∨ isDv ∨ isDm → traps (.move d m) s 0x0004#16 (moveInfo 0 m.src))) ∧
  (∀ (d : BitVec 12) (m : MoveF) (s : State) (v : PVal) (k : Core) (x : Vec),
     let port := d.toNat - 0xE0
     let to_ := portCore (fed s k) s.cur port
     let near := ∃ n, to_ = some n ∧ sameGroup (fed s k) s.cur n = true
     Feeds s d m v k → 0xE0 ≤ d.toNat → d.toNat < 0xE8 → v.vector? = some x →
     (¬near → traps (.move d m) s 0x0005#16 (moveInfo 0 d)) ∧
     let held := (fenceIds (fed s k) s.cur 6).isEmpty = false
     (near → held → waits (.move d m) s) ∧
     (near → ¬held → gating (coreOf (fed s k) s.cur) = true → exec (.move d m) s = .next (parked s s.cur .closeFirst)) ∧
     (near → ¬held → gating (coreOf (fed s k) s.cur) = false → 0 ∉ (coreOf (fed s k) s.cur).sent →
       exec (.move d m) s = .next (modCore s s.cur fun k => { k with held := [(0, port, x)] })) ∧
     (near → ¬held → gating (coreOf (fed s k) s.cur) = false → 0 ∈ (coreOf (fed s k) s.cur).sent →
       exec (.move d m) s = .next (moved s.cur m (fed s k))))

/-- R164. A move whose guard is false, raw or a trigger, changes nothing. R159, R161, R267. The source of a move other than a register: an
immediate sign-extended to 64 bits, an unguarded control register's value, a handler's register in handler mode alone (PRIVILEGE with the
selector outside it), and ILLEGAL_SOURCE for a selector of no control register, of no register, or of a v register at or above VREG. R167,
R168. Reading a register: a FULL one, with no fixed-distance result that is still due, reads; with the wait bit, an EMPTY one whose result
stands ready reads and becomes FULL, and any other waits; without it an EMPTY one, or one whose distance is not over, takes REG_EMPTY; s0
and p0 always read. -/
def Obligations.SourceReads : Prop :=
  (∀ (i : Instr) (d : BitVec 12) (m : MoveF) (s : State),
     i.port? = some (d, m) → guardTrue (coreOf s s.cur) m = false → exec i s = .next s) ∧
  (∀ (s : State) (c idx : Nat) (d : BitVec 12) (m : MoveF),
     let k := coreOf s c
     let n := m.src.toNat
     let hidden := 0xB0 ≤ n ∧ n ≤ 0xB4 ∨ 0xB6 ≤ n ∧ n ≤ 0xB9
     let listed := 0xA0 ≤ n ∧ n ≤ 0xB9 ∨ 0xC0 ≤ n ∧ n ≤ 0xD5
     let refused := readSource s c [] idx d m = .error (.trap { code := 0x0004#16, info := moveInfo idx m.src })
     (m.imm = true → readSource s c [] idx d m = .ok (.im (m.src.signExtend 64) (immWidth k d), k)) ∧
     (m.imm = false → listed → (hidden → k.hm = true) → readSource s c [] idx d m = .ok (.sc (controlValue s c n), k)) ∧
     (m.imm = false → hidden → k.hm = false →
       readSource s c [] idx d m = .error (.trap { code := 0x0008#16, info := m.src.zeroExtend 64 })) ∧
     (m.imm = false → 0xA0 ≤ n → n < 0xE0 → ¬listed → refused) ∧
     (m.imm = false → 0x40 ≤ n → n < 0x80 → (coreLaunch s c).vreg ≤ n - 0x40 → refused) ∧
     (m.imm = false → (0x94 ≤ n ∧ n < 0x98 ∨ 0xE0 ≤ n ∧ n < 0x100 ∨ 0x10A ≤ n) → refused)) ∧
  (∀ (k : Core) (key idx : Nat) (sel : BitVec 12),
     let due (p : Pend) : Prop := p ∈ k.pends ∧ p.reg = key
     (hardWired key = true → ∀ wait, readReg k key wait idx sel = .ok (valueAt k key, k)) ∧
     (hardWired key = false → isEmpty k key = false → readReg k key true idx sel = .ok (valueAt k key, k)) ∧
     (hardWired key = false → isEmpty k key = false → (∀ p, due p → p.fixed = true → p.left = 0) →
       readReg k key false idx sel = .ok (valueAt k key, k)) ∧
     (hardWired key = false → isEmpty k key = true →
       readReg k key false idx sel = .error (.trap { code := 0x0007#16, info := moveInfo idx sel })) ∧
     (hardWired key = false → ∀ p, k.pends.find? (fun q => q.reg = key) = some p → p.fixed = true → p.left ≠ 0 →
       readReg k key false idx sel = .error (.trap { code := 0x0007#16, info := moveInfo idx sel })) ∧
     (hardWired key = false → isEmpty k key = true → (∀ p, ¬due p) → readReg k key true idx sel = .error (.wait .none)) ∧
     (hardWired key = false → isEmpty k key = true → ∀ p, k.pends.find? (fun q => q.reg = key) = some p →
       (p.cmd = none → ∃ k', readReg k key true idx sel = .ok (valueAt k key, k') ∧ isEmpty k' key = false ∧
         ∀ key', valueAt k' key' = valueAt k key') ∧
       (p.cmd ≠ none → readReg k key true idx sel = .error (.wait .none))))

/-- R177. RotateStage: the loop counters, whether the loop goes on, p8 written FULL, and every other register unchanged as a physical
register; a value at a logical register of a rotating region but its last is named by the next logical register afterwards. -/
def Obligations.RotateStage : Prop :=
  ∀ (vreg : Nat) (k : Core), 32 ≤ vreg → vreg ≤ 64 → k.rs < 16 → k.rp < 8 → (k.rv < vreg - 32 ∨ vreg = 32 ∧ k.rv = 0) →
    let k' := (rotateStage vreg k).1
    let go := (rotateStage vreg k).2
    (k.lc ≠ 0#64 → k'.lc = k.lc - 1#64 ∧ k'.ec = k.ec ∧ go = true ∧ valueAt k' (0x80 + physP k' 8) = .sc 1#64) ∧
    (k.lc = 0#64 → 1 < k.ec.toNat → k'.lc = 0#64 ∧ k'.ec = k.ec - 1#8 ∧ go = true ∧ valueAt k' (0x80 + physP k' 8) = .sc 0#64) ∧
    (k.lc = 0#64 → k.ec.toNat ≤ 1 → k'.lc = 0#64 ∧ k'.ec = 0#8 ∧ go = false ∧ valueAt k' (0x80 + physP k' 8) = .sc 0#64) ∧
    isEmpty k' (0x80 + physP k' 8) = false ∧
    RegsKept [0x80 + physP k' 8] k k' ∧
    (∀ n, 48 ≤ n → n < 63 → physS k' (n + 1) = physS k n) ∧
    (∀ n, 8 ≤ n → n < 15 → physP k' (n + 1) = physP k n) ∧
    (∀ n, 32 ≤ n → n + 1 < vreg → physV vreg k' (n + 1) = physV vreg k n)

/-! ## BR -/

/-- R304, R306 to R308. JMP, JMPI, RET, CALL, CALLI and LOOP: a target at which a bundle starts moves the core there, CALL and CALLI also
put the return address into s(n) under rotation; LOOP counts k.lc down and branches while it is not zero, and checks no target when it
falls through. A misaligned target takes MISALIGNED, a word that is no header BRANCH_MID_BUNDLE. R309, R310, R320, R321. LOOPR rotates the
stage and branches while it goes on; LEAVE clears k.lc, and k.ec under mode 1; WAITT passes once the Chronometer is not before the time
(compared modulo 2^64) and waits before it; KCHK writes whether the present capacities cover the need into a predicate, FULL. -/
def Obligations.Branches : Prop :=
  (∀ (m : MoveF) (s : State) (v : PVal) (k : Core) (x : Word),
     let here := BitVec.ofNat 64 (coreOf s s.cur).pc
     let rel := here + x * 4#64
     let jumps (d : BitVec 12) (i : Instr) (t : Word) : Prop :=
       let o := issued s d m v
       Feeds s d m v k → scVal o = .ok x →
       (StartsAt (fed s k) s.cur t → exec i s = .next (spent s.cur m (redirected (fed s k) s.cur t))) ∧
       ((t.extractLsb' 0 2 ≠ 0#2 ∨ t.extractLsb' 52 12 ≠ 0#12) → traps i s 0x0009#16 t) ∧
       (∀ w, t.extractLsb' 0 2 = 0#2 → t.extractLsb' 52 12 = 0#12 → fetchWord (fed s k) s.cur t.toNat = .ok w → w.getLsbD 31 = false →
         traps i s 0x0002#16 t)
     let calls (d : BitVec 12) (i : Instr) (t : Word) : Prop :=
       let o := issued s d m v
       ∀ n : Word, Feeds s d m v k → scOp (fed s k) o 0 = .ok n → scVal o = .ok x → StartsAt (fed s k) s.cur t →
         exec i s = .next (spent s.cur m (modCore (redirected (fed s k) s.cur t) s.cur fun k =>
           writeReg k (physS k (n.toNat % 64)) (.sc (BitVec.ofNat 64 (nextOf (fed s k) s.cur (coreOf s s.cur).pc 2)))))
     jumps 0xB10#12 (.brJmp m) rel ∧ jumps 0xB11#12 (.brJmpi m) x ∧ jumps 0xB14#12 (.brRet m) x ∧
     calls 0xB12#12 (.brCall m) rel ∧ calls 0xB13#12 (.brCalli m) x ∧
     (let o := issued s 0xB15#12 m v;
       Feeds s 0xB15#12 m v k → scVal o = .ok x →
       (k.lc = 0#64 → exec (.brLoop m) s = .next (spent s.cur m (fed s k))) ∧
       (k.lc ≠ 0#64 → StartsAt (fed s { k with lc := k.lc - 1#64 }) s.cur rel →
         exec (.brLoop m) s = .next (spent s.cur m (redirected (fed s { k with lc := k.lc - 1#64 }) s.cur rel))))) ∧
  (∀ (m : MoveF) (s : State) (v : PVal) (k : Core) (n x : Word),
     let vreg := (coreLaunch (fed s k) s.cur).vreg
     let turned := (rotateStage vreg k).1
     let rel := BitVec.ofNat 64 (coreOf s s.cur).pc + x * 4#64
     (let o := issued s 0xB16#12 m v;
       Feeds s 0xB16#12 m v k → scVal o = .ok x →
       ((rotateStage vreg k).2 = false → exec (.brLoopr m) s = .next (spent s.cur m (fed s turned))) ∧
       ((rotateStage vreg k).2 = true → StartsAt (fed s turned) s.cur rel →
         exec (.brLoopr m) s = .next (spent s.cur m (redirected (fed s turned) s.cur rel)))) ∧
     (let o := issued s 0xB17#12 m v;
       Feeds s 0xB17#12 m v k → scVal o = .ok x →
       exec (.brLeave m) s = .next (spent s.cur m (fed s { k with lc := 0#64, ec := if x.getLsbD 0 then 0#8 else k.ec }))) ∧
     (let o := issued s 0xB20#12 m v;
       let t := if n = 1#64 then k.waitUntil.getD (chronOf s (s.cur / 48) + x) else x
       Feeds s 0xB20#12 m v k → scOp (fed s k) o 0 = .ok n → scVal o = .ok x →
       ((chronOf s (s.cur / 48) - t).msb = false → exec (.brWaitt m) s = .next (spent s.cur m (fed s k))) ∧
       ((chronOf s (s.cur / 48) - t).msb = true →
         exec (.brWaitt m) s = .next (modCore s s.cur fun k => { k with waitUntil := some t }))) ∧
     (let o := issued s 0xB21#12 m v;
       let key := 0x80 + physP k (n.toNat % 16)
       let enough := (x.extractLsb' 0 9).toNat + (heldBanks k .spad).length ≤ capacity k .spad ∧
         (x.extractLsb' 16 7).toNat + (heldBanks k .opd).length ≤ capacity k .opd ∧
         (x.extractLsb' 9 7).toNat ≤ capVreg k ∧ (x.extractLsb' 23 5).toNat ≤ capTiles k
       Feeds s 0xB21#12 m v k → scOp (fed s k) o 0 = .ok n → scVal o = .ok x →
       (enough → exec (.brKchk m) s = .next (spent s.cur m (fed s (writeReg k key (.sc 1#64))))) ∧
       (¬enough → exec (.brKchk m) s = .next (spent s.cur m (fed s (writeReg k key (.sc 0#64)))))))

/-- R128, R130, R311 to R314. YIELD, SUSP, JOINW and HALT of a waypoint that has nothing in progress: the record holds the new state, the
next bundle as RESUME and s1 to s4, with handles it is pinned to the core; YIELD leaves it READY (gone, where its launch has ended: R115)
and HALT DONE with the core free, SUSP and JOINW leave it SUSPENDED with the core awaiting the home's answer, whose request is on its way.
Where the spec leaves a choice the clauses are the model's own (log 46). -/
def Obligations.Suspension : Prop :=
  ∀ (m : MoveF) (s : State) (v : PVal) (k : Core) (w : Waypoint),
    let c := s.cur
    let saved := (List.range 4).map fun i => scalarAt k (i + 1)
    let record (t : State) (st : WpState) (wait : Nat) : Prop :=
      ∃ w', findWp t k.wp = some w' ∧ w'.state = st ∧ w'.wait = wait ∧
        w'.resume = nextOf (fed s k) c (coreOf s c).pc 2 ∧ w'.sval = saved ∧ w'.frame = none ∧
        (pinnedMask k k.wp ≠ 0#8 →
          w'.aff = 2 ∧ w'.anchorDie = c / 48 ∧ w'.anchorCore = c % 48 ∧ w'.pmask = pinnedMask k k.wp)
    let asked (t : State) (a join : Nat) : Prop :=
      ∃ x ∈ t.waiting, x.pkt.kind = 6 ∧ x.pkt.paddr = a ∧ x.station = 2 * (c / 48) ∧ x.dst = 2 * dpaDie a + 1 ∧
        x.pkt.opa = waitOpa k.wp (c / 48) (join = 1)
    let ended := (coreLaunch (fed s k) c).ending ≠ .running
    findWp s k.wp = some w → Quiet (fed s k) c →
    (k.hm = false → Feeds s 0xB19#12 m v k → ∃ t, exec (.brYield m) s = .next t ∧ (coreOf t c).mode = .idle ∧
      (ended → findWp t k.wp = none) ∧ (¬ended → record t .ready 0)) ∧
    (∀ (r : Word) (a : Nat), k.hm = false → refTag r = 0 → refVa r % 32 = 0 → wordHome (fed s k) c (refVa r) 1 = .ok a →
      (Feeds s 0xB18#12 m v k → scVal (issued s 0xB18#12 m v) = .ok r →
        ∃ t, exec (.brSusp m) s = .next t ∧ record t .suspended 2 ∧ (coreOf t c).mode = .answer ∧ asked t a 0) ∧
      (Feeds s 0xB1B#12 m v k → scVal (issued s 0xB1B#12 m v) = .ok r →
        ∃ t, exec (.brJoinw m) s = .next t ∧ record t .suspended 1 ∧ (coreOf t c).mode = .answer ∧ asked t a 1)) ∧
    (Feeds s 0xB1C#12 m v k → ∃ t, exec (.brHalt m) s = .next t ∧ (coreOf t c).mode = .idle ∧
      (∃ w', findWp t k.wp = some w' ∧ w'.state = .done ∧ w'.fault = none) ∧
      (∀ c' h hd, handleOf t c' h = some hd → hd.owner ≠ k.wp) ∧
      (w.join = 0#47 → t.joinDecs = s.joinDecs) ∧
      (∀ a, w.join ≠ 0#47 → wordHome (fed s k) c (w.join.toNat * 32) 3 = .ok a →
        t.joinDecs = s.joinDecs ++ [{ dpa := a, launch := w.key.launch, wpid := w.key.wpid, core := c }])) ∧
    (k.hm = true → Feeds s 0xB19#12 m v k → traps (.brYield m) s 0x0008#16 0xB19#64)

/-- R134, R315, R316. SPAWN of a nonempty range at the next level: one waypoint record stands for it, READY, with its level, its
coordinates, the launch's class, the spawning core as its anchor and s1 to s4; the join counter has risen by the number of children; the
spawner keeps running. A range that is empty creates nothing, and the child of a launch that has ended is discarded (R115). Where the spec
leaves a choice the clauses are the model's own (log 20, 45). -/
def Obligations.Spawn : Prop :=
  ∀ (m : MoveF) (s : State) (v : PVal) (k : Core) (w : Waypoint) (e j lo aff hi : Word) (home : Option Nat) (id : Nat),
    let c := s.cur
    let o := issued s 0xB1A#12 m v
    let l := coreLaunch (fed s k) c
    Feeds s 0xB1A#12 m v k → scOp (fed s k) o 0 = .ok e → scOp (fed s k) o 1 = .ok j → scOp (fed s k) o 2 = .ok lo →
    scOp (fed s k) o 3 = .ok aff → scVal o = .ok hi → e.extractLsb' 0 2 = 0#2 → e.extractLsb' 52 12 = 0#12 →
    spawnJoin (fed s k) o j = .ok home → gating k = false → findWp s k.wp = some w →
    freeWpid (fed s k) k.wp.launch = some id → (∀ x ∈ s.cmds, x.wp ≠ k.wp) →
    (∀ d, l.levels[w.level + 1]? = some d →
      let top := min hi.toNat (min d.extent (lo.toNat + 65536))
      (lo.toNat < top → l.ending ≠ .running → ∃ t, exec (.brSpawn m) s = .next t ∧ findWp t ⟨k.wp.launch, id⟩ = none) ∧
      (lo.toNat < top → l.ending = .running → ∃ t w', exec (.brSpawn m) s = .next t ∧ t.waypoints.getLast? = some w' ∧
        w'.key = ⟨k.wp.launch, id⟩ ∧ w'.state = .ready ∧ w'.range = true ∧ w'.resume = e.toNat ∧ w'.level = w.level + 1 ∧
        w'.lo = lo.toNat ∧ w'.hi = top ∧ w'.prio = l.prio ∧ w'.aff = aff.toNat % 2 ∧ w'.anchorDie = c / 48 ∧ w'.anchorCore = c % 48 ∧
        w'.join = BitVec.ofNat 47 (refVa j / 32) ∧ w'.sval = (List.range 4).map (fun i => scalarAt k (i + 1)) ∧
        w'.parent = k.wp.wpid ∧ (coreOf t c).mode = k.mode ∧ (coreOf t c).pc = k.pc ∧
        (home = none → t.mem = s.mem) ∧
        (∀ a, home = some a → forwardTo (fed s k) a = some a → poisonIn s a 8 = false →
          dramNat t a 8 = (dramNat s a 8 + (top - lo.toNat)) % 2 ^ 64)) ∧
      (top ≤ lo.toNat → exec (.brSpawn m) s = .next (spent c m (fed s k)))) ∧
    (l.levels[w.level + 1]? = none → exec (.brSpawn m) s = .next (spent c m (fed s k)))

/-- R317, R318. TRAP takes trap TRAP with its operand in k.trapi. SYS logs, fires a Sighting or aborts the launch; another service takes
PRIVILEGE. Where the spec leaves a choice the clauses are the model's own (log 48). -/
def Obligations.TrapsAndServices : Prop :=
  ∀ (m : MoveF) (s : State) (v : PVal) (k : Core) (a x : Word),
    let o := issued s 0xB1E#12 m v
    let svc := x.toNat % 2 ^ 16
    (Feeds s 0xB1D#12 m v k → scVal (issued s 0xB1D#12 m v) = .ok x → traps (.brTrap m) s 0x0070#16 x) ∧
    (Feeds s 0xB1E#12 m v k → scOp (fed s k) o 0 = .ok a → scVal o = .ok x → gating k = false →
      (svc = 0 → ∃ t e, exec (.brSys m) s = .next t ∧ t.mgmt.log.getLast? = some e ∧ e.cls = 4 ∧ e.die = s.cur / 48 ∧
        e.launch = k.wp.launch ∧ e.detail = a.toNat ∧ t.mgmt.logNext = s.mgmt.logNext + 1 ∧ t.out = s.out ++ [.msix 65]) ∧
      (svc = 1 → exec (.brSys m) s = .next (spent s.cur m (sightTrigger (fed s k) (s.chron + 128) 1))) ∧
      (svc = 2 → (findLaunch s k.wp.launch).isSome = true → ∃ t, exec (.brSys m) s = .next t ∧
        (launchOf t k.wp.launch).ending ≠ .running) ∧
      (2 < svc → traps (.brSys m) s 0x0008#16 0xB1E#64))

/-- R175, R190. A precise trap that is no machine check, of a program with a handler: k.trapc, k.trapi and k.epc name it, k.rpi and k.mxs
the repetition and the step of the bundle, every earlier execution has retired, the core stands at the handler in handler mode, an open
region is frozen, the record says FAULTED at the bundle; every other register holds what it held. R115, R190. A precise trap in handler
mode, or of a launch without a handler, ends the waypoint FAULTED at its bundle: its handles are released, the core is free, the launch
counts it and, if it is the first, reports its code, waypoint and address. Where the spec leaves a choice the clauses are the model's own
(log 27). -/
def Obligations.TrapEntry : Prop :=
  (∀ (s : State) (c : Nat) (code : BitVec 16) (info : Word) (w : Waypoint),
     let k := coreOf s c
     let t := takeTrap s c { code := code, info := info }
     let k' := coreOf t c
     isMachineCheck code = false → k.hm = false → (coreLaunch s c).traph ≠ 0 → findWp s k.wp = some w →
     k'.trapc = code.zeroExtend 64 ∧ k'.trapi = info ∧ k'.epc = BitVec.ofNat 64 k.pc ∧ k'.rpi = BitVec.ofNat 64 k.rep ∧
     k'.mxs = BitVec.ofNat 64 k.seqStep ∧ k'.hm = true ∧ k'.mode = .running ∧ k'.pc = (coreLaunch s c).traph ∧ k'.rep = 0 ∧
     k'.seqStep = 0 ∧ k'.frozen = k.region.isSome ∧ k'.region = k.region ∧ k'.window = [] ∧ k'.wp = k.wp ∧ k'.hs = k.hs ∧
     (∀ key, valueAt k' key = valueAt k key) ∧
     (∃ w', findWp t k.wp = some w' ∧ w'.state = .faulted ∧ w'.resume = k.pc) ∧
     t.mem = s.mem ∧ k'.spad = k.spad ∧ k'.opd = k.opd) ∧
  (∀ (s : State) (c : Nat) (code : BitVec 16) (info : Word) (w : Waypoint) (l : Launch),
     let k := coreOf s c
     let t := takeTrap s c { code := code, info := info }
     isMachineCheck code = false → (k.hm = true ∨ l.traph = 0) → findLaunch s k.wp.launch = some l →
     findWp s k.wp = some w →
     (coreOf t c).mode = .idle ∧ (coreOf t c).hm = false ∧
     (∀ c' h hd, handleOf t c' h = some hd → hd.owner ≠ k.wp) ∧
     (∀ l', findLaunch t k.wp.launch = some l' → l'.nfault = l.nfault + 1 ∧ l'.everFaulted = true ∧
       l'.fcode = (if l.everFaulted then l.fcode else code.toNat) ∧ l'.fwaypt = (if l.everFaulted then l.fwaypt else k.wp.wpid) ∧
       l'.faddr = (if l.everFaulted then l.faddr else k.pc)) ∧
     (∀ w', findWp t k.wp = some w' → w'.state = .faulted ∧ w'.resume = k.pc ∧ w'.frame = none))

/-- R191, R319. RFE in handler mode, where a bundle starts at the address it goes to: the resume form stands the core at k.epc, repetition
k.rpi and step k.mxs with a frozen region open again; the rollback form restores the shadowed state and stands the core at the region's
mark, repetition 0, the region gone. Outside handler mode it takes PRIVILEGE. Where the spec leaves a choice the clauses are the model's
own (log 46). -/
def Obligations.HandlerReturn : Prop :=
  ∀ (m : MoveF) (s : State) (v : PVal) (k : Core) (x : Word) (w : Waypoint),
    let c := s.cur
    Feeds s 0xB1F#12 m v k → scVal (issued s 0xB1F#12 m v) = .ok x → findWp s k.wp = some w →
    (k.hm = false → traps (.brRfe m) s 0x0008#16 0xB1F#64) ∧
    (k.hm = true → (x.getLsbD 0 = false ∨ k.region = none) → (∃ h, fetchWord (fed s k) c k.epc.toNat = .ok h ∧ h.getLsbD 31 = true) →
      ∃ t, exec (.brRfe m) s = .next t ∧ (coreOf t c).hm = false ∧ (coreOf t c).pc = k.epc.toNat ∧
        (coreOf t c).rep = k.rpi.toNat ∧ (coreOf t c).seqStep = k.mxs.toNat ∧ (coreOf t c).frozen = false ∧
        (coreOf t c).region = k.region ∧ (∀ key, valueAt (coreOf t c) key = valueAt k key) ∧ t.mem = s.mem ∧
        ∃ w', findWp t k.wp = some w' ∧ w'.state = .running ∧ w'.resume = k.epc.toNat) ∧
    (∀ r, k.hm = true → x.getLsbD 0 = true → k.region = some r →
      (∃ h, fetchWord (fed s k) c r.mark = .ok h ∧ h.getLsbD 31 = true) → (∀ y ∈ s.cmds, y.wp ≠ k.wp) →
      ∃ t, exec (.brRfe m) s = .next t ∧ (coreOf t c).hm = false ∧ (coreOf t c).pc = r.mark ∧ (coreOf t c).rep = 0 ∧
        (coreOf t c).region = none ∧ (coreOf t c).sc = r.shadow.sc ∧ (coreOf t c).pr = r.shadow.pr ∧
        (coreOf t c).ma = r.shadow.ma ∧ (coreOf t c).lc = r.shadow.lc ∧ (coreOf t c).ec = r.shadow.ec ∧
        (coreOf t c).flg = r.shadow.flg ∧ (coreOf t c).ve = k.ve ∧ (coreOf t c).tiles = k.tiles ∧ (coreOf t c).spad = k.spad ∧
        t.mem = s.mem)

/-- R182 to R184, R187. Opening a region takes the shadow and a new tag and names its mark; closing it performs its gated effects in
program order and leaves the registers; RollBack restores the shadow, forgets the gated effects, and leaves v registers, tiles and
storage. While a region is open an effect is held, and nothing but the gate changes; a 65th line takes GATE_OVERFLOW. Where the spec
leaves a choice the clauses are the model's own (log 29). -/
def Obligations.Regions : Prop :=
  ∀ (s : State) (c : Nat),
    let k := coreOf s c
    (∀ a, k.region = none →
      let k' := coreOf (openRegion s c a) c
      ∃ r, k'.region = some r ∧ r.mark = a ∧ r.gate = [] ∧ r.tag = k.tags + 1 ∧ k'.tags = k.tags + 1 ∧ r.shadow.sc = k.sc ∧
        r.shadow.pr = k.pr ∧ r.shadow.ma = k.ma ∧ r.shadow.lc = k.lc ∧ r.shadow.ec = k.ec ∧ r.shadow.flg = k.flg ∧
        (∀ key, valueAt k' key = valueAt k key) ∧ (openRegion s c a).mem = s.mem) ∧
    (∀ r, k.region = some r → k.frozen = false → closeRegion s c = performAll (setCore s c { k with region := none }) r.gate) ∧
    (∀ r, k.region = some r → (∀ y ∈ s.cmds, y.wp ≠ k.wp) →
      let k' := coreOf (rollBack s c) c
      k'.region = none ∧ k'.sc = r.shadow.sc ∧ k'.pr = r.shadow.pr ∧ k'.ma = r.shadow.ma ∧ k'.rv = r.shadow.rv ∧
        k'.rs = r.shadow.rs ∧ k'.rp = r.shadow.rp ∧ k'.lc = r.shadow.lc ∧ k'.ec = r.shadow.ec ∧ k'.flg = r.shadow.flg ∧
        k'.ty = r.shadow.ty ∧ k'.dv = r.shadow.dv ∧ k'.dm = r.shadow.dm ∧ k'.sd = r.shadow.sd ∧ k'.pc = r.mark ∧ k'.rep = 0 ∧
        k'.ve = k.ve ∧ k'.tiles = k.tiles ∧ k'.spad = k.spad ∧ k'.opd = k.opd ∧ (rollBack s c).mem = s.mem) ∧
    (∀ r e, k.region = some r → k.frozen = false → k.hm = false →
      (gateLines s (gateAdd r.gate e) ≤ 64 →
        effect s c e = .ok (setCore s c { k with region := some { r with gate := gateAdd r.gate e } })) ∧
      (64 < gateLines s (gateAdd r.gate e) → effect s c e = .error (.trap { code := 0x0015#16, info := 0#64 }))) ∧
    (∀ e, k.region = none → effect s c e = .ok (performEff s e))

/-! ## RG -/

/-- R196, R397, R398. HALLOC of a shape that fits takes the lowest banks held by no handle for the waypoint, every line zero and FULL, and
gives the reference to the handle's start; BAD_SHAPE, IN_USE and NO_BANKS in that order change nothing but b.rg. HFREE of a handle of the
waypoint that no command uses releases it; another's takes FOREIGN_HANDLE, an unallocated one HANDLE_BOUNDS. R399, R400. HINFO gives the
entry of a handle of the waypoint, bit 15 alone for another's, zero for an unallocated one; CAP the quantity of its selector, zero from 8
up. Neither traps. -/
def Obligations.Handles : Prop :=
  (∀ (m : MoveF) (s : State) (v : PVal) (k : Core) (h rows cols ctl : Word),
     let c := s.cur
     let o := issued s 0xC10#12 m v
     let n := h.toNat % 256
     let lv : Level := if ctl.getLsbD 4 then .opd else .spad
     let bank := if ctl.getLsbD 4 then 65536 else 4096
     let ty := ctl.extractLsb' 8 4
     let pitch := (cols.toNat * typeBits ty.toNat + 1023) / 1024 * 128
     let size := rows.toNat * pitch
     let nb := (size + bank - 1) / bank
     let bad := rows.toNat = 0 ∨ 65535 < rows.toNat ∨ cols.toNat = 0 ∨ 65535 < cols.toNat ∨ 2 ^ 24 < size
     let gives (w : Word) : Prop := exec (.rgHalloc m) s = .next (spent c m (variableResult (fed s k) o w))
     let place (tag : BitVec 4) (x : Nat) : Word := tag ++ BitVec.ofNat 6 (c % 48) ++ BitVec.ofNat 8 x ++ 0#46
     (Feeds s 0xC10#12 m v k → scOp (fed s k) o 0 = .ok h → scOp (fed s k) o 1 = .ok rows → scOp (fed s k) o 12 = .ok ctl →
       scVal o = .ok cols → gating k = false →
       (bad → gives 0xF000000000000003#64) ∧
       (¬bad → (Map.find k.handles n).isSome = true → gives 0xF000000000000002#64) ∧
       (¬bad → Map.find k.handles n = none → (freeBanks k lv).length < nb → gives 0xF000000000000001#64) ∧
       (¬bad → Map.find k.handles n = none → nb ≤ (freeBanks k lv).length → ∃ t hd, exec (.rgHalloc m) s = .next t ∧
         handleOf t c n = some hd ∧ hd.owner = k.wp ∧ hd.level = lv ∧ hd.ty = ty ∧ hd.rows = rows.toNat ∧ hd.cols = cols.toNat ∧
         hd.banks = (freeBanks k lv).take nb ∧ OnlyCore c s t ∧
         (∀ j, j < size → byteOf (coreOf t c) hd j = 0#8) ∧ (∀ j, 128 * j < size → lineState (coreOf t c) hd j = .full) ∧
         (∀ x, x ≠ n → handleOf t c x = handleOf s c x) ∧
         RegsKept [resultKey 12] k (coreOf t c) ∧
         valueAt (coreOf t c) (resultKey 12) = .sc (place (if ctl.getLsbD 4 then 4#4 else 1#4) n))) ∧
     (∀ x : Word, let n := x.toNat % 256
       Feeds s 0xC11#12 m v k → scVal (issued s 0xC11#12 m v) = .ok x →
       (Map.find k.handles n = none → traps (.rgHfree m) s 0x0013#16 (place 1#4 n)) ∧
       (∀ hd, Map.find k.handles n = some hd → hd.owner ≠ k.wp → traps (.rgHfree m) s 0x0011#16 (place 1#4 n)) ∧
       (∀ hd, Map.find k.handles n = some hd → hd.owner = k.wp → gating k = false → handleBusy (fed s k) c n = false →
         ∃ t, exec (.rgHfree m) s = .next t ∧ handleOf t c n = none ∧ (∀ y, y ≠ n → handleOf t c y = Map.find k.handles y) ∧
           RegsKept [] k (coreOf t c) ∧ t.mem = s.mem))) ∧
  (∀ (m : MoveF) (s : State) (v : PVal) (k : Core) (x : Word),
     let c := s.cur
     let info (w : Word) : Prop := exec (.rgHinfo m) s = .next (spent c m (variableResult (fed s k) (issued s 0xC12#12 m v) w))
     (Feeds s 0xC12#12 m v k → scVal (issued s 0xC12#12 m v) = .ok x →
       (Map.find k.handles (x.toNat % 256) = none → info 0#64) ∧
       ∀ hd, Map.find k.handles (x.toNat % 256) = some hd →
         (hd.owner ≠ k.wp → info 0x8000#64) ∧
         (hd.owner = k.wp → info (1#1 ++ (if hd.level = .opd then 1#1 else 0#1) ++ hd.ty ++ BitVec.ofNat 10 hd.banks.length ++
           BitVec.ofNat 16 hd.rows ++ BitVec.ofNat 16 hd.cols ++ 0#16))) ∧
     (Feeds s 0xC13#12 m v k → scVal (issued s 0xC13#12 m v) = .ok x →
       let own (lv : Level) : Nat := banksOf (fed s k) c lv k.wp
       let amount := match x.toNat % 16 with
         | 0 => capacity k .spad
         | 1 => capacity k .opd
         | 2 => capVreg k
         | 3 => capTiles k
         | 4 => (freeBanks k .spad).length
         | 5 => (freeBanks k .opd).length
         | 6 => own .spad
         | 7 => own .opd
         | _ => 0
       exec (.rgCap m) s = .next (spent c m (variableResult (fed s k) (issued s 0xC13#12 m v) (BitVec.ofNat 64 amount)))))

/-- R58, R401, R402. WAITF of a granted flag gives its status once it is SET, clearing it under .clr, and waits before and in
pass-through; POST sets the flag, CLR clears it, and both answer 0, or 9 in pass-through; a flag that is not granted gives 8 and changes
nothing. R403, R404, R425. ALM writes its entry, with the stream's id in bits [50:41], at the stream's direction, lane and the position,
with n = 0; under .strm it writes the stream's row. A stream index beyond the launch's, a CHAIN stream, a station in pass-through, a
position that is not the stream's and a flag that is not granted take ALMANAC_OWNER with the index. Where the spec leaves a choice the
clauses are the model's own (log 40). -/
def Obligations.FlagsAndAlmanac : Prop :=
  (∀ (m : MoveF) (s : State) (v : PVal) (k : Core) (ctl x : Word),
     let c := s.cur
     let st := if ctl.getLsbD 0 then 16 else if ctl.getLsbD 1 then 2 * (c / 48) + 1 else 2 * (c / 48)
     let f := x.toNat % 64
     let granted := flagGranted (coreLaunch (fed s k) c) st f = true
     let ready (d : BitVec 12) : Prop :=
       Feeds s d m v k ∧ scOp (fed s k) (issued s d m v) 12 = .ok ctl ∧ scVal (issued s d m v) = .ok x ∧
         (fenceIds (fed s k) c 5).isEmpty = true
     let gives (i : Instr) (d : BitVec 12) (t : State) (w : Word) : Prop :=
       exec i s = .next (spent c m (variableResult t (issued s d m v) w))
     (ready 0xC14#12 →
       (¬granted → gives (.rgWaitf m) 0xC14#12 (fed s k) 8#64) ∧
       (granted → (station s st).passThrough = true ∨ (flagOf s st f).set = false →
         exec (.rgWaitf m) s = .next (modCore s c fun k => { k with stalls := [] })) ∧
       (granted → (station s st).passThrough = false → (flagOf s st f).set = true → ∃ t,
         exec (.rgWaitf m) s = .next (spent c m t) ∧
         coreOf t c = coreOf (variableResult (fed s k) (issued s 0xC14#12 m v) (BitVec.ofNat 64 (flagOf s st f).status)) c ∧
         (ctl.getLsbD 2 = false → ∀ a b, flagOf t a b = flagOf s a b) ∧
         (ctl.getLsbD 2 = true → flagOf t st f = {} ∧ ∀ a b, ¬(a = st ∧ b = f) → flagOf t a b = flagOf s a b))) ∧
     (ready 0xC15#12 → gating k = false →
       (¬granted → gives (.rgPost m) 0xC15#12 (fed s k) 8#64) ∧
       (granted → (station s st).passThrough = true → gives (.rgPost m) 0xC15#12 (fed s k) 9#64) ∧
       (granted → (station s st).passThrough = false → ∃ t, gives (.rgPost m) 0xC15#12 t 0#64 ∧ t.cores = (fed s k).cores ∧
         flagOf t st f = { set := true, status := (flagOf s st f).status } ∧
         ∀ a b, ¬(a = st ∧ b = f) → flagOf t a b = flagOf s a b)) ∧
     (ready 0xC16#12 → gating k = false →
       (¬granted → gives (.rgClr m) 0xC16#12 (fed s k) 8#64) ∧
       (granted → (station s st).passThrough = true → gives (.rgClr m) 0xC16#12 (fed s k) 9#64) ∧
       (granted → (station s st).passThrough = false → ∃ t, gives (.rgClr m) 0xC16#12 t 0#64 ∧ t.cores = (fed s k).cores ∧
         flagOf t st f = {} ∧ ∀ a b, ¬(a = st ∧ b = f) → flagOf t a b = flagOf s a b))) ∧
  (∀ (m : MoveF) (s : State) (v : PVal) (k : Core) (i p ctl e : Word),
     let c := s.cur
     let o := issued s 0xC17#12 m v
     let j := i.toNat % 32
     let pos := p.toNat % 64
     let xs := (coreLaunch (fed s k) c).streams
     let refused (ins : Instr) : Prop := traps ins s 0x0042#16 (BitVec.ofNat 64 j)
     let st (x : StreamReq) : Nat :=
       if x.ring = .equator then 16 else if ctl.getLsbD 1 then 2 * (c / 48) + 1 else 2 * (c / 48)
     Feeds s 0xC17#12 m v k → scOp (fed s k) o 0 = .ok i → scOp (fed s k) o 1 = .ok p → scOp (fed s k) o 12 = .ok ctl →
     scVal o = .ok e → (fenceIds (fed s k) c 5).isEmpty = true →
     (xs[j]? = none → refused (.rgAlm m) ∧ refused (.rgAlmStrm m)) ∧
     ∀ x, xs[j]? = some x →
       ((x.chain = true ∨ (station s (st x)).passThrough = true) → refused (.rgAlm m) ∧ refused (.rgAlmStrm m)) ∧
       (x.chain = false → (station s (st x)).passThrough = false → ctl.getLsbD 3 = false →
         (x.pos.getLsbD pos = false ∨ e.getLsbD 57 = true ∧ streamFlag x (st x) (e.extractLsb' 51 6).toNat = false) →
         refused (.rgAlm m)) ∧
       (x.chain = false → (station s (st x)).passThrough = false → ctl.getLsbD 3 = false → gating k = false →
         x.pos.getLsbD pos = true → (e.getLsbD 57 = true → streamFlag x (st x) (e.extractLsb' 51 6).toNat = true) →
         e &&& ~~~(0x3FF#64 <<< 41) ≠ 0#64 → x.lane < 8 → ∃ t, exec (.rgAlm m) s = .next t ∧
           entryAt t (st x) ((if x.dir = .west then 512 else 0) + x.lane * 64 + pos) =
             { word := e.extractLsb' 51 13 ++ BitVec.ofNat 10 x.id ++ e.extractLsb' 0 41, n := 0,
               launch := (coreLaunch (fed s k) c).id } ∧ t.mem = s.mem ∧ RegsKept [] k (coreOf t c)) ∧
       (x.chain = false → (station s (st x)).passThrough = false → gating k = false →
         ∃ t, exec (.rgAlmStrm m) s = .next t ∧ (ctl.getLsbD 3 = true → exec (.rgAlm m) s = .next t) ∧
           rowOf t (st x) x.id = { exp := e.extractLsb' 0 16, cvt := e.getLsbD 16 } ∧ t.mem = s.mem ∧
           RegsKept [] k (coreOf t c)))

/-- R222, R405, R408. XFENCE with commands outstanding on A's paths holds the accesses on B's, without waiting; with none, or an empty B,
it adds nothing. DRAIN passes. STEP and BAR at a level without synchronisation pass once nothing of the waypoint is in progress, STEP with
b.rg zero; at a synchronising level a member whose barrier has ended passes, STEP with the overflow bits, and one that has arrived before
the end waits with its arrival recorded. Where the spec leaves a choice the clauses are the model's own (log 30, 38). -/
def Obligations.FencesAndBarriers : Prop :=
  ∀ (m : MoveF) (s : State) (v : PVal) (k : Core) (a b x : Word) (w : Waypoint),
    let c := s.cur
    let ids := outstanding (fed s k) c (a.setWidth 7)
    let live := k.fences.filter fun f => f.1.any (liveId (fed s k))
    let bar := barrierOf (fed s k) (groupOf w)
    (Feeds s 0xC1A#12 m v k → scOp (fed s k) (issued s 0xC1A#12 m v) 0 = .ok a → scVal (issued s 0xC1A#12 m v) = .ok b →
      gating k = false →
      ((ids = [] ∨ b.setWidth 7 = 0#7) → exec (.rgXfence m) s = .next (spent c m (fed s { k with fences := live }))) ∧
      (ids ≠ [] → b.setWidth 7 ≠ 0#7 →
        exec (.rgXfence m) s = .next (spent c m (fed s { k with fences := live ++ [(ids, b.setWidth 7)] })))) ∧
    (Feeds s 0xC1B#12 m v k → scVal (issued s 0xC1B#12 m v) = .ok x → gating k = false →
      exec (.rgDrain m) s = .next (spent c m (fed s k))) ∧
    (findWp s k.wp = some w → gating k = false →
      (Feeds s 0xC18#12 m v k → scVal (issued s 0xC18#12 m v) = .ok x →
        (levelSteps (fed s k) w = false → (∀ y ∈ s.cmds, y.wp ≠ w.key) → k.flight = [] → runningCalls k = [] →
          exec (.rgStep m) s = .next (spent c m (variableResult (fed s k) (issued s 0xC18#12 m v) 0#64))) ∧
        (levelSteps (fed s k) w = true → w.key.wpid ∉ bar.mismatch → w.key.wpid ∈ bar.release → bar.trap = none →
          exec (.rgStep m) s = .next (spent c m
            (variableResult (leaveBarrier (fed s k) w.key) (issued s 0xC18#12 m v) (bar.ovf.zeroExtend 64)))) ∧
        (levelSteps (fed s k) w = true → w.key.wpid ∈ bar.mismatch → traps (.rgStep m) s 0x0043#16 1#64)) ∧
      (Feeds s 0xC19#12 m v k → scVal (issued s 0xC19#12 m v) = .ok x →
        (levelSteps (fed s k) w = false → exec (.rgBar m) s = .next (spent c m (fed s k))) ∧
        (levelSteps (fed s k) w = true → w.key.wpid ∉ bar.mismatch → w.key.wpid ∈ bar.release → bar.trap = none →
          exec (.rgBar m) s = .next (spent c m (leaveBarrier (fed s k) w.key))) ∧
        (levelSteps (fed s k) w = true → w.key.wpid ∈ bar.mismatch → traps (.rgBar m) s 0x0043#16 0#64) ∧
        (levelSteps (fed s k) w = true → w.key.wpid ∉ bar.mismatch → w.key.wpid ∉ bar.release →
          exec (.rgBar m) s = .next (arriveAt s w false))))

/-- R90, R410. COLL.load of a readable plan gives 3 for a plan that R90 forbids, 8 for one that breaks a condition of R410, 9 while a call
of the slot has not ended, 2 for a poisoned plan, and else keeps the plan in the slot with call sequence number 0 and gives 0; COLL.drop
empties the slot, or gives 9. COLL with the form in o12 does as its form. R411, R415, R416. COLL of an empty slot gives code 8, while a
call of the slot has not ended 9; else, its buffers sound, a call starts, detached, under the next sequence number, which b.rg receives.
COLL.resume gives 10 where the last call did not end with a status other than OK, and else restarts it under its own number with its
progress. CWAIT waits for the slot's call, gives its number, progress and status, and takes COLLECTIVE_MISMATCH the first time for a call
ended by ABORT. Where the spec leaves a choice the clauses are the model's own (log 39). -/
def Obligations.CollectiveOperations : Prop :=
  (∀ (m : MoveF) (s : State) (v : PVal) (k : Core) (x r ctl : Word) (i : Instr) (p : Target),
     let c := s.cur
     let o := issued s 0xC1C#12 m v
     let l := coreLaunch (fed s k) c
     let n := x.toNat % 8
     let busy := slotBusy (planSlot (fed s k) c n) = true
     let form (f : Nat) (j : Instr) : Prop := i = j ∨ i = .rgColl m ∧ scOp (fed s k) o 12 = .ok ctl ∧ ctl.toNat / 2 ^ 12 % 4 = f
     let gives (w : Word) : Prop := exec i s = .next (spent c m (variableResult (fed s k) o w))
     let word (bs : List Byte) (j : Nat) : Nat := ofBytes ((bs.drop (8 * j)).take 8)
     Feeds s 0xC1C#12 m v k → scVal o = .ok x → gating k = false →
     (form 3 (.rgCollDrop m) →
       (busy → gives 9#64) ∧
       (¬busy → exec i s = .next (spent c m
         (variableResult (modCore (fed s k) c fun k => { k with plans := Map.erase k.plans n }) o 0#64)))) ∧
     (form 1 (.rgCollLoad m) → scOp (fed s k) o 0 = .ok r → (fenceIds (fed s k) c 2).isEmpty = true →
       checkRef (fed s k) c r 16 1 [0] = .ok p →
       (∀ a, readVaRange (fed s k) { core := c } l (refVa r) 16 = .poison a → gives 2#64) ∧
       ∀ hd bs, let nc := word hd 0 / 2 ^ 24 % 256 + 1
         let plan := planOf (word hd 0) (word hd 1) ((List.range nc).map fun j => (word bs (2 * j), word bs (2 * j + 1)))
         readVaRange (fed s k) { core := c } l (refVa r) 16 = .data hd →
         readVaRange (fed s k) { core := c } l (refVa r + 16) (16 * nc) = .data bs →
         let foreign := planForeign (fed s k) l plan.1 = true
         let bad := planBad l plan.1 plan.2 = true
         (foreign → gives 3#64) ∧ (¬foreign → bad → gives 8#64) ∧ (¬foreign → ¬bad → busy → gives 9#64) ∧
         (¬foreign → ¬bad → ¬busy → exec i s = .next (spent c m (variableResult (modCore (fed s k) c fun k =>
           { k with plans := Map.set k.plans n { launch := l.id, plan := plan.1, nextSeq := 0#16, call := none } }) o 0#64))))) ∧
  (∀ (m : MoveF) (s : State) (v : PVal) (k : Core) (x src dst scr n ctl : Word) (i : Instr) (resume : Bool),
     let c := s.cur
     let p := x.toNat % 8
     (let o := issued s 0xC1C#12 m v;
       let gives (code : Nat) (seq : BitVec 16) : Prop :=
         exec i s = .next (spent c m (variableResult (fed s k) o (BitVec.ofNat 64 (code * 2 ^ 16 + seq.toNat))))
       Feeds s 0xC1C#12 m v k → scVal o = .ok x → scOp (fed s k) o 0 = .ok src → scOp (fed s k) o 1 = .ok dst →
       scOp (fed s k) o 2 = .ok scr → scOp (fed s k) o 3 = .ok n → gating k = false → (fenceIds (fed s k) c 5).isEmpty = true →
       (i = .rgCollResume m ∧ resume = true ∨ i = .rgColl m ∧ scOp (fed s k) o 12 = .ok ctl ∧
         ctl.toNat / 2 ^ 12 % 4 = (if resume then 2 else 0)) →
       (planSlot (fed s k) c p = none → gives 8 0#16) ∧
       ∀ sl, planSlot (fed s k) c p = some sl →
         let running := slotBusy (some sl) = true
         let again := ∃ q, sl.call = some q ∧ q.status ≠ 0
         (running → gives 9 sl.nextSeq) ∧
         (¬running → resume = true → ¬again → gives 10 sl.nextSeq) ∧
         (¬running → (resume = true → again) → checkBuffers (fed s k) c sl.plan src dst scr = .ok () →
           let seq := if resume then sl.nextSeq else sl.nextSeq + 1
           ∃ u q, exec i s = .next (spent c m u) ∧ OnlyCore c { s with nextCmd := s.nextCmd + 1 } u ∧
             planSlot u c p = some { sl with nextSeq := seq, call := some q } ∧ q.id = s.nextCmd ∧ q.seq = seq ∧ q.running = true ∧
             q.resume = resume ∧ q.src = src ∧ q.dst = dst ∧ q.scr = scr ∧ q.count = n.toNat % 2 ^ 40 ∧ q.merged = false ∧
             q.started = false ∧ q.armed = [] ∧ q.done = (if resume then sl.call.elim [] fun q => q.done else []) ∧
             RegsKept [resultKey 12] k (coreOf u c) ∧ valueAt (coreOf u c) (resultKey 12) = .sc (seq.setWidth 64))) ∧
     (let o := issued s 0xC1D#12 m v;
       let gives (w : Word) : Prop := exec (.rgCwait m) s = .next (spent c m (variableResult (fed s k) o w))
       Feeds s 0xC1D#12 m v k → scVal o = .ok x →
       (planSlot (fed s k) c p = none → gives 0#64) ∧
       ∀ sl, planSlot (fed s k) c p = some sl →
         (sl.call = none → gives 0#64) ∧
         ∀ q, sl.call = some q →
           (q.running = true → waits (.rgCwait m) s) ∧
           (q.running = false → q.status = 8 → q.trapTaken = false →
             exec (.rgCwait m) s = .next (takeTrap s c { code := 0x0041#16, info := q.seq.setWidth 64, slot := some p })) ∧
           (q.running = false → (q.status = 8 → q.trapTaken = true) →
             gives (BitVec.ofNat 64 (q.seq.toNat * 2 ^ 32 + progressOf sl.plan q * 2 ^ 16 + q.status)))))

/-! ## MX -/

/-- R247 to R250, R350, R360 to R362, R365, R367. TID copies a sound entry of the launch's table and takes REF_INVALID for one that is
not; MODE and ZERO clear the tiles of their mask, SETE moves the selected rows of a W tile to another exponent or takes ACC_HEADROOM with
the lowest row that has no room, NRM normalises rows; WAIT passes once nothing is in flight or reserved; SOUND passes where the checksum
is the expected one and takes the machine check where it is not. R251, R258, R363, R364, R366. RD converts a register's worth of rows of a
tile that is at rest into DV and b.mx, and takes ACC_BUSY or waits for one that is not; WR writes whole rows at the row's exponent, or
takes ACC_HEADROOM; BLD stores its vector in the operand die. Where the spec leaves a choice the clauses are the model's own (log 34, 35).
-/
def Obligations.MatrixTiles : Prop :=
  (∀ (m : MoveF) (s : State) (v : PVal) (k : Core) (x y z : Word),
     let c := s.cur
     let l := coreLaunch (fed s k) c
     let own (mask : Nat) : Prop := mask / 2 ^ l.acct = 0
     let bits (w : Word) (n : Nat) : List Nat := (List.range n).filter fun i => w.getLsbD i
     let o (d : BitVec 12) : OpIn := issued s d m v
     (Feeds s 0x810#12 m v k → scVal (o 0x810#12) = .ok x →
       (l.tidt = 0 → traps (.mxTid m) s 0x0010#16 0#64) ∧
       ∀ bs, l.tidt ≠ 0 → (fenceIds (fed s k) c 2).isEmpty = true →
         readVaRange (fed s k) { core := c } l (l.tidt + 32 * (x.toNat % 256)) 32 = .data bs →
         let e : BitVec 256 := BitVec.ofNat 256 (ofBytes bs)
         let t := tensorOf e
         let copied (s1 : State) : Prop := exec (.mxTid m) s =
           .next (spent c m (modCore s1 c fun k => { k with tids := Map.set k.tids (x.toNat % 256) e }))
         (t.sound = false → traps (.mxTid m) s 0x0010#16 t.base) ∧
         (t.sound = true → t.scaled = false → copied (fed s k)) ∧
         ∀ f s1, t.sound = true → t.scaled = true → idCopy (fed s k) c t.sct = .ok (f, s1) →
           (t.scaleFits (tensorOf f) = true → copied s1) ∧
           (t.scaleFits (tensorOf f) = false → traps (.mxTid m) s 0x0010#16 t.base)) ∧
     (Feeds s 0x811#12 m v k → scOp (fed s k) (o 0x811#12) 0 = .ok x → scVal (o 0x811#12) = .ok y →
       (¬own (x.toNat % 2 ^ 16) → traps (.mxMode m) s 0x0005#16 (moveInfo 0 0x811#12)) ∧
       (own (x.toNat % 2 ^ 16) → y.toNat % 4 = 1 → x.toNat % 2 ^ 12 ≠ 0 →
         traps (.mxMode m) s 0x0006#16 (BitVec.ofNat 64 (0x811 * 256 + 1))) ∧
       (own (x.toNat % 2 ^ 16) → (y.toNat % 4 = 1 → x.toNat % 2 ^ 12 = 0) → anyReserved k (x.toNat % 2 ^ 16) = false →
         TileWrite (.mxMode m) m s k (bits x 16)
           (fun _ t => t = { mode := match y.toNat % 4 with | 0 => .W | 1 => .F | 2 => .I32 | _ => .I64 }) flNone)) ∧
     (Feeds s 0x812#12 m v k → scVal (o 0x812#12) = .ok x → own (x.toNat % 2 ^ 16) → anyReserved k (x.toNat % 2 ^ 16) = false →
       TileWrite (.mxZero m) m s k (bits x 16) (fun n t => t = { mode := (tileOf k n).mode }) flNone) ∧
     (Feeds s 0x813#12 m v k → scOp (fed s k) (o 0x813#12) 0 = .ok x → scOp (fed s k) (o 0x813#12) 1 = .ok y →
       scVal (o 0x813#12) = .ok z → x.toNat % 16 < l.acct → anyReserved k (2 ^ (x.toNat % 16)) = false →
       let n := x.toNat % 16
       let t := tileOf k n
       let e := (z.setWidth 16).toInt
       let rows := if y.toNat % 2 ^ 32 = 0 then List.range 32 else bits y 32
       let shifted (i j : Nat) : Int :=
         if e ≤ t.exp i then (t.word i j).toInt * 2 ^ (t.exp i - e).toNat else (t.word i j).toInt / 2 ^ (e - t.exp i).toNat
       let room (i : Nat) : Prop := ∀ j, j < 32 → (shifted i j).natAbs < 2 ^ 44
       (t.mode ≠ .W → TileWrite (.mxSete m) m s k [] (fun _ _ => True) flNone) ∧
       (t.mode = .W → (∀ i ∈ rows, room i) → TileWrite (.mxSete m) m s k [n] (fun _ t' => t'.mode = .W ∧ ∀ i, i < 32 →
         (i ∉ rows → SameRow t t' i) ∧
         (i ∈ rows → (∀ j, j < 32 → t'.word i j = BitVec.ofInt 64 (shifted i j)) ∧ t'.exp i = e ∧ t'.guard i = t.guard i)) flNone) ∧
       (∀ i ∈ rows, t.mode = .W → ¬room i → (∀ i' ∈ rows, i' < i → room i') →
         traps (.mxSete m) s 0x0021#16 (BitVec.ofNat 64 (i * 16 + n)))) ∧
     (Feeds s 0x816#12 m v k → scOp (fed s k) (o 0x816#12) 0 = .ok x → scVal (o 0x816#12) = .ok y → x.toNat % 16 < l.acct →
       anyReserved k (2 ^ (x.toNat % 16)) = false →
       let n := x.toNat % 16
       let t := tileOf k n
       (t.mode ≠ .W → TileWrite (.mxNrm m) m s k [] (fun _ _ => True) flNone) ∧
       (t.mode = .W → TileWrite (.mxNrm m) m s k [n]
         (fun _ t' => t'.mode = .W ∧ ∀ i, i < 32 → (i ∉ bits y 32 → SameRow t t' i) ∧ (i ∈ bits y 32 → NormRow t t' i))
         (flAll ((bits y 32).map fun i => flAll ((List.range 32).map fun j => (rowValue t i j).2))))) ∧
     (Feeds s 0x81B#12 m v k →
       let busy := k.flight ≠ [] ∨ k.reserved ≠ [] ∨ ∃ y ∈ s.cmds, y.core = c ∧ y.wp = k.wp ∧ y.kind = .getm
       (¬busy → exec (.mxWait m) s = .next (spent c m (fed s k))) ∧ (busy → waits (.mxWait m) s)) ∧
     (Feeds s 0x81C#12 m v k → scOp (fed s k) (o 0x81C#12) 0 = .ok x → scOp (fed s k) (o 0x81C#12) 12 = .ok y →
       scVal (o 0x81C#12) = .ok z →
       (soundChecksum (x.setWidth 32) (y.getLsbD 8) = z → exec (.mxSound m) s = .next (spent c m (fed s k))) ∧
       (soundChecksum (x.setWidth 32) (y.getLsbD 8) ≠ z → traps (.mxSound m) s 0x0060#16 (if y.getLsbD 8 then 1#64 else 0#64)))) ∧
  (∀ (m : MoveF) (s : State) (v : PVal) (k : Core) (x r ctl : Word) (z : Vec),
     let c := s.cur
     let l := coreLaunch (fed s k) c
     let n := x.toNat % 16
     let t := tileOf k n
     let ty := ctl.toNat % 16
     let w := typeBits ty
     let rows := 128 / w
     let row := r.toNat % 32
     (let o := issued s 0x817#12 m v;
       Feeds s 0x817#12 m v k → scOp (fed s k) o 0 = .ok x → scOp (fed s k) o 12 = .ok ctl → scVal o = .ok r → n < l.acct →
       let listed := ty ∈ [0, 1, 2, 3, 4, 5, 6, 8, 10, 12]
       let out (e : Nat) : Nat × Flags := match t.mode with
         | .W => (if isFloat ty then roundFmt else roundInt) (exactScaled (t.word (row + e / 32) (e % 32)).toInt (t.exp (row + e / 32))) ty
         | .F | .I32 => convertCode 0 ty (t.word (row + e / 32) (e % 32)).toNat
         | .I64 => convertCode 6 ty (t.word (row + e / 32) (e % 32)).toNat
       (¬listed → traps (.mxRd m) s 0x0006#16 (BitVec.ofNat 64 (0x817 * 256 + ty))) ∧
       (listed → row % rows ≠ 0 → traps (.mxRd m) s 0x0009#16 (BitVec.ofNat 64 row)) ∧
       (listed → row % rows = 0 → DvInRange (fed s k) o 0 →
         (tileBusy k n = false → ∃ q : Vec,
           exec (.mxRd m) s = .next (spent c m (flagged
             (variableResult (landed (fed s k) o 0 q 0 false) o (BitVec.ofNat 64 (out 0).1)) o
             (flAll ((List.range (rows * 32)).map fun e => (out e).2)))) ∧
           ∀ e, e < rows * 32 → (laneAt w q e).toNat = (out e).1 % 2 ^ w) ∧
         (tileBusy k n = true → ctl.getLsbD 4 = true → waits (.mxRd m) s) ∧
         (tileBusy k n = true → ctl.getLsbD 4 = false →
           traps (.mxRd m) s 0x0020#16 (BitVec.ofNat 64 (oldestTileOp k * 2 ^ 16 + n))))) ∧
     (let o := issued s 0x818#12 m v;
       Feeds s 0x818#12 m v k → scOp (fed s k) o 0 = .ok x → scOp (fed s k) o 1 = .ok r → scOp (fed s k) o 12 = .ok ctl →
       veVal o = .ok z → n < l.acct →
       let listed := ty ∈ [0, 1, 2, 6, 8]
       let lane (i j : Nat) : Nat := (laneAt w z (32 * (i - row) + j)).toNat
       let wide (i j : Nat) : Option Int := aligned (t.exp i) (elemValue ty (lane i j))
       let written (i : Nat) : Prop := row ≤ i ∧ i < row + rows
       let room (i : Nat) : Prop := ∀ j, j < 32 → wide i j ≠ none
       (¬listed → traps (.mxWr m) s 0x0006#16 (BitVec.ofNat 64 (0x818 * 256 + ty))) ∧
       (listed → row % rows ≠ 0 → traps (.mxWr m) s 0x0009#16 (BitVec.ofNat 64 row)) ∧
       (listed → row % rows = 0 → anyReserved k (2 ^ n) = false →
         (t.mode = .W → (∀ i, written i → room i) → TileWrite (.mxWr m) m s k [n] (fun _ t' => t'.mode = .W ∧ ∀ i, i < 32 →
           (¬written i → SameRow t t' i) ∧
           (written i → t'.exp i = t.exp i ∧ t'.guard i = 1 ∧
             ∀ j, j < 32 → t'.word i j = BitVec.ofInt 64 ((wide i j).getD 0))) flNone) ∧
         (∀ i, t.mode = .W → written i → ¬room i → (∀ i', written i' → i' < i → room i') →
           traps (.mxWr m) s 0x0021#16 (BitVec.ofNat 64 (i * 16 + n))) ∧
         (t.mode ≠ .W →
           let conv (i j : Nat) : Nat × Flags := convertCode ty (if t.mode = .I64 then 6 else 0) (lane i j)
           TileWrite (.mxWr m) m s k [n] (fun _ t' => t'.mode = t.mode ∧ t'.exps = t.exps ∧ t'.guards = t.guards ∧
             ∀ i j, i < 32 → j < 32 → t'.word i j = if row ≤ i ∧ i < row + rows then BitVec.ofNat 64 (conv i j).1 else t.word i j)
             (flAll ((List.range (32 * rows)).map fun e => (conv (row + e / 32) (e % 32)).2))))) ∧
     (∀ (hc h off : Nat) (hd : Handle), let o := issued s 0x819#12 m v;
       Feeds s 0x819#12 m v k → scOp (fed s k) o 0 = .ok x → veVal o = .ok z → (fenceIds (fed s k) c 3).isEmpty = true →
       checkRef (fed s k) c x 512 128 [4] = .ok (.handle hc h off) → handleOf (fed s k) hc h = some hd → Sound (coreOf (fed s k) hc) hd →
       off + 512 ≤ hd.size → ∃ u, exec (.mxBld m) s = .next (spent c m u) ∧ OnlyStorage hc (fed s k) u ∧
         (∀ j, j < hd.size → byteOf (coreOf u hc) hd j =
           if off ≤ j ∧ j < off + 512 then laneAt 8 z (j - off) else byteOf (coreOf (fed s k) hc) hd j) ∧
         ∀ i, 128 * i < hd.size → lineState (coreOf u hc) hd i = lineStored (lineState (coreOf (fed s k) hc) hd i) off 512 i))

/-- R252 to R257. The sum of a tile operation. In mode W every product is taken at its row's exponent, rounded toward minus infinity, and
all are added exactly; where a product has no room or a guard would pass 2^14 nothing is added and the lowest such row is named. In mode F
the products are added in groups of 32, in mode I one by one. R354 to R356, R358, R359. MMA, MMAT and each step of SEQ: where the checks
of R356 pass and the operands can be read, the tile takes the sum; where a row has no room, ACC_HEADROOM with the row and the tile. A step
of SEQ takes the tile and the origins of its place in the sequence and the next step follows it. A tile at or above ACCT takes
ILLEGAL_DEST. Where the spec leaves a choice the clauses are the model's own (log 34, 35). -/
def Obligations.MatrixMultiply : Prop :=
  (∀ (t : Tile) (n : Nat) (a b : List (List Exact)), n ≤ 2048 → a.length ≤ 32 → b.length ≤ n →
     (∀ r ∈ a, r.length ≤ n) → (∃ w, w ≤ 32 ∧ ∀ r ∈ b, r.length = w) →
     let groups := (n + 31) / 32
     let term (i j l : Nat) : Option Int := aligned (t.exp i) (productAt a b i j l)
     let room (i : Nat) : Prop := (∀ j l, j < 32 → l < n → term i j l ≠ none) ∧ t.guard i + groups ≤ 2 ^ 14
     let codes (i j : Nat) : List Exact := (List.range n).map (productAt a b i j)
     (t.mode = .W → (∀ i, i < 32 → room i) → ∃ t', tileAdd t n a b = .ok t' ∧ t'.mode = .W ∧ ∀ i, i < 32 →
       t'.exp i = t.exp i ∧ t'.guard i = t.guard i + groups ∧
       ∀ j, j < 32 → t'.word i j = t.word i j + BitVec.ofInt 64 (((List.range n).map fun l => (term i j l).getD 0).sum)) ∧
     (∀ i, t.mode = .W → i < 32 → ¬room i → (∀ i', i' < i → room i') → tileAdd t n a b = .error i) ∧
     (t.mode ≠ .W → ∃ t', tileAdd t n a b = .ok t' ∧ t'.mode = t.mode ∧ t'.exps = t.exps ∧ t'.guards = t.guards ∧
       ∀ i j, i < 32 → j < 32 →
         (t.mode = .F → t'.word i j = BitVec.ofNat 64 ((List.range groups).foldl (fun acc g =>
           (fAdd 0 false acc (groupSum ((List.range (min 32 (n - 32 * g))).map fun l => productAt a b i j (32 * g + l)))).1)
           (t.word i j).toNat)) ∧
         (t.mode = .I32 → t'.word i j = BitVec.ofNat 64 ((codes i j).foldl
           (fun acc p => (roundFmt (exactAdd (valueOf 0 acc) p).1 0).1) (t.word i j).toNat)) ∧
         (t.mode = .I64 → t'.word i j = BitVec.ofNat 64 ((codes i j).foldl
           (fun acc p => (roundFmt (exactAdd (valueOf 6 acc) p).1 6).1) (t.word i j).toNat)))) ∧
  (∀ (m : MoveF) (s : State) (v : PVal) (k : Core) (a b batch ctl : Word) (d : BitVec 12),
     let c := s.cur
     let o := issued s d m v
     let acct := (coreLaunch (fed s k) c).acct
     let nt := ctl.toNat / 2 ^ 32 % 4 + 1
     let total := ctl.toNat / 2 ^ 34 % 4096 + 1
     let n := k.seqStep
     let kn := ctl.toNat / 16 % 4096 + 1
     let place : TileOp :=
       { tile := ctl.toNat % 16, k := kn, ta := ctl.toNat / 2 ^ 16 % 256, tb := ctl.toNat / 2 ^ 24 % 256,
         ka := a.toNat / 2 ^ 32, m0 := a.toNat % 2 ^ 32, kb := b.toNat / 2 ^ 32, n0 := b.toNat % 2 ^ 32,
         i2 := batch.toNat % 2 ^ 16, i3 := batch.toNat / 2 ^ 16 % 2 ^ 16 }
     let placed : TileOp :=
       if d = 0x81A#12 then
         { place with
             tile := place.tile + n % nt, ka := place.ka + n / nt * kn, kb := place.kb + n / nt * kn,
             n0 := place.n0 + 32 * (n % nt) }
       else place
     let i : Instr := if d = 0x814#12 then .mxMma m else if d = 0x815#12 then .mxMmat m else .mxSeq m
     let last := if d = 0x81A#12 then place.tile + nt - 1 else place.tile
     (d = 0x814#12 ∨ d = 0x815#12 ∨ d = 0x81A#12) → Feeds s d m v k → scOp (fed s k) o 0 = .ok a → scOp (fed s k) o 1 = .ok b →
     scOp (fed s k) o 2 = .ok batch → scVal o = .ok ctl → acct ≤ 16 →
     (acct ≤ last → traps i s 0x0005#16 (moveInfo 0 d)) ∧
     ∀ (tern : Bool) (e : BitVec 256) (s0 s1 : State) (x : Operands) (ra rb : List (List Exact)),
       let t := tileOf (coreOf s1 c) placed.tile
       last < acct → (fenceIds (fed s k) c 3).isEmpty = true →
       (d = 0x814#12 → tern = false ∧ s0 = fed s k) → (d = 0x815#12 → tern = true ∧ s0 = fed s k) →
       (d = 0x81A#12 → idCopy (fed s k) c placed.ta = .ok (e, s0) ∧ tern = decide ((tensorOf e).fmt = 7)) →
       checkTileOp s0 o placed tern [0, 1, 2] (tileOf k placed.tile).mode = .ok (x, s1) →
       (refTag x.a.base = 0 → fetchFailed s1 c x = none) → readOperands (coreReader s1 c) x = .ok (ra, rb) →
       (∀ row, tileAdd t kn ra rb = .error row → traps i s 0x0021#16 (BitVec.ofNat 64 (row * 16 + placed.tile))) ∧
       (∀ t', tileAdd t kn ra rb = .ok t' → (refTag x.a.base = 0 → (coreLaunch s1 c).hot = 0) → ∃ k1 : Core,
         exec i s = .next (spent c m (modCore s1 c fun _ => k1)) ∧
         MatrixKept { coreOf s1 c with seqStep := if d = 0x81A#12 then (if total ≤ n + 1 then 0 else n + 1) else n } k1 ∧
         k1.mxNo = ((coreOf s1 c).mxNo + 1) % 2 ^ 32 ∧
         k1.flight = (coreOf s1 c).flight ++ [(placed.tile, (coreOf s1 c).mxNo)] ∧
         tileOf k1 placed.tile = t' ∧ ∀ y, y ≠ placed.tile → tileOf k1 y = tileOf (coreOf s1 c) y))

/-! ## CP, SA and the loop nest -/

/-- R368 to R374, R380, R381. GET, PREF, PUT, GETG, PUTG, ACC and GETM: where the checks at issue pass and the engine has room, the
command is in progress with its operands; GET and GETM from GLOBAL leave every destination line EMPTY; PUT, PUTG and ACC to another place
than the core's own scratchpad go through the gate of an open region; GETM reserves its tile under the next number. Bytes of a row that
are not a multiple of 4 take MISALIGNED, and fewer than 4 or more than 2^24 - 4 HANDLE_BOUNDS, with the destination. R375 to R378, R383.
ATOM, CFA, RECOV and MIG: where the checks at issue pass, the engine has room and no region gates, the command is in progress with its
operands; b.cp is EMPTY until it completes (not for RECOV), and the 16 bytes' lines are EMPTY; an acquire holds every later access of the
core until the command has ended, a release waits for all that is outstanding. An operation code above 10 takes ILLEGAL_TYPE, MIG without
SYS PRIVILEGE, and a placement of 0 or above 8 REF_INVALID. Where the spec leaves a choice the clauses are the model's own (log 24, 36).
-/
def Obligations.CommandIssues : Prop :=
  (∀ (m : MoveF) (s : State) (v : PVal) (k : Core) (a b e ctl n : Word) (t t' : Target) (hc h off : Nat),
     let c := s.cur
     let room := (s.cmds.filter fun x => x.core = c && x.kind ≠ .sa && x.kind ≠ .fetch).length < 64
     let ready (d : BitVec 12) : Prop :=
       Feeds s d m v k ∧ scOp (fed s k) (issued s d m v) 0 = .ok a ∧ scOp (fed s k) (issued s d m v) 1 = .ok b ∧
         scOp (fed s k) (issued s d m v) 14 = .ok ctl ∧ scVal (issued s d m v) = .ok n
     let here (p : Target) : Prop := p = .handle hc h off
     let gatedTo (p : Target) (i : Instr) (P : Cmd → Prop) : Prop :=
       (ownScratchpad c p = true → Issues i m s k ctl P fun _ => True) ∧ (ownScratchpad c p = false → GatedIssue i m s k ctl P)
     (∀ (i : Instr) (d : BitVec 12) (kind : CmdKind), i = .cpGet m ∧ d = 0x910#12 ∧ kind = .get ∨ i = .cpPref m ∧ d = 0x91A#12 ∧ kind = .pref →
       ready d → scOp (fed s k) (issued s d m v) 2 = .ok e →
       (n.toNat % 4 ≠ 0 → traps i s 0x0009#16 b) ∧
       (n.toNat % 4 = 0 → e.toNat / 2 ^ 40 % 4 = 0 → e.toNat / 2 ^ 16 % 2 ^ 24 % 4 = 0 → (n.toNat < 4 ∨ 2 ^ 24 - 4 < n.toNat) →
         traps i s 0x0013#16 b) ∧
       (copyChecks (fed s k) c a b e n.toNat (some [1, 4]) = .ok t → here t → room →
         Issues i m s k ctl (fun x => x.kind = kind ∧ x.src = a ∧ x.dst = b ∧ x.shape = e ∧ x.n = n.toNat)
           fun u => kind = .get → refTag a = 0 → LinesEmpty u hc h (rowPlaces off e) n.toNat)) ∧
     (ready 0x911#12 → scOp (fed s k) (issued s 0x911#12 m v) 2 = .ok e → copyChecks (fed s k) c a b e n.toNat none = .ok t → room →
       gatedTo t (.cpPut m) fun x =>
         x.kind = .put ∧ x.src = a ∧ x.dst = b ∧ x.shape = e ∧ x.n = n.toNat ∧ x.one = ctl.getLsbD 4) ∧
     (∀ (i : Instr) (d : BitVec 12) (ix rs : Word), i = .cpGetg m ∧ d = 0x912#12 ∨ i = .cpPutg m ∧ d = 0x913#12 →
       let o := issued s d m v
       let get := d = 0x912#12
       let rb := rs.toNat % 2 ^ 24
       let stride := rs.toNat / 2 ^ 24
       let P (x : Cmd) : Prop := x.kind = (if get then .getg else .putg) ∧ x.src = a ∧ x.dst = b ∧ x.idx = ix ∧ x.n = n.toNat ∧ x.rb = rb ∧
         x.stride = stride ∧ x.wide = ctl.getLsbD 6 ∧ x.one = ctl.getLsbD 4
       ready d → scOp (fed s k) o 2 = .ok ix → scOp (fed s k) o 3 = .ok rs →
       ((rb % 4 ≠ 0 ∨ stride % 4 ≠ 0) → traps i s 0x0009#16 b) ∧
       (rb % 4 = 0 → stride % 4 = 0 → (n = 0#64 ∨ 4096 < n.toNat ∨ rb = 0) → traps i s 0x0013#16 b) ∧
       (rb % 4 = 0 → stride % 4 = 0 → 0 < n.toNat → n.toNat ≤ 4096 → 0 < rb → room →
         checkRef (fed s k) c ix (n.toNat * if ctl.getLsbD 6 then 8 else 4) 4 [0, 1, 2] = .ok t →
         checkRef (fed s k) c (if get then a else b) 0 4 [0, 1, 2, 3] = .ok t' →
         (get → refCore b = c % 48 → checkRef (fed s k) c b (n.toNat * rb) 4 [1, 4] = .ok (.handle hc h off) →
           Issues i m s k ctl P fun _ => True) ∧
         (¬get → (refTag a = 1 ∨ refTag a = 2) → refCore a = c % 48 →
           checkRef (fed s k) c a (n.toNat * rb) 4 [1, 2] = .ok (.handle hc h off) →
           (((refTag b = 1 ∨ refTag b = 2) ∧ refCore b = c % 48) → Issues i m s k ctl P fun _ => True) ∧
           (¬((refTag b = 1 ∨ refTag b = 2) ∧ refCore b = c % 48) → GatedIssue i m s k ctl P)))) ∧
     (ready 0x914#12 → scOp (fed s k) (issued s 0x914#12 m v) 2 = .ok e →
       ((n = 0#64 ∨ 2 ^ 21 ≤ n.toNat) → traps (.cpAcc m) s 0x0013#16 b) ∧
       (0 < n.toNat → n.toNat < 2 ^ 21 → room →
         copyRef (fed s k) c a 1 0 (n.toNat * if ctl.getLsbD 5 then 4 else 8) 4 [0, 1, 2, 3] = .ok t' →
         copyRef (fed s k) c b 1 0 (8 * n.toNat) 4 [0, 1, 2, 3] = .ok t →
         (∀ j o', t = .step j o' → (stepDecl (coreLaunch (fed s k) c) j).rule = 1 ∧ (stepDecl (coreLaunch (fed s k) c) j).fxw = true) →
         gatedTo t (.cpAcc m) fun x => x.kind = .acc ∧ x.src = a ∧ x.dst = b ∧ x.n = n.toNat ∧ x.f32 = ctl.getLsbD 5 ∧
           x.exp = (e.setWidth 16).toInt)) ∧
     (∀ (oa ob mx batch : Word) (x : Operands) (s1 : State), let o := issued s 0x915#12 m v
       let tile := mx.toNat % 16
       ready 0x915#12 → scOp (fed s k) o 5 = .ok e → scOp (fed s k) o 2 = .ok oa → scOp (fed s k) o 3 = .ok ob →
       scOp (fed s k) o 4 = .ok mx → scOp (fed s k) o 6 = .ok batch → copyChecks (fed s k) c a b e n.toNat (some [1, 4]) = .ok t → here t →
       tile < (coreLaunch (fed s k) c).acct → room → (tileOf k tile).mode = .W →
       checkTileOp (fed s k) o (tileOpOf oa ob batch mx) (mx.getLsbD 63) [1, 2] .W = .ok (x, s1) →
       Issues (.cpGetm m) m s k ctl
         (fun x => x.kind = .getm ∧ x.src = a ∧ x.dst = b ∧ x.shape = e ∧ x.n = n.toNat ∧
           ∃ f, x.follow = some f ∧ f.a = oa ∧ f.b = ob ∧ f.batch = batch ∧ f.ctl = mx ∧ f.seqNo = k.mxNo)
         fun u => (tile, k.mxNo, s.nextCmd) ∈ (coreOf u c).reserved ∧ (coreOf u c).mxNo = (k.mxNo + 1) % 2 ^ 32 ∧
           (refTag a = 0 → LinesEmpty u hc h (rowPlaces off e) n.toNat))) ∧
  (∀ (m : MoveF) (s : State) (v : PVal) (k : Core) (a b ctl x : Word) (p : Target) (h off : Nat),
     let c := s.cur
     let room := (s.cmds.filter fun x => x.core = c && x.kind ≠ .sa && x.kind ≠ .fetch).length < 64
     let o (d : BitVec 12) : OpIn := issued s d m v
     let bCp (u : State) : Prop := isEmpty (coreOf u c) (resultKey 9) = true
     gating k = false →
     (∀ w, Feeds s 0x916#12 m v k → scOp (fed s k) (o 0x916#12) 0 = .ok a → scOp (fed s k) (o 0x916#12) 1 = .ok b →
       scOp (fed s k) (o 0x916#12) 14 = .ok ctl → scVal (o 0x916#12) = .ok x → w = (if ctl.getLsbD 9 then 4 else 8) →
       let code := ctl.toNat / 2 ^ 10 % 16
       (10 < code → traps (.cpAtom m) s 0x0006#16 (BitVec.ofNat 64 (0x916 * 256 + code))) ∧
       (code ≤ 10 → checkRef (fed s k) c a w w [0] = .ok p → room →
         Issues (.cpAtom m) m s k ctl (fun y => y.kind = .atom ∧ y.src = a ∧ y.ctl = ctl ∧ y.opa = x ∧ y.opb = b ∧
             (ctl.getLsbD 15 = true → ∀ z ∈ s.cmds, z.wp = k.wp → y.begun = false ∧ z.id ∈ y.after))
           fun u => bCp u ∧ (coreOf u c).fences = k.fences ++ (if ctl.getLsbD 14 then [([s.nextCmd], 0x7F#7)] else []))) ∧
     (Feeds s 0x917#12 m v k → scOp (fed s k) (o 0x917#12) 0 = .ok a → scOp (fed s k) (o 0x917#12) 14 = .ok ctl →
       scVal (o 0x917#12) = .ok x → checkRef (fed s k) c a 32 32 [0] = .ok p →
       checkRef (fed s k) c x 16 4 [1] = .ok (.handle c h off) → room →
       Issues (.cpCfa m) m s k ctl (fun y => y.kind = .cfa ∧ y.src = a ∧ y.dst = x) fun u => bCp u ∧ LinesEmpty u c h [off] 16) ∧
     (Feeds s 0x91C#12 m v k → scOp (fed s k) (o 0x91C#12) 0 = .ok a → scOp (fed s k) (o 0x91C#12) 1 = .ok b →
       scOp (fed s k) (o 0x91C#12) 14 = .ok ctl → scVal (o 0x91C#12) = .ok x → checkRef (fed s k) c a 4 4 [0] = .ok p →
       checkRef (fed s k) c b 16 16 [1] = .ok (.handle c h off) → room →
       Issues (.cpRecov m) m s k ctl (fun y => y.kind = .recov ∧ y.src = a ∧ y.dst = b ∧ y.opa = x)
         fun u => LinesEmpty u c h [off] 16) ∧
     (Feeds s 0x91D#12 m v k → scOp (fed s k) (o 0x91D#12) 0 = .ok a → scOp (fed s k) (o 0x91D#12) 1 = .ok b →
       scOp (fed s k) (o 0x91D#12) 14 = .ok ctl → scVal (o 0x91D#12) = .ok x →
       let size := pageSizeAt (fed s k) c (refVa a)
       ((coreLaunch (fed s k) c).sys = false → traps (.cpMig m) s 0x0008#16 0x91D#64) ∧
       ((coreLaunch (fed s k) c).sys = true → checkRef (fed s k) c a 1 size [0] = .ok p → room →
         ((b.toNat % 16 = 0 ∨ 8 < b.toNat % 16) → traps (.cpMig m) s 0x0010#16 a) ∧
         (0 < b.toNat % 16 → b.toNat % 16 ≤ 8 → x.toNat % size ≠ 0 → traps (.cpMig m) s 0x0009#16 x) ∧
         (0 < b.toNat % 16 → b.toNat % 16 ≤ 8 → x.toNat % size = 0 →
           Issues (.cpMig m) m s k ctl (fun y => y.kind = .mig ∧ y.src = a ∧ y.opa = x ∧ y.opb = b) bCp))))

/-- R204, R221, R379. WAITC passes once the counter has reached its number, gives the counter's 32 bits to b.cp and under .clr takes the
number off and clears the bits above; STAT gives them, after writing the counter under .set; DRAIN and SA.FLUSH pass with no command of
the waypoint in progress on their path and wait else. R183, R384, R385. SA.OP pushes one update at once, SA.PUSH those of the lowest lanes
whose skip bit is clear, through the gate of a region: element i at base + i · size, the value a signed number of the type, or an F32 at
the exponent as an FXW word, where a NaN contributes nothing. Update operation 3 takes ILLEGAL_TYPE, and a base of another space
REF_INVALID. Where the spec leaves a choice the clauses are the model's own (log 35, 36). -/
def Obligations.CountersAndUpdates : Prop :=
  (∀ (m : MoveF) (s : State) (v : PVal) (k : Core) (x ctl y : Word),
     let c := s.cur
     let result (d : BitVec 12) (t : State) (w : BitVec 32) : State := variableResult t (issued s d m v) (w.setWidth 64)
     let with_ (n : Nat) (w : BitVec 32) : Core := { k with counters := Map.set k.counters n w }
     (Feeds s 0x918#12 m v k → scOp (fed s k) (issued s 0x918#12 m v) 0 = .ok x → scOp (fed s k) (issued s 0x918#12 m v) 14 = .ok ctl →
       scVal (issued s 0x918#12 m v) = .ok y →
       let n := x.toNat % 16
       let value := Map.get k.counters n 0#32
       let ahead : BitVec 24 := value.setWidth 24 - y.setWidth 24
       (ahead.msb = true → waits (.cpWaitc m) s) ∧
       (ahead.msb = false → ctl.getLsbD 7 = false → exec (.cpWaitc m) s = .next (spent c m (result 0x918#12 (fed s k) value))) ∧
       (ahead.msb = false → ctl.getLsbD 7 = true → ∃ k1 : Core, exec (.cpWaitc m) s = .next (left s m k k1) ∧
         valueAt k1 (resultKey 9) = .sc (value.setWidth 64) ∧ RegsKept [resultKey 9] k k1 ∧
         k1.counters = Map.set k.counters n (ahead.setWidth 32))) ∧
     (Feeds s 0x91B#12 m v k → scOp (fed s k) (issued s 0x91B#12 m v) 0 = .ok x → scOp (fed s k) (issued s 0x91B#12 m v) 14 = .ok ctl →
       scVal (issued s 0x91B#12 m v) = .ok y →
       let n := y.toNat % 16
       (ctl.getLsbD 8 = false → exec (.cpStat m) s = .next (spent c m (result 0x91B#12 (fed s k) (Map.get k.counters n 0#32)))) ∧
       (ctl.getLsbD 8 = true → exec (.cpStat m) s = .next (spent c m
         (result 0x91B#12 (modCore (fed s k) c fun _ => with_ n (x.setWidth 32 &&& 0x7FFFFFFF#32)) (x.setWidth 32 &&& 0x7FFFFFFF#32))))) ∧
     (gating k = false → (∀ (i : Instr) (d : BitVec 12) (sa : Bool), i = .cpDrain m ∧ d = 0x919#12 ∧ sa = false ∨
         i = .saFlush m ∧ d = 0xA12#12 ∧ sa = true → Feeds s d m v k →
       let busy := ∃ z ∈ s.cmds, z.core = c ∧ z.wp = k.wp ∧ z.kind ≠ .fetch ∧ (z.kind = .sa ↔ sa = true)
       (¬busy → exec i s = .next (spent c m (fed s k))) ∧ (busy → waits i s)))) ∧
  (∀ (m : MoveF) (s : State) (v : PVal) (k : Core) (b e ctl : Word),
     let c := s.cur
     let op := ctl.toNat / 16 % 4
     let ty := ctl.toNat / 64 % 4
     let size := if ty = 0 then 4 else 8
     let held := refTag b = 1 ∨ refTag b = 2 ∨ refTag b = 3
     let ready (d : BitVec 12) : Prop :=
       Feeds s d m v k ∧ scOp (fed s k) (issued s d m v) 0 = .ok b ∧ scOp (fed s k) (issued s d m v) 3 = .ok e ∧
         scOp (fed s k) (issued s d m v) 14 = .ok ctl
     let value (x : Nat) (ex : Int) : Option Int :=
       if ty = 3 then (if isNaN 0 x then none else some (fxwFrom 0 x ex).1) else some (BitVec.ofNat (8 * size) x).toInt
     let status (x : Nat) (ex : Int) : Nat :=
       if ty = 3 then (if isNaN 0 x then 2 else if (fxwFrom 0 x ex).2.2.1 then 1 else 0) else 0
     let P (ls : List Loc) (xs : List Nat) (ex : Int) (y : Cmd) : Prop :=
       y.kind = .sa ∧ y.dst = b ∧ y.saOp = op ∧ y.saBytes = size ∧
         y.status = (xs.map fun x => status x ex).foldl max 0 ∧
         y.updates = (ls.zip (xs.map fun x => value x ex)).filterMap fun p => p.2.map fun z => (p.1, z)
     (∀ (i x : Word) (v' : PVal), v' = v → ready 0xA10#12 → scOp (fed s k) (issued s 0xA10#12 m v) 1 = .ok i →
       scVal (issued s 0xA10#12 m v) = .ok x →
       (op = 3 → traps (.saOp m) s 0x0006#16 (BitVec.ofNat 64 (0xA10 * 256 + 3))) ∧
       (op ≠ 3 → ¬(wellFormedRef b = true ∧ held) → traps (.saOp m) s 0x0010#16 b) ∧
       ∀ ls ex, op ≠ 3 → wellFormedRef b = true → held → saBase (fed s k) c b op ty (e.setWidth 16).toInt = .ok ex →
         saPlaces (fed s k) c b size [i.toNat % 2 ^ 32] = .ok ls →
         Issues (.saOp m) m s k ctl (P ls [x.toNat] ex) fun _ => True) ∧
     (∀ (ix x : Vec) (skip : LaneMask), ready 0xA11#12 → veOp (fed s k) (issued s 0xA11#12 m v) 1 = .ok ix →
       maOp (fed s k) (issued s 0xA11#12 m v) 2 = .ok skip → veVal (issued s 0xA11#12 m v) = .ok x →
       let n := if ty = 0 ∨ ty = 3 then 128 else 64
       let pushed := (List.range n).filter fun j => !skip.getLsbD j
       let xs := pushed.map fun j => (laneAt (4096 / n) x j).toNat
       (op = 3 → traps (.saPush m) s 0x0006#16 (BitVec.ofNat 64 (0xA11 * 256 + 3))) ∧
       (op ≠ 3 → ¬(wellFormedRef b = true ∧ held) → traps (.saPush m) s 0x0010#16 b) ∧
       ∀ ls ex, op ≠ 3 → wellFormedRef b = true → held → saBase (fed s k) c b op ty (e.setWidth 16).toInt = .ok ex →
         saPlaces (fed s k) c b size (pushed.map fun j => (laneAt 32 ix j).toNat) = .ok ls →
         GatedIssue (.saPush m) m s k ctl (P ls xs ex)))

/-- R343 to R347. LN writes one output a step, at the place the strides and shifts give: its element-wise value, or the reduction of its
terms in flattened order, level 0 fastest; then it stands at the next output, or after the last at the next bundle. A type that R343 does
not list takes ILLEGAL_TYPE, and more than 2^48 outputs HANDLE_BOUNDS. -/
def Obligations.LoopNest : Prop :=
  ∀ (ba bb bd : BitVec 6) (body : BitVec 224) (s : State) (a b d : Target),
    let c := s.cur
    let k := coreOf s c
    let n := Nest.of c body
    let s1 := if k.rep = 0 then modCore s c (fun k => agePends (retireAll k)) else s
    let base (x : BitVec 6) : Word := scalarAt (coreOf s1 c) (physS (coreOf s1 c) x.toNat)
    let i : Instr := .ln ba bb bd body
    let t := n.ty
    let ext (l : Nat) : Nat := lnExtent body l
    let stride (o l : Nat) : Int := if o = 2 ∧ l < n.nred then 0 else lnStride body o l * 2 ^ lnShift body o
    let over_ (lo hi : Nat) : Nat := ((List.range hi).drop lo).foldl (fun p l => p * ext l) 1
    let pos (o r j : Nat) : Int := ((List.range 5).map fun l =>
      ((if l < n.nred then r / over_ 0 l % ext l else j / over_ n.nred l % ext l : Nat) : Int) * stride o l).sum
    let listed := t ∈ [0, 1, 2, 8, 9, 10, 11, 12, 13]
    let twoOf (x y : Nat) (p : Int → Int → Int) (q : (t x y : Nat) → Nat × Flags) : Nat × Flags :=
      if inFlt t then q t x y else fitted t false (p (laneInt t x) (laneInt t y))
    let value (x y z : Nat) : Nat × Flags := match n.func with
      | 0 => (x, flNone)
      | 1 => twoOf x y (fun p q => p + q) fun t x y => fAdd t false x y
      | 2 => twoOf x y (fun p q => p - q) fun t x y => fAdd t true x y
      | 3 => twoOf x y (fun p q => p * q) fMul
      | 4 => twoOf x y min fun t x y => minMaxCode t false x y
      | 5 => twoOf x y max fun t x y => minMaxCode t true x y
      | 6 => if inFlt t then fFma t false x y z else fitted t false (laneInt t x * laneInt t y + laneInt t z)
      | 7 => (x &&& y, flNone)
      | 8 => (x ||| y, flNone)
      | 9 => (x ^^^ y, flNone)
      | 10 => if inFlt t then (x % 2 ^ (typeBits t - 1), flNone) else fitted t false (laneInt t x).natAbs
      | _ => if inFlt t then ((BitVec.ofNat (typeBits t) x ^^^ BitVec.twoPow (typeBits t) (typeBits t - 1)).toNat, flNone)
             else fitted t false (-laneInt t x)
    let leaf (p : Nat × Nat) : Int := match n.func with
      | 0x11 => laneInt t p.1 * laneInt t p.2
      | 0x14 => ((laneInt t p.1).natAbs : Int)
      | 0x15 => laneInt t p.1 * laneInt t p.1
      | _ => laneInt t p.1
    let both (p q : Int) : Int := match n.func with
      | 0x12 => min p q
      | 0x13 => max p q
      | _ => p + q
    let outputs := over_ n.nred 5
    let after (t : State) : State :=
      if outputs ≤ k.rep + 1 then endBundle t c (nextOf s c k.pc 8)
      else modCore t c fun k => { k with rep := k.rep + 1, stalls := [] }
    let writes (v : Nat × Flags) (u : State) : Prop :=
      storeAt s1 c (d.move (pos 2 0 k.rep)) ((List.range (typeBits t / 8)).map fun q => BitVec.ofNat 8 (v.1 / 2 ^ (8 * q))) = .ok u
    let elem (o : Nat) (p : Target) (x : BitVec 6) (r : Nat) : Res Nat := readElem s1 n p (base x) (pos o r k.rep)
    n.nred ≤ 5 →
    (¬listed → traps i s 0x0006#16 (BitVec.ofNat 64 (0xFFF * 256 + t))) ∧
    (listed → checkNest s1 n 0 (base ba) = .ok a → (n.readsB = true → checkNest s1 n 1 (base bb) = .ok b) →
      checkNest s1 n 2 (base bd) = .ok d →
      (2 ^ 48 < outputs → traps i s 0x0013#16 (base bd)) ∧
      (outputs ≤ 2 ^ 48 →
        (∀ x y z u, n.nred = 0 → n.func ≤ 11 → elem 0 a ba 0 = .ok x → (n.readsB = true → elem 1 b bb 0 = .ok y) →
          (n.readsD = true → elem 2 d bd 0 = .ok z) → writes (value x y z) u →
          exec i s = .next (after (modCore u c fun k => { k with flg := k.flg ||| (value x y z).2 }))) ∧
        ∀ (ps : List (Nat × Nat)) u, 0 < n.nred → ps.length = over_ 0 n.nred →
          (∀ r p, ps[r]? = some p → elem 0 a ba r = .ok p.1 ∧ (if n.readsB then elem 1 b bb r = .ok p.2 else p.2 = 0)) →
          (inInt t = true →
            let z := ((ps.drop 1).map leaf).foldl both (leaf (ps.headD (0, 0)))
            let f := if z < intMin t ∨ intMax t < z then flOF else flNone
            writes ((BitVec.ofInt (typeBits t) z).toNat, f) u →
            exec i s = .next (after (modCore u c fun k => { k with flg := k.flg ||| f }))) ∧
          (inInt t = false →
            let z := treeReduce (floatNode n.func) (.nan, flNone) (ps.map fun p => floatLeaf n.func t p.1 p.2)
            let f32 := roundFmt z.1 0
            let r := roundFmt (valueOf 0 f32.1) t
            writes (r.1, z.2 ||| f32.2 ||| r.2) u →
            exec i s = .next (after (modCore u c fun k => { k with flg := k.flg ||| (z.2 ||| f32.2 ||| r.2) })))))

/-! ## Events: the cores, their storage and their commands -/

/-- R15, R149, R167, R173, R179, R188, R198 to R200, R203, R204, R225, R320, R430. An arrived result makes its register FULL and changes
no value; a tile operation ends the flight of its tile; a retiring execution empties the f registers that it consumed and sets its flags;
a held forward write reaches its neighbour's register only while that is EMPTY; a timed wait goes on only once its time has come. An error
is logged and poisons what it destroys. A bank moves line by line and its map entry flips with the last. A command with nothing left
counts on its counter and gives its result; a request without an answer is sent once more, then fails; a fault of a command stops its
waypoint, which is discarded where its launch has ended (R115). Where the spec leaves a choice the clauses are the model's own (log 34, 37,
69). -/
def Obligations.CoreEvents : Prop :=
  ∀ s : State,
    let a := s.arg
    let c := a.core
    let k := coreOf s c
    let s' : State := { s with cur := c }
    (∀ p, a.index < 0x140 → k.pends.find? (fun p => p.reg = a.index) = some p → p.cmd = none → Gives .operationComplete s fun t =>
      OnlyCore c s t ∧ isEmpty (coreOf t c) a.index = false ∧ (∀ key, valueAt (coreOf t c) key = valueAt k key) ∧
      ∀ key, key < 0x140 → key ≠ a.index → isEmpty (coreOf t c) key = isEmpty k key) ∧
    (∀ n f, a.index = 0x800 + n → k.flight.find? (fun x => x.1 = n) = some f →
      exec .operationComplete s = .next (modCore s c fun k => { k with flight := k.flight.erase f })) ∧
    (∀ u rest, k.mode = .running → k.window = u :: rest → Gives .bundleRetire s fun t =>
      let k' := coreOf t c
      OnlyCore c s t ∧ k'.window = rest ∧ k'.flg = k.flg ||| u.flags ∧ (∀ key, valueAt k' key = valueAt k key) ∧
      (∀ j, j < 4 → u.consumes.getLsbD j = true → isEmpty k' (0x90 + j) = true) ∧
      ∀ key ∈ u.regs, (key < 0x90 ∨ 0x94 ≤ key) → (∀ p ∈ k.pends, p.reg = key → p.cmd = none) → (∃ p ∈ k.pends, p.reg = key) →
        isEmpty k' key = false) ∧
    (∀ port v n, k.held.find? (fun h => h.1 = a.index) = some (a.index, port, v) →
      k.held.find? (fun h => h.2.1 = port) = some (a.index, port, v) → portCore s c port = some n → sameGroup s c n = true → n ≠ c →
      (isEmpty (coreOf s n) (0x90 + port % 4) = false → exec .forwardDeliver s = .next s) ∧
      (isEmpty (coreOf s n) (0x90 + port % 4) = true → Gives .forwardDeliver s fun t =>
        valueAt (coreOf t n) (0x90 + port % 4) = .ve v ∧ isEmpty (coreOf t n) (0x90 + port % 4) = false ∧
        coreOf t c = { k with held := k.held.filter fun h => h.1 ≠ a.index, sent := k.sent ++ [a.index] } ∧ t.mem = s.mem)) ∧
    (∀ x, k.waitUntil = some x → (chronOf s (c / 48) - x).msb = true → exec .timedWaitExpiry s = .next s) ∧
    (∀ x b, k.waitUntil = some x → (chronOf s (c / 48) - x).msb = false → k.mode = .running → bundleAt s' c = .ok b → b.words = [] →
      b.moves = [] → b.stick = [] → b.sync = false → b.mark = false → b.eos = false → k.reopen = false → k.seqStep = 0 → b.rep ≤ k.rep →
      (∀ u ∈ k.window, u.consumes = 0#4) → Gives .timedWaitExpiry s fun t => (coreOf t c).waitUntil = none ∧
        (coreOf t c).pc = nextOf s' c b.addr b.len) ∧
    (∀ d, a.place = .dram d → Gives .eccError s fun t => t.mem = s.mem ∧
      (∃ e, t.mgmt.log.getLast? = some e ∧ e.cls = (if a.ok then 1 else 2) ∧ e.die = 8 + dpaDie d ∧ e.addr = d / 8 * 8 ∧
        e.code = if a.ok then 0x103 else 0x203) ∧
      ∀ w, poisonIn t (8 * w) 8 = (poisonIn s (8 * w) 8 || (!a.ok && decide (w = d / 8)))) ∧
    (∀ b line, a.place = .bank b line → a.ok = false → (chartOf (coreOf s b.core) b.level).failing.contains b.bank = true →
      Gives .eccError s fun t => t.mem = s.mem ∧ (∃ e, t.mgmt.log.getLast? = some e ∧ e.cls = 2 ∧ e.die = b.core / 48 ∧
        e.unit = b.core % 48 ∧ e.code = 0x201) ∧
        Map.get (lineStates (coreOf t b.core) b.level) (b.bank * (bankBytes b.level / 128) + line) .full = .poison) ∧
    (∀ c' r, a.place = .vreg c' r → a.ok = false → (coreOf s c').mode = .running → (coreOf s c').hm = false →
      (coreOf s c').region = none → (coreLaunch s c').traph ≠ 0 → Gives .eccError s fun t =>
        (coreOf t c').quarantined = true ∧ (coreOf t c').mode = .idle ∧ FrameOnly s t (coreOf s c').wp) ∧
    (∀ d b x, a.place = .cache d b x → (200 ≤ b → exec .eccError s = .next s) ∧
      (b < 200 → a.ok = false → Gives .eccError s fun t => t.mem = s.mem ∧ poisonIn t (x / 8 * 8) 8 = true ∧
        (home t (d % 8)).cacheChart.failing.contains b = true)) ∧
    (∀ e, (chartOf k a.level).evacs.find? (fun e => e.logical = a.index) = some e →
      let from_ := e.src * bankBytes a.level + 128 * e.ptr
      let to_ := e.dst * bankBytes a.level + 128 * e.ptr
      (128 * (e.ptr + 1) < bankBytes a.level → Gives .chartLineMove s fun t => OnlyCore c s t ∧
        (∀ j, j < 128 → readByte (storage (coreOf t c) a.level) (to_ + j) = readByte (storage k a.level) (from_ + j)) ∧
        (∀ x, x < to_ ∨ to_ + 128 ≤ x → readByte (storage (coreOf t c) a.level) x = readByte (storage k a.level) x) ∧
        Map.get (lineStates (coreOf t c) a.level) (to_ / 128) .full = Map.get (lineStates k a.level) (from_ / 128) .full ∧
        (chartOf (coreOf t c) a.level).evacs = (chartOf k a.level).evacs.map fun x => if x = e then { e with ptr := e.ptr + 1 } else x) ∧
      (bankBytes a.level ≤ 128 * (e.ptr + 1) → e.fall = false → (chartOf k a.level).failing.contains e.dst = false →
        Gives .chartLineMove s fun t => (chartOf (coreOf t c) a.level).phys a.index = e.dst ∧
          e.src ∈ (chartOf (coreOf t c) a.level).retired ∧ t.mem = s.mem)) ∧
    (∀ x c', findCmd s a.index = some x → x.begun = true → x.fault = none → x.pieces = [] → x.waitList = false → x.updates = [] →
      x.kind ≠ .mig → x.follow = none → x.unfilled = [] → reqsOf s (engineOf x.core) x.id = [] → heldByCore s x.wp = some c' →
      (∀ y ∈ s.cmds, y.begun = true) → Gives .commandComplete s fun t => findCmd t x.id = none ∧ t.mem = s.mem ∧
        (let was := Map.get (coreOf s c').counters x.counter 0#32;
          let now := Map.get (coreOf t c').counters x.counter 0#32
          now.extractLsb' 0 24 = was.extractLsb' 0 24 + 1#24 ∧
          ∀ i, i < 8 → now.getLsbD (24 + i) = (was.getLsbD (24 + i) || decide (x.status = i + 1))) ∧
        (∀ p v, (coreOf s c').pends.find? (fun p => p.cmd = some x.id) = some p → x.result = some v → 0x100 ≤ p.reg → p.reg < 0x140 →
          valueAt (coreOf t c') p.reg = .sc v ∧ isEmpty (coreOf t c') p.reg = false) ∧
        ∀ l, findLaunch s x.wp.launch = some l → ∃ l', findLaunch t x.wp.launch = some l' ∧
          ∀ i, i < 7 → l'.summary.getLsbD i = (l.summary.getLsbD i || decide (x.status = i + 1))) ∧
    (∀ r x, findReq s a.index a.seq = some r → r.sentAt + Config.requestTimeout ≤ s.chron → beyondMeridian s a.index r = false →
      findCmd s r.cmd = some x →
      (heldAtLink s a.index r = true → r.piece = none → Gives .requestReissueTimeout s fun t => findReq t a.index a.seq = none ∧
        t.mem = s.mem ∧ ∃ y, findCmd t r.cmd = some y ∧ y.status = max x.status 3) ∧
      (heldAtLink s a.index r = false → r.pkt.kind = 3 → x.kind = .atom → Gives .requestReissueTimeout s fun t => findReq t a.index a.seq = none ∧
        ∃ y, findCmd t r.cmd = some y ∧ y.status = max x.status 6 ∧ y.result = some (recoveryToken a.index r.seq)) ∧
      (heldAtLink s a.index r = false → r.pkt.kind ≠ 3 → r.reissued = true → r.piece = none → Gives .requestReissueTimeout s fun t => findReq t a.index a.seq = none ∧
        t.mem = s.mem ∧ ∃ y, findCmd t r.cmd = some y ∧ y.status = max x.status 3) ∧
      (heldAtLink s a.index r = false → r.pkt.kind ≠ 3 → r.reissued = false → Gives .requestReissueTimeout s fun t => t.mem = s.mem ∧
        (∃ y, findReq t a.index a.seq = some y ∧ y.reissued = true ∧ y.sentAt = s.chron) ∧
        ((∃ p, t.inbox = s.inbox ++ [p] ∧ p.2.seq = r.pkt.seq ∧ p.2.retry = true) ∨
          ∃ w, t.waiting = s.waiting ++ [w] ∧ w.pkt.seq = r.pkt.seq ∧ w.pkt.retry = true))) ∧
    ∀ x code info c' w, findCmd s a.index = some x → x.fault = some (code, info) → isMachineCheck code = false →
      heldByCore s x.wp = some c' → (coreOf s c').wp = x.wp → (coreOf s c').mode = .running → (coreOf s c').hm = false →
      (coreOf s c').region = none → findWp s x.wp = some w → (launchOf s x.wp.launch).traph ≠ 0 → (∀ y ∈ s.cmds, y.begun = true) → Gives .asyncFault s fun t =>
        findCmd t x.id = none ∧ (coreOf t c').mode = .idle ∧ ((launchOf s x.wp.launch).ending ≠ .running → findWp t x.wp = none) ∧
        ((launchOf s x.wp.launch).ending = .running → ∃ w', findWp t x.wp = some w' ∧ w'.state = .faulted ∧
          w'.resume = (coreOf s c').pc ∧ ∃ f, w'.fault = some f ∧ f.code = code ∧ f.info = info ∧ f.handlerRun = true)

/-! ## Events: the dispatchers -/

/-- R133 to R135, R137, R140 to R146, R149, R163, R181. An idle open core takes its choice: a waypoint without a frame starts at its
RESUME with s1 to s4 from its record, every other register zero and f0 to f3 EMPTY; one with a frame goes on with the registers of the
frame; of a range the first coordinate runs under a new id. A complete step group is placed on a run that fits, one waypoint a core, or is
FAULTED where no run exists. An entry that has waited moves up a class; a class-0 entry that no core can take has a victim pre-empted; a
die without entries takes one, or the upper half of a range, from its neighbour. Where the spec leaves a choice the clauses are the
model's own (log 45). -/
def Obligations.Dispatching : Prop :=
  ∀ s : State,
    let c := s.arg.core
    let k := coreOf s c
    (∀ w, k.mode = .idle → coreOpen s c = true → choice s c = some w → w.fault = none → findWp s w.key = some w →
      (w.range = false ∨ w.hi ≤ w.lo + 1) → Gives .waypointPickup s fun t =>
        let k' := coreOf t c
        k'.mode = .running ∧ k'.wp = w.key ∧ k'.pc = w.resume ∧ (∃ x, findWp t w.key = some x ∧ x.frame = none ∧ x.range = false ∧
          x.state = (if w.state = .faulted then .faulted else .running)) ∧
        (w.frame = none → w.sval.length = 4 → (∀ n, n < 4 → valueAt k' (1 + n) = .sc (w.sval.getD n 0#64)) ∧
          (∀ n, 5 ≤ n → n < 64 → valueAt k' n = .sc 0#64) ∧ (∀ n, n < 4 → isEmpty k' (0x90 + n) = true) ∧ k'.hm = false ∧ k'.rep = 0) ∧
        (∀ f, w.frame = some f → (∀ key, valueAt k' key = valueAt f key) ∧ k'.hm = f.hm ∧ k'.flg = f.flg ∧ k'.region = f.region ∧
          k'.epc = f.epc ∧ k'.rep = if f.hm then f.rep else f.rpi.toNat)) ∧
    (∀ w id, k.mode = .idle → coreOpen s c = true → choice s c = some w → w.range = true → w.lo + 1 < w.hi → w.fault = none →
      findWp s w.key = some w → freeWpid s w.key.launch = some id → id ≠ w.key.wpid → Gives .waypointPickup s fun t =>
        (coreOf t c).mode = .running ∧ (coreOf t c).wp = ⟨w.key.launch, id⟩ ∧
        (∃ x, findWp t w.key = some x ∧ x.lo = w.lo + 1 ∧ x.hi = w.hi ∧ x.range = true) ∧
        ∃ x, findWp t ⟨w.key.launch, id⟩ = some x ∧ x.lo = w.lo ∧ x.hi = w.lo + 1 ∧ x.range = false) ∧
    (let g := s.arg.group
      let l := launchOf s g.launch
      let ms := liveMembers s g
      ∀ x w rest, levelWord l g.level = some x → ms = w :: rest → x.step = true → l.granted = true → l.held = false → l.ending = .running →
        coversAll (membersOf s g) x.extent = true → (∀ m ∈ ms, m.state = .ready ∨ m.state = .preempted) →
        idsEnough s g.launch ms = true →
        (groupRuns s l w x.extent = [] → l.traph ≠ 0 → Gives .stepGroupPlace s fun t =>
          ∀ m ∈ ms, ∀ y ∈ t.waypoints, y.key = m.key → y.state = .faulted) ∧
        (∀ r, (groupRuns s l w x.extent).find? (runFits s l ms) = some r →
          (∀ m ∈ ms, m.range = false ∧ m.hi = m.lo + 1 ∧ m.fault = none ∧ ∀ y ∈ s.waypoints, y ≠ m → y.key ≠ m.key) →
          (∀ m ∈ ms, ∀ m' ∈ ms, m.lo = m'.lo → m = m') → Gives .stepGroupPlace s fun t =>
            ∀ m ∈ ms, ∀ c', r[m.lo]? = some c' → (coreOf t c').mode = .running ∧ (coreOf t c').wp = m.key ∧ (coreOf t c').pc = m.resume)) ∧
    (∀ w, findWp s s.arg.wp = some w → isEntry s w = true →
      (0 < w.prio → w.agedAt + 100000 ≤ s.chron → exec .priorityAge s =
        .next (modWp s w.key fun w => { w with prio := w.prio - 1, agedAt := w.agedAt + 100000 })) ∧
      (∀ v x, w.prio = 0 → w.urged = false → w.readyAt + 20000 ≤ s.chron →
        (∀ c, c < 384 → ¬((coreOf s c).mode = .idle ∧ coreOpen s c = true ∧ mayTake s c w = true)) →
        victim s (launchOf s w.key.launch) w = some v → findWp s (coreOf s v).wp = some x →
        exec .priorityPreempt s = .next (askPreempt (modWp s w.key fun x => { x with urged := true }) (coreOf s v).wp))) ∧
    (let d := s.arg.die
      ∀ w, dieServes s d = true → s.mgmt.cdrain.getLsbD d = false → entriesOf s d = [] →
        (disp s d).emptySince + 2000 * ((disp s d).steals + 1) ≤ s.chron → (nearestDies s d).findSome? (stealable s d) = some w →
        findWp s w.key = some w →
        (¬(w.range = true ∧ w.lo + 2 ≤ w.hi) → Gives .dispatcherSteal s fun t => findWp t w.key = some { w with holder := d, spilled := false }) ∧
        ∀ id, w.range = true → w.lo + 2 ≤ w.hi → freeWpid s w.key.launch = some id → id ≠ w.key.wpid → Gives .dispatcherSteal s fun t =>
          let mid := w.lo + (w.hi - w.lo + 1) / 2
          findWp t w.key = some { w with hi := mid } ∧
            ∃ at_, findWp t ⟨w.key.launch, id⟩ =
              some { w with key := ⟨w.key.launch, id⟩, lo := mid, holder := d, spilled := false, record := at_ })

/-- R128, R131, R147 to R155. A pre-empted core stops at its boundary and abandons nothing that it holds, or is freed where its launch has
ended; its frame saved, the waypoint is PREEMPTED at its bundle and the core idle, and no byte of device memory outside the frame has
changed. Handles that may leave their core are copied out. OVER_CAPACITY past the launch's limit ends the waypoint FAULTED, else restarts
it as it was picked up, once the commands that it does not cancel are over. A self-test drains its cluster, quarantines the cores that
fail, charts the banks that it finds failing and logs its outcome. A notified waypoint is READY. Where the spec leaves a choice the
clauses are the model's own (log 13, 28, 45). -/
def Obligations.Preemption : Prop :=
  ∀ s : State,
    let c := s.arg.core
    let k := coreOf s c
    (∀ w, findWp s k.wp = some w → w.preempt = true → (k.mode = .running ∨ k.mode = .stopping) →
      ((launchOf s k.wp.launch).ending = .running → Gives .preemptHalt s fun t => (coreOf t c).mode = .stopping ∧
        (∃ x ∈ t.agenda, x.what = some .contextSaveDone ∧ x.arg.core = c) ∧ (coreOf t c).pc = k.pc ∧ (coreOf t c).region = k.region ∧
        (∀ key, valueAt (coreOf t c) key = valueAt k key) ∧ t.mem = s.mem ∧
        (k.hm = false → (coreOf t c).rpi = BitVec.ofNat 64 k.rep ∧ (coreOf t c).mxs = BitVec.ofNat 64 k.seqStep)) ∧
      ((launchOf s k.wp.launch).ending ≠ .running → Gives .preemptHalt s fun t =>
        (coreOf t c).mode = .idle ∧ findWp t k.wp = none)) ∧
    (∀ w, findWp s k.wp = some w → w.preempt = true → k.mode = .stopping → Gives .contextSaveDone s fun t =>
      (coreOf t c).mode = .idle ∧ FrameOnly s t k.wp ∧ ((launchOf s k.wp.launch).ending ≠ .running → findWp t k.wp = none) ∧
      ((launchOf s k.wp.launch).ending = .running → ∃ x, findWp t k.wp = some x ∧ x.resume = k.pc ∧ x.preempt = false ∧
        x.state = (if w.state = .faulted then .faulted else .preempted) ∧ x.frameAt.isSome = true ∧
        ∃ f, x.frame = some f ∧ (∀ key, valueAt f key = valueAt k key) ∧ f.pc = k.pc ∧ f.region = k.region)) ∧
    (∀ w, findWp s s.arg.wp = some w → mustEvacuate s w = true → mayEvacuate s (anchorOf w) w.key = true →
      handlesOf s (anchorOf w) w.key ≠ [] → Gives .evacuationComplete s fun t => handlesOf t (anchorOf w) w.key = [] ∧
        ∃ x, findWp t w.key = some x ∧ x.evac = true ∧ x.aff = 0 ∧
          x.evacuated = (handlesOf s (anchorOf w) w.key).map (copyOut (coreOf s (anchorOf w)))) ∧
    (∀ w, findWp s k.wp = some w → (k.mode = .running ∨ k.mode = .stopping) → banksShort s c ≠ 0 → evacuationDue s c = false →
      ((launchOf s k.wp.launch).rlimit ≤ w.rcount → Gives .overCapacity s fun t => (coreOf t c).mode = .idle ∧
        ∃ x, findWp t k.wp = some x ∧ x.state = .faulted) ∧
      (∀ x ∈ s.cmds, w.rcount < (launchOf s k.wp.launch).rlimit → k.region = none → x.wp = k.wp → (x.tag = 0 ∨ x.id < w.startCmd) →
        (∀ y ∈ s.cmds, y.id = x.id → y = x) → Gives .overCapacity s fun t => (coreOf t c).mode = .relaunching false) ∧
      (w.rcount < (launchOf s k.wp.launch).rlimit → k.region = none → (∀ x ∈ s.cmds, x.wp ≠ k.wp) → w.startHandles = [] →
        (launchOf s k.wp.launch).ending = .running → Gives .overCapacity s fun t => (coreOf t c).mode = .idle ∧ ∃ x, findWp t k.wp = some x ∧ x.state = .ready ∧
          x.resume = w.start.1 ∧ x.sval = w.start.2 ∧ x.frame = none ∧ x.rcount = w.rcount + 1)) ∧
    (let d := s.arg.die
      let x := disp s d
      let due := underway s = true ∧ x.testPeriod < testPeriodNow s d
      x.underTest = none →
        (∀ cl rest, x.urgentTest = cl :: rest → Gives .selftestRotation s fun t =>
          disp t d = { x with urgentTest := rest, underTest := some cl }) ∧
        (x.urgentTest = [] → due → testDeferred s d x.nextCluster = false → Gives .selftestRotation s fun t =>
          disp t d = { x with testPeriod := testPeriodNow s d, nextCluster := (x.nextCluster + 1) % 8, underTest := some x.nextCluster }) ∧
        (x.urgentTest = [] → due → testDeferred s d x.nextCluster = true → Gives .selftestRotation s fun t =>
          disp t d = { x with testPeriod := testPeriodNow s d, nextCluster := (x.nextCluster + 1) % 8 } ∧
          ∃ e ∈ t.mgmt.log, e.cls = 7 ∧ e.code = 0x702)) ∧
    (let d := s.arg.die
      ∀ cl, (disp s d).underTest = some cl → clusterDrained s d cl = true → Gives .selftestDone s fun t =>
        (disp t d).underTest = none ∧ (∀ i, i < 6 → s.arg.failed.getLsbD i = true → (coreOf t (48 * d + 6 * cl + i)).quarantined = true) ∧
        (∀ b ∈ s.arg.banks, b.core / 48 = d → b.core % 48 / 6 = cl → b.bank < physicalBanks b.level →
          b.bank ∈ (chartOf (coreOf t b.core) b.level).failing) ∧
        (∀ r ∈ s.arg.regs, r.1 / 48 = d → r.1 % 48 / 6 = cl → r.2 < 9 → r.2 ∈ (coreOf t r.1).vregChart.failing) ∧
        ∃ e ∈ t.mgmt.log, e.cls = 6 ∧ e.unit = cl ∧ (s.arg.failed = 0#8 → s.arg.banks = [] → s.arg.regs = [] → e.code = 0x601)) ∧
    ∀ w, findWp s s.arg.wp = some w → w.state = .suspended → heldByCore s s.arg.wp = none →
      (w.holder = s.arg.die → Gives .dispatcherNotify s fun t => t.mem = s.mem ∧ ∃ x, findWp t w.key = some x ∧ x.state = .ready ∧
        x.readyAt = s.chron) ∧
      (w.holder ≠ s.arg.die → exec .dispatcherNotify s =
        .next (enqueue s .dispatcherNotify { die := w.holder, wp := s.arg.wp }))

/-! ## Events: homes and requesters -/

/-- R128, R129, R139, R211, R225 to R227, R230, R374, R375, R377, R386, R430. A request performs at the home of its address, or goes on to
the new home. READ gives the line's bytes, or POISONED. WRITE stores its bytes, once for each number. ATOM gives the old value, leaves the
new one and keeps a record; a recorded number is refused; an offline unit answers NMU_OFFLINE and changes nothing. CFA hands out the next
chunk, in the order of arrival. ACC adds the words whose bit is set. A registration is MET, RETRY or REGISTERED. RECOV tells a recorded
number and marks a new one. A replica applies a numbered store once, in order. A migrating line is copied, and after the last its entry
names the new frame. A join decrement stops at zero with a log entry, leaves a poisoned counter, and waits for a line that the host holds;
a packet of a reserved kind is discarded with one. Where the spec leaves a choice the clauses are the model's own (log 13, 36, 37, 52). -/
def Obligations.HomeRequests : Prop :=
  ∀ (s : State) (d : Nat) (p : Packet),
    let a := p.paddr
    let n := 4 * p.dlen
    let h := home s d
    let key := requesterKey p
    let fresh := (key, p.seq) ∉ h.seen
    let ok (t : State) (kind status : Nat) : Prop := Answered t d p fun r => r.kind = kind ∧ r.status = status
    let kinds : List (Instr × Nat) := [(.read, 1), (.write, 2), (.atom, 3), (.cfa, 4), (.acc, 5), (.waitreg, 6), (.recov, 7)]
    (fetchBefore s = true → exec .cfa s = .next s) ∧
    (∀ i ∈ kinds, ∀ st q s1, takeKind s i.2 = some (st, q, s1) → (i.2 = 4 → fetchBefore s = false) →
      (dpaExists q.paddr = false → exec i.1 s = .fault (.noSuchAddress q.paddr)) ∧
      (dpaExists q.paddr = true → recordHeld s (st / 2) q = true → Gives i.1 s fun t => t.mem = s.mem) ∧
      (dpaExists q.paddr = true → recordHeld s (st / 2) q = false → forwardTo s q.paddr = none → exec i.1 s = .next s) ∧
      ∀ b, dpaExists q.paddr = true → recordHeld s (st / 2) q = false → forwardTo s q.paddr = some b → st ≠ 2 * dpaDie b + 1 →
        Gives i.1 s fun t => t.mem = s.mem ∧
        ∃ w, t.waiting = s.waiting ++ [w] ∧ w.dst = 2 * dpaDie b + 1 ∧ w.pkt = { q with fwd := true, paddr := b }) ∧
    (Serves s 1 d p → n ≤ 128 →
      (poisonIn s a n = true → Gives .read s fun t => t.mem = s.mem ∧ ok t 8 2) ∧
      (poisonIn s a n = false → Gives .read s fun t => t.mem = s.mem ∧ Answered t d p fun r =>
        r.kind = 8 ∧ r.status = 0 ∧ r.dlen = p.dlen ∧ ∀ j, j < n → r.data.extractLsb' (8 * j) 8 = readByte s.mem (a + j))) ∧
    (Serves s 2 d p → p.stepw = false →
      (fresh → goesToAll s p = false → Gives .write s fun t => StoredAt s t a p.bytes ∧ ok t 9 0 ∧
        (key, p.seq) ∈ (home t d).seen) ∧
      (fresh → goesToAll s p = true → h.online = false → Gives .write s fun t => t.mem = s.mem ∧ ok t 9 4) ∧
      (¬fresh → h.mcasts = [] → Gives .write s fun t => t.mem = s.mem ∧ ok t 9 0)) ∧
    (Serves s 3 d p →
      let recorded := ∃ r ∈ h.atoms, r.agent = key ∧ r.seq = p.seq
      (h.online = false → Gives .atom s fun t => t.mem = s.mem ∧ ok t 0xA 4) ∧
      (h.online = true → recorded → Gives .atom s fun t => t.mem = s.mem ∧ ok t 0xE 0) ∧
      ∀ w, w = (if p.data.getLsbD 9 then 32 else 64) → h.online = true → ¬recorded → (recordsOf s d key).length < 256 →
        (poisonIn s a (w / 8) = true → Gives .atom s fun t => t.mem = s.mem ∧ ok t 0xA 2) ∧
        (poisonIn s a (w / 8) = false → replicasOf s p = [a] → Gives .atom s fun t =>
          let m := BitVec.ofNat w (dramNat s a (w / 8))
          StoredAt s t a (bytesOf (atomResult w (p.data.toNat / 2 ^ 10 % 16) m (p.opa.setWidth w) (p.opb.setWidth w)).toNat (w / 8)) ∧
          Answered t d p (fun r => r.kind = 0xA ∧ r.status = 0 ∧ r.opa = m.setWidth 64) ∧
          ∃ r ∈ (home t d).atoms, r.agent = key ∧ r.seq = p.seq ∧ r.result = some (m.setWidth 64))) ∧
    (Serves s 4 d p → fetchBefore s = false → (∀ r ∈ h.cfaDone, r.agent = key → r.seq ≠ p.seq) →
      (h.online = false → Gives .cfa s fun t => t.mem = s.mem ∧ ok t 8 4) ∧
      (h.online = true → poisonIn s a 24 = false →
        let next := dramNat s a 8
        let rem := dramNat s (a + 8) 8 - next
        let len := min rem (max (max (dramNat s (a + 20) 4) 1)
          (ceilDiv rem (2 * max (dramNat s (a + 16) 4) 1)))
        Gives .cfa s fun t => (len = 0 → t.mem = s.mem) ∧ (0 < len → StoredAt s t a (bytesOf (next + len) 8)) ∧
          ((len = 0 ∨ ∀ b ∈ replicasOf s p, b = a) →
            Answered t d p fun r => r.kind = 8 ∧ r.status = 0 ∧ r.data = BitVec.ofNat 1024 (next + len * 2 ^ 64)) ∧
          ∀ b ∈ replicasOf s p, b ≠ a → 0 < len → (home t d).mcasts.length = h.mcasts.length + 1)) ∧
    (Serves s 5 d p → p.stepw = false → fresh → p.dlen ≤ 32 →
      (h.online = false → Gives .acc s fun t => t.mem = s.mem ∧ ok t 9 4) ∧
      (h.online = true → goesToAll s p = false → poisonIn s a n = false → Gives .acc s fun t => ok t 9 0 ∧
        (∀ i, i < p.dlen / 2 → wordAt t (a + 8 * i) = wordAt s (a + 8 * i) +
          if p.opb.getLsbD i then p.data.extractLsb' (64 * i) 64 else 0#64) ∧
        ∀ x, (x < a ∨ a + 8 * (p.dlen / 2) ≤ x) → readByte t.mem x = readByte s.mem x)) ∧
    (Serves s 6 d p →
      let v := wordAt s a
      let met := poisonIn s a 8 = false ∧ if p.opa.getLsbD 0 then v = 0#64 else v ≠ 0#64
      let many := 64 ≤ (h.waiters.filter fun x => x.dpa = a).length
      let gives (st : Nat) (more : Nat) : Prop := Gives .waitreg s fun t => t.mem = s.mem ∧ ok t 0xB st ∧
        (home t d).waiters.length = h.waiters.length + more
      ((h.online = false ∨ ¬met ∧ many) → gives 2 0) ∧ (h.online = true → met → gives 1 0) ∧
      (h.online = true → ¬met → ¬many → gives 3 1)) ∧
    (Serves s 7 d p →
      let q : Packet := { p with agent := p.opa.toNat / 2 ^ 57 }
      let x : BitVec 32 := p.opa.setWidth 32
      let rs := recordsOf s d (requesterKey q)
      let tells (m st : Nat) (t : State) : Prop :=
        t.mem = s.mem ∧ Answered t d p fun r => r.kind = 8 ∧ r.status = 0 ∧ r.data = BitVec.ofNat 1024 (m + st * 2 ^ 64)
      (∀ r, rs.find? (fun r => r.seq = x) = some r →
        (∀ m, r.result = some m → Gives .recov s (tells m.toNat 0)) ∧ (r.result = none → Gives .recov s (tells 0 1))) ∧
      (rs.find? (fun r => r.seq = x) = none → rs.length < 256 → Gives .recov s fun t => tells 0 1 t ∧
        ∃ r ∈ (home t d).atoms, r.agent = requesterKey q ∧ r.seq = x ∧ r.result = none)) ∧
    (∀ s1 m, takeKind s 0xC = some (2 * d + 1, p, s1) → (home s (p.agent - 64)).mcasts = [m] → m.no % 2 ^ 32 = p.seq.toNat →
      (a ∈ m.left → dpaDie a = d → a / 128 ∉ (home s d).held → Gives .mcast s fun t => StoredAt s t a (mcastBytes p) ∧ ∃ m', (home t (p.agent - 64)).mcasts = [m'] ∧
        m'.left = m.left.filter (· ≠ a)) ∧
      (a ∉ m.left → Gives .mcast s fun t => t.mem = s.mem)) ∧
    (∀ s1 m, takeKind s 0xD = some (2 * d + 1, p, s1) →
      (home s (p.agent - 64)).migrations.find? (fun m => m.cmd % 2 ^ 32 = p.seq.toNat) = some m → Gives .migline s fun t =>
        StoredAt s t (dpaOf m.newDie (m.newL + 128 * m.ptr)) (dramBytes s (dpaOf m.oldDie (m.oldL + 128 * m.ptr)) 128) ∧
        { m with ptr := m.ptr + 1 } ∈ (home t (p.agent - 64)).migrations ∧
        (m.size ≤ 128 * (m.ptr + 1) → ∃ e ∈ t.agenda, e.what = some .migrationComplete ∧ e.arg.die = p.agent - 64)) ∧
    (∀ m, (home s s.arg.die).migrations.find? (fun m => 128 * m.ptr ≥ m.size) = some m → m.oldDie = s.arg.die →
      Gives .migrationComplete s fun t =>
        let at_ := atHome s m.entryAt
        let e := dramNat s at_ 8
        StoredAt s t at_ (bytesOf (e % 2 ^ 16 + m.newL / 4096 * 2 ^ 16 + e / 2 ^ 52 % 2 ^ 8 * 2 ^ 52 + m.newPlc * 2 ^ 60) 8) ∧
        m ∉ (home t s.arg.die).migrations ∧ (∃ f ∈ (home t s.arg.die).forwarding, f.oldL = m.oldL ∧ f.size = m.size ∧
          f.newDie = m.newDie ∧ f.newL = m.newL) ∧
        ∀ x, findCmd s m.cmd = some x → ∃ y, findCmd t m.cmd = some y ∧ y.result = some 0#64) ∧
    (∀ j rest b, s.joinDecs = j :: rest → s.arg.index = 0 → forwardTo s j.dpa = some b →
      (∀ line, heldLine s b 8 = some line → exec .joinDecrement s = .next (sendSnoop s line)) ∧
      (heldLine s b 8 = none → ((home s (dpaDie b)).online = false ∨ poisonIn s b 8 = true) →
        exec .joinDecrement s = .next { s with joinDecs := rest }) ∧
      (heldLine s b 8 = none → (home s (dpaDie b)).online = true → poisonIn s b 8 = false → dramNat s b 8 = 0 → Gives .joinDecrement s fun t => t.mem = s.mem ∧ t.joinDecs = rest ∧
        ∃ e, t.mgmt.log.getLast? = some e ∧ e.cls = 4 ∧ e.code = 0x30000) ∧
      (heldLine s b 8 = none → (home s (dpaDie b)).online = true → poisonIn s b 8 = false → 0 < dramNat s b 8 →
        Gives .joinDecrement s fun t => t.joinDecs = rest ∧ StoredAt s t b (bytesOf (dramNat s b 8 - 1) 8))) ∧
    (Gives .nearMemoryUnitDown s fun t => (home t (s.arg.die % 8)).online = false ∧ t.mem = s.mem) ∧
    ∀ st q rest, takeNth (fun x => x.2.kind = 0 || x.2.kind = 15) s.arg.index s.inbox = some ((st, q), rest) →
      Gives .reservedKindDiscard s fun t => t.inbox = rest ∧ t.mem = s.mem ∧
        ∃ e, t.mgmt.log.getLast? = some e ∧ e.cls = 2 ∧ e.code = 0x205

/-- R128, R139, R203, R204, R211, R225, R226, R375, R386. An answer whose number its requester does not hold is discarded. DATA fills its
part of the destination, the line FULL once its covered bytes have landed, and gives CFA its length; a status of failure combines into the
command's. ACK ends a store's request, or one replica's part of a numbered store, which is answered with the last. ATOM_RSP gives the old
value; REFUSE loses the result and gives its recovery token. A core whose suspension is MET goes on; RETRY leaves its waypoint READY at
the suspension's bundle, REGISTERED leaves it SUSPENDED, and both free the core; a notification reaches its dispatcher. Where the spec
leaves a choice the clauses are the model's own (log 37). -/
def Obligations.Answers : Prop :=
  ∀ (s s1 : State) (st : Nat) (p : Packet) (r : Req) (x : Cmd),
    let e := p.agent
    let held := findReq s e p.seq = some r ∧ findCmd s r.cmd = some x
    let ended (t : State) (P : Cmd → Prop) : Prop := findReq t e p.seq = none ∧ ∃ y, findCmd t r.cmd = some y ∧ P y
    (takeKind s 8 = some (st, p, s1) →
      (findReq s e p.seq = none → exec .data s = .next s1) ∧
      (held → p.status ≠ 0 → r.piece = none → x.kind ≠ .atom → Gives .data s fun t => t.mem = s.mem ∧
        ended t fun y => y.status = max x.status p.status) ∧
      (∀ hd, held → p.status = 0 → r.pkt.kind = 4 → p.dlen = 4 →
        let c := x.core / 48 * 48 + refCore x.dst
        let o := refOffset x.dst
        handleOf s c (refHandle x.dst) = some hd → Sound (coreOf s c) hd → o + 16 ≤ hd.size → Gives .data s fun t =>
          ended t (fun y => y.result = some (p.data.extractLsb' 64 64) ∧ y.status = x.status) ∧
          (∀ j, j < 16 → byteOf (coreOf t c) hd (o + j) = p.data.extractLsb' (8 * j) 8) ∧
          lineState (coreOf t c) hd (o / 128) = .full) ∧
      ∀ q c h o hd, held → p.status = 0 → r.pkt.kind = 1 → r.piece = some q → q.dst = .spad c h o → x.kind = .get → x.gone = [] →
        q.half = 0 → e = engineOf x.core → 4 * p.dlen = q.len → q.len ≤ 128 → handleOf s c h = some hd → Sound (coreOf s c) hd →
        o + q.len ≤ hd.size → Gives .data s fun t => findReq t e p.seq = none ∧ t.mem = s.mem ∧
          (∀ j, j < q.len → byteOf (coreOf t c) hd (o + j) = p.data.extractLsb' (8 * j) 8) ∧
          (∀ j, j < hd.size → (j < o ∨ o + q.len ≤ j) → byteOf (coreOf t c) hd j = byteOf (coreOf s c) hd j) ∧
          (x.pieces = [] → reqsOf s e x.id = [r] → (c, h, o / 128) ∈ x.unfilled → x.tainted = [] →
            lineState (coreOf t c) hd (o / 128) = .full)) ∧
    (takeKind s 9 = some (st, p, s1) → p.agent < 64 →
      (findReq s e p.seq = none → exec .ack s = .next s1) ∧
      (held → Gives .ack s fun t => t.mem = s.mem ∧ t.cores = s.cores ∧ ended t fun y => y.status = max x.status p.status)) ∧
    (∀ m, takeKind s 9 = some (st, p, s1) → 64 ≤ p.agent → (home s (st / 2)).mcasts = [m] → m.no % 2 ^ 32 = p.seq.toNat →
      (m.owed.filter (· ≠ p.paddr) ≠ [] → Gives .ack s fun t => t.mem = s.mem ∧ t.inbox = s1.inbox ∧ t.waiting = s.waiting ∧
        (home t (st / 2)).mcasts = [{ m with owed := m.owed.filter (· ≠ p.paddr) }]) ∧
      (m.owed.filter (· ≠ p.paddr) = [] → Gives .ack s fun t => t.mem = s.mem ∧ (home t (st / 2)).mcasts = [] ∧
        (m.dst ≠ 2 * (st / 2) + 1 → ∃ w, t.waiting = s.waiting ++ [w] ∧ w.dst = m.dst ∧ w.pkt = m.reply))) ∧
    (takeKind s 0xA = some (st, p, s1) →
      (findReq s e p.seq = none → exec .atomRsp s = .next s1) ∧
      (held → p.status = 0 → Gives .atomRsp s fun t => t.mem = s.mem ∧ ended t fun y => y.result = some p.opa ∧ y.status = x.status) ∧
      (held → p.status ≠ 0 → p.status < 6 → r.piece = none → Gives .atomRsp s fun t => t.mem = s.mem ∧
        ended t fun y => y.result = x.result ∧ y.status = max x.status p.status)) ∧
    (takeKind s 0xE = some (st, p, s1) →
      (findReq s e p.seq = none → exec .refuse s = .next s1) ∧
      (held → x.kind = .atom → r.piece = none → Gives .refuse s fun t => t.mem = s.mem ∧
        ended t fun y => y.result = some (recoveryToken e r.seq) ∧ y.status = max x.status 6)) ∧
    (takeKind s 0xB = some (st, p, s1) →
      let key : WpKey := ⟨p.opa.toNat / 2 ^ 32, p.opa.toNat / 2 ^ 12 % 2 ^ 20⟩
      (heldByCore s key = none → p.status = 0 → Gives .notify s fun t => t.mem = s.mem ∧ ∃ g ∈ t.agenda,
        g.what = some .dispatcherNotify ∧ g.arg.die = st / 2 ∧ g.arg.wp = key) ∧
      ∀ c w, heldByCore s key = some c → (coreOf s c).mode = .answer → (coreOf s c).wp = key → findWp s key = some w →
        w.preempt = false → (launchOf s key.launch).ending = .running →
        let k := coreOf s c
        (p.status = 1 → Gives .notify s fun t => coreOf t c = { k with mode := .running } ∧
          ∃ w', findWp t key = some w' ∧ w'.state = .running ∧ w'.resume = w.start.1) ∧
        (p.status = 2 → Gives .notify s fun t => (coreOf t c).mode = .idle ∧
          ∃ w', findWp t key = some w' ∧ w'.state = .ready ∧ w'.resume = suspensionBundle k) ∧
        (p.status = 3 → Gives .notify s fun t => (coreOf t c).mode = .idle ∧
          ∃ w', findWp t key = some w' ∧ w'.state = w.state ∧ w'.resume = w.resume))

/-! ## Events: the rings -/

/-- R37, R43, R48 to R51, R60 to R63, R66. A slot passes its next station, none before another slot's turn on the ring clock. In
pass-through, on a position of another owner, or unmatched, it goes on as it is. A matching LOAD fills it with its fragment, an ADD adds
element by element, a COPY writes its payload at the local extent, an EMPTY frees it; the firing counts, and with the last one the entry
reads NOP and its flag is set. A bad CRC poisons a stream slot, frees a best-effort one and loses a token. A best-effort packet is taken at
its destination and removed at its source. A reclaimed position becomes best-effort at station 15, and with a stream's last its flags are
cleared. A waiting packet is injected into the first free slot that comes, on the lowest lane; one that has waited 64 ring clocks lets its
station mark a full slot. Where the spec leaves a choice the clauses are the model's own (log 15, 38, 40, 56). -/
def Obligations.SlotPasses : Prop :=
  ∀ s : State,
    let a := s.arg
    let key := slotKey a.dir a.lane a.pos
    let lane := (if a.dir = .west then 8 else 0) + a.lane % 8
    let x := slotOf s key
    let h := max x.hops ((s.ring - a.pos % 64 + 3) / 4)
    let y : Slot := { x with hops := h + 1 }
    let k := if a.dir = .west then 15 - h % 16 else h % 16
    let o := ownerOf s key
    let e := entryAt s k key
    let due := passDue s key = true
    let open_ := due ∧ (station s k).passThrough = false
    let empty := x.cls = 0 → x.valid = false ∨ x.dst ≠ k ∧ x.src ≠ k
    let moved := setSlot { s with ring := a.pos % 64 + 4 * h } key y
    let goesOn (t : State) : Prop := t.ring = a.pos % 64 + 4 * h ∧ slotOf t key = y ∧ entryAt t k key = e ∧ t.mem = s.mem ∧ t.inbox = s.inbox
    (∀ d, keyPos (slotKey d a.lane a.pos) = a.pos % 64 ∧ keyLane (slotKey d a.lane a.pos) = a.lane % 8) ∧
    (¬due → exec .slotPass s = .next s) ∧
    (due → (station s k).passThrough = true → (x.reclaim = false ∨ k ≠ 15 ∨ o.cls = 2) → exec .slotPass s = .next moved) ∧
    (open_ → o.cls = 2 → a.ok = true → exec .slotPass s = .next moved) ∧
    (∀ t, open_ → o.cls = 2 → a.ok = false → key = 0 → s.tokens[a.index]? = some t → t.equator = false → t.lost = false →
      Gives .slotPass s fun u => u.tokens[a.index]? = some { t with lost := true } ∧
        (station u k).crcDiscard = min ((station s k).crcDiscard + 1) 0xFFFF) ∧
    (open_ → o.cls = 2 → (key ≠ 0 ∨ ∀ t ∈ s.tokens, t.equator = true ∨ t.lost = true) → exec .slotPass s = .next moved) ∧
    (open_ → o.cls = 1 → x.reclaim = false → x.thr = false → empty → (x.valid = false ∨ a.ok = true) →
      (armed e = false → Gives .slotPass s goesOn) ∧
      (armed e = true → (o.stream = 0 ∨ entryStream e ≠ o.stream) → Gives .slotPass s fun t => goesOn t ∧
        (station t k).ownerSkip = min ((station s k).ownerSkip + 1) 0xFFFF) ∧
      (armed e = true → o.stream ≠ 0 → entryStream e = o.stream → slotMatches e y = false → Gives .slotPass s fun t => goesOn t ∧
        (station t k).ownerSkip = (station s k).ownerSkip)) ∧
    (open_ → o.cls = 1 → x.valid = true → a.ok = false → armed e = false → x.reclaim = false → x.thr = false → Gives .slotPass s fun t =>
      slotOf t key = stamp { y with poison := true, cls := 1, stream := o.stream } ∧
        (station t k).crcDiscard = min ((station s k).crcDiscard + 1) 0xFFFF) ∧
    (∀ l : Local, open_ → o.cls = 1 → x.reclaim = false → x.thr = false → empty → a.ok = true → armed e = true → o.stream ≠ 0 →
      entryStream e = o.stream → slotMatches e y = true → formatMismatch s k e y = false → extentOf s k e e.n = some l →
      converts s k e = false → x.poison = false → x.ovf = false → x.integrity = false → e.chunk = none →
      let n := entryLen e
      let entryGoesOn (t : State) : Prop :=
        (e.n < entryRep e → entryAt t k key = { e with n := e.n + 1, staged := none }) ∧
        (entryRep e ≤ e.n → entryAt t k key = {} ∧ (entryFe e = true → flagOf t k (entryFlag e) =
          { set := true, status := max (flagOf s k (entryFlag e)).status e.status }))
      (∀ f, entryOp e = 1 → stagedNow s k e = some f → f.poison = false → Gives .slotPass s fun t => entryGoesOn t ∧ t.mem = s.mem ∧
        slotOf t key = stamp { y with
          payload := BitVec.ofNat 2048 (f.bytes.toNat % 2 ^ (64 * n)), len := n, ptype := entryType e, stream := o.stream, cls := 1,
          src := k, seq := BitVec.ofNat 16 e.n, sand := 0#32, valid := true,
          exp := if entryType e = 2 then (rowOf s k o.stream).exp else 0#16 }) ∧
      (entryOp e = 1 → stagedNow s k e = none → Gives .slotPass s goesOn) ∧
      (∀ f, entryOp e = 3 → stagedNow s k e = some f → f.poison = false →
        (∀ w, w = (if entryType e = 0 then 32 else 64) →
          (∀ i, i < 64 * n / w → (x.payload.extractLsb' (w * i) w).saddOverflow (f.bytes.extractLsb' (w * i) w) = false) →
          Gives .slotPass s fun t => entryGoesOn t ∧ t.mem = s.mem ∧ (slotOf t key).valid = true ∧ (slotOf t key).ovf = false ∧
            ∀ i, i < 64 * n / w → (slotOf t key).payload.extractLsb' (w * i) w =
              x.payload.extractLsb' (w * i) w + f.bytes.extractLsb' (w * i) w)) ∧
      (entryOp e = 3 → stagedNow s k e = none → Gives .slotPass s fun t => slotOf t key = stamp { y with poison := true } ∧
        t.mem = s.mem) ∧
      (∀ c h off hd, (entryOp e = 2 ∨ entryOp e = 4) → l = .handle c h off → handleOf s c h = some hd → Sound (coreOf s c) hd →
        Gives .slotPass s fun t => entryGoesOn t ∧ slotOf t key = (if entryOp e = 4 then freeSlot y else y) ∧
          (∀ j, j < 8 * n → byteOf (coreOf t c) hd (off + j) = x.payload.extractLsb' (8 * j) 8) ∧
          ∀ j, j < hd.size → (j < off ∨ off + 8 * n ≤ j) → byteOf (coreOf t c) hd j = byteOf (coreOf s c) hd j)) ∧
    (open_ → o.cls ≠ 2 → x.cls = 0 → armed e = false → x.reclaim = false → (x.valid = false ∨ a.ok = true) → x.thr = false →
      let p : Packet := { decodePacket x.payload with origin := x.origin }
      (x.valid = true → x.dst = k → Gives .slotPass s fun t => t.inbox = s.inbox ++ [(k, p)] ∧ slotOf t key = freeSlot y ∧ t.mem = s.mem) ∧
      (∀ r z, x.valid = true → x.dst ≠ k → x.src = k → x.origin = none → p.agent < 64 → p.kind ≠ 6 →
        findReq s p.agent p.seq = some r → r.piece = none → findCmd s r.cmd = some z → Gives .slotPass s fun t =>
          slotOf t key = freeSlot y ∧ findReq t p.agent p.seq = none ∧ t.inbox = s.inbox ∧
          ∃ z', findCmd t r.cmd = some z' ∧ z'.status = max z.status 5) ∧
      ((x.valid = false ∨ x.dst ≠ k ∧ x.src ≠ k ∧ (o.cls = 1 ∨ lane ∉ (station s k).starving)) → Gives .slotPass s goesOn) ∧
      (x.valid = true → x.dst ≠ k → x.src ≠ k → o.cls = 0 → lane ∈ (station s k).starving → starvedAt s k a.dir = true →
        Gives .slotPass s fun t => slotOf t key = stamp { y with thr := true, mark := k } ∧
          (station t k).throttle = min ((station s k).throttle + 1) 0xFFFF ∧ lane ∈ (station t k).marks)) ∧
    (open_ → o.cls = 0 → armed e = false → x.reclaim = false → x.valid = true → a.ok = false → x.thr = false → Gives .slotPass s fun t =>
      slotOf t key = freeSlot y ∧ t.inbox = s.inbox ∧ (station t k).crcDiscard = min ((station s k).crcDiscard + 1) 0xFFFF) ∧
    (∀ w i, open_ → o.cls = 0 → armed e = false → x.reclaim = false → x.valid = false → x.thr = true → x.mark = k →
      s.waiting.findIdx? (fun w => w.station = k && wayTo k w.dst = a.dir) = some i →
      s.waiting[i]? = some w → w.late = none → Gives .slotPass s fun t => (slotOf t key).valid = true ∧ (slotOf t key).thr = false ∧
        (slotOf t key).payload = encodePacket w.pkt ∧ (slotOf t key).dst = w.dst ∧ (slotOf t key).src = k) ∧
    (due → o.cls = 1 → armed e = false → x.reclaim = true → a.ok = true → k = 15 → x.thr = false → empty → Gives .slotPass s fun t =>
      ownerOf t key = { cls := 0, stream := 0 } ∧ slotOf t key = stamp { freeSlot y with cls := 0, stream := 0, reclaim := false } ∧
      ∀ z j f, s.reclaiming = [z] → z.ring = .meridian → (∀ p, p < 64 → z.pos.getLsbD p = true → slotKey z.dir z.lane p = key) →
        j < 16 → streamFlag z j f = true → flagOf t j f = {}) ∧
    (∀ l f, (station s a.station).passThrough = false →
      let key := slotKey a.dir a.lane a.pos
      let e := entryAt s a.station key
      armed e = true → (entryOp e = 1 ∨ entryOp e = 3 ∨ entryOp e = 5) → e.staged = none → extentOf s a.station e e.n = some l →
      readLocal s l (extentBytes s a.station e) = some f → Gives .stageFragment s fun t => t.mem = s.mem ∧
        entryAt t a.station key = { e with staged := some f }) ∧
    ∀ w, s.waiting[a.index]? = some w → (station s w.station).passThrough = false →
      let west := decide (8 < (w.dst + 16 - w.station) % 16)
      let lane := (if west then 8 else 0) + a.lane % 8
      (injection s w = none → exec .beInject s = .next s) ∧
      (∀ key t, injection s w = some (key, t) →
        keyWest key = west ∧ freeFor s key = true ∧ s.ring ≤ t ∧ keyPos key ≤ t ∧
        (w.station < 16 → passStation west ((t - keyPos key) / 4) = w.station) ∧
        (∀ l, l < keyLane key → freeFor s (slotKey (if west then .west else .east) l (keyPos key)) = false) ∧
        (w.late = none → Gives .beInject s fun u => u.ring = t ∧
          u.waiting = s.waiting.eraseIdx a.index ∧ (slotOf u key).valid = true ∧ (slotOf u key).payload = encodePacket w.pkt ∧
          (slotOf u key).src = w.station ∧ (slotOf u key).dst = w.dst)) ∧
      ((s.ring < w.since + 64 ∨ lane ∈ (station s w.station).starving ∨ lane ∈ (station s w.station).marks) →
        exec .beStarved s = .next s) ∧
      (w.since + 64 ≤ s.ring → lane ∉ (station s w.station).starving → lane ∉ (station s w.station).marks →
        exec .beStarved s = .next (modStation s w.station fun t => { t with starving := t.starving ++ [lane] }))

/-- R41, R405 to R407, R412, R413. A token stands at a station as the ring's control slot does. A barrier token takes the arrivals at each
station that it passes and ends the barrier once every live member is among them: at RG.BAR it releases the members, where some stand at
RG.STEP it gives each BARRIER_MISMATCH. A HANDSHAKE takes in each party's exponent, progress and agreement, and rank 0 answers it with GO
at ChooseExp's exponent, or ABORT. GO starts a call and gives the rows of an F32 plan's streams the exponent; ABORT ends it with status 8,
and no memory changes. A token lost is sent again, one copy higher, with its originator's arrivals alone, once its time has passed. Where
the spec leaves a choice the clauses are the model's own (log 38). -/
def Obligations.ControlTokens : Prop :=
  ∀ s : State,
    let a := s.arg
    let k := a.station
    let g := a.group
    let b := barrierOf s g
    let here := arrivedAt s g k
    let onRing := effectiveScope (launchOf s g.launch) g.level = 1 ∧ k < 16 ∧ (station s k).passThrough = false ∧
      acrossPackages s g = false ∧ controlAt s k = true
    let parties := partiesAt s k a.index (decide (k = 16))
    (k < 16 → (controlAt s k = true ↔ nextPass s 0 % 16 = (k + 1) % 16)) ∧
    (controlAt s k = false → exec .barrierToken s = .next s ∧ exec .handshake s = .next s) ∧
    (onRing → here = [] → barrierTokenOf s g = none → exec .barrierToken s = .next s) ∧
    (onRing → here ≠ [] → barrierTokenOf s g = none → (∃ w ∈ liveMembers s g, w.key.wpid ∉ here) → Gives .barrierToken s fun t =>
      t.mem = s.mem ∧ barrierOf t g = b ∧ ∃ x, barrierTokenOf t g = some x ∧ x.origin = k ∧ x.count = b.gen ∧ x.copy = 0 ∧
        ∀ n, n ∈ x.arrived ↔ n ∈ here) ∧
    (∀ x, onRing → barrierTokenOf s g = some x → x.lost = false →
      ((∃ w ∈ liveMembers s g, w.key.wpid ∉ x.arrived ∧ w.key.wpid ∉ here) → Gives .barrierToken s fun t => barrierOf t g = b ∧
        ∃ y, barrierTokenOf t g = some y ∧ ∀ n, n ∈ y.arrived ↔ n ∈ x.arrived ∨ n ∈ here) ∧
      (allArrived s g = true → (∀ w ∈ liveMembers s g, w.key.wpid ∈ x.arrived ∨ w.key.wpid ∈ here) →
        (b.atBar ≠ [] → b.atStep = [] → Gives .barrierToken s fun t => barrierTokenOf t g = none ∧ t.mem = s.mem ∧
          barrierOf t g = { gen := (b.gen + 1) % 2 ^ 32, release := b.atBar }) ∧
        (b.atBar ≠ [] → b.atStep ≠ [] → Gives .barrierToken s fun t => barrierTokenOf t g = none ∧ t.mem = s.mem ∧
          barrierOf t g = { gen := (b.gen + 1) % 2 ^ 32, mismatch := b.atStep ++ b.atBar }))) ∧
    (∀ x, onRing → barrierTokenOf s g = some x → x.lost = true → exec .barrierToken s = .next s) ∧
    (∀ x c p sl q em, k < 16 → controlAt s k = true → s.tokens.find? (fun t => isToken t 0x10 a.index false) = some x → x.lost = false →
      parties = [(c, p, sl, q)] → q.started = false → c ∉ x.arrived → sourceExponent s c sl q = some em →
      let merged := max x.em em
      let wrong := x.mismatch = true ∨ x.seq ≠ q.seq ∨ x.op ≠ sl.plan.op ∨ (sl.plan.op = 0 ∧ x.ty ≠ sl.plan.ty) ∨
        x.count ≠ q.count ∨
        x.res ≠ q.resume
      let now (t : State) (kind : Nat) (y : Token) : Prop :=
        t.mem = s.mem ∧ t.tokens.find? (fun t => isToken t kind a.index false) = some y
      ((sl.plan.rank ≠ 0 ∨ x.arrived.length + 1 + x.others < x.nparty) → Gives .handshake s fun t => ∃ y, now t 0x10 y ∧
        y.arrived = x.arrived ++ [c] ∧ y.em = merged ∧ y.prog = min x.prog (progressOf sl.plan q) ∧ (y.mismatch = true ↔ wrong)) ∧
      (sl.plan.rank = 0 → x.nparty ≤ x.arrived.length + 1 + x.others →
        (¬wrong → Gives .handshake s fun t => ∃ y, now t 0x11 y ∧ y.seq = x.seq ∧
          y.e = max (-32768) (min 32767 (merged + ceilLog2 x.nparty - 62))) ∧
        (wrong → Gives .handshake s fun t => ∃ y, now t 0x12 y ∧ y.seq = x.seq))) ∧
    (∀ x c p sl q, k < 16 → controlAt s k = true → s.tokens.find? (fun t => isToken t 0x11 a.index false) = some x → x.lost = false →
      parties = [(c, p, sl, q)] → Map.find (coreOf s c).plans p = some sl → sl.call = some q → q.seq = x.seq →
      (∀ z ∈ s.cmds, z.begun = true) →
      (q.started = false → Gives .go s fun t => t.mem = s.mem ∧
        (∃ sl' q', Map.find (coreOf t c).plans p = some sl' ∧ sl'.call = some q' ∧ q'.started = true ∧ q'.seq = q.seq) ∧
        (sl.plan.op = 0 → sl.plan.ty = 3 → ∀ y ∈ sl.plan.chunks, ∀ st, (launchOf s sl.launch).streams[y.stream]? = some st →
          rowOf t (streamStation c st y.msta) st.id = { exp := BitVec.ofInt 16 x.e, cvt := true })) ∧
      (q.started = true → Gives .go s fun t => t.mem = s.mem ∧ t.stations = s.stations ∧ t.cores = s.cores)) ∧
    (∀ x c p sl q, k < 16 → controlAt s k = true → s.tokens.find? (fun t => isToken t 0x12 a.index false) = some x → x.lost = false →
      parties = [(c, p, sl, q)] → Map.find (coreOf s c).plans p = some sl → sl.call = some q → q.started = false → q.running = true →
      (∀ z ∈ s.cmds, z.begun = true) → Gives .abort s fun t => t.mem = s.mem ∧ t.stations = s.stations ∧
        ∃ sl' q', Map.find (coreOf t c).plans p = some sl' ∧ sl'.call = some q' ∧ q'.running = false ∧ q'.status = max q.status 8) ∧
    ∀ x, a.index < 0x1000 → s.tokens[a.index]? = some x →
      (x.lost = false → exec .tokenResend s = .next s) ∧
      (s.ring < x.sentAt + (if x.equator then (s.eq.qE + 8) * 24 else 72) → exec .tokenResend s = .next s) ∧
      (x.lost = true → x.sentAt + (if x.equator then (s.eq.qE + 8) * 24 else 72) ≤ s.ring → (x.kind = 4 ∨ x.kind = 5) →
        Gives .tokenResend s fun t => t.mem = s.mem ∧ ∃ y, t.tokens[a.index]? = some y ∧ y.copy = (x.copy + 1) % 65536 ∧
          y.lost = false ∧ y.count = x.count ∧ y.arrived = arrivedAt s x.key x.origin)

/-! ## Events: start-up, dies, supply and alarms -/

/-- R17, R20 to R24, R34, R35. Power-on reset makes the machine of State.reset, and the copies lock to within two ticks. Reset released,
the device stands in Harbour where its advance is held, else at stage 1; each stage ends in the next, with the failing dies in
pass-through, or in Harbour with its reason; the last in Underway with the tested dies in service and clean stations. A supply out of
range for more than 1 ms and a sensor at 115 °C end in Harbour, with the live launches ABORTED first; a hot die slows by 100 MHz down to
1,000, another quickens up to 2,100. Where the spec leaves a choice the clauses are the model's own (log 10, 47). -/
def Obligations.StartUp : Prop :=
  ∀ s : State,
    let a := s.arg
    let st := s.mgmt.stage
    let advances (n : Nat) (t : State) : Prop := t.mgmt.devState = 2 ∧ t.mgmt.stage = n ∧ t.mem = s.mem
    Gives .powerOnReset s (fun t =>
      t = { State.reset with agenda := s.agenda, arg := a, out := s.out, hostMem := s.hostMem, skew := t.skew,
                             chronFloor := t.chronFloor } ∧
      ∀ d, d < 16 → -2 ≤ Map.get t.skew d 0 ∧ Map.get t.skew d 0 ≤ 2 ∧ copyOf t d = 0) ∧
    (s.mgmt.resetAsserted = true → Gives .fundamentalResetDeassert s fun t => t.mgmt.resetAsserted = false ∧ t.mem = s.mem ∧
      (s.mgmt.autoHeld = true → t.mgmt.devState = 1 ∧ t.mgmt.stage = 0 ∧ t.mgmt.reason = 2) ∧
      (s.mgmt.autoHeld = false → t.mgmt.devState = 2 ∧ t.mgmt.stage = 1) ∧
      (s.mgmt.autoHeld = false → s.mgmt.devState = 1 → t.out = s.out ++ [.msix 66])) ∧
    (s.mgmt.devState = 2 →
      ((st = 1 ∨ st = 4 ∨ st = 5) → a.ok = true → Gives .advanceStageComplete s (advances (st + 1))) ∧
      (st = 1 → a.ok = true → Gives .advanceStageComplete s fun t => t.mgmt.running = s.mgmt.image) ∧
      (st = 2 → a.failed = 0#8 → s.mgmt.untrained = 0#8 → Gives .advanceStageComplete s (advances 3)) ∧
      (st = 3 → a.failed ≠ 0xFF#8 → Gives .advanceStageComplete s fun t => advances 4 t ∧ t.mgmt.tested = ~~~a.failed ∧
        ∀ d, d < 8 → (station t (2 * d)).passThrough = a.failed.getLsbD d) ∧
      (s.mgmt.leaving = none →
        (st = 1 → a.ok = false → Gives .advanceStageComplete s (Returns s 3)) ∧
        (st = 2 → a.failed ||| s.mgmt.untrained ≠ 0#8 → Gives .advanceStageComplete s fun t => Returns s 4 t ∧
          t.mgmt.untrained = a.failed ||| s.mgmt.untrained) ∧
        (st = 3 → a.failed = 0xFF#8 → Gives .advanceStageComplete s fun t => Returns s 5 t ∧ t.mgmt.stage = 3) ∧
        ((st = 4 ∨ st = 6) → a.ok = false → Gives .advanceStageComplete s (Returns s 6)) ∧
        (st = 5 → a.ok = false → Gives .advanceStageComplete s (Returns s 7))) ∧
      (st = 6 → a.ok = true → Gives .advanceStageComplete s fun t => t.mgmt.devState = 3 ∧ t.mgmt.stage = 7 ∧
        t.mgmt.csvc = s.mgmt.tested ∧ t.mgmt.cdrain = 0#8 ∧ t.owners = [] ∧ t.reclaiming = [] ∧
        (∀ key, slotOf t key = { hops := (slotOf s key).hops }) ∧
        t.mgmt.reason = (if s.mgmt.tested = 0xFF#8 ∧ s.mgmt.msvc = 0xFF#8 ∧ s.mgmt.retired = 0#8 then 0 else 8) ∧
        ∀ k n, (entryAt t k n).word = 0#64 ∧ flagOf t k n = {})) ∧
    exec .supplyRangeChange s = .next { s with mgmt := { s.mgmt with
      supplyOut := !a.ok, supplySince := if s.mgmt.supplyOut then s.mgmt.supplySince else s.chron } } ∧
    (s.mgmt.supplyOut = true → s.mgmt.supplySince + 1000000 < s.chron → s.mgmt.devState ≠ 1 → s.mgmt.leaving = none →
      Gives .supplyTimeout s (Returns s 0x0B)) ∧
    ((∃ x ∈ a.nums, 115 ≤ x) → s.mgmt.devState ≠ 1 → s.mgmt.leaving = none → Gives .temperatureReport s (Returns s 0x0A)) ∧
    ((∀ x ∈ a.nums, x < 115) → Gives .temperatureReport s fun t =>
      t = { s with mgmt := { s.mgmt with clocks := t.mgmt.clocks } } ∧ ∀ d, d < 8 → clockOf t d =
        if s.mgmt.powerCap < a.nums2.headD 0 ∨ 105 < a.nums.getD d 0 then max (clockOf s d - 100) 1000
        else min (clockOf s d + 100) 2100)

/-- R25 to R32, R414. A DIE_CMD command is ignored while one is in progress, refused with its status, or in progress with its die; DRAIN_C
marks the die as draining. Each ends as R25 to R31 give: a drained die is out of service in pass-through, its dispatcher's entries moved
before its commands are waited for; a reset die may return once its self-test passed, and a returned one is back in service; a memory die
is retired when it has no request left, or returned; a reset one serves again, or waits for another RESET_M. Where the spec leaves a choice
the clauses are the model's own (log 47), that a reset stack reads as zero among them (log 6). -/
def Obligations.DieService : Prop :=
  ∀ s : State,
    let g := s.mgmt
    let n := s.arg.die % 8
    let b := dieBit n
    let up := underway s = true
    let refused (i : Instr) (cmd code : Nat) : Prop :=
      exec i s = .next { s with mgmt := { g with dieCmd := cmd, dieIdx := n, dieStatus := code, job := .none } }
    let begun (cmd : Nat) (job : DieJob) (t : State) : Prop :=
      t.mgmt.dieCmd = cmd ∧ t.mgmt.dieIdx = n ∧ t.mgmt.dieStatus = 1 ∧ t.mgmt.job = job
    let over_ (code : Nat) (t : State) : Prop := t.mgmt.dieStatus = code ∧ t.mgmt.job = .none
    (g.dieStatus = 1 → ∀ i ∈ [Instr.drainC, .resetC, .returnC, .retireM, .returnM, .resetM], exec i s = .next s) ∧
    (g.dieStatus ≠ 1 →
      ((¬up ∨ g.csvc.getLsbD n = false) → refused .drainC 1 5) ∧
      (up → g.csvc = b → refused .drainC 1 2) ∧
      (up → g.csvc.getLsbD n = true → g.csvc ≠ b → Gives .drainC s fun t =>
        begun 1 (.drain n false) t ∧ t.mgmt.cdrain = g.cdrain ||| b ∧ t.mgmt.csvc = g.csvc) ∧
      ((¬up ∨ g.csvc.getLsbD n = true) → refused .resetC 2 5) ∧
      (up → g.csvc.getLsbD n = false → Gives .resetC s fun t => begun 2 (.reset n) t ∧ t.mgmt.resetDone = g.resetDone &&& ~~~b ∧
        ∀ c, dieOf c = n → (coreOf s c).handles = [] → coreOf t c = {}) ∧
      ((¬up ∨ g.csvc.getLsbD n = true ∨ g.resetDone.getLsbD n = false) → refused .returnC 3 5) ∧
      (up → g.csvc.getLsbD n = false → g.resetDone.getLsbD n = true → Gives .returnC s (begun 3 (.ret n))) ∧
      ((¬up ∨ g.msvc.getLsbD n = false) → refused .retireM 4 5) ∧
      (up → g.msvc.getLsbD n = true → n = 7 → refused .retireM 4 4) ∧
      (up → g.msvc.getLsbD n = true → n ≠ 7 → homesRemain s n = true → refused .retireM 4 3) ∧
      (up → g.msvc.getLsbD n = true → n ≠ 7 → homesRemain s n = false → Gives .retireM s (begun 4 (.retireM n))) ∧
      ((¬up ∨ g.msvc.getLsbD n = true) → refused .returnM 5 5) ∧
      (up → g.msvc.getLsbD n = false → Gives .returnM s (begun 5 (.returnM n))) ∧
      (g.devState ≠ 1 → refused .resetM 6 5) ∧
      (g.devState = 1 → Gives .resetM s (begun 6 (.resetM n)))) ∧
    ∀ d, d < 8 →
      (∀ moved, g.job = .drain d moved → (moved = true ∨ drainEvacuated (holdLaunches s d) d = true) →
        (∀ x ∈ s.cmds, dieOf x.core ≠ d) → Gives .drainCComplete s fun t => over_ 0 t ∧
          t.mgmt.csvc = g.csvc &&& ~~~dieBit d ∧ t.mgmt.cdrain = g.cdrain &&& ~~~dieBit d ∧ (station t (2 * d)).passThrough = true) ∧
      (g.job = .drain d false → drainEvacuated (holdLaunches s d) d = true → (∃ x ∈ s.cmds, dieOf x.core = d) →
        exec .drainCComplete s = .next (endEvacuation (holdLaunches s d) d)) ∧
      (g.job = .reset d → Gives .resetCComplete s fun t => over_ (if s.arg.ok then 0 else 6) t ∧
        t.mgmt.resetDone = if s.arg.ok then g.resetDone ||| dieBit d else g.resetDone) ∧
      (g.job = .ret d → Gives .returnCComplete s fun t => over_ 0 t ∧ t.mgmt.csvc = g.csvc ||| dieBit d ∧
        (station t (2 * d)).passThrough = false ∧ ∀ l ∈ t.launches, d ∉ l.heldFor) ∧
      (g.job = .retireM d → requestsLeft s d = true → exec .retireMComplete s = .next s) ∧
      (g.job = .retireM d → requestsLeft s d = false →
        Gives .retireMComplete s fun t => over_ 0 t ∧ t.mgmt.msvc = g.msvc &&& ~~~dieBit d ∧
          t.mgmt.retired = g.retired ||| dieBit d ∧ (station t (2 * d + 1)).passThrough = true) ∧
      (g.job = .returnM d → Gives .returnMComplete s fun t => over_ (if s.arg.ok then 0 else 6) t ∧
        (s.arg.ok = true → t.mgmt.msvc = g.msvc ||| dieBit d ∧ t.mgmt.retired = g.retired &&& ~~~dieBit d ∧
          (station t (2 * d + 1)).passThrough = false)) ∧
      (g.job = .resetM d → Gives .resetMComplete s fun t => over_ (if s.arg.ok then 0 else 6) t ∧
        t.mgmt.msvc = (if s.arg.ok then g.msvc ||| dieBit d else g.msvc &&& ~~~dieBit d) ∧
        t.mgmt.untrained = (if s.arg.ok then g.untrained &&& ~~~dieBit d else g.untrained ||| dieBit d) ∧
        (s.arg.ok = true → (station t (2 * d + 1)).passThrough = false) ∧
        (∀ x, x < Config.dieSpan → readByte t.mem (dpaOf d x) = 0#8) ∧
        ∀ x, dpaDie x ≠ d → readByte t.mem x = readByte s.mem x)

/-- R33, R96, R97, R122, R207, R230. A detector raises the alarm level to its own where it is higher, with a log entry, and level 3 clears
every session and key, shuts the host link and returns to Harbour; CLR2 clears level 2 alone. A Sighting trigger becomes the pending one,
displaces a later one or is missed; every die's blocks are latched when its copy has come to the instant, and with the last of them the
Sighting is valid; arming and clearing VALID are as R33 gives. A translation command drops the entries it names from every engine, scope 2
the region-table caches too, is busy until the requests then in progress have performed, and is ignored while one is busy. Where the spec
leaves a choice the clauses are the model's own (log 24). -/
def Obligations.AlarmsSightingsTranslations : Prop :=
  ∀ s : State,
    let g := s.mgmt
    let trigger (i : Instr) (s1 : State) (at_ cause : Nat) : Prop :=
      (g.armed = true → g.pendingSgt = none →
        exec i s = .next { s1 with mgmt := { s1.mgmt with pendingSgt := some (at_, cause), sgtDone := [] } }) ∧
      (∀ tp c, g.armed = true → g.pendingSgt = some (tp, c) → Gives i s fun t =>
        t.mgmt.pendingSgt = (if at_ < tp then some (at_, cause) else if at_ = tp then some (tp, max c cause) else some (tp, c)) ∧
        t.mgmt.missed = if at_ = tp then g.missed else min (g.missed + 1) 0xFFFF) ∧
      (g.armed = false → exec i s = .next { s1 with mgmt := { s1.mgmt with missed := min (g.missed + 1) 0xFFFF } })
    let raised (level cause : Nat) : Prop :=
      (level ≤ s.eq.level → exec .alarmDetector s = .next s) ∧
      (s.eq.level < level → Gives .alarmDetector s fun t => t.eq.level = level ∧
        (level ≤ 2 → ∃ e, t.mgmt.log.getLast? = some e ∧ e.cls = 5 ∧ e.code = level ∧ e.detail = cause) ∧
        (level = 3 → t.eq.sessions = [] ∧ t.eq.keys = [] ∧ t.eq.ideKeys = [] ∧ t.eq.members = 0#64 ∧
          t.eq.linkShut = true ∧ (g.devState ≠ 1 → g.leaving = none → Returns s 9 t) ∧
          (g.devState ≠ 1 → g.leaving ≠ none → t.mgmt.leaving = some 9)))
    let drops (i : Instr) (p : TlbEntry → Prop) : Prop :=
      (g.tlbBusy = true → exec i s = .next s) ∧
      (g.tlbBusy = false → Gives i s fun t => t.mgmt.tlbBusy = true ∧ t.mem = s.mem ∧
        ∀ e x, x ∈ (engine t e).tlb ↔ x ∈ (engine s e).tlb ∧ ¬p x)
    (s.arg.detector = .supplyClock → raised 1 2) ∧ (s.arg.detector = .voltageGlitch → raised 2 3) ∧
    (s.arg.detector = .tamperMesh → raised 3 4) ∧ (s.arg.detector = .clockGlitch → raised 3 5) ∧
    (s.eq.level = 2 → exec .alarmClr2 s = .next { s with eq := { s.eq with level := 0 } }) ∧
    (s.eq.level ≠ 2 → exec .alarmClr2 s = .next s) ∧
    trigger .sgtFire s (s.chron + 128) 1 ∧
    (g.cmpEn = false → trigger .sgtCompareEnable { s with mgmt := { g with cmpEn := true } } (max g.sgtTime.toNat (s.chron + 128)) 2) ∧
    exec .sgtArm s = .next { s with mgmt := { g with armed := true, valid := false, missed := 0,
                                                     snapshot := if g.pendingSgt.isSome then g.snapshot else [] } } ∧
    exec .sgtValidClear s = .next { s with mgmt := { g with valid := false } } ∧
    (∀ t c, g.pendingSgt = some (t, c) →
      let due := (List.range 17).filter fun d => decide (t ≤ copyOf s d) && !g.sgtDone.contains d
      let latched : Mgmt := { g with snapshot := g.snapshot ++ snapshotOf s due, sgtDone := g.sgtDone ++ due }
      (due = [] → exec .sightingLatch s = .next s) ∧
      (due ≠ [] → (g.sgtDone ++ due).length < 17 → exec .sightingLatch s = .next { s with mgmt := latched }) ∧
      (due ≠ [] → 17 ≤ (g.sgtDone ++ due).length → exec .sightingLatch s = .next { s with mgmt := { latched with
        armed := false, valid := true, cause := c, sgtLatch := BitVec.ofNat 64 t, pendingSgt := none, sgtDone := [] } })) ∧
    drops .tlbInvPage (fun x => x.asid = g.tlbAsid.toNat ∧ g.tlbPage.toNat * 65536 / pageBytes x.level = x.page) ∧
    drops .tlbInvAsid (fun x => x.asid = g.tlbAsid.toNat) ∧
    drops .tlbInvAll (fun _ => True) ∧
    (g.tlbBusy = false → Gives .tlbInvAll s fun t => ∀ e, (engine t e).regions = []) ∧
    (g.tlbBusy = false → Gives .tlbReleaseForwarding s fun t => t.mgmt.tlbBusy = true ∧ t.mem = s.mem ∧
      ∀ d f, f ∈ (home t d).forwarding ↔ f ∈ (home s d).forwarding ∧ f.oldPa / 65536 ≠ g.tlbPage.toNat % 2 ^ 32) ∧
    (g.tlbBusy = true → (∀ x ∈ g.tlbWait, findReq s x.1 x.2 = none) →
      exec .tlbInvComplete s = .next { s with mgmt := { g with tlbBusy := false, tlbWait := [] } })

/-! ## Events: the host, launches and the trust domain -/

/-- R9, R20, R25, R33, R84 to R86, R97 to R107, R120, R207. Register writes of the host (while reset is not asserted): GO of DIE_CMD,
TLB_INV_CTL and MB_CMD starts its command at once and is ignored while one is in progress, FIRE triggers, plain registers take the value,
a launch queue's registers are kept while it is enabled and EN = 1 enables it at once. A read of a window is answered with its 8 bytes.
R100 to R102, R105 to R107, R231. A host access to a half line reads or writes it at its home, a poisoned one is answered as poison; a
BIRSP leaves the line to the device; IDE keys are taken below alarm level 2 and open the link again; an answer over CXL.cache ends its
request; none of these passes while the link carries only configuration traffic. A line that the host holds is given up before the launch
unit reads it. LQ_ENABLE of a sound queue enables it and starts a read of its producer index line, which a notification repeats; the
read's value is kept, or stops the queue with OVERRUN and a log entry where it lies more than the queue's size ahead. Where the spec
leaves a choice the clauses are the model's own (log 42, 52, 69). -/
def Obligations.HostAccess : Prop :=
  (∀ s : State,
     let g := s.mgmt
     let w := s.arg.window
     let off := s.arg.off
     let v := s.arg.value.toNat
     let q := queueOf s (off / 64)
     let i : Instr := .registerWrite
     let acts (g' : Mgmt) (f : State → State) : Prop := exec i s = .next (f { s with mgmt := g' })
     g.resetAsserted = false →
     (w = .management → s.arg.wide ≠ 1#1024 →
       (off = 0xC → g.dieStatus = 1 → exec i s = .next s) ∧
       (off = 0xC → g.dieStatus ≠ 1 → v.testBit 31 = true → ∀ n f,
         (n, f) ∈ [(1, drainC), (2, resetC), (3, returnC), (4, retireM), (5, returnM), (6, resetM)] → v / 2 ^ 24 % 16 = n →
         acts { g with dieCmd := n, dieIdx := v / 2 ^ 16 % 8 } (f · (v / 2 ^ 16 % 8))) ∧
       (off = 0x20 → v % 2 ^ 32 = 9 → acts { g with mchkEn := true, cmpEn := false, armed := false } fireSighting) ∧
       (off = 0x5008 → g.tlbBusy = true → exec i s = .next s) ∧
       (off = 0x5008 → g.tlbBusy = false → v.testBit 31 = true → ∀ n f,
         (n, f) ∈ [(0, invalidatePage), (1, invalidateAsid), (2, invalidateAll), (3, releaseForwarding)] → v / 2 ^ 16 % 4 = n →
         acts { g with tlbScope := n, tlbAsid := BitVec.ofNat 16 v } f) ∧
       (off = 0x10000 → g.mbStatus = 1 →
         exec i s = .next { s with mgmt := { g with mbOpcode := v / 2 ^ 16 % 256, mbLen := v % 2 ^ 13 } }) ∧
       (off = 0x10000 → g.mbStatus ≠ 1 → v.testBit 31 = true → ∀ n j,
         (n, j) ∈ [(1, Instr.advance), (2, .returnHarbour), (3, .fwStage), (4, .fwCommit), (5, .powerCap), (6, .selftestInterval),
           (7, .sightRead), (8, .errlogRead), (9, .errlogClear), (10, .launchCancel), (11, .eqOwnership), (12, .admitPolicy),
           (13, .domainJoin), (14, .domainLeave), (15, .domainExpel)] → v / 2 ^ 16 % 256 = n →
         acts { g with mbOpcode := n, mbLen := v % 2 ^ 13, mbStatus := 1, mailing := .go n (v % 2 ^ 13) } (enqueue · j {})) ∧
       (off = 0x4020 → exec i s = .next { s with eq := { s.eq with tmo := s.arg.value.setWidth 32 } }) ∧
       (∀ n, n < 1024 → off = 0x11000 + 4 * n → Gives i s fun t =>
         t = { s with mgmt := { g with mbData := t.mgmt.mbData } } ∧
         ∀ x, readByte t.mgmt.mbData x =
           if 4 * n ≤ x ∧ x < 4 * n + 4 then BitVec.ofNat 8 (v / 2 ^ (8 * (x - 4 * n))) else readByte g.mbData x)) ∧
     (w = .management → s.arg.wide = 1#1024 → off = 0x28 → exec i s = .next { s with mgmt := { g with sgtTime := s.arg.value } }) ∧
     (w = .launch → off < 4096 → s.arg.wide = 1#1024 →
       (off % 64 = 0x0 ∨ off % 64 = 0x8 ∨ off % 64 = 0x10) →
       (q.en = true → exec i s = .next s) ∧
       (q.en = false → exec i s = .next (modQueue s (off / 64) fun q =>
         if off % 64 = 0x0 then { q with base := BitVec.ofNat 64 (v % 2 ^ 52 + v / 2 ^ 63 * 2 ^ 63) }
         else if off % 64 = 0x8 then { q with paddr := BitVec.ofNat 64 (v % 2 ^ 52) }
         else { q with caddr := BitVec.ofNat 64 (v % 2 ^ 52) }))) ∧
     (w = .launch → off < 4096 → off % 64 = 0x18 → s.arg.wide ≠ 1#1024 → q.en = false → v < 2 ^ 32 → v.testBit 31 = true →
       exec i s = .next (enableQueue (modQueue s (off / 64) fun q =>
         { q with ien := v.testBit 10, pcap := BitVec.ofNat 2 (v / 2 ^ 8), size := BitVec.ofNat 5 v, en := false }) (off / 64)
         s.arg.value)) ∧
     exec .configRequest s = .next { s with out := s.out ++ [.answer (BitVec.ofNat 512
       (readWindow s w (off / 4 * 4) + readWindow s w (off / 4 * 4 + 4) * 2 ^ 32))] }) ∧
  (∀ s : State,
     let a := s.arg
     let n := a.index % 64
     let q := queueOf s n
     let h := a.off / 64 * 64
     let asks (t t1 : State) (q : Queue) : Prop :=
       if q.inDevice then t = enqueue t1 .pidxReadDone { index := n }
       else t = emitLink { t1 with cxlReqs := s.cxlReqs ++ [{ agent := 72, seq := BitVec.ofNat 32 n, hpa := q.pidxAddr, kind := .rdShared }] }
         (.cxlCache 72 .rdShared q.pidxAddr 0#1024)
     (s.eq.linkShut = true → ∀ i ∈ [Instr.hostMemAccess, .birsp, .cxlCacheResponse], exec i s = .next s) ∧
     (s.mgmt.resetAsserted = false → s.eq.linkShut = false → h < 8 * Config.reservedBase → ∀ x, forwardTo s (hdmAddress h) = some x →
       a.index = 1 → a.nums = [] → (a.ok = false ∨ poisonIn s x 64 = false) →
       Gives .hostMemAccess s fun t => x / 128 ∈ (home t (dpaDie x)).held) ∧
     (s.mgmt.resetAsserted = false → s.eq.linkShut = false → h < 8 * Config.reservedBase → ∀ x, forwardTo s (hdmAddress h) = some x → a.index = 0 →
       (a.ok = true → poisonIn s x 64 = true → exec .hostMemAccess s = .next { s with out := s.out ++ [.answerPoison] }) ∧
       (a.ok = true → poisonIn s x 64 = false → exec .hostMemAccess s =
         .next { s with out := s.out ++ [.answer (BitVec.ofNat 512 (ofBytes (dramBytes s x 64)))] }) ∧
       (a.ok = false → Gives .hostMemAccess s fun t => ∀ y, readByte t.mem y =
         if x ≤ y ∧ y < x + 64 then BitVec.ofNat 8 (a.wide.toNat / 2 ^ (8 * (y - x))) else readByte s.mem y)) ∧
     (s.eq.linkShut = false → Gives .birsp s fun t => t.mem = s.mem ∧ ∀ d y,
       (y ∈ (home t d).held ↔ y ∈ (home s d).held ∧ ¬(d = dpaDie (128 * a.index) ∧ y = a.index)) ∧
       (y ∈ (home t d).snoops ↔ y ∈ (home s d).snoops ∧ ¬(d = dpaDie (128 * a.index) ∧ y = a.index))) ∧
     (2 ≤ s.eq.level → exec .ideKmKeyProg s = .next s) ∧
     (s.eq.level < 2 → Gives .ideKmKeyProg s fun t =>
       t = { s with out := s.out ++ s.eq.linkHeld, eq := { s.eq with ideKeys := t.eq.ideKeys, linkShut := false, linkHeld := [] } } ∧
       ∀ y, y ∈ t.eq.ideKeys ↔ y ∈ s.eq.ideKeys ∨ y = a.index) ∧
     (s.eq.linkShut = false → ∀ r, s.cxlReqs[a.index]? = some r →
       let s1 : State := { s with
         hostMem := writeBytes s.hostMem a.off (a.nums.map (BitVec.ofNat 8)), cxlReqs := s.cxlReqs.eraseIdx a.index }
       (r.agent = 72 → exec .cxlCacheResponse s = .next (enqueue s1 .pidxReadDone { index := r.seq.toNat })) ∧
       (r.agent ≠ 72 → findReq s r.agent r.seq = none → exec .cxlCacheResponse s = .next s1) ∧
       ∀ x, r.agent ≠ 72 → findReq s r.agent r.seq = some x →
         (r.kind = .wrInv ∨ r.kind = .itoMWr → exec .cxlCacheResponse s = .next (dropReq s1 r.agent r.seq)) ∧
         (r.kind = .rdShared ∨ r.kind = .rdCurr → exec .cxlCacheResponse s = .next (
          if 3 ≤ x.pkt.kind ∧ x.pkt.kind ≤ 5 then hostModify s1 r.agent x r.hpa
          else takeAnswer s1 r.agent x (readBytes s1.hostMem r.hpa 128)))) ∧
     (q.en = false → a.value.getLsbD 31 = true →
       let size := (a.value.extractLsb' 0 5).toNat
       let q' : Queue := { q with ien := a.value.getLsbD 10, pcap := a.value.extractLsb' 8 2, size := a.value.extractLsb' 0 5,
                                  pidx := none }
       let sound := 2 ≤ size ∧ size ≤ 16 ∧ q.baseAddr % 4096 = 0 ∧ q.pidxAddr % 64 = 0 ∧ q.cidxAddr % 4 = 0
       (¬sound → Gives .lqEnable s fun t => queueOf t n = q' ∧ t.mem = s.mem) ∧
       (sound → underway s = true → q.reading = false →
         Gives .lqEnable s fun t => queueOf t n = { q' with en := true, overrun := false, reading := true } ∧ t.mem = s.mem)) ∧
     (q.en = true → underway s = true → a.nums = [] →
       (q.reading = true → exec .pidxNotify s = .next (modQueue s n fun q => { q with again := true })) ∧
       (q.reading = false → Gives .pidxNotify s fun t => asks t (modQueue s n fun q => { q with reading := true }) q)) ∧
     (underway s = true → Gives .cxlLinkRecover s fun t => t.mem = s.mem ∧ t.launches = s.launches ∧ ∀ i, i < 64 →
       queueOf t i = if (queueOf s i).en then (if (queueOf s i).reading then { queueOf s i with again := true }
         else { queueOf s i with reading := true }) else queueOf s i) ∧
     (∀ line, q.reading = true → (∀ r ∈ s.cxlReqs, ¬(r.agent = 72 ∧ r.seq.toNat = n)) → queueHeld s q q.pidxAddr 4 = some line →
       exec .pidxReadDone s = .next (sendSnoop s line)) ∧
     (∀ bs, q.reading = true → (∀ r ∈ s.cxlReqs, ¬(r.agent = 72 ∧ r.seq.toNat = n)) → queueHeld s q q.pidxAddr 4 = none →
       queueRead s q q.pidxAddr 4 = some bs →
       let p := BitVec.ofNat 32 (ofBytes bs)
       (¬(q.en = true ∧ underway s = true) →
         exec .pidxReadDone s = .next (modQueue s n fun q => { q with reading := false, again := false })) ∧
       (q.en = true → underway s = true → 2 ^ q.size.toNat < (p - q.cidx).toNat → Gives .pidxReadDone s fun t =>
         queueOf t n = { q with reading := false, again := false, en := false, overrun := true, pidx := none } ∧
         ∃ e ∈ t.mgmt.log, e.cls = 4 ∧ e.code = 0x20000 + n) ∧
       (q.en = true → underway s = true → (p - q.cidx).toNat ≤ 2 ^ q.size.toNat → Gives .pidxReadDone s fun t =>
         queueOf t n = { q with reading := q.again, again := false, pidx := some p })))

/-- R23, R35, R73, R86, R87, R91, R118, R120 to R123, R154. A mailbox command outside its states ends WRONG_STATE, with an input out of
range BAD_ARG, and is ignored while another is in progress; else it has its effect and ends with its status and output, and vector 64 is
sent. ADVANCE and FW_COMMIT end later, by MAILBOX_COMMAND_END. Where the spec leaves a choice the clauses are the model's own (log 43). -/
def Obligations.MailboxCommands : Prop :=
  ∀ s : State,
    let g := s.mgmt
    let len := mailLen g
    let num (off n : Nat) : Nat := ofBytes (readBytes g.mbData off n)
    let parked := g.devState = 1
    let up := g.devState = 3
    let ends (s1 : State) (st : Nat) : State := emit { s1 with mgmt := { s1.mgmt with mbStatus := st, mbOlen := 0, mailing := .none } }
      (.msix 64)
    let free (i : Instr) : Prop := g.mbStatus ≠ 1 ∨ ∃ op n, mailCommand op = some i ∧ g.mailing = .go op n
    let runs (i : Instr) (P : State → Prop) : Prop := free i → Gives i s P
    let gives (i : Instr) (s1 : State) (st : Nat) : Prop := Gives i s fun t => t = { ends s1 st with mgmt := { (ends s1 st).mgmt with
      mbData := t.mgmt.mbData } } ∧ ∀ x, readByte t.mgmt.mbData x = readByte s1.mgmt.mbData x
    let does (i : Instr) (s1 : State) (st : Nat) : Prop := free i → gives i s1 st
    let entry (i : Nat) : Nat := num (4 * i) 4
    let withEq (f : Equator → Equator) : State := { s with eq := f s.eq }
    let self := s.eq.pkg
    let tuned (n : Nat) : State :=
      let s1 := { s with mgmt := { g with stInterval := n } }
      { s1 with disps := s.disps.map fun (e : Nat × Dispatcher) => (e.1, { e.2 with testPeriod := testPeriodNow s1 e.1 }) }
    (∀ i ∈ [Instr.advance, .returnHarbour, .fwStage, .fwCommit, .powerCap, .selftestInterval, .sightRead, .errlogRead,
      .errlogClear, .launchCancel, .eqOwnership, .admitPolicy, .domainJoin, .domainLeave, .domainExpel], ¬free i → exec i s = .next s) ∧
    ((¬parked → does .advance s 4) ∧
      (¬up → ∀ i ∈ [Instr.returnHarbour, .launchCancel, .eqOwnership, .domainJoin, .domainLeave, .domainExpel], does i s 4) ∧
      (¬up → ¬parked → ∀ i ∈ [Instr.fwStage, .fwCommit, .powerCap, .selftestInterval, .sightRead, .errlogRead, .errlogClear, .admitPolicy],
        does i s 4) ∧
      (parked → len = 0 → runs .advance fun t => t.mgmt.devState = 2 ∧ t.mgmt.stage = 1 ∧ t.mgmt.mbStatus = 1 ∧
        t.mgmt.mailing = .advance) ∧
      (up → len = 0 → g.leaving = none → runs .returnHarbour fun t => Returns s 0x0C t ∧ t.mgmt.mbStatus = 0) ∧
      (up ∨ parked →
        (8 ≤ len → len ≤ 4096 → num 0 8 + (len - 8) ≤ 2 ^ 26 → runs .fwStage fun t => t.mgmt.mbStatus = 0 ∧
          ∀ x, readByte t.mgmt.staged x = if num 0 8 ≤ x ∧ x < num 0 8 + (len - 8) then readByte g.mbData (8 + (x - num 0 8))
            else readByte g.staged x) ∧
        (len = 0 → free .fwCommit → exec .fwCommit s = .next { s with mgmt := { g with mbStatus := 1, mailing := .fwCommit } }) ∧
        (len = 4 → 2000 ≤ num 0 4 → num 0 4 ≤ 3600 → does .powerCap { s with mgmt := { g with powerCap := num 0 4 } } 0) ∧
        (len = 4 → (num 0 4 < 2000 ∨ 3600 < num 0 4) → does .powerCap s 3) ∧
        (len = 4 → 1 ≤ num 0 4 → num 0 4 ≤ 3600 → does .selftestInterval (tuned (num 0 4)) 0) ∧
        (len = 4 → (num 0 4 < 1 ∨ 3600 < num 0 4) → does .selftestInterval s 3) ∧
        (len = 8 → num 0 1 ≤ 16 → num 1 1 ≤ 5 → (∃ b ∈ blocksOfDie (num 0 1), b.1 = num 1 1 ∧ num 2 2 < b.2) → num 4 4 < snapWords (num 1 1) →
          runs .sightRead fun t => t.mgmt.mbStatus = 0 ∧ t.mgmt.mbOlen = 8 * (snapWords (num 1 1) - num 4 4) ∧
            ∀ i, i < snapWords (num 1 1) - num 4 4 → ofBytes (readBytes t.mgmt.mbData (8 * i) 8) =
              (Map.get g.snapshot (snapKey (num 0 1) (num 1 1) (num 2 2) (num 4 4 + i)) 0#64).toNat) ∧
        (len = 8 → 1 ≤ num 4 4 → num 4 4 ≤ 63 → runs .errlogRead fun t => t.mgmt.mbStatus = 0 ∧ t.mgmt.log = g.log ∧
          ofBytes (readBytes t.mgmt.mbData 0 4) = (g.logNext - g.log.length) % 2 ^ 32 ∧
          ofBytes (readBytes t.mgmt.mbData 4 4) = min g.logLost (2 ^ 32 - 1) ∧ ∃ n, n ≤ num 4 4 ∧ t.mgmt.mbOlen = 8 + 64 * n) ∧
        (len = 0 → does .errlogClear { s with mgmt := { g with log := [], logLost := 0 } } 0) ∧
        (num 64 4 ≤ 16 → len = 68 + 64 * num 64 4 → does .admitPolicy (withEq fun e => { e with
          policyRoot := some (BitVec.ofNat 512 (num 0 64)),
          policyList := (List.range (num 64 4)).map fun i => BitVec.ofNat 512 (num (68 + 64 * i) 64) }) 0)) ∧
      (up → len = 5 → num 0 1 < 64 →
        ((∀ l ∈ s.launches, ¬(l.queue = num 0 1 ∧ l.record = num 1 4 ∧ l.sys = false)) → does .launchCancel s 7) ∧
        ∀ l, (s.launches.find? fun l => l.queue = num 0 1 && l.record = num 1 4 && !l.sys) = some l →
          runs .launchCancel fun t => t.mgmt.mbStatus = 0 ∧ ∀ x ∈ t.launches, x.id = l.id → x.ending ≠ .running) ∧
      (up → len = 4096 → (∀ i, i < 1024 → entry i / 2 ^ 10 % 4 ≠ 3) → runs .eqOwnership fun t => t.mgmt.mbStatus = 0 ∧
        ∀ i, i < 1024 → (Map.get t.eq.owners i 0#32).toNat =
          if i % 512 = 0 then 0 else entry i / 2 ^ 19 * 2 ^ 19 + entry i % 2 ^ 12) ∧
      (up → len = 0 →
        ((memberOf s self = true ∨ 2 ≤ s.eq.level) → does .domainJoin s 5) ∧
        (memberOf s self = false → s.eq.level < 2 → does .domainJoin
          (emit (withEq fun e => { e with joining := true, dstate := 1 }) (.token 0 (BitVec.ofNat 6 self) 0#32 (maskOf self))) 0) ∧
        (memberOf s self = false → does .domainLeave s 5) ∧
        (memberOf s self = true → does .domainLeave (askRekey s 0#64 (maskOf self)) 0)) ∧
      (up → len = 1 → num 0 1 < 64 →
        ((memberOf s (num 0 1) = false ∨ memberOf s self = false) → does .domainExpel s 5) ∧
        (memberOf s (num 0 1) = true → memberOf s self = true →
          does .domainExpel (askRekey s 0#64 (maskOf (num 0 1))) 0))) ∧
    (g.mailing = .advance → up → gives .mailboxCommandEnd s 0) ∧
    (g.mailing = .advance → parked → gives .mailboxCommandEnd s 6) ∧
    (g.mailing = .fwCommit → gives .mailboxCommandEnd
      (if Config.imageVerifies g.staged = true then { s with mgmt := { g with verified := true, image := g.staged } } else s)
      (if Config.imageVerifies g.staged = true then 0 else 6))

/-- R42 to R45, R73, R105, R108 to R116. An accepted record moves its queue's consumer index on; a sound one is a live launch under an id
of its own, another leaves a log entry with its reason. A granted stream has its id and owns its positions; a launch with every stream
granted gets its root waypoint, READY at its entry. A launch that is over leaves no launch, waypoint, handle, plan or barrier, its record
is written and its queue's vector sent. A line that the host holds is asked back first. Where the spec leaves a choice the clauses are the
model's own (log 44). -/
def Obligations.Launches : Prop :=
  ∀ s : State, underway s = true →
    (∀ n line, s.launches.length < 1024 → nextQueue s = some n →
      let q := queueOf s n
      queueHeld s q (q.baseAddr + 256 * (q.cidx.toNat % 2 ^ q.size.toNat)) 256 = some line →
      (queueRead s q (q.baseAddr + 256 * (q.cidx.toNat % 2 ^ q.size.toNat)) 256).isSome = true →
      exec .launchRecordAccept s = .next (sendSnoop s line)) ∧
    (∀ n r s3, s.launches.length < 1024 → nextQueue s = some n →
      let q := queueOf s n
      let v := validate s r (recordLaunch r (freshLaunchId s) n q.cidx.toNat) q.pcap.toNat
      queueRead s q (q.baseAddr + 256 * (q.cidx.toNat % 2 ^ q.size.toNat)) 256 = some r →
      acceptHeld s q (q.baseAddr + 256 * (q.cidx.toNat % 2 ^ q.size.toNat)) v.2 = none →
      queueWrite (modQueue { (if v.1 = 0 then enlist s v.2 else s) with rrQueue := (n + 1) % 64 } n fun q => { q with cidx := q.cidx + 1 })
        q q.cidxAddr (bytesOf (q.cidx + 1).toNat 4) = some s3 →
      Gives .launchRecordAccept s fun t => (queueOf t n).cidx = q.cidx + 1 ∧ t.rrQueue = (n + 1) % 64 ∧
        (v.1 = 0 → t.launches = s.launches ++ [v.2] ∧ v.2.id = freshLaunchId s ∧ ∀ x ∈ s.launches, x.id ≠ freshLaunchId s) ∧
        (v.1 ≠ 0 → t.launches = s.launches ∧ ∃ e ∈ t.mgmt.log, e.cls = 4 ∧ e.code = 0x10000 + v.1)) ∧
    (∀ l d, rootless s = some (l, d) → Gives .streamGrant s fun t => ∃ w ∈ t.waypoints,
      w.key = ⟨l.id, 1⟩ ∧ w.state = .ready ∧ w.resume = l.entry ∧ w.level = 0 ∧ w.lo = 0 ∧ w.prio = l.prio ∧ w.holder = d ∧
        w.sval = l.args ∧ w.hi = (levelWord l 0).elim 1 fun w => w.extent) ∧
    (∀ l i x y, rootless s = none → nextGrant s = some (l, i, x) → findLaunch s l = some y → y.streams[i]? = some x →
      let id := if x.ring = .equator then x.eqid else freshStreamId s
      Gives .streamGrant s fun t => (∃ z, findLaunch t l = some z ∧ z.streams[i]? = some { x with id := id }) ∧
        (x.ring = .meridian → ∀ p, p < 64 → x.pos.getLsbD p = true →
          ownerOf t (slotKey x.dir x.lane p) = { cls := 1, stream := id })) ∧
    (∀ l line, findLaunch s s.arg.index = some l → launchOver s l = true → completionHeld s l = some line →
      exec .launchComplete s = .next (sendSnoop s line)) ∧
    (∀ l, findLaunch s s.arg.index = some l → launchOver s l = true → completionHeld s l = none → Gives .launchComplete s fun t =>
      (∀ x, x ∈ t.launches ↔ x ∈ s.launches ∧ x.id ≠ l.id) ∧ (∀ w, w ∈ t.waypoints → w.key.launch ≠ l.id) ∧
      (∀ c h hd, handleOf t c h = some hd → hd.owner.launch ≠ l.id) ∧
      (∀ c p sl, Map.find (coreOf t c).plans p = some sl → sl.launch ≠ l.id) ∧ (∀ b ∈ t.barriers, b.1.launch ≠ l.id) ∧
      ((queueOf s l.queue).ien = true → .msix l.queue ∈ t.out))

/-- R25, R42, R43, R105, R108, R113 to R115, R131, R133, R137, R143 to R146, R150, R151, R154, R155, R181. Where an event of the launch unit
or of a dispatcher completes, said in the state's own fields: of device memory the host holds no line. A record pending on a queue whose
memory exists is accepted, live or rejected with its reason. A launch with every stream granted gets its root at its lowest die in service;
a stream whose positions are free, whose flags no stream has and beside which 16 best-effort positions are left is granted. A launch with
nothing left completes, the last one of a return to Harbour there. A die's one entry runs on a core that has room; a step group whose
coordinates are all READY runs on consecutive cores that have room; a class-0 entry that has waited has a waypoint of class 2 or 3
pre-empted; a die without entries takes its neighbour's. A draining die's pinned waypoint leaves it, a core over its capacity gives its
waypoint back as it was picked up, and the self-test of an idle cluster passes. Where the spec leaves a choice the clauses are the model's
own (log 44, 45). -/
def Obligations.EventsComplete : Prop :=
  ∀ s : State,
    let a := s.arg
    let up := s.mgmt.devState = 3 ∧ s.mgmt.leaving = none
    let unheld := ∀ d, (home s d).held = []
    let serves (d : Nat) : Prop := d < 8 ∧ s.mgmt.csvc.getLsbD d = true ∧ s.mgmt.cdrain.getLsbD d = false ∧ (disp s d).underTest = none
    let whole (k : Core) : Prop := k.quarantined = false ∧ k.handles = [] ∧ k.spadChart = {} ∧ k.opdChart = {} ∧ k.vregChart = {} ∧
      k.tileChart = {}
    let runs (l : Launch) : Prop := l.granted = true ∧ l.heldFor = [] ∧ l.ending = .running ∧ l.dies = 0#8 ∧ (∀ x ∈ l.levels, x.domain ≤ 2) ∧
      l.spb ≤ 384 ∧ l.opb ≤ 64 ∧ l.vreg ≤ 64 ∧ l.acct ≤ 16
    let waits (w : Waypoint) (l : Launch) : Prop := findWp s w.key = some w ∧ findLaunch s w.key.launch = some l ∧ runs l ∧
      (w.state = .ready ∨ w.state = .preempted) ∧ w.aff = 0 ∧ w.range = false ∧ w.evacuated = [] ∧ w.fault = none ∧ w.spilled = false ∧ w.prio < 4
    let single (w : Waypoint) (l : Launch) : Prop := waits w l ∧ ∀ x, levelWord l w.level = some x → x.step = false
    (∀ i n p, i < 64 → n = (s.rrQueue + i) % 64 →
      let q := queueOf s n
      let at_ := q.base.toNat % 2 ^ 52 + 256 * (q.cidx.toNat % 2 ^ q.size.toNat)
      up → unheld → s.launches.length < 1024 → q.en = true → q.pidx = some p → p ≠ q.cidx →
      (∀ j, j < i → let r := queueOf s ((s.rrQueue + j) % 64); r.en = false ∨ r.pidx = none ∨ r.pidx = some r.cidx) →
      (q.base.getLsbD 63 = true → dpaExists (at_ + 255) = true ∧ dpaExists (q.caddr.toNat % 2 ^ 52 + 3) = true) →
      Gives .launchRecordAccept s fun t => (queueOf t n).cidx = q.cidx + 1 ∧ t.rrQueue = (n + 1) % 64 ∧
        ((∃ l, t.launches = s.launches ++ [l] ∧ l.queue = n ∧ l.record = q.cidx.toNat ∧ ∀ x ∈ s.launches, x.id ≠ l.id) ∨
          t.launches = s.launches ∧ ∃ e ∈ t.mgmt.log, e.cls = 4 ∧ 0x10000 < e.code ∧ e.code ≤ 0x10009)) ∧
    (∀ l pre post, s.launches = pre ++ l :: post → up → (∀ x ∈ pre, x.granted = true ∧ x.id ≠ l.id ∧ ∀ y ∈ x.streams, y.id ≠ 0) →
      l.granted = false → l.heldFor = [] → l.ending = .running →
      (∀ d, (∀ y ∈ l.streams, y.id ≠ 0) → d < 8 → (l.dies = 0#8 ∨ l.dies.getLsbD d = true) → s.mgmt.csvc.getLsbD d = true →
        (∀ e, e < d → (l.dies = 0#8 ∨ l.dies.getLsbD e = true) → s.mgmt.csvc.getLsbD e = false) →
        Gives .streamGrant s fun t => ∃ w ∈ t.waypoints, w.key = ⟨l.id, 1⟩ ∧ w.state = .ready ∧ w.resume = l.entry ∧ w.holder = d) ∧
      ∀ x ps qs, l.streams = ps ++ x :: qs → (∀ y ∈ ps, y.id ≠ 0) → x.id = 0 → x.ring = .meridian →
        (∀ y ∈ post, y.granted = true ∨ y.heldFor ≠ [] ∨ y.ending ≠ .running ∨ ∃ z ∈ y.streams, z.id = 0) →
        (∀ p, p < 64 → x.pos.getLsbD p = true → (ownerOf s (slotKey x.dir x.lane p)).cls = 0) →
        (∀ y ∈ s.launches.flatMap (·.streams) ++ s.reclaiming, y.id ≠ 0 → y.ring = .meridian →
          ¬(y.dir = x.dir ∧ y.lane = x.lane ∧ x.pos &&& y.pos ≠ 0#64) ∧ ∀ k, x.flags.getD k 0#64 &&& y.flags.getD k 0#64 = 0#64) →
        (∀ y ∈ s.reclaiming, y.id ≠ 0) →
        ((s.launches.flatMap (·.streams)).filter fun y => y.id ≠ 0 && y.ring = .meridian).length < 64 →
        16 ≤ ((List.range 64).filter fun p => (ownerOf s (slotKey x.dir x.lane p)).cls = 0 && !x.pos.getLsbD p).length →
        Gives .streamGrant s fun t => ∃ id z, id ≠ 0 ∧ findLaunch t l.id = some z ∧ z.streams = ps ++ { x with id := id } :: qs ∧
          ∀ p, p < 64 → x.pos.getLsbD p = true → ownerOf t (slotKey x.dir x.lane p) = { cls := 1, stream := id }) ∧
    (∀ l, findLaunch s a.index = some l → unheld → (l.granted = true ∨ l.ending ≠ .running) →
      (∀ w ∈ s.waypoints, w.key.launch = l.id → w.state = .done ∨ w.state = .faulted ∧ w.fault = none ∧ w.frame = none) →
      (∀ x ∈ s.cmds, x.wp.launch ≠ l.id) → (∀ j ∈ s.joinDecs, j.launch ≠ l.id) → (∀ e ∈ s.cores, e.2.mode = .idle ∨ e.2.wp.launch ≠ l.id) →
      (s.mgmt.leaving = none → Gives .launchComplete s fun t => (∀ x, x ∈ t.launches ↔ x ∈ s.launches ∧ x.id ≠ l.id) ∧
        ((queueOf s l.queue).ien = true → .msix l.queue ∈ t.out)) ∧
      ∀ r, s.mgmt.leaving = some r → s.mgmt.devState = 3 → (∀ x ∈ s.launches, x.id = l.id) → (∀ c, (coreOf s c).mode = .idle) →
        Gives .launchComplete s (InHarbour r)) ∧
    (∀ w l, serves (a.core / 48) → (coreOf s a.core).mode = .idle → whole (coreOf s a.core) → single w l → w.holder = a.core / 48 →
      (∀ y ∈ s.waypoints, y.holder = a.core / 48 → y = w) → Gives .waypointPickup s fun t => (coreOf t a.core).mode = .running ∧
        (coreOf t a.core).wp = w.key ∧ (coreOf t a.core).pc = w.resume ∧ ∃ x, findWp t w.key = some x ∧ x.state = .running) ∧
    (let g := a.group
      let member (y : Waypoint) : Prop := y ∈ s.waypoints ∧ y.key.launch = g.launch ∧ y.level = g.level ∧ y.parent = g.parent
      ∀ l x d c0, findLaunch s g.launch = some l → levelWord l g.level = some x → x.step = true → 1 ≤ x.extent → s.waypoints.length ≤ 0xFFFFF →
        (∀ y, member y → waits y l ∧ y.hi = y.lo + 1 ∧ y.lo < x.extent ∧ ∀ z ∈ s.waypoints, z.key = y.key → z = y) →
        (∀ y z, member y → member z → y.lo = z.lo → y = z) → (∀ i, i < x.extent → ∃ y, member y ∧ y.lo = i) →
        serves d → 48 * d ≤ c0 → c0 + x.extent ≤ 48 * d + 48 →
        (∀ i, i < x.extent → (coreOf s (c0 + i)).mode = .idle ∧ whole (coreOf s (c0 + i))) →
        Gives .stepGroupPlace s fun t => ∀ y, member y → ∃ c, (coreOf t c).mode = .running ∧ (coreOf t c).wp = y.key ∧
          (coreOf t c).pc = y.resume) ∧
    (∀ w l v x, w.key = a.wp → single w l → w.prio = 0 → w.urged = false → w.readyAt + 20000 ≤ s.chron →
      (∀ c, c < 384 → (coreOf s c).mode ≠ .idle) → (∀ e ∈ s.cores, coreOf s e.1 = e.2) →
      serves (v / 48) → (coreOf s v).mode = .running → whole (coreOf s v) → findWp s (coreOf s v).wp = some x → x.pickedAt + 100000 ≤ s.chron →
      2 ≤ (launchOf s (coreOf s v).wp.launch).prio → Gives .priorityPreempt s fun t => (∃ y, findWp t w.key = some y ∧ y.urged = true) ∧
        ∃ c y, (coreOf t c).mode = .running ∧ findWp t (coreOf t c).wp = some y ∧ y.preempt = true) ∧
    (∀ w l, serves a.die → serves ((a.die + 1) % 8) → (∀ y ∈ s.waypoints, y.holder ≠ a.die) → single w l → w.holder = (a.die + 1) % 8 →
      (∀ y ∈ s.waypoints, y.holder = (a.die + 1) % 8 → y = w) → (coreOf s (48 * a.die)).quarantined = false →
      (disp s a.die).emptySince + 2000 * ((disp s a.die).steals + 1) ≤ s.chron →
      Gives .dispatcherSteal s fun t => findWp t w.key = some { w with holder := a.die }) ∧
    (∀ w, findWp s a.wp = some w → w.aff = 2 → (w.state = .ready ∨ w.state = .suspended ∨ w.state = .preempted) →
      let at_ := w.anchorDie * 48 + w.anchorCore
      w.anchorCore < 48 → s.mgmt.cdrain.getLsbD w.anchorDie = true → (∀ e ∈ s.cores, e.2.plans = [] ∧ (e.2.mode = .idle ∨ e.2.wp ≠ w.key)) →
      s.cmds = [] → (∀ e ∈ (station s (2 * w.anchorDie)).almanac, e.2.word = 0#64) →
      (∃ n h, (n, h) ∈ (coreOf s at_).handles ∧ h.owner = w.key) →
      Gives .evacuationComplete s fun t => (∀ n h, (n, h) ∈ (coreOf t at_).handles → h.owner ≠ w.key) ∧
        ∃ x, findWp t w.key = some x ∧ x.evac = true ∧ x.aff = 0 ∧ x.evacuated ≠ []) ∧
    (let k := coreOf s a.core
      ∀ w, findWp s k.wp = some w → k.mode = .running → k.region = none → capacity k .spad < (heldBanks k .spad).length →
        (∃ n h, (n, h) ∈ k.handles ∧ h.owner = k.wp ∧ h.level = .spad ∧ h.banks ≠ []) → (∀ x ∈ s.waypoints, x.aff ≠ 2) →
        (∀ x ∈ s.cmds, x.wp ≠ k.wp) → w.startHandles = [] → (launchOf s k.wp.launch).ending = .running →
        w.rcount < (launchOf s k.wp.launch).rlimit → Gives .overCapacity s fun t => (coreOf t a.core).mode = .idle ∧
          ∃ x, findWp t k.wp = some x ∧ x.state = .ready ∧ x.resume = w.start.1 ∧ x.rcount = w.rcount + 1) ∧
    (∀ cl, (disp s a.die).underTest = some cl → a.failed = 0#8 → a.banks = [] → a.regs = [] →
      (∀ i, i < 6 → (coreOf s (48 * a.die + 6 * cl + i)).mode = .idle ∧ (coreOf s (48 * a.die + 6 * cl + i)).handles = []) →
      (∀ x ∈ s.cmds, engineOf x.core ≠ a.die * 8 + cl) → Gives .selftestDone s fun t => (disp t a.die).underTest = none ∧
        ∃ e ∈ t.mgmt.log, e.cls = 6 ∧ e.unit = cl ∧ e.code = 0x601)

/-- R69 to R72, R84 to R95. Training gives the package its ring position, eastward from the lowest serial number, and its hops, with
rotations that are multiples of 64; a ring beyond the bounds does not train; a loss of framing ends every request and re-key. A session
message in its place is accepted, answered or followed by the requester's next, and moves its session on; any other ends it; three missed
heartbeats are a departure; a joiner opens a session with every member that answers, or forms a domain alone. A re-key goes through its
passes: REKEY stops sealing, and at 100 µs whatever is left is aborted; KEYED starts the derivation and KEY_DERIVED fills the idle key
slot; RESUME makes it the send slot of the new members and epoch. Where the spec leaves a choice the clauses are the model's own (log 11,
49, 59, 61, 63, 64). -/
def Obligations.TrustDomain : Prop :=
  ∀ s : State,
    let a := s.arg
    let e := s.eq
    let p := a.index
    let n := a.serials.length
    let trains := 2 ≤ n ∧ n ≤ 64 ∧ a.nums.length = n ∧ a.nums2.length = n ∧ ∀ h ∈ a.nums ++ a.nums2, slotTimes h ≤ 255
    let tells (kind : Nat) (r : Rekeying) (t : State) : Prop :=
      .token kind (BitVec.ofNat 6 r.leader) r.epoch r.members ∈ t.out ∨
        ∃ z : SealedSlot, .eqSlot .east 0 0 z ∈ t.out ∧ (eqHeadOf z.header).enc = true ∧ (eqHeadOf z.header).ekind = 2
    (¬trains → exec .eqLinkTrainingDone s = .next s) ∧
    (trains → Gives .eqLinkTrainingDone s fun t => t.eq.link = true ∧ t.eq.count = n ∧ t.eq.pkg < n ∧
      (∃ low, a.serials[(n - t.eq.pkg) % n]? = some low ∧ ∀ x ∈ a.serials, low ≤ x) ∧ t.eq.qE % 64 = 0 ∧ t.eq.qW % 64 = 0 ∧
      (∀ i x, i + 1 < n → a.nums[i]? = some x → Map.get t.eq.ehop i 0 = max 2 (ceilDiv x 24)) ∧
      (∀ i x, i + 1 < n → a.nums2[i]? = some x → Map.get t.eq.whop (n - 1 - i) 0 = max 2 (ceilDiv x 24))) ∧
    (Gives .eqFramingLoss s fun t => t.eq.link = false ∧ t.eq.rekey = none ∧ t.eq.requests = [] ∧ t.eq.waitingCmds = [] ∧
      ∀ x ∈ t.tokens, x.equator = false) ∧
    (∀ q, (e.requests.find? fun q => q.agent = p && q.seq = a.seq) = some q → q.sentAt + max e.tmo.toNat 10000 ≤ s.chron →
      Gives .eqResponseTimeout s fun t => q ∉ t.eq.requests ∧ ∀ x ∈ t.eq.requests, x ∈ e.requests) ∧
    (let x := sessionWith s (p % 64);
      (a.msg = .heartbeat → x.up = true → Gives .spdmMessage s fun t => ∀ y ∈ t.eq.sessions, y.peer = p % 64 → y.missed = 0) ∧
      (a.msg = .endSession → Gives .spdmMessage s fun t => ∀ y ∈ t.eq.sessions, y.peer ≠ p % 64) ∧
      (messageNo a.msg < 8 → (messageNo a.msg ≠ x.stage ∨ acceptable s x a.msg = false) →
        Gives .spdmMessage s fun t => (∀ y ∈ t.eq.sessions, y.peer ≠ p % 64) ∧ (e.joining = true → t.eq.joining = false ∧ t.eq.dstate = 4)) ∧
      (messageNo a.msg < 8 → messageNo a.msg = x.stage → acceptable s x a.msg = true → Gives .spdmMessage s fun t =>
        (e.pkg < p % 64 → messageNo a.msg < 7 → .spdm (p % 64) (ownMessage (messageNo a.msg + 1)) ∈ t.out) ∧
        (p % 64 < e.pkg → .spdm (p % 64) (ownMessage (messageNo a.msg)) ∈ t.out) ∧
        ∃ y ∈ t.eq.sessions, y.peer = p % 64 ∧ y.stage = x.stage + 1 ∧
          (∀ key, a.msg = .finish key → y.up = true ∧ y.secret = key))) ∧
    (let x := sessionWith s 64;
      messageNo a.msg < 8 → messageNo a.msg = x.stage → acceptable s x a.msg = true →
        exec .hostSpdmRequest s = .next { s with eq := { e with
          sessions := (e.sessions.filter fun z => z.peer ≠ 64) ++ [advanceSession x a.msg] } }) ∧
    (e.joining = true → (∃ i, i < 64 ∧ a.members.getLsbD i = true ∧ i ≠ e.pkg) → Gives .joinTimeout s fun t =>
      t.eq.joining = true ∧ ∀ i, i < 64 → a.members.getLsbD i = true → i ≠ e.pkg → (∃ x ∈ t.eq.sessions, x.peer = i) ∧
        ((∀ x ∈ e.sessions, x.peer ≠ i) → e.pkg < i → .spdm i (.getVersion true) ∈ t.out)) ∧
    (e.joining = true → (∀ i, i < 64 → a.members.getLsbD i = true → i = e.pkg) → (∀ x ∈ e.sessions, 64 ≤ x.peer) → exec .joinTimeout s = .next { s with eq := { e with
      joining := false, members := maskOf e.pkg, leader := e.pkg, epoch := 1#32, dstate := 2 } }) ∧
    ((∃ x ∈ e.sessions, x.peer = p ∧ x.up = true) → exec .heartbeat s = .next { s with out := s.out ++ [.spdm p .heartbeat] }) ∧
    (∀ x, (e.sessions.find? fun x => x.peer = p && x.up) = some x →
      let s1 : State := { s with eq := { e with sessions := e.sessions.map fun y => if y.peer = p then { y with missed := y.missed + 1 } else y } }
      (x.missed + 1 ≠ 3 → exec .heartbeatMiss s = .next s1) ∧ (x.missed + 1 = 3 → exec .heartbeatMiss s = .next (departed s1 p))) ∧
    (e.rekey = none → a.epoch = e.epoch → memberOf s e.pkg = true →
      (e.leader ≠ e.pkg → exec .rekey s = .next { s with out := s.out ++ [.token 1 a.leader a.epoch a.members] }) ∧
      (e.leader = e.pkg → Gives .rekey s fun t => ∃ r, t.eq.rekey = some r ∧ r.leader = e.pkg ∧ r.epoch = e.epoch + 1 ∧
        r.members = a.members ∧ t.eq.dstate = 3 ∧ (r.pass = 1 ∨ r.pass = 2 ∧ tells 1 r t))) ∧
    (e.rekey = none → a.epoch ≠ e.epoch → (memberOf s e.pkg = true ∨ a.members.getLsbD e.pkg = true) →
      Gives .rekey s fun t => ∃ r, t.eq.rekey = some r ∧ r.leader = a.leader.toNat ∧ r.epoch = a.epoch ∧ r.members = a.members ∧
        (r.pass = 1 ∨ r.pass = 2 ∧ tells 1 r t)) ∧
    ∀ r, e.rekey = some r →
      (r.leader = e.pkg → r.pass = 2 → a.epoch = r.epoch → Gives .rekey s fun t => t.eq.rekey = some { r with pass := 3 } ∧
        ∀ x, x ∈ t.eq.sessions ↔ x ∈ e.sessions ∧ (64 ≤ x.peer ∨ r.members.getLsbD x.peer = true)) ∧
      (r.pass = 1 → r.since + 100000 ≤ s.chron → Gives .rekeyDrainTimeout s fun t => t.eq.requests = [] ∧
        t.eq.rekey = some { r with pass := 2 } ∧ tells 1 { r with pass := 2 } t) ∧
      (r.leader ≠ e.pkg → r.pass = 2 → a.epoch = r.epoch → Gives .keyed s fun t => t.eq.rekey = some { r with pass := 3 }) ∧
      (r.leader ≠ e.pkg → r.pass = 4 → a.epoch = r.epoch → Gives .keyed s fun t => t.eq.rekey = some r ∧ tells 2 r t) ∧
      (r.leader = e.pkg → r.pass = 4 → a.epoch = r.epoch → Gives .keyed s fun t => t.eq.rekey = some { r with pass := 5 } ∧
        t.eq.ksb = !e.ksb ∧ tells 3 r t) ∧
      (r.pass = 3 → Gives .keyDerived s fun t => t.eq.rekey = some { r with pass := 4 } ∧ tells 2 { r with pass := 4 } t ∧
        ∀ x ∈ e.sessions, r.members.getLsbD e.pkg = true → x.up = true → x.peer < 64 → r.members.getLsbD x.peer = true → x.peer ≠ e.pkg →
          (∀ y ∈ e.sessions, y.peer = x.peer → y = x) → e.pkg < 64 →
          Map.find t.eq.keys (pairNo (idleSlot e) e.pkg x.peer) = some (hkdfExpand x.secret (keyInfo e.pkg x.peer r.epoch)) ∧
          Map.find t.eq.keys (pairNo (idleSlot e) x.peer e.pkg) = some (hkdfExpand x.secret (keyInfo x.peer e.pkg r.epoch))) ∧
      (r.leader ≠ e.pkg → r.pass = 4 → a.epoch = r.epoch → r.members.getLsbD e.pkg = true → Gives .resume s fun t =>
        t.eq.rekey = none ∧ t.eq.members = r.members ∧ t.eq.epoch = r.epoch ∧ t.eq.ksb = (!e.ksb) ∧ t.eq.dstate = 2 ∧ tells 3 r t ∧
        t.inbox = s.inbox ++ e.waitingCmds.map fun p => (15, p)) ∧
      (r.leader = e.pkg → r.pass = 5 → a.epoch = r.epoch → e.queued = [] →
        exec .resume s = .next (modEq (tokenCame s r.ring (activeSlot e)) fun e => { e with rekey := none })) ∧
      (∀ m rest, r.leader = e.pkg → r.pass = 5 → a.epoch = r.epoch → e.queued = m :: rest → memberOf s e.pkg = true →
        Gives .resume s fun t => t.eq.queued = rest ∧ ∃ r', t.eq.rekey = some r' ∧ r'.leader = e.pkg ∧ r'.epoch = e.epoch + 1 ∧
          r'.members = (e.members ||| m.1) &&& ~~~m.2)

/-- R39, R74 to R83, R89, R99. At the Equator station a slot for another package goes on, a packet back at its sender is free again; a
sealed packet for this one whose tag is good and whose number is the expected one moves the counter on; a bad tag is counted, logged and
leaves the counter. A request to another package that can be sealed leaves sealed under the next number of its channel and is remembered
until its answer. Where the spec leaves a choice the clauses are the model's own (log 11, 41, 58, 60). -/
def Obligations.EquatorSlots : Prop :=
  ∀ s : State,
    let a := s.arg
    let e := s.eq
    let z := a.sealed
    let h := eqHeadOf z.header
    let x := slotOfHeader z.header z.payload
    let channel := channelNo h.ksb.toNat h.spkg e.pkg a.dir a.lane
    let key := Map.find e.keys (pairNo h.ksb.toNat h.spkg e.pkg)
    let nonce := nonceOf h.spkg e.pkg a.dir a.lane h.pseq
    let opened := key.bind fun k => gcmOpen k nonce z.header z.payload x.len z.tag
    let full := e.link = true ∧ ¬(a.lane % 8 = 0 ∧ a.pos % 64 = 0) ∧ x.valid = true ∧ a.ok = true
    (full → h.dpkg ≠ e.pkg → h.ekind = 0 → h.spkg ≠ e.pkg → exec .eqSlotOpen s = .next { s with out := s.out ++ [.eqSlot a.dir a.lane a.pos z] }) ∧
    (full → h.dpkg ≠ e.pkg → h.ekind = 0 → h.spkg = e.pkg → exec .eqSlotOpen s = .next s) ∧
    (full → h.dpkg = e.pkg → h.enc = true → admitted s h.ksb = true → memberOf s h.spkg = true →
      h.pseq = Map.get e.expected channel 0 →
      (h.ekind = 3 → e.level = 3 → Gives .eqSlotOpen s fun t => match opened with
        | some _ => t = { s with eq := { e with expected := Map.set e.expected channel ((h.pseq + 1) % 2 ^ 64) } }
        | none => t.eq.tagFail = Map.set e.tagFail h.spkg (min (Map.get e.tagFail h.spkg 0 + 1) 0xFFFF) ∧ t.eq.expected = e.expected ∧
            ∃ l ∈ t.mgmt.log, l.cls = 3 ∧ l.code = 1) ∧
      (h.ekind = 0 → match opened with
        | some plain =>
          let p := decodePacket (payloadPart plain x.len)
          let homes := foreignHomes s p.paddr
          let at_ := if p.kind = 1 then nearestTo 15 homes else homes.headD p.paddr
          if isRequest p.kind = true ∧ dpaExists at_ = false then exec .eqSlotOpen s = .fault (.noSuchAddress at_)
          else Gives .eqSlotOpen s fun t => Map.get t.eq.expected channel 0 = (h.pseq + 1) % 2 ^ 64
        | none => e.level = 3 → Gives .eqSlotOpen s fun t => t.eq.expected = e.expected)) ∧
    (∀ st p rest, takeNth (forEquator s) a.index s.inbox = some ((st, p), rest) → p.origin = none → memberOf s p.pkg = true →
      memberOf s e.pkg = true → e.link = true → e.rekey = none → eqBestEffort s (slotKey (eqWay s p.pkg) a.lane a.pos) = true →
      x.valid = false → x.thr = false → canSeal s p.pkg (eqWay s p.pkg) a.lane = true →
      Gives .eqRequestForward s fun t => t.inbox = rest ∧ sendCount t p.pkg (eqWay s p.pkg) a.lane = sendCount s p.pkg (eqWay s p.pkg) a.lane + 1 ∧
        (∃ q ∈ t.eq.requests, q.pkg = p.pkg ∧ q.agent = p.agent ∧ q.seq = p.seq ∧ q.sentAt = s.chron) ∧
        ∃ out : SealedSlot, .eqSlot (eqWay s p.pkg) a.lane a.pos out ∈ t.out ∧ (eqHeadOf out.header).enc = true ∧
          (eqHeadOf out.header).pseq = sendCount s p.pkg (eqWay s p.pkg) a.lane % 2 ^ 64)

/-! ## Encodings, steps and the whole machine -/

/-- R264 to R274. Words written out bit by bit from the tables of the spec decode to the instructions they stand for: of S0, V1, X, LD,
ST, MX, CP, SA, BR and RG, a raw move with .wait and the wide form; an unassigned port, a start bit, a destination and a source that no
move may name are refused by name. -/
def Obligations.DecodeWords : Prop :=
  let plain (n : BitVec 12) : MoveF := { guard := 0#4, neg := false, wait := false, imm := false, src := n }
  decode [0x00220005#32] = .ok (.sAdd .s0 (plain 0x005#12)) ∧
  decode [0x1C824042#32] = .ok (.vMul .v1 { guard := 3#4, neg := true, wait := false, imm := false, src := 0x042#12 }) ∧
  decode [0x00A2C041#32] = .ok (.xSqrt (plain 0x041#12)) ∧
  decode [0x00C22003#32] = .ok (.ldS (plain 0x003#12)) ∧
  decode [0x00E20040#32] = .ok (.stV (plain 0x040#12)) ∧
  decode [0x01028001#32] = .ok (.mxMma (plain 0x001#12)) ∧
  decode [0x01221007#32] = .ok (.cpGet { plain 0x007#12 with imm := true }) ∧
  decode [0x01424098#32] = .ok (.saFlush (plain 0x098#12)) ∧
  decode [0x01621FFF#32] = .ok (.brJmp { plain 0xFFF#12 with imm := true }) ∧
  decode [0x01828001#32] = .ok (.rgWaitf (plain 0x001#12)) ∧
  decode [0x02006090#32] = .ok (.move 0x003#12 { plain 0x090#12 with wait := true }) ∧
  decode [0xF8084180#32, 0#32, 0#32, 0#32, 0#32, 0#32, 0#32, 0#32] = .ok (.ln 1#6 2#6 3#6 0#224) ∧
  decode [0x01A00000#32] = .error .undefinedPort ∧
  decode [0x80220005#32] = .error .startBit ∧
  decode [0x00120000#32] = .error .illegalDest ∧
  decode [0x00220094#32] = .error .illegalSource

/-- R266 to R274. Decoding the words of an instruction gives it back, whatever its fields: of a well-formed instruction its word's form;
and encoding what words decode to gives the words, so no two words stand for one instruction and no bit of a word is dropped. -/
def Obligations.RoundTrip : Prop :=
  (∀ i : Instr, i.wf = true → decode (encode i) = .ok i.wordForm) ∧
  ∀ (ws : List (BitVec 32)) (i : Instr), decode ws = .ok i → i.wf = true ∧ encode i = ws

/-- Log 1, R164, R263. With the dispatchers' rotations and queues settled (R140, R142), a step runs the instruction at the head of the
agenda, once its ticks have passed, with its argument; with an empty agenda the turn that the scheduler names. A running core executes the
bundle that its words decode to; a bundle of one trigger move issues that move's operation, the one that the instruction by itself issues,
on the core as the bundle's start left it, and the core goes on to the next bundle; the wide form runs its instruction. A core that does
not run executes nothing. -/
def Obligations.StepRuns : Prop :=
  (∀ (s : State) (a : Agendum) (rest : List Agendum) (i : Instr), s.agenda = a :: rest → a.what = some i →
    step s = exec i { elapse { settleDispatchers s with agenda := rest } a.ticks with arg := a.arg }) ∧
  (∀ (s s1 : State) (a : Agendum) (rest : List Agendum) (i : Instr) (arg : Arg), s.agenda = a :: rest → a.what = none →
    defaultTurn (elapse { settleDispatchers s with agenda := rest } a.ticks) = (s1, some (i, arg)) → step s = exec i { s1 with arg := arg }) ∧
  (∀ (s s1 : State) (i : Instr) (arg : Arg), s.agenda = [] → defaultTurn (elapse (settleDispatchers s) 1) = (s1, some (i, arg)) →
    step s = exec i { s1 with arg := arg }) ∧
  (∀ (s s1 : State), s.agenda = [] → defaultTurn (elapse (settleDispatchers s) 1) = (s1, none) → step s = .next { s1 with arg := {} }) ∧
  (∀ (i : Instr) (d : BitVec 12) (m : MoveF) (f : OpIn → State → Res State) (s : State), i.port? = some (d, m) → issueOf i = some f →
    exec i s = runTrigger f d m s) ∧
  ∀ (s : State) (b : Bundle), let c := s.cur; let k := coreOf s c
    (k.mode ≠ .running → exec .bundleExecute s = .next s) ∧
    (k.mode = .running → bundleAt s c = .ok b → needsRetired k b = false → opensRegion k b = false →
      (b.words = [] ∨ b.moves = b.words.filterMap fun w => (decodeMove b.longs.length w).toOption) ∧
      (∀ ba bb bd body, b.moves = [.ln ba bb bd body] → exec .bundleExecute s = exec (.ln ba bb bd body) s) ∧
      ∀ w i f v k' u, b.words = [w] → decodeMove b.longs.length w = .ok i → b.stick = [] → b.eos = false → b.rep ≤ k.rep →
        k.seqStep = 0 →
        let d := moveDst w
        let m := moveFields w
        let l : Live := { idx := 0, d := d, m := m, longs := b.longs }
        let s1 := setCore s c (enterWindow k b [l])
        portKind d = .trigger → d.toNat / 256 ≠ 11 → issueOf i = some f → guardTrue k m = true →
        readSource s1 c b.longs 0 d m = .ok (v, k') → consumeCheck s1 c m = .ok () →
        f { c := c, idx := 0, sel := m.src, port := d, addr := b.addr, len := b.len, val := widthNow k' d v } (setCore s1 c k') = .ok u →
        (coreOf u c).seqStep = 0 →
        let r := recordOwn c b [l] u
        let next := nextOf r c b.addr b.len
        exec .bundleExecute s = .next (endBundle (modCore r c fun k => { k with pc := next }) c next))

/-- R6, R17, R23, R25, R32, R33, R41, R98, R104, R108, R197, R250 and the reset columns of the other registers. What the spec gives for
power-on reset: Harbour for POWER_ON, no compute die in service and every memory die, the registers' reset values, no launch, waypoint,
command or entry, clocks of 2,100 MHz, the Chart's capacities; and both memories in canonical form. Where the spec leaves a choice the
clauses are the model's own (log 6, 7, 8). -/
def Obligations.ResetState : Prop :=
  let s := State.reset
  let g := s.mgmt
  let e := s.eq
  s.chron = 0 ∧ g.devState = 1 ∧ g.reason = 1 ∧ g.stage = 0 ∧ g.cdrain = 0#8 ∧ g.csvc = 0#8 ∧ g.msvc = 0xFF#8 ∧
  g.dieCmd = 0 ∧ g.dieIdx = 0 ∧ g.dieStatus = 0 ∧ g.armed = true ∧ g.mchkEn = true ∧ g.cmpEn = false ∧ g.sgtTime = 0#64 ∧
  g.missed = 0 ∧ g.valid = false ∧ g.cause = 0 ∧ g.sgtLatch = 0#64 ∧ (∀ d, d < 8 → clockOf s d = 2100) ∧
  e.pkg = 0 ∧ e.leader = 0 ∧ e.count = 0 ∧ e.ksb = false ∧ e.dstate = 0 ∧ e.link = false ∧ e.epoch = 0#32 ∧ e.members = 0#64 ∧
  e.qE = 0 ∧ e.qW = 0 ∧ e.tmo = 0x30D40#32 ∧ e.thr3 = 0x100 ∧ e.thr2 = 0x10 ∧ e.level = 0 ∧ e.sessions = [] ∧ e.keys = [] ∧
  s.ring = 0 ∧ s.reclaiming = [] ∧ g.leaving = none ∧ e.linkShut = false ∧
  (∀ q, q < 64 → queueOf s q = {}) ∧ s.nextLaunch = 1 ∧ s.launches = [] ∧ s.waypoints = [] ∧ s.cmds = [] ∧
  (∀ key, key < 1024 → (slotOf s key).valid = false ∧ (ownerOf s key).cls = (if key % 512 = 0 then 2 else 0)) ∧
  (∀ k key, (entryAt s k key).word = 0#64 ∧ flagOf s k key = {} ∧ merErr (station s k) = 0) ∧
  (∀ c, c < 384 → let k := coreOf s c
    k.mode = .idle ∧ k.flg = 0#6 ∧ rrbWord k = 0#64 ∧ k.region = none ∧ k.handles = [] ∧ k.counters = [] ∧ k.plans = [] ∧
    capacity k .spad = 384 ∧ capacity k .opd = 64 ∧ capVreg k = 64 ∧ capTiles k = 16 ∧ typeReg k 0 = 6 ∧ typeReg k 1 = 6 ∧ typeReg k 2 = 0 ∧
    typeReg k 3 = 0 ∧ ∀ n, n < 16 → (tileOf k n) = {}) ∧
  s.MemoryOk

/-- R205, R208, Host.Cell. Device memory and host memory keep their canonical form, addresses rising and no entry for a byte of zero,
whatever a step does. Where the spec leaves a choice the clauses are the model's own (log 6). -/
def Obligations.MemoryKept : Prop := ∀ s t : State, s.MemoryOk → step s = .next t → t.MemoryOk

/-- Every instruction has its meaning: no step is refused, and one faults only where an address lies beyond the device's memory. -/
def Obligations.NeverRefused : Prop :=
  (∀ (s : State) (r : Refusal), step s ≠ .refused r) ∧
  ∀ (s : State) (f : Fault), step s = .fault f → ∃ a, f = .noSuchAddress a
end

