-- ==== Sys2Proof/Laws/Maps.lean ====
section
/-! SUPPORT. What the operations on collections do: one lemma for each reading of each change. -/
namespace Sys2Proof

variable {α : Type}

@[simp] theorem Map.get_nil (k : Nat) (d : α) : Map.get ([] : Map α) k d = d := rfl

@[simp] theorem Map.find_nil (k : Nat) : Map.find ([] : Map α) k = none := rfl

theorem Map.get_eq_find (m : Map α) (k : Nat) (d : α) : Map.get m k d = (Map.find m k).getD d := by
  induction m with
  | nil => rfl
  | cons e t ih => simp only [Map.get, Map.find]; split <;> simp [ih]

/-- Reading after a write: the value written at its key, at any other what stood there. -/
theorem Map.find_set (m : Map α) (k j : Nat) (v : α) : Map.find (Map.set m k v) j = if k = j then some v else Map.find m j := by
  induction m with
  | nil => simp [Map.set, Map.find]
  | cons e t ih =>
    obtain ⟨i, a⟩ := e
    simp only [Map.set]
    split
    · simp [Map.find]
    · split
      · subst_vars; simp only [Map.find]; split <;> rfl
      · simp only [Map.find, ih]; split
        · subst_vars; simp [*]
        · rfl

theorem Map.get_set (m : Map α) (k j : Nat) (v d : α) : Map.get (Map.set m k v) j d = if k = j then v else Map.get m j d := by
  simp only [Map.get_eq_find, Map.find_set]; split <;> rfl

@[simp] theorem Map.get_set_same (m : Map α) (k : Nat) (v d : α) : Map.get (Map.set m k v) k d = v := by simp [Map.get_set]

theorem Map.get_set_other (m : Map α) {k j : Nat} (v d : α) (h : k ≠ j) : Map.get (Map.set m k v) j d = Map.get m j d := by
  simp [Map.get_set, h]

/-- Reading after a removal. -/
theorem Map.find_erase (m : Map α) (k j : Nat) : Map.find (Map.erase m k) j = if k = j then none else Map.find m j := by
  unfold Map.erase
  induction m with
  | nil => simp
  | cons e t ih =>
    obtain ⟨i, a⟩ := e
    by_cases h : i = k
    · subst h; simp only [List.filter, ne_eq, not_true_eq_false, decide_false, ih, Map.find]; split <;> rfl
    · simp only [List.filter, ne_eq, h, not_false_eq_true, decide_true, Map.find, ih]
      by_cases hj : i = j
      · subst hj; simp [Ne.symm h]
      · simp [hj]

theorem Map.get_erase (m : Map α) (k j : Nat) (d : α) : Map.get (Map.erase m k) j d = if k = j then d else Map.get m j d := by
  simp only [Map.get_eq_find, Map.find_erase]; split <;> rfl

/-- Reading after a range is removed. -/
theorem Map.find_clearRange (m : Map α) (lo hi j : Nat) :
    Map.find (Map.clearRange m lo hi) j = if lo ≤ j ∧ j < hi then none else Map.find m j := by
  unfold Map.clearRange
  induction m with
  | nil => simp
  | cons e t ih =>
    obtain ⟨i, a⟩ := e
    by_cases h : i < lo ∨ hi ≤ i
    · simp only [List.filter, h, decide_true, Map.find, ih]
      by_cases hj : i = j
      · subst hj; simp; omega
      · simp [hj]
    · simp only [List.filter, h, decide_false, Map.find, ih]
      by_cases hj : i = j
      · subst hj; simp only [if_true]; rw [if_pos (by omega), if_pos (by omega)]
      · simp [hj]

theorem Map.get_clearRange (m : Map α) (lo hi j : Nat) (d : α) :
    Map.get (Map.clearRange m lo hi) j d = if lo ≤ j ∧ j < hi then d else Map.get m j d := by
  simp only [Map.get_eq_find, Map.find_clearRange]; split <;> rfl

/-- A value changed at its key. -/
theorem Map.get_update (m : Map α) (k j : Nat) (d : α) (f : α → α) :
    Map.get (Map.update m k d f) j d = if k = j then f (Map.get m k d) else Map.get m j d := Map.get_set m k j _ d

end Sys2Proof
end

