-- ==== Sys2Proof/Laws/Memory.lean ====
section
/-! SUPPORT. Memories: every operation keeps the canonical form, and a byte reads as it was last written. -/
namespace Sys2Proof.Machine

/-! ## Readings -/

theorem readByte_writeByte (m : List Host.Cell) (a x : Nat) (b : Byte) :
    readByte (writeByte m a b) x = if a = x then b else readByte m x := by
  unfold readByte writeByte
  split
  · subst_vars; exact Map.get_erase m a x 0#8
  · exact Map.get_set m a x b 0#8

/-- After bytes are written from a, a byte of their range reads as it was written, any other as it did. -/
theorem readByte_writeBytes (bs : List Byte) : ∀ (m : List Host.Cell) (a x : Nat),
    readByte (writeBytes m a bs) x = if a ≤ x ∧ x < a + bs.length then bs.getD (x - a) 0#8 else readByte m x := by
  induction bs with
  | nil => intro m a x; rw [if_neg (by simp)]; rfl
  | cons b t ih =>
    intro m a x
    simp only [writeBytes, ih, readByte_writeByte, List.length_cons]
    by_cases h : x = a
    · subst h; rw [if_neg (by omega), if_pos rfl, if_pos (by omega)]; simp
    · by_cases h2 : a + 1 ≤ x ∧ x < a + 1 + t.length
      · rw [if_pos h2, if_pos (by omega), show x - a = (x - (a + 1)) + 1 by omega]; rfl
      · rw [if_neg h2, if_neg (Ne.symm h), if_neg (by omega)]

theorem readByte_zeroRange (m : List Host.Cell) (a n x : Nat) :
    readByte (zeroRange m a n) x = if a ≤ x ∧ x < a + n then 0#8 else readByte m x := Map.get_clearRange m a (a + n) x 0#8

/-! ## The canonical form -/

theorem risingFrom_mono {lo lo' : Nat} (h : lo' ≤ lo) : ∀ {m : List Host.Cell}, risingFrom lo m = true → risingFrom lo' m = true
  | [], _ => rfl
  | (a, _) :: t, hm => by
    simp only [risingFrom, Bool.and_eq_true, decide_eq_true_eq] at *
    exact ⟨by omega, hm.2⟩

theorem risingFrom_filter (p : Host.Cell → Bool) : ∀ (m : List Host.Cell) (lo : Nat), risingFrom lo m = true →
    risingFrom lo (m.filter p) = true
  | [], _, _ => rfl
  | (a, b) :: t, lo, hm => by
    simp only [risingFrom, Bool.and_eq_true, decide_eq_true_eq] at hm
    have ih := risingFrom_filter p t (a + 1) hm.2
    simp only [List.filter]
    split
    · simp only [risingFrom, Bool.and_eq_true, decide_eq_true_eq]; exact ⟨hm.1, ih⟩
    · exact risingFrom_mono (by omega) ih

theorem risingFrom_set (k : Nat) (v : Byte) : ∀ (m : List Host.Cell) (lo : Nat), lo ≤ k → risingFrom lo m = true →
    risingFrom lo (Map.set m k v) = true
  | [], lo, hk, _ => by simp [Map.set, risingFrom, hk]
  | (a, b) :: t, lo, hk, hm => by
    simp only [risingFrom, Bool.and_eq_true, decide_eq_true_eq] at hm
    simp only [Map.set]
    split
    · simp only [risingFrom, Bool.and_eq_true, decide_eq_true_eq]; exact ⟨hk, by omega, hm.2⟩
    · split
      · subst_vars; simp only [risingFrom, Bool.and_eq_true, decide_eq_true_eq]; exact hm
      · simp only [risingFrom, Bool.and_eq_true, decide_eq_true_eq]
        exact ⟨hm.1, risingFrom_set k v t (a + 1) (by omega) hm.2⟩

theorem all_filter (q p : Host.Cell → Bool) (m : List Host.Cell) (h : m.all q = true) : (m.filter p).all q = true := by
  rw [List.all_eq_true] at *
  exact fun x hx => h x (List.mem_filter.mp hx).1

theorem all_set (q : Host.Cell → Bool) (k : Nat) (v : Byte) (hv : q (k, v) = true) : ∀ m : List Host.Cell, m.all q = true →
    (Map.set m k v).all q = true
  | [], _ => by simp [Map.set, hv]
  | (a, b) :: t, hm => by
    simp only [List.all_cons, Bool.and_eq_true] at hm
    simp only [Map.set]
    split
    · simp [hv, hm.1, hm.2]
    · split
      · simp [hv, hm.2]
      · simp only [List.all_cons, Bool.and_eq_true]; exact ⟨hm.1, all_set q k v hv t hm.2⟩

theorem writeByte_wf (m : List Host.Cell) (a : Nat) (b : Byte) (h : Memory.wf m = true) : Memory.wf (writeByte m a b) = true := by
  unfold Memory.wf writeByte at *
  rw [Bool.and_eq_true] at *
  split
  · exact ⟨risingFrom_filter _ m 0 h.1, all_filter _ _ m h.2⟩
  · exact ⟨risingFrom_set a b m 0 (by omega) h.1, all_set _ a b (by simpa using ‹¬b = 0#8›) m h.2⟩

theorem writeBytes_wf (bs : List Byte) : ∀ (m : List Host.Cell) (a : Nat), Memory.wf m = true → Memory.wf (writeBytes m a bs) = true := by
  induction bs with
  | nil => exact fun _ _ h => h
  | cons b t ih => exact fun m a h => ih _ _ (writeByte_wf m a b h)

theorem zeroRange_wf (m : List Host.Cell) (a n : Nat) (h : Memory.wf m = true) : Memory.wf (zeroRange m a n) = true := by
  unfold Memory.wf zeroRange Map.clearRange at *
  rw [Bool.and_eq_true] at *
  exact ⟨risingFrom_filter _ m 0 h.1, all_filter _ _ m h.2⟩

/-- Both memories are empty after reset, and so in their form. -/
theorem reset_memory_wf : Memory.wf State.reset.mem = true ∧ Memory.wf State.reset.hostMem = true := ⟨rfl, rfl⟩

theorem putDram_wf (s : State) (a : Nat) (bs : List Byte) (h : Memory.wf s.mem = true) : Memory.wf (putDram s a bs).mem = true :=
  writeBytes_wf bs s.mem a h

end Sys2Proof.Machine
end

