-- ==== Sys2Proof/Laws/State.lean ====
section
/-! SUPPORT. What each named update of the state does to each field: one lemma per field, so that no proof unfolds a record update. -/
namespace Sys2Proof.Machine

variable (s : State)

/-! ## setCore -/

@[simp] theorem setCore_agenda (c : Nat) (k : Core) : (setCore s c k).agenda = s.agenda := rfl
@[simp] theorem setCore_arg (c : Nat) (k : Core) : (setCore s c k).arg = s.arg := rfl
@[simp] theorem setCore_cur (c : Nat) (k : Core) : (setCore s c k).cur = s.cur := rfl
@[simp] theorem setCore_out (c : Nat) (k : Core) : (setCore s c k).out = s.out := rfl
@[simp] theorem setCore_chron (c : Nat) (k : Core) : (setCore s c k).chron = s.chron := rfl
@[simp] theorem setCore_skew (c : Nat) (k : Core) : (setCore s c k).skew = s.skew := rfl
@[simp] theorem setCore_chronFloor (c : Nat) (k : Core) : (setCore s c k).chronFloor = s.chronFloor := rfl
@[simp] theorem setCore_clocks (c : Nat) (k : Core) : (setCore s c k).clocks = s.clocks := rfl
@[simp] theorem setCore_mgmt (c : Nat) (k : Core) : (setCore s c k).mgmt = s.mgmt := rfl
@[simp] theorem setCore_eq (c : Nat) (k : Core) : (setCore s c k).eq = s.eq := rfl
@[simp] theorem setCore_queues (c : Nat) (k : Core) : (setCore s c k).queues = s.queues := rfl
@[simp] theorem setCore_rrQueue (c : Nat) (k : Core) : (setCore s c k).rrQueue = s.rrQueue := rfl
@[simp] theorem setCore_nextLaunch (c : Nat) (k : Core) : (setCore s c k).nextLaunch = s.nextLaunch := rfl
@[simp] theorem setCore_launches (c : Nat) (k : Core) : (setCore s c k).launches = s.launches := rfl
@[simp] theorem setCore_waypoints (c : Nat) (k : Core) : (setCore s c k).waypoints = s.waypoints := rfl
@[simp] theorem setCore_disps (c : Nat) (k : Core) : (setCore s c k).disps = s.disps := rfl
@[simp] theorem setCore_barriers (c : Nat) (k : Core) : (setCore s c k).barriers = s.barriers := rfl
@[simp] theorem setCore_regions (c : Nat) (k : Core) : (setCore s c k).regions = s.regions := rfl
@[simp] theorem setCore_cores (c : Nat) (k : Core) : (setCore s c k).cores = Map.set s.cores c k := rfl
@[simp] theorem setCore_engines (c : Nat) (k : Core) : (setCore s c k).engines = s.engines := rfl
@[simp] theorem setCore_cmds (c : Nat) (k : Core) : (setCore s c k).cmds = s.cmds := rfl
@[simp] theorem setCore_nextCmd (c : Nat) (k : Core) : (setCore s c k).nextCmd = s.nextCmd := rfl
@[simp] theorem setCore_ring (c : Nat) (k : Core) : (setCore s c k).ring = s.ring := rfl
@[simp] theorem setCore_slots (c : Nat) (k : Core) : (setCore s c k).slots = s.slots := rfl
@[simp] theorem setCore_reclaiming (c : Nat) (k : Core) : (setCore s c k).reclaiming = s.reclaiming := rfl
@[simp] theorem setCore_owners (c : Nat) (k : Core) : (setCore s c k).owners = s.owners := rfl
@[simp] theorem setCore_stations (c : Nat) (k : Core) : (setCore s c k).stations = s.stations := rfl
@[simp] theorem setCore_waiting (c : Nat) (k : Core) : (setCore s c k).waiting = s.waiting := rfl
@[simp] theorem setCore_inbox (c : Nat) (k : Core) : (setCore s c k).inbox = s.inbox := rfl
@[simp] theorem setCore_tokens (c : Nat) (k : Core) : (setCore s c k).tokens = s.tokens := rfl
@[simp] theorem setCore_homes (c : Nat) (k : Core) : (setCore s c k).homes = s.homes := rfl
@[simp] theorem setCore_joinDecs (c : Nat) (k : Core) : (setCore s c k).joinDecs = s.joinDecs := rfl
@[simp] theorem setCore_mem (c : Nat) (k : Core) : (setCore s c k).mem = s.mem := rfl
@[simp] theorem setCore_poisoned (c : Nat) (k : Core) : (setCore s c k).poisoned = s.poisoned := rfl
@[simp] theorem setCore_hostMem (c : Nat) (k : Core) : (setCore s c k).hostMem = s.hostMem := rfl
@[simp] theorem setCore_cxlReqs (c : Nat) (k : Core) : (setCore s c k).cxlReqs = s.cxlReqs := rfl

/-! ## modCore -/

@[simp] theorem modCore_agenda (c : Nat) (f : Core → Core) : (modCore s c f).agenda = s.agenda := rfl
@[simp] theorem modCore_arg (c : Nat) (f : Core → Core) : (modCore s c f).arg = s.arg := rfl
@[simp] theorem modCore_cur (c : Nat) (f : Core → Core) : (modCore s c f).cur = s.cur := rfl
@[simp] theorem modCore_out (c : Nat) (f : Core → Core) : (modCore s c f).out = s.out := rfl
@[simp] theorem modCore_chron (c : Nat) (f : Core → Core) : (modCore s c f).chron = s.chron := rfl
@[simp] theorem modCore_skew (c : Nat) (f : Core → Core) : (modCore s c f).skew = s.skew := rfl
@[simp] theorem modCore_chronFloor (c : Nat) (f : Core → Core) : (modCore s c f).chronFloor = s.chronFloor := rfl
@[simp] theorem modCore_clocks (c : Nat) (f : Core → Core) : (modCore s c f).clocks = s.clocks := rfl
@[simp] theorem modCore_mgmt (c : Nat) (f : Core → Core) : (modCore s c f).mgmt = s.mgmt := rfl
@[simp] theorem modCore_eq (c : Nat) (f : Core → Core) : (modCore s c f).eq = s.eq := rfl
@[simp] theorem modCore_queues (c : Nat) (f : Core → Core) : (modCore s c f).queues = s.queues := rfl
@[simp] theorem modCore_rrQueue (c : Nat) (f : Core → Core) : (modCore s c f).rrQueue = s.rrQueue := rfl
@[simp] theorem modCore_nextLaunch (c : Nat) (f : Core → Core) : (modCore s c f).nextLaunch = s.nextLaunch := rfl
@[simp] theorem modCore_launches (c : Nat) (f : Core → Core) : (modCore s c f).launches = s.launches := rfl
@[simp] theorem modCore_waypoints (c : Nat) (f : Core → Core) : (modCore s c f).waypoints = s.waypoints := rfl
@[simp] theorem modCore_disps (c : Nat) (f : Core → Core) : (modCore s c f).disps = s.disps := rfl
@[simp] theorem modCore_barriers (c : Nat) (f : Core → Core) : (modCore s c f).barriers = s.barriers := rfl
@[simp] theorem modCore_regions (c : Nat) (f : Core → Core) : (modCore s c f).regions = s.regions := rfl
@[simp] theorem modCore_cores (c : Nat) (f : Core → Core) : (modCore s c f).cores = Map.set s.cores c (f (coreOf s c)) := rfl
@[simp] theorem modCore_engines (c : Nat) (f : Core → Core) : (modCore s c f).engines = s.engines := rfl
@[simp] theorem modCore_cmds (c : Nat) (f : Core → Core) : (modCore s c f).cmds = s.cmds := rfl
@[simp] theorem modCore_nextCmd (c : Nat) (f : Core → Core) : (modCore s c f).nextCmd = s.nextCmd := rfl
@[simp] theorem modCore_ring (c : Nat) (f : Core → Core) : (modCore s c f).ring = s.ring := rfl
@[simp] theorem modCore_slots (c : Nat) (f : Core → Core) : (modCore s c f).slots = s.slots := rfl
@[simp] theorem modCore_reclaiming (c : Nat) (f : Core → Core) : (modCore s c f).reclaiming = s.reclaiming := rfl
@[simp] theorem modCore_owners (c : Nat) (f : Core → Core) : (modCore s c f).owners = s.owners := rfl
@[simp] theorem modCore_stations (c : Nat) (f : Core → Core) : (modCore s c f).stations = s.stations := rfl
@[simp] theorem modCore_waiting (c : Nat) (f : Core → Core) : (modCore s c f).waiting = s.waiting := rfl
@[simp] theorem modCore_inbox (c : Nat) (f : Core → Core) : (modCore s c f).inbox = s.inbox := rfl
@[simp] theorem modCore_tokens (c : Nat) (f : Core → Core) : (modCore s c f).tokens = s.tokens := rfl
@[simp] theorem modCore_homes (c : Nat) (f : Core → Core) : (modCore s c f).homes = s.homes := rfl
@[simp] theorem modCore_joinDecs (c : Nat) (f : Core → Core) : (modCore s c f).joinDecs = s.joinDecs := rfl
@[simp] theorem modCore_mem (c : Nat) (f : Core → Core) : (modCore s c f).mem = s.mem := rfl
@[simp] theorem modCore_poisoned (c : Nat) (f : Core → Core) : (modCore s c f).poisoned = s.poisoned := rfl
@[simp] theorem modCore_hostMem (c : Nat) (f : Core → Core) : (modCore s c f).hostMem = s.hostMem := rfl
@[simp] theorem modCore_cxlReqs (c : Nat) (f : Core → Core) : (modCore s c f).cxlReqs = s.cxlReqs := rfl

/-! ## modEngine -/

@[simp] theorem modEngine_agenda (e : Nat) (f : Engine → Engine) : (modEngine s e f).agenda = s.agenda := rfl
@[simp] theorem modEngine_arg (e : Nat) (f : Engine → Engine) : (modEngine s e f).arg = s.arg := rfl
@[simp] theorem modEngine_cur (e : Nat) (f : Engine → Engine) : (modEngine s e f).cur = s.cur := rfl
@[simp] theorem modEngine_out (e : Nat) (f : Engine → Engine) : (modEngine s e f).out = s.out := rfl
@[simp] theorem modEngine_chron (e : Nat) (f : Engine → Engine) : (modEngine s e f).chron = s.chron := rfl
@[simp] theorem modEngine_skew (e : Nat) (f : Engine → Engine) : (modEngine s e f).skew = s.skew := rfl
@[simp] theorem modEngine_chronFloor (e : Nat) (f : Engine → Engine) : (modEngine s e f).chronFloor = s.chronFloor := rfl
@[simp] theorem modEngine_clocks (e : Nat) (f : Engine → Engine) : (modEngine s e f).clocks = s.clocks := rfl
@[simp] theorem modEngine_mgmt (e : Nat) (f : Engine → Engine) : (modEngine s e f).mgmt = s.mgmt := rfl
@[simp] theorem modEngine_eq (e : Nat) (f : Engine → Engine) : (modEngine s e f).eq = s.eq := rfl
@[simp] theorem modEngine_queues (e : Nat) (f : Engine → Engine) : (modEngine s e f).queues = s.queues := rfl
@[simp] theorem modEngine_rrQueue (e : Nat) (f : Engine → Engine) : (modEngine s e f).rrQueue = s.rrQueue := rfl
@[simp] theorem modEngine_nextLaunch (e : Nat) (f : Engine → Engine) : (modEngine s e f).nextLaunch = s.nextLaunch := rfl
@[simp] theorem modEngine_launches (e : Nat) (f : Engine → Engine) : (modEngine s e f).launches = s.launches := rfl
@[simp] theorem modEngine_waypoints (e : Nat) (f : Engine → Engine) : (modEngine s e f).waypoints = s.waypoints := rfl
@[simp] theorem modEngine_disps (e : Nat) (f : Engine → Engine) : (modEngine s e f).disps = s.disps := rfl
@[simp] theorem modEngine_barriers (e : Nat) (f : Engine → Engine) : (modEngine s e f).barriers = s.barriers := rfl
@[simp] theorem modEngine_regions (e : Nat) (f : Engine → Engine) : (modEngine s e f).regions = s.regions := rfl
@[simp] theorem modEngine_cores (e : Nat) (f : Engine → Engine) : (modEngine s e f).cores = s.cores := rfl
@[simp] theorem modEngine_engines (e : Nat) (f : Engine → Engine) :
    (modEngine s e f).engines = Map.set s.engines e (f (engine s e)) := rfl
@[simp] theorem modEngine_cmds (e : Nat) (f : Engine → Engine) : (modEngine s e f).cmds = s.cmds := rfl
@[simp] theorem modEngine_nextCmd (e : Nat) (f : Engine → Engine) : (modEngine s e f).nextCmd = s.nextCmd := rfl
@[simp] theorem modEngine_ring (e : Nat) (f : Engine → Engine) : (modEngine s e f).ring = s.ring := rfl
@[simp] theorem modEngine_slots (e : Nat) (f : Engine → Engine) : (modEngine s e f).slots = s.slots := rfl
@[simp] theorem modEngine_reclaiming (e : Nat) (f : Engine → Engine) : (modEngine s e f).reclaiming = s.reclaiming := rfl
@[simp] theorem modEngine_owners (e : Nat) (f : Engine → Engine) : (modEngine s e f).owners = s.owners := rfl
@[simp] theorem modEngine_stations (e : Nat) (f : Engine → Engine) : (modEngine s e f).stations = s.stations := rfl
@[simp] theorem modEngine_waiting (e : Nat) (f : Engine → Engine) : (modEngine s e f).waiting = s.waiting := rfl
@[simp] theorem modEngine_inbox (e : Nat) (f : Engine → Engine) : (modEngine s e f).inbox = s.inbox := rfl
@[simp] theorem modEngine_tokens (e : Nat) (f : Engine → Engine) : (modEngine s e f).tokens = s.tokens := rfl
@[simp] theorem modEngine_homes (e : Nat) (f : Engine → Engine) : (modEngine s e f).homes = s.homes := rfl
@[simp] theorem modEngine_joinDecs (e : Nat) (f : Engine → Engine) : (modEngine s e f).joinDecs = s.joinDecs := rfl
@[simp] theorem modEngine_mem (e : Nat) (f : Engine → Engine) : (modEngine s e f).mem = s.mem := rfl
@[simp] theorem modEngine_poisoned (e : Nat) (f : Engine → Engine) : (modEngine s e f).poisoned = s.poisoned := rfl
@[simp] theorem modEngine_hostMem (e : Nat) (f : Engine → Engine) : (modEngine s e f).hostMem = s.hostMem := rfl
@[simp] theorem modEngine_cxlReqs (e : Nat) (f : Engine → Engine) : (modEngine s e f).cxlReqs = s.cxlReqs := rfl

/-! ## modHome -/

@[simp] theorem modHome_agenda (d : Nat) (f : Home → Home) : (modHome s d f).agenda = s.agenda := rfl
@[simp] theorem modHome_arg (d : Nat) (f : Home → Home) : (modHome s d f).arg = s.arg := rfl
@[simp] theorem modHome_cur (d : Nat) (f : Home → Home) : (modHome s d f).cur = s.cur := rfl
@[simp] theorem modHome_out (d : Nat) (f : Home → Home) : (modHome s d f).out = s.out := rfl
@[simp] theorem modHome_chron (d : Nat) (f : Home → Home) : (modHome s d f).chron = s.chron := rfl
@[simp] theorem modHome_skew (d : Nat) (f : Home → Home) : (modHome s d f).skew = s.skew := rfl
@[simp] theorem modHome_chronFloor (d : Nat) (f : Home → Home) : (modHome s d f).chronFloor = s.chronFloor := rfl
@[simp] theorem modHome_clocks (d : Nat) (f : Home → Home) : (modHome s d f).clocks = s.clocks := rfl
@[simp] theorem modHome_mgmt (d : Nat) (f : Home → Home) : (modHome s d f).mgmt = s.mgmt := rfl
@[simp] theorem modHome_eq (d : Nat) (f : Home → Home) : (modHome s d f).eq = s.eq := rfl
@[simp] theorem modHome_queues (d : Nat) (f : Home → Home) : (modHome s d f).queues = s.queues := rfl
@[simp] theorem modHome_rrQueue (d : Nat) (f : Home → Home) : (modHome s d f).rrQueue = s.rrQueue := rfl
@[simp] theorem modHome_nextLaunch (d : Nat) (f : Home → Home) : (modHome s d f).nextLaunch = s.nextLaunch := rfl
@[simp] theorem modHome_launches (d : Nat) (f : Home → Home) : (modHome s d f).launches = s.launches := rfl
@[simp] theorem modHome_waypoints (d : Nat) (f : Home → Home) : (modHome s d f).waypoints = s.waypoints := rfl
@[simp] theorem modHome_disps (d : Nat) (f : Home → Home) : (modHome s d f).disps = s.disps := rfl
@[simp] theorem modHome_barriers (d : Nat) (f : Home → Home) : (modHome s d f).barriers = s.barriers := rfl
@[simp] theorem modHome_regions (d : Nat) (f : Home → Home) : (modHome s d f).regions = s.regions := rfl
@[simp] theorem modHome_cores (d : Nat) (f : Home → Home) : (modHome s d f).cores = s.cores := rfl
@[simp] theorem modHome_engines (d : Nat) (f : Home → Home) : (modHome s d f).engines = s.engines := rfl
@[simp] theorem modHome_cmds (d : Nat) (f : Home → Home) : (modHome s d f).cmds = s.cmds := rfl
@[simp] theorem modHome_nextCmd (d : Nat) (f : Home → Home) : (modHome s d f).nextCmd = s.nextCmd := rfl
@[simp] theorem modHome_ring (d : Nat) (f : Home → Home) : (modHome s d f).ring = s.ring := rfl
@[simp] theorem modHome_slots (d : Nat) (f : Home → Home) : (modHome s d f).slots = s.slots := rfl
@[simp] theorem modHome_reclaiming (d : Nat) (f : Home → Home) : (modHome s d f).reclaiming = s.reclaiming := rfl
@[simp] theorem modHome_owners (d : Nat) (f : Home → Home) : (modHome s d f).owners = s.owners := rfl
@[simp] theorem modHome_stations (d : Nat) (f : Home → Home) : (modHome s d f).stations = s.stations := rfl
@[simp] theorem modHome_waiting (d : Nat) (f : Home → Home) : (modHome s d f).waiting = s.waiting := rfl
@[simp] theorem modHome_inbox (d : Nat) (f : Home → Home) : (modHome s d f).inbox = s.inbox := rfl
@[simp] theorem modHome_tokens (d : Nat) (f : Home → Home) : (modHome s d f).tokens = s.tokens := rfl
@[simp] theorem modHome_homes (d : Nat) (f : Home → Home) : (modHome s d f).homes = Map.set s.homes d (f (home s d)) := rfl
@[simp] theorem modHome_joinDecs (d : Nat) (f : Home → Home) : (modHome s d f).joinDecs = s.joinDecs := rfl
@[simp] theorem modHome_mem (d : Nat) (f : Home → Home) : (modHome s d f).mem = s.mem := rfl
@[simp] theorem modHome_poisoned (d : Nat) (f : Home → Home) : (modHome s d f).poisoned = s.poisoned := rfl
@[simp] theorem modHome_hostMem (d : Nat) (f : Home → Home) : (modHome s d f).hostMem = s.hostMem := rfl
@[simp] theorem modHome_cxlReqs (d : Nat) (f : Home → Home) : (modHome s d f).cxlReqs = s.cxlReqs := rfl

/-! ## modStation -/

@[simp] theorem modStation_agenda (n : Nat) (f : Station → Station) : (modStation s n f).agenda = s.agenda := rfl
@[simp] theorem modStation_arg (n : Nat) (f : Station → Station) : (modStation s n f).arg = s.arg := rfl
@[simp] theorem modStation_cur (n : Nat) (f : Station → Station) : (modStation s n f).cur = s.cur := rfl
@[simp] theorem modStation_out (n : Nat) (f : Station → Station) : (modStation s n f).out = s.out := rfl
@[simp] theorem modStation_chron (n : Nat) (f : Station → Station) : (modStation s n f).chron = s.chron := rfl
@[simp] theorem modStation_skew (n : Nat) (f : Station → Station) : (modStation s n f).skew = s.skew := rfl
@[simp] theorem modStation_chronFloor (n : Nat) (f : Station → Station) : (modStation s n f).chronFloor = s.chronFloor := rfl
@[simp] theorem modStation_clocks (n : Nat) (f : Station → Station) : (modStation s n f).clocks = s.clocks := rfl
@[simp] theorem modStation_mgmt (n : Nat) (f : Station → Station) : (modStation s n f).mgmt = s.mgmt := rfl
@[simp] theorem modStation_eq (n : Nat) (f : Station → Station) : (modStation s n f).eq = s.eq := rfl
@[simp] theorem modStation_queues (n : Nat) (f : Station → Station) : (modStation s n f).queues = s.queues := rfl
@[simp] theorem modStation_rrQueue (n : Nat) (f : Station → Station) : (modStation s n f).rrQueue = s.rrQueue := rfl
@[simp] theorem modStation_nextLaunch (n : Nat) (f : Station → Station) : (modStation s n f).nextLaunch = s.nextLaunch := rfl
@[simp] theorem modStation_launches (n : Nat) (f : Station → Station) : (modStation s n f).launches = s.launches := rfl
@[simp] theorem modStation_waypoints (n : Nat) (f : Station → Station) : (modStation s n f).waypoints = s.waypoints := rfl
@[simp] theorem modStation_disps (n : Nat) (f : Station → Station) : (modStation s n f).disps = s.disps := rfl
@[simp] theorem modStation_barriers (n : Nat) (f : Station → Station) : (modStation s n f).barriers = s.barriers := rfl
@[simp] theorem modStation_regions (n : Nat) (f : Station → Station) : (modStation s n f).regions = s.regions := rfl
@[simp] theorem modStation_cores (n : Nat) (f : Station → Station) : (modStation s n f).cores = s.cores := rfl
@[simp] theorem modStation_engines (n : Nat) (f : Station → Station) : (modStation s n f).engines = s.engines := rfl
@[simp] theorem modStation_cmds (n : Nat) (f : Station → Station) : (modStation s n f).cmds = s.cmds := rfl
@[simp] theorem modStation_nextCmd (n : Nat) (f : Station → Station) : (modStation s n f).nextCmd = s.nextCmd := rfl
@[simp] theorem modStation_ring (n : Nat) (f : Station → Station) : (modStation s n f).ring = s.ring := rfl
@[simp] theorem modStation_slots (n : Nat) (f : Station → Station) : (modStation s n f).slots = s.slots := rfl
@[simp] theorem modStation_reclaiming (n : Nat) (f : Station → Station) : (modStation s n f).reclaiming = s.reclaiming := rfl
@[simp] theorem modStation_owners (n : Nat) (f : Station → Station) : (modStation s n f).owners = s.owners := rfl
@[simp] theorem modStation_stations (n : Nat) (f : Station → Station) :
    (modStation s n f).stations = Map.set s.stations n (f (station s n)) := rfl
@[simp] theorem modStation_waiting (n : Nat) (f : Station → Station) : (modStation s n f).waiting = s.waiting := rfl
@[simp] theorem modStation_inbox (n : Nat) (f : Station → Station) : (modStation s n f).inbox = s.inbox := rfl
@[simp] theorem modStation_tokens (n : Nat) (f : Station → Station) : (modStation s n f).tokens = s.tokens := rfl
@[simp] theorem modStation_homes (n : Nat) (f : Station → Station) : (modStation s n f).homes = s.homes := rfl
@[simp] theorem modStation_joinDecs (n : Nat) (f : Station → Station) : (modStation s n f).joinDecs = s.joinDecs := rfl
@[simp] theorem modStation_mem (n : Nat) (f : Station → Station) : (modStation s n f).mem = s.mem := rfl
@[simp] theorem modStation_poisoned (n : Nat) (f : Station → Station) : (modStation s n f).poisoned = s.poisoned := rfl
@[simp] theorem modStation_hostMem (n : Nat) (f : Station → Station) : (modStation s n f).hostMem = s.hostMem := rfl
@[simp] theorem modStation_cxlReqs (n : Nat) (f : Station → Station) : (modStation s n f).cxlReqs = s.cxlReqs := rfl

/-! ## modDisp -/

@[simp] theorem modDisp_agenda (d : Nat) (f : Dispatcher → Dispatcher) : (modDisp s d f).agenda = s.agenda := rfl
@[simp] theorem modDisp_arg (d : Nat) (f : Dispatcher → Dispatcher) : (modDisp s d f).arg = s.arg := rfl
@[simp] theorem modDisp_cur (d : Nat) (f : Dispatcher → Dispatcher) : (modDisp s d f).cur = s.cur := rfl
@[simp] theorem modDisp_out (d : Nat) (f : Dispatcher → Dispatcher) : (modDisp s d f).out = s.out := rfl
@[simp] theorem modDisp_chron (d : Nat) (f : Dispatcher → Dispatcher) : (modDisp s d f).chron = s.chron := rfl
@[simp] theorem modDisp_skew (d : Nat) (f : Dispatcher → Dispatcher) : (modDisp s d f).skew = s.skew := rfl
@[simp] theorem modDisp_chronFloor (d : Nat) (f : Dispatcher → Dispatcher) : (modDisp s d f).chronFloor = s.chronFloor := rfl
@[simp] theorem modDisp_clocks (d : Nat) (f : Dispatcher → Dispatcher) : (modDisp s d f).clocks = s.clocks := rfl
@[simp] theorem modDisp_mgmt (d : Nat) (f : Dispatcher → Dispatcher) : (modDisp s d f).mgmt = s.mgmt := rfl
@[simp] theorem modDisp_eq (d : Nat) (f : Dispatcher → Dispatcher) : (modDisp s d f).eq = s.eq := rfl
@[simp] theorem modDisp_queues (d : Nat) (f : Dispatcher → Dispatcher) : (modDisp s d f).queues = s.queues := rfl
@[simp] theorem modDisp_rrQueue (d : Nat) (f : Dispatcher → Dispatcher) : (modDisp s d f).rrQueue = s.rrQueue := rfl
@[simp] theorem modDisp_nextLaunch (d : Nat) (f : Dispatcher → Dispatcher) : (modDisp s d f).nextLaunch = s.nextLaunch := rfl
@[simp] theorem modDisp_launches (d : Nat) (f : Dispatcher → Dispatcher) : (modDisp s d f).launches = s.launches := rfl
@[simp] theorem modDisp_waypoints (d : Nat) (f : Dispatcher → Dispatcher) : (modDisp s d f).waypoints = s.waypoints := rfl
@[simp] theorem modDisp_disps (d : Nat) (f : Dispatcher → Dispatcher) : (modDisp s d f).disps = Map.set s.disps d (f (disp s d)) := rfl
@[simp] theorem modDisp_barriers (d : Nat) (f : Dispatcher → Dispatcher) : (modDisp s d f).barriers = s.barriers := rfl
@[simp] theorem modDisp_regions (d : Nat) (f : Dispatcher → Dispatcher) : (modDisp s d f).regions = s.regions := rfl
@[simp] theorem modDisp_cores (d : Nat) (f : Dispatcher → Dispatcher) : (modDisp s d f).cores = s.cores := rfl
@[simp] theorem modDisp_engines (d : Nat) (f : Dispatcher → Dispatcher) : (modDisp s d f).engines = s.engines := rfl
@[simp] theorem modDisp_cmds (d : Nat) (f : Dispatcher → Dispatcher) : (modDisp s d f).cmds = s.cmds := rfl
@[simp] theorem modDisp_nextCmd (d : Nat) (f : Dispatcher → Dispatcher) : (modDisp s d f).nextCmd = s.nextCmd := rfl
@[simp] theorem modDisp_ring (d : Nat) (f : Dispatcher → Dispatcher) : (modDisp s d f).ring = s.ring := rfl
@[simp] theorem modDisp_slots (d : Nat) (f : Dispatcher → Dispatcher) : (modDisp s d f).slots = s.slots := rfl
@[simp] theorem modDisp_reclaiming (d : Nat) (f : Dispatcher → Dispatcher) : (modDisp s d f).reclaiming = s.reclaiming := rfl
@[simp] theorem modDisp_owners (d : Nat) (f : Dispatcher → Dispatcher) : (modDisp s d f).owners = s.owners := rfl
@[simp] theorem modDisp_stations (d : Nat) (f : Dispatcher → Dispatcher) : (modDisp s d f).stations = s.stations := rfl
@[simp] theorem modDisp_waiting (d : Nat) (f : Dispatcher → Dispatcher) : (modDisp s d f).waiting = s.waiting := rfl
@[simp] theorem modDisp_inbox (d : Nat) (f : Dispatcher → Dispatcher) : (modDisp s d f).inbox = s.inbox := rfl
@[simp] theorem modDisp_tokens (d : Nat) (f : Dispatcher → Dispatcher) : (modDisp s d f).tokens = s.tokens := rfl
@[simp] theorem modDisp_homes (d : Nat) (f : Dispatcher → Dispatcher) : (modDisp s d f).homes = s.homes := rfl
@[simp] theorem modDisp_joinDecs (d : Nat) (f : Dispatcher → Dispatcher) : (modDisp s d f).joinDecs = s.joinDecs := rfl
@[simp] theorem modDisp_mem (d : Nat) (f : Dispatcher → Dispatcher) : (modDisp s d f).mem = s.mem := rfl
@[simp] theorem modDisp_poisoned (d : Nat) (f : Dispatcher → Dispatcher) : (modDisp s d f).poisoned = s.poisoned := rfl
@[simp] theorem modDisp_hostMem (d : Nat) (f : Dispatcher → Dispatcher) : (modDisp s d f).hostMem = s.hostMem := rfl
@[simp] theorem modDisp_cxlReqs (d : Nat) (f : Dispatcher → Dispatcher) : (modDisp s d f).cxlReqs = s.cxlReqs := rfl

/-! ## modQueue -/

@[simp] theorem modQueue_agenda (q : Nat) (f : Queue → Queue) : (modQueue s q f).agenda = s.agenda := rfl
@[simp] theorem modQueue_arg (q : Nat) (f : Queue → Queue) : (modQueue s q f).arg = s.arg := rfl
@[simp] theorem modQueue_cur (q : Nat) (f : Queue → Queue) : (modQueue s q f).cur = s.cur := rfl
@[simp] theorem modQueue_out (q : Nat) (f : Queue → Queue) : (modQueue s q f).out = s.out := rfl
@[simp] theorem modQueue_chron (q : Nat) (f : Queue → Queue) : (modQueue s q f).chron = s.chron := rfl
@[simp] theorem modQueue_skew (q : Nat) (f : Queue → Queue) : (modQueue s q f).skew = s.skew := rfl
@[simp] theorem modQueue_chronFloor (q : Nat) (f : Queue → Queue) : (modQueue s q f).chronFloor = s.chronFloor := rfl
@[simp] theorem modQueue_clocks (q : Nat) (f : Queue → Queue) : (modQueue s q f).clocks = s.clocks := rfl
@[simp] theorem modQueue_mgmt (q : Nat) (f : Queue → Queue) : (modQueue s q f).mgmt = s.mgmt := rfl
@[simp] theorem modQueue_eq (q : Nat) (f : Queue → Queue) : (modQueue s q f).eq = s.eq := rfl
@[simp] theorem modQueue_queues (q : Nat) (f : Queue → Queue) : (modQueue s q f).queues = Map.set s.queues q (f (queueOf s q)) := rfl
@[simp] theorem modQueue_rrQueue (q : Nat) (f : Queue → Queue) : (modQueue s q f).rrQueue = s.rrQueue := rfl
@[simp] theorem modQueue_nextLaunch (q : Nat) (f : Queue → Queue) : (modQueue s q f).nextLaunch = s.nextLaunch := rfl
@[simp] theorem modQueue_launches (q : Nat) (f : Queue → Queue) : (modQueue s q f).launches = s.launches := rfl
@[simp] theorem modQueue_waypoints (q : Nat) (f : Queue → Queue) : (modQueue s q f).waypoints = s.waypoints := rfl
@[simp] theorem modQueue_disps (q : Nat) (f : Queue → Queue) : (modQueue s q f).disps = s.disps := rfl
@[simp] theorem modQueue_barriers (q : Nat) (f : Queue → Queue) : (modQueue s q f).barriers = s.barriers := rfl
@[simp] theorem modQueue_regions (q : Nat) (f : Queue → Queue) : (modQueue s q f).regions = s.regions := rfl
@[simp] theorem modQueue_cores (q : Nat) (f : Queue → Queue) : (modQueue s q f).cores = s.cores := rfl
@[simp] theorem modQueue_engines (q : Nat) (f : Queue → Queue) : (modQueue s q f).engines = s.engines := rfl
@[simp] theorem modQueue_cmds (q : Nat) (f : Queue → Queue) : (modQueue s q f).cmds = s.cmds := rfl
@[simp] theorem modQueue_nextCmd (q : Nat) (f : Queue → Queue) : (modQueue s q f).nextCmd = s.nextCmd := rfl
@[simp] theorem modQueue_ring (q : Nat) (f : Queue → Queue) : (modQueue s q f).ring = s.ring := rfl
@[simp] theorem modQueue_slots (q : Nat) (f : Queue → Queue) : (modQueue s q f).slots = s.slots := rfl
@[simp] theorem modQueue_reclaiming (q : Nat) (f : Queue → Queue) : (modQueue s q f).reclaiming = s.reclaiming := rfl
@[simp] theorem modQueue_owners (q : Nat) (f : Queue → Queue) : (modQueue s q f).owners = s.owners := rfl
@[simp] theorem modQueue_stations (q : Nat) (f : Queue → Queue) : (modQueue s q f).stations = s.stations := rfl
@[simp] theorem modQueue_waiting (q : Nat) (f : Queue → Queue) : (modQueue s q f).waiting = s.waiting := rfl
@[simp] theorem modQueue_inbox (q : Nat) (f : Queue → Queue) : (modQueue s q f).inbox = s.inbox := rfl
@[simp] theorem modQueue_tokens (q : Nat) (f : Queue → Queue) : (modQueue s q f).tokens = s.tokens := rfl
@[simp] theorem modQueue_homes (q : Nat) (f : Queue → Queue) : (modQueue s q f).homes = s.homes := rfl
@[simp] theorem modQueue_joinDecs (q : Nat) (f : Queue → Queue) : (modQueue s q f).joinDecs = s.joinDecs := rfl
@[simp] theorem modQueue_mem (q : Nat) (f : Queue → Queue) : (modQueue s q f).mem = s.mem := rfl
@[simp] theorem modQueue_poisoned (q : Nat) (f : Queue → Queue) : (modQueue s q f).poisoned = s.poisoned := rfl
@[simp] theorem modQueue_hostMem (q : Nat) (f : Queue → Queue) : (modQueue s q f).hostMem = s.hostMem := rfl
@[simp] theorem modQueue_cxlReqs (q : Nat) (f : Queue → Queue) : (modQueue s q f).cxlReqs = s.cxlReqs := rfl

/-! ## modLaunch -/

@[simp] theorem modLaunch_agenda (l : Nat) (f : Launch → Launch) : (modLaunch s l f).agenda = s.agenda := rfl
@[simp] theorem modLaunch_arg (l : Nat) (f : Launch → Launch) : (modLaunch s l f).arg = s.arg := rfl
@[simp] theorem modLaunch_cur (l : Nat) (f : Launch → Launch) : (modLaunch s l f).cur = s.cur := rfl
@[simp] theorem modLaunch_out (l : Nat) (f : Launch → Launch) : (modLaunch s l f).out = s.out := rfl
@[simp] theorem modLaunch_chron (l : Nat) (f : Launch → Launch) : (modLaunch s l f).chron = s.chron := rfl
@[simp] theorem modLaunch_skew (l : Nat) (f : Launch → Launch) : (modLaunch s l f).skew = s.skew := rfl
@[simp] theorem modLaunch_chronFloor (l : Nat) (f : Launch → Launch) : (modLaunch s l f).chronFloor = s.chronFloor := rfl
@[simp] theorem modLaunch_clocks (l : Nat) (f : Launch → Launch) : (modLaunch s l f).clocks = s.clocks := rfl
@[simp] theorem modLaunch_mgmt (l : Nat) (f : Launch → Launch) : (modLaunch s l f).mgmt = s.mgmt := rfl
@[simp] theorem modLaunch_eq (l : Nat) (f : Launch → Launch) : (modLaunch s l f).eq = s.eq := rfl
@[simp] theorem modLaunch_queues (l : Nat) (f : Launch → Launch) : (modLaunch s l f).queues = s.queues := rfl
@[simp] theorem modLaunch_rrQueue (l : Nat) (f : Launch → Launch) : (modLaunch s l f).rrQueue = s.rrQueue := rfl
@[simp] theorem modLaunch_nextLaunch (l : Nat) (f : Launch → Launch) : (modLaunch s l f).nextLaunch = s.nextLaunch := rfl
@[simp] theorem modLaunch_launches (l : Nat) (f : Launch → Launch) :
    (modLaunch s l f).launches = s.launches.map fun x => if x.id = l then f x else x := rfl
@[simp] theorem modLaunch_waypoints (l : Nat) (f : Launch → Launch) : (modLaunch s l f).waypoints = s.waypoints := rfl
@[simp] theorem modLaunch_disps (l : Nat) (f : Launch → Launch) : (modLaunch s l f).disps = s.disps := rfl
@[simp] theorem modLaunch_barriers (l : Nat) (f : Launch → Launch) : (modLaunch s l f).barriers = s.barriers := rfl
@[simp] theorem modLaunch_regions (l : Nat) (f : Launch → Launch) : (modLaunch s l f).regions = s.regions := rfl
@[simp] theorem modLaunch_cores (l : Nat) (f : Launch → Launch) : (modLaunch s l f).cores = s.cores := rfl
@[simp] theorem modLaunch_engines (l : Nat) (f : Launch → Launch) : (modLaunch s l f).engines = s.engines := rfl
@[simp] theorem modLaunch_cmds (l : Nat) (f : Launch → Launch) : (modLaunch s l f).cmds = s.cmds := rfl
@[simp] theorem modLaunch_nextCmd (l : Nat) (f : Launch → Launch) : (modLaunch s l f).nextCmd = s.nextCmd := rfl
@[simp] theorem modLaunch_ring (l : Nat) (f : Launch → Launch) : (modLaunch s l f).ring = s.ring := rfl
@[simp] theorem modLaunch_slots (l : Nat) (f : Launch → Launch) : (modLaunch s l f).slots = s.slots := rfl
@[simp] theorem modLaunch_reclaiming (l : Nat) (f : Launch → Launch) : (modLaunch s l f).reclaiming = s.reclaiming := rfl
@[simp] theorem modLaunch_owners (l : Nat) (f : Launch → Launch) : (modLaunch s l f).owners = s.owners := rfl
@[simp] theorem modLaunch_stations (l : Nat) (f : Launch → Launch) : (modLaunch s l f).stations = s.stations := rfl
@[simp] theorem modLaunch_waiting (l : Nat) (f : Launch → Launch) : (modLaunch s l f).waiting = s.waiting := rfl
@[simp] theorem modLaunch_inbox (l : Nat) (f : Launch → Launch) : (modLaunch s l f).inbox = s.inbox := rfl
@[simp] theorem modLaunch_tokens (l : Nat) (f : Launch → Launch) : (modLaunch s l f).tokens = s.tokens := rfl
@[simp] theorem modLaunch_homes (l : Nat) (f : Launch → Launch) : (modLaunch s l f).homes = s.homes := rfl
@[simp] theorem modLaunch_joinDecs (l : Nat) (f : Launch → Launch) : (modLaunch s l f).joinDecs = s.joinDecs := rfl
@[simp] theorem modLaunch_mem (l : Nat) (f : Launch → Launch) : (modLaunch s l f).mem = s.mem := rfl
@[simp] theorem modLaunch_poisoned (l : Nat) (f : Launch → Launch) : (modLaunch s l f).poisoned = s.poisoned := rfl
@[simp] theorem modLaunch_hostMem (l : Nat) (f : Launch → Launch) : (modLaunch s l f).hostMem = s.hostMem := rfl
@[simp] theorem modLaunch_cxlReqs (l : Nat) (f : Launch → Launch) : (modLaunch s l f).cxlReqs = s.cxlReqs := rfl

/-! ## modWp -/

@[simp] theorem modWp_agenda (k : WpKey) (f : Waypoint → Waypoint) : (modWp s k f).agenda = s.agenda := rfl
@[simp] theorem modWp_arg (k : WpKey) (f : Waypoint → Waypoint) : (modWp s k f).arg = s.arg := rfl
@[simp] theorem modWp_cur (k : WpKey) (f : Waypoint → Waypoint) : (modWp s k f).cur = s.cur := rfl
@[simp] theorem modWp_out (k : WpKey) (f : Waypoint → Waypoint) : (modWp s k f).out = s.out := rfl
@[simp] theorem modWp_chron (k : WpKey) (f : Waypoint → Waypoint) : (modWp s k f).chron = s.chron := rfl
@[simp] theorem modWp_skew (k : WpKey) (f : Waypoint → Waypoint) : (modWp s k f).skew = s.skew := rfl
@[simp] theorem modWp_chronFloor (k : WpKey) (f : Waypoint → Waypoint) : (modWp s k f).chronFloor = s.chronFloor := rfl
@[simp] theorem modWp_clocks (k : WpKey) (f : Waypoint → Waypoint) : (modWp s k f).clocks = s.clocks := rfl
@[simp] theorem modWp_mgmt (k : WpKey) (f : Waypoint → Waypoint) : (modWp s k f).mgmt = s.mgmt := rfl
@[simp] theorem modWp_eq (k : WpKey) (f : Waypoint → Waypoint) : (modWp s k f).eq = s.eq := rfl
@[simp] theorem modWp_queues (k : WpKey) (f : Waypoint → Waypoint) : (modWp s k f).queues = s.queues := rfl
@[simp] theorem modWp_rrQueue (k : WpKey) (f : Waypoint → Waypoint) : (modWp s k f).rrQueue = s.rrQueue := rfl
@[simp] theorem modWp_nextLaunch (k : WpKey) (f : Waypoint → Waypoint) : (modWp s k f).nextLaunch = s.nextLaunch := rfl
@[simp] theorem modWp_launches (k : WpKey) (f : Waypoint → Waypoint) : (modWp s k f).launches = s.launches := rfl
@[simp] theorem modWp_waypoints (k : WpKey) (f : Waypoint → Waypoint) :
    (modWp s k f).waypoints = s.waypoints.map fun w => if w.key = k then f w else w := rfl
@[simp] theorem modWp_disps (k : WpKey) (f : Waypoint → Waypoint) : (modWp s k f).disps = s.disps := rfl
@[simp] theorem modWp_barriers (k : WpKey) (f : Waypoint → Waypoint) : (modWp s k f).barriers = s.barriers := rfl
@[simp] theorem modWp_regions (k : WpKey) (f : Waypoint → Waypoint) : (modWp s k f).regions = s.regions := rfl
@[simp] theorem modWp_cores (k : WpKey) (f : Waypoint → Waypoint) : (modWp s k f).cores = s.cores := rfl
@[simp] theorem modWp_engines (k : WpKey) (f : Waypoint → Waypoint) : (modWp s k f).engines = s.engines := rfl
@[simp] theorem modWp_cmds (k : WpKey) (f : Waypoint → Waypoint) : (modWp s k f).cmds = s.cmds := rfl
@[simp] theorem modWp_nextCmd (k : WpKey) (f : Waypoint → Waypoint) : (modWp s k f).nextCmd = s.nextCmd := rfl
@[simp] theorem modWp_ring (k : WpKey) (f : Waypoint → Waypoint) : (modWp s k f).ring = s.ring := rfl
@[simp] theorem modWp_slots (k : WpKey) (f : Waypoint → Waypoint) : (modWp s k f).slots = s.slots := rfl
@[simp] theorem modWp_reclaiming (k : WpKey) (f : Waypoint → Waypoint) : (modWp s k f).reclaiming = s.reclaiming := rfl
@[simp] theorem modWp_owners (k : WpKey) (f : Waypoint → Waypoint) : (modWp s k f).owners = s.owners := rfl
@[simp] theorem modWp_stations (k : WpKey) (f : Waypoint → Waypoint) : (modWp s k f).stations = s.stations := rfl
@[simp] theorem modWp_waiting (k : WpKey) (f : Waypoint → Waypoint) : (modWp s k f).waiting = s.waiting := rfl
@[simp] theorem modWp_inbox (k : WpKey) (f : Waypoint → Waypoint) : (modWp s k f).inbox = s.inbox := rfl
@[simp] theorem modWp_tokens (k : WpKey) (f : Waypoint → Waypoint) : (modWp s k f).tokens = s.tokens := rfl
@[simp] theorem modWp_homes (k : WpKey) (f : Waypoint → Waypoint) : (modWp s k f).homes = s.homes := rfl
@[simp] theorem modWp_joinDecs (k : WpKey) (f : Waypoint → Waypoint) : (modWp s k f).joinDecs = s.joinDecs := rfl
@[simp] theorem modWp_mem (k : WpKey) (f : Waypoint → Waypoint) : (modWp s k f).mem = s.mem := rfl
@[simp] theorem modWp_poisoned (k : WpKey) (f : Waypoint → Waypoint) : (modWp s k f).poisoned = s.poisoned := rfl
@[simp] theorem modWp_hostMem (k : WpKey) (f : Waypoint → Waypoint) : (modWp s k f).hostMem = s.hostMem := rfl
@[simp] theorem modWp_cxlReqs (k : WpKey) (f : Waypoint → Waypoint) : (modWp s k f).cxlReqs = s.cxlReqs := rfl

/-! ## putDram -/

@[simp] theorem putDram_agenda (a : Nat) (bs : List Byte) : (putDram s a bs).agenda = s.agenda := rfl
@[simp] theorem putDram_arg (a : Nat) (bs : List Byte) : (putDram s a bs).arg = s.arg := rfl
@[simp] theorem putDram_cur (a : Nat) (bs : List Byte) : (putDram s a bs).cur = s.cur := rfl
@[simp] theorem putDram_out (a : Nat) (bs : List Byte) : (putDram s a bs).out = s.out := rfl
@[simp] theorem putDram_chron (a : Nat) (bs : List Byte) : (putDram s a bs).chron = s.chron := rfl
@[simp] theorem putDram_skew (a : Nat) (bs : List Byte) : (putDram s a bs).skew = s.skew := rfl
@[simp] theorem putDram_chronFloor (a : Nat) (bs : List Byte) : (putDram s a bs).chronFloor = s.chronFloor := rfl
@[simp] theorem putDram_clocks (a : Nat) (bs : List Byte) : (putDram s a bs).clocks = s.clocks := rfl
@[simp] theorem putDram_mgmt (a : Nat) (bs : List Byte) : (putDram s a bs).mgmt = s.mgmt := rfl
@[simp] theorem putDram_eq (a : Nat) (bs : List Byte) : (putDram s a bs).eq = s.eq := rfl
@[simp] theorem putDram_queues (a : Nat) (bs : List Byte) : (putDram s a bs).queues = s.queues := rfl
@[simp] theorem putDram_rrQueue (a : Nat) (bs : List Byte) : (putDram s a bs).rrQueue = s.rrQueue := rfl
@[simp] theorem putDram_nextLaunch (a : Nat) (bs : List Byte) : (putDram s a bs).nextLaunch = s.nextLaunch := rfl
@[simp] theorem putDram_launches (a : Nat) (bs : List Byte) : (putDram s a bs).launches = s.launches := rfl
@[simp] theorem putDram_waypoints (a : Nat) (bs : List Byte) : (putDram s a bs).waypoints = s.waypoints := rfl
@[simp] theorem putDram_disps (a : Nat) (bs : List Byte) : (putDram s a bs).disps = s.disps := rfl
@[simp] theorem putDram_barriers (a : Nat) (bs : List Byte) : (putDram s a bs).barriers = s.barriers := rfl
@[simp] theorem putDram_regions (a : Nat) (bs : List Byte) : (putDram s a bs).regions = s.regions := rfl
@[simp] theorem putDram_cores (a : Nat) (bs : List Byte) : (putDram s a bs).cores = s.cores := rfl
@[simp] theorem putDram_engines (a : Nat) (bs : List Byte) : (putDram s a bs).engines = s.engines := rfl
@[simp] theorem putDram_cmds (a : Nat) (bs : List Byte) : (putDram s a bs).cmds = s.cmds := rfl
@[simp] theorem putDram_nextCmd (a : Nat) (bs : List Byte) : (putDram s a bs).nextCmd = s.nextCmd := rfl
@[simp] theorem putDram_ring (a : Nat) (bs : List Byte) : (putDram s a bs).ring = s.ring := rfl
@[simp] theorem putDram_slots (a : Nat) (bs : List Byte) : (putDram s a bs).slots = s.slots := rfl
@[simp] theorem putDram_reclaiming (a : Nat) (bs : List Byte) : (putDram s a bs).reclaiming = s.reclaiming := rfl
@[simp] theorem putDram_owners (a : Nat) (bs : List Byte) : (putDram s a bs).owners = s.owners := rfl
@[simp] theorem putDram_stations (a : Nat) (bs : List Byte) : (putDram s a bs).stations = s.stations := rfl
@[simp] theorem putDram_waiting (a : Nat) (bs : List Byte) : (putDram s a bs).waiting = s.waiting := rfl
@[simp] theorem putDram_inbox (a : Nat) (bs : List Byte) : (putDram s a bs).inbox = s.inbox := rfl
@[simp] theorem putDram_tokens (a : Nat) (bs : List Byte) : (putDram s a bs).tokens = s.tokens := rfl
@[simp] theorem putDram_homes (a : Nat) (bs : List Byte) : (putDram s a bs).homes = s.homes := rfl
@[simp] theorem putDram_joinDecs (a : Nat) (bs : List Byte) : (putDram s a bs).joinDecs = s.joinDecs := rfl
@[simp] theorem putDram_mem (a : Nat) (bs : List Byte) : (putDram s a bs).mem = writeBytes s.mem a bs := rfl
@[simp] theorem putDram_poisoned (a : Nat) (bs : List Byte) : (putDram s a bs).poisoned = unpoison s.poisoned a bs.length := rfl
@[simp] theorem putDram_hostMem (a : Nat) (bs : List Byte) : (putDram s a bs).hostMem = s.hostMem := rfl
@[simp] theorem putDram_cxlReqs (a : Nat) (bs : List Byte) : (putDram s a bs).cxlReqs = s.cxlReqs := rfl

/-! ## enqueue -/

@[simp] theorem enqueue_agenda (i : Instr) (a : Arg) :
    (enqueue s i a).agenda = s.agenda ++ [{ ticks := 0, what := some i, arg := a }] := rfl
@[simp] theorem enqueue_arg (i : Instr) (a : Arg) : (enqueue s i a).arg = s.arg := rfl
@[simp] theorem enqueue_cur (i : Instr) (a : Arg) : (enqueue s i a).cur = s.cur := rfl
@[simp] theorem enqueue_out (i : Instr) (a : Arg) : (enqueue s i a).out = s.out := rfl
@[simp] theorem enqueue_chron (i : Instr) (a : Arg) : (enqueue s i a).chron = s.chron := rfl
@[simp] theorem enqueue_skew (i : Instr) (a : Arg) : (enqueue s i a).skew = s.skew := rfl
@[simp] theorem enqueue_chronFloor (i : Instr) (a : Arg) : (enqueue s i a).chronFloor = s.chronFloor := rfl
@[simp] theorem enqueue_clocks (i : Instr) (a : Arg) : (enqueue s i a).clocks = s.clocks := rfl
@[simp] theorem enqueue_mgmt (i : Instr) (a : Arg) : (enqueue s i a).mgmt = s.mgmt := rfl
@[simp] theorem enqueue_eq (i : Instr) (a : Arg) : (enqueue s i a).eq = s.eq := rfl
@[simp] theorem enqueue_queues (i : Instr) (a : Arg) : (enqueue s i a).queues = s.queues := rfl
@[simp] theorem enqueue_rrQueue (i : Instr) (a : Arg) : (enqueue s i a).rrQueue = s.rrQueue := rfl
@[simp] theorem enqueue_nextLaunch (i : Instr) (a : Arg) : (enqueue s i a).nextLaunch = s.nextLaunch := rfl
@[simp] theorem enqueue_launches (i : Instr) (a : Arg) : (enqueue s i a).launches = s.launches := rfl
@[simp] theorem enqueue_waypoints (i : Instr) (a : Arg) : (enqueue s i a).waypoints = s.waypoints := rfl
@[simp] theorem enqueue_disps (i : Instr) (a : Arg) : (enqueue s i a).disps = s.disps := rfl
@[simp] theorem enqueue_barriers (i : Instr) (a : Arg) : (enqueue s i a).barriers = s.barriers := rfl
@[simp] theorem enqueue_regions (i : Instr) (a : Arg) : (enqueue s i a).regions = s.regions := rfl
@[simp] theorem enqueue_cores (i : Instr) (a : Arg) : (enqueue s i a).cores = s.cores := rfl
@[simp] theorem enqueue_engines (i : Instr) (a : Arg) : (enqueue s i a).engines = s.engines := rfl
@[simp] theorem enqueue_cmds (i : Instr) (a : Arg) : (enqueue s i a).cmds = s.cmds := rfl
@[simp] theorem enqueue_nextCmd (i : Instr) (a : Arg) : (enqueue s i a).nextCmd = s.nextCmd := rfl
@[simp] theorem enqueue_ring (i : Instr) (a : Arg) : (enqueue s i a).ring = s.ring := rfl
@[simp] theorem enqueue_slots (i : Instr) (a : Arg) : (enqueue s i a).slots = s.slots := rfl
@[simp] theorem enqueue_reclaiming (i : Instr) (a : Arg) : (enqueue s i a).reclaiming = s.reclaiming := rfl
@[simp] theorem enqueue_owners (i : Instr) (a : Arg) : (enqueue s i a).owners = s.owners := rfl
@[simp] theorem enqueue_stations (i : Instr) (a : Arg) : (enqueue s i a).stations = s.stations := rfl
@[simp] theorem enqueue_waiting (i : Instr) (a : Arg) : (enqueue s i a).waiting = s.waiting := rfl
@[simp] theorem enqueue_inbox (i : Instr) (a : Arg) : (enqueue s i a).inbox = s.inbox := rfl
@[simp] theorem enqueue_tokens (i : Instr) (a : Arg) : (enqueue s i a).tokens = s.tokens := rfl
@[simp] theorem enqueue_homes (i : Instr) (a : Arg) : (enqueue s i a).homes = s.homes := rfl
@[simp] theorem enqueue_joinDecs (i : Instr) (a : Arg) : (enqueue s i a).joinDecs = s.joinDecs := rfl
@[simp] theorem enqueue_mem (i : Instr) (a : Arg) : (enqueue s i a).mem = s.mem := rfl
@[simp] theorem enqueue_poisoned (i : Instr) (a : Arg) : (enqueue s i a).poisoned = s.poisoned := rfl
@[simp] theorem enqueue_hostMem (i : Instr) (a : Arg) : (enqueue s i a).hostMem = s.hostMem := rfl
@[simp] theorem enqueue_cxlReqs (i : Instr) (a : Arg) : (enqueue s i a).cxlReqs = s.cxlReqs := rfl

/-! ## emit -/

@[simp] theorem emit_agenda (m : OutMsg) : (emit s m).agenda = s.agenda := rfl
@[simp] theorem emit_arg (m : OutMsg) : (emit s m).arg = s.arg := rfl
@[simp] theorem emit_cur (m : OutMsg) : (emit s m).cur = s.cur := rfl
@[simp] theorem emit_out (m : OutMsg) : (emit s m).out = s.out ++ [m] := rfl
@[simp] theorem emit_chron (m : OutMsg) : (emit s m).chron = s.chron := rfl
@[simp] theorem emit_skew (m : OutMsg) : (emit s m).skew = s.skew := rfl
@[simp] theorem emit_chronFloor (m : OutMsg) : (emit s m).chronFloor = s.chronFloor := rfl
@[simp] theorem emit_clocks (m : OutMsg) : (emit s m).clocks = s.clocks := rfl
@[simp] theorem emit_mgmt (m : OutMsg) : (emit s m).mgmt = s.mgmt := rfl
@[simp] theorem emit_eq (m : OutMsg) : (emit s m).eq = s.eq := rfl
@[simp] theorem emit_queues (m : OutMsg) : (emit s m).queues = s.queues := rfl
@[simp] theorem emit_rrQueue (m : OutMsg) : (emit s m).rrQueue = s.rrQueue := rfl
@[simp] theorem emit_nextLaunch (m : OutMsg) : (emit s m).nextLaunch = s.nextLaunch := rfl
@[simp] theorem emit_launches (m : OutMsg) : (emit s m).launches = s.launches := rfl
@[simp] theorem emit_waypoints (m : OutMsg) : (emit s m).waypoints = s.waypoints := rfl
@[simp] theorem emit_disps (m : OutMsg) : (emit s m).disps = s.disps := rfl
@[simp] theorem emit_barriers (m : OutMsg) : (emit s m).barriers = s.barriers := rfl
@[simp] theorem emit_regions (m : OutMsg) : (emit s m).regions = s.regions := rfl
@[simp] theorem emit_cores (m : OutMsg) : (emit s m).cores = s.cores := rfl
@[simp] theorem emit_engines (m : OutMsg) : (emit s m).engines = s.engines := rfl
@[simp] theorem emit_cmds (m : OutMsg) : (emit s m).cmds = s.cmds := rfl
@[simp] theorem emit_nextCmd (m : OutMsg) : (emit s m).nextCmd = s.nextCmd := rfl
@[simp] theorem emit_ring (m : OutMsg) : (emit s m).ring = s.ring := rfl
@[simp] theorem emit_slots (m : OutMsg) : (emit s m).slots = s.slots := rfl
@[simp] theorem emit_reclaiming (m : OutMsg) : (emit s m).reclaiming = s.reclaiming := rfl
@[simp] theorem emit_owners (m : OutMsg) : (emit s m).owners = s.owners := rfl
@[simp] theorem emit_stations (m : OutMsg) : (emit s m).stations = s.stations := rfl
@[simp] theorem emit_waiting (m : OutMsg) : (emit s m).waiting = s.waiting := rfl
@[simp] theorem emit_inbox (m : OutMsg) : (emit s m).inbox = s.inbox := rfl
@[simp] theorem emit_tokens (m : OutMsg) : (emit s m).tokens = s.tokens := rfl
@[simp] theorem emit_homes (m : OutMsg) : (emit s m).homes = s.homes := rfl
@[simp] theorem emit_joinDecs (m : OutMsg) : (emit s m).joinDecs = s.joinDecs := rfl
@[simp] theorem emit_mem (m : OutMsg) : (emit s m).mem = s.mem := rfl
@[simp] theorem emit_poisoned (m : OutMsg) : (emit s m).poisoned = s.poisoned := rfl
@[simp] theorem emit_hostMem (m : OutMsg) : (emit s m).hostMem = s.hostMem := rfl
@[simp] theorem emit_cxlReqs (m : OutMsg) : (emit s m).cxlReqs = s.cxlReqs := rfl

end Sys2Proof.Machine
end

