-- ==== Sys2Proof/Laws/Registers.lean ====
section
/-! SUPPORT. Cores and their registers: what a core reads as after a core is replaced, and what each register operation does to the
value and the full/empty bit of every register. -/
namespace Sys2Proof.Machine

/-! ## Cores of a state -/

theorem coreOf_setCore (s : State) (c c' : Nat) (k : Core) : coreOf (setCore s c k) c' = if c = c' then k else coreOf s c' :=
  Map.get_set s.cores c c' k {}

@[simp] theorem coreOf_setCore_same (s : State) (c : Nat) (k : Core) : coreOf (setCore s c k) c = k := by simp [coreOf_setCore]

theorem coreOf_setCore_other (s : State) {c c' : Nat} (k : Core) (h : c ≠ c') : coreOf (setCore s c k) c' = coreOf s c' := by
  simp [coreOf_setCore, h]

theorem coreOf_modCore (s : State) (c c' : Nat) (f : Core → Core) :
    coreOf (modCore s c f) c' = if c = c' then f (coreOf s c) else coreOf s c' := coreOf_setCore s c c' _

@[simp] theorem coreOf_modCore_same (s : State) (c : Nat) (f : Core → Core) : coreOf (modCore s c f) c = f (coreOf s c) := by
  simp [coreOf_modCore]

theorem coreOf_modCore_other (s : State) {c c' : Nat} (f : Core → Core) (h : c ≠ c') : coreOf (modCore s c f) c' = coreOf s c' := by
  simp [coreOf_modCore, h]

/-! ## Full and empty (R167) -/

theorem isEmpty_markEmpty (k : Core) (a b : Nat) (h : b < 320) : isEmpty (markEmpty k a) b = (isEmpty k b || decide (a = b)) := by
  simp only [isEmpty, markEmpty, BitVec.getLsbD_or, BitVec.getLsbD_shiftLeft, BitVec.getLsbD_one, h, decide_true, Bool.true_and]
  congr 1
  by_cases hab : a = b
  · subst hab; simp
  · simp only [hab, decide_false]
    by_cases hlt : b < a
    · simp [hlt]
    · simp [hlt, show b - a ≠ 0 by omega]

theorem isEmpty_markFull (k : Core) (a b : Nat) (h : b < 320) : isEmpty (markFull k a) b = (isEmpty k b && decide (a ≠ b)) := by
  simp only [isEmpty, markFull, BitVec.getLsbD_and, BitVec.getLsbD_not, BitVec.getLsbD_shiftLeft, BitVec.getLsbD_one, h, decide_true,
    Bool.true_and]
  congr 1
  by_cases hab : a = b
  · subst hab; simp
  · by_cases hlt : b < a
    · simp [hab, hlt]
    · simp [hab, hlt, show b - a ≠ 0 by omega]

@[simp] theorem valueAt_markEmpty (k : Core) (a key : Nat) : valueAt (markEmpty k a) key = valueAt k key := rfl

@[simp] theorem valueAt_markFull (k : Core) (a key : Nat) : valueAt (markFull k a) key = valueAt k key := rfl

/-! ## Values (R160) -/

/-- s0 and p0 discard what is written. -/
theorem putValue_hardWired (k : Core) {key : Nat} (v : PVal) (h : hardWired key = true) : putValue k key v = k := by
  simp [putValue, h]

theorem putValue_empty (k : Core) (key : Nat) (v : PVal) : (putValue k key v).empty = k.empty := by
  unfold putValue; split
  · rfl
  · cases v with
    | sc w => dsimp only; split <;> rfl
    | im w b => rfl
    | ve x => rfl
    | ma x => rfl

theorem putValue_pends (k : Core) (key : Nat) (v : PVal) : (putValue k key v).pends = k.pends := by
  unfold putValue; split
  · rfl
  · cases v with
    | sc w => dsimp only; split <;> rfl
    | im w b => rfl
    | ve x => rfl
    | ma x => rfl

/-- A scalar written to an s register or a result register stands there. -/
theorem valueAt_putValue_sc (k : Core) {key : Nat} (w : Word) (h0 : hardWired key = false) (h : key < 0x40 ∨ 0xA0 ≤ key) :
    valueAt (putValue k key (.sc w)) key = .sc w := by
  have hz : key ≠ 0 := by rintro rfl; simp [hardWired] at h0
  have hp : (decide (0x80 ≤ key) && decide (key < 0x90)) = false := by simp; omega
  simp only [putValue, h0, hp]
  rcases h with h | h
  · simp [valueAt, scalarAt, h, hz]
  · simp [valueAt, scalarAt, hz, show ¬key < 0x40 by omega, show ¬key < 0x80 by omega, show ¬key < 0x90 by omega,
      show ¬key < 0x98 by omega, show ¬key < 0xA0 by omega]

/-- A vector written to a v or f register stands there. -/
theorem valueAt_putValue_ve (k : Core) {key : Nat} (x : Vec) (h : 0x40 ≤ key ∧ key < 0x80 ∨ 0x90 ≤ key ∧ key < 0x98) :
    valueAt (putValue k key (.ve x)) key = .ve x := by
  have h0 : hardWired key = false := by simp [hardWired]; omega
  simp only [putValue, h0]
  rcases h with h | h
  · simp [valueAt, show ¬key < 0x40 by omega, h.2]
  · simp [valueAt, show ¬key < 0x40 by omega, show ¬key < 0x80 by omega, show ¬key < 0x90 by omega, h.2]

/-- A mask written to an m register stands there. -/
theorem valueAt_putValue_ma (k : Core) {key : Nat} (x : LaneMask) (h : 0x98 ≤ key ∧ key < 0xA0) :
    valueAt (putValue k key (.ma x)) key = .ma x := by
  have h0 : hardWired key = false := by simp [hardWired]; omega
  simp [putValue, h0, valueAt, show ¬key < 0x40 by omega, show ¬key < 0x80 by omega, show ¬key < 0x90 by omega,
    show ¬key < 0x98 by omega, h.2]

/-- A predicate register's bit. -/
theorem valueAt_pred (k : Core) {j : Nat} (h1 : 0x80 ≤ j) (h2 : j < 0x90) :
    valueAt k j = .sc (if predAt k (j - 0x80) then 1#64 else 0#64) := by
  unfold valueAt; rw [if_neg (by omega), if_neg (by omega), if_pos h2]

/-- Every other register's value does not depend on the predicates. -/
theorem valueAt_pr (k : Core) {j : Nat} (b : BitVec 16) (h : j < 0x80 ∨ 0x90 ≤ j) : valueAt { k with pr := b } j = valueAt k j := by
  unfold valueAt scalarAt
  by_cases h1 : j < 0x40
  · simp only [h1, if_true]
  · by_cases h2 : j < 0x80
    · simp only [h1, h2, if_true, if_false]
    · have h3 : ¬j < 0x90 := by omega
      simp only [h1, h2, h3, if_false]

/-- A scalar written to a predicate sets or clears its bit. -/
theorem putValue_pred (k : Core) {key : Nat} (w : Word) (h1 : 0x80 < key) (h2 : key < 0x90) :
    putValue k key (.sc w) =
      { k with pr := if w.getLsbD 0 then k.pr ||| 1#16 <<< (key - 0x80) else k.pr &&& ~~~(1#16 <<< (key - 0x80)) } := by
  have h0 : hardWired key = false := by simp [hardWired]; omega
  have hp : (decide (0x80 ≤ key) && decide (key < 0x90)) = true := by simp; omega
  simp only [putValue, h0, hp, if_true, Bool.false_eq_true, if_false]

/-- A predicate takes bit 0. -/
theorem valueAt_putValue_pred (k : Core) {key : Nat} (w : Word) (h1 : 0x80 < key) (h2 : key < 0x90) :
    valueAt (putValue k key (.sc w)) key = .sc (if w.getLsbD 0 then 1#64 else 0#64) := by
  have hn : key - 128 ≠ 0 := by omega
  have hl : key - 128 < 16 := by omega
  rw [putValue_pred k w h1 h2, valueAt_pred _ (by omega) h2]
  unfold predAt
  cases w.getLsbD 0 <;> simp [hn, hl]

/-- A write leaves every register of another key as it was. -/
theorem valueAt_putValue_other (k : Core) {key j : Nat} (v : PVal) (h : key ≠ j) : valueAt (putValue k key v) j = valueAt k j := by
  by_cases h0 : hardWired key = true
  · rw [putValue_hardWired k v h0]
  · cases v with
    | sc w =>
      by_cases hp : 0x80 < key ∧ key < 0x90
      · rw [putValue_pred k w hp.1 hp.2]
        by_cases hj : 0x80 ≤ j ∧ j < 0x90
        · rw [valueAt_pred _ hj.1 hj.2, valueAt_pred _ hj.1 hj.2]
          unfold predAt
          have hl : j - 128 < 16 := by omega
          by_cases hlt : j - 128 < key - 128
          · cases w.getLsbD 0 <;> simp [hl, hlt]
          · have : j - 128 - (key - 128) ≠ 0 := by omega
            cases w.getLsbD 0 <;> simp [hl, hlt, this]
        · exact valueAt_pr k _ (by omega)
      · have hb : (decide (0x80 ≤ key) && decide (key < 0x90)) = false := by
          have : key ≠ 0x80 := by rintro rfl; simp [hardWired] at h0
          simp; omega
        simp [putValue, h0, hb, valueAt, scalarAt, predAt, Map.get_set, h]
    | im w b => simp [putValue, h0, valueAt, scalarAt, predAt, Map.get_set, h]
    | ve x => simp [putValue, h0, valueAt, scalarAt, predAt, Map.get_set, h]
    | ma x => simp [putValue, h0, valueAt, scalarAt, predAt, Map.get_set, h]

/-! ## A move's write and an operation's result (R167, R170) -/

theorem valueAt_writeReg_other (k : Core) {key j : Nat} (v : PVal) (h : key ≠ j) : valueAt (writeReg k key v) j = valueAt k j :=
  valueAt_putValue_other k v h

/-- After a move's write the register is FULL. -/
theorem isEmpty_writeReg (k : Core) (key j : Nat) (v : PVal) (h : j < 320) :
    isEmpty (writeReg k key v) j = (isEmpty k j && decide (key ≠ j)) := by
  have := isEmpty_markFull
    { putValue k key v with pends := k.pends.filter fun p => p.reg ≠ key, aside := k.aside.filter fun p => p.reg ≠ key } key j h
  rw [writeReg, this]
  simp [isEmpty, putValue_empty]

theorem valueAt_issueResult_other (k : Core) {key j : Nat} (v : PVal) (dist : Nat) (fixed : Bool) (page : Nat) (h : key ≠ j) :
    valueAt (issueResult k key v dist fixed page) j = valueAt k j := by
  unfold issueResult
  split
  · rfl
  · exact valueAt_putValue_other k v h

theorem valueAt_issueResult (k : Core) {key : Nat} (v : PVal) (dist : Nat) (fixed : Bool) (page : Nat) (h : hardWired key = false) :
    valueAt (issueResult k key v dist fixed page) key = valueAt (putValue k key v) key := by
  simp only [issueResult, h]; rfl

/-- An operation's result makes its register EMPTY until it arrives. -/
theorem isEmpty_issueResult (k : Core) (key j : Nat) (v : PVal) (dist : Nat) (fixed : Bool) (page : Nat) (h : j < 320) :
    isEmpty (issueResult k key v dist fixed page) j = (isEmpty k j || !hardWired key && decide (key = j)) := by
  unfold issueResult
  cases hw : hardWired key with
  | true => simp
  | false =>
    simp only [Bool.false_eq_true, if_false, Bool.not_false, Bool.true_and]
    rw [isEmpty_markEmpty _ _ _ h]
    simp [isEmpty, putValue_empty]

/-! ## Retirement (R173) -/

/-- What retirement leaves of a core: its registers and its place; it touches full/empty bits, pending results, flags and the window. -/
def SameButRetired (a b : Core) : Prop :=
  ∃ e p fl w, a = { b with empty := e, pends := p, flg := fl, window := w }

theorem SameButRetired.trans {a b c : Core} (h : SameButRetired a b) (g : SameButRetired b c) : SameButRetired a c := by
  obtain ⟨e, p, fl, w, rfl⟩ := h; obtain ⟨e', p', fl', w', rfl⟩ := g; exact ⟨e, p, fl, w, rfl⟩

theorem sameButRetired_foldl {α : Type} (f : Core → α → Core) (hf : ∀ k x, SameButRetired (f k x) k) (l : List α) (k : Core) :
    SameButRetired (l.foldl f k) k := by
  induction l generalizing k with
  | nil => exact ⟨k.empty, k.pends, k.flg, k.window, rfl⟩
  | cons x t ih => exact (ih (f k x)).trans (hf k x)

theorem sameButRetired_arrive (k : Core) (key : Nat) : SameButRetired (arriveResult k key) k := by
  unfold arriveResult
  split
  · exact ⟨_, _, _, _, rfl⟩
  · split
    · exact ⟨_, _, _, _, rfl⟩
    · exact ⟨_, _, _, _, rfl⟩

theorem sameButRetired_oldest (k : Core) : SameButRetired (retireOldest k) k := by
  unfold retireOldest
  cases h : k.window with
  | nil => exact ⟨k.empty, k.pends, k.flg, k.window, rfl⟩
  | cons u rest =>
    simp only
    have h0 : SameButRetired { k with window := rest } k := ⟨k.empty, k.pends, k.flg, rest, rfl⟩
    have h1 := (sameButRetired_foldl arriveResult sameButRetired_arrive u.regs { k with window := rest }).trans h0
    have h2 := (sameButRetired_foldl (fun k j => markEmpty k (0x90 + j)) (fun k j => ⟨_, k.pends, k.flg, k.window, rfl⟩)
      (bitsSet u.consumes.toNat 4) _).trans h1
    exact SameButRetired.trans (b := (bitsSet u.consumes.toNat 4).foldl (fun k j => markEmpty k (0x90 + j))
      (u.regs.foldl arriveResult { k with window := rest })) ⟨_, _, _, _, rfl⟩ h2

theorem sameButRetired_n (n : Nat) (k : Core) : SameButRetired (retireN n k) k := by
  induction n generalizing k with
  | zero => exact ⟨k.empty, k.pends, k.flg, k.window, rfl⟩
  | succ n ih => exact (ih (retireOldest k)).trans (sameButRetired_oldest k)

/-- Retirement keeps every register, every control register but k.flg, and the core's place. -/
theorem sameButRetired_all (k : Core) : SameButRetired (retireAll k) k := sameButRetired_n k.window.length k

end Sys2Proof.Machine
end

