-- ==== Sys2Proof/Laws/Triggers.lean ====
section
/-! SUPPORT. A move by itself: what runTrigger and execMove answer, said once for every instruction that goes through them. -/
namespace Sys2Proof.Machine

variable {op : OpIn → State → Res State} {d : BitVec 12} {m : MoveF} {s t u : State} {v : PVal} {k : Core}

/-- What a stop leaves behind. -/
@[simp] theorem stopped_trap (s : State) (c : Nat) (x : Trap) : stopped s c (.trap x) = .next (takeTrap s c x) := rfl

@[simp] theorem stopped_wait (s : State) (c : Nat) (p : Park) : stopped s c (.wait p) = .next (parked s c p) := rfl

@[simp] theorem stopped_fault (s : State) (c : Nat) (f : Fault) : stopped s c (.fault f) = .fault f := rfl

/-- R164. A move whose guard is false does nothing. -/
theorem runTrigger_dead (h : guardTrue (coreOf s s.cur) m = false) : runTrigger op d m s = .next s := by simp [runTrigger, h]

/-- A live move's answer is its operation's. -/
theorem runTrigger_feeds (h : Feeds s d m v k) : runTrigger op d m s =
    match op (issued s d m v) (fed s k) with
    | .error e => stopped s s.cur e
    | .ok u => .next (spent s.cur m u) := by
  obtain ⟨hg, hr, hc⟩ := h
  simp only [runTrigger, hg, hr, hc, issued, fed, spent, Bool.not_true, Bool.false_eq_true, if_false]
  cases op _ _ with
  | error e => rfl
  | ok u => cases consumes m <;> rfl

theorem runTrigger_ok (h : Feeds s d m v k) (ho : op (issued s d m v) (fed s k) = .ok u) :
    runTrigger op d m s = .next (spent s.cur m u) := by rw [runTrigger_feeds h, ho]

theorem runTrigger_trap (h : Feeds s d m v k) {x : Trap} (ho : op (issued s d m v) (fed s k) = .error (.trap x)) :
    runTrigger op d m s = .next (takeTrap s s.cur x) := by rw [runTrigger_feeds h, ho]; rfl

theorem runTrigger_wait (h : Feeds s d m v k) {p : Park} (ho : op (issued s d m v) (fed s k) = .error (.wait p)) :
    runTrigger op d m s = .next (parked s s.cur p) := by rw [runTrigger_feeds h, ho]; rfl

/-- Everything that runTrigger can answer: a dead move, a source or a check that stops, or its operation's answer. -/
theorem runTrigger_cases (op : OpIn → State → Res State) (d : BitVec 12) (m : MoveF) (s : State) :
    (guardTrue (coreOf s s.cur) m = false ∧ runTrigger op d m s = .next s) ∨
    (∃ e, (readSource s s.cur [] 0 d m = .error e ∨ consumeCheck s s.cur m = .error e) ∧ runTrigger op d m s = stopped s s.cur e) ∨
    (∃ v k, Feeds s d m v k ∧
      ((∃ e, op (issued s d m v) (fed s k) = .error e ∧ runTrigger op d m s = stopped s s.cur e) ∨
       (∃ u, op (issued s d m v) (fed s k) = .ok u ∧ runTrigger op d m s = .next (spent s.cur m u)))) := by
  cases hg : guardTrue (coreOf s s.cur) m with
  | false => exact .inl ⟨rfl, runTrigger_dead hg⟩
  | true =>
    right
    cases hr : readSource s s.cur [] 0 d m with
    | error e => exact .inl ⟨e, .inl rfl, by simp [runTrigger, hg, hr]⟩
    | ok p =>
      obtain ⟨v, k⟩ := p
      cases hc : consumeCheck s s.cur m with
      | error e => exact .inl ⟨e, .inr rfl, by simp [runTrigger, hg, hr, hc]⟩
      | ok x =>
        have hf : Feeds s d m v k := ⟨hg, hr, hc⟩
        refine .inr ⟨v, k, hf, ?_⟩
        cases ho : op (issued s d m v) (fed s k) with
        | error e => exact .inl ⟨e, rfl, by rw [runTrigger_feeds hf, ho]⟩
        | ok u => exact .inr ⟨u, rfl, runTrigger_ok hf ho⟩

/-- No trigger move by itself is refused. -/
theorem runTrigger_not_refused (op : OpIn → State → Res State) (d : BitVec 12) (m : MoveF) (s : State) (r : Refusal) :
    runTrigger op d m s ≠ .refused r := by
  have hs : ∀ e, stopped s s.cur e ≠ .refused r := by intro e; cases e <;> simp
  rcases runTrigger_cases op d m s with ⟨-, h⟩ | ⟨e, -, h⟩ | ⟨v, k, -, ⟨e, -, h⟩ | ⟨u, -, h⟩⟩ <;> rw [h]
  · simp
  · exact hs e
  · exact hs e
  · simp

/-- R164. A raw move whose guard is false does nothing. -/
theorem execMove_dead (h : guardTrue (coreOf s s.cur) m = false) : execMove d m s = .next s := by simp [execMove, h]

/-- A live raw move's answer is its effect's. -/
theorem execMove_feeds (h : Feeds s d m v k) : execMove d m s =
    match moveEffect (fed s k) s.cur 0 d m.src (coreOf s s.cur) v with
    | .error e => stopped s s.cur e
    | .ok u => .next (moved s.cur m u) := by
  obtain ⟨hg, hr, hc⟩ := h
  simp only [execMove, hg, hr, hc, fed, moved, spent, Bool.not_true, Bool.false_eq_true, if_false]
  cases moveEffect _ _ _ _ _ _ _ with
  | error e => rfl
  | ok u => cases consumes m <;> rfl

/-! ## The state in which an operation issues -/

@[simp] theorem fed_cur (s : State) (k : Core) : (fed s k).cur = s.cur := rfl

@[simp] theorem fed_mem (s : State) (k : Core) : (fed s k).mem = s.mem := rfl

@[simp] theorem coreOf_fed (s : State) (k : Core) : coreOf (fed s k) s.cur = k := coreOf_setCore_same s s.cur k

@[simp] theorem issued_c (s : State) (d : BitVec 12) (m : MoveF) (v : PVal) : (issued s d m v).c = s.cur := rfl

@[simp] theorem issued_val (s : State) (d : BitVec 12) (m : MoveF) (v : PVal) : (issued s d m v).val = v := rfl

@[simp] theorem issued_port (s : State) (d : BitVec 12) (m : MoveF) (v : PVal) : (issued s d m v).port = d := rfl

/-- A move that consumes no forward register leaves its operation's state. -/
theorem spent_none (c : Nat) (t : State) (h : consumes m = none) : spent c m t = t := by simp [spent, h]

/-- A consumed forward register is EMPTY; nothing else changes but its core's full and empty bits. -/
theorem spent_cores (c : Nat) (m : MoveF) (t : State) : spent c m t = { t with cores := (spent c m t).cores } := by
  unfold spent; cases consumes m <;> rfl

@[simp] theorem spent_mem (c : Nat) (m : MoveF) (t : State) : (spent c m t).mem = t.mem := by rw [spent_cores]

/-! ## Reading a source (R167, R168) -/

/-- A source register that is FULL or hard-wired is read without a change, where no fixed distance is due. -/
theorem readReg_full (k : Core) (key idx : Nat) (sel : BitVec 12) (he : isEmpty k key = false)
    (hp : ∀ p ∈ k.pends, p.reg ≠ key) (wait : Bool) : readReg k key wait idx sel = .ok (valueAt k key, k) := by
  have hn : (k.pends.find? fun p => decide (p.reg = key)) = none := by
    rw [List.find?_eq_none]; intro p hm; simpa using hp p hm
  unfold readReg
  split
  · rfl
  · cases wait <;> simp [he, hn]

end Sys2Proof.Machine
end

