-- ==== Sys2Proof/Laws/Results.lean ====
section
/-! SUPPORT. Results of operations, flags, and the taking of a trap by a core that has a handler: what each shared operation does to
the core and that it does nothing else. -/
namespace Sys2Proof.Machine

/-! ## Results (R158, R160) -/

@[simp] theorem coreOf_scalarResult (s : State) (o : OpIn) (w : Word) (dist : Nat) :
    coreOf (scalarResult s o w dist) o.c = issueResult (coreOf s o.c) (resultKey o.page) (.sc w) dist true o.page := coreOf_modCore_same s o.c _

theorem scalarResult_only (s : State) (o : OpIn) (w : Word) (dist : Nat) : OnlyCore o.c s (scalarResult s o w dist) :=
  ⟨rfl, fun _ h => coreOf_modCore_other s _ (Ne.symm h)⟩

theorem modCore_only (s : State) (c : Nat) (f : Core → Core) : OnlyCore c s (modCore s c f) :=
  ⟨rfl, fun _ h => coreOf_modCore_other s f (Ne.symm h)⟩

theorem OnlyCore.refl (c : Nat) (s : State) : OnlyCore c s s := ⟨rfl, fun _ _ => rfl⟩

theorem OnlyCore.trans {c : Nat} {s t u : State} (h : OnlyCore c s t) (h' : OnlyCore c t u) : OnlyCore c s u := by
  refine ⟨?_, fun c' hc => (h'.2 c' hc).trans (h.2 c' hc)⟩
  have h1 := h'.1; rw [h.1] at h1; exact h1

/-- A vector result goes where DV names a register below VREG. -/
theorem vectorResult_ok (s : State) (o : OpIn) (n : Nat) (v : Vec) (dist : Nat) (fixed : Bool) (h : DvInRange s o n) :
    vectorResult s o n v dist fixed = .ok (landed s o n v dist fixed) := by
  unfold DvInRange at h
  have h' : ¬(coreLaunch s o.c).vreg ≤ (Map.get (coreOf s o.c).dv ((dvKey o.page).getD 0) 0#6).toNat + n := by omega
  simp only [vectorResult, dvNumber, ge_iff_le, h', if_false, landed, modCore, dvReg]

/-- Above VREG it takes ILLEGAL_DEST with the trigger port. -/
theorem vectorResult_above (s : State) (o : OpIn) (n : Nat) (v : Vec) (dist : Nat) (fixed : Bool) (h : ¬DvInRange s o n) :
    vectorResult s o n v dist fixed = .error (.trap { code := 0x0005#16, info := moveInfo o.idx o.port }) := by
  unfold DvInRange at h
  have h' : (coreLaunch s o.c).vreg ≤ (Map.get (coreOf s o.c).dv ((dvKey o.page).getD 0) 0#6).toNat + n := by omega
  simp only [vectorResult, dvNumber, ge_iff_le, h', if_true, raiseMove, raise, tcIllegalDest]

/-! ## Flags (R162, R326) -/

theorem valueAt_noteFlags (k : Core) (f : Flags) (key : Nat) : valueAt (noteFlags k f) key = valueAt k key := by
  unfold noteFlags; split <;> rfl

theorem empty_noteFlags (k : Core) (f : Flags) : (noteFlags k f).empty = k.empty := by unfold noteFlags; split <;> rfl

/-! ## Taking a trap (R190) -/

/-- A running program without an open handler starts its launch's handler: code, k.trapi and place saved, HM set, its region frozen. -/
theorem enterHandler_handled (s : State) (c : Nat) (code : BitVec 16) (info : Word) (at_ : Nat)
    (hm : (coreOf s c).hm = false) (ht : (coreLaunch s c).traph ≠ 0) :
    let k := coreOf (enterHandler s c code info at_) c
    k.trapc = code.zeroExtend 64 ∧ k.trapi = info ∧ k.epc = BitVec.ofNat 64 at_ ∧ k.hm = true ∧ k.mode = .running ∧
      k.pc = (coreLaunch s c).traph ∧ k.frozen = (coreOf s c).region.isSome := by
  have e : enterHandler s c code info at_ =
      modCore (modWp s (coreOf s c).wp fun w => { w with state := .faulted, resume := at_ }) c fun k =>
        { k with trapc := code.zeroExtend 64, trapi := info, epc := BitVec.ofNat 64 at_, hm := true, mode := .running,
                 frozen := k.region.isSome, pc := (coreLaunch s c).traph, rep := 0, seqStep := 0, waitUntil := none, held := [],
                 sent := [], sentAside := k.sent, aside := k.pends.filter fun p => p.fixed && p.left ≠ 0, remote := [],
                 visit := k.visit + 1, stalls := [], ahead := 0, heads := [], latch := [] } := by
    simp only [enterHandler, hm, ht, decide_false, Bool.or_false, Bool.false_eq_true, if_false]
  rw [e]
  simp only [coreOf_modCore_same, true_and]
  rfl

/-- The return by the resume form leaves handler mode at k.epc, repetition k.rpi and step k.mxs. -/
theorem coreOf_resumeFromHandler (s : State) (c : Nat) :
    let k := coreOf s c
    let k' := coreOf (resumeFromHandler s c) c
    k'.hm = false ∧ k'.pc = k.epc.toNat ∧ k'.rep = k.rpi.toNat ∧ k'.seqStep = k.mxs.toNat ∧ k'.frozen = false ∧ k'.sc = k.sc ∧
      k'.ve = k.ve ∧ k'.ma = k.ma ∧ k'.pr = k.pr := by
  intro k k'
  have e : k' = coreOf (resumeFromHandler s c) c := rfl
  have e1 : coreOf (modCore s c retireAll) c = retireAll k := coreOf_modCore_same s c _
  have e2 (r : Nat) : coreOf (pickUpAgain (modCore s c retireAll) c r) c = coreOf (modCore s c retireAll) c := rfl
  simp only [resumeFromHandler, coreOf_modCore_same, e2, e1] at e
  obtain ⟨em, p, fl, w, h⟩ := sameButRetired_all k
  rw [h] at e
  rw [e]
  exact ⟨rfl, rfl, rfl, rfl, rfl, rfl, rfl, rfl, rfl⟩

/-! ## Line states (R202) -/

theorem lineState_setLine_same (k : Core) (h : Handle) (l : Nat) (st : LineState) : lineState (setLine k h l st) h l = st := by
  unfold lineState setLine
  have hb (k : Core) (lv : Level) (m : Map LineState) (o : Nat) (h : Handle) : handleByte (setLineStates k lv m) h o = handleByte k h o := by
    cases lv <;> rfl
  have hl (k : Core) (lv : Level) (m : Map LineState) : lineStates (setLineStates k lv m) lv = m := by cases lv <;> rfl
  simp only [hb, hl]
  by_cases hf : st = .full
  · subst hf; simp [Map.get_erase]
  · simp [hf]

end Sys2Proof.Machine
end

