-- ==== Sys2Proof/Tests/Slice0.lean ====
section
/-! SUPPORT. Tests: the decoding of words written out from the encodings of R266 to R276, well-formedness, a step of every kind of
instruction with its result taken from the rules, and for every statement with hypotheses a state and operands that meet them. -/
namespace Sys2Proof.Tests
set_option Elab.async false
open Sys2Proof Sys2Proof.Machine

/-! ## Helpers -/

/-- An immediate source, unguarded. -/
def imm (x : BitVec 12) : MoveF := ⟨0#4, false, false, true, x⟩
/-- A register source, unguarded. -/
def reg (x : BitVec 12) : MoveF := ⟨0#4, false, false, false, x⟩
/-- A value at an operand port. -/
def at_ (w : Word) : Latched := ⟨.sc w, 0, 0x000#12⟩
/-- The package with waypoint 1 of launch 1 running on core 0 at a bundle of one ADD, its page tables in memory, every register FULL, and
the core's other fields k's. -/
def seat (k : Core) : State :=
  { placeInstruction State.reset 0x00220005 with
    agenda := [], cores := [(0, { k with mode := .running, wp := ⟨1, 1⟩, pc := placedCode, empty := 0#320 })] }
/-- That core. -/
def sitter (k : Core) : Core := coreOf (seat k) 0
/-- A result compared with a value. -/
def okB {α : Type} [DecidableEq α] (r : Res α) (x : α) : Bool :=
  match r with
  | .ok y => decide (y = x)
  | .error _ => false
theorem ok_of {α : Type} [DecidableEq α] {r : Res α} {x : α} (h : okB r x = true) : r = .ok x := by
  cases r with
  | ok y => simp [okB] at h; rw [h]
  | error e => simp [okB] at h
theorem fed_of {s : State} {d : BitVec 12} {m : MoveF} {v : PVal} {k : Core}
    (h : (guardTrue (coreOf s s.cur) m && okB (readSource s s.cur [] 0 d m) (v, k) && okB (consumeCheck s s.cur m) ()) = true) :
    Feeds s d m v k := by
  simp only [Bool.and_eq_true] at h
  exact ⟨h.1.1, ok_of h.1.2, ok_of h.2⟩

/-- A result that goes through. -/
def isOk {α : Type} (r : Res α) : Bool :=
  match r with
  | .ok _ => true
  | .error _ => false
theorem some_of {α : Type} {r : Res α} (h : isOk r = true) : ∃ x, r = .ok x := by
  cases r with
  | ok y => exact ⟨y, rfl⟩
  | error e => simp [isOk] at h
theorem then_of {α β : Type} {r : Res α} {f : α → Res β} (h : isOk (r.bind f) = true) : ∃ x, r = .ok x ∧ ∃ y, f x = .ok y := by
  cases r with
  | ok x => exact ⟨x, rfl, some_of h⟩
  | error e => simp [Except.bind, isOk] at h
/-- An operation that goes through. -/
theorem passes_of {i : Instr} {d : BitVec 12} {m : MoveF} {s : State} (v : PVal) (k : Core) (f : OpIn → State → Res State)
    (hf : Feeds s d m v k) (hi : issueOf i = some f) (h : isOk (f (issued s d m v) (fed s k)) = true) : ∃ t, Passes i d m s t := by
  obtain ⟨u, hu⟩ := some_of h
  exact ⟨_, v, k, f, u, hf, hi, hu, rfl⟩

/-- A move feeds its port on that core. -/
abbrev Fed (k : Core) (d : BitVec 12) (m : MoveF) (v : PVal) : Prop := Feeds (seat k) d m v (sitter k)
/-- The state in which its operation issues. -/
abbrev mid (k : Core) : State := fed (seat k) (sitter k)
/-- The operation. -/
abbrev go (k : Core) (d : BitVec 12) (m : MoveF) (v : PVal) : OpIn := issued (seat k) d m v
/-- Vector register 3 as a source. -/
abbrev v3 : MoveF := reg 0x43#12
/-- Scalar register 3 as a source. -/
abbrev s3 : MoveF := reg 0x003#12

/-! ## S0 and S1 -/

/-- o0 of S0 holds 7, o1 9, o2 3; its type register holds F32; s3 is zero at 32 bits alone. -/
def scalars : Core :=
  { latch := [(0x100, at_ 7#64), (0x101, at_ 9#64), (0x102, at_ 3#64)], ty := [(0, 0#4)], sc := [(3, 0x100000000#64)] }
/-- The same with a type code that R295 does not list. -/
def scalarsI8 : Core := { scalars with ty := [(0, 7#4)] }
/-- s3's value. -/
def w32 : Word := 0x100000000#64

/-- INS at 64 and at 32 bits, which reads every operand port. -/
theorem witness_ScalarArithmetic :
    (let d := sPort .s0 0x32#12
     let o := go scalars d (imm 5#12) (.im 5#64 64)
     Fed scalars d (imm 5#12) (.im 5#64 64) ∧ scOp (mid scalars) o 0 = .ok 7#64 ∧ scOp (mid scalars) o 1 = .ok 9#64 ∧
       scOp (mid scalars) o 2 = .ok 3#64 ∧ scVal o = .ok 5#64) ∧
    (let d := sPort .s0 0x72#12
     let o := go scalars d (imm 0xFFF#12) (.im (-1) 64)
     Fed scalars d (imm 0xFFF#12) (.im (-1) 64) ∧ scOp (mid scalars) o 0 = .ok 7#64 ∧ scOp (mid scalars) o 1 = .ok 9#64 ∧
       scOp (mid scalars) o 2 = .ok 3#64 ∧ scVal o = .ok (-1)) := by
  refine ⟨⟨fed_of ?_, ok_of ?_, ok_of ?_, ok_of ?_, ok_of ?_⟩, fed_of ?_, ok_of ?_, ok_of ?_, ok_of ?_, ok_of ?_⟩ <;> decide +kernel

/-- A divisor that is zero at 32 bits and not at 64. -/
theorem witness_ScalarDivision :
    let d := sPort .s0 0x55#12
    let o := go scalars d s3 (.sc w32)
    Fed scalars d s3 (.sc w32) ∧ scOp (mid scalars) o 0 = .ok 7#64 ∧ scVal o = .ok w32 := by
  refine ⟨fed_of ?_, ok_of ?_, ok_of ?_⟩ <;> decide +kernel

theorem witness_ScalarFloat :
    (let d := sPort .s0 0x3C#12
     let o := go scalars d s3 (.sc w32)
     Fed scalars d s3 (.sc w32) ∧ scOp (mid scalars) o 0 = .ok 7#64 ∧ scOp (mid scalars) o 1 = .ok 9#64 ∧
       scVal o = .ok w32 ∧ typeReg (sitter scalars) (o.page - 1) = 0) ∧
    (let d := sPort .s0 0x3E#12
     Fed scalarsI8 d s3 (.sc w32) ∧ typeReg (sitter scalarsI8) ((go scalarsI8 d s3 (.sc w32)).page - 1) = 7) := by
  refine ⟨⟨fed_of ?_, ok_of ?_, ok_of ?_, ok_of ?_, ?_⟩, fed_of ?_, ?_⟩ <;> decide +kernel

/-- FCMP, whose NaN rules differ by the codes at its ports alone; FCVT to a listed, from an unlisted and to an unlisted type. -/
theorem witness_ScalarCompareConvert :
    (let o := go scalars (sPort .s0 0x41#12) s3 (.sc w32)
     Fed scalars (sPort .s0 0x41#12) s3 (.sc w32) ∧ scOp (mid scalars) o 0 = .ok 7#64 ∧ scOp (mid scalars) o 2 = .ok 3#64 ∧
       scVal o = .ok w32) ∧
    (let o := go scalars (sPort .s0 0x42#12) s3 (.sc w32)
     Fed scalars (sPort .s0 0x42#12) s3 (.sc w32) ∧ scOp (mid scalars) o 1 = .ok 9#64 ∧ typeReg (sitter scalars) (o.page - 1) = 0) ∧
    (Fed scalarsI8 (sPort .s0 0x42#12) s3 (.sc w32) ∧ typeReg (sitter scalarsI8) 0 = 7) ∧
    (let k : Core := { scalars with latch := [(0x101, at_ 7#64)] }
     Fed k (sPort .s0 0x42#12) s3 (.sc w32) ∧ scOp (mid k) (go k (sPort .s0 0x42#12) s3 (.sc w32)) 1 = .ok 7#64) := by
  refine ⟨⟨fed_of ?_, ok_of ?_, ok_of ?_, ok_of ?_⟩, ⟨fed_of ?_, ok_of ?_, ?_⟩, ⟨fed_of ?_, ?_⟩, fed_of ?_, ok_of ?_⟩ <;> decide +kernel

/-- Operands of SPTEST, SPCAST and REFMK: references of each kind and words that are none; space, core and index in and out of range. -/
theorem witness_ScalarReferences :
    (let k : Core := { sc := [(3, 0x1000000000000000#64)] }; Fed k (sPort .s0 0x43#12) s3 (.sc 0x1000000000000000#64)) ∧
    (let k : Core := { sc := [(3, 2#64)], latch := [(0x100, at_ 0x1040000000000000#64)] }
     let o := go k (sPort .s0 0x44#12) s3 (.sc 2#64)
     Fed k (sPort .s0 0x44#12) s3 (.sc 2#64) ∧ scOp (mid k) o 0 = .ok 0x1040000000000000#64 ∧ scVal o = .ok 2#64) ∧
    [0x1000000000000000#64, 0x1040000000000000#64, 0x2000000000000000#64, 0x2040000000000000#64, 0x3000000000000000#64].all
      wellFormedRef = true ∧
    ([0x1000000001000000#64, 0x5000000000000000#64, 0x3000010000000000#64].all fun r => !wellFormedRef r) = true ∧
    (let k : Core := { sc := [(3, 0xFFFFFF#64)], latch := [(0x100, at_ 47#64), (0x101, at_ 255#64), (0x102, at_ 4#64)] }
     let o := go k (sPort .s0 0x45#12) s3 (.sc 0xFFFFFF#64)
     Fed k (sPort .s0 0x45#12) s3 (.sc 0xFFFFFF#64) ∧ scOp (mid k) o 0 = .ok 47#64 ∧ scOp (mid k) o 1 = .ok 255#64 ∧
       scOp (mid k) o 2 = .ok 4#64 ∧ scVal o = .ok 0xFFFFFF#64) := by
  refine ⟨fed_of ?_, ⟨fed_of ?_, ok_of ?_, ok_of ?_⟩, ?_, ?_, fed_of ?_, ok_of ?_, ok_of ?_, ok_of ?_, ok_of ?_⟩ <;> decide +kernel

/-! ## V0, V1 and X -/

/-- A core whose V0 works in a type, with operands at ports o0, o1, o2 and v3, m1, s3 as sources. -/
def lanesIn (t : BitVec 4) (o0 o1 : PVal) (o2 : Word) : Core :=
  { latch := [(0x300, ⟨o0, 0, 0#12⟩), (0x301, ⟨o1, 0, 0#12⟩), (0x302, at_ o2)], ty := [(2, t)], dv := [(2, 62#6)],
    ve := [(0x43, 5#4096), (0x7E, 7#4096)], ma := [(0x99, 9#1024)], sc := [(3, 11#64)] }
/-- Two vectors at o0 and o1. -/
def ve2 (t : BitVec 4) (o2 : Word) : Core := lanesIn t (.ve 1#4096) (.ve 2#4096) o2

/-- FMA in F32, SUB in I8 with saturation, AND with a type outside its set; DV names the last register but one. -/
theorem witness_VectorLanes :
    (let d := vPort .v0 0x13#12
     let o := go (ve2 0#4 0#64) d v3 (.ve 5#4096)
     Fed (ve2 0#4 0#64) d v3 (.ve 5#4096) ∧ veOp (mid (ve2 0#4 0#64)) o 0 = .ok 1#4096 ∧ veOp (mid (ve2 0#4 0#64)) o 1 = .ok 2#4096 ∧
       veVal o = .ok 5#4096 ∧ inIntFlt (typeReg (sitter (ve2 0#4 0#64)) (o.page - 1)) = true ∧ DvInRange (mid (ve2 0#4 0#64)) o 0) ∧
    (let k := ve2 12#4 1#64
     let o := go k (vPort .v0 0x11#12) v3 (.ve 5#4096)
     Fed k (vPort .v0 0x11#12) v3 (.ve 5#4096) ∧ scOp (mid k) o 2 = .ok 1#64 ∧ inIntFlt (typeReg (sitter k) (o.page - 1)) = true) ∧
    (let k := ve2 7#4 1#64
     Fed k (vPort .v0 0x19#12) v3 (.ve 5#4096) ∧
       inBit (typeReg (sitter k) ((go k (vPort .v0 0x19#12) v3 (.ve 5#4096)).page - 1)) = false) := by
  refine ⟨⟨fed_of ?_, ok_of ?_, ok_of ?_, ok_of ?_, ?_, ?_⟩, ⟨fed_of ?_, ok_of ?_, ?_⟩, fed_of ?_, ?_⟩ <;> (try unfold DvInRange) <;>
    decide +kernel

/-- CMP in an integer and in a floating type; MSKP with two masks. -/
theorem witness_VectorMasks :
    (let k := ve2 8#4 2#64
     let o := go k (vPort .v0 0x21#12) v3 (.ve 5#4096)
     Fed k (vPort .v0 0x21#12) v3 (.ve 5#4096) ∧ veOp (mid k) o 0 = .ok 1#4096 ∧ scOp (mid k) o 2 = .ok 2#64 ∧ veVal o = .ok 5#4096 ∧
       inInt (typeReg (sitter k) (o.page - 1)) = true) ∧
    (let k := ve2 2#4 7#64
     let o := go k (vPort .v0 0x21#12) v3 (.ve 5#4096)
     Fed k (vPort .v0 0x21#12) v3 (.ve 5#4096) ∧ scOp (mid k) o 2 = .ok 7#64 ∧ inFlt (typeReg (sitter k) (o.page - 1)) = true) ∧
    (let k := lanesIn 0#4 (.ma 3#1024) (.ma 0#1024) 6#64
     let o := go k (vPort .v0 0x28#12) (reg 0x99#12) (.ma 9#1024)
     Fed k (vPort .v0 0x28#12) (reg 0x99#12) (.ma 9#1024) ∧ inBit (typeReg (sitter k) (o.page - 1)) = true ∧ scOp (mid k) o 2 = .ok 6#64 ∧
       maOp (mid k) o 0 = .ok 3#1024 ∧ maVal o = .ok 9#1024) := by
  refine ⟨⟨fed_of ?_, ok_of ?_, ok_of ?_, ok_of ?_, ?_⟩, ⟨fed_of ?_, ok_of ?_, ?_⟩, fed_of ?_, ?_, ok_of ?_, ok_of ?_, ok_of ?_⟩ <;>
    decide +kernel

/-- SEL, BCAST of a scalar and of a lane, PERM, ROT and IOTA. -/
theorem witness_VectorMoves :
    (let k := ve2 0#4 0#64
     let o := go k (vPort .v0 0x22#12) (reg 0x99#12) (.ma 9#1024)
     Fed k (vPort .v0 0x22#12) (reg 0x99#12) (.ma 9#1024) ∧ DvInRange (mid k) o 0 ∧ inBit (typeReg (sitter k) (o.page - 1)) = true ∧
       veOp (mid k) o 0 = .ok 1#4096 ∧ veOp (mid k) o 1 = .ok 2#4096 ∧ maVal o = .ok 9#1024) ∧
    (let k := ve2 0#4 0#64
     let o := go k (vPort .v0 0x2D#12) s3 (.sc 11#64)
     Fed k (vPort .v0 0x2D#12) s3 (.sc 11#64) ∧ scOp (mid k) o 2 = .ok 0#64 ∧ scVal o = .ok 11#64) ∧
    (let k := ve2 0#4 1#64
     let o := go k (vPort .v0 0x2D#12) s3 (.sc 11#64)
     Fed k (vPort .v0 0x2D#12) s3 (.sc 11#64) ∧ scOp (mid k) o 2 = .ok 1#64 ∧ veOp (mid k) o 0 = .ok 1#4096) ∧
    (let k := ve2 12#4 0#64
     Fed k (vPort .v0 0x2E#12) v3 (.ve 5#4096) ∧ veOp (mid k) (go k (vPort .v0 0x2E#12) v3 (.ve 5#4096)) 0 = .ok 1#4096) ∧
    (let k := ve2 12#4 0#64
     Fed k (vPort .v0 0x2F#12) s3 (.sc 11#64) ∧ veOp (mid k) (go k (vPort .v0 0x2F#12) s3 (.sc 11#64)) 0 = .ok 1#4096) ∧
    (let k := ve2 12#4 0#64
     Fed k (vPort .v0 0x30#12) s3 (.sc 11#64) ∧ inInt (typeReg (sitter k) 2) = true) := by
  refine ⟨⟨fed_of ?_, ?_, ?_, ok_of ?_, ok_of ?_, ok_of ?_⟩, ⟨fed_of ?_, ok_of ?_, ok_of ?_⟩, ⟨fed_of ?_, ok_of ?_, ok_of ?_⟩,
    ⟨fed_of ?_, ok_of ?_⟩, ⟨fed_of ?_, ok_of ?_⟩, fed_of ?_, ?_⟩ <;> (try unfold DvInRange) <;> decide +kernel

/-- CVT to a type as wide, a narrower and a wider one; QNT; DEQ; FXA .set, .add and .out. -/
theorem witness_VectorConversions :
    (let k := ve2 0#4 0x09#64
     let o := go k (vPort .v0 0x29#12) v3 (.ve 5#4096)
     Fed k (vPort .v0 0x29#12) v3 (.ve 5#4096) ∧ scOp (mid k) o 2 = .ok 0x09#64 ∧ typeBits 9 = typeBits 0 ∧ DvInRange (mid k) o 0) ∧
    (let k := ve2 0#4 0x11#64
     let o := go k (vPort .v0 0x29#12) v3 (.ve 5#4096)
     Fed k (vPort .v0 0x29#12) v3 (.ve 5#4096) ∧ scOp (mid k) o 2 = .ok 0x11#64 ∧ typeBits 1 < typeBits 0 ∧
       readDv (mid k) o 0 = .ok (7#4096, mid k)) ∧
    (let k := ve2 1#4 0x00#64
     let o := go k (vPort .v0 0x29#12) v3 (.ve 5#4096)
     Fed k (vPort .v0 0x29#12) v3 (.ve 5#4096) ∧ scOp (mid k) o 2 = .ok 0#64 ∧ DvInRange (mid k) o 1) ∧
    (let k := ve2 0#4 0x03#64
     let o := go k (vPort .v0 0x2A#12) s3 (.sc 11#64)
     Fed k (vPort .v0 0x2A#12) s3 (.sc 11#64) ∧ scOp (mid k) o 2 = .ok 3#64 ∧ veOp (mid k) o 0 = .ok 1#4096 ∧ inFlt 0 = true ∧
       quantType 3 = true ∧ okB ((readDv (scalarResult (mid k) o 0#64 4) o 0).map (·.1)) 7#4096 = true) ∧
    (let k := { ve2 3#4 0x00#64 with dv := [(2, 60#6)] }
     let o := go k (vPort .v0 0x2B#12) s3 (.sc 11#64)
     Fed k (vPort .v0 0x2B#12) s3 (.sc 11#64) ∧ veOp (mid k) o 1 = .ok 2#4096 ∧ scOp (mid k) o 2 = .ok 0#64 ∧ DvInRange (mid k) o 3) ∧
    (let k := ve2 0#4 0x01#64
     let o := go k (vPort .v0 0x2C#12) s3 (.sc 11#64)
     Fed k (vPort .v0 0x2C#12) s3 (.sc 11#64) ∧ scOp (mid k) o 2 = .ok 1#64 ∧ DvInRange (mid k) o 1) ∧
    (let k := ve2 0#4 0x02#64
     let o := go k (vPort .v0 0x2C#12) s3 (.sc 11#64)
     Fed k (vPort .v0 0x2C#12) s3 (.sc 11#64) ∧ scOp (mid k) o 2 = .ok 2#64 ∧ readGroup o 2 (mid k) 0 = .ok ([7#4096, 0#4096], mid k)) ∧
    (let k := ve2 0#4 0x03#64
     let o := go k (vPort .v0 0x2C#12) s3 (.sc 11#64)
     Fed k (vPort .v0 0x2C#12) s3 (.sc 11#64) ∧ scOp (mid k) o 2 = .ok 3#64 ∧ readGroup o 2 (mid k) 0 = .ok ([7#4096, 0#4096], mid k)) := by
  refine ⟨⟨fed_of ?_, ok_of ?_, ?_, ?_⟩, ⟨fed_of ?_, ok_of ?_, ?_, ok_of ?_⟩, ⟨fed_of ?_, ok_of ?_, ?_⟩,
    ⟨fed_of ?_, ok_of ?_, ok_of ?_, ?_, ?_, ?_⟩, ⟨fed_of ?_, ok_of ?_, ok_of ?_, ?_⟩, ⟨fed_of ?_, ok_of ?_, ?_⟩,
    ⟨fed_of ?_, ok_of ?_, ok_of ?_⟩, fed_of ?_, ok_of ?_, ok_of ?_⟩ <;> (try unfold DvInRange) <;> decide +kernel

/-- RED and SCAN of integers and of floating values, SCANL, and SCANF from +0.0 without a successor and from f2. -/
theorem witness_VectorReductions :
    (let k := ve2 9#4 1#64
     let o := go k (vPort .v0 0x32#12) v3 (.ve 5#4096)
     Fed k (vPort .v0 0x31#12) v3 (.ve 5#4096) ∧ Fed k (vPort .v0 0x32#12) v3 (.ve 5#4096) ∧ scOp (mid k) o 2 = .ok 1#64 ∧
       inInt (typeReg (sitter k) 2) = true ∧ inWideInt (typeReg (sitter k) 2) = true ∧ DvInRange (mid k) o 0) ∧
    (let k := ve2 0#4 3#64
     let o := go k (vPort .v0 0x32#12) v3 (.ve 5#4096)
     Fed k (vPort .v0 0x31#12) v3 (.ve 5#4096) ∧ Fed k (vPort .v0 0x32#12) v3 (.ve 5#4096) ∧ scOp (mid k) o 2 = .ok 3#64 ∧
       inFlt (typeReg (sitter k) 2) = true ∧ DvInRange (mid k) o 0) ∧
    (let k := { ve2 4#4 0#64 with dv := [(2, 60#6)] }
     let o := go k (vPort .v0 0x33#12) s3 (.sc 11#64)
     Fed k (vPort .v0 0x33#12) s3 (.sc 11#64) ∧ veOp (mid k) o 0 = .ok 1#4096 ∧ veOp (mid k) o 1 = .ok 2#4096 ∧ DvInRange (mid k) o 3) ∧
    (let k := ve2 0#4 0x30#64
     let o := go k (vPort .v0 0x34#12) v3 (.ve 5#4096)
     Fed k (vPort .v0 0x34#12) v3 (.ve 5#4096) ∧ veOp (mid k) o 0 = .ok 1#4096 ∧ scOp (mid k) o 2 = .ok 0x30#64 ∧
       scanfCarry (mid k) o 0x30#64 = .ok (0, mid k) ∧ (0x30#64).getLsbD 5 = true) ∧
    (let k := { ve2 0#4 0x22#64 with ve := [(0x43, 5#4096), (0x92, 0x3F800000#4096)] }
     let o := go k (vPort .v0 0x34#12) v3 (.ve 5#4096)
     Fed k (vPort .v0 0x34#12) v3 (.ve 5#4096) ∧ okB ((scanfCarry (mid k) o 0x22#64).map (·.1)) 0x3F800000 = true) := by
  refine ⟨⟨fed_of ?_, fed_of ?_, ok_of ?_, ?_, ?_, ?_⟩, ⟨fed_of ?_, fed_of ?_, ok_of ?_, ?_, ?_⟩, ⟨fed_of ?_, ok_of ?_, ok_of ?_, ?_⟩,
    ⟨fed_of ?_, ok_of ?_, ok_of ?_, ok_of ?_, ?_⟩, fed_of ?_, ?_⟩ <;> (try unfold DvInRange) <;> decide +kernel

/-- A core whose X is told type t. -/
def xIn (t : Word) : Core := { latch := [(0x501, at_ t)], dv := [(4, 63#6)], ve := [(0x43, 5#4096)] }

/-- The first and the last function on F32 and F16, and one on a type that R341 does not list. -/
theorem witness_SpecialFunctions :
    (Fed (xIn 0#64) 0x510#12 v3 (.ve 5#4096) ∧ scOp (mid (xIn 0#64)) (go (xIn 0#64) 0x510#12 v3 (.ve 5#4096)) 1 = .ok 0#64 ∧
      DvInRange (mid (xIn 0#64)) (go (xIn 0#64) 0x510#12 v3 (.ve 5#4096)) 0) ∧
    (Fed (xIn 2#64) 0x51C#12 v3 (.ve 5#4096) ∧ scOp (mid (xIn 2#64)) (go (xIn 2#64) 0x51C#12 v3 (.ve 5#4096)) 1 = .ok 2#64) ∧
    (Fed (xIn 3#64) 0x510#12 v3 (.ve 5#4096) ∧ scOp (mid (xIn 3#64)) (go (xIn 3#64) 0x510#12 v3 (.ve 5#4096)) 1 = .ok 3#64) ∧
    xTable[0]? = some .xExp ∧ xTable[12]? = some .xCos := by
  refine ⟨⟨fed_of ?_, ok_of ?_, ?_⟩, ⟨fed_of ?_, ok_of ?_⟩, ⟨fed_of ?_, ok_of ?_⟩, rfl, rfl⟩ <;> (try unfold DvInRange) <;> decide +kernel

/-- A quiet and a signalling NaN, and a negative finite number of each type. -/
theorem witness_SpecialValues :
    isNaN 0 0x7FC00000 = true ∧ isSNaN 0 0x7FC00000 = false ∧ isSNaN 1 0x7F81 = true ∧ isSNaN 2 0xFC01 = true ∧ 0xFC01 < 2 ^ typeBits 2 ∧
      (2 ^ (typeBits 1 - 1) < 0xBF80 ∧ 0xBF80 < 2 ^ (typeBits 1 - 1) + infCode 1) := by decide +kernel

/-! ## LD and ST -/

/-- A handle of 4,096 bytes in scratchpad bank 7. -/
def bank7 : Handle := { owner := ⟨1, 1⟩, level := .spad, ty := 0#4, rows := 8, cols := 128, banks := [7] }
/-- A core that holds it as handle 5, with line 1 EMPTY and line 2 POISON, a LOCAL reference to byte `off` of it at o0 of LD, ST and
CP, `ctl` at their o12, v3 and s3 as sources. -/
def holder (off ctl : Word) : Core :=
  { handles := [(5, bank7)], spadLines := [(225, .empty), (226, .poison)],
    latch := [(0x600, at_ (0x1001400000000000#64 + off)), (0x60C, at_ ctl), (0x700, at_ (0x1001400000000000#64 + off)),
              (0x701, ⟨.ma 5#1024, 0, 0#12⟩), (0x70C, at_ ctl)],
    dv := [(5, 63#6)], ve := [(0x43, 5#4096)], sc := [(3, 2#64)] }
/-- A LOCAL reference to a byte of handle 5. -/
def ref5 (off : Word) : Word := 0x1001400000000000#64 + off

/-- The bytes of a handle of one bank, in a level whose Chart is as at reset, lie in places of their own. -/
theorem oneBank_sound (k : Core) (h : Handle) (b : Nat) (hb : h.banks = [b]) (hc : chartOf k h.level = {}) (hs : h.size ≤ bankBytes h.level) :
    Sound k h := by
  have hq (x : Nat) (hx : x < bankBytes h.level) : handleByte k h x = b * bankBytes h.level + x := by
    unfold handleByte
    rw [Nat.div_eq_of_lt hx, Nat.mod_eq_of_lt hx, hb, hc]
    rfl
  intro i j hi hj he
  rw [hq i (Nat.lt_of_lt_of_le hi hs), hq j (Nat.lt_of_lt_of_le hj hs)] at he
  exact Nat.add_left_cancel he

theorem bank7_sound (k : Core) (h : k.spadChart = {}) : Sound k bank7 := oneBank_sound k bank7 7 rfl h (by decide +kernel)

theorem bank7_open (off ctl : Word) : OpenHandle (mid (holder off ctl)) 0 0 5 bank7 := ⟨rfl, rfl, rfl⟩

/-- LD.V at byte 1,024, LD.S of the handle's last two bytes, LD.B, LD.I at words 5 and 0, and LD.FE. -/
theorem witness_Loads :
    (let k := holder 1024#64 0#64
     let o := go k 0x610#12 (imm 0#12) (.im 0#64 64)
     Fed k 0x610#12 (imm 0#12) (.im 0#64 64) ∧ scOp (mid k) o 0 = .ok (ref5 1024#64) ∧ scOp (mid k) o 12 = .ok 0#64 ∧ scVal o = .ok 0#64 ∧
       effRef (ref5 1024#64) 0#64 = .ok (ref5 1024#64) ∧ DvInRange (mid k) o 0 ∧
       checkRef (mid k) 0 (ref5 1024#64) 512 128 [1, 2, 3] = .ok (.handle 0 5 1024) ∧
       ∃ bs, loadAt (mid k) 0 (.handle 0 5 1024) 512 (ref5 1024#64) = .ok bs) ∧
    (let k := holder 4092#64 6#64
     let o := go k 0x611#12 s3 (.sc 2#64)
     Fed k 0x611#12 s3 (.sc 2#64) ∧ scOp (mid k) o 0 = .ok (ref5 4092#64) ∧ scOp (mid k) o 12 = .ok 6#64 ∧ scVal o = .ok 2#64 ∧
       effRef (ref5 4092#64) 2#64 = .ok (ref5 4094#64) ∧ checkRef (mid k) 0 (ref5 4094#64) 2 2 [1, 2, 3] = .ok (.handle 0 5 4094) ∧
       loadAt (mid k) 0 (.handle 0 5 4094) 2 (ref5 4094#64) = .ok [0#8, 0#8]) ∧
    (let k := holder 0#64 3#64
     let o := go k 0x612#12 s3 (.sc 2#64)
     Fed k 0x612#12 s3 (.sc 2#64) ∧ DvInRange (mid k) o 0 ∧ checkRef (mid k) 0 (ref5 2#64) 1 1 [1, 2, 3] = .ok (.handle 0 5 2) ∧
       loadAt (mid k) 0 (.handle 0 5 2) 1 (ref5 2#64) = .ok [0#8]) ∧
    (let k := holder 0#64 1#64
     Fed k 0x613#12 v3 (.ve 5#4096) ∧ DvInRange (mid k) (go k 0x613#12 v3 (.ve 5#4096)) 0 ∧
       ∃ ps, elementPlaces (mid k) 0 (ref5 0#64) 4 ((List.range 128).map fun i => (laneAt 32 5#4096 i).toNat) = .ok ps ∧
         ∃ xs, loadElements (mid k) 0 4 ps = .ok xs) ∧
    (let k := holder 130#64 0#64
     let o := go k 0x614#12 (imm 0#12) (.im 0#64 64)
     Fed k 0x614#12 (imm 0#12) (.im 0#64 64) ∧ scOp (mid k) o 0 = .ok (ref5 130#64) ∧ effRef (ref5 130#64) 0#64 = .ok (ref5 130#64) ∧
       checkRef (mid k) 0 (ref5 130#64) 1 1 [1, 2] = .ok (.handle 0 5 130) ∧ OpenHandle (mid k) 0 0 5 bank7) := by
  refine ⟨⟨fed_of ?_, ok_of ?_, ok_of ?_, ok_of ?_, ok_of ?_, ?_, ok_of ?_, some_of ?_⟩,
    ⟨fed_of ?_, ok_of ?_, ok_of ?_, ok_of ?_, ok_of ?_, ok_of ?_, ok_of ?_⟩, ⟨fed_of ?_, ?_, ok_of ?_, ok_of ?_⟩, ⟨fed_of ?_, ?_, then_of ?_⟩,
    fed_of ?_, ok_of ?_, ok_of ?_, ok_of ?_, bank7_open _ _⟩ <;> (try unfold DvInRange) <;> decide +kernel

/-- A FULL line, an EMPTY one and a POISON one of the handle. -/
theorem witness_HandleAccess :
    OpenHandle (mid (holder 0#64 0#64)) 0 0 5 bank7 ∧ Sound (sitter (holder 0#64 0#64)) bank7 ∧ 0 + 4096 ≤ bank7.size ∧
    (∀ l ∈ linesOf 384 512, lineState (sitter (holder 0#64 0#64)) bank7 l = .full) ∧
    (linesOf 0 512).find? (fun l => lineState (sitter (holder 0#64 0#64)) bank7 l ≠ .full) = some 1 ∧
    lineState (sitter (holder 0#64 0#64)) bank7 1 = .empty ∧
    (linesOf 256 512).find? (fun l => lineState (sitter (holder 0#64 0#64)) bank7 l ≠ .full) = some 2 ∧
    lineState (sitter (holder 0#64 0#64)) bank7 2 = .poison := by
  refine ⟨bank7_open _ _, bank7_sound _ rfl, ?_, ?_, ?_, ?_, ?_, ?_⟩ <;> decide +kernel

/-- ST.V, ST.S, ST.I, ST.M; ST.SETE and ST.ZERO of two lines up to the handle's end, of none and of 33. -/
theorem witness_Stores :
    (let k := holder 3584#64 0#64
     let o := go k 0x710#12 v3 (.ve 5#4096)
     Fed k 0x710#12 v3 (.ve 5#4096) ∧ scOp (mid k) o 0 = .ok (ref5 3584#64) ∧ veVal o = .ok 5#4096 ∧
       checkRef (mid k) 0 (ref5 3584#64) 512 128 [1, 2, 3] = .ok (.handle 0 5 3584) ∧
       ∃ t, storeAt (mid k) 0 (.handle 0 5 3584) ((List.range 512).map fun i => laneAt 8 5#4096 i) = .ok t) ∧
    (let k := holder 4095#64 3#64
     let o := go k 0x711#12 s3 (.sc 2#64)
     Fed k 0x711#12 s3 (.sc 2#64) ∧ scOp (mid k) o 12 = .ok 3#64 ∧ scVal o = .ok 2#64 ∧
       checkRef (mid k) 0 (ref5 4095#64) 1 1 [1, 2, 3] = .ok (.handle 0 5 4095) ∧
       ∃ t, storeAt (mid k) 0 (.handle 0 5 4095) ((List.range 1).map fun i => (2#64).extractLsb' (8 * i) 8) = .ok t) ∧
    (let k : Core := { holder 0#64 1#64 with latch := [(0x700, at_ (ref5 0#64)), (0x701, ⟨.ve 3#4096, 0, 0#12⟩), (0x70C, at_ 1#64)] }
     let o := go k 0x712#12 v3 (.ve 5#4096)
     Fed k 0x712#12 v3 (.ve 5#4096) ∧ veOp (mid k) o 1 = .ok 3#4096 ∧ scOp (mid k) o 12 = .ok 1#64 ∧ refTag (ref5 0#64) = 1 ∧
       ∃ ps, elementPlaces (mid k) 0 (ref5 0#64) 4 ((List.range 128).map fun i => (laneAt 32 3#4096 i).toNat) = .ok ps ∧
         ∃ t, storeElements (mid k) 0 4 ((ps.map (·.2)).zip ((List.range 128).map fun i => (laneAt 32 5#4096 i).toNat)) = .ok t) ∧
    (let k := holder 0#64 0#64
     let o := go k 0x713#12 v3 (.ve 5#4096)
     Fed k 0x713#12 v3 (.ve 5#4096) ∧ maOp (mid k) o 1 = .ok 5#1024 ∧
       checkRef (mid k) 0 (ref5 0#64) 0 8 [1, 2, 3] = .ok (.handle 0 5 0) ∧
       ∃ ps, elementPlaces (mid k) 0 (ref5 0#64) 8 ((List.range 64).filter fun i => (5#1024).getLsbD i) = .ok ps ∧
         ∃ t, storeElements (mid k) 0 8 ((ps.map (·.2)).zip [5, 0]) = .ok t) ∧
    (let k := holder 3840#64 0#64
     Fed k 0x714#12 s3 (.sc 2#64) ∧ Fed k 0x715#12 s3 (.sc 2#64) ∧ scOp (mid k) (go k 0x715#12 s3 (.sc 2#64)) 0 = .ok (ref5 3840#64) ∧
       checkRef (mid k) 0 (ref5 3840#64) (128 * 2) 128 [1, 2] = .ok (.handle 0 5 3840) ∧ OpenHandle (mid k) 0 0 5 bank7 ∧
       Sound (sitter k) bank7) ∧
    (let k := holder 0#64 0#64
     Fed k 0x714#12 (imm 0#12) (.im 0#64 64) ∧ Fed k 0x715#12 (imm 33#12) (.im 33#64 64)) := by
  refine ⟨⟨fed_of ?_, ok_of ?_, ok_of ?_, ok_of ?_, some_of ?_⟩, ⟨fed_of ?_, ok_of ?_, ok_of ?_, ok_of ?_, some_of ?_⟩,
    ⟨fed_of ?_, ok_of ?_, ok_of ?_, ?_, then_of ?_⟩, ⟨fed_of ?_, ok_of ?_, ok_of ?_, then_of ?_⟩,
    ⟨fed_of ?_, fed_of ?_, ok_of ?_, ok_of ?_, bank7_open _ _, bank7_sound _ rfl⟩, fed_of ?_, fed_of ?_⟩ <;> decide +kernel

/-! ## Frames -/

/-- ADD, LD.S, ST.S, and operations of MX, CP, SA and RG that go through. -/
theorem witness_RegisterFrame :
    (∃ t, Passes (.sAdd .s0 s3) (sPort .s0 0x10#12) s3 (seat scalars) t) ∧ (Instr.sAdd .s0 s3).port? = some (0x110#12, s3) ∧
    (∃ t, Passes (.vAdd .v0 v3) (vPort .v0 0x10#12) v3 (seat (ve2 0#4 0#64)) t) ∧ (Instr.vAdd .v0 v3).port? = some (0x310#12, v3) ∧
    (∃ t, Passes (.ldS s3) 0x611#12 s3 (seat (holder 4092#64 6#64)) t) ∧ (Instr.ldS s3).port? = some (0x611#12, s3) := by
  refine ⟨passes_of (.sc w32) (sitter scalars) (opSAdd 64) (fed_of ?_) rfl ?_, rfl,
    passes_of (.ve 5#4096) (sitter (ve2 0#4 0#64)) opVAdd (fed_of ?_) rfl ?_, rfl,
    passes_of (.sc 2#64) (sitter (holder 4092#64 6#64)) opLdS (fed_of ?_) rfl ?_, rfl⟩ <;> decide +kernel

theorem witness_StoreFrame :
    (∃ t, Passes (.stS s3) 0x711#12 s3 (seat (holder 4095#64 3#64)) t) ∧ (Instr.stS s3).port? = some (0x711#12, s3) := by
  refine ⟨passes_of (.sc 2#64) (sitter (holder 4095#64 3#64)) opStS (fed_of ?_) rfl ?_, rfl⟩ <;> decide +kernel

/-- A core whose CP is to copy from virtual address 0x1000 to handle 5. -/
def copier : Core :=
  { holder 0#64 0#64 with latch := [(0x900, at_ 0x1000#64), (0x901, at_ (ref5 0#64))], sc := [(3, 128#64)] }

theorem witness_EngineFrame :
    (∃ t, Passes (.mxMode s3) 0x811#12 s3 (seat scalars) t) ∧ (Instr.mxMode s3).port? = some (0x811#12, s3) ∧
    (∃ t, Passes (.saFlush s3) 0xA12#12 s3 (seat scalars) t) ∧ (Instr.saFlush s3).port? = some (0xA12#12, s3) ∧
    (∃ t, Passes (.rgHinfo s3) 0xC12#12 s3 (seat scalars) t) ∧ (Instr.rgHinfo s3).port? = some (0xC12#12, s3) ∧
    (∃ t, Passes (.cpGet s3) 0x910#12 s3 (seat copier) t) ∧ (Instr.cpGet s3).port? = some (0x910#12, s3) ∧
    (coreLaunch (seat scalars) 0).hot = 0 := by
  refine ⟨passes_of (.sc w32) (sitter scalars) opMxMode (fed_of ?_) rfl ?_, rfl,
    passes_of (.sc w32) (sitter scalars) opSaFlush (fed_of ?_) rfl ?_, rfl,
    passes_of (.sc w32) (sitter scalars) opRgHinfo (fed_of ?_) rfl ?_, rfl,
    passes_of (.sc 128#64) (sitter copier) opCpGet (fed_of ?_) rfl ?_, rfl, ?_⟩ <;> decide +kernel

/-! ## Moves and reads -/

/-- s3, v3, m1 and k.lc as sources; the handler's registers are open in handler mode. -/
def sources (hm : Bool) : Core := { sc := [(3, 6#64)], ve := [(0x43, 5#4096)], ma := [(0x99, 9#1024)], lc := 4#64, hm := hm }
/-- The seat of a launch with 32 vector registers. -/
def narrow (k : Core) : State := { seat k with launches := [{ placedLaunch with vreg := 32 }] }

/-- s0 and s63, v0 and v63 of 64, v3 and an immediate in v31 of 32, p15, m7; a vector to an s, v32 of 32, a scalar to a v, a scalar to
an m. -/
theorem witness_MoveToRegister :
    Fed (sources false) 0x000#12 s3 (.sc 6#64) ∧ Fed (sources false) 0x03F#12 (imm 1#12) (.im 1#64 64) ∧
    Fed (sources false) 0x040#12 v3 (.ve 5#4096) ∧ Fed (sources false) 0x07F#12 v3 (.ve 5#4096) ∧
    Feeds (narrow (sources false)) 0x05F#12 (imm 1#12) (.im 1#64 64) (sitter (sources false)) ∧
    Feeds (narrow (sources false)) 0x060#12 (imm 1#12) (.im 1#64 64) (sitter (sources false)) ∧
    (coreLaunch (narrow (sources false)) 0).vreg = 32 ∧ (coreLaunch (seat (sources false)) 0).vreg = 64 ∧
    Fed (sources false) 0x080#12 s3 (.sc 6#64) ∧ Fed (sources false) 0x08F#12 s3 (.sc 6#64) ∧
    Fed (sources false) 0x098#12 (reg 0x99#12) (.ma 9#1024) ∧ Fed (sources false) 0x09F#12 (reg 0x99#12) (.ma 9#1024) ∧
    Fed (sources false) 0x000#12 v3 (.ve 5#4096) ∧ Fed (sources false) 0x08F#12 v3 (.ve 5#4096) ∧
    Fed (sources false) 0x07F#12 s3 (.sc 6#64) ∧ Fed (sources false) 0x09F#12 s3 (.sc 6#64) := by
  refine ⟨fed_of ?_, fed_of ?_, fed_of ?_, fed_of ?_, fed_of ?_, fed_of ?_, ?_, ?_, fed_of ?_, fed_of ?_, fed_of ?_, fed_of ?_, fed_of ?_,
    fed_of ?_, fed_of ?_, fed_of ?_⟩ <;> decide +kernel

/-- Waypoints 2 and 3 of one step group on cores 0 and 1. -/
def neighbours (k : Core) : State :=
  { seat k with
    launches := [{ placedLaunch with
      levels := [{ extent := 2, domain := 0, scope := 1, step := true, chunk := false, cidx := 0, rmask := 0#16 }] }],
    cmds := [{ id := 9, core := 0, wp := ⟨1, 2⟩, kind := .get, counter := 0, tag := 0 }],
    waypoints := [{ placedWaypoint with key := ⟨1, 2⟩, parent := 1 }, { placedWaypoint with key := ⟨1, 3⟩, parent := 1, lo := 1, hi := 2 }],
    cores := [(0, { k with mode := .running, wp := ⟨1, 2⟩, pc := placedCode, empty := 0#320 }),
              (1, { mode := .running, wp := ⟨1, 3⟩, pc := placedCode })] }
/-- A region without gated effects. -/
def region0 : Region := { mark := placedCode, tag := 1, shadow := shadowOf {} }

/-- The first and the last register of every range, in and out of handler mode; operand, TY, DV and DM ports; a forwarding port without
a neighbour in the group, with one while a fence holds path 6, while a region is open, before and after the delivery. -/
theorem witness_MovesElsewhere :
    Fed (sources false) 0x0AB#12 s3 (.sc 6#64) ∧ Fed (sources false) 0x0AE#12 s3 (.sc 6#64) ∧ Fed (sources false) 0x0C0#12 s3 (.sc 6#64) ∧
    Fed (sources false) 0x0D5#12 s3 (.sc 6#64) ∧ Fed (sources true) 0x0B0#12 s3 (.sc 6#64) ∧ Fed (sources true) 0x0B9#12 s3 (.sc 6#64) ∧
    (sitter (sources true)).hm = true ∧ Fed (sources false) 0x0B6#12 s3 (.sc 6#64) ∧ (sitter (sources false)).hm = false ∧
    Fed (sources false) 0x0AA#12 s3 (.sc 6#64) ∧ Fed (sources true) 0x0B5#12 s3 (.sc 6#64) ∧ Fed (sources false) 0x0DF#12 s3 (.sc 6#64) ∧
    Fed (sources false) 0x100#12 v3 (.ve 5#4096) ∧ Fed (sources false) 0xC0C#12 s3 (.sc 6#64) ∧ Fed (sources false) 0x10F#12 s3 (.sc 6#64) ∧
    Fed (sources false) 0x80E#12 s3 (.sc 6#64) ∧ Fed (sources false) 0x40D#12 s3 (.sc 6#64) ∧ Fed (sources false) 0x30D#12 v3 (.ve 5#4096) ∧
    Fed (sources false) 0x0E0#12 v3 (.ve 5#4096) ∧ portCore (mid (sources false)) 0 0 = some 1 ∧
    sameGroup (mid (sources false)) 0 1 = false ∧ portCore (mid (sources false)) 0 7 = none ∧
    (∀ k ∈ [sources false, { sources false with region := some region0 }, { sources false with sent := [0] }],
      portCore (neighbours k) 0 3 = some 1 ∧ sameGroup (neighbours k) 0 1 = true) ∧
    Feeds (neighbours (sources false)) 0x0E3#12 v3 (.ve 5#4096) (coreOf (neighbours (sources false)) 0) ∧
    (fenceIds (neighbours (sources false)) 0 6).isEmpty = true ∧
    (fenceIds (neighbours { sources false with fences := [([9], 0x40#7)] }) 0 6).isEmpty = false ∧
    gating (coreOf (neighbours { sources false with region := some region0 }) 0) = true := by
  refine ⟨fed_of ?_, fed_of ?_, fed_of ?_, fed_of ?_, fed_of ?_, fed_of ?_, ?_, fed_of ?_, ?_, fed_of ?_, fed_of ?_, fed_of ?_, fed_of ?_,
    fed_of ?_, fed_of ?_, fed_of ?_, fed_of ?_, fed_of ?_, fed_of ?_, ?_, ?_, ?_, ?_, fed_of ?_, ?_, ?_, ?_⟩ <;> decide +kernel

/-- A false guard; every kind of source at the ends of its range; a register FULL, EMPTY with nothing on its way, with a fixed distance,
with a result that stands ready, and with one that a command gives. -/
theorem witness_SourceReads :
    guardTrue (sitter {}) ⟨1#4, false, false, true, 5#12⟩ = false ∧ (Instr.move 1#12 s3).port? = some (1#12, s3) ∧
    (Instr.sAdd .s0 ⟨1#4, false, false, true, 5#12⟩).port? = some (0x110#12, ⟨1#4, false, false, true, 5#12⟩) ∧
    (imm 5#12).imm = true ∧ (reg 0xB9#12).imm = false ∧ (sitter (sources true)).hm = true ∧ (coreLaunch (narrow {}) 0).vreg ≤ 0x60 - 0x40 ∧
    hardWired 0 = true ∧ hardWired 0x80 = true ∧ hardWired 3 = false ∧ isEmpty (sitter {}) 3 = false ∧
    (let p : Pend := { reg := 3, left := 2, fixed := true }
     let q : Pend := { reg := 3, left := 0, fixed := false }
     let g : Pend := { reg := 3, left := 0, fixed := false, cmd := some 1 }
     let k (l : List Pend) : Core := { pends := l, empty := 8#320 }
     isEmpty (k [p]) 3 = true ∧ (k [p]).pends.find? (fun x => x.reg = 3) = some p ∧ p.fixed = true ∧ p.left ≠ 0 ∧
       (k [q]).pends.find? (fun x => x.reg = 3) = some q ∧ q.cmd = none ∧
       (k [g]).pends.find? (fun x => x.reg = 3) = some g ∧ g.cmd ≠ none ∧ isEmpty (k []) 3 = true) := by decide +kernel

/-- The three cases of RotateStage, at 32 and at 64 vector registers. -/
theorem witness_RotateStage :
    (let k : Core := { lc := 1#64, rs := 15, rp := 7, rv := 31 }; k.rs < 16 ∧ k.rp < 8 ∧ k.rv < 64 - 32 ∧ k.lc ≠ 0#64) ∧
    (let k : Core := { ec := 2#8 }; k.lc = 0#64 ∧ 1 < k.ec.toNat ∧ k.rv = 0) ∧
    (let k : Core := { ec := 1#8 }; k.lc = 0#64 ∧ k.ec.toNat ≤ 1) := by decide +kernel

/-- A translation compared with an address. -/
theorem home_of {r : Except Miss Nat} {a : Nat} (h : (match r with | .ok y => decide (y = a) | .error _ => false) = true) : r = .ok a := by
  cases r with
  | ok y => simp at h; rw [h]
  | error e => simp at h

/-! ## BR -/

/-- A target that is a header and one that is none, a misaligned one; a loop count of none and one; a predicate, a time, a need. -/
theorem witness_Branches :
    (let o := go {} 0xB10#12 (imm 0#12) (.im 0#64 64)
     Fed {} 0xB10#12 (imm 0#12) (.im 0#64 64) ∧ scVal o = .ok 0#64 ∧ okB ((fetchWord (mid {}) 0 placedCode).map (·.getLsbD 31)) true = true ∧
       okB ((fetchWord (mid {}) 0 (placedCode + 4)).map (·.getLsbD 31)) false = true) ∧
    (let k : Core := { sc := [(3, 0x20004#64)] }; Fed k 0xB11#12 s3 (.sc 0x20004#64)) ∧
    (let k : Core := { sc := [(3, 0x20002#64)] }; Fed k 0xB14#12 s3 (.sc 0x20002#64)) ∧
    (let k : Core := { sc := [(3, 0x20000#64)], latch := [(0xB00, at_ 63#64)] }
     Fed k 0xB13#12 s3 (.sc 0x20000#64) ∧ Fed k 0xB12#12 (imm 0#12) (.im 0#64 64) ∧
       scOp (mid k) (go k 0xB13#12 s3 (.sc 0x20000#64)) 0 = .ok 63#64) ∧
    (Fed {} 0xB15#12 (imm 0#12) (.im 0#64 64) ∧ (sitter {}).lc = 0#64) ∧
    (Fed { lc := 1#64 } 0xB15#12 (imm 0#12) (.im 0#64 64) ∧ (sitter { lc := 1#64 }).lc ≠ 0#64) ∧
    (Fed {} 0xB16#12 (imm 0#12) (.im 0#64 64) ∧ (rotateStage 64 (sitter {})).2 = false ∧
      (rotateStage 64 (sitter { lc := 1#64 })).2 = true ∧ Fed { lc := 1#64 } 0xB16#12 (imm 0#12) (.im 0#64 64)) ∧
    Fed {} 0xB17#12 (imm 1#12) (.im 1#64 64) ∧
    (let k : Core := { latch := [(0xB00, at_ 1#64)] }
     Fed k 0xB20#12 (imm 0#12) (.im 0#64 64) ∧ scOp (mid k) (go k 0xB20#12 (imm 0#12) (.im 0#64 64)) 0 = .ok 1#64 ∧
       (chronOf (seat k) 0 - (chronOf (seat k) 0 + 0#64)).msb = false ∧ (chronOf (seat k) 0 - (chronOf (seat k) 0 + 1#64)).msb = true) ∧
    (let k : Core := { latch := [(0xB00, at_ 15#64)] }
     Fed k 0xB21#12 (imm 0x180#12) (.im 0x180#64 64) ∧ scOp (mid k) (go k 0xB21#12 (imm 0x180#12) (.im 0x180#64 64)) 0 = .ok 15#64 ∧
       (0x180#64).toNat + (heldBanks (sitter k) .spad).length ≤ capacity (sitter k) .spad ∧
       ¬0x181 + (heldBanks (sitter k) .spad).length ≤ capacity (sitter k) .spad) := by
  refine ⟨⟨fed_of ?_, ok_of ?_, ?_, ?_⟩, fed_of ?_, fed_of ?_, ⟨fed_of ?_, fed_of ?_, ok_of ?_⟩, ⟨fed_of ?_, ?_⟩, ⟨fed_of ?_, ?_⟩,
    ⟨fed_of ?_, ?_, ?_, fed_of ?_⟩, fed_of ?_, ⟨fed_of ?_, ok_of ?_, ?_, ?_⟩, fed_of ?_, ok_of ?_, ?_, ?_⟩ <;> decide +kernel

/-- The seat of a launch that has been cancelled. -/
def overSeat (k : Core) : State := { seat k with launches := [{ placedLaunch with ending := .cancelled }] }

/-- A waypoint with nothing in progress, in and out of handler mode, that suspends on the word at 0x1000; one whose launch has ended. -/
theorem witness_Suspension :
    (let k : Core := { sc := [(3, 0x1000#64)] }
     findWp (seat k) ⟨1, 1⟩ = some placedWaypoint ∧ Quiet (mid k) 0 ∧ Fed k 0xB19#12 s3 (.sc 0x1000#64) ∧ Fed k 0xB18#12 s3 (.sc 0x1000#64) ∧
       Fed k 0xB1B#12 s3 (.sc 0x1000#64) ∧ Fed k 0xB1C#12 s3 (.sc 0x1000#64) ∧ refTag 0x1000#64 = 0 ∧ refVa 0x1000#64 % 32 = 0 ∧
       wordHome (mid k) 0 (refVa 0x1000#64) 1 = .ok 0x1000 ∧ (sitter k).hm = false ∧ placedWaypoint.join = 0#47) ∧
    (let k : Core := { sc := [(3, 0x1000#64)], hm := true }
     Quiet (mid k) 0 ∧ Fed k 0xB19#12 s3 (.sc 0x1000#64) ∧ (sitter k).hm = true) ∧
    wordHome (mid {}) 0 ((0x80#47).toNat * 32) 3 = .ok 0x1000 ∧ Feeds (overSeat {}) 0xB19#12 (imm 0#12) (.im 0#64 64) (coreOf (overSeat {}) 0) ∧
    (coreLaunch (overSeat {}) 0).ending ≠ .running := by
  refine ⟨⟨?_, ⟨?_, ?_, ?_⟩, fed_of ?_, fed_of ?_, fed_of ?_, fed_of ?_, ?_, ?_, home_of ?_, ?_, ?_⟩, ⟨⟨?_, ?_, ?_⟩, fed_of ?_, ?_⟩, home_of ?_,
    fed_of ?_, ?_⟩ <;> decide +kernel

/-- The seat of a launch with a second level of two points, and with a handler where t is not 0. -/
def deep (k : Core) (t : Nat) : State :=
  { seat k with
    launches := [{ placedLaunch with
      traph := t
      levels := placedLaunch.levels ++ [{ extent := 2, domain := 0, scope := 1, step := true, chunk := false, cidx := 0, rmask := 0#16 }] }] }
/-- SPAWN's operands: entry, join word, low bound, affinity. -/
def spawner (e j lo aff : Word) : Core := { latch := [(0xB00, at_ e), (0xB01, at_ j), (0xB02, at_ lo), (0xB03, at_ aff)], sc := [(3, 9#64)] }

/-- A range of both points with a join word and one without, an empty range, and a spawn at the last level. -/
theorem witness_Spawn :
    (let k := spawner 0x20000#64 0x1000#64 0#64 1#64
     let s := deep k 0
     let o := issued s 0xB1A#12 s3 (.sc 9#64)
     Feeds s 0xB1A#12 s3 (.sc 9#64) (sitter k) ∧ scOp (fed s (sitter k)) o 0 = .ok 0x20000#64 ∧ scOp (fed s (sitter k)) o 1 = .ok 0x1000#64 ∧
       scOp (fed s (sitter k)) o 2 = .ok 0#64 ∧ scOp (fed s (sitter k)) o 3 = .ok 1#64 ∧ scVal o = .ok 9#64 ∧
       spawnJoin (fed s (sitter k)) o 0x1000#64 = .ok (some 0x1000) ∧ spawnJoin (fed s (sitter k)) o 0#64 = .ok none ∧
       forwardTo (fed s (sitter k)) 0x1000 = some 0x1000 ∧ gating (sitter k) = false ∧ findWp s ⟨1, 1⟩ = some placedWaypoint ∧
       freeWpid (fed s (sitter k)) 1 = some 2 ∧ (s.cmds.all fun x => x.wp ≠ ⟨1, 1⟩) = true ∧
       ((coreLaunch s 0).levels[1]?).isSome = true ∧ 0 < min (9#64).toNat (min 2 (0 + 65536)) ∧ min (9#64).toNat (min 2 (2 + 65536)) ≤ 2) ∧
    (coreLaunch (seat {}) 0).levels[placedWaypoint.level + 1]? = none ∧ (coreLaunch (seat {}) 0).ending = .running ∧
    (coreLaunch (overSeat {}) 0).ending ≠ .running := by
  refine ⟨⟨fed_of ?_, ok_of ?_, ok_of ?_, ok_of ?_, ok_of ?_, ok_of ?_, ok_of ?_, ok_of ?_, ?_, ?_, ?_, ?_, ?_, ?_, ?_, ?_⟩, ?_, ?_, ?_⟩ <;> decide +kernel

/-- BR.TRAP; every service and one beyond them. -/
theorem witness_TrapsAndServices :
    Fed {} 0xB1D#12 (imm 7#12) (.im 7#64 64) ∧ Fed {} 0xB1E#12 (imm 0#12) (.im 0#64 64) ∧ Fed {} 0xB1E#12 (imm 1#12) (.im 1#64 64) ∧
    Fed {} 0xB1E#12 (imm 2#12) (.im 2#64 64) ∧ Fed {} 0xB1E#12 (imm 3#12) (.im 3#64 64) ∧ gating (sitter {}) = false ∧
    (findLaunch (seat {}) 1).isSome = true ∧ scOp (mid {}) (go {} 0xB1E#12 (imm 0#12) (.im 0#64 64)) 0 = .ok 0#64 := by
  refine ⟨fed_of ?_, fed_of ?_, fed_of ?_, fed_of ?_, fed_of ?_, ?_, ?_, ok_of ?_⟩ <;> decide +kernel

/-- A launch with a handler, in and out of handler mode, and one without. -/
theorem witness_TrapEntry :
    isMachineCheck 0x0070#16 = false ∧ (coreOf (deep {} 0x40000) 0).hm = false ∧ (coreLaunch (deep {} 0x40000) 0).traph ≠ 0 ∧
    (findWp (deep {} 0x40000) ⟨1, 1⟩).isSome = true ∧ (coreOf (deep { hm := true } 0x40000) 0).hm = true ∧
    ((findLaunch (deep {} 0) 1).elim true fun l => l.traph ≠ 0) = false := by decide +kernel

/-- RFE outside a handler; its resume form; its rollback form with a frozen region and without a command of the waypoint. -/
theorem witness_HandlerReturn :
    Fed {} 0xB1F#12 (imm 0#12) (.im 0#64 64) ∧ (findWp (seat {}) ⟨1, 1⟩).isSome = true ∧ (sitter {}).hm = false ∧
    (let k : Core := { hm := true, epc := 0x20000#64 }
     Fed k 0xB1F#12 (imm 0#12) (.im 0#64 64) ∧ (0#64).getLsbD 0 = false ∧
       okB ((fetchWord (mid k) 0 (0x20000#64).toNat).map (·.getLsbD 31)) true = true) ∧
    (let k : Core := { hm := true, region := some region0, frozen := true }
     Fed k 0xB1F#12 (imm 1#12) (.im 1#64 64) ∧ (1#64).getLsbD 0 = true ∧ (sitter k).region = some region0 ∧
       okB ((fetchWord (mid k) 0 region0.mark).map (·.getLsbD 31)) true = true ∧ ((seat k).cmds.all fun y => y.wp ≠ ⟨1, 1⟩) = true) := by
  refine ⟨fed_of ?_, ?_, ?_, ⟨fed_of ?_, ?_, ?_⟩, fed_of ?_, ?_, ?_, ?_, ?_⟩ <;> decide +kernel

/-- No region; an open one whose gate takes the effect, and one whose gate holds 64 lines already. -/
theorem witness_Regions :
    (coreOf (seat {}) 0).region = none ∧ (coreOf (seat { region := some region0 }) 0).region = some region0 ∧
    (coreOf (seat { region := some region0 }) 0).frozen = false ∧ gateLines (seat {}) (gateAdd [] (.sete 0 5 0 1)) ≤ 64 ∧
    64 < gateLines (seat {}) (gateAdd [.sete 0 5 0 32, .sete 0 5 32 32] (.sete 0 6 0 1)) := by decide +kernel

/-! ## RG -/

/-- h at o0, rows at o1, ctl at o12 of RG, and handle 5 held by waypoint 1, handle 6 by waypoint 9. -/
def allocator (h rows ctl : Word) : Core :=
  { handles := [(5, bank7), (6, { bank7 with owner := ⟨1, 9⟩, banks := [8] })],
    latch := [(0xC00, at_ h), (0xC01, at_ rows), (0xC0C, at_ ctl)], sc := [(3, 128#64)] }

/-- HALLOC of a shape that fits, of no rows, of a number in use and of more banks than are free; HFREE, HINFO and CAP of every kind of
handle. -/
theorem witness_Handles :
    (let k := allocator 255#64 8#64 0#64
     let o := go k 0xC10#12 s3 (.sc 128#64)
     Fed k 0xC10#12 s3 (.sc 128#64) ∧ scOp (mid k) o 0 = .ok 255#64 ∧ scOp (mid k) o 1 = .ok 8#64 ∧ scOp (mid k) o 12 = .ok 0#64 ∧
       scVal o = .ok 128#64 ∧ gating (sitter k) = false ∧ Map.find (sitter k).handles 255 = none ∧
       (8 * ((128 * typeBits 0 + 1023) / 1024 * 128) + 4095) / 4096 ≤ (freeBanks (sitter k) .spad).length) ∧
    (let k := allocator 255#64 0#64 0#64; Fed k 0xC10#12 s3 (.sc 128#64) ∧ scOp (mid k) (go k 0xC10#12 s3 (.sc 128#64)) 1 = .ok 0#64) ∧
    (let k := allocator 6#64 8#64 0#64; Fed k 0xC10#12 s3 (.sc 128#64) ∧ (Map.find (sitter k).handles 6).isSome = true) ∧
    (let k := allocator 255#64 32768#64 0#64
     Fed k 0xC10#12 s3 (.sc 128#64) ∧ Map.find (sitter k).handles 255 = none ∧ 32768 * ((128 * typeBits 0 + 1023) / 1024 * 128) ≤ 2 ^ 24 ∧
       (freeBanks (sitter k) .spad).length < (32768 * ((128 * typeBits 0 + 1023) / 1024 * 128) + 4095) / 4096) ∧
    (let k := allocator 0#64 0#64 0#64
     Fed k 0xC11#12 (imm 4#12) (.im 4#64 64) ∧ Map.find (sitter k).handles 4 = none ∧ Fed k 0xC11#12 (imm 6#12) (.im 6#64 64) ∧
       Fed k 0xC11#12 (imm 5#12) (.im 5#64 64) ∧ Map.find (sitter k).handles 5 = some bank7 ∧ handleBusy (mid k) 0 5 = false ∧
       Fed k 0xC12#12 (imm 5#12) (.im 5#64 64) ∧ Fed k 0xC13#12 (imm 15#12) (.im 15#64 64)) := by
  refine ⟨⟨fed_of ?_, ok_of ?_, ok_of ?_, ok_of ?_, ok_of ?_, ?_, ?_, ?_⟩, ⟨fed_of ?_, ok_of ?_⟩, ⟨fed_of ?_, ?_⟩, ⟨fed_of ?_, ?_, ?_, ?_⟩,
    fed_of ?_, ?_, fed_of ?_, fed_of ?_, ?_, ?_, fed_of ?_, fed_of ?_⟩ <;> decide +kernel

/-- A launch with one stream, east, lane 7, positions 0 and 63, flags 0 and 1 of station 0, and one CHAIN stream; flag 1 is SET. -/
def ringed (k : Core) (off : Bool) : State :=
  { seat k with
    launches := [{ placedLaunch with
      streams := [{ ring := .meridian, chain := false, dir := .east, lane := 7, eqid := 0, pos := 0x8000000000000001#64, flags := [3#64],
                    id := 1 },
                  { ring := .meridian, chain := true, dir := .east, lane := 1, eqid := 0, pos := 1#64, flags := [], id := 2 }] }],
    stations := [(0, { flags := [(1, { set := true, status := 2 })], passThrough := off })] }
/-- Stream index, position and control word at RG's ports; an entry that receives into s3. -/
def entrant (i p ctl : Word) : Core := { latch := [(0xC00, at_ i), (0xC01, at_ p), (0xC0C, at_ ctl)], sc := [(3, 0x2000000000000000#64)] }

/-- A flag that is SET, one that is clear, one that is not granted, in and out of pass-through; an entry at position 63, one at a position
that is not the stream's, one of no stream, one of a CHAIN stream, and a row. -/
theorem witness_FlagsAndAlmanac :
    (let s := ringed {} false
     let k := coreOf s 0
     Feeds s 0xC14#12 (imm 1#12) (.im 1#64 64) k ∧ Feeds s 0xC15#12 (imm 0#12) (.im 0#64 64) k ∧ Feeds s 0xC16#12 (imm 63#12) (.im 63#64 64) k ∧
       scOp (fed s k) (issued s 0xC14#12 (imm 1#12) (.im 1#64 64)) 12 = .ok 0#64 ∧ (fenceIds (fed s k) 0 5).isEmpty = true ∧
       flagGranted (coreLaunch (fed s k) 0) 0 1 = true ∧ flagGranted (coreLaunch (fed s k) 0) 0 0 = true ∧
       flagGranted (coreLaunch (fed s k) 0) 0 63 = false ∧ (station s 0).passThrough = false ∧ (flagOf s 0 1).set = true ∧
       (flagOf s 0 0).set = false ∧ gating k = false) ∧
    (station (ringed {} true) 0).passThrough = true ∧
    (let s := ringed (entrant 0#64 63#64 0#64) false
     let k := coreOf s 0
     let o := issued s 0xC17#12 s3 (.sc 0x2000000000000000#64)
     Feeds s 0xC17#12 s3 (.sc 0x2000000000000000#64) k ∧ scOp (fed s k) o 0 = .ok 0#64 ∧ scOp (fed s k) o 1 = .ok 63#64 ∧
       scOp (fed s k) o 12 = .ok 0#64 ∧ scVal o = .ok 0x2000000000000000#64 ∧ (fenceIds (fed s k) 0 5).isEmpty = true ∧
       ((coreLaunch (fed s k) 0).streams[0]?.elim true fun x => x.chain || !x.pos.getLsbD 63 || x.pos.getLsbD 62) = false ∧
       (coreLaunch (fed s k) 0).streams[2]? = none ∧ ((coreLaunch (fed s k) 0).streams[1]?.elim false fun x => x.chain) = true ∧
       (0x2000000000000000#64).getLsbD 57 = false ∧ 0x2000000000000000#64 &&& ~~~(0x3FF#64 <<< 41) ≠ 0#64) ∧
    (let s := ringed (entrant 0#64 62#64 8#64) false
     Feeds s 0xC17#12 s3 (.sc 0x2000000000000000#64) (coreOf s 0) ∧ (8#64).getLsbD 3 = true) := by
  refine ⟨⟨fed_of ?_, fed_of ?_, fed_of ?_, ok_of ?_, ?_, ?_, ?_, ?_, ?_, ?_, ?_, ?_⟩, ?_,
    ⟨fed_of ?_, ok_of ?_, ok_of ?_, ok_of ?_, ok_of ?_, ?_, ?_, ?_, ?_, ?_, ?_⟩, fed_of ?_, ?_⟩ <;> decide +kernel

/-- A member of a step group whose barrier has ended, has not, or has found a mismatch; a copy command in progress. -/
def member (b : Barrier) (cmds : List Cmd) (k : Core) : State :=
  { deep k 0 with
    waypoints := [{ placedWaypoint with key := ⟨1, 1⟩, level := 1, parent := 1 }],
    barriers := [(⟨1, 1, 1⟩, b)], cmds := cmds }
def copy9 : Cmd := { id := 9, core := 0, wp := ⟨1, 1⟩, kind := .get, counter := 0, tag := 0 }

theorem witness_FencesAndBarriers :
    (let k : Core := { latch := [(0xC00, at_ 4#64)] }
     let s := member {} [copy9] k
     Feeds s 0xC1A#12 (imm 4#12) (.im 4#64 64) (coreOf s 0) ∧ Feeds s 0xC1A#12 (imm 0x80#12) (.im 0x80#64 64) (coreOf s 0) ∧
       scOp (fed s (coreOf s 0)) (issued s 0xC1A#12 (imm 4#12) (.im 4#64 64)) 0 = .ok 4#64 ∧
       outstanding (fed s (coreOf s 0)) 0 4#7 = [9] ∧ outstanding (fed s (coreOf s 0)) 0 2#7 = [] ∧ (0x80#64).setWidth 7 = 0#7) ∧
    Fed {} 0xC1B#12 (imm 0#12) (.im 0#64 64) ∧ Fed {} 0xC18#12 (imm 0#12) (.im 0#64 64) ∧ Fed {} 0xC19#12 (imm 0#12) (.im 0#64 64) ∧
    levelSteps (mid {}) placedWaypoint = false ∧ (sitter {}).flight = [] ∧ runningCalls (sitter {}) = [] ∧
    (let s := member { release := [1] } [] {}
     (findWp s ⟨1, 1⟩).isSome = true ∧ levelSteps s { placedWaypoint with level := 1 } = true ∧
       1 ∈ (barrierOf s ⟨1, 1, 1⟩).release ∧ 1 ∉ (barrierOf s ⟨1, 1, 1⟩).mismatch ∧ (barrierOf s ⟨1, 1, 1⟩).trap = none) ∧
    1 ∈ (barrierOf (member { mismatch := [1] } [] {}) ⟨1, 1, 1⟩).mismatch := by
  refine ⟨⟨fed_of ?_, fed_of ?_, ok_of ?_, ?_, ?_, ?_⟩, fed_of ?_, fed_of ?_, fed_of ?_, ?_, ?_, ?_, ⟨?_, ?_, ?_, ?_, ?_⟩, ?_⟩ <;> decide +kernel


/-! ## COLL -/

/-- The words of a plan of one chunk: group 7, rank r of 2, I32 sums; a COPY on stream 0, position p, into the destination. -/
def planWords (r p : Nat) : List Nat := [7 * 2 ^ 48 + r * 2 ^ 40 + 2 * 2 ^ 32, 0, 2 * 2 ^ 60 + p * 2 ^ 41 + 2 ^ 38, (2 ^ 32 - 1) * 2 ^ 32 + 2 ^ 14]
/-- That plan. -/
def plan7 : Plan := (planOf ((planWords 0 63).getD 0 0) 0 [((planWords 0 63).getD 2 0, (planWords 0 63).getD 3 0)]).1
/-- The launch of `ringed`, with a plan at address 0x1000 and core k. -/
def planned (r p : Nat) (k : Core) : State := putDram (ringed k false) 0x1000 ((planWords r p).flatMap fun w => bytesOf w 8)
/-- A call of that plan that has ended with a status, or has not ended. -/
def call7 (running : Bool) (status : Nat) : Call :=
  { id := 3, seq := 1#16, running := running, resume := false, src := 0#64, dst := 0x1001400000000000#64, scr := 0#64, count := 16,
    status := status }
def slot7 (q : Option Call) : PlanSlot := { launch := 1, plan := plan7, nextSeq := 1#16, call := q }
/-- Its slot in a core with handle 5, a and b at o0 and o1 of RG. -/
def caller (a b ctl : Word) (q : Option Call) : Core :=
  { handles := [(5, bank7)], plans := [(0, slot7 q)], latch := [(0xC00, at_ a), (0xC01, at_ b), (0xC0C, at_ ctl)] }

/-- LOAD of a sound plan, of one with a rank or a position out of place, and of a poisoned one; DROP and CALL of a slot with no call, with
one in progress and with one ended by a status; of an empty slot. -/
theorem witness_CollectiveOperations :
    (let s := planned 0 63 { latch := [(0xC00, at_ 0x1000#64)] }
     let m := imm 1#12
     let v := PVal.im 1#64 64
     let k := coreOf s 0
     let hd := readBytes s.mem 0x1000 16
     let bs := readBytes s.mem 0x1010 16
     Feeds s 0xC1C#12 m v k ∧ scVal (issued s 0xC1C#12 m v) = .ok 1#64 ∧ gating k = false ∧
       scOp (fed s k) (issued s 0xC1C#12 m v) 0 = .ok 0x1000#64 ∧ (fenceIds (fed s k) 0 2).isEmpty = true ∧
       (∃ p, checkRef (fed s k) 0 0x1000#64 16 1 [0] = .ok p) ∧
       readVaRange (fed s k) { core := 0 } (coreLaunch (fed s k) 0) 0x1000 16 = .data hd ∧
       readVaRange (fed s k) { core := 0 } (coreLaunch (fed s k) 0) 0x1010 16 = .data bs ∧
       planForeign (fed s k) (coreLaunch (fed s k) 0) plan7 = false ∧ planBad (coreLaunch (fed s k) 0) plan7 false = false ∧
       slotBusy (planSlot (fed s k) 0 1) = false) ∧
    planBad (coreLaunch (ringed {} false) 0) { plan7 with rank := 2 } false = true ∧
    planForeign (ringed {} false) (coreLaunch (ringed {} false) 0) { plan7 with pkgMask := 2#64 } = true ∧
    (∃ a, readVaRange { planned 0 63 {} with poisoned := [0x1008 / 8] } { core := 0 } (coreLaunch (ringed {} false) 0) 0x1000 16 = .poison a) ∧
    (let k := caller 0#64 0x1001400000000000#64 0#64 (some (call7 true 0))
     let s := ringed k false
     Feeds s 0xC1C#12 (imm 0#12) (.im 0#64 64) (coreOf s 0) ∧ slotBusy (planSlot s 0 0) = true ∧ slotBusy (planSlot s 0 1) = false ∧
       planSlot s 0 1 = none ∧ planSlot s 0 0 = some (slot7 (some (call7 true 0))) ∧
       Feeds s 0xC1D#12 (imm 0#12) (.im 0#64 64) (coreOf s 0)) ∧
    (let k := caller 0#64 0x1001400000000000#64 0#64 (some (call7 false 5))
     let s := ringed k false
     let m := imm 0#12
     let v := PVal.im 0#64 64
     let o := issued s 0xC1C#12 m v
     Feeds s 0xC1C#12 m v (coreOf s 0) ∧ scOp (fed s (coreOf s 0)) o 0 = .ok 0#64 ∧ scOp (fed s (coreOf s 0)) o 1 = .ok 0x1001400000000000#64 ∧
       scOp (fed s (coreOf s 0)) o 2 = .ok 0#64 ∧ scOp (fed s (coreOf s 0)) o 3 = .ok 0#64 ∧ scOp (fed s (coreOf s 0)) o 12 = .ok 0#64 ∧
       (fenceIds (fed s (coreOf s 0)) 0 5).isEmpty = true ∧ slotBusy (planSlot s 0 0) = false ∧ (call7 false 5).status ≠ 0 ∧
       checkBuffers (fed s (coreOf s 0)) 0 plan7 0#64 0x1001400000000000#64 0#64 = .ok () ∧ (call7 false 8).trapTaken = false) := by
  refine ⟨⟨fed_of ?_, ok_of ?_, ?_, ok_of ?_, ?_, some_of ?_, ?_, ?_, ?_, ?_, ?_⟩, ?_, ?_, ⟨0, ?_⟩, ⟨fed_of ?_, ?_, ?_, ?_, ?_, fed_of ?_⟩,
    fed_of ?_, ok_of ?_, ok_of ?_, ok_of ?_, ok_of ?_, ok_of ?_, ?_, ?_, ?_, ok_of ?_, ?_⟩ <;> decide +kernel

/-! ## MX -/

/-- An identifier-table entry of 2 by 2 BF16 elements in rows of 16 bytes, as R247 lays it out. -/
def bf16Block (base : Word) : BitVec 256 :=
  BitVec.ofNat 256 (base.toNat + 2 * 2 ^ 64 + 2 * 2 ^ 80 + 2 ^ 128 + 2 ^ 248 + 2 ^ 250 + 2 ^ 252)
/-- A handle of one bank in the operand die. -/
def bank0 : Handle := { owner := ⟨1, 1⟩, level := .opd, ty := 1#4, rows := 32, cols := 1024, banks := [0] }
/-- A reference to byte `off` of handle 6. -/
def ref6 (off : Word) : Word := 0x4001800000000000#64 + off
/-- A core with A's block in handle 5, B's in handle 6, their copies 0 and 1, tile 3 as given, tile 4 in mode F and tile 5 in I64, tile 6 in
flight; a, b, batch and ctl at MX's ports, x in s3 and v3. -/
def tiler (t : Tile) (a b ctl x : Word) : Core :=
  { handles := [(5, bank7), (6, bank0)], tids := [(0, bf16Block (ref5 0#64)), (1, bf16Block (ref6 0#64))],
    tiles := [(3, t), (4, { mode := .F }), (5, { mode := .I64 })], flight := [(6, 7)], mxNo := 8,
    latch := [(0x800, at_ a), (0x801, at_ b), (0x802, at_ 0#64), (0x80C, at_ ctl)], sc := [(3, x)], ve := [(0x43, 0x3F80#4096)] }
/-- A tile of mode W whose row 0 has no room. -/
def fullTile : Tile := { words := [(0, 5#64)], exps := [(0, 0x8000#16)], guards := [(0, 16384)] }
/-- The launch of `seat` with its identifier table at 0x3000, where entry 0 is bs. -/
def tabled (bs : List Byte) (k : Core) : State :=
  putDram { seat k with launches := [{ placedLaunch with tidt := 0x3000 }] } 0x3000 bs

/-- TID without a table, of a sound entry, of one that is not valid and of one with a scale tensor that does not fit; MODE and ZERO of owned
tiles, of one that is not and of mode F with an operand-die tile; SETE with room and without; NRM, WAIT, SOUND. -/
theorem witness_MatrixTiles :
    (Fed {} 0x810#12 (imm 0#12) (.im 0#64 64) ∧ (coreLaunch (mid {}) 0).tidt = 0) ∧
    (let s := tabled (bytesOf (bf16Block (ref5 0#64)).toNat 32) {}
     Feeds s 0x810#12 (imm 0#12) (.im 0#64 64) (coreOf s 0) ∧ (fenceIds s 0 2).isEmpty = true ∧
       readVaRange s { core := 0 } (coreLaunch s 0) 0x3000 32 = .data (bytesOf (bf16Block (ref5 0#64)).toNat 32) ∧
       (tensorOf (bf16Block (ref5 0#64))).sound = true ∧ (tensorOf (bf16Block (ref5 0#64))).scaled = false ∧ (tensorOf 0#256).sound = false) ∧
    (let e : BitVec 256 := BitVec.ofNat 256 ((bf16Block (ref5 0#64)).toNat + 2 ^ 249 + 2 ^ 240 + 11 * 2 ^ 252)
     (tensorOf e).sound = true ∧ (tensorOf e).scaled = true ∧
       ∃ y, idCopy (mid (tiler {} 0#64 0#64 0#64 0#64)) 0 (tensorOf e).sct = .ok y) ∧
    (let k := tiler {} 0x38#64 0#64 0#64 0#64
     Fed k 0x811#12 (imm 2#12) (.im 2#64 64) ∧ scOp (mid k) (go k 0x811#12 (imm 2#12) (.im 2#64 64)) 0 = .ok 0x38#64 ∧
       Fed k 0x811#12 (imm 1#12) (.im 1#64 64) ∧ (0x38#64).toNat % 2 ^ 12 ≠ 0 ∧ (0x38#64).toNat / 2 ^ (coreLaunch (mid k) 0).acct = 0 ∧
       (0x38#64).toNat / 2 ^ 4 ≠ 0 ∧ anyReserved (sitter k) 0x38 = false ∧ Fed k 0x812#12 (imm 0x38#12) (.im 0x38#64 64)) ∧
    (let k := tiler fullTile 3#64 1#64 0#64 0#64
     Fed k 0x813#12 (imm 0#12) (.im 0#64 64) ∧ scOp (mid k) (go k 0x813#12 (imm 0#12) (.im 0#64 64)) 0 = .ok 3#64 ∧
       scOp (mid k) (go k 0x813#12 (imm 0#12) (.im 0#64 64)) 1 = .ok 1#64 ∧ (tileOf (sitter k) 3).mode = .W ∧
       Fed k 0x813#12 (imm 0x8#12) (.im 0x8#64 64) ∧ Fed k 0x816#12 (imm 1#12) (.im 1#64 64)) ∧
    (tileOf (sitter (tiler {} 4#64 0#64 0#64 0#64)) 4).mode ≠ .W ∧
    (Fed {} 0x81B#12 (imm 0#12) (.im 0#64 64) ∧ (sitter {}).flight = [] ∧ (sitter {}).reserved = []) ∧
    (let k := tiler {} 0#64 0#64 0#64 0#64
     Fed k 0x81B#12 (imm 0#12) (.im 0#64 64) ∧ (sitter k).flight ≠ [] ∧ Fed k 0x81C#12 (imm 0#12) (.im 0#64 64) ∧
       scOp (mid k) (go k 0x81C#12 (imm 0#12) (.im 0#64 64)) 12 = .ok 0#64) ∧
    (let k := tiler {} 3#64 0#64 0x11#64 4#64
     let o := go k 0x817#12 s3 (.sc 4#64)
     Fed k 0x817#12 s3 (.sc 4#64) ∧ scOp (mid k) o 0 = .ok 3#64 ∧ scOp (mid k) o 12 = .ok 0x11#64 ∧ scVal o = .ok 4#64 ∧
       3 < (coreLaunch (mid k) 0).acct ∧ 4 % (128 / typeBits 1) ≠ 0) ∧
    (let k := tiler {} 3#64 0#64 0x11#64 8#64
     Fed k 0x817#12 s3 (.sc 8#64) ∧ 8 % (128 / typeBits 1) = 0 ∧ DvInRange (mid k) (go k 0x817#12 s3 (.sc 8#64)) 0 ∧
       tileBusy (sitter k) 3 = false ∧ tileBusy (sitter k) 6 = true ∧ (0x11#64).getLsbD 4 = true ∧ (0x01#64).getLsbD 4 = false) ∧
    (let k := tiler {} 3#64 8#64 1#64 0#64
     let o := go k 0x818#12 v3 (.ve 0x3F80#4096)
     Fed k 0x818#12 v3 (.ve 0x3F80#4096) ∧ scOp (mid k) o 1 = .ok 8#64 ∧ scOp (mid k) o 12 = .ok 1#64 ∧ veVal o = .ok 0x3F80#4096 ∧
       anyReserved (sitter k) (2 ^ 3) = false ∧ aligned ((tileOf (sitter k) 3).exp 8) (elemValue 1 0x3F80) = some 1 ∧
       aligned ((tileOf (sitter (tiler fullTile 3#64 0#64 1#64 0#64)) 3).exp 0) (elemValue 1 0x3F80) = none) ∧
    (let k := tiler {} (ref6 128#64) 0#64 0#64 0#64
     let o := go k 0x819#12 v3 (.ve 0x3F80#4096)
     Fed k 0x819#12 v3 (.ve 0x3F80#4096) ∧ scOp (mid k) o 0 = .ok (ref6 128#64) ∧ (fenceIds (mid k) 0 3).isEmpty = true ∧
       checkRef (mid k) 0 (ref6 128#64) 512 128 [4] = .ok (.handle 0 6 128) ∧ handleOf (mid k) 0 6 = some bank0 ∧
       128 + 512 ≤ bank0.size) := by
  refine ⟨⟨fed_of ?_, ?_⟩, ⟨fed_of ?_, ?_, ?_, ?_, ?_, ?_⟩, ⟨?_, ?_, some_of ?_⟩, ⟨fed_of ?_, ok_of ?_, fed_of ?_, ?_, ?_, ?_, ?_, fed_of ?_⟩,
    ⟨fed_of ?_, ok_of ?_, ok_of ?_, ?_, fed_of ?_, fed_of ?_⟩, ?_, ⟨fed_of ?_, ?_, ?_⟩, ⟨fed_of ?_, ?_, fed_of ?_, ok_of ?_⟩,
    ⟨fed_of ?_, ok_of ?_, ok_of ?_, ok_of ?_, ?_, ?_⟩, ⟨fed_of ?_, ?_, ?_, ?_, ?_, ?_, ?_⟩,
    ⟨fed_of ?_, ok_of ?_, ok_of ?_, ok_of ?_, ?_, ?_, ?_⟩, fed_of ?_, ok_of ?_, ?_, ok_of ?_, ?_, ?_⟩ <;> (try unfold DvInRange) <;> decide +kernel

theorem bank0_sound (k : Core) (h : k.opdChart = {}) : Sound k bank0 := oneBank_sound k bank0 0 rfl h (by decide +kernel)

/-- A tile operation whose checks pass, its operands read, and its sum. -/
theorem sum_of {r : Res (Operands × State)} {rd : Operands × State → Res (List (List Exact) × List (List Exact))}
    {f : Operands × State → List (List Exact) × List (List Exact) → Bool} {p : Operands × State → Bool}
    (h : (match r with
      | .ok x => p x && (match rd x with | .ok y => f x y | .error _ => false)
      | .error _ => false) = true) : ∃ x, r = .ok x ∧ p x = true ∧ ∃ y, rd x = .ok y ∧ f x y = true := by
  cases r with
  | error e => simp at h
  | ok x =>
    simp only [Bool.and_eq_true] at h
    refine ⟨x, rfl, h.1, ?_⟩
    cases hr : rd x with
    | error e => simp [hr] at h
    | ok y => exact ⟨y, rfl, by simpa [hr] using h.2⟩

/-- Products for a sum of two rows by two columns, in each mode; MMA of blocks in handles 5 and 6 into tile 3, with room and without, MMAT of
ternary elements refused by type, the same as steps of a sequence; a tile at ACCT. -/
theorem witness_MatrixMultiply :
    (let a : List (List Exact) := [[.fin false 3 0 false, .fin true 1 0 false]]
     let b : List (List Exact) := [[.fin false 2 0 false], [.fin false 5 0 false]]
     a.length ≤ 32 ∧ b.length ≤ 2 ∧ (∀ r ∈ a, r.length ≤ 2) ∧ (∀ r ∈ b, r.length = 1) ∧
       isOk ((tileAdd {} 2 a b).mapError fun _ => Stop.trap { code := 0#16, info := 0#64 }) = true ∧
       isOk ((tileAdd fullTile 2 a b).mapError fun _ => Stop.trap { code := 0#16, info := 0#64 }) = false) ∧
    (let ctl := 0x01000013#64
     let k := tiler {} 0#64 0#64 0#64 ctl
     let m := s3
     let o (d : BitVec 12) := go k d m (.sc ctl)
     let p : TileOp := { tile := 3, k := 2, ta := 0, tb := 1, ka := 0, m0 := 0, kb := 0, n0 := 0, i2 := 0, i3 := 0 }
     Fed k 0x814#12 m (.sc ctl) ∧ Fed k 0x815#12 m (.sc ctl) ∧ Fed k 0x81A#12 m (.sc ctl) ∧ scOp (mid k) (o 0x814#12) 0 = .ok 0#64 ∧
       scOp (mid k) (o 0x814#12) 1 = .ok 0#64 ∧ scOp (mid k) (o 0x814#12) 2 = .ok 0#64 ∧ scVal (o 0x814#12) = .ok ctl ∧
       (coreLaunch (mid k) 0).acct ≤ 16 ∧ 3 < (coreLaunch (mid k) 0).acct ∧ (fenceIds (mid k) 0 3).isEmpty = true ∧
       idCopy (mid k) 0 0 = .ok (bf16Block (ref5 0#64), mid k) ∧
       ∃ x, checkTileOp (mid k) (o 0x814#12) p false [0, 1, 2] .W = .ok x ∧ (decide (refTag x.1.a.base ≠ 0)) = true ∧
         ∃ y, readOperands (coreReader x.2 0) x.1 = .ok y ∧
           (isOk ((tileAdd (tileOf (coreOf x.2 0) 3) 2 y.1 y.2).mapError fun _ => Stop.trap { code := 0#16, info := 0#64 }) &&
             !isOk ((tileAdd fullTile 2 y.1 y.2).mapError fun _ => Stop.trap { code := 0#16, info := 0#64 })) = true) ∧
    (coreLaunch { seat {} with launches := [{ placedLaunch with acct := 3 }] } 0).acct ≤ 3 := by
  refine ⟨⟨?_, ?_, ?_, ?_, ?_, ?_⟩, ⟨fed_of ?_, fed_of ?_, fed_of ?_, ok_of ?_, ok_of ?_, ok_of ?_, ok_of ?_, ?_, ?_, ?_, ok_of ?_, sum_of ?_⟩, ?_⟩ <;>
    decide +kernel

/-! ## CP, SA and the loop nest -/

/-- A core with handles 5 and 6, the tiles and identifier copies of `tiler`, values at the operand ports of CP or SA (page p), x in s3. -/
def mover (p : Nat) (ports : List (Nat × Word)) (x : Word) : Core :=
  { tiler {} 0#64 0#64 0#64 x with latch := ports.map fun e => (p + e.1, at_ e.2) }

/-- GET of two rows of 128 bytes from GLOBAL into handle 5; sizes that are no multiple of 4, and out of range; PUT to GLOBAL and to the
core's own scratchpad; GETG and PUTG of 4 rows; ACC of 16 sums; GETM with the sum of `tiler`. -/
theorem witness_CommandIssues :
    (let e := 1#64 + (128#64 <<< 16) + (256#64 <<< 40)
     let k := mover 0x900 [(0, 0x1000#64), (1, ref5 0#64), (2, e), (14, 2#64)] 128#64
     let o := go k 0x910#12 s3 (.sc 128#64)
     Fed k 0x910#12 s3 (.sc 128#64) ∧ Fed k 0x91A#12 s3 (.sc 128#64) ∧ scOp (mid k) o 0 = .ok 0x1000#64 ∧ scOp (mid k) o 1 = .ok (ref5 0#64) ∧
       scOp (mid k) o 2 = .ok e ∧ scOp (mid k) o 14 = .ok 2#64 ∧ scVal o = .ok 128#64 ∧
       copyChecks (mid k) 0 0x1000#64 (ref5 0#64) e 128 (some [1, 4]) = .ok (.handle 0 5 0) ∧ (seat k).cmds = [] ∧
       Fed k 0x910#12 (imm 6#12) (.im 6#64 64) ∧ Fed k 0x910#12 (imm 0#12) (.im 0#64 64) ∧ e.toNat / 2 ^ 40 % 4 = 0 ∧
       e.toNat / 2 ^ 16 % 2 ^ 24 % 4 = 0) ∧
    (let k := mover 0x900 [(0, ref5 0#64), (1, 0x1000#64), (2, 0#64), (14, 2#64)] 128#64
     Fed k 0x911#12 s3 (.sc 128#64) ∧ copyChecks (mid k) 0 (ref5 0#64) 0x1000#64 0#64 128 none = .ok (.glob 0x1000) ∧
       copyChecks (mid k) 0 (ref5 0#64) (ref5 512#64) 0#64 128 none = .ok (.handle 0 5 512) ∧ ownScratchpad 0 (.handle 0 5 512) = true ∧
       ownScratchpad 0 (.glob 0x1000) = false ∧ gating (sitter k) = false ∧
       gating (sitter { k with region := some region0 }) = true) ∧
    (let rs := 128#64 + (256#64 <<< 24)
     let k := mover 0x900 [(0, 0x1000#64), (1, ref5 0#64), (2, 0x2000#64), (3, rs), (14, 2#64)] 4#64
     let o := go k 0x912#12 s3 (.sc 4#64)
     Fed k 0x912#12 s3 (.sc 4#64) ∧ scOp (mid k) o 3 = .ok rs ∧ checkRef (mid k) 0 0x2000#64 (4 * 4) 4 [0, 1, 2] = .ok (.glob 0x2000) ∧
       checkRef (mid k) 0 0x1000#64 0 4 [0, 1, 2, 3] = .ok (.glob 0x1000) ∧ refCore (ref5 0#64) = 0 ∧
       checkRef (mid k) 0 (ref5 0#64) (4 * 128) 4 [1, 4] = .ok (.handle 0 5 0) ∧
       (let k := mover 0x900 [(0, ref5 0#64), (1, 0x1000#64), (2, 0x2000#64), (3, rs), (14, 2#64)] 4#64
        Fed k 0x913#12 s3 (.sc 4#64) ∧ refTag (ref5 0#64) = 1 ∧ checkRef (mid k) 0 (ref5 0#64) (4 * 128) 4 [1, 2] = .ok (.handle 0 5 0))) ∧
    (let k := mover 0x900 [(0, 0x1000#64), (1, 0x2000#64), (2, 0#64), (14, 2#64)] 16#64
     Fed k 0x914#12 s3 (.sc 16#64) ∧ copyRef (mid k) 0 0x1000#64 1 0 (16 * 8) 4 [0, 1, 2, 3] = .ok (.glob 0x1000) ∧
       copyRef (mid k) 0 0x2000#64 1 0 (8 * 16) 4 [0, 1, 2, 3] = .ok (.glob 0x2000) ∧ Fed k 0x914#12 (imm 0#12) (.im 0#64 64)) ∧
    (let k := mover 0x900 [(0, 0x1000#64), (1, ref5 0#64), (2, 0#64), (3, 0#64), (4, 0x01000013#64), (5, 0#64), (6, 0#64), (14, 2#64)] 128#64
     let o := go k 0x915#12 s3 (.sc 128#64)
     Fed k 0x915#12 s3 (.sc 128#64) ∧ scOp (mid k) o 4 = .ok 0x01000013#64 ∧ scOp (mid k) o 6 = .ok 0#64 ∧
       copyChecks (mid k) 0 0x1000#64 (ref5 0#64) 0#64 128 (some [1, 4]) = .ok (.handle 0 5 0) ∧ (tileOf (sitter k) 3).mode = .W ∧
       ∃ x, checkTileOp (mid k) o (tileOpOf 0#64 0#64 0#64 0x01000013#64) false [1, 2] .W = .ok x) ∧
    (let k := mover 0x900 [(0, 0x1000#64), (1, 5#64), (14, 0x4000#64)] 7#64
     let o := go k 0x916#12 s3 (.sc 7#64)
     Fed k 0x916#12 s3 (.sc 7#64) ∧ scOp (mid k) o 1 = .ok 5#64 ∧ scOp (mid k) o 14 = .ok 0x4000#64 ∧
       checkRef (mid k) 0 0x1000#64 8 8 [0] = .ok (.glob 0x1000) ∧ (0x4000#64).toNat / 2 ^ 10 % 16 ≤ 10 ∧
       10 < (0x2C00#64).toNat / 2 ^ 10 % 16) ∧
    (let k := mover 0x900 [(0, 0x1000#64), (1, ref5 0#64), (14, 2#64)] (ref5 16#64)
     Fed k 0x917#12 s3 (.sc (ref5 16#64)) ∧ Fed k 0x91C#12 s3 (.sc (ref5 16#64)) ∧ checkRef (mid k) 0 0x1000#64 32 32 [0] = .ok (.glob 0x1000) ∧
       checkRef (mid k) 0 (ref5 16#64) 16 4 [1] = .ok (.handle 0 5 16) ∧ checkRef (mid k) 0 0x1000#64 4 4 [0] = .ok (.glob 0x1000) ∧
       checkRef (mid k) 0 (ref5 0#64) 16 16 [1] = .ok (.handle 0 5 0)) ∧
    (let k := mover 0x900 [(0, 0#64), (1, 1#64), (14, 2#64)] 0#64
     let s := { seat k with launches := [{ placedLaunch with sys := true }] }
     Feeds s 0x91D#12 s3 (.sc 0#64) (sitter k) ∧ (coreLaunch (fed s (sitter k)) 0).sys = true ∧ (coreLaunch (mid k) 0).sys = false ∧
       checkRef (fed s (sitter k)) 0 0#64 1 (pageSizeAt (fed s (sitter k)) 0 0) [0] = .ok (.glob 0)) := by
  refine ⟨⟨fed_of ?_, fed_of ?_, ok_of ?_, ok_of ?_, ok_of ?_, ok_of ?_, ok_of ?_, ok_of ?_, ?_, fed_of ?_, fed_of ?_, ?_, ?_⟩,
    ⟨fed_of ?_, ok_of ?_, ok_of ?_, ?_, ?_, ?_, ?_⟩,
    ⟨fed_of ?_, ok_of ?_, ok_of ?_, ok_of ?_, ?_, ok_of ?_, fed_of ?_, ?_, ok_of ?_⟩, ⟨fed_of ?_, ok_of ?_, ok_of ?_, fed_of ?_⟩,
    ⟨fed_of ?_, ok_of ?_, ok_of ?_, ok_of ?_, ?_, some_of ?_⟩, ⟨fed_of ?_, ok_of ?_, ok_of ?_, ok_of ?_, ?_, ?_⟩,
    ⟨fed_of ?_, fed_of ?_, ok_of ?_, ok_of ?_, ok_of ?_, ok_of ?_⟩, fed_of ?_, ?_, ?_, ok_of ?_⟩ <;> decide +kernel

/-- WAITC of a counter that has and has not reached its number; STAT; DRAIN and FLUSH with a command and without; SA.OP and SA.PUSH of sums in
handle 5, with operation 3 and with a GLOBAL base. -/
theorem witness_CountersAndUpdates :
    (let k := { mover 0x900 [(0, 3#64), (14, 0x80#64)] 7#64 with counters := [(3, 0x01000007#32)] }
     let o := go k 0x918#12 s3 (.sc 7#64)
     Fed k 0x918#12 s3 (.sc 7#64) ∧ scOp (mid k) o 0 = .ok 3#64 ∧ scOp (mid k) o 14 = .ok 0x80#64 ∧ scVal o = .ok 7#64 ∧
       ((Map.get (sitter k).counters 3 0#32).setWidth 24 - (7#64).setWidth 24 : BitVec 24).msb = false ∧
       ((Map.get (sitter k).counters 3 0#32).setWidth 24 - (8#64).setWidth 24 : BitVec 24).msb = true ∧ Fed k 0x91B#12 s3 (.sc 7#64) ∧
       Fed k 0x919#12 s3 (.sc 7#64) ∧ Fed k 0xA12#12 s3 (.sc 7#64) ∧ gating (sitter k) = false ∧ (seat k).cmds = []) ∧
    (copy9.kind = .get ∧ copy9.core = 0 ∧ copy9.wp = ⟨1, 1⟩) ∧
    (let k := { mover 0xA00 [(0, ref5 0#64), (1, 2#64), (3, 0#64), (14, 1#64)] 7#64 with ve := [(0x43, 7#4096)] }
     let o := go k 0xA10#12 s3 (.sc 7#64)
     Fed k 0xA10#12 s3 (.sc 7#64) ∧ scOp (mid k) o 0 = .ok (ref5 0#64) ∧ scOp (mid k) o 1 = .ok 2#64 ∧ scOp (mid k) o 3 = .ok 0#64 ∧
       scOp (mid k) o 14 = .ok 1#64 ∧ scVal o = .ok 7#64 ∧ wellFormedRef (ref5 0#64) = true ∧ refTag (ref5 0#64) = 1 ∧
       saBase (mid k) 0 (ref5 0#64) 0 0 0 = .ok 0 ∧ saPlaces (mid k) 0 (ref5 0#64) 4 [2] = .ok [.spad 0 5 8] ∧
       (0x31#64).toNat / 16 % 4 = 3 ∧ ¬(refTag 0x1000#64 = 1 ∨ refTag 0x1000#64 = 2 ∨ refTag 0x1000#64 = 3)) ∧
    (let k : Core := { mover 0xA00 [] 7#64 with
       ve := [(0x43, 7#4096)], latch := [(0xA00, at_ (ref5 0#64)), (0xA01, ⟨.ve 6#4096, 0, 0#12⟩), (0xA02, ⟨.ma 5#1024, 0, 0#12⟩),
         (0xA03, at_ 0#64), (0xA0E, at_ 1#64)] }
     let o := go k 0xA11#12 v3 (.ve 7#4096)
     Fed k 0xA11#12 v3 (.ve 7#4096) ∧ veOp (mid k) o 1 = .ok 6#4096 ∧ maOp (mid k) o 2 = .ok 5#1024 ∧ veVal o = .ok 7#4096 ∧
       ∃ ls, saPlaces (mid k) 0 (ref5 0#64) 4
         (((List.range 128).filter fun j => !(5#1024).getLsbD j).map fun j => (laneAt 32 6#4096 j).toNat) = .ok ls) := by
  refine ⟨⟨fed_of ?_, ok_of ?_, ok_of ?_, ok_of ?_, ?_, ?_, fed_of ?_, fed_of ?_, fed_of ?_, ?_, ?_⟩, ?_,
    ⟨fed_of ?_, ok_of ?_, ok_of ?_, ok_of ?_, ok_of ?_, ok_of ?_, ?_, ?_, ok_of ?_, ok_of ?_, ?_, ?_⟩,
    fed_of ?_, ok_of ?_, ok_of ?_, ok_of ?_, some_of ?_⟩ <;> decide +kernel

/-- A loop nest's body: two outputs, or two terms where nred is 1, at 4-byte strides. -/
def nest2 (nred func ty : Nat) : BitVec 224 :=
  BitVec.ofNat 224 (nred + func * 2 ^ 3 + ty * 2 ^ 8 + 2 ^ 12 + 2 ^ 92 + 2 ^ 132 + 2 ^ 172 + 2 * 2 ^ 212 + 2 * 2 ^ 216 + 2 * 2 ^ 220)
/-- A core with handle 5, and references to bytes 0, 1,024 and 2,048 of it in s10, s11 and s12. -/
def nester : Core := { handles := [(5, bank7)], sc := [(10, ref5 0#64), (11, ref5 1024#64), (12, ref5 2048#64)] }

/-- An element-wise nest of I32 and reductions of I32 and F32, their operands in handle 5; a type that LN does not take, and a nest of too
many outputs. -/
theorem witness_LoopNest :
    let s := seat nester
    let s1 := modCore s 0 fun k => agePends (retireAll k)
    let k := coreOf s1 0
    (scalarAt k (physS k 10) = ref5 0#64 ∧ scalarAt k (physS k 11) = ref5 1024#64 ∧ scalarAt k (physS k 12) = ref5 2048#64) ∧
    (let n := Nest.of 0 (nest2 0 1 8)
     n.nred = 0 ∧ n.func = 1 ∧ n.ty = 8 ∧ checkNest s1 n 0 (ref5 0#64) = .ok (.handle 0 5 0) ∧
       checkNest s1 n 1 (ref5 1024#64) = .ok (.handle 0 5 1024) ∧ checkNest s1 n 2 (ref5 2048#64) = .ok (.handle 0 5 2048) ∧
       readElem s1 n (.handle 0 5 0) (ref5 0#64) 0 = .ok 0 ∧ readElem s1 n (.handle 0 5 1024) (ref5 1024#64) 0 = .ok 0 ∧
       ∃ u, storeAt s1 0 (.handle 0 5 2048) [0#8, 0#8, 0#8, 0#8] = .ok u) ∧
    (∀ ty ∈ [8, 0], let n := Nest.of 0 (nest2 1 0x10 ty)
     n.nred = 1 ∧ n.func = 0x10 ∧ n.ty = ty ∧ readElem s1 n (.handle 0 5 0) (ref5 0#64) 0 = .ok 0 ∧
       readElem s1 n (.handle 0 5 0) (ref5 0#64) 4 = .ok 0) ∧
    (Nest.of 0 (nest2 0 0 3)).ty ∉ [0, 1, 2, 8, 9, 10, 11, 12, 13] ∧
    2 ^ 48 < (List.range 5).foldl (fun p l => p * lnExtent ((2 ^ 80 - 1) <<< 12) l) 1 := by
  refine ⟨?_, ⟨?_, ?_, ?_, ok_of ?_, ok_of ?_, ok_of ?_, ok_of ?_, ok_of ?_, some_of ?_⟩, ?_, ?_, ?_⟩
  case refine_11 =>
    intro ty h
    simp only [List.mem_cons, List.not_mem_nil, or_false] at h
    rcases h with rfl | rfl <;> refine ⟨?_, ?_, ?_, ok_of ?_, ok_of ?_⟩ <;> decide +kernel
  all_goals decide +kernel

/-! ## Events of cores and commands -/

/-- A state about to run an event. -/
def poke (s : State) (a : Arg) : State := { s with arg := a }
/-- The seat at a bundle of one header and no move, in a wait for time x. -/
def bided (x : Word) : State :=
  { placeInstruction State.reset 0x80000000 with
    agenda := [], cores := [(0, { mode := .running, wp := ⟨1, 1⟩, pc := placedCode, waitUntil := some x })] }
/-- A request of engine 0 for copy 9. -/
def req5 (kind : Nat) (again : Bool) : Req := { seq := 5#32, cmd := 9, pkt := { kind := kind, agent := 0, seq := 5#32 }, dst := 1, reissued := again }
/-- A state with copy 9 of a kind in progress, and that request. -/
def asked (kind : CmdKind) (r : Req) : State :=
  { seat {} with cmds := [{ copy9 with kind := kind }], engines := [(0, { reqs := [r] })], chron := 20000 }

theorem witness_CoreEvents :
    (let s := poke (seat { pends := [{ reg := 3, left := 0, fixed := true }], flight := [(6, 7)] }) { index := 3 }
     (coreOf s 0).pends.find? (fun p => p.reg = 3) = some { reg := 3, left := 0, fixed := true } ∧
       (coreOf s 0).flight.find? (fun x => x.1 = 6) = some (6, 7)) ∧
    (let u : Unretired := { addr := placedCode, regs := [3], consumes := 2#4, flags := 1#6 }
     let s := seat { window := [u], pends := [{ reg := 3, left := 1, fixed := true }] }
     (coreOf s 0).mode = .running ∧ (coreOf s 0).window = [u] ∧ (∀ p ∈ (coreOf s 0).pends, p.reg = 3 → p.cmd = none) ∧
       ∃ p ∈ (coreOf s 0).pends, p.reg = 3) ∧
    (let s := poke (neighbours { held := [(2, 0, 5#4096)] }) { index := 2 }
     let k := coreOf s 0
     k.held.find? (fun h => h.1 = 2) = some (2, 0, 5#4096) ∧ k.held.find? (fun h => h.2.1 = 0) = some (2, 0, 5#4096) ∧
       portCore s 0 0 = some 1 ∧ sameGroup s 0 1 = true ∧ isEmpty (coreOf s 1) 0x90 = true) ∧
    ((coreOf (bided 0#64) 0).waitUntil = some 0#64 ∧ (chronOf (bided 0#64) 0 - 0#64).msb = false ∧
       (chronOf (bided 9#64) 0 - 9#64).msb = true ∧
       bundleAt (bided 0#64) 0 = .ok { addr := placedCode, len := 1, rep := 0, sync := false, mark := false, eos := false, stick := [],
                                       words := [], moves := [], longs := [] }) ∧
    (let ch : Chart := { failing := [7], evacs := [{ logical := 3, src := 3, dst := 9, ptr := 31, unmap := none, fall := false },
                                                   { logical := 4, src := 4, dst := 8, ptr := 5, unmap := none, fall := false }] }
     let s := deep { spadChart := ch } 0x40000
     (chartOf (coreOf s 0) .spad).failing.contains 7 = true ∧ (coreOf s 0).hm = false ∧ (coreOf s 0).region = none ∧
       (coreLaunch s 0).traph ≠ 0 ∧ (∃ e, (chartOf (coreOf s 0) .spad).evacs.find? (fun e => e.logical = 3) = some e ∧
         bankBytes .spad ≤ 128 * (e.ptr + 1) ∧ e.fall = false ∧ (chartOf (coreOf s 0) .spad).failing.contains e.dst = false) ∧
       ∃ e, (chartOf (coreOf s 0) .spad).evacs.find? (fun e => e.logical = 4) = some e ∧ 128 * (e.ptr + 1) < bankBytes .spad) ∧
    (let s := { seat {} with cmds := [copy9] }
     findCmd s 9 = some copy9 ∧ copy9.begun = true ∧ copy9.fault = none ∧ copy9.pieces = [] ∧ copy9.waitList = false ∧ copy9.updates = [] ∧
       copy9.follow = none ∧ copy9.unfilled = [] ∧ reqsOf s (engineOf 0) 9 = [] ∧ heldByCore s ⟨1, 1⟩ = some 0) ∧
    (∀ x ∈ [(CmdKind.atom, 3, false), (CmdKind.get, 1, true), (CmdKind.get, 1, false)], let r := req5 x.2.1 x.2.2
       findReq (asked x.1 r) 0 5#32 = some r ∧ r.sentAt + Config.requestTimeout ≤ (asked x.1 r).chron ∧
         beyondMeridian (asked x.1 r) 0 r = false ∧ findCmd (asked x.1 r) 9 = some { copy9 with kind := x.1 } ∧
         heldAtLink (asked x.1 r) 0 r = false) ∧
    (let r : Req := { req5 2 false with piece := none }
     let s := { asked .put r with eq := { linkShut := true }, cxlReqs := [{ agent := 0, seq := 5#32, hpa := 0x9000, kind := .wrInv }] }
     heldAtLink s 0 r = true ∧ beyondMeridian s 0 r = false ∧ r.piece = none) ∧
    (let s := deep {} 0x40000
     (coreOf s 0).mode = .running ∧ (coreOf s 0).hm = false ∧ (coreOf s 0).region = none ∧ (coreLaunch s 0).traph ≠ 0) ∧
    (let s := { deep {} 0x40000 with cmds := [{ copy9 with fault := some (0x0030#16, 5#64) }] }
     findCmd s 9 = some { copy9 with fault := some (0x0030#16, 5#64) } ∧ isMachineCheck 0x0030#16 = false ∧ heldByCore s ⟨1, 1⟩ = some 0 ∧
       (coreOf s 0).mode = .running ∧ (findWp s ⟨1, 1⟩).isSome = true ∧ (launchOf s 1).traph ≠ 0) := by
  refine ⟨?_, ⟨?_, ?_, ?_, ⟨{ reg := 3, left := 1, fixed := true }, ?_, ?_⟩⟩, ?_, ⟨?_, ?_, ?_, ok_of ?_⟩, ⟨?_, ?_, ?_, ?_, ⟨_, rfl, ?_⟩, ⟨_, rfl, ?_⟩⟩, ?_, ?_, ?_, ?_, ?_⟩
  all_goals decide +kernel

/-! ## Events of the dispatchers -/

/-- The package of `seat` with core 0 idle, the waypoints of a list, the levels of a list, at Chronometer t. -/
def berth (ws : List Waypoint) (ls : List LevelWord) (t : Nat) : State :=
  { seat {} with cores := [], waypoints := ws, chron := t, launches := [{ placedLaunch with levels := ls, traph := 0x40000 }] }
/-- A waypoint that waits, and a level of n points. -/
def ready1 : Waypoint := { placedWaypoint with state := .ready }
def level_ (n : Nat) (step : Bool) (domain : Nat) : LevelWord :=
  { extent := n, domain := domain, scope := 1, step := step, chunk := false, cidx := 0, rmask := 0#16 }
/-- A class-0 waypoint pinned to core 0, where another has run since 0; a pre-empted one. -/
def pinned1 : Waypoint := { ready1 with key := ⟨1, 2⟩, aff := 2 }
def crowded : State :=
  { seat {} with waypoints := [placedWaypoint, pinned1], chron := 100000, launches := [{ placedLaunch with prio := 2 }] }

/-- A READY waypoint, one with a frame, a range; a group of two points on an empty package and one confined to a core; a waypoint that has
waited, at the head and behind; a die that steals a waypoint and half a range. -/
theorem witness_Dispatching :
    (∀ w ∈ [ready1, { ready1 with frame := some {} }, { ready1 with range := true, hi := 3 }], let s := berth [w] [level_ 1 false 0] 0
     (coreOf s 0).mode = .idle ∧ coreOpen s 0 = true ∧ choice s 0 = some w ∧ w.fault = none ∧ findWp s ⟨1, 1⟩ = some w ∧
       freeWpid s 1 = some 2 ∧ ready1.sval.length = 4) ∧
    (let a := { ready1 with level := 1, parent := 1 }
     let b := { ready1 with level := 1, parent := 1, key := ⟨1, 2⟩, lo := 1, hi := 2 }
     let s := berth [a, b] [level_ 1 false 0, level_ 2 true 4] 0
     let l := launchOf s 1
     liveMembers s ⟨1, 1, 1⟩ = [a, b] ∧ levelWord l 1 = some (level_ 2 true 4) ∧ coversAll (membersOf s ⟨1, 1, 1⟩) 2 = true ∧ l.granted = true ∧
       l.held = false ∧ l.ending = .running ∧ idsEnough s 1 [a, b] = true ∧
       ((groupRuns s l a 2).find? (runFits s l [a, b])).isSome = true) ∧
    (let a := { ready1 with level := 1, parent := 1 }
     let s := berth [a] [level_ 1 false 0, level_ 2 true 5] 0
     groupRuns s (launchOf s 1) a 2 = [] ∧ (launchOf s 1).traph ≠ 0) ∧
    (let w := { ready1 with prio := 1 }
     findWp (berth [w] [level_ 1 false 0] 100000) ⟨1, 1⟩ = some w ∧ isEntry (berth [w] [level_ 1 false 0] 100000) w = true) ∧
    (findWp crowded ⟨1, 2⟩ = some pinned1 ∧ isEntry crowded pinned1 = true ∧ pinned1.prio = 0 ∧ pinned1.readyAt + 20000 ≤ crowded.chron ∧
       ((List.range 384).all fun c => !((coreOf crowded c).mode = .idle && coreOpen crowded c && mayTake crowded c pinned1)) = true ∧
       victim crowded (launchOf crowded 1) pinned1 = some 0) ∧
    (∀ w ∈ [ready1, { ready1 with range := true, hi := 3 }], let s := berth [w] [level_ 1 false 0] 2000
     dieServes s 1 = true ∧ s.mgmt.cdrain.getLsbD 1 = false ∧ entriesOf s 1 = [] ∧ (disp s 1).emptySince + 2000 * ((disp s 1).steals + 1) ≤ s.chron ∧
       (nearestDies s 1).findSome? (stealable s 1) = some w) := by
  refine ⟨?_, ?_, ?_, ?_, ?_, ?_⟩ <;> decide +kernel

/-- A handle of two banks, one of which is owed a retirement, in a core that has no other bank left. -/
def overfull (w : Waypoint) : State :=
  { seat { handles := [(5, { bank7 with banks := [7, 8] })], spadChart := { unmapped := (List.range 384).filter (fun b => b < 7 || 8 < b), owed := [(7, 7)] } } with waypoints := [w] }

/-- A pre-empted core whose launch goes on or has ended, and one that stops; a waypoint that must leave a core in quarantine; loss of capacity
past the limit and below it; a cluster due for test, one deferred, one that a machine check sent, one under test; a suspended waypoint. -/
theorem witness_Preemption :
    (∀ e ∈ [Ending.running, .cancelled], let s := { seat {} with
       waypoints := [{ placedWaypoint with preempt := true }], launches := [{ placedLaunch with ending := e }] }
     findWp s ⟨1, 1⟩ = some { placedWaypoint with preempt := true } ∧ (coreOf s 0).mode = .running ∧ (launchOf s 1).ending = e) ∧
    (let s := { seat {} with waypoints := [{ placedWaypoint with preempt := true }], cores := [(0, { mode := .stopping, wp := ⟨1, 1⟩ })] }
     (findWp s ⟨1, 1⟩).isSome = true ∧ (coreOf s 0).mode = .stopping) ∧
    (let s := { seat { handles := [(5, { bank7 with owner := ⟨1, 2⟩ })], quarantined := true } with waypoints := [pinned1] }
     mustEvacuate s pinned1 = true ∧ mayEvacuate s (anchorOf pinned1) pinned1.key = true ∧ handlesOf s (anchorOf pinned1) pinned1.key ≠ []) ∧
    (let s := overfull placedWaypoint
     banksShort s 0 ≠ 0 ∧ evacuationDue s 0 = false ∧ (launchOf s 1).rlimit ≤ placedWaypoint.rcount) ∧
    (let s := { overfull placedWaypoint with launches := [{ placedLaunch with rlimit := 1 }] }
     placedWaypoint.rcount < (launchOf s 1).rlimit ∧ (coreOf s 0).region = none ∧ s.cmds = [] ∧ placedWaypoint.startHandles = []) ∧
    (let s := { seat {} with chron := 20000000000 }
     (disp s 0).underTest = none ∧ (disp s 0).urgentTest = [] ∧ s.mgmt.devState = 3 ∧ (disp s 0).testPeriod < testPeriodNow s 0 ∧
       testDeferred s 0 0 = false ∧ testDeferred { s with mgmt := { s.mgmt with cdrain := 1#8 } } 0 0 = true ∧
       (disp { s with disps := [(0, { urgentTest := [3] })] } 0).urgentTest = [3] ∧
       clusterDrained { s with disps := [(0, { underTest := some 1 })] } 0 1 = true) ∧
    (let s := berth [{ ready1 with state := .suspended }] [level_ 1 false 0] 0
     findWp s ⟨1, 1⟩ = some { ready1 with state := .suspended } ∧ heldByCore s ⟨1, 1⟩ = none) := by
  refine ⟨?_, ?_, ?_, ?_, ?_, ?_, ?_⟩ <;> decide +kernel

/-! ## Events of homes and requesters -/

/-- A state in which station 1, of M0, has taken packet p; its home is h, and s has what is in memory. -/
def arrived (s : State) (h : Home) (p : Packet) : State := { s with inbox := [(1, p)], homes := [(0, h)] }
/-- A request of engine 0 with number 5 for address 0x1000. -/
def request (kind dlen : Nat) : Packet := { kind := kind, agent := 0, seq := 5#32, dlen := dlen, paddr := 0x1000 }
/-- Device memory with a byte at 0x1000, and a chunk word at 0x2000: next 0, end 100, parties 2. -/
def stocked : State := putDram (putDram (seat {}) 0x1000 [7#8]) 0x2000 (bytesOf (100 * 2 ^ 64 + 2 * 2 ^ 128) 24)
theorem serves_of {s : State} {kind d : Nat} {p : Packet} (h : (match takeKind s kind with
    | some (st, q, _) => decide (st = 2 * d + 1 ∧ dpaExists q.paddr = true ∧ forwardTo s q.paddr = some p.paddr ∧ dpaDie p.paddr = d ∧
        p.paddr / 128 ∉ (home s d).held ∧ p = { q with paddr := p.paddr })
    | none => false) = true) : Serves s kind d p := by
  cases hk : takeKind s kind with
  | none => simp [hk] at h
  | some x =>
    obtain ⟨st, q, s1⟩ := x
    simp only [hk, decide_eq_true_eq] at h
    obtain ⟨rfl, h2, h3, h4, h5, h6⟩ := h
    exact ⟨s1, q, hk, h2, h3, h4, h5, h6⟩

/-- A home that has a record of number 5, and one that is offline. -/
def recorded : Home := { atoms := [{ agent := 0, seq := 5#32, result := some 3#64 }], seen := [(0, 5#32)] }
/-- A numbered store at anchor M0 whose replica at M1 has not applied it, and a migration of a page of M0 that has copied all but a line. -/
def mcast0 : Mcast := { no := 0, pkt := request 0xC 1, dst := 0, reply := request 9 0, left := [Config.dieSpan], owed := [Config.dieSpan] }
def migration0 (ptr : Nat) : Migration :=
  { entryAt := 0x12000, oldDie := 0, oldL := 0x100000, size := 65536, newDie := 0, newL := 0x200000, newPlc := 1, ptr := ptr, cmd := 9 }

/-- A request of every kind served at its home, poisoned and clean, fresh and repeated, online and offline; one in a page that has moved to
M1; a numbered store at a replica, a migrating line, a migration's end, join decrements of 0 and 7, a packet of a reserved kind. -/
theorem witness_HomeRequests :
    (∀ k ∈ [1, 2, 3, 5, 6, 7], Serves (arrived stocked {} (request k 2)) k 0 (request k 2)) ∧
    Serves (arrived stocked {} { request 4 8 with paddr := 0x2000 }) 4 0 { request 4 8 with paddr := 0x2000 } ∧
    Serves (arrived stocked recorded (request 3 2)) 3 0 (request 3 2) ∧ Serves (arrived stocked { online := false } (request 3 2)) 3 0 (request 3 2) ∧
    poisonIn (arrived { stocked with poisoned := [0x200] } {} (request 1 2)) 0x1000 8 = true ∧
    poisonIn (arrived stocked {} (request 1 2)) 0x1000 8 = false ∧ replicasOf (arrived stocked {} (request 3 2)) (request 3 2) = [0x1000] ∧
    (let s := arrived { asked .put { req5 2 false with piece := some { src := .zeros, dst := .repl [0x1000, Config.dieSpan], len := 8 } } with
       inbox := [] } { online := false } (request 2 2)
     Serves s 2 0 (request 2 2) ∧ replicasOf s (request 2 2) = [0x1000, Config.dieSpan] ∧ goesToAll s (request 2 2) = true) ∧
    (let s := arrived stocked { forwarding := [{ oldPa := 0x1000, oldL := 0x1000, size := 0x1000, newDie := 1, newL := 0 }] } (request 1 2)
     (takeKind s 1).isSome = true ∧ forwardTo s 0x1000 = some Config.dieSpan ∧ 1 ≠ 2 * dpaDie Config.dieSpan + 1) ∧
    (let s := arrived stocked { migrations := [{ migration0 0 with oldL := 0x1000 }] } (request 1 2)
     dpaExists 0x1000 = true ∧ forwardTo s 0x1000 = none) ∧ dpaExists (8 * Config.dieSpan) = false ∧
    (let s := { seat {} with
       inbox := [(3, { kind := 0xC, agent := 64, seq := 0#32, paddr := Config.dieSpan })], homes := [(0, { mcasts := [mcast0] })] }
     (takeKind s 0xC).map (fun x => (x.1, x.2.1.agent, x.2.1.seq)) = some (3, 64, 0#32) ∧ (home s 0).mcasts = [mcast0] ∧
       Config.dieSpan ∈ mcast0.left ∧ dpaDie Config.dieSpan = 1 ∧ 0 ∉ mcast0.left) ∧
    (let s := { seat {} with
       inbox := [(1, { kind := 0xD, agent := 64, seq := 9#32 })], homes := [(0, { migrations := [migration0 511] })] }
     (takeKind s 0xD).isSome = true ∧ (home s 0).migrations.find? (fun m => m.cmd % 2 ^ 32 = 9) = some (migration0 511) ∧
       (migration0 511).size ≤ 128 * (511 + 1)) ∧
    (let s := { seat {} with homes := [(0, { migrations := [migration0 512] })] }
     (home s 0).migrations.find? (fun m => 128 * m.ptr ≥ m.size) = some (migration0 512)) ∧
    (∀ a ∈ [0x1000, 0x3000], forwardTo { stocked with joinDecs := [{ dpa := a, launch := 1, wpid := 1, core := 0 }] } a = some a) ∧
    dramNat stocked 0x1000 8 = 7 ∧ dramNat stocked 0x3000 8 = 0 ∧ (home stocked 0).online = true ∧ heldLine stocked 0x1000 8 = none ∧
    heldLine { stocked with homes := [(0, { held := [0x20] })] } 0x1000 8 = some 0x20 ∧
    poisonIn { stocked with poisoned := [0x200] } 0x1000 8 = true ∧
    (let s := { stocked with inbox := [(1, request 4 8), (1, request 4 8)] }
     fetchBefore s = false ∧ fetchBefore (poke s { index := 1 }) = true) ∧
    recordHeld (arrived stocked recorded (request 2 2)) 0 (request 2 2) = true ∧
    recordHeld (arrived stocked {} (request 2 2)) 0 (request 2 2) = false ∧ goesToAll (arrived stocked {} (request 2 2)) (request 2 2) = false ∧
    (takeNth (fun x => x.2.kind = 0 || x.2.kind = 15) 0 (arrived stocked {} (request 15 0)).inbox).isSome = true := by
  refine ⟨?_, serves_of ?_, serves_of ?_, serves_of ?_, ?_, ?_, ?_, ⟨serves_of ?_, ?_⟩, ?_, ?_, ?_, ?_, ?_, ?_, ?_, ?_, ?_, ?_, ?_, ?_, ?_, ?_, ?_, ?_, ?_, ?_⟩
  case refine_1 =>
    intro k hk
    apply serves_of
    revert k
    decide +kernel
  all_goals decide +kernel

/-- A request of engine 0 in progress with its answer taken; a chunk fetch into handle 5, a read of 128 bytes into it; an acknowledgement of
a numbered store, the last and not the last; every answer to a core that waits, and a notification. -/
theorem witness_Answers :
    (∀ x ∈ [(8, 1), (9, 2), (0xA, 3), (0xE, 3)],
      let s := arrived (asked (if x.2 = 3 then .atom else .get) (req5 x.2 false)) {} (request x.1 4)
      (takeKind s x.1).isSome = true ∧ findReq s 0 5#32 = some (req5 x.2 false) ∧ (findCmd s 9).isSome = true ∧
        (req5 x.2 false).piece = none ∧ findReq s 0 6#32 = none) ∧
    (let s := { arrived (seat { handles := [(5, bank7)] }) {} (request 8 4) with
       cmds := [{ copy9 with kind := .cfa, dst := ref5 16#64 }], engines := [(0, { reqs := [req5 4 false] })] }
     (takeKind s 8).isSome = true ∧ findReq s 0 5#32 = some (req5 4 false) ∧ handleOf s 0 (refHandle (ref5 16#64)) = some bank7 ∧
       Sound (coreOf s 0) bank7 ∧ 16 + 16 ≤ bank7.size) ∧
    (let q : Piece := { src := .dev 0x1000, dst := .spad 0 5 128, len := 128 }
     let x := { copy9 with unfilled := [(0, 5, 1)] }
     let s := { arrived (seat { handles := [(5, bank7)] }) {} (request 8 32) with
       cmds := [x], engines := [(0, { reqs := [{ req5 1 false with piece := some q }] })] }
     (takeKind s 8).isSome = true ∧ findReq s 0 5#32 = some { req5 1 false with piece := some q } ∧ findCmd s 9 = some x ∧ x.gone = [] ∧
       engineOf 0 = 0 ∧ handleOf s 0 5 = some bank7 ∧ Sound (coreOf s 0) bank7 ∧ reqsOf s 0 9 = [{ req5 1 false with piece := some q }]) ∧
    (let s := { seat {} with
       inbox := [(1, { kind := 9, agent := 64, seq := 0#32, paddr := Config.dieSpan })], homes := [(0, { mcasts := [mcast0] })] }
     (takeKind s 9).isSome = true ∧ (home s 0).mcasts = [mcast0] ∧ mcast0.owed.filter (· ≠ Config.dieSpan) = [] ∧
       mcast0.owed.filter (· ≠ 0) ≠ []) ∧
    (let s := { seat {} with
       inbox := [(0, { kind := 0xB, agent := 0, seq := 0#32, status := 2, opa := 0x100001000#64 })],
       cores := [(0, { mode := .answer, wp := ⟨1, 1⟩, pc := placedCode })] }
     (takeKind s 0xB).isSome = true ∧ (0x100001000#64).toNat / 2 ^ 32 = 1 ∧ (0x100001000#64).toNat / 2 ^ 12 % 2 ^ 20 = 1 ∧
       heldByCore s ⟨1, 1⟩ = some 0 ∧ (coreOf s 0).mode = .answer ∧ findWp s ⟨1, 1⟩ = some placedWaypoint ∧
       placedWaypoint.preempt = false ∧ (launchOf s 1).ending = .running ∧ heldByCore s ⟨1, 2⟩ = none) := by
  refine ⟨?_, ⟨?_, ?_, ?_, bank7_sound _ rfl, ?_⟩, ⟨?_, ?_, ?_, ?_, ?_, ?_, bank7_sound _ rfl, ?_⟩, ?_, ?_⟩ <;> decide +kernel

/-! ## Events of the rings -/

/-- The launch of `ringed` with its stream granted: position 63 of lane 7 is the stream's; station 0 holds an entry there, slot x stands at
pass h, and core 0 holds handle 5. -/
def stream1 (e : AlmEntry) (x : Slot) (off : Bool) : State :=
  { ringed { handles := [(5, bank7)] } off with
    owners := [(slotKey .east 7 63, { cls := 1, stream := 1 })], slots := [(slotKey .east 7 63, x)],
    stations := [(0, { almanac := [(slotKey .east 7 63, e)], passThrough := off })],
    arg := { dir := .east, lane := 7, pos := 63 } }
/-- An entry of an operation for a stream, one element of 8 bytes at the start of handle 5, flag 1 at its end. -/
def entry1 (op id : Nat) : AlmEntry :=
  { word := BitVec.ofNat 64 (op * 2 ^ 60 + 2 ^ 57 + 2 ^ 51 + id * 2 ^ 41 + 2 ^ 23 + 5 * 2 ^ 9), launch := 1 }
/-- A full slot of one element. -/
def full1 : Slot := { valid := true, len := 1, cls := 1, stream := 1, payload := 5#2048 }
/-- A full slot that carries a request of engine 0 from station a to station b, past its first h stations. -/
def mail (a b h : Nat) : Slot := { valid := true, len := 4, ptype := 3, src := a, dst := b, payload := encodePacket (request 1 2), hops := h }
/-- A slot of position 5 of lane 3, which belongs to nobody, and a packet that waits at station 0 since tick 0. -/
def loose (x : Slot) (ws : List Waiting) (t : Nat) : State :=
  { asked .get (req5 1 false) with
    slots := [(slotKey .east 3 5, x)], waiting := ws, arg := { dir := .east, lane := 3, pos := 5 }, chron := t }
def waiting0 : Waiting := { station := 0, dst := 1, pkt := request 1 2 }

/-- Pass-through; a control position with a token; no entry; one of another stream, one whose fragment number differs, one of every operation
that fires, with its fragment and without; a bad CRC; a packet at its destination, at its source, elsewhere; a mark, a position to reclaim;
a fragment to stage; a packet to inject, and one starved. -/
theorem witness_SlotPasses :
    (station (stream1 {} full1 true) 0).passThrough = true ∧
    (let s := { seat {} with tokens := [{ kind := 4, origin := 0 }] }
     (station s 0).passThrough = false ∧ (ownerOf s (slotKey .east 0 0)).cls = 2 ∧ (s.tokens[0]?).isSome = true) ∧
    (let key := slotKey .east 7 63
     (∀ e ∈ [{}, entry1 2 1, entry1 2 9], (ownerOf (stream1 e full1 false) key).cls = 1 ∧ (station (stream1 e full1 false) 0).passThrough = false ∧
        entryAt (stream1 e full1 false) 0 key = e) ∧
     armed {} = false ∧ armed (entry1 2 9) = true ∧ entryStream (entry1 2 9) ≠ 1 ∧ slotMatches (entry1 2 1) { full1 with seq := 1#16 } = false ∧
     (∀ op ∈ [1, 2, 3, 4],
       let x : Slot := if op = 1 then {} else full1
       let e := entry1 op 1
       let s := stream1 e x false
       armed e = true ∧ entryStream e = 1 ∧ slotMatches e x = true ∧ formatMismatch s 0 e x = false ∧
         extentOf s 0 e 0 = some (.handle 0 5 0) ∧ converts s 0 e = false ∧ e.chunk = none ∧ entryOp e = op ∧
         stagedNow s 0 e = some { bytes := 0#2048, poison := false } ∧ entryRep e = 0 ∧ entryFe e = true) ∧
     (∀ op ∈ [1, 3], let s := { stream1 (entry1 op 1) {} false with
         cores := [(0, { handles := [(5, bank7)], spadLines := [(224, .empty)], mode := .running, wp := ⟨1, 1⟩ })] }
       extentOf s 0 (entry1 op 1) 0 = some (.handle 0 5 0) ∧ stagedNow s 0 (entry1 op 1) = none) ∧
     handleOf (stream1 {} full1 false) 0 5 = some bank7 ∧ Sound (coreOf (stream1 {} full1 false) 0) bank7) ∧
    (let key := slotKey .east 3 5
     (∀ x ∈ [mail 2 0 0, mail 0 5 0, mail 2 5 0, { thr := true }], (ownerOf (loose x [] 0) key).cls = 0 ∧ slotOf (loose x [] 0) key = x) ∧
     (decodePacket (mail 0 5 0).payload).agent = 0 ∧ (decodePacket (mail 0 5 0).payload).kind = 1 ∧
     findReq (loose (mail 0 5 0) [] 0) 0 (decodePacket (mail 0 5 0).payload).seq = some (req5 1 false) ∧
     (loose { thr := true } [waiting0] 0).waiting.findIdx? (fun w => w.station = 0 && wayTo 0 w.dst = .east) = some 0 ∧ waiting0.late = none) ∧
    (let s := { stream1 {} { full1 with hops := 15, reclaim := true } false with stations := [] }
     (ownerOf s (slotKey .east 7 63)).cls = 1 ∧ armed (entryAt s 15 (slotKey .east 7 63)) = false ∧ passStation false 15 = 15) ∧
    (let s := stream1 (entry1 1 1) {} false
     ∃ f, readLocal s (.handle 0 5 0) (extentBytes s 0 (entry1 1 1)) = some f) ∧
    (let s := loose (mail 2 5 1) [waiting0] 64
     s.waiting[0]? = some waiting0 ∧ (station s 0).passThrough = false ∧ injection s waiting0 = some (slotKey .east 1 0, 0) ∧
       injection { s with ring := 10, slots := (List.range 8).map fun l => (slotKey .east l 10, mail 2 5 0) } waiting0 = none ∧
       s.ring < waiting0.since + 64 ∧
       (let s1 := { s with ring := 64 }
        waiting0.since + 64 ≤ s1.ring ∧ 3 ∉ (station s1 0).starving ∧ 3 ∉ (station s1 0).marks)) ∧
    (passDue (stream1 {} full1 true) (slotKey .east 7 63) = true ∧ passDue (stream1 (entry1 1 1) {} false) (slotKey .east 7 63) = true ∧
      passDue (loose (mail 2 0 0) [] 0) (slotKey .east 3 5) = true ∧
      passDue (stream1 {} { full1 with hops := 15, reclaim := true } false) (slotKey .east 7 63) = true ∧
      passDue { seat {} with tokens := [{ kind := 4, origin := 0 }] } 0 = true ∧
      passDue { loose (mail 2 0 0) [] 0 with slots := [(slotKey .east 3 5, mail 2 0 0), (slotKey .east 3 1, mail 2 4 0)] } (slotKey .east 3 5) = false) ∧
    (let s := { loose (mail 2 5 0) [waiting0] 64 with ring := 100, stations := [(0, { starving := [3] })] }
     3 ∈ (station s 0).starving ∧ starvedAt s 0 .east = true ∧ (slotOf s (slotKey .east 3 5)).valid = true) ∧
    (let z : StreamReq := { ring := .meridian, chain := false, dir := .east, lane := 7, eqid := 0, pos := 0x8000000000000000#64, flags := [1#64] }
     let s := { stream1 {} { full1 with hops := 15, reclaim := true } false with reclaiming := [z] }
     s.reclaiming = [z] ∧ (∀ p, p < 64 → z.pos.getLsbD p = true → slotKey z.dir z.lane p = slotKey .east 7 63) ∧ streamFlag z 0 0 = true) := by
  refine ⟨?_, ?_, ⟨?_, ?_, ?_, ?_, ?_, ?_, ?_, ?_, bank7_sound _ rfl⟩, ?_, ?_, ⟨_, rfl⟩, ?_, ?_, ?_, ?_⟩ <;> decide +kernel

/-- The members of a step group of two points, at station 0 and, where far, at station 2, their barrier and its token. -/
def gathered (far : Bool) (b : Barrier) (x : Option Token) : State :=
  let w : Waypoint := { placedWaypoint with level := 1, parent := 1, key := ⟨1, 2⟩ }
  let v : Waypoint := { w with key := ⟨1, 3⟩, lo := 1, hi := 2 }
  { deep {} 0x40000 with
    waypoints := [{ placedWaypoint with state := .suspended }, w, v],
    cores := [(0, { mode := .running, wp := ⟨1, 2⟩ }), (if far then 48 else 1, { mode := .running, wp := ⟨1, 3⟩ })],
    barriers := [(⟨1, 1, 1⟩, b)], tokens := x.toList, arg := { group := ⟨1, 1, 1⟩ } }
/-- A barrier token that has taken in members. -/
def barrierToken (ns : List Nat) (lost : Bool) : Token := { kind := 5, key := ⟨1, 1, 1⟩, origin := 0, arrived := ns, lost := lost }
/-- Core 0 with a running call of plan p in slot 0, and a control token of group 7. -/
def called (p : Plan) (q : Call) (x : Token) : State :=
  { ringed { plans := [(0, { launch := 1, plan := p, nextSeq := 1#16, call := some q })] } false with tokens := [x], arg := { index := 7 } }
def token7 (kind : Nat) (ns : List Nat) (lost : Bool) : Token :=
  { kind := kind, group := 7, origin := 0, seq := 1#16, nparty := 2, arrived := ns, count := 16, lost := lost }

/-- A barrier's first token with a member missing and none here; a token that takes in a member here, one that ends the barrier at RG.BAR, one
that finds RG.STEP beside it, a lost one; HANDSHAKE at a party of rank 1, at rank 0 last, and at one whose count differs; GO for a call that
has not started, of F32 too, and for one that has; ABORT; a copy that is lost, its time past and not, and one that is not lost. -/
theorem witness_ControlTokens :
    (∀ x ∈ [(true, { atBar := [2] }, none), (false, {}, none), (true, { atBar := [2, 3] }, some (barrierToken [3] false)),
        (true, { atBar := [2] }, some (barrierToken [] false)), (true, { atBar := [2], atStep := [3] }, some (barrierToken [3] false)),
        (true, {}, some (barrierToken [] true))],
      let s := gathered x.1 x.2.1 x.2.2
      effectiveScope (launchOf s 1) 1 = 1 ∧ (station s 0).passThrough = false ∧ acrossPackages s ⟨1, 1, 1⟩ = false ∧
        barrierTokenOf s ⟨1, 1, 1⟩ = x.2.2 ∧ (liveMembers s ⟨1, 1, 1⟩).map (fun w => w.key.wpid) = [2, 3]) ∧
    arrivedAt (gathered false {} none) ⟨1, 1, 1⟩ 0 = [] ∧ arrivedAt (gathered true { atBar := [2] } none) ⟨1, 1, 1⟩ 0 = [2] ∧
    allArrived (gathered true { atBar := [2, 3] } (some (barrierToken [3] false))) ⟨1, 1, 1⟩ = true ∧
    allArrived (gathered true { atBar := [2], atStep := [3] } (some (barrierToken [3] false))) ⟨1, 1, 1⟩ = true ∧
    (∀ x ∈ [({ plan7 with rank := 1 }, call7 true 0, token7 0x10 [48] false), (plan7, call7 true 0, token7 0x10 [48] false),
        (plan7, { call7 true 0 with count := 17 }, token7 0x10 [48] false), (plan7, call7 true 0, token7 0x11 [] false),
        ({ plan7 with ty := 3 }, call7 true 0, token7 0x11 [] false), (plan7, { call7 true 0 with started := true }, token7 0x11 [] false),
        (plan7, call7 true 0, token7 0x12 [] false)],
      let s := called x.1 x.2.1 x.2.2
      let sl : PlanSlot := { launch := 1, plan := x.1, nextSeq := 1#16, call := some x.2.1 }
      s.tokens.find? (fun t => isToken t x.2.2.kind 7 false) = some x.2.2 ∧ x.2.2.lost = false ∧ partiesAt s 0 7 false = [(0, 0, sl, x.2.1)] ∧
        0 ∉ x.2.2.arrived ∧ Map.find (coreOf s 0).plans 0 = some sl ∧ x.2.1.seq = x.2.2.seq ∧ s.cmds = [] ∧ x.2.1.running = true) ∧
    sourceExponent (called plan7 (call7 true 0) (token7 0x10 [48] false)) 0 (slot7 (some (call7 true 0))) (call7 true 0) = some (-126) ∧
    (launchOf (called plan7 (call7 true 0) (token7 0x11 [] false)) 1).streams[0]?.isSome = true ∧ plan7.chunks ≠ [] ∧
    (let s := { gathered true { atBar := [2] } (some (barrierToken [] true)) with ring := 1000 }
     s.tokens[0]? = some (barrierToken [] true) ∧ (barrierToken [] true).sentAt + 72 ≤ s.ring) ∧
    (gathered true { atBar := [2] } (some (barrierToken [] true))).ring < (barrierToken [] true).sentAt + 72 ∧
    (let s := { gathered true { atBar := [2] } none with slots := [(0, { hops := 1 })] }
     controlAt s 0 = true ∧ controlAt s 1 = false ∧ controlAt (called plan7 (call7 true 0) (token7 0x10 [48] false)) 15 = true) := by
  refine ⟨?_, ?_, ?_, ?_, ?_, ?_, ?_, ?_, ?_, ?_, ?_, ?_⟩ <;> decide +kernel

/-! ## Start-up, dies, supply and alarms -/

/-- The reset state with other management registers. -/
def moored (g : Mgmt) : State := { State.reset with mgmt := g }
/-- A device Underway with all dies in service. -/
def aweigh : Mgmt := { devState := 3, stage := 7, resetAsserted := false, csvc := 0xFF#8, tested := 0xFF#8, reason := 0 }

/-- Reset asserted with the advance held and not; every stage with its outcomes; the supply out of range for long; hot, warm and cool dies. -/
theorem witness_StartUp :
    (State.reset.mgmt.resetAsserted = true ∧ State.reset.mgmt.autoHeld = false ∧ State.reset.mgmt.devState = 1 ∧
      (moored { autoHeld := true }).mgmt.autoHeld = true) ∧
    (∀ n ∈ [1, 2, 3, 4, 5, 6], (moored { devState := 2, stage := n }).mgmt.devState = 2 ∧ (moored { devState := 2, stage := n }).mgmt.stage = n) ∧
    ((poke State.reset {}).arg.failed = 0#8 ∧ (poke State.reset { failed := 4#8 }).arg.failed ≠ 0xFF#8 ∧
      (poke State.reset { failed := 0xFF#8 }).arg.failed ≠ 0#8 ∧ (poke State.reset { ok := false }).arg.ok = false) ∧
    (let s := { moored { aweigh with supplyOut := true, supplySince := 5 } with chron := 1000006 }
     s.mgmt.supplyOut = true ∧ s.mgmt.supplySince + 1000000 < s.chron ∧ s.mgmt.devState ≠ 1) ∧
    ((∃ x ∈ (poke (moored aweigh) { nums := [50, 115] }).arg.nums, 115 ≤ x) ∧ (moored aweigh).mgmt.devState ≠ 1 ∧
      (∀ x ∈ (poke (moored aweigh) { nums := [50, 106] }).arg.nums, x < 115)) ∧
    ((moored aweigh).mgmt.leaving = none ∧ (moored { devState := 2, stage := 2 }).mgmt.untrained = 0#8 ∧
      (poke State.reset { failed := 1#8 }).arg.failed ||| (moored { devState := 2, stage := 2 }).mgmt.untrained ≠ 0#8) := by
  refine ⟨?_, ?_, ?_, ?_, ?_, ?_, ?_, ?_⟩ <;> decide +kernel

/-- Every command allowed and refused for each of its reasons, and every job with nothing left to wait for. -/
theorem witness_DieService :
    (moored { aweigh with dieStatus := 1 }).mgmt.dieStatus = 1 ∧
    (let s := moored aweigh
     s.mgmt.dieStatus ≠ 1 ∧ s.mgmt.devState = 3 ∧ s.mgmt.csvc.getLsbD 0 = true ∧ s.mgmt.csvc ≠ dieBit 0 ∧ s.mgmt.msvc.getLsbD 0 = true ∧
       homesRemain s 0 = false ∧ homesRemain (seat {}) 0 = true ∧ (poke s { die := 7 }).arg.die % 8 = 7) ∧
    (moored { aweigh with csvc := 1#8 }).mgmt.csvc = dieBit 0 ∧
    (let s := moored { aweigh with csvc := 2#8, msvc := 0#8, resetDone := 1#8 }
     s.mgmt.csvc.getLsbD 0 = false ∧ s.mgmt.resetDone.getLsbD 0 = true ∧ s.mgmt.msvc.getLsbD 0 = false ∧
       (∀ c ∈ [0, 47], dieOf c = 0 ∧ (coreOf s c).handles = [])) ∧
    (moored aweigh).mgmt.resetDone.getLsbD 0 = false ∧ (moored {}).mgmt.devState = 1 ∧
    (let s := moored { aweigh with job := .drain 0 false, cdrain := 1#8 }
     s.mgmt.job = .drain 0 false ∧ drainEvacuated (holdLaunches s 0) 0 = true ∧ dieEvacuees s 0 = [] ∧ s.cmds = [] ∧ ((List.range 48).all fun c => (coreOf s c).mode = .idle) = true) ∧
    (∀ j ∈ [DieJob.drain 0 true, .reset 0, .ret 0, .retireM 0, .returnM 0, .resetM 0], (moored { aweigh with job := j }).mgmt.job = j ∧
      requestsLeft (moored { aweigh with job := j }) 0 = false) ∧
    (let s := { moored { aweigh with job := .drain 0 false } with cmds := [copy9] }
     drainEvacuated (holdLaunches s 0) 0 = true ∧ ∃ x ∈ s.cmds, dieOf x.core = 0) ∧
    requestsLeft { moored { aweigh with job := .retireM 0 } with inbox := [(1, request 1 2)] } 0 = true := by
  refine ⟨?_, ?_, ?_, ?_, ?_, ?_, ?_, ?_, ⟨?_, copy9, ?_, ?_⟩, ?_⟩ <;> decide +kernel

/-- Alarm levels 0, 2 and 3 with every detector; an unarmed Sighting, an armed one and a pending one; a latch that is due; the translation
commands, with a busy one, entries they name and a request that they wait for. -/
theorem witness_AlarmsSightingsTranslations :
    (∀ d ∈ [Detector.supplyClock, .voltageGlitch, .tamperMesh, .clockGlitch], (poke State.reset { detector := d }).arg.detector = d ∧
      State.reset.eq.level < 1) ∧
    (∀ n ∈ [2, 3], ({ State.reset with eq := { level := n } } : State).eq.level = n) ∧
    (State.reset.mgmt.armed = true ∧ State.reset.mgmt.pendingSgt = none ∧ State.reset.mgmt.cmpEn = false ∧
      (moored { armed := false }).mgmt.armed = false) ∧
    (let s := { moored { pendingSgt := some (130, 1) } with chron := 130 }
     let due (s : State) := (List.range 17).filter fun d => decide (130 ≤ copyOf s d) && !s.mgmt.sgtDone.contains d
     s.mgmt.armed = true ∧ s.mgmt.pendingSgt = some (130, 1) ∧ due s ≠ [] ∧ 17 ≤ (s.mgmt.sgtDone ++ due s).length ∧
       due { s with chron := 120 } = [] ∧ (let r := { s with skew := [(3, -1)] }; due r ≠ [] ∧ (r.mgmt.sgtDone ++ due r).length < 17)) ∧
    (State.reset.mgmt.tlbBusy = false ∧ (moored { tlbBusy := true, tlbWait := [(0, 5#32)] }).mgmt.tlbBusy = true ∧
      ∀ x ∈ (moored { tlbBusy := true, tlbWait := [(0, 5#32)] }).mgmt.tlbWait,
        findReq (moored { tlbBusy := true, tlbWait := [(0, 5#32)] }) x.1 x.2 = none) := by
  refine ⟨?_, ?_, ?_, ?_, ?_⟩ <;> decide +kernel

/-! ## The host, launches and the trust domain -/

/-- A launch queue at host address 0x8000, its index lines at 0x9000 and 0xA000, of size 4; its reads under way. -/
def queue0 : Queue := { base := 0x8000#64, paddr := 0x9000#64, caddr := 0xA000#64, en := true, size := 2#5, pidx := some 1#32 }
/-- A device Underway whose queue 3 is q. -/
def harboured (q : Queue) : State := { moored aweigh with queues := [(3, q)] }

theorem witness_HostAccess :
    (let w (off : Nat) (v : Word) (wide : BitVec 1024) := poke (moored aweigh) { off := off, value := v, wide := wide }
     (w 0xC 0x85030000#64 0#1024).mgmt.resetAsserted = false ∧ (w 0xC 0x85030000#64 0#1024).arg.window = .management ∧
       (0x85030000#64).toNat.testBit 31 = true ∧ (0x85030000#64).toNat / 2 ^ 24 % 16 = 5 ∧ (w 0x20 9#64 0#1024).arg.value.toNat % 2 ^ 32 = 9 ∧
       (0x80020000#64).toNat.testBit 31 = true ∧ (0x80020000#64).toNat / 2 ^ 16 % 4 = 2 ∧ (0x80070000#64).toNat / 2 ^ 16 % 256 = 7 ∧
       (w 0x28 5#64 1#1024).arg.wide = 1#1024 ∧ (moored { aweigh with dieStatus := 1 }).mgmt.dieStatus = 1 ∧
       (moored { aweigh with tlbBusy := true }).mgmt.tlbBusy = true ∧ (moored { aweigh with mbStatus := 1 }).mgmt.mbStatus = 1) ∧
    (let s := poke (harboured queue0) { window := .launch, off := 3 * 64, wide := 1#1024 }
     (queueOf s (s.arg.off / 64)).en = true ∧ (queueOf (harboured {}) 3).en = false ∧ (3 * 64 + 0x18) % 64 = 0x18 ∧
       (0x80000402#64).toNat < 2 ^ 32 ∧ (0x80000402#64).toNat.testBit 31 = true) ∧
    (let s := { moored aweigh with homes := [(0, { held := [2] })] }
     128 < 8 * Config.reservedBase ∧ forwardTo s (hdmAddress 128) = some 128 ∧ poisonIn s 128 64 = false ∧
       poisonIn { s with poisoned := [17] } 128 64 = true) ∧
    (∀ a ∈ [72, 0], ∀ b ∈ [CxlKind.rdShared, .rdCurr, .wrInv, .itoMWr],
      let s := { asked .get (req5 1 false) with cxlReqs := [{ agent := a, seq := 5#32, hpa := 0x9000, kind := b }] }
      s.cxlReqs[0]? = some { agent := a, seq := 5#32, hpa := 0x9000, kind := b } ∧ findReq s 0 5#32 = some (req5 1 false)) ∧
    findReq (seat {}) 0 5#32 = none ∧
    (let s := poke (harboured { queue0 with en := false }) { index := 3, value := 0x80000002#64 }
     s.arg.value.getLsbD 31 = true ∧ 2 ≤ (s.arg.value.extractLsb' 0 5).toNat ∧ (s.arg.value.extractLsb' 0 5).toNat ≤ 16 ∧
       queue0.baseAddr % 4096 = 0 ∧ queue0.pidxAddr % 64 = 0 ∧ queue0.cidxAddr % 4 = 0 ∧ queue0.reading = false) ∧
    ¬2 ≤ ((0x80000001#64).extractLsb' 0 5).toNat ∧
    (let s := { harboured { queue0 with reading := true } with hostMem := [(0x9000, 1#8)] }
     queueRead s queue0 queue0.pidxAddr 4 = some [1#8, 0#8, 0#8, 0#8] ∧ s.cxlReqs = [] ∧ s.mgmt.devState = 3 ∧
       (1#32 - queue0.cidx).toNat ≤ 2 ^ queue0.size.toNat ∧ 2 ^ queue0.size.toNat < (9#32 - queue0.cidx).toNat) := by
  refine ⟨?_, ?_, ?_, ?_, ?_, ?_, ?_, ?_⟩ <;> decide +kernel

/-- A device with data in the mailbox, Underway or in Harbour. -/
def mailed (g : Mgmt) (len : Nat) (bs : List Byte) : State := moored { g with mbLen := len, mbData := writeBytes [] 0 bs }

/-- The mailbox busy; every command in and out of its states, with inputs in and out of range; a member and others; each command that takes
time with each outcome. -/
theorem witness_MailboxCommands :
    (moored { aweigh with mbStatus := 1 }).mgmt.mbStatus = 1 ∧
    ((mailed aweigh 0 []).mgmt.mbStatus ≠ 1 ∧ (mailed aweigh 0 []).mgmt.devState = 3 ∧ (mailed {} 0 []).mgmt.devState = 1 ∧
      (mailed { devState := 2 } 0 []).mgmt.devState ≠ 3 ∧ (mailed { devState := 2 } 0 []).mgmt.devState ≠ 1) ∧
    (let num (s : State) (off n : Nat) := ofBytes (readBytes s.mgmt.mbData off n)
     num (mailed {} 9 [0#8, 0#8, 0#8, 0#8, 0#8, 0#8, 0#8, 0#8, 5#8]) 0 8 + (9 - 8) ≤ 2 ^ 26 ∧
       num (mailed {} 4 (bytesOf 2500 4)) 0 4 = 2500 ∧ num (mailed {} 4 (bytesOf 1 4)) 0 4 = 1 ∧ num (mailed {} 4 []) 0 4 < 1 ∧
       (let s := mailed {} 8 []
        num s 0 1 ≤ 16 ∧ (∃ b ∈ blocksOfDie (num s 0 1), b.1 = num s 1 1 ∧ num s 2 2 < b.2) ∧ num s 4 4 < snapWords (num s 1 1)) ∧
       1 ≤ num (mailed {} 8 [0#8, 0#8, 0#8, 0#8, 2#8]) 4 4 ∧ num (mailed {} 8 [0#8, 0#8, 0#8, 0#8, 2#8]) 4 4 ≤ 63 ∧
       num (mailed {} 68 []) 64 4 ≤ 16 ∧ num (mailed aweigh 5 []) 0 1 < 64) ∧
    ((moored aweigh).launches = [] ∧ (seat {}).launches.find? (fun l => l.queue = 0 && l.record = 0 && !l.sys) = some placedLaunch) ∧
    (∀ i, i < 1024 → ofBytes (readBytes (mailed aweigh 4096 []).mgmt.mbData (4 * i) 4) / 2 ^ 10 % 4 ≠ 3) ∧
    (memberOf (moored aweigh) 0 = false ∧ (moored aweigh).eq.level < 2 ∧
      memberOf { moored aweigh with eq := { members := 1#64 } } 0 = true) ∧
    (∀ x ∈ [Mailing.advance, .fwCommit], (moored { aweigh with mailing := x }).mgmt.mailing = x) := by
  refine ⟨?_, ?_, ⟨?_, ?_, ?_, ?_, ⟨?_, ?_, ?_⟩, ?_⟩, ?_, ?_, ?_, ?_⟩ <;> decide +kernel

/-- The words of a sound record: one level of one point, weight 1, address space 1, its root table and entry as `seat` has them. -/
def soundRecord (version : Nat) : List Byte :=
  ([version * 2 ^ 56 + 2 ^ 48 + 2 ^ 26, 0, 2 ^ 48 + placedRoot, placedCode] ++ List.replicate 12 0 ++ [2 ^ 32] ++ List.replicate 15 0).flatMap fun w =>
    bytesOf w 8
/-- The package of `seat` without a launch, with a record pending in queue 3. -/
def pending (version : Nat) : State :=
  { seat {} with
    launches := [], waypoints := [], cores := [], queues := [(3, queue0)], hostMem := writeBytes [] 0x8000 (soundRecord version) }
/-- A launch that waits for the grant of a stream. -/
def ungranted : Launch := { placedLaunch with
  granted := false, streams := [{ ring := .meridian, chain := false, dir := .east, lane := 7, eqid := 0, pos := 3#64, flags := [1#64] }] }

theorem witness_Launches :
    (∀ n ∈ [1, 2], let s := pending n
     s.mgmt.devState = 3 ∧ s.launches.length < 1024 ∧ nextQueue s = some 3 ∧
       queueRead s (queueOf s 3) ((queueOf s 3).baseAddr + 256 * ((queueOf s 3).cidx.toNat % 2 ^ (queueOf s 3).size.toNat)) 256 =
         some (soundRecord n) ∧
       ((validate s (soundRecord n) (recordLaunch (soundRecord n) (freshLaunchId s) 3 0) 0).1 = 0 ↔ n = 1) ∧
       (queueWrite s (queueOf s 3) (queueOf s 3).cidxAddr (bytesOf 1 4)).isSome = true) ∧
    (let s := { seat {} with launches := [{ placedLaunch with granted := false }] }
     rootless s = some ({ placedLaunch with granted := false }, 0)) ∧
    (let s := { seat {} with launches := [ungranted] }
     rootless s = none ∧ ungranted.streams.length = 1 ∧ nextGrant s = ungranted.streams[0]?.map (fun x => (1, 0, x)) ∧
       findLaunch s 1 = some ungranted) ∧
    (let s := { seat {} with cores := [], waypoints := [{ placedWaypoint with state := .done }] }
     findLaunch s 1 = some placedLaunch ∧ launchOver s placedLaunch = true ∧ completionHeld s placedLaunch = none ∧
       completionHeld { s with homes := [(0, { held := [0] })] } placedLaunch = some 0) ∧
    (let s := pending 1
     let q := { queue0 with base := 0x8000000000008000#64 }
     acceptHeld s queue0 0x8000 (recordLaunch (soundRecord 1) (freshLaunchId s) 3 0) = none ∧ underway s = true ∧
       queueHeld { s with homes := [(0, { held := [0x100] })] } q q.baseAddr 256 = some 0x100) := by
  refine ⟨?_, ?_, ?_, ?_, ?_⟩ <;> decide +kernel

/-- A launch on every die, with levels ls; a package with the waypoints ws of it and every core idle, at Chronometer t. -/
def sailing (ls : List LevelWord) : Launch := { placedLaunch with dies := 0#8, levels := ls }
def fleet (ws : List Waypoint) (ls : List LevelWord) (t : Nat) : State := { berth ws ls t with launches := [sailing ls] }
/-- Every core runs the waypoint of `seat`. -/
def manned (ws : List Waypoint) : State :=
  { fleet ws [level_ 1 false 0] 100000 with
    cores := (List.range 384).map fun c => (c, { mode := .running, wp := ⟨1, 1⟩ }), launches := [{ sailing [level_ 1 false 0] with prio := 2 }] }

theorem manned_core (ws : List Waypoint) (c : Nat) (h : c < 384) : coreOf (manned ws) c = { mode := .running, wp := ⟨1, 1⟩ } := by
  have go : ∀ (n a : Nat), a ≤ c → c < a + n → ∀ k d : Core, Map.get ((List.range' a n).map fun i => (i, k)) c d = k := by
    intro n
    induction n with
    | zero => omega
    | succ n ih =>
      intro a h1 h2 k d
      rw [List.range'_succ, List.map_cons, Map.get]
      split
      · rfl
      · exact ih (a + 1) (by omega) (by omega) k d
  rw [coreOf, manned, List.range_eq_range']
  exact go 384 0 (Nat.zero_le _) (by omega) _ _

/-- A record pending on queue 3; a launch with all streams granted, and one whose stream is free; a launch with nothing left, before and in a
return to Harbour; one entry and an idle core; a group of two points; a class-0 entry on a package without an idle core; a neighbour's entry;
a waypoint pinned to a draining die; a core that has lost a bank; a cluster under test. -/
theorem witness_EventsComplete :
    (let s := pending 1
     s.mgmt.devState = 3 ∧ s.mgmt.leaving = none ∧ s.launches.length < 1024 ∧ s.rrQueue = 0 ∧ queueOf s 3 = queue0 ∧
       queue0.pidx = some 1#32 ∧ queue0.cidx = 0#32 ∧ queue0.base.getLsbD 63 = false ∧ ∀ j, j < 3 → (queueOf s j).en = false) ∧
    (∀ d, (home (pending 1) d).held = []) ∧
    (∀ l ∈ [{ sailing [] with granted := false }, ungranted], let s := { seat {} with launches := [l] }
     s.mgmt.devState = 3 ∧ s.mgmt.leaving = none ∧ l.granted = false ∧ l.heldFor = [] ∧ l.ending = .running ∧ s.mgmt.csvc.getLsbD 0 = true) ∧
    (let s := { seat {} with launches := [ungranted] }
     (∀ p, p < 64 → (3#64 : BitVec 64).getLsbD p = true → (ownerOf s (slotKey .east 7 p)).cls = 0) ∧ s.reclaiming = [] ∧
       (s.launches.flatMap (·.streams)).filter (fun y => y.id ≠ 0 && y.ring = .meridian) = [] ∧
       16 ≤ ((List.range 64).filter fun p => (ownerOf s (slotKey .east 7 p)).cls = 0 && !(3#64 : BitVec 64).getLsbD p).length) ∧
    (let s := fleet [{ placedWaypoint with state := .done }] [level_ 1 false 0] 0
     findLaunch s 1 = some (sailing [level_ 1 false 0]) ∧ (sailing [level_ 1 false 0]).granted = true ∧ s.cmds = [] ∧ s.joinDecs = [] ∧
       s.cores = [] ∧ s.mgmt.leaving = none ∧ { s with mgmt := { s.mgmt with leaving := some 9 } }.mgmt.devState = 3 ∧
       (∀ x ∈ s.launches, x.id = (sailing [level_ 1 false 0]).id)) ∧
    (let s := fleet [ready1] [level_ 1 false 0] 0
     let l := sailing [level_ 1 false 0]
     s.mgmt.csvc.getLsbD 0 = true ∧ s.mgmt.cdrain.getLsbD 0 = false ∧ (disp s 0).underTest = none ∧ coreOf s 0 = {} ∧ ready1.holder = 0 ∧
       findWp s ⟨1, 1⟩ = some ready1 ∧ findLaunch s 1 = some l ∧ l.granted = true ∧ l.heldFor = [] ∧ l.dies = 0#8 ∧ l.spb ≤ 384 ∧ l.opb ≤ 64 ∧
       l.vreg ≤ 64 ∧ l.acct ≤ 16 ∧ (∀ x ∈ l.levels, x.domain ≤ 2) ∧ ready1.aff = 0 ∧ ready1.range = false ∧ ready1.evacuated = [] ∧
       ready1.spilled = false ∧ (∀ x, levelWord l 0 = some x → x.step = false)) ∧
    (let a := { ready1 with level := 1, parent := 1 }
     let b := { ready1 with level := 1, parent := 1, key := ⟨1, 2⟩, lo := 1, hi := 2 }
     let s := fleet [a, b] [level_ 1 false 0, level_ 2 true 2] 0
     findLaunch s 1 = some (sailing [level_ 1 false 0, level_ 2 true 2]) ∧
       levelWord (sailing [level_ 1 false 0, level_ 2 true 2]) 1 = some (level_ 2 true 2) ∧
       (∀ y ∈ s.waypoints, y.hi = y.lo + 1 ∧ y.lo < 2 ∧ ∀ z ∈ s.waypoints, z.key = y.key → z = y) ∧
       (∀ y ∈ s.waypoints, ∀ z ∈ s.waypoints, y.lo = z.lo → y = z) ∧ (∀ i, i < 2 → ∃ y ∈ s.waypoints, y.lo = i) ∧
       ∀ i, i < 2 → coreOf s i = {}) ∧
    (let s := manned [{ placedWaypoint with pickedAt := 0 }, { ready1 with key := ⟨1, 2⟩ }]
     s.chron = 100000 ∧ findWp s ⟨1, 2⟩ = some { ready1 with key := ⟨1, 2⟩ } ∧ (coreOf s 0).wp = ⟨1, 1⟩ ∧
       findWp s ⟨1, 1⟩ = some { placedWaypoint with pickedAt := 0 } ∧ (launchOf s 1).prio = 2 ∧ ready1.readyAt = 0 ∧ ready1.urged = false) ∧
    (∀ ws, (∀ c, c < 384 → (coreOf (manned ws) c).mode = .running) ∧ ∀ e ∈ (manned ws).cores, coreOf (manned ws) e.1 = e.2) ∧
    (let s := fleet [{ ready1 with holder := 1 }] [level_ 1 false 0] 2000
     s.mgmt.csvc.getLsbD 1 = true ∧ (disp s 1).underTest = none ∧ (∀ y ∈ s.waypoints, y.holder ≠ 0) ∧
       (coreOf s 0).quarantined = false ∧ (disp s 0).emptySince + 2000 * ((disp s 0).steals + 1) ≤ s.chron) ∧
    (let s0 := seat { handles := [(5, { bank7 with owner := ⟨1, 2⟩ })] }
     let s := { s0 with waypoints := [pinned1], mgmt := { s0.mgmt with cdrain := 1#8 } }
     findWp s ⟨1, 2⟩ = some pinned1 ∧ pinned1.aff = 2 ∧ s.mgmt.cdrain.getLsbD 0 = true ∧
       (∀ e ∈ s.cores, e.2.plans = [] ∧ (e.2.mode = .idle ∨ e.2.wp ≠ ⟨1, 2⟩)) ∧ s.cmds = [] ∧
       (∀ e ∈ (station s 0).almanac, e.2.word = 0#64) ∧ (5, { bank7 with owner := ⟨1, 2⟩ }) ∈ (coreOf s 0).handles) ∧
    (let s := { overfull placedWaypoint with launches := [{ placedLaunch with rlimit := 1 }] }
     capacity (coreOf s 0) .spad < (heldBanks (coreOf s 0) .spad).length ∧ (5, { bank7 with banks := [7, 8] }) ∈ (coreOf s 0).handles ∧
       (∀ x ∈ s.waypoints, x.aff ≠ 2) ∧ s.cmds = [] ∧ placedWaypoint.startHandles = [] ∧ (launchOf s 1).ending = .running) ∧
    (let s := { fleet [] [level_ 1 false 0] 0 with disps := [(0, { underTest := some 1 })] }
     (disp s 0).underTest = some 1 ∧ (∀ i, i < 6 → coreOf s (6 + i) = {}) ∧ s.cmds = []) := by
  refine ⟨?_, fun _ => rfl, ?_, ?_, ?_, ?_, ?_, ?_, fun ws => ⟨fun c h => by rw [manned_core ws c h], ?_⟩, ?_, ?_, ?_, ?_⟩
  case refine_8 =>
    intro e h
    obtain ⟨c, hc, rfl⟩ := List.mem_map.1 h
    exact manned_core ws c (List.mem_range.1 hc)
  all_goals decide +kernel

/-- A member of a domain of packages 0 and 1 with a session up, in a re-key or not; package p's number is own. -/
def bound (own leader : Nat) (r : Option Rekeying) : State :=
  { moored aweigh with
    chron := 200000,
    eq := { pkg := own, leader := leader, link := true, members := 3#64, epoch := 7#32, dstate := 2, rekey := r, count := 2,
            sessions := [{ peer := 1 - own, stage := 8, up := true, missed := 2 }], policyRoot := some 5#512,
            requests := [{ pkg := 1 - own, agent := 0, seq := 5#32, atomic := false, sentAt := 0 }],
            keys := [(pairNo 0 0 1, 9#256), (pairNo 0 1 0, 9#256)] } }
def rekey_ (leader pass : Nat) : Option Rekeying := some { leader := leader, epoch := 8#32, members := 3#64, pass := pass, since := 0 }

/-- A request long without a response; a session up with two heartbeats missed, and the exchange at its first message, acceptable or not; a
joiner alone; a leader and a member outside a re-key and in each of its passes. -/
theorem witness_TrustDomain :
    (let s := bound 0 0 none
     ((s.eq.requests.find? fun q => q.agent = 0 && q.seq = 5#32).any fun q => decide (q.sentAt + max s.eq.tmo.toNat 10000 ≤ 200000)) = true ∧
       ((s.eq.sessions.find? fun x => x.peer = 1 && x.up).any fun x => x.missed + 1 = 3) = true ∧
       messageNo (.getVersion true) = (State.reset.eq.sessions.headD { peer := 1 }).stage ∧ acceptable s (sessionWith s 2) (.getVersion true) = true ∧
       (sessionWith s 2).stage = 0 ∧ acceptable s (sessionWith s 2) (.getVersion false) = false ∧ (sessionWith s 64).stage = 0 ∧
       acceptable s (sessionWith s 64) (.getVersion false) = true ∧ (sessionWith s 1).up = true ∧ memberOf s 0 = true ∧ s.eq.rekey = none ∧
       s.eq.leader = s.eq.pkg) ∧
    (let s := poke { State.reset with eq := { joining := true, pkg := 1 } } { members := 3#64 }
     s.eq.joining = true ∧ s.eq.sessions = [] ∧ s.arg.members.getLsbD 0 = true ∧ 0 ≠ s.eq.pkg ∧
       (poke s { members := 2#64 }).arg.members = maskOf 1 ∧ ∀ i, i < 64 → (2#64 : BitVec 64).getLsbD i = true → i = s.eq.pkg) ∧
    (let a : Arg := { serials := [5, 3], nums := [10, 40], nums2 := [20, 30] }
     2 ≤ a.serials.length ∧ a.nums.length = 2 ∧ a.nums2.length = 2 ∧ (∀ h ∈ a.nums ++ a.nums2, slotTimes h ≤ 255) ∧ 255 < slotTimes 100000) ∧
    (let s := poke (bound 1 0 none) { members := 3#64, epoch := 8#32 }
     s.eq.rekey = none ∧ s.arg.epoch ≠ s.eq.epoch ∧ memberOf s s.eq.pkg = true) ∧
    (let s := { bound 0 0 (rekey_ 0 5) with eq := { (bound 0 0 (rekey_ 0 5)).eq with queued := [(4#64, 0#64)] } }
     s.eq.queued = [(4#64, 0#64)] ∧ s.eq.rekey = rekey_ 0 5 ∧ memberOf s s.eq.pkg = true) ∧
    ((bound 1 0 none).eq.leader ≠ (bound 1 0 none).eq.pkg ∧ memberOf (bound 1 0 none) 1 = true ∧ 7#32 ≠ 8#32) ∧
    (∀ n ∈ [1, 2, 3, 4, 5], ∀ own ∈ [0, 1], let s := bound own 0 (rekey_ 0 n)
     s.eq.rekey = rekey_ 0 n ∧ s.eq.queued = [] ∧ (3#64).getLsbD s.eq.pkg = true ∧ 0 + 100000 ≤ s.chron ∧
       (∀ x ∈ s.eq.sessions, x.up = true ∧ x.peer < 64 ∧ (3#64).getLsbD x.peer = true ∧ x.peer ≠ s.eq.pkg)) := by
  refine ⟨?_, ?_, ?_, ?_, ?_, ?_, ?_⟩ <;> decide +kernel

/-- A sealed slot of a kind from package 1 to a package. -/
def sealed_ (kind to_ from_ : Nat) : SealedSlot :=
  ⟨headerOf { valid := true, len := 4, ptype := 3 } { pseq := 0, spkg := from_, dpkg := to_, ksb := false, enc := true, ekind := kind }, 0#2048, 0#128⟩
/-- A slot that arrives at the Equator station. -/
def slotIn (x : SealedSlot) : State := poke (bound 0 0 none) { lane := 3, pos := 5, sealed := x }

theorem witness_EquatorSlots :
    (∀ x ∈ [sealed_ 0 1 1, sealed_ 0 1 0, sealed_ 3 0 1, sealed_ 0 0 1], let s := slotIn x
     s.eq.link = true ∧ (slotOfHeader x.header x.payload).valid = true ∧ s.arg.ok = true ∧ ¬(s.arg.lane % 8 = 0 ∧ s.arg.pos % 64 = 0)) ∧
    ((eqHeadOf (sealed_ 0 1 1).header).dpkg = 1 ∧ (eqHeadOf (sealed_ 0 1 1).header).spkg = 1 ∧ (eqHeadOf (sealed_ 0 1 0).header).spkg = 0) ∧
    (∀ n ∈ [0, 3], let s := { slotIn (sealed_ n 0 1) with eq := { (bound 0 0 none).eq with level := 3 } }
     let h := eqHeadOf s.arg.sealed.header
     h.dpkg = s.eq.pkg ∧ h.enc = true ∧ h.ekind = n ∧ admitted s h.ksb = true ∧ memberOf s h.spkg = true ∧ s.eq.level = 3 ∧
       (Map.find s.eq.keys (pairNo h.ksb.toNat h.spkg s.eq.pkg)).isSome = true ∧
       h.pseq = Map.get s.eq.expected (channelNo h.ksb.toNat h.spkg s.eq.pkg s.arg.dir s.arg.lane) 0) ∧
    (let s := { bound 0 0 none with inbox := [(15, { request 1 2 with pkg := 1 })] }
     (takeNth (forEquator s) 0 s.inbox).isSome = true ∧ memberOf s 1 = true ∧ memberOf s 0 = true ∧ s.eq.rekey = none ∧
       eqBestEffort s (slotKey (eqWay s 1) 1 5) = true ∧
       (slotOfHeader (poke s { lane := 1, pos := 5 }).arg.sealed.header 0#2048).valid = false ∧
       (slotOfHeader (poke s { lane := 1, pos := 5 }).arg.sealed.header 0#2048).thr = false ∧ canSeal s 1 (eqWay s 1) 1 = true) := by
  refine ⟨?_, ?_, ?_, ?_⟩ <;> decide +kernel

/-! ## Encodings, steps and the whole machine -/

/-- Well-formed instructions of every form: a trigger move, a raw move, the wide form, an event. -/
theorem witness_RoundTrip :
    (Instr.sAdd .s0 s3).wf = true ∧ (Instr.move 0x003#12 v3).wf = true ∧ (Instr.ln 1#6 2#6 3#6 0#224).wf = true ∧
    (decode [0x00220005#32]).toOption.isSome = true ∧ (decode [0xF8084180#32, 0#32, 0#32, 0#32, 0#32, 0#32, 0#32, 0#32]).toOption.isSome = true := by
  decide +kernel

/-- The bundle of one ADD at which `seat` stands. -/
def addBundle : Bundle :=
  { addr := placedCode, len := 8, rep := 0, sync := false, mark := false, eos := false, stick := [], words := [0x00220005#32],
    moves := [.sAdd .s0 (reg 0x005#12)], longs := [0#64, 0#64, 0#64] }

/-- An agenda with an instruction; the turns of the default schedule, with work and without; a bundle of one ADD that a running core executes,
one of the wide form, and a core that is idle. -/
theorem witness_StepRuns :
    (placeInstruction State.reset 0x00220005).agenda.head? = some { ticks := 0, what := some .bundleExecute } ∧
    (State.reset.agenda = [] ∧ (defaultTurn (elapse (settleDispatchers (seat {})) 1)).2.isSome = true ∧ (defaultTurn (elapse (settleDispatchers (moored { resetAsserted := false })) 1)).2 = none) ∧
    ((Instr.sAdd .s0 s3).port? = some (0x110#12, s3) ∧ (issueOf (.sAdd .s0 s3)).isSome = true) ∧
    (coreOf State.reset 0).mode ≠ .running ∧
    (let s := seat {}
     let m := moveFields 0x00220005#32
     let d := moveDst 0x00220005#32
     let s1 := setCore s 0 (enterWindow (coreOf s 0) addBundle [{ idx := 0, d := d, m := m, longs := addBundle.longs }])
     let o : OpIn := { c := 0, idx := 0, sel := m.src, port := d, addr := placedCode, len := 8, val := .sc 0#64 }
     (coreOf s 0).mode = .running ∧ bundleAt s 0 = .ok addBundle ∧ needsRetired (coreOf s 0) addBundle = false ∧
       opensRegion (coreOf s 0) addBundle = false ∧ (decodeMove addBundle.longs.length 0x00220005#32).toOption = some (.sAdd .s0 (reg 0x005#12)) ∧
       portKind d = .trigger ∧ guardTrue (coreOf s 0) m = true ∧ readSource s1 0 addBundle.longs 0 d m = .ok (.sc 0#64, coreOf s1 0) ∧
       consumeCheck s1 0 m = .ok () ∧
       ∃ u, opSAdd 64 o s1 = .ok u) ∧
    ((bundleAt { placeInstruction State.reset 0xF8084180 with agenda := [] } 0).toOption.map (·.moves)) = some [.ln 1#6 2#6 3#6 0#224] := by
  refine ⟨?_, ?_, ?_, ?_, ⟨?_, ok_of ?_, ?_, ?_, ?_, ?_, ?_, ok_of ?_, ok_of ?_, some_of ?_⟩, ?_⟩ <;> decide +kernel

/-! ## Decoding: every row's word, put together from the match of its row (R266 to R276) -/

/-- Guard p5, negated, waiting, vector register 3: bits 30 to 25 and 12 to 0 of the words below. -/
def gm : MoveF := ⟨5#4, true, true, false, 0x043#12⟩
/-- The words of a list decode to the instructions beside them. -/
def decodesTo (l : List (BitVec 32 × Instr)) : Bool := l.all fun p => decide ((decode [p.1]).toOption = some p.2)
theorem test_words_s_1 : decodesTo [(0x2E220043#32, .sAdd .s0 gm), (0x2E422043#32, .sSub .s1 gm), (0x2E224043#32, .sMul .s0 gm),
    (0x2E426043#32, .sMulh .s1 gm), (0x2E228043#32, .sMulhu .s0 gm), (0x2E42A043#32, .sDiv .s1 gm),
    (0x2E22C043#32, .sDivu .s0 gm), (0x2E42E043#32, .sRem .s1 gm), (0x2E230043#32, .sRemu .s0 gm),
    (0x2E432043#32, .sAnd .s1 gm), (0x2E234043#32, .sOr .s0 gm), (0x2E436043#32, .sXor .s1 gm),
    (0x2E238043#32, .sAndn .s0 gm), (0x2E43A043#32, .sOrn .s1 gm), (0x2E23C043#32, .sShl .s0 gm),
    (0x2E43E043#32, .sShr .s1 gm), (0x2E240043#32, .sSra .s0 gm), (0x2E442043#32, .sRol .s1 gm),
    (0x2E244043#32, .sRor .s0 gm), (0x2E446043#32, .sCmpeq .s1 gm), (0x2E248043#32, .sCmpne .s0 gm),
    (0x2E44A043#32, .sCmplt .s1 gm), (0x2E24C043#32, .sCmpltu .s0 gm), (0x2E44E043#32, .sCmple .s1 gm),
    (0x2E250043#32, .sCmpleu .s0 gm), (0x2E452043#32, .sSel .s1 gm), (0x2E254043#32, .sMin .s0 gm),
    (0x2E456043#32, .sMax .s1 gm), (0x2E258043#32, .sMinu .s0 gm), (0x2E45A043#32, .sMaxu .s1 gm)] = true := by decide +kernel
theorem test_words_s_2 : decodesTo [(0x2E25C043#32, .sAbs .s0 gm), (0x2E45E043#32, .sSext .s1 gm), (0x2E260043#32, .sZext .s0 gm),
    (0x2E462043#32, .sExt .s1 gm), (0x2E264043#32, .sIns .s0 gm), (0x2E466043#32, .sPopc .s1 gm),
    (0x2E268043#32, .sClz .s0 gm), (0x2E46A043#32, .sCtz .s1 gm), (0x2E26C043#32, .sFns .s0 gm),
    (0x2E46E043#32, .sBrev .s1 gm), (0x2E270043#32, .sBswap .s0 gm), (0x2E472043#32, .sFadd .s1 gm),
    (0x2E274043#32, .sFsub .s0 gm), (0x2E476043#32, .sFmul .s1 gm), (0x2E278043#32, .sFma .s0 gm),
    (0x2E47A043#32, .sFdiv .s1 gm), (0x2E27C043#32, .sFsqrt .s0 gm), (0x2E47E043#32, .sFmin .s1 gm),
    (0x2E280043#32, .sFmax .s0 gm), (0x2E482043#32, .sFcmp .s1 gm), (0x2E284043#32, .sFcvt .s0 gm),
    (0x2E486043#32, .sSptest .s1 gm), (0x2E288043#32, .sSpcast .s0 gm), (0x2E48A043#32, .sRefmk .s1 gm),
    (0x2E2A0043#32, .sAdd32 .s0 gm), (0x2E4A2043#32, .sSub32 .s1 gm), (0x2E2A4043#32, .sMul32 .s0 gm),
    (0x2E4A6043#32, .sMulh32 .s1 gm), (0x2E2A8043#32, .sMulhu32 .s0 gm), (0x2E4AA043#32, .sDiv32 .s1 gm)] = true := by decide +kernel
theorem test_words_s_3 : decodesTo [(0x2E2AC043#32, .sDivu32 .s0 gm), (0x2E4AE043#32, .sRem32 .s1 gm), (0x2E2B0043#32, .sRemu32 .s0 gm),
    (0x2E4B2043#32, .sAnd32 .s1 gm), (0x2E2B4043#32, .sOr32 .s0 gm), (0x2E4B6043#32, .sXor32 .s1 gm),
    (0x2E2B8043#32, .sAndn32 .s0 gm), (0x2E4BA043#32, .sOrn32 .s1 gm), (0x2E2BC043#32, .sShl32 .s0 gm),
    (0x2E4BE043#32, .sShr32 .s1 gm), (0x2E2C0043#32, .sSra32 .s0 gm), (0x2E4C2043#32, .sRol32 .s1 gm),
    (0x2E2C4043#32, .sRor32 .s0 gm), (0x2E4C6043#32, .sCmpeq32 .s1 gm), (0x2E2C8043#32, .sCmpne32 .s0 gm),
    (0x2E4CA043#32, .sCmplt32 .s1 gm), (0x2E2CC043#32, .sCmpltu32 .s0 gm), (0x2E4CE043#32, .sCmple32 .s1 gm),
    (0x2E2D0043#32, .sCmpleu32 .s0 gm), (0x2E4D2043#32, .sSel32 .s1 gm), (0x2E2D4043#32, .sMin32 .s0 gm),
    (0x2E4D6043#32, .sMax32 .s1 gm), (0x2E2D8043#32, .sMinu32 .s0 gm), (0x2E4DA043#32, .sMaxu32 .s1 gm),
    (0x2E2DC043#32, .sAbs32 .s0 gm), (0x2E4DE043#32, .sSext32 .s1 gm), (0x2E2E0043#32, .sZext32 .s0 gm),
    (0x2E4E2043#32, .sExt32 .s1 gm), (0x2E2E4043#32, .sIns32 .s0 gm), (0x2E4E6043#32, .sPopc32 .s1 gm)] = true := by decide +kernel
theorem test_words_s_4 : decodesTo [(0x2E2E8043#32, .sClz32 .s0 gm), (0x2E4EA043#32, .sCtz32 .s1 gm), (0x2E2EC043#32, .sFns32 .s0 gm),
    (0x2E4EE043#32, .sBrev32 .s1 gm), (0x2E2F0043#32, .sBswap32 .s0 gm)] = true := by decide +kernel
theorem test_words_v_1 : decodesTo [(0x2E620043#32, .vAdd .v0 gm), (0x2E822043#32, .vSub .v1 gm), (0x2E624043#32, .vMul .v0 gm),
    (0x2E826043#32, .vFma .v1 gm), (0x2E628043#32, .vFms .v0 gm), (0x2E82A043#32, .vMin .v1 gm),
    (0x2E62C043#32, .vMax .v0 gm), (0x2E82E043#32, .vAbs .v1 gm), (0x2E630043#32, .vNeg .v0 gm),
    (0x2E832043#32, .vAnd .v1 gm), (0x2E634043#32, .vOr .v0 gm), (0x2E836043#32, .vXor .v1 gm),
    (0x2E638043#32, .vAndn .v0 gm), (0x2E83A043#32, .vNot .v1 gm), (0x2E63C043#32, .vShl .v0 gm),
    (0x2E83E043#32, .vShr .v1 gm), (0x2E640043#32, .vSra .v0 gm), (0x2E842043#32, .vCmp .v1 gm),
    (0x2E644043#32, .vSel .v0 gm), (0x2E846043#32, .vMov .v1 gm), (0x2E648043#32, .vPopc .v0 gm),
    (0x2E84A043#32, .vClz .v1 gm), (0x2E64C043#32, .vFns .v0 gm), (0x2E84E043#32, .vBrev .v1 gm),
    (0x2E650043#32, .vMskp .v0 gm), (0x2E852043#32, .vCvt .v1 gm), (0x2E654043#32, .vQnt .v0 gm),
    (0x2E856043#32, .vDeq .v1 gm), (0x2E658043#32, .vFxa .v0 gm), (0x2E85A043#32, .vBcast .v1 gm)] = true := by decide +kernel
theorem test_words_v_2 : decodesTo [(0x2E65C043#32, .vPerm .v0 gm), (0x2E85E043#32, .vRot .v1 gm), (0x2E660043#32, .vIota .v0 gm),
    (0x2E862043#32, .vRed .v1 gm), (0x2E664043#32, .vScan .v0 gm), (0x2E866043#32, .vScanl .v1 gm),
    (0x2E668043#32, .vScanf .v0 gm)] = true := by decide +kernel
theorem test_words_x : decodesTo [(0x2EA20043#32, .xExp gm), (0x2EA22043#32, .xExp2 gm), (0x2EA24043#32, .xLog gm),
    (0x2EA26043#32, .xLog2 gm), (0x2EA28043#32, .xRcp gm), (0x2EA2A043#32, .xRsq gm),
    (0x2EA2C043#32, .xSqrt gm), (0x2EA2E043#32, .xSig gm), (0x2EA30043#32, .xTanh gm),
    (0x2EA32043#32, .xSilu gm), (0x2EA34043#32, .xGelu gm), (0x2EA36043#32, .xSin gm),
    (0x2EA38043#32, .xCos gm)] = true := by decide +kernel
theorem test_words_ld : decodesTo [(0x2EC20043#32, .ldV gm), (0x2EC22043#32, .ldS gm), (0x2EC24043#32, .ldB gm),
    (0x2EC26043#32, .ldI gm), (0x2EC28043#32, .ldFe gm)] = true := by decide +kernel
theorem test_words_st : decodesTo [(0x2EE20043#32, .stV gm), (0x2EE22043#32, .stS gm), (0x2EE24043#32, .stI gm),
    (0x2EE26043#32, .stM gm), (0x2EE28043#32, .stSete gm), (0x2EE2A043#32, .stZero gm)] = true := by decide +kernel
theorem test_words_mx : decodesTo [(0x2F020043#32, .mxTid gm), (0x2F022043#32, .mxMode gm), (0x2F024043#32, .mxZero gm),
    (0x2F026043#32, .mxSete gm), (0x2F028043#32, .mxMma gm), (0x2F02A043#32, .mxMmat gm),
    (0x2F02C043#32, .mxNrm gm), (0x2F02E043#32, .mxRd gm), (0x2F030043#32, .mxWr gm),
    (0x2F032043#32, .mxBld gm), (0x2F034043#32, .mxSeq gm), (0x2F036043#32, .mxWait gm),
    (0x2F038043#32, .mxSound gm)] = true := by decide +kernel
theorem test_words_cp : decodesTo [(0x2F220043#32, .cpGet gm), (0x2F222043#32, .cpPut gm), (0x2F224043#32, .cpGetg gm),
    (0x2F226043#32, .cpPutg gm), (0x2F228043#32, .cpAcc gm), (0x2F22A043#32, .cpGetm gm),
    (0x2F22C043#32, .cpAtom gm), (0x2F22E043#32, .cpCfa gm), (0x2F230043#32, .cpWaitc gm),
    (0x2F232043#32, .cpDrain gm), (0x2F234043#32, .cpPref gm), (0x2F236043#32, .cpStat gm),
    (0x2F238043#32, .cpRecov gm), (0x2F23A043#32, .cpMig gm)] = true := by decide +kernel
theorem test_words_sa : decodesTo [(0x2F420043#32, .saOp gm), (0x2F422043#32, .saPush gm), (0x2F424043#32, .saFlush gm)] = true := by decide +kernel
theorem test_words_br : decodesTo [(0x2F620043#32, .brJmp gm), (0x2F622043#32, .brJmpi gm), (0x2F624043#32, .brCall gm),
    (0x2F626043#32, .brCalli gm), (0x2F628043#32, .brRet gm), (0x2F62A043#32, .brLoop gm),
    (0x2F62C043#32, .brLoopr gm), (0x2F62E043#32, .brLeave gm), (0x2F630043#32, .brSusp gm),
    (0x2F632043#32, .brYield gm), (0x2F634043#32, .brSpawn gm), (0x2F636043#32, .brJoinw gm),
    (0x2F638043#32, .brHalt gm), (0x2F63A043#32, .brTrap gm), (0x2F63C043#32, .brSys gm),
    (0x2F63E043#32, .brRfe gm), (0x2F640043#32, .brWaitt gm), (0x2F642043#32, .brKchk gm)] = true := by decide +kernel
theorem test_words_rg : decodesTo [(0x2F820043#32, .rgHalloc gm), (0x2F822043#32, .rgHfree gm), (0x2F824043#32, .rgHinfo gm),
    (0x2F826043#32, .rgCap gm), (0x2F828043#32, .rgWaitf gm), (0x2F82A043#32, .rgPost gm),
    (0x2F82C043#32, .rgClr gm), (0x2F82E043#32, .rgAlm gm), (0x2F830043#32, .rgStep gm),
    (0x2F832043#32, .rgBar gm), (0x2F834043#32, .rgXfence gm), (0x2F836043#32, .rgDrain gm),
    (0x2F838043#32, .rgColl gm), (0x2F83A043#32, .rgCwait gm)] = true := by decide +kernel

/-- A word that decodes to nothing, with its reason. -/
def refusesFor (w : BitVec 32) (e : DecodeError) : Bool :=
  match decode [w] with
  | .ok _ => false
  | .error x => decide (x = e)
/-- R264, R266 to R270. START 1; page 13; a destination no move may write; an unassigned source selector. -/
theorem test_reserved_words :
    refusesFor 0x80220005#32 .startBit = true ∧ refusesFor 0x01A00000#32 .undefinedPort = true ∧
    refusesFor 0x00120000#32 .illegalDest = true ∧ refusesFor 0x00220094#32 .illegalSource = true := by decide +kernel
/-- R266, R274. A raw move to register 3 from r 0x90 that waits; the wide form with FUNC 0. -/
theorem test_words_others :
    (decode [0x02006090#32]).toOption = some (.move 0x003#12 ⟨0#4, false, true, false, 0x090#12⟩) ∧
    (decode (0xF8084180#32 :: List.replicate 7 0#32)).toOption = some (.ln 1#6 2#6 3#6 0#224) := by decide +kernel
/-- The encoder writes the same words. -/
theorem test_encode : encode (.sAdd .s0 (reg 0x005#12)) = [0x00220005#32] ∧
    encode (.vMul .v1 ⟨3#4, true, false, false, 0x042#12⟩) = [0x1C824042#32] := by decide +kernel

/-- Each check of `Instr.wf` refuses a term: a raw move to a trigger, to a port no move may write, to none; an unassigned source; an
unassigned function of the wide form; an event, which has no words. -/
theorem test_ill_formed :
    (Instr.move 0x110#12 s3).wf = false ∧ (Instr.move 0x090#12 s3).wf = false ∧ (Instr.move 0xD00#12 s3).wf = false ∧
    (Instr.sAdd .s0 (reg 0x094#12)).wf = false ∧ (Instr.move 0x003#12 (reg 0x094#12)).wf = false ∧
    (Instr.ln 0#6 0#6 0#6 (0x1F#224 <<< 3)).wf = false ∧ Instr.powerOnReset.wf = false := by decide +kernel

/-! ## The worked examples of the spec -/

/-- A result and the flags it sets. -/
def gives (r : Nat × Flags) (x : Nat) (f : Flags) : Bool := decide (r.1 = x) && decide (r.2 = f)

/-- R232, after the table of R236: BF16 0xFF81 to F32 sets NV, and back; F8B 0x7D to F32 does not, and back. -/
theorem test_convert :
    gives (convertCode 1 0 0xFF81) 0xFFC10000 flNV = true ∧ gives (convertCode 0 1 0xFFC10000) 0xFFC1 flNone = true ∧
    gives (convertCode 4 0 0x7D) 0x7FA00000 flNone = true ∧ (convertCode 0 4 0x7FA00000).1 = 0x7D := by decide +kernel

/-- R246, its example: the scale 0x67, the codes, and the flags NX, UF and OF; then 101.25 in place of 100, without OF from it; then a NaN. -/
theorem test_quantise :
    let f (x : Nat) : Exact := valueOf 0 x
    let zeros : List Exact := List.replicate 27 (f 0)
    let q := quantiseGroup ([f 0x42C80000, f 0x7F800000, f 0xBE99999A, f 0x3A83126F, f 0x80000000] ++ zeros) 3 0
    let q2 := quantiseGroup ([f 0x42CA8000, f 0] ++ List.replicate 3 (f 0) ++ zeros) 3 0
    let q3 := quantiseGroup ([f 0x42C80000, f 0x7FC00000] ++ List.replicate 3 (f 0) ++ zeros) 3 0
    q.1 = 0x67 ∧ q.2.1.take 5 = [0x7D, 0x7E, 0xBA, 0x02, 0x80] ∧ q.2.2 = flNX ||| flUF ||| flOF ∧
    q2.1 = 0x67 ∧ q2.2.1.head? = some 0x7E ∧ q2.2.2 = flNX ∧ q3.1 = 0xFF ∧ q3.2.1 = List.replicate 32 0x7F ∧ q3.2.2 = flNone := by
  decide +kernel

/-- R252, the example at the end of the accumulator store: E 10 below zero, products 3/4 and −3/4 of a unit give 0 and −1, the guard 1; E
−60 leaves no headroom. -/
theorem test_wide_tile :
    let a : List (List Exact) := [[.fin false 3 (-12) false, .fin true 3 (-12) false]]
    let b : List (List Exact) := [[.fin false 1 0 false], [.fin false 1 0 false]]
    let t (e : Int) : Tile := { mode := .W, exps := [(0, BitVec.ofInt 16 e)] }
    ((tileAdd (t (-10)) 2 a b).toOption.map fun x => (x.word 0 0, x.guard 0)) = some (-1#64, 1) ∧
    (tileAdd (t (-60)) 2 a b).toOption.isNone = true := by decide +kernel

/-- R259: the first state from seed 1. -/
theorem test_sounding : soundNext 1#32 = 0x00042021#32 := by decide +kernel

/-- R56, R57, their example: −0, a flushed −1.5·2^−130 and −0 are words of 0 that count as −0; +0 does not. -/
theorem test_negative_zero :
    ([0x80000000, 0x80180000].all fun x => (fxwFrom 0 x (-20)).1 = 0 && (fxwFrom 0 x (-20)).2.1) = true ∧
    (fxwFrom 0 0 (-20)).2.1 = false := by decide +kernel

/-- R46, the entries of the stream from C0 to C2: OP, LEN, FE, FLAG, STREAM and the local extent of the ADD. -/
theorem test_entry_words :
    let e (w : Word) : AlmEntry := { word := w }
    let l := e 0x12184A00040A2400#64; let a := e 0x32184A00040E2400#64; let m := e 0x42184A0004046000#64
    [entryOp l, entryOp a, entryOp m] = [1, 3, 4] ∧ [entryLen l, entryType l, entryFlag l, entryStream l, entryRep l] = [8, 0, 3, 37, 0] ∧
    entryFe l = true ∧ [field (entryRef a) 17 6, field (entryRef a) 9 8, field (entryRef a) 0 9] = [7, 0x12, 0] := by decide +kernel

/-- R50, the same run: 0x7FFFFFFF plus 1000 in element 15 leaves the signed range and becomes 0x800003E7. -/
theorem test_ring_add :
    let x : Payload := BitVec.ofNat 2048 (0x7FFFFFFF * 2 ^ 480 + 14 * 2 ^ 448)
    let y : Payload := BitVec.ofNat 2048 (1000 * 2 ^ 480 + 1000 * 2 ^ 448)
    addPayload 32 8 x y = (BitVec.ofNat 2048 (0x800003E7 * 2 ^ 480 + 1014 * 2 ^ 448), true) := by decide +kernel

/-- The lengths of successive chunks for four parties with MINC 2. -/
def chunks : (fuel rem : Nat) → List Nat
  | 0, _ => []
  | n + 1, rem => chunkLength rem 4 2 :: chunks n (rem - chunkLength rem 4 2)
/-- R139, its example: the chunks of 100 iterations for four parties with MINC 2. -/
theorem test_chunks :
    chunks 21 100 = [13, 11, 10, 9, 8, 7, 6, 5, 4, 4, 3, 3, 3, 2, 2, 2, 2, 2, 2, 2, 0] := by decide +kernel

/-- R210, its example: PA 0x4002_3000 under INTERLEAVE, LOCAL and PLC 4 in place of the entry's mode. -/
theorem test_region_home :
    let e (m : Nat) : RegionEntry := { base := 0x40000000, limit := 0x140000000, lbase := 0x80000000, dset := 0x55, slog2 := 12, mode := m }
    (e 0).home 0x40023000 = [(6, 0x80008000)] ∧ (e 1).home 0x40023000 = [(0, 0x80023000)] := by decide +kernel

/-- R77, R78, their example: lane 5 going east from package 3 to package 9, PSEQ 0x2A. -/
theorem test_nonce : nonceOf 3 9 .east 5 0x2A = 0x0C950000000000000000002A#96 := by decide +kernel

/-- R39. The check value of CRC-32C (CRC-32/ISCSI in the catalogues): that of the ASCII digits 1 to 9. -/
theorem test_crc : crc32c ((List.range 9).map fun n => BitVec.ofNat 8 (0x31 + n)) = 0xE3069283 := by decide +kernel

/-- R77, R80. AES-256-GCM under a key and a nonce of zeros: the tag of one block of ciphertext (test
case 14 of the algorithm's own paper). -/
theorem test_gcm :
    bytesNat (gcmTagBytes (List.replicate 32 0#8) (List.replicate 12 0#8) [] (natBytes 0xCEA7403D4D606B6E074EC5D3BAF39D18 16)) =
      0xD0D1C8A799996BF0265B98B5D48AB919 := by decide +kernel

/-- R88. SHA-512 of the letters abc, as its standard gives it: the first and the last eight bytes. -/
theorem test_sha512 :
    let h := sha512 [0x61#8, 0x62#8, 0x63#8]
    h.length = 64 ∧ bytesNat (h.take 8) = 0xDDAF35A193617ABA ∧ bytesNat (h.drop 56) = 0x2A9AC94FA54CA49F := by decide +kernel

/-- R109, the accepted launch: word 0, NEEDS and the two levels. -/
theorem test_record :
    let words : List Nat := [0x0110003848000000] ++ List.replicate 10 0 ++ [0x02104060] ++ List.replicate 4 0 ++ [0x144000000, 0x1000B1000000]
    let l := recordLaunch (words.flatMap fun w => bytesOf w 8) 1 3 41
    [l.weight, l.rlimit, l.prio, l.spb, l.vreg, l.opb, l.acct] = [16, 3, 1, 96, 32, 16, 4] ∧ l.resumeRule = true ∧
    l.levels.map (·.extent) = [1, 4096] ∧ (l.levels.map (·.chunk)) = [false, true] := by decide +kernel

/-- The packets of the encoded example, as words from word 0. -/
def imageWords : List Nat :=
  [0xA0000000, 0x00200001, 0x00220002, 0x00400003, 0x00423004, 0x9A070000, 0x1E200105, 0x1C220120, 0x00158009, 0x12345678,
   0, 0, 0, 0, 0, 0, 0xA4000000, 0x00200005, 0x00232120, 0x00400006]
/-- Core 0 at a byte of that image. -/
def atImage (off : Nat) : State :=
  let s := seat {}
  setCore (putDram s placedCode (imageWords.flatMap fun w => bytesOf w 4)) 0 { coreOf s 0 with pc := placedCode + off }
/-- R261, R262, the encoded packets: bundle A, of two raw moves to operand ports and two operations; bundle B at 0x14, with a long immediate,
REP 3, SYNC and a negated guard; and where each ends. -/
theorem test_packets :
    ((bundleAt (atImage 0) 0).toOption.map fun b => (b.len, b.moves)) =
      some (5, [.move 0x100#12 (reg 0x001#12), .sAdd .s0 (reg 0x002#12), .move 0x200#12 (reg 0x003#12), .sSub .s1 (imm 0x004#12)]) ∧
    ((bundleAt (atImage 0x14) 0).toOption.map fun b => (b.rep, b.sync, b.longs.headD 0#64, b.moves)) =
      some (3, true, 0x12345678#64,
        [.move 0x100#12 ⟨3#4, true, true, false, 0x105#12⟩, .sAdd .s0 ⟨3#4, true, false, false, 0x120#12⟩, .move 0x0AC#12 (reg 0x009#12)]) := by
  decide +kernel

/-! ## One step of some instructions -/

/-- The state after an outcome; the state after reset where it is none. -/
def after (o : Out) : State :=
  match o with
  | .next u => u
  | _ => State.reset
/-- What core 0 holds at a selector after an instruction on `seat k`. -/
def left (k : Core) (i : Instr) (key : Nat) : PVal := valueAt (coreOf (after (exec i (seat k))) 0) key
/-- A core with operands at o0, o1 of S0 and values in s3 and s4. -/
def pair (a b x : Word) : Core := { latch := [(0x100, at_ a), (0x101, at_ b)], sc := [(3, x)] }

/-- R291. The sum wraps at 64 bits, and at 32 bits the result is sign-extended or zero-extended as R291 says. -/
theorem test_add_wraps : left (pair (-1#64) 0#64 2#64) (.sAdd .s0 s3) 0x100 = .sc 1#64 := by decide +kernel
/-- R292. MULH of −1 and −1 is 0; MULHU of the same words is 2⁶⁴ − 2. -/
theorem test_mulh : left (pair (-1#64) 0#64 (-1#64)) (.sMulh .s0 s3) 0x100 = .sc 0#64 ∧
    left (pair (-1#64) 0#64 (-1#64)) (.sMulhu .s0 s3) 0x100 = .sc (-2#64) := by decide +kernel
/-- R294. −7 / 2 is −3, and −7 rem 2 is −1. -/
theorem test_div : left (pair (-7#64) 0#64 2#64) (.sDiv .s0 s3) 0x100 = .sc (-3#64) ∧
    left (pair (-7#64) 0#64 2#64) (.sRem .s0 s3) 0x100 = .sc (-1#64) := by decide +kernel
/-- R160. A write to s0 is discarded; s5 takes it. -/
theorem test_move : left { sc := [(3, 6#64)] } (.move 0x000#12 s3) 0 = .sc 0#64 ∧
    left { sc := [(3, 6#64)] } (.move 0x005#12 s3) 5 = .sc 6#64 := by decide +kernel

/-- A vector of lanes of w bits. -/
def lanes (w : Nat) (l : List Nat) : Vec := BitVec.ofNat 4096 (l.foldr (fun x acc => x + 2 ^ w * acc) 0)
/-- A core whose V0 works in a type, with operands at its ports, DV 20, and a vector in v3. -/
def lanesOf (t : BitVec 4) (o0 o1 o2 : PVal) (v : Vec) : Core :=
  { latch := [(0x300, ⟨o0, 0, 0#12⟩), (0x301, ⟨o1, 0, 0#12⟩), (0x302, ⟨o2, 0, 0#12⟩)], ty := [(2, t)], dv := [(2, 20#6)], ve := [(0x43, v)],
    sc := [(3, 0#64)] }
/-- Core 0 after an instruction. -/
def coreAfter (k : Core) (i : Instr) : Core := coreOf (after (exec i (seat k))) 0
/-- Lane i of v20, v21, … as counted from v20. -/
def outLane (k : Core) (w i : Nat) : Nat := (laneAt w (Map.get k.ve (0x54 + i * w / 4096) 0#4096) (i % (4096 / w))).toNat

/-- R293, its example: bits 35 to 28 of 0xF000_0000; the one bit with two below it. -/
theorem test_field : left { latch := [(0x100, at_ 0xABCD1234F0000000#64), (0x101, at_ 28#64)] } (.sExt32 .s0 (imm 8#12)) 0x100 = .sc 0xF#64 ∧
    left { latch := [(0x100, at_ 0xABCD1234F0000000#64)] } (.sFns .s0 (imm 2#12)) 0x100 = .sc 30#64 := by decide +kernel
/-- R298, its example: BF16 0xFF81 to F32 with NV. -/
theorem test_fcvt :
    (let k := coreAfter { ty := [(0, 1#4)], sc := [(3, 0xFF81#64)] } (.sFcvt .s0 s3)
     valueAt k 0x100 = .sc 0xFFC10000#64 ∧ k.flg = flNV) := by decide +kernel
/-- R327, its example: I8 lanes 100 and 100, saturating or not. -/
theorem test_vadd :
    (let k := coreAfter (lanesOf 12#4 (.ve (lanes 8 [100])) (.sc 0#64) (.sc 1#64) (lanes 8 [100])) (.vAdd .v0 v3)
     outLane k 8 0 = 127 ∧ k.flg = flOF) ∧
    (let k := coreAfter (lanesOf 12#4 (.ve (lanes 8 [100])) (.sc 0#64) (.sc 0#64) (lanes 8 [100])) (.vAdd .v0 v3)
     outLane k 8 0 = 0xC8 ∧ k.flg = flNone) := by decide +kernel
/-- R333, its example: part 2 of v20 takes 1.0 and 1000.0 as F8A. -/
theorem test_vcvt :
    let k := coreAfter (lanesOf 0#4 (.sc 0#64) (.sc 0#64) (.sc 0x23#64) (lanes 32 [0x3F800000, 0x447A0000])) (.vCvt .v0 v3)
    outLane k 8 256 = 0x38 ∧ outLane k 8 257 = 0x7E ∧ outLane k 8 0 = 0 ∧ k.flg = flOF ||| flNX := by decide +kernel
/-- R338, its example: the tree sum of 2²⁴, 0, 1 and 1. -/
theorem test_tree :
    let k := coreAfter (lanesOf 0#4 (.sc 0#64) (.sc 0#64) (.sc 0#64) (lanes 32 [0x4B800000, 0, 0x3F800000, 0x3F800000])) (.vRed .v0 v3)
    valueAt k 0x102 = .sc 0x4B800001#64 ∧ k.flg = flNone := by decide +kernel
/-- Executions of the rotating loop of R177's example. -/
def turns : (n : Nat) → Core → Core
  | 0, k => k
  | n + 1, k => turns n (rotateStage 64 k).1
/-- R177, its example: k.lc, k.ec and RV after each of the five executions, and p8, p9, p10 before the last. -/
theorem test_rotation :
    let k : Core := { lc := 2#64, ec := 3#8, pr := 0x100#16 }
    ([1, 2, 3, 4, 5].map fun n => ((turns n k).lc, (turns n k).ec, (turns n k).rv)) =
      [(1#64, 3#8, 31), (0#64, 3#8, 30), (0#64, 2#8, 29), (0#64, 1#8, 28), (0#64, 0#8, 27)] ∧
    ([0, 1, 2, 3, 4].map fun n => [8, 9, 10].map fun p => (turns n k).pr.getLsbD (physP (turns n k) p)) =
      [[true, false, false], [true, true, false], [true, true, true], [false, true, true], [false, false, true]] := by decide +kernel

/-! ## The whole machine -/

/-- An answer that goes on. -/
def goes (o : Out) : Bool :=
  match o with
  | .next _ => true
  | _ => false
theorem next_of {o : Out} (h : goes o = true) : ∃ t, o = .next t := by
  cases o with
  | next t => exact ⟨t, rfl⟩
  | fault f => simp [goes] at h
  | refused r => simp [goes] at h
/-- An answer that is a fault. -/
def faults (o : Out) : Bool :=
  match o with
  | .fault _ => true
  | _ => false
theorem fault_of {o : Out} (h : faults o = true) : ∃ f, o = .fault f := by
  cases o with
  | next t => simp [faults] at h
  | fault f => exact ⟨f, rfl⟩
  | refused r => simp [faults] at h

/-- A state with cells listed in both memories, whose next step executes the placed bundle. -/
def listed : State := { placeInstruction State.reset 0x00220005 with hostMem := writeBytes [] 0x8000 [1#8, 2#8] }
theorem witness_MemoryKept : listed.MemoryOk ∧ listed.mem ≠ [] ∧ ∃ t, step listed = .next t := by
  refine ⟨by unfold State.MemoryOk; decide +kernel, by decide +kernel, next_of (by decide +kernel)⟩

/-- A state whose next step serves a read beyond the device's memory. -/
def beyond : State :=
  { arrived State.reset {} { request 1 2 with paddr := 8 * Config.dieSpan } with agenda := [{ ticks := 0, what := some .read }] }
theorem witness_NeverRefused : ∃ f, step beyond = .fault f := fault_of (by decide +kernel)

end Sys2Proof.Tests
end

namespace Sys2Proof.Machine

/-! ## Power-on reset: what the registers read -/

/-- R41. The ownership table's default: class 2 at position 0 of lane 0, one key in each direction, class 0 elsewhere. -/
theorem ownerOf_reset_cls (key : Nat) : (ownerOf State.reset key).cls = if key % 512 = 0 then 2 else 0 := by
  have h : (keyLane key = 0 ∧ keyPos key = 0) ↔ key % 512 = 0 := by
    unfold keyLane keyPos
    omega
  change (if (keyLane key = 0 && keyPos key = 0) = true then 2 else 0) = _
  simp [h]

/-- R98. No error counter of a station has counted. -/
theorem merErr_reset (k : Nat) : merErr (station State.reset k) = 0 := by
  change merErr {} = 0
  decide

/-- R161, R197. A core that no state lists: idle, flags, rotation registers and tiles clear, nothing allocated. -/
theorem reset_core : let k : Core := {}
    k.mode = .idle ∧ k.flg = 0#6 ∧ rrbWord k = 0#64 ∧ k.region = none ∧ k.handles = [] ∧ k.counters = [] ∧ k.plans = [] ∧
      ∀ n, tileOf k n = {} := ⟨rfl, rfl, by decide, rfl, rfl, rfl, rfl, fun _ => rfl⟩

/-- R197. The capacities of such a core, and its sticky types. -/
theorem reset_core_capacities : let k : Core := {}
    capacity k .spad = 384 ∧ capacity k .opd = 64 ∧ capVreg k = 64 ∧ capTiles k = 16 ∧
      typeReg k 0 = 6 ∧ typeReg k 1 = 6 ∧ typeReg k 2 = 0 ∧ typeReg k 3 = 0 := by decide

/-- Settles O57: the reset state lists nothing, so every register reads its default; the closing clause is the memories' form. -/
theorem resetState : Obligations.ResetState := by
  refine ⟨rfl, rfl, rfl, rfl, rfl, rfl, rfl,
    rfl, rfl, rfl, rfl, rfl, rfl, rfl,
    rfl, rfl, rfl, rfl, fun _ _ => rfl,
    rfl, rfl, rfl, rfl, rfl, rfl, rfl, rfl,
    rfl, rfl, rfl, rfl, rfl, rfl, rfl, rfl,
    rfl, rfl, rfl, rfl,
    fun _ _ => rfl, rfl, rfl, rfl, rfl,
    fun key _ => ⟨rfl, ownerOf_reset_cls key⟩,
    fun k _ => ⟨rfl, rfl, merErr_reset k⟩,
    fun c _ => ?_,
    reset_memory_wf⟩
  obtain ⟨hmode, hflg, hrrb, hregion, hhandles, hcounters, hplans, htiles⟩ := reset_core
  obtain ⟨hspad, hopd, hvreg, hcapa, hty⟩ := reset_core_capacities
  obtain ⟨hty0, hty1, hty2, hty3⟩ := hty
  exact ⟨hmode, hflg, hrrb, hregion, hhandles, hcounters, hplans, hspad, hopd, hvreg, hcapa, hty0, hty1, hty2, hty3,
    fun n _ => htiles n⟩
end Sys2Proof.Machine

namespace Sys2Proof.Machine

/-! ## The two memories

A frame lemma `memories_f` says that f leaves both memories; `canonical_f` says that f keeps their form. There is one for each
function of the model that gives a state, in the order of the model; each cites those of the functions that it calls.
-/

/-- Device memory and host memory. -/
def State.memories (s : State) : List Host.Cell × List Host.Cell := (s.mem, s.hostMem)

/-- Both memories in canonical form. -/
def Canonical (m : List Host.Cell × List Host.Cell) : Prop := Memory.wf m.1 = true ∧ Memory.wf m.2 = true

theorem memoryOk_iff (s : State) : s.MemoryOk ↔ Canonical s.memories := Iff.rfl

@[simp] theorem memories_pair (s : State) : (s.mem, s.hostMem) = s.memories := rfl

/-- A record update of other fields leaves the memories. The proof is `(rfl)`, here and below, so that simp rewrites with the
equation under a fold's hypothesis instead of unfolding by it. -/
@[simp] theorem memories_mk (agenda : List Agendum) (arg : Arg) (cur : Nat) (out : List OutMsg) (chron : Nat) (skew : Map Int)
    (chronFloor : Map Nat) (clocks : Map Nat) (mgmt : Mgmt) (eq : Equator) (queues : Map Queue) (rrQueue : Nat) (nextLaunch : Nat)
    (launches : List Launch) (waypoints : List Waypoint) (disps : Map Dispatcher) (barriers : List (GroupKey × Barrier))
    (regions : Map StepRegion) (cores : Map Core) (engines : Map Engine) (cmds : List Cmd) (nextCmd : Nat) (ring : Nat)
    (slots : Map Slot) (reclaiming : List StreamReq) (owners : Map Owner) (stations : Map Station) (waiting : List Waiting)
    (inbox : List (Nat × Packet)) (tokens : List Token) (homes : Map Home) (joinDecs : List JoinDec) (mem : List Host.Cell)
    (poisoned : List Nat) (hostMem : List Host.Cell) (cxlReqs : List CxlReq) :
    (State.mk agenda arg cur out chron skew chronFloor clocks mgmt eq queues rrQueue nextLaunch launches waypoints disps barriers
      regions cores engines cmds nextCmd ring slots reclaiming owners stations waiting inbox tokens homes joinDecs mem poisoned
      hostMem cxlReqs).memories = (mem, hostMem) := (rfl)

/-! ## Stores -/

section
variable {s : State} (a : Nat)

@[simp] theorem canonical_hostStored (bs : List Byte) (hs : Canonical s.memories) :
    Canonical (s.mem, writeBytes s.hostMem a bs) := ⟨hs.1, writeBytes_wf bs _ a hs.2⟩

@[simp] theorem canonical_stored (bs : List Byte) (hs : Canonical s.memories) :
    Canonical (writeBytes s.mem a bs, s.hostMem) := ⟨writeBytes_wf bs _ a hs.1, hs.2⟩

@[simp] theorem canonical_zeroed (n : Nat) (hs : Canonical s.memories) :
    Canonical (zeroRange s.mem a n, s.hostMem) := ⟨zeroRange_wf _ a n hs.1, hs.2⟩

end

/-! ## Choices and folds -/

section
variable {c : Prop} [Decidable c] {α : Type} {f : State → α → State} {s : State}

@[simp] theorem memories_ite (t : State) :
    (if c then s else t).memories = if c then s.memories else t.memories := apply_ite ..

@[simp] theorem canonical_ite {m n : List Host.Cell × List Host.Cell} (hm : Canonical m) (hn : Canonical n) :
    Canonical (if c then m else n) := by
  split
  · exact hm
  · exact hn

@[simp] theorem memories_elim (x : Option α) {f : α → State} (hf : ∀ a, (f a).memories = s.memories) :
    (x.elim s f).memories = s.memories := by
  cases x with
  | none => rfl
  | some a => exact hf a

theorem canonical_elim (x : Option α) {f : α → State} (hs : Canonical s.memories) (hf : ∀ a, Canonical (f a).memories) :
    Canonical (x.elim s f).memories := by
  cases x with
  | none => exact hs
  | some a => exact hf a

/-- A fold of steps that leave both memories leaves them. -/
@[simp] theorem memories_foldl (hf : ∀ s x, (f s x).memories = s.memories) (l : List α) (s : State) :
    (l.foldl f s).memories = s.memories := by
  induction l generalizing s with
  | nil => rfl
  | cons x l ih => rw [List.foldl_cons, ih, hf]

/-- A fold of steps that keep the canonical form keeps it. -/
theorem canonical_foldl (hf : ∀ s x, Canonical s.memories → Canonical (f s x).memories) (l : List α) (hs : Canonical s.memories) :
    Canonical (l.foldl f s).memories :=
  List.foldlRecOn (motive := fun s => Canonical s.memories) l f hs fun s hs x _ => hf s x hs

end

/-! ## Stops: an operation that raises or waits has no next state (R164) -/

section
variable {α : Type} {x : α} {code : BitVec 16} {info : Word} {o : OpIn}

theorem raise_ne_ok : raise code info ≠ .ok x := nofun
theorem block_ne_ok : (block : Res α) ≠ .ok x := nofun
theorem raiseMove_ne_ok {idx : Nat} {p : BitVec 12} : raiseMove code idx p ≠ .ok x := nofun
theorem raiseMiss_ne_ok {m : Miss} {va kind : Nat} : raiseMiss m va kind ≠ .ok x := by cases m <;> nofun
theorem illegalType_ne_ok {t : Nat} : illegalType o t ≠ .ok x := nofun
theorem wrongPair_ne_ok {a : Tensor} : wrongPair o a ≠ .ok x := nofun
theorem headroom_ne_ok {row tile : Nat} : headroom row tile ≠ .ok x := nofun

end

/-! ## Named places (R196 to R203) -/

@[simp] theorem memories_setCore (s : State) (c : Nat) (k : Core) : (setCore s c k).memories = s.memories := (rfl)

@[simp] theorem memories_modCore (s : State) (c : Nat) (f : Core → Core) : (modCore s c f).memories = s.memories := (rfl)

@[simp] theorem memories_modEngine (s : State) (e : Nat) (f : Engine → Engine) : (modEngine s e f).memories = s.memories := (rfl)

@[simp] theorem memories_modHome (s : State) (d : Nat) (f : Home → Home) : (modHome s d f).memories = s.memories := (rfl)

@[simp] theorem memories_modStation (s : State) (k : Nat) (f : Station → Station) :
    (modStation s k f).memories = s.memories := (rfl)

@[simp] theorem memories_modDisp (s : State) (d : Nat) (f : Dispatcher → Dispatcher) :
    (modDisp s d f).memories = s.memories := (rfl)

@[simp] theorem memories_modQueue (s : State) (q : Nat) (f : Queue → Queue) : (modQueue s q f).memories = s.memories := (rfl)

@[simp] theorem memories_modLaunch (s : State) (l : Nat) (f : Launch → Launch) : (modLaunch s l f).memories = s.memories := (rfl)

@[simp] theorem memories_modWp (s : State) (k : WpKey) (f : Waypoint → Waypoint) : (modWp s k f).memories = s.memories := (rfl)

@[simp] theorem memories_passTime (s : State) (t : Nat) : (passTime s t).memories = s.memories := by simp [passTime]

@[simp] theorem memories_poisonRange (s : State) (a n : Nat) : (poisonRange s a n).memories = s.memories := by simp [poisonRange]

@[simp] theorem canonical_putDram (s : State) (a : Nat) (bs : List Byte) (hs : Canonical s.memories) :
    Canonical (putDram s a bs).memories := by simp [putDram, hs]

@[simp] theorem memories_enqueue (s : State) (i : Instr) (arg : Arg) : (enqueue s i arg).memories = s.memories := (rfl)

@[simp] theorem memories_emit (s : State) (m : OutMsg) : (emit s m).memories = s.memories := (rfl)

@[simp] theorem memories_emitLink (s : State) (m : OutMsg) : (emitLink s m).memories = s.memories := by simp [emitLink]

@[simp] theorem memories_logEvent (s : State) (cls die unit code addr launch detail : Nat) :
    (logEvent s cls die unit code addr launch detail).memories = s.memories := (rfl)

/-! ## Spaces and caches of translations -/

@[simp] theorem memories_cacheRegions (s : State) (e : Nat) (l : Launch) : (cacheRegions s e l).memories = s.memories := (rfl)

@[simp] theorem memories_cacheLeaf (s : State) (e : Nat) (l : Launch) (va : Nat) (t : Translated) :
    (cacheLeaf s e l va t).memories = s.memories := by
  unfold cacheLeaf
  dsimp only
  split <;> simp

/-! ## The engine: requests, copies and commands (R369 to R386) -/

section
variable {s s' : State}

@[simp] theorem memories_sendPacket (s : State) (src dst : Nat) (p : Packet) (late : Option (Nat × Piece)) :
    (sendPacket s src dst p late).memories = s.memories := by simp [sendPacket]

@[simp] theorem memories_request (s : State) (e cmd : Nat) (p : Packet) (piece : Option Piece) (late : Option (Nat × Piece)) :
    (request s e cmd p piece late).memories = s.memories := by simp [request]

@[simp] theorem memories_dropReq (s : State) (e : Nat) (seq : BitVec 32) : (dropReq s e seq).memories = s.memories := (rfl)

@[simp] theorem memories_notifyWaiter (s : State) (d : Nat) (w : Waiter) :
    (notifyWaiter s d w).memories = s.memories := by simp [notifyWaiter]

@[simp] theorem memories_afterStore (s : State) (a n : Nat) : (afterStore s a n).memories = s.memories := by simp [afterStore]

@[simp] theorem canonical_storeDram (s : State) (a : Nat) (bs : List Byte) (hs : Canonical s.memories) :
    Canonical (storeDram s a bs).memories := by simp [storeDram, hs]

@[simp] theorem canonical_storeDramNat (s : State) (a v n : Nat) (hs : Canonical s.memories) :
    Canonical (storeDramNat s a v n).memories := by simp [storeDramNat, hs]

@[simp] theorem canonical_storeHomes (s : State) (homes : List Nat) (bs : List Byte) (hs : Canonical s.memories) :
    Canonical (storeHomes s homes bs).memories := canonical_foldl (fun s a hs => canonical_storeDram s a bs hs) homes hs

@[simp] theorem memories_sendSnoop (s : State) (line : Nat) : (sendSnoop s line).memories = s.memories := by simp [sendSnoop]

theorem canonical_storeVa {l : Launch} {va : Nat} {bs : List Byte} (h : storeVa s l va bs = .ok s') (hs : Canonical s.memories) :
    Canonical s'.memories := by
  unfold storeVa at h
  grind [canonical_storeHomes, memories_emitLink, memories_mk, canonical_hostStored]

theorem canonical_storeVaRange {l : Launch} {va : Nat} {bs : List Byte} {t : State} (h : storeVaRange s l va bs = .ok t)
    (hs : Canonical s.memories) : Canonical t.memories := by
  unfold storeVaRange at h
  refine List.foldlRecOn (motive := fun r => ∀ t, r = Except.ok t → Canonical t.memories) _ _ ?_ ?_ t h
  · rintro _ ⟨⟩; exact hs
  · intro r hr p _ u hu
    grind [canonical_storeVa]

@[simp] theorem memories_contribute (s : State) (l region rank : Nat) (elems : List (Nat × Nat)) :
    (contribute s l region rank elems).memories = s.memories := (rfl)

@[simp] theorem canonical_addHot (s : State) (a x : Nat) (hs : Canonical s.memories) :
    Canonical (addHot s a x).memories := by simp [addHot, hs]

@[simp] theorem canonical_flushHot (s : State) (e launch : Nat) (hs : Canonical s.memories) :
    Canonical (flushHot s e launch).memories := by
  refine canonical_foldl (fun s h hs => ?_) _ (by simpa using hs)
  split
  · split
    · exact canonical_foldl (fun s a hs => by simp [hs]) _ hs
    · exact hs
  · exact hs

@[simp] theorem canonical_countHot (s : State) (e launch buf bytes ticks : Nat) (hs : Canonical s.memories) :
    Canonical (countHot s e launch buf bytes ticks).memories := by
  unfold countHot
  split <;> simp [hs]

@[simp] theorem memories_cacheRange (s : State) (e : Nat) (l : Launch) (va n kind : Nat) :
    (cacheRange s e l va n kind).memories = s.memories :=
  memories_foldl (fun s v => by split <;> simp) _ s

@[simp] theorem memories_cacheRef (s : State) (cmd : Cmd) (r : Word) (n kind : Nat) :
    (cacheRef s cmd r n kind).memories = s.memories := by simp [cacheRef]

@[simp] theorem memories_modCmd (s : State) (id : Nat) (f : Cmd → Cmd) : (modCmd s id f).memories = s.memories := (rfl)

@[simp] theorem memories_dropCmd (s : State) (id : Nat) : (dropCmd s id).memories = s.memories := by
  unfold dropCmd
  split <;> simp

@[simp] theorem memories_addStatus (s : State) (id st : Nat) : (addStatus s id st).memories = s.memories := (rfl)

@[simp] theorem memories_settleLine (s : State) (id c h line : Nat) (st : LineState) :
    (settleLine s id c h line st).memories = s.memories := by
  unfold settleLine
  split <;> simp

@[simp] theorem memories_poisonUnfilled (s : State) (cmd : Cmd) :
    (poisonUnfilled s cmd).memories = s.memories := by simp [poisonUnfilled]

@[simp] theorem memories_logEntryError (s : State) (e : Nat) (l : Launch) (code : BitVec 16) (va : Nat) :
    (logEntryError s e l code va).memories = s.memories := by
  unfold logEntryError
  grind [memories_logEvent]

@[simp] theorem memories_failCmd (s : State) (id : Nat) (f : BitVec 16 × Word) : (failCmd s id f).memories = s.memories := by
  unfold failCmd
  split <;> simp

@[simp] theorem memories_accHandle (s : State) (c h off : Nat) (ws : List (Option Int)) :
    (accHandle s c h off ws).memories = s.memories := by
  unfold accHandle
  split
  · rfl
  · refine memories_foldl (fun s wi => ?_) _ s
    split
    · rfl
    · exact memories_modCore ..

@[simp] theorem canonical_accDram (s : State) (a : Nat) (ws : List (Option Int)) (hs : Canonical s.memories) :
    Canonical (accDram s a ws).memories :=
  canonical_foldl (fun s wi hs => by split <;> simp [hs]) _ hs

@[simp] theorem memories_hostRequest (s : State) (e cmd : Nat) (pkt : Packet) (piece : Option Piece) (kind : CxlKind) (h : Nat)
    (value : BitVec 1024) : (hostRequest s e cmd pkt piece kind h value).memories = s.memories := by simp [hostRequest]

@[simp] theorem canonical_hostStore (s : State) (e cmd : Nat) (piece : Option Piece) (h : Nat) (bs : List Byte)
    (hs : Canonical s.memories) : Canonical (hostStore s e cmd piece h bs).memories := by simp [hostStore, hs]

@[simp] theorem memories_takeRemote (s : State) (cmd : Cmd) (x : RemoteLine) : (takeRemote s cmd x).memories = s.memories := by
  unfold takeRemote
  split <;> simp

@[simp] theorem canonical_deliverWhole (s0 : State) (cmd : Cmd) (p : Piece) (got : Fetched) (hs : Canonical s0.memories) :
    Canonical (deliverWhole s0 cmd p got).memories := by
  unfold deliverWhole
  dsimp only
  repeat' split
  all_goals simp [hs]

@[simp] theorem canonical_deliver (s : State) (cmd : Cmd) (p : Piece) (got : Fetched) (hs : Canonical s.memories) :
    Canonical (deliver s cmd p got).memories := by
  unfold deliver
  dsimp only
  repeat' split
  all_goals simp [hs]

@[simp] theorem canonical_countPiece (s : State) (cmd : Cmd) (p : Piece) (hs : Canonical s.memories) :
    Canonical (countPiece s cmd p).memories := by
  unfold countPiece
  dsimp only
  repeat' split
  all_goals simp [hs]

theorem canonical_sendPiece {cmd : Cmd} {p : Piece} (h : sendPiece s cmd p = some s') (hs : Canonical s.memories) :
    Canonical s'.memories := by
  unfold sendPiece at h
  grind [memories_request, memories_hostRequest, memories_failCmd, canonical_deliver]

theorem canonical_beginPiece {cmd : Cmd} {p : Piece} (h : beginPiece s cmd p = some s') (hs : Canonical s.memories) :
    Canonical s'.memories := by
  unfold beginPiece at h
  grind [canonical_sendPiece, canonical_countPiece]

@[simp] theorem canonical_beginPieces (s : State) (id lim : Nat) (ps : List Piece) (hs : Canonical s.memories) :
    Canonical (beginPieces s id lim ps).memories := by
  induction ps generalizing s lim with
  | nil => cases lim <;> simpa [beginPieces] using hs
  | cons p rest ih =>
    cases lim with
    | zero => simpa [beginPieces] using hs
    | succ n =>
      unfold beginPieces
      grind [canonical_beginPiece, memories_modCmd]

@[simp] theorem canonical_advancePieces (s : State) (id lim : Nat) (hs : Canonical s.memories) :
    Canonical (advancePieces s id lim).memories := by
  unfold advancePieces
  split <;> simp [hs]

@[simp] theorem memories_saWrite (s : State) (cmd : Cmd) (u : Loc × Int) : (saWrite s cmd u).memories = s.memories := by
  unfold saWrite
  dsimp only
  repeat' split
  all_goals simp

@[simp] theorem canonical_advanceUpdates (s : State) (id lim : Nat) (hs : Canonical s.memories) :
    Canonical (advanceUpdates s id lim).memories := by
  unfold advanceUpdates
  split
  · exact hs
  · exact canonical_foldl (fun s u hs => by simp [hs]) _ (by simpa using hs)

@[simp] theorem memories_prefMiss (s : State) (id : Nat) (ps : List Piece) : (prefMiss s id ps).memories = s.memories := by
  unfold prefMiss
  split <;> simp

@[simp] theorem canonical_startCopy (s : State) (cmd : Cmd) (hs : Canonical s.memories) : Canonical (startCopy s cmd).memories := by
  unfold startCopy
  dsimp only
  split <;> simp [hs]

@[simp] theorem canonical_startWord (s : State) (cmd : Cmd) (kind access : Nat) (hs : Canonical s.memories) :
    Canonical (startWord s cmd kind access).memories := by
  unfold startWord
  dsimp only
  repeat' split
  all_goals simp [hs]

@[simp] theorem canonical_askNeed (s : State) (q : Asker) (wp : WpKey) (n : Need) (hs : Canonical s.memories) :
    Canonical (askNeed s q wp n).memories := by
  unfold askNeed
  split
  · simpa using hs
  · dsimp only
    split
    · exact hs
    · cases hp : sendPiece _ _ _ with
      | none => exact hs
      | some t => exact canonical_sendPiece hp hs

@[simp] theorem canonical_readList (s : State) (cmd : Cmd) (hs : Canonical s.memories) : Canonical (readList s cmd).memories := by
  unfold readList
  dsimp only
  repeat' split
  all_goals simp [hs]

@[simp] theorem memories_sendLine (s : State) (m : Migration) : (sendLine s m).memories = s.memories := by simp [sendLine]

@[simp] theorem memories_startMigration (s : State) (cmd : Cmd) : (startMigration s cmd).memories = s.memories := by
  unfold startMigration
  dsimp only
  repeat' split
  all_goals simp

@[simp] theorem canonical_beginCommand (s : State) (cmd : Cmd) (hs : Canonical s.memories) :
    Canonical (beginCommand s cmd).memories := by
  unfold beginCommand
  dsimp only
  split <;> simp [hs]

@[simp] theorem canonical_startCommand (s : State) (cmd : Cmd) (hs : Canonical s.memories) :
    Canonical (startCommand s cmd).memories := by simp [startCommand, hs]

@[simp] theorem canonical_beginHeld (s : State) (hs : Canonical s.memories) : Canonical (beginHeld s).memories :=
  canonical_foldl (fun s c hs => by split <;> simp [hs]) _ hs

@[simp] theorem canonical_performEff (s : State) (e : Eff) (hs : Canonical s.memories) : Canonical (performEff s e).memories := by
  unfold performEff
  grind [memories_modCore, memories_contribute, canonical_startCommand]

@[simp] theorem canonical_performAll (s : State) (es : List Eff) (hs : Canonical s.memories) :
    Canonical (performAll s es).memories :=
  canonical_foldl (fun s e hs => by simp [hs]) es hs

end

/-! ## Charting (R197 to R201) -/

@[simp] theorem memories_modChart (s : State) (c : Nat) (l : Level) (f : Chart → Chart) :
    (modChart s c l f).memories = s.memories := (rfl)

@[simp] theorem memories_logRetired (s : State) (c : Nat) (code bank : Nat) :
    (logRetired s c code bank).memories = s.memories := (rfl)

@[simp] theorem memories_applyShrink (s : State) (c : Nat) (l : Level) : (applyShrink s c l).memories = s.memories := by
  unfold applyShrink
  dsimp only
  split
  · rfl
  · rw [memories_enqueue]
    refine List.foldlRecOn (motive := fun acc : State × Nat => acc.1.memories = s.memories) _ _ rfl fun acc ih w _ => ?_
    split
    · exact ih
    · simpa using ih

@[simp] theorem memories_retireBank (s : State) (c : Nat) (l : Level) (p : Nat) : (retireBank s c l p).memories = s.memories := by
  unfold retireBank
  dsimp only
  repeat' split
  all_goals simp

@[simp] theorem memories_bankFails (s : State) (c : Nat) (l : Level) (p : Nat) :
    (bankFails s c l p).memories = s.memories := by simp [bankFails]

@[simp] theorem memories_serveOwed (s : State) (c : Nat) (l : Level) : (serveOwed s c l).memories = s.memories := by
  unfold serveOwed
  refine (memories_foldl (fun s o => ?_) _ _).trans (memories_foldl (fun s o => ?_) _ s)
  · split
    · rfl
    · exact memories_modChart ..
  · split <;> simp

@[simp] theorem memories_releaseHandles (s : State) (c : Nat) (p : Nat → Handle → Bool) :
    (releaseHandles s c p).memories = s.memories := by simp [releaseHandles]

@[simp] theorem memories_retireIdle (s : State) (c : Nat) : (retireIdle s c).memories = s.memories := by simp [retireIdle]

@[simp] theorem memories_regFails (s : State) (c bank : Nat) : (regFails s c bank).memories = s.memories := by simp [regFails]

@[simp] theorem memories_cacheFails (s : State) (d bank : Nat) : (cacheFails s d bank).memories = s.memories := by simp [cacheFails]

/-! ## Barriers and the swap of step regions (R212 to R217, R405) -/

section
variable {s s' : State}

@[simp] theorem memories_setBarrier (s : State) (g : GroupKey) (b : Barrier) : (setBarrier s g b).memories = s.memories := (rfl)

@[simp] theorem canonical_swapElement (l : Launch) (x : SwapRegion) (now next : Nat) (r : StepRegion) (s : State) (i : Nat)
    (hs : Canonical s.memories) : Canonical (swapElement l x now next r s i).memories := by
  have stored (b n : Nat) (homes : List Nat) : Canonical (homes.foldl (fun s a => putDram s a (dramBytes s b n)) s).memories :=
    canonical_foldl (fun s a hs => by simp [hs]) homes hs
  unfold swapElement
  dsimp only
  split
  · split
    · split
      · simpa using stored _ _ _
      · exact stored _ _ _
    · exact canonical_foldl (fun s a hs => by simp [hs]) _ hs
  · split
    · exact hs
    · exact hs

@[simp] theorem canonical_swapRegion (s : State) (l : Launch) (x : SwapRegion) (hs : Canonical s.memories) :
    Canonical (swapRegion s l x).1.memories :=
  canonical_foldl (fun s i hs => canonical_swapElement _ _ _ _ _ s i hs) _ hs

theorem canonical_swapAll {g : GroupKey} {ovf : BitVec 16} (h : swapAll s g = .inr (s', ovf)) (hs : Canonical s.memories) :
    Canonical s'.memories := by
  unfold swapAll at h
  dsimp only at h
  split at h
  · cases h
  · split at h
    · cases h
    · rw [show s' = (s', ovf).1 from rfl, ← Sum.inr.inj h]
      refine List.foldlRecOn (motive := fun acc : State × BitVec 16 => Canonical acc.1.memories) _ _ hs fun acc ih x _ => ?_
      exact canonical_swapRegion acc.1 _ x ih

@[simp] theorem canonical_completeBarrier (s : State) (g : GroupKey) (others : List Bool) (hs : Canonical s.memories) :
    Canonical (completeBarrier s g others).memories := by
  unfold completeBarrier
  dsimp only
  split
  · exact hs
  · split
    · exact hs
    · split
      · exact hs
      · next hswap => simpa using canonical_swapAll hswap hs

@[simp] theorem canonical_arriveAt (s : State) (w : Waypoint) (isStep : Bool) (hs : Canonical s.memories) :
    Canonical (arriveAt s w isStep).memories := by simp [arriveAt, hs]

@[simp] theorem memories_withdraw (s : State) (k : WpKey) : (withdraw s k).memories = s.memories := by
  unfold withdraw
  split <;> simp

@[simp] theorem memories_leaveBarrier (s : State) (k : WpKey) : (leaveBarrier s k).memories = s.memories := by
  unfold leaveBarrier
  split <;> simp

end

/-! ## Context frames (R148, R192) -/

@[simp] theorem canonical_writeFrame (s : State) (a : Nat) (ro : List Byte) (k : Core) (hs : Canonical s.memories) :
    Canonical (writeFrame s a ro k).memories :=
  ⟨List.foldlRecOn (motive := fun m => Memory.wf m = true) _ _ (zeroRange_wf _ a _ hs.1)
    fun m hm p _ => writeBytes_wf p.2 m (a + p.1) hm, hs.2⟩

@[simp] theorem canonical_putFrame (s : State) (key : WpKey) (c : Option Nat) (k : Core) (hs : Canonical s.memories) :
    Canonical (putFrame s key c k).memories := by
  unfold putFrame
  split <;> simp [hs]

/-! ## The Sighting (R33) -/

@[simp] theorem memories_missTrigger (s : State) : (missTrigger s).memories = s.memories := (rfl)

@[simp] theorem memories_sightTrigger (s : State) (t cause : Nat) : (sightTrigger s t cause).memories = s.memories := by
  unfold sightTrigger
  dsimp only
  repeat' split
  all_goals simp

@[simp] theorem memories_fireSighting (s : State) : (fireSighting s).memories = s.memories := by simp [fireSighting]

@[simp] theorem memories_machineCheckSighting (s : State) :
    (machineCheckSighting s).memories = s.memories := by simp [machineCheckSighting]

/-! ## Effects, regions, waypoints and the taking of a trap (R125 to R130, R182 to R195) -/

section
variable {s s' : State}

theorem canonical_effect {c : Nat} {e : Eff} (h : effect s c e = .ok s') (hs : Canonical s.memories) : Canonical s'.memories := by
  unfold effect at h
  grind [raise_ne_ok, memories_setCore, canonical_performEff]

theorem canonical_storeStep {c j : Nat} {elems : List (Nat × Nat)}
    (h : storeStep s c j elems = .ok s') (hs : Canonical s.memories) :
    Canonical s'.memories := by
  unfold storeStep at h
  dsimp only at h
  split at h
  · exact absurd h raiseMiss_ne_ok
  · exact canonical_effect h hs

theorem canonical_storeAt {c : Nat} {t : Target} {bs : List Byte} (h : storeAt s c t bs = .ok s') (hs : Canonical s.memories) :
    Canonical s'.memories := by
  unfold storeAt at h
  grind [raise_ne_ok, canonical_effect, canonical_storeStep]

@[simp] theorem canonical_closeRegion (s : State) (c : Nat) (hs : Canonical s.memories) : Canonical (closeRegion s c).memories := by
  unfold closeRegion
  dsimp only
  split <;> simp [hs]

@[simp] theorem canonical_openRegion (s : State) (c a : Nat) (hs : Canonical s.memories) :
    Canonical (openRegion s c a).memories := by simp [openRegion, hs]

@[simp] theorem canonical_cancelCmd (s : State) (cmd : Cmd) (hs : Canonical s.memories) :
    Canonical (cancelCmd s cmd).memories := by simp [cancelCmd, hs]

@[simp] theorem canonical_cancelTagged (s : State) (key : WpKey) (tag : Nat) (hs : Canonical s.memories) :
    Canonical (cancelTagged s key tag).memories := by
  unfold cancelTagged
  exact canonical_foldl (fun s x hs => by simp [hs]) _ (by simp [hs])

@[simp] theorem canonical_rollBack (s : State) (c : Nat) (hs : Canonical s.memories) : Canonical (rollBack s c).memories := by
  unfold rollBack
  dsimp only
  split <;> simp [hs]

@[simp] theorem memories_makeReady (s : State) (k : WpKey) : (makeReady s k).memories = s.memories := (rfl)

@[simp] theorem memories_freeCore (s : State) (c : Nat) : (freeCore s c).memories = s.memories := by simp [freeCore]

@[simp] theorem memories_releaseAll (s : State) (k : WpKey) : (releaseAll s k).memories = s.memories := by simp [releaseAll]

@[simp] theorem memories_noteEmpty (s : State) (d : Nat) : (noteEmpty s d).memories = s.memories := by simp [noteEmpty]

@[simp] theorem memories_discardWp (s : State) (k : WpKey) : (discardWp s k).memories = s.memories := by
  unfold discardWp
  split <;> simp

@[simp] theorem memories_settleFreed (s : State) (key : WpKey) : (settleFreed s key).memories = s.memories := by simp [settleFreed]

@[simp] theorem memories_endLaunch (s : State) (l : Nat) (how : Ending) : (endLaunch s l how).memories = s.memories := by
  unfold endLaunch
  refine (memories_foldl (fun s w => ?_) _ _).trans (memories_modLaunch ..)
  split <;> simp

@[simp] theorem memories_endFaulted (s : State) (k : WpKey) (code : BitVec 16) (at_ : Nat) :
    (endFaulted s k code at_).memories = s.memories := by
  unfold endFaulted
  split <;> simp

@[simp] theorem memories_enterHandler (s : State) (c : Nat) (code : BitVec 16) (info : Word) (at_ : Nat) :
    (enterHandler s c code info at_).memories = s.memories := by simp [enterHandler]

@[simp] theorem memories_quarantine (s : State) (c : Nat) (code : BitVec 16) (info : Word) :
    (quarantine s c code info).memories = s.memories := by simp [quarantine]

@[simp] theorem canonical_takeAsync (s : State) (c : Nat) (code : BitVec 16) (info : Word) (older : Bool)
    (hs : Canonical s.memories) : Canonical (takeAsync s c code info older).memories := by
  unfold takeAsync
  dsimp only
  repeat' split
  all_goals simp [hs]

@[simp] theorem canonical_takeTrap (s0 : State) (c : Nat) (t : Trap) (hs : Canonical s0.memories) :
    Canonical (takeTrap s0 c t).memories := by simp [takeTrap, hs]

@[simp] theorem memories_pickUpAgain (s : State) (c resume : Nat) : (pickUpAgain s c resume).memories = s.memories := (rfl)

@[simp] theorem memories_resumeFromHandler (s : State) (c : Nat) : (resumeFromHandler s c).memories = s.memories := (rfl)

@[simp] theorem canonical_rollbackFromHandler (s : State) (c : Nat) (hs : Canonical s.memories) :
    Canonical (rollbackFromHandler s c).memories := by
  unfold rollbackFromHandler
  split <;> simp [hs]

@[simp] theorem canonical_parked (s : State) (c : Nat) (p : Park) (hs : Canonical s.memories) :
    Canonical (parked s c p).memories := by
  unfold parked
  grind [memories_modCore, canonical_askNeed, canonical_closeRegion, canonical_arriveAt]

theorem canonical_stopped {c : Nat} {e : Stop} (h : stopped s c e = .next s') (hs : Canonical s.memories) :
    Canonical s'.memories := by
  unfold stopped at h
  grind [canonical_takeTrap, canonical_parked]

end

/-! ## Results, ports, and a trigger move by itself (R156 to R169) -/

section
variable {o : OpIn} {s s' : State}

theorem memories_moveInto {c idx : Nat} {d sel : BitVec 12} {k0 : Core} {v : PVal} (h : moveInto s c idx d sel k0 v = .ok s') :
    s'.memories = s.memories := by
  unfold moveInto at h
  grind [raise_ne_ok, raiseMove_ne_ok, memories_modCore]

theorem memories_deliverPort {c idx : Nat} {d sel : BitVec 12} {v : PVal} (h : deliverPort s c idx d sel v = .ok s') :
    s'.memories = s.memories := by
  unfold deliverPort at h
  grind [raiseMove_ne_ok, memories_modCore]

@[simp] theorem memories_scalarResult (s : State) (o : OpIn) (w : Word) (dist : Nat) :
    (scalarResult s o w dist).memories = s.memories := (rfl)

@[simp] theorem memories_variableResult (s : State) (o : OpIn) (w : Word) : (variableResult s o w).memories = s.memories := (rfl)

theorem memories_vectorResult {n : Nat} {v : Vec} {dist : Nat} {fixed : Bool} (h : vectorResult s o n v dist fixed = .ok s') :
    s'.memories = s.memories := by
  unfold vectorResult at h
  grind [memories_modCore]

@[simp] theorem memories_maskResult (s : State) (o : OpIn) (m : LaneMask) (dist : Nat) :
    (maskResult s o m dist).memories = s.memories := (rfl)

/-- An operation keeps both memories in canonical form: what runTrigger and the bundle ask of the operation they issue. -/
def OpKeeps (op : OpIn → State → Res State) : Prop :=
  ∀ ⦃o s s'⦄, op o s = .ok s' → Canonical s.memories → Canonical s'.memories

theorem opKeeps_of_memories {op : OpIn → State → Res State} (h : ∀ {o s s'}, op o s = .ok s' → s'.memories = s.memories) :
    OpKeeps op :=
  fun _ _ _ ho hs => h ho ▸ hs

@[simp] theorem memories_fed (s : State) (k : Core) : (fed s k).memories = s.memories := (rfl)

@[simp] theorem memories_spent (c : Nat) (m : MoveF) (s : State) : (spent c m s).memories = s.memories := by
  rw [spent_cores]
  rfl

/-- A trigger move by itself: it stops, or it is its operation with its forward register consumed. -/
theorem canonical_runTrigger {op : OpIn → State → Res State} {d : BitVec 12} {m : MoveF} (hop : OpKeeps op)
    (h : runTrigger op d m s = .next s') (hs : Canonical s.memories) : Canonical s'.memories := by
  rcases runTrigger_cases op d m s with ⟨-, hr⟩ | ⟨e, -, hr⟩ | ⟨v, k, -, ⟨e, -, hr⟩ | ⟨u, hu, hr⟩⟩
  · cases hr.symm.trans h
    exact hs
  · exact canonical_stopped (hr.symm.trans h) hs
  · exact canonical_stopped (hr.symm.trans h) hs
  · cases hr.symm.trans h
    simpa using hop hu (by simpa using hs)

end

/-! ## The end of a bundle -/

@[simp] theorem memories_endBundle (s : State) (c next : Nat) : (endBundle s c next).memories = s.memories := (rfl)

/-! ## Waypoints (R124 to R134) -/

@[simp] theorem memories_addWaypoint (s : State) (w : Waypoint) : (addWaypoint s w).memories = s.memories := (rfl)

@[simp] theorem memories_writeRecord (s : State) (c : Nat) (st : WpState) (wait resume : Nat) :
    (writeRecord s c st wait resume).memories = s.memories := (rfl)

@[simp] theorem memories_yieldCore (s : State) (c resume : Nat) :
    (yieldCore s c resume).memories = s.memories := by simp [yieldCore]

/-! ## Branch operations (R302 to R321) -/

section
variable {o : OpIn} {s s' : State}

theorem memories_branchTo {c : Nat} {t : Word} (h : branchTo s c t = .ok s') : s'.memories = s.memories := by
  unfold branchTo at h
  grind [raise_ne_ok, memories_modCore]

theorem memories_opBrJmp (h : opBrJmp o s = .ok s') : s'.memories = s.memories := by
  unfold opBrJmp at h
  grind [memories_branchTo]

theorem memories_opBrJmpi (h : opBrJmpi o s = .ok s') : s'.memories = s.memories := by
  unfold opBrJmpi at h
  grind [memories_branchTo]

theorem memories_callTo {t : Word} (h : callTo s o t = .ok s') : s'.memories = s.memories := by
  unfold callTo at h
  grind [memories_branchTo, memories_modCore]

theorem memories_opBrCall (h : opBrCall o s = .ok s') : s'.memories = s.memories := by
  unfold opBrCall at h
  grind [memories_callTo]

theorem memories_opBrCalli (h : opBrCalli o s = .ok s') : s'.memories = s.memories := by
  unfold opBrCalli at h
  grind [memories_callTo]

theorem memories_opBrLoop (h : opBrLoop o s = .ok s') : s'.memories = s.memories := by
  unfold opBrLoop at h
  grind [memories_branchTo, memories_modCore]

theorem memories_opBrLoopr (h : opBrLoopr o s = .ok s') : s'.memories = s.memories := by
  unfold opBrLoopr at h
  grind [memories_setCore, memories_branchTo]

theorem memories_opBrLeave (h : opBrLeave o s = .ok s') : s'.memories = s.memories := by
  unfold opBrLeave at h
  grind [memories_modCore]

theorem memories_opBrYield (h : opBrYield o s = .ok s') : s'.memories = s.memories := by
  unfold opBrYield at h
  grind [memories_yieldCore]

@[simp] theorem memories_requestWait (s : State) (c a : Nat) (join : Bool) :
    (requestWait s c a join).memories = s.memories := by simp [requestWait]

theorem memories_suspendOp {join : Bool} (h : suspendOp join o s = .ok s') : s'.memories = s.memories := by
  unfold suspendOp at h
  grind [memories_requestWait, memories_writeRecord]

@[simp] theorem memories_sendDecrement (s : State) (c : Nat) (w : Waypoint) : (sendDecrement s c w).memories = s.memories := by
  unfold sendDecrement
  dsimp only
  repeat' split
  all_goals simp

theorem memories_opBrHalt (h : opBrHalt o s = .ok s') : s'.memories = s.memories := by
  unfold opBrHalt at h
  grind [memories_freeCore, memories_writeRecord, memories_modWp, memories_releaseAll, memories_sendDecrement]

@[simp] theorem canonical_addAtHome (s : State) (a n : Nat) (hs : Canonical s.memories) :
    Canonical (addAtHome s a n).memories := by simp [addAtHome, hs]

@[simp] theorem memories_makeRange (s : State) (c entry lvl lo hi aff : Nat) (join : Word) (wpid : Nat) :
    (makeRange s c entry lvl lo hi aff join wpid).memories = s.memories := (rfl)

theorem canonical_opBrSpawn (h : opBrSpawn o s = .ok s') (hs : Canonical s.memories) : Canonical s'.memories := by
  unfold opBrSpawn at h
  split at h
  · split at h
    · exact absurd h raise_ne_ok
    · split at h
      · cases h
      · cases h
      · split at h
        · cases h; exact hs
        · split at h
          · exact absurd h block_ne_ok
          · dsimp only at h
            split at h
            · exact absurd h block_ne_ok
            · cases h
              rw [memories_settleFreed, memories_makeRange]
              exact canonical_elim _ hs fun a => canonical_addAtHome _ _ _ hs
  all_goals cases h

theorem memories_opBrTrap (h : opBrTrap o s = .ok s') : s'.memories = s.memories := by
  unfold opBrTrap at h
  grind [raise_ne_ok]

theorem memories_opBrSys (h : opBrSys o s = .ok s') : s'.memories = s.memories := by
  unfold opBrSys at h
  grind [raise_ne_ok, memories_logEvent, memories_fireSighting, memories_endLaunch]

theorem canonical_opBrRfe (h : opBrRfe o s = .ok s') (hs : Canonical s.memories) : Canonical s'.memories := by
  unfold opBrRfe at h
  grind [raise_ne_ok, canonical_rollbackFromHandler, memories_resumeFromHandler]

theorem memories_opBrWaitt (h : opBrWaitt o s = .ok s') : s'.memories = s.memories := by
  unfold opBrWaitt at h
  dsimp only at h
  repeat' split at h
  all_goals cases h
  all_goals simp

theorem memories_opBrKchk (h : opBrKchk o s = .ok s') : s'.memories = s.memories := by
  unfold opBrKchk at h
  grind [memories_modCore]

end

/-! ## The ring (R36 to R59) -/

@[simp] theorem memories_setOwner (s : State) (key : Nat) (o : Owner) : (setOwner s key o).memories = s.memories := (rfl)

@[simp] theorem memories_setSlot (s : State) (key : Nat) (x : Slot) : (setSlot s key x).memories = s.memories := (rfl)

@[simp] theorem memories_setFlag (s : State) (k f status : Nat) : (setFlag s k f status).memories = s.memories := (rfl)

@[simp] theorem memories_clearStreamFlags (s : State) (x : StreamReq) : (clearStreamFlags s x).memories = s.memories := (rfl)

@[simp] theorem memories_clearFlag (s : State) (k f : Nat) : (clearFlag s k f).memories = s.memories := (rfl)

@[simp] theorem memories_setEntry (s : State) (k key : Nat) (e : AlmEntry) : (setEntry s k key e).memories = s.memories := (rfl)

@[simp] theorem canonical_writeLocal (s : State) (a : Local) (bs : List Byte) (hs : Canonical s.memories) :
    Canonical (writeLocal s a bs).memories := by
  unfold writeLocal
  split
  · split
    · exact hs
    · exact hs
  · exact canonical_foldl (fun s p hs => by simp [hs]) _ hs

@[simp] theorem memories_poisonLocal (s : State) (a : Local) (n : Nat) : (poisonLocal s a n).memories = s.memories := by
  unfold poisonLocal
  split
  · split
    · rfl
    · rfl
  · simp

@[simp] theorem memories_markEntryLines (s : State) (k : Nat) (e : AlmEntry) : (markEntryLines s k e).memories = s.memories := by
  unfold markEntryLines
  split
  · rfl
  · refine memories_foldl (fun s n => ?_) _ s
    split
    · split
      · rfl
      · rfl
    · rfl

@[simp] theorem memories_writeEntry (s : State) (k key : Nat) (w : Word) (launch : Nat) (chunk : Option (Nat × Nat × Nat)) :
    (writeEntry s k key w launch chunk).memories = s.memories := by simp [writeEntry]

@[simp] theorem memories_disarm (s : State) (p : Nat → AlmEntry → Bool) : (disarm s p).memories = s.memories := (rfl)

/-! ## Forward registers (R178 to R181) -/

@[simp] theorem memories_deliverForward (s : State) (c place : Nat) : (deliverForward s c place).memories = s.memories := by
  unfold deliverForward
  dsimp only
  repeat' split
  all_goals simp

/-! ## Scalar operations (R289 to R294, R299 to R301) -/

section
variable {o : OpIn} {s s' : State}

theorem memories_intOp1 {w dist : Nat} {f : (w x : Nat) → Int} (h : intOp1 w dist f o s = .ok s') : s'.memories = s.memories := by
  unfold intOp1 at h
  grind [memories_scalarResult]

theorem memories_intOp2 {w dist : Nat} {f : (w x y : Nat) → Int} (h : intOp2 w dist f o s = .ok s') : s'.memories = s.memories := by
  unfold intOp2 at h
  grind [memories_scalarResult]

theorem memories_countOp {w : Nat} {f : (w x len : Nat) → Int} (h : countOp w f o s = .ok s') : s'.memories = s.memories := by
  unfold countOp at h
  grind [memories_scalarResult]

theorem memories_divOp {op : DivOp} {w : Nat} (h : divOp op w o s = .ok s') : s'.memories = s.memories := by
  unfold divOp at h
  grind [memories_scalarResult, memories_modCore]

theorem memories_opSSel {w : Nat} (h : opSSel w o s = .ok s') : s'.memories = s.memories := by
  unfold opSSel at h
  grind [memories_scalarResult]

theorem memories_opSExt {w : Nat} (h : opSExt w o s = .ok s') : s'.memories = s.memories := by
  unfold opSExt at h
  grind [memories_scalarResult]

theorem memories_opSIns {w : Nat} (h : opSIns w o s = .ok s') : s'.memories = s.memories := by
  unfold opSIns at h
  grind [memories_scalarResult]

theorem memories_opSFns {w : Nat} (h : opSFns w o s = .ok s') : s'.memories = s.memories := by
  unfold opSFns at h
  grind [memories_scalarResult]

theorem memories_opSSptest (h : opSSptest o s = .ok s') : s'.memories = s.memories := by
  unfold opSSptest at h
  grind [memories_scalarResult]

theorem memories_opSSpcast (h : opSSpcast o s = .ok s') : s'.memories = s.memories := by
  unfold opSSpcast at h
  grind [memories_scalarResult]

theorem memories_opSRefmk (h : opSRefmk o s = .ok s') : s'.memories = s.memories := by
  unfold opSRefmk at h
  grind [raise_ne_ok, memories_scalarResult]

end

/-! ## Vector operations (R322 to R340) -/

section
variable {o : OpIn} {s s' : State}

theorem memories_laneResult {t : Nat} {r : List (Nat × Flags)} {dist : Nat} (h : laneResult s o t r dist = .ok s') :
    s'.memories = s.memories := by
  unfold laneResult at h
  grind [memories_vectorResult, memories_modCore]

theorem memories_vecOp1 {hasSat : Bool} {ok : Nat → Bool} {dist : Nat → Nat} {f : (sat : Bool) → (t x : Nat) → Nat × Flags}
    (h : vecOp1 hasSat ok dist f o s = .ok s') : s'.memories = s.memories := by
  unfold vecOp1 at h
  grind [illegalType_ne_ok, memories_laneResult]

theorem memories_vecOp2 {hasSat : Bool} {ok : Nat → Bool} {dist : Nat → Nat} {f : (sat : Bool) → (t x y : Nat) → Nat × Flags}
    (h : vecOp2 hasSat ok dist f o s = .ok s') : s'.memories = s.memories := by
  unfold vecOp2 at h
  grind [illegalType_ne_ok, memories_laneResult]

theorem memories_vecOp3 {ok : Nat → Bool} {dist : Nat → Nat} {f : (t x y z : Nat) → Nat × Flags}
    (h : vecOp3 ok dist f o s = .ok s') :
    s'.memories = s.memories := by
  unfold vecOp3 at h
  grind [illegalType_ne_ok, memories_laneResult]

theorem memories_opVCmp (h : opVCmp o s = .ok s') : s'.memories = s.memories := by
  unfold opVCmp at h
  grind [illegalType_ne_ok, memories_modCore, memories_maskResult]

theorem memories_opVSel (h : opVSel o s = .ok s') : s'.memories = s.memories := by
  unfold opVSel at h
  grind [illegalType_ne_ok, memories_laneResult]

theorem memories_opVMskp (h : opVMskp o s = .ok s') : s'.memories = s.memories := by
  unfold opVMskp at h
  grind [illegalType_ne_ok, memories_maskResult, memories_scalarResult]

theorem memories_moveLanes {t : Nat} {r : List Nat} (h : moveLanes s o t r = .ok s') : s'.memories = s.memories := by
  unfold moveLanes at h
  grind [memories_laneResult]

theorem memories_opVBcast (h : opVBcast o s = .ok s') : s'.memories = s.memories := by
  unfold opVBcast at h
  grind [illegalType_ne_ok, memories_moveLanes]

theorem memories_opVPerm (h : opVPerm o s = .ok s') : s'.memories = s.memories := by
  unfold opVPerm at h
  grind [illegalType_ne_ok, memories_moveLanes]

theorem memories_opVRot (h : opVRot o s = .ok s') : s'.memories = s.memories := by
  unfold opVRot at h
  grind [illegalType_ne_ok, memories_moveLanes]

theorem memories_opVIota (h : opVIota o s = .ok s') : s'.memories = s.memories := by
  unfold opVIota at h
  grind [illegalType_ne_ok, memories_moveLanes]

theorem memories_groupResult {dist : Nat} {fixed : Bool} {vs : List Vec} {n : Nat} (h : groupResult s o dist fixed n vs = .ok s') :
    s'.memories = s.memories := by
  induction vs generalizing s n with
  | nil => cases h; rfl
  | cons v vs ih =>
    unfold groupResult at h
    grind [memories_vectorResult]

theorem memories_readDv {n : Nat} {v : Vec} (h : readDv s o n = .ok (v, s')) : s'.memories = s.memories := by
  unfold readDv at h
  grind [memories_setCore]

theorem memories_readGroup {g n : Nat} {vs : List Vec} (h : readGroup o g s n = .ok (vs, s')) : s'.memories = s.memories := by
  induction g generalizing s n vs with
  | zero => cases h; rfl
  | succ g ih =>
    unfold readGroup at h
    grind [memories_readDv]

theorem memories_groupFlags {vs : List Vec} {f : Flags} {dist : Nat} {fixed : Bool} (h : groupFlags s o vs f dist fixed = .ok s') :
    s'.memories = s.memories := by
  unfold groupFlags at h
  grind [memories_groupResult, memories_modCore]

theorem memories_placeNarrow {tgt q ratio : Nat} {xs : List (Nat × Flags)} (h : placeNarrow s o tgt q ratio xs = .ok s') :
    s'.memories = s.memories := by
  unfold placeNarrow at h
  dsimp only at h
  split at h
  · exact memories_groupFlags h
  · split at h
    · cases h
    · next hr => rw [memories_groupFlags h, memories_readDv hr]

theorem memories_placeWide {tgt q ratio : Nat} {xs : List Nat} {f : (i x : Nat) → Nat × Flags}
    (h : placeWide s o tgt q ratio xs f = .ok s') : s'.memories = s.memories := by
  unfold placeWide at h
  grind [memories_groupFlags]

theorem memories_opVCvt (h : opVCvt o s = .ok s') : s'.memories = s.memories := by
  unfold opVCvt at h
  grind [illegalType_ne_ok, memories_placeNarrow, memories_placeWide]

theorem memories_opVQnt (h : opVQnt o s = .ok s') : s'.memories = s.memories := by
  unfold opVQnt at h
  grind [illegalType_ne_ok, memories_placeNarrow, memories_scalarResult, memories_modCore]

theorem memories_opVDeq (h : opVDeq o s = .ok s') : s'.memories = s.memories := by
  unfold opVDeq at h
  grind [illegalType_ne_ok, memories_placeWide]

theorem memories_opVFxa (h : opVFxa o s = .ok s') : s'.memories = s.memories := by
  unfold opVFxa at h
  split at h
  · dsimp only at h
    split at h
    · split at h
      · cases h
      · split at h
        · cases h
        · next hr => rw [memories_groupFlags h, memories_readGroup hr]
    · split at h
      · exact absurd h illegalType_ne_ok
      · split at h
        · cases h
        · split at h
          · exact memories_groupFlags h
          · split at h
            · cases h
            · next hr => rw [memories_groupFlags h, memories_readGroup hr]
  all_goals cases h

theorem memories_opVRed (h : opVRed o s = .ok s') : s'.memories = s.memories := by
  unfold opVRed at h
  grind [illegalType_ne_ok, memories_modCore, memories_scalarResult]

theorem memories_opVScan (h : opVScan o s = .ok s') : s'.memories = s.memories := by
  unfold opVScan at h
  grind [illegalType_ne_ok, memories_laneResult]

theorem memories_opVScanl (h : opVScanl o s = .ok s') : s'.memories = s.memories := by
  unfold opVScanl at h
  grind [illegalType_ne_ok, memories_groupFlags, memories_scalarResult]

theorem memories_scanfCarry {c : Word} {v : Nat} (h : scanfCarry s o c = .ok (v, s')) : s'.memories = s.memories := by
  unfold scanfCarry at h
  grind [memories_setCore]

theorem memories_opVScanf (h : opVScanf o s = .ok s') : s'.memories = s.memories := by
  unfold opVScanf at h
  dsimp only at h
  split at h
  · exact absurd h illegalType_ne_ok
  · split at h
    · split at h
      · cases h
      · split at h
        · cases h
        · next hc =>
          split at h
          · cases h
          · rw [memories_groupFlags h, memories_variableResult, memories_scanfCarry hc]
    all_goals cases h

end

/-! ## Loads and stores (R387 to R395) -/

section
variable {o : OpIn} {s s' : State}

theorem canonical_checkedStore {c : Nat} {r : Word} {align : Nat} {bs : List Byte} (h : checkedStore s c r align bs = .ok s')
    (hs : Canonical s.memories) : Canonical s'.memories := by
  unfold checkedStore at h
  grind [canonical_storeAt]

theorem memories_opLdV (h : opLdV o s = .ok s') : s'.memories = s.memories := by
  unfold opLdV at h
  grind [memories_vectorResult]

theorem memories_opLdS (h : opLdS o s = .ok s') : s'.memories = s.memories := by
  unfold opLdS at h
  grind [memories_variableResult]

theorem memories_opLdB (h : opLdB o s = .ok s') : s'.memories = s.memories := by
  unfold opLdB at h
  grind [memories_vectorResult]

theorem memories_opLdI (h : opLdI o s = .ok s') : s'.memories = s.memories := by
  unfold opLdI at h
  grind [raise_ne_ok, illegalType_ne_ok, memories_vectorResult]

theorem memories_opLdFe (h : opLdFe o s = .ok s') : s'.memories = s.memories := by
  unfold opLdFe at h
  split at h <;> grind [raise_ne_ok, memories_variableResult]

theorem canonical_opStV (h : opStV o s = .ok s') (hs : Canonical s.memories) : Canonical s'.memories := by
  unfold opStV at h
  grind [canonical_checkedStore]

theorem canonical_opStS (h : opStS o s = .ok s') (hs : Canonical s.memories) : Canonical s'.memories := by
  unfold opStS at h
  grind [canonical_checkedStore]

theorem canonical_storeElements {c size : Nat} {l : List (Target × Nat)} (h : storeElements s c size l = .ok s')
    (hs : Canonical s.memories) : Canonical s'.memories := by
  unfold storeElements at h
  grind [raise_ne_ok, canonical_effect, canonical_storeStep]

theorem canonical_opStI (h : opStI o s = .ok s') (hs : Canonical s.memories) : Canonical s'.memories := by
  unfold opStI at h
  grind [raise_ne_ok, illegalType_ne_ok, canonical_storeElements]

theorem canonical_opStM (h : opStM o s = .ok s') (hs : Canonical s.memories) : Canonical s'.memories := by
  unfold opStM at h
  grind [raise_ne_ok, canonical_storeElements]

theorem canonical_lineOp {mk : (core handle line n : Nat) → Eff} (h : lineOp mk o s = .ok s') (hs : Canonical s.memories) :
    Canonical s'.memories := by
  unfold lineOp at h
  grind [raise_ne_ok, canonical_effect]

end

/-! ## Matrix operations (R348 to R367) -/

section
variable {o : OpIn} {s s' : State}

theorem memories_idCopy {c n : Nat} {v : BitVec 256} (h : idCopy s c n = .ok (v, s')) : s'.memories = s.memories := by
  unfold idCopy at h
  grind [memories_modCore]

theorem memories_checkTensor {c : Nat} {t : Tensor} {v : Option Tensor} (h : checkTensor s c t = .ok (v, s')) :
    s'.memories = s.memories := by
  unfold checkTensor at h
  grind [raise_ne_ok, memories_idCopy]

theorem memories_identifier {c n : Nat} {t : Tensor} {sc : Option Tensor} (h : identifier s c n = .ok (t, sc, s')) :
    s'.memories = s.memories := by
  unfold identifier at h
  split at h
  · cases h
  · next hid =>
    split at h
    · cases h
    · next hck =>
      cases h
      rw [memories_checkTensor hck, memories_idCopy hid]

theorem memories_checkTileOp {p : TileOp} {tern : Bool} {aTags : List Nat} {mode : TileMode} {x : Operands}
    (h : checkTileOp s o p tern aTags mode = .ok (x, s')) : s'.memories = s.memories := by
  unfold checkTileOp at h
  split at h
  · cases h
  · next ha =>
    split at h
    · cases h
    · next hb =>
      have hab := (memories_identifier hb).trans (memories_identifier ha)
      split at h <;> grind [wrongPair_ne_ok, raise_ne_ok]

theorem canonical_runTileOp {p : TileOp} {tern : Bool} (h : runTileOp s o p tern = .ok s') (hs : Canonical s.memories) :
    Canonical s'.memories := by
  unfold runTileOp at h
  grind [headroom_ne_ok, memories_checkTileOp, canonical_countHot, memories_modCore]

theorem canonical_mmaOp {tern : Bool} (h : mmaOp tern o s = .ok s') (hs : Canonical s.memories) : Canonical s'.memories := by
  unfold mmaOp at h
  grind [canonical_runTileOp]

theorem canonical_opMxSeq (h : opMxSeq o s = .ok s') (hs : Canonical s.memories) : Canonical s'.memories := by
  unfold opMxSeq at h
  split at h <;> grind [raiseMove_ne_ok, memories_idCopy, canonical_runTileOp, memories_modCore]

theorem memories_opMxTid (h : opMxTid o s = .ok s') : s'.memories = s.memories := by
  unfold opMxTid at h
  grind [memories_checkTensor, memories_modCore]

theorem memories_opMxMode (h : opMxMode o s = .ok s') : s'.memories = s.memories := by
  unfold opMxMode at h
  grind [block_ne_ok, illegalType_ne_ok, memories_modCore]

theorem memories_opMxZero (h : opMxZero o s = .ok s') : s'.memories = s.memories := by
  unfold opMxZero at h
  grind [block_ne_ok, memories_modCore]

theorem memories_opMxSete (h : opMxSete o s = .ok s') : s'.memories = s.memories := by
  unfold opMxSete at h
  grind [block_ne_ok, headroom_ne_ok, memories_modCore]

theorem memories_opMxNrm (h : opMxNrm o s = .ok s') : s'.memories = s.memories := by
  unfold opMxNrm at h
  grind [block_ne_ok, memories_modCore]

theorem memories_opMxRd (h : opMxRd o s = .ok s') : s'.memories = s.memories := by
  unfold opMxRd at h
  split at h
  · grind [raise_ne_ok, block_ne_ok, illegalType_ne_ok, memories_vectorResult, memories_variableResult, memories_modCore]
  all_goals cases h

theorem memories_opMxWr (h : opMxWr o s = .ok s') : s'.memories = s.memories := by
  unfold opMxWr at h
  grind [raise_ne_ok, block_ne_ok, illegalType_ne_ok, headroom_ne_ok, memories_modCore]

theorem canonical_opMxBld (h : opMxBld o s = .ok s') (hs : Canonical s.memories) : Canonical s'.memories := by
  unfold opMxBld at h
  grind [raise_ne_ok, canonical_performEff]

theorem memories_opMxWait (h : opMxWait o s = .ok s') : s'.memories = s.memories := by
  unfold opMxWait at h
  grind [block_ne_ok]

theorem memories_opMxSound (h : opMxSound o s = .ok s') : s'.memories = s.memories := by
  unfold opMxSound at h
  grind [raise_ne_ok]

end

/-! ## Copy operations (R368 to R383) -/

section
variable {o : OpIn} {s s' : State}

theorem canonical_issueCmd {cmd : Cmd} {gated : Bool} (h : issueCmd s cmd gated = .ok s') (hs : Canonical s.memories) :
    Canonical s'.memories := by
  unfold issueCmd at h
  grind [canonical_effect, canonical_startCommand, memories_mk, memories_pair]

@[simp] theorem canonical_markFill (s : State) (c h : Nat) (offs : List Nat) (n : Nat) (hs : Canonical s.memories) :
    Canonical (markFill s c h offs n).1.memories := by
  unfold markFill
  exact canonical_foldl (fun s x hs => by simp [hs]) _ (by simp [hs])

theorem canonical_startFill {cmd : Cmd} {t : Target} {offs : List Nat} {n : Nat} (h : startFill s cmd t offs n = .ok s')
    (hs : Canonical s.memories) : Canonical s'.memories := by
  unfold startFill at h
  grind [raise_ne_ok, canonical_markFill, canonical_issueCmd]

theorem canonical_fillCopy {kind : CmdKind} (h : fillCopy kind o s = .ok s') (hs : Canonical s.memories) :
    Canonical s'.memories := by
  unfold fillCopy at h
  grind [canonical_startFill]

theorem canonical_opCpPut (h : opCpPut o s = .ok s') (hs : Canonical s.memories) : Canonical s'.memories := by
  unfold opCpPut at h
  grind [canonical_issueCmd]

theorem canonical_opCpGetg (h : opCpGetg o s = .ok s') (hs : Canonical s.memories) : Canonical s'.memories := by
  unfold opCpGetg at h
  grind [canonical_startFill]

theorem canonical_opCpPutg (h : opCpPutg o s = .ok s') (hs : Canonical s.memories) : Canonical s'.memories := by
  unfold opCpPutg at h
  grind [canonical_issueCmd]

theorem canonical_opCpAcc (h : opCpAcc o s = .ok s') (hs : Canonical s.memories) : Canonical s'.memories := by
  unfold opCpAcc at h
  grind [raise_ne_ok, canonical_issueCmd]

theorem canonical_opCpAtom (h : opCpAtom o s = .ok s') (hs : Canonical s.memories) : Canonical s'.memories := by
  unfold opCpAtom at h
  grind [illegalType_ne_ok, memories_modCore, canonical_issueCmd]

theorem canonical_sixteenBytes {cmd : Cmd} {align : Nat} {result : Bool} (h : sixteenBytes s o cmd align result = .ok s')
    (hs : Canonical s.memories) : Canonical s'.memories := by
  unfold sixteenBytes at h
  grind [memories_modCore, canonical_startFill]

theorem canonical_opCpCfa (h : opCpCfa o s = .ok s') (hs : Canonical s.memories) : Canonical s'.memories := by
  unfold opCpCfa at h
  grind [canonical_sixteenBytes]

theorem canonical_opCpRecov (h : opCpRecov o s = .ok s') (hs : Canonical s.memories) : Canonical s'.memories := by
  unfold opCpRecov at h
  grind [canonical_sixteenBytes]

theorem canonical_opCpMig (h : opCpMig o s = .ok s') (hs : Canonical s.memories) : Canonical s'.memories := by
  unfold opCpMig at h
  grind [raise_ne_ok, canonical_issueCmd, memories_modCore]

theorem canonical_opCpGetm (h : opCpGetm o s = .ok s') (hs : Canonical s.memories) : Canonical s'.memories := by
  unfold opCpGetm at h
  grind [illegalType_ne_ok, memories_checkTileOp, memories_modCore, canonical_startFill]

@[simp] theorem memories_counterResult (s : State) (o : OpIn) (x : BitVec 32) : (counterResult s o x).memories = s.memories := (rfl)

theorem memories_opCpWaitc (h : opCpWaitc o s = .ok s') : s'.memories = s.memories := by
  unfold opCpWaitc at h
  dsimp only at h
  repeat' split at h
  all_goals cases h
  all_goals simp

theorem memories_opCpStat (h : opCpStat o s = .ok s') : s'.memories = s.memories := by
  unfold opCpStat at h
  grind [memories_modCore, memories_counterResult]

theorem memories_opCpDrain (h : opCpDrain o s = .ok s') : s'.memories = s.memories := by
  unfold opCpDrain at h
  grind [block_ne_ok]

end

/-! ## Scatter-accumulate (R384, R385) -/

section
variable {o : OpIn} {s s' : State}

theorem canonical_saIssue {base ctl : Word} {e : Int} {pairs : List (Nat × Nat)} {gated : Bool}
    (h : saIssue s o base ctl e pairs gated = .ok s') (hs : Canonical s.memories) : Canonical s'.memories := by
  unfold saIssue at h
  grind [canonical_issueCmd]

theorem canonical_opSaOp (h : opSaOp o s = .ok s') (hs : Canonical s.memories) : Canonical s'.memories := by
  unfold opSaOp at h
  grind [canonical_saIssue]

theorem canonical_opSaPush (h : opSaPush o s = .ok s') (hs : Canonical s.memories) : Canonical s'.memories := by
  unfold opSaPush at h
  grind [canonical_saIssue]

theorem memories_opSaFlush (h : opSaFlush o s = .ok s') : s'.memories = s.memories := by
  unfold opSaFlush at h
  grind [block_ne_ok]

end

/-! ## Resource-group operations (R396 to R408) -/

section
variable {o : OpIn} {s s' : State}

@[simp] theorem memories_allocate (s : State) (c h rows cols : Nat) (ty : BitVec 4) (lvl : Level) :
    (allocate s c h rows cols ty lvl).2.memories = s.memories := by
  unfold allocate
  dsimp only
  repeat' split
  all_goals rfl

theorem memories_opRgHalloc (h : opRgHalloc o s = .ok s') : s'.memories = s.memories := by
  unfold opRgHalloc at h
  grind [memories_allocate, memories_variableResult]

theorem memories_opRgHfree (h : opRgHfree o s = .ok s') : s'.memories = s.memories := by
  unfold opRgHfree at h
  grind [raise_ne_ok, block_ne_ok, memories_releaseHandles]

theorem memories_opRgHinfo (h : opRgHinfo o s = .ok s') : s'.memories = s.memories := by
  unfold opRgHinfo at h
  grind [memories_variableResult]

theorem memories_opRgCap (h : opRgCap o s = .ok s') : s'.memories = s.memories := by
  unfold opRgCap at h
  grind [memories_variableResult]

theorem memories_opRgWaitf (h : opRgWaitf o s = .ok s') : s'.memories = s.memories := by
  unfold opRgWaitf at h
  grind [block_ne_ok, memories_variableResult, memories_clearFlag]

theorem memories_changeFlag {f : State → Nat → Nat → State} (hf : ∀ s k n, (f s k n).memories = s.memories)
    (h : changeFlag f o s = .ok s') : s'.memories = s.memories := by
  unfold changeFlag at h
  split at h
  · cases h
    split
    · simp
    · split <;> simp [hf]
  all_goals cases h

theorem memories_opRgAlmStrm (h : opRgAlmStrm o s = .ok s') : s'.memories = s.memories := by
  unfold opRgAlmStrm at h
  grind [memories_modStation]

theorem memories_almEntry (h : almEntry o s = .ok s') : s'.memories = s.memories := by
  unfold almEntry at h
  grind [raise_ne_ok, memories_writeEntry]

theorem memories_opRgAlm (h : opRgAlm o s = .ok s') : s'.memories = s.memories := by
  unfold opRgAlm at h
  grind [memories_opRgAlmStrm, memories_almEntry]

theorem memories_meet {w : Waypoint} {isStep : Bool} {ovf : BitVec 16} (h : meet s o w isStep = .ok (s', ovf)) :
    s'.memories = s.memories := by
  unfold meet at h
  grind [raise_ne_ok, block_ne_ok, memories_leaveBarrier]

theorem memories_opRgStep (h : opRgStep o s = .ok s') : s'.memories = s.memories := by
  unfold opRgStep at h
  grind [block_ne_ok, memories_variableResult, memories_meet]

theorem memories_opRgBar (h : opRgBar o s = .ok s') : s'.memories = s.memories := by
  unfold opRgBar at h
  grind [memories_meet]

theorem memories_opRgXfence (h : opRgXfence o s = .ok s') : s'.memories = s.memories := by
  unfold opRgXfence at h
  grind [memories_modCore]

theorem memories_opRgDrain (h : opRgDrain o s = .ok s') : s'.memories = s.memories := by
  unfold opRgDrain at h
  grind

end

/-! ## Collective calls (R409 to R416) -/

section
variable {o : OpIn} {s s' : State}

@[simp] theorem memories_modSlot (s : State) (c p : Nat) (f : PlanSlot → PlanSlot) :
    (modSlot s c p f).memories = s.memories := (rfl)

@[simp] theorem memories_modCall (s : State) (c p : Nat) (f : Call → Call) : (modCall s c p f).memories = s.memories := (rfl)

@[simp] theorem memories_noteSummary (s : State) (l st : Nat) : (noteSummary s l st).memories = s.memories := by simp [noteSummary]

@[simp] theorem canonical_endCall (s : State) (c p status : Nat) (hs : Canonical s.memories) :
    Canonical (endCall s c p status).memories := by
  unfold endCall
  dsimp only
  repeat' split
  all_goals simp [hs]

@[simp] theorem canonical_endCallEarly (s : State) (c p status : Nat) (hs : Canonical s.memories) :
    Canonical (endCallEarly s c p status).memories := by simp [endCallEarly, hs]

@[simp] theorem canonical_advanceCall (s : State) (c p : Nat) (hs : Canonical s.memories) :
    Canonical (advanceCall s c p).memories := by
  unfold advanceCall
  dsimp only
  repeat' split
  all_goals simp [hs]

@[simp] theorem canonical_chunkDone (s : State) (c p i status : Nat) (hs : Canonical s.memories) :
    Canonical (chunkDone s c p i status).memories := by simp [chunkDone, hs]

theorem memories_opRgCollLoad (h : opRgCollLoad o s = .ok s') : s'.memories = s.memories := by
  unfold opRgCollLoad at h
  split at h
  · dsimp only at h
    split at h
    · cases h
    · split at h <;> grind [raiseMiss_ne_ok, memories_modCore, memories_variableResult]
  all_goals cases h

theorem memories_opRgCollDrop (h : opRgCollDrop o s = .ok s') : s'.memories = s.memories := by
  unfold opRgCollDrop at h
  grind [memories_variableResult, memories_modCore]

theorem memories_callOp {resume : Bool} (h : callOp resume o s = .ok s') : s'.memories = s.memories := by
  unfold callOp at h
  grind [memories_variableResult, memories_modSlot, memories_mk, memories_pair]

theorem memories_opRgColl (h : opRgColl o s = .ok s') : s'.memories = s.memories := by
  unfold opRgColl at h
  split at h
  · cases h
  · split at h
    · exact memories_callOp h
    · exact memories_opRgCollLoad h
    · exact memories_callOp h
    · exact memories_opRgCollDrop h

theorem memories_opRgCwait (h : opRgCwait o s = .ok s') : s'.memories = s.memories := by
  unfold opRgCwait at h
  grind [block_ne_ok, memories_variableResult]

@[simp] theorem canonical_askSource (s : State) (c : Nat) (x : PlanSlot) (q : Call) (hs : Canonical s.memories) :
    Canonical (askSource s c x q).memories := by
  unfold askSource
  split <;> simp [hs]

@[simp] theorem canonical_mergeParty (acc : State × Token) (a : Nat × Nat × PlanSlot × Call) (hs : Canonical acc.1.memories) :
    Canonical (mergeParty acc a).1.memories := by
  unfold mergeParty
  split
  dsimp only
  split
  · exact hs
  · split
    · exact canonical_askSource _ _ _ _ hs
    · exact hs

/-- The parties of a station merge one after the other (R411). -/
theorem canonical_mergeParties (here : List (Nat × Nat × PlanSlot × Call)) (acc : State × Token) (hs : Canonical acc.1.memories) :
    Canonical (here.foldl mergeParty acc).1.memories :=
  List.foldlRecOn (motive := fun acc => Canonical acc.1.memories) here _ hs fun acc hs a _ => canonical_mergeParty acc a hs

@[simp] theorem memories_putToken (s : State) (kind group : Nat) (equator : Bool) (t : Option Token) :
    (putToken s kind group equator t).memories = s.memories := (rfl)

@[simp] theorem canonical_startParty (s : State) (t : Token) (a : Nat × Nat × PlanSlot × Call) (hs : Canonical s.memories) :
    Canonical (startParty s t a).memories := by
  unfold startParty
  split
  dsimp only
  split
  · exact hs
  · refine canonical_advanceCall _ _ _ ?_
    rw [memories_modCall]
    split
    · refine canonical_foldl (fun s y hs => ?_) _ hs
      split <;> simpa using hs
    · exact hs

theorem canonical_execHandshake (h : execHandshake s = .next s') (hs : Canonical s.memories) : Canonical s'.memories := by
  unfold execHandshake at h
  dsimp only at h
  split at h
  · cases h; exact hs
  · next t _ =>
    have hm := canonical_mergeParties (partiesAt s s.arg.station s.arg.index (s.arg.station = 16)) (s, t) hs
    split at h
    · cases h; exact hs
    · split at h
      · split at h
        · cases h; simpa using hm
        · cases h; simpa using hm
      · split at h
        · cases h; simpa using hm
        · cases h; simpa using hm

@[simp] theorem memories_outcomePassed (s : State) (t : Token) (here : List (Nat × Nat × PlanSlot × Call)) :
    (outcomePassed s t here).memories = s.memories := (rfl)

theorem canonical_execGo (h : execGo s = .next s') (hs : Canonical s.memories) : Canonical s'.memories := by
  unfold execGo at h
  split at h
  · cases h; exact hs
  · cases h
    simpa using canonical_foldl (fun s a hs => canonical_startParty s _ a hs) _ hs

theorem canonical_execAbort (h : execAbort s = .next s') (hs : Canonical s.memories) : Canonical s'.memories := by
  unfold execAbort at h
  split at h
  · cases h; exact hs
  · cases h
    rw [memories_outcomePassed]
    exact canonical_foldl (fun s a hs => by split <;> simp [hs]) _ hs

end

/-! ## The loop nest (R343 to R347) -/

section
variable {s s' : State}

theorem canonical_nestOutput {n : Nest} {a b d : Target} {ra rb rd : Word} {j : Nat} (h : nestOutput s n a b d ra rb rd j = .ok s')
    (hs : Canonical s.memories) : Canonical s'.memories := by
  unfold nestOutput at h
  grind [canonical_storeAt, memories_modCore]

theorem canonical_lnStep {c : Nat} {ba bb bd : BitVec 6} {body : BitVec 224} {w : Bool} (h : lnStep s c ba bb bd body = .ok (s', w))
    (hs : Canonical s.memories) : Canonical s'.memories := by
  unfold lnStep at h
  grind [raise_ne_ok, canonical_nestOutput]

theorem canonical_execLn {ba bb bd : BitVec 6} {body : BitVec 224} (h : execLn ba bb bd body s = .next s')
    (hs : Canonical s.memories) : Canonical s'.memories := by
  unfold execLn at h
  grind [memories_modCore, canonical_lnStep, canonical_stopped, memories_endBundle]

end

/-! ## Raw moves (R159 to R161) -/

section
variable {s s' : State}

theorem memories_moveEffect {c idx : Nat} {d sel : BitVec 12} {k0 : Core} {v : PVal} (h : moveEffect s c idx d sel k0 v = .ok s') :
    s'.memories = s.memories := by
  unfold moveEffect at h
  grind [raiseMove_ne_ok, memories_moveInto, memories_deliverPort]

theorem canonical_execMove {d : BitVec 12} {m : MoveF} (h : execMove d m s = .next s') (hs : Canonical s.memories) :
    Canonical s'.memories := by
  unfold execMove at h
  grind [canonical_stopped, memories_moveEffect, memories_setCore, memories_modCore]

end

/-! ## Scalar floating operations (R295 to R298) -/

section
variable {o : OpIn} {s s' : State}

@[simp] theorem memories_floatResult (s : State) (o : OpIn) (r : Nat × Flags) (dist : Nat) :
    (floatResult s o r dist).memories = s.memories := (rfl)

theorem memories_floatOp2 {dist : Nat} {f : (t x y : Nat) → Nat × Flags} (h : floatOp2 dist f o s = .ok s') :
    s'.memories = s.memories := by
  unfold floatOp2 at h
  grind [illegalType_ne_ok, memories_floatResult]

theorem memories_opSFsqrt (h : opSFsqrt o s = .ok s') : s'.memories = s.memories := by
  unfold opSFsqrt at h
  grind [illegalType_ne_ok, memories_floatResult]

theorem memories_opSFma (h : opSFma o s = .ok s') : s'.memories = s.memories := by
  unfold opSFma at h
  grind [illegalType_ne_ok, memories_floatResult]

theorem memories_opSFcmp (h : opSFcmp o s = .ok s') : s'.memories = s.memories := by
  unfold opSFcmp at h
  grind [illegalType_ne_ok, memories_floatResult]

theorem memories_opSFcvt (h : opSFcvt o s = .ok s') : s'.memories = s.memories := by
  unfold opSFcvt at h
  grind [illegalType_ne_ok, memories_scalarResult, memories_modCore]

end

/-! ## X functions (R341, R342) -/

section
variable {o : OpIn} {s s' : State}

theorem memories_xOp {op : Nat} (h : xOp op o s = .ok s') : s'.memories = s.memories := by
  unfold xOp at h
  grind [illegalType_ne_ok, memories_vectorResult, memories_modCore, memories_scalarResult]

end

/-! ## Issue, and the execution of a bundle (R162 to R187) -/

section
variable {s s' : State}

/-- Every operation that a trigger move can issue keeps both memories in canonical form: family by family. -/
theorem opKeeps_of_issueOf {i : Instr} {f : OpIn → State → Res State} (h : issueOf i = some f) : OpKeeps f := by
  cases i with
  | sAdd | sSub | sMul | sMulh | sMulhu | sAnd | sOr | sXor | sAndn | sOrn | sShl | sShr | sSra | sRol | sRor | sCmpeq | sCmpne
    | sCmplt | sCmpltu | sCmple | sCmpleu | sMin | sMax | sMinu | sMaxu | sAdd32 | sSub32 | sMul32 | sMulh32 | sMulhu32 | sAnd32
    | sOr32 | sXor32 | sAndn32 | sOrn32 | sShl32 | sShr32 | sSra32 | sRol32 | sRor32 | sCmpeq32 | sCmpne32 | sCmplt32 | sCmpltu32
    | sCmple32 | sCmpleu32 | sMin32 | sMax32 | sMinu32 | sMaxu32 => cases h; exact opKeeps_of_memories memories_intOp2
  | sDiv | sDivu | sRem | sRemu | sDiv32 | sDivu32 | sRem32 | sRemu32 => cases h; exact opKeeps_of_memories memories_divOp
  | sSel | sSel32 => cases h; exact opKeeps_of_memories memories_opSSel
  | sAbs | sPopc | sClz | sCtz | sBrev | sBswap | sAbs32 | sPopc32 | sClz32 | sCtz32 | sBrev32 | sBswap32 =>
    cases h; exact opKeeps_of_memories memories_intOp1
  | sSext | sZext | sSext32 | sZext32 => cases h; exact opKeeps_of_memories memories_countOp
  | sExt | sExt32 => cases h; exact opKeeps_of_memories memories_opSExt
  | sIns | sIns32 => cases h; exact opKeeps_of_memories memories_opSIns
  | sFns | sFns32 => cases h; exact opKeeps_of_memories memories_opSFns
  | sSptest => cases h; exact opKeeps_of_memories memories_opSSptest
  | sSpcast => cases h; exact opKeeps_of_memories memories_opSSpcast
  | sRefmk => cases h; exact opKeeps_of_memories memories_opSRefmk
  | sFadd | sFsub | sFmul | sFdiv | sFmin | sFmax => cases h; exact opKeeps_of_memories memories_floatOp2
  | sFma => cases h; exact opKeeps_of_memories memories_opSFma
  | sFsqrt => cases h; exact opKeeps_of_memories memories_opSFsqrt
  | sFcmp => cases h; exact opKeeps_of_memories memories_opSFcmp
  | sFcvt => cases h; exact opKeeps_of_memories memories_opSFcvt
  | vAdd | vSub | vMul | vMin | vMax | vAnd | vOr | vXor | vAndn | vShl | vShr | vSra | vFns =>
    cases h; exact opKeeps_of_memories memories_vecOp2
  | vFma | vFms => cases h; exact opKeeps_of_memories memories_vecOp3
  | vAbs | vNeg | vNot | vMov | vPopc | vClz | vBrev => cases h; exact opKeeps_of_memories memories_vecOp1
  | vCmp => cases h; exact opKeeps_of_memories memories_opVCmp
  | vSel => cases h; exact opKeeps_of_memories memories_opVSel
  | vMskp => cases h; exact opKeeps_of_memories memories_opVMskp
  | vCvt => cases h; exact opKeeps_of_memories memories_opVCvt
  | vQnt => cases h; exact opKeeps_of_memories memories_opVQnt
  | vDeq => cases h; exact opKeeps_of_memories memories_opVDeq
  | vFxa => cases h; exact opKeeps_of_memories memories_opVFxa
  | vBcast => cases h; exact opKeeps_of_memories memories_opVBcast
  | vPerm => cases h; exact opKeeps_of_memories memories_opVPerm
  | vRot => cases h; exact opKeeps_of_memories memories_opVRot
  | vIota => cases h; exact opKeeps_of_memories memories_opVIota
  | vRed => cases h; exact opKeeps_of_memories memories_opVRed
  | vScan => cases h; exact opKeeps_of_memories memories_opVScan
  | vScanl => cases h; exact opKeeps_of_memories memories_opVScanl
  | vScanf => cases h; exact opKeeps_of_memories memories_opVScanf
  | xExp | xExp2 | xLog | xLog2 | xRcp | xRsq | xSqrt | xSig | xTanh | xSilu | xGelu | xSin | xCos =>
    cases h; exact opKeeps_of_memories memories_xOp
  | ldV => cases h; exact opKeeps_of_memories memories_opLdV
  | ldS => cases h; exact opKeeps_of_memories memories_opLdS
  | ldB => cases h; exact opKeeps_of_memories memories_opLdB
  | ldI => cases h; exact opKeeps_of_memories memories_opLdI
  | ldFe => cases h; exact opKeeps_of_memories memories_opLdFe
  | stV => cases h; exact fun _ _ _ => canonical_opStV
  | stS => cases h; exact fun _ _ _ => canonical_opStS
  | stI => cases h; exact fun _ _ _ => canonical_opStI
  | stM => cases h; exact fun _ _ _ => canonical_opStM
  | stSete | stZero => cases h; exact fun _ _ _ => canonical_lineOp
  | mxTid => cases h; exact opKeeps_of_memories memories_opMxTid
  | mxMode => cases h; exact opKeeps_of_memories memories_opMxMode
  | mxZero => cases h; exact opKeeps_of_memories memories_opMxZero
  | mxSete => cases h; exact opKeeps_of_memories memories_opMxSete
  | mxMma | mxMmat => cases h; exact fun _ _ _ => canonical_mmaOp
  | mxNrm => cases h; exact opKeeps_of_memories memories_opMxNrm
  | mxRd => cases h; exact opKeeps_of_memories memories_opMxRd
  | mxWr => cases h; exact opKeeps_of_memories memories_opMxWr
  | mxBld => cases h; exact fun _ _ _ => canonical_opMxBld
  | mxSeq => cases h; exact fun _ _ _ => canonical_opMxSeq
  | mxWait => cases h; exact opKeeps_of_memories memories_opMxWait
  | mxSound => cases h; exact opKeeps_of_memories memories_opMxSound
  | cpGet | cpPref => cases h; exact fun _ _ _ => canonical_fillCopy
  | cpPut => cases h; exact fun _ _ _ => canonical_opCpPut
  | cpGetg => cases h; exact fun _ _ _ => canonical_opCpGetg
  | cpPutg => cases h; exact fun _ _ _ => canonical_opCpPutg
  | cpAcc => cases h; exact fun _ _ _ => canonical_opCpAcc
  | cpGetm => cases h; exact fun _ _ _ => canonical_opCpGetm
  | cpAtom => cases h; exact fun _ _ _ => canonical_opCpAtom
  | cpCfa => cases h; exact fun _ _ _ => canonical_opCpCfa
  | cpWaitc => cases h; exact opKeeps_of_memories memories_opCpWaitc
  | cpDrain => cases h; exact opKeeps_of_memories memories_opCpDrain
  | cpStat => cases h; exact opKeeps_of_memories memories_opCpStat
  | cpRecov => cases h; exact fun _ _ _ => canonical_opCpRecov
  | cpMig => cases h; exact fun _ _ _ => canonical_opCpMig
  | saOp => cases h; exact fun _ _ _ => canonical_opSaOp
  | saPush => cases h; exact fun _ _ _ => canonical_opSaPush
  | saFlush => cases h; exact opKeeps_of_memories memories_opSaFlush
  | brJmp => cases h; exact opKeeps_of_memories memories_opBrJmp
  | brJmpi | brRet => cases h; exact opKeeps_of_memories memories_opBrJmpi
  | brCall => cases h; exact opKeeps_of_memories memories_opBrCall
  | brCalli => cases h; exact opKeeps_of_memories memories_opBrCalli
  | brLoop => cases h; exact opKeeps_of_memories memories_opBrLoop
  | brLoopr => cases h; exact opKeeps_of_memories memories_opBrLoopr
  | brLeave => cases h; exact opKeeps_of_memories memories_opBrLeave
  | brSusp | brJoinw => cases h; exact opKeeps_of_memories memories_suspendOp
  | brYield => cases h; exact opKeeps_of_memories memories_opBrYield
  | brSpawn => cases h; exact fun _ _ _ => canonical_opBrSpawn
  | brHalt => cases h; exact opKeeps_of_memories memories_opBrHalt
  | brTrap => cases h; exact opKeeps_of_memories memories_opBrTrap
  | brSys => cases h; exact opKeeps_of_memories memories_opBrSys
  | brRfe => cases h; exact fun _ _ _ => canonical_opBrRfe
  | brWaitt => cases h; exact opKeeps_of_memories memories_opBrWaitt
  | brKchk => cases h; exact opKeeps_of_memories memories_opBrKchk
  | rgHalloc => cases h; exact opKeeps_of_memories memories_opRgHalloc
  | rgHfree => cases h; exact opKeeps_of_memories memories_opRgHfree
  | rgHinfo => cases h; exact opKeeps_of_memories memories_opRgHinfo
  | rgCap => cases h; exact opKeeps_of_memories memories_opRgCap
  | rgWaitf => cases h; exact opKeeps_of_memories memories_opRgWaitf
  | rgPost => cases h; exact opKeeps_of_memories (memories_changeFlag (fun s k n => memories_setFlag s k n 0))
  | rgClr => cases h; exact opKeeps_of_memories (memories_changeFlag (memories_clearFlag))
  | rgAlm => cases h; exact opKeeps_of_memories memories_opRgAlm
  | rgAlmStrm => cases h; exact opKeeps_of_memories memories_opRgAlmStrm
  | rgStep => cases h; exact opKeeps_of_memories memories_opRgStep
  | rgBar => cases h; exact opKeeps_of_memories memories_opRgBar
  | rgXfence => cases h; exact opKeeps_of_memories memories_opRgXfence
  | rgDrain => cases h; exact opKeeps_of_memories memories_opRgDrain
  | rgColl => cases h; exact opKeeps_of_memories memories_opRgColl
  | rgCollLoad => cases h; exact opKeeps_of_memories memories_opRgCollLoad
  | rgCollResume => cases h; exact opKeeps_of_memories memories_callOp
  | rgCollDrop => cases h; exact opKeeps_of_memories memories_opRgCollDrop
  | rgCwait => cases h; exact opKeeps_of_memories memories_opRgCwait
  | _ => cases h

theorem canonical_issueAt {c : Nat} {b : Bundle} {idx : Nat} {d : BitVec 12} {m : MoveF} {v : PVal}
    (h : issueAt s c b idx d m v = .ok s') (hs : Canonical s.memories) : Canonical s'.memories := by
  unfold issueAt at h
  split at h
  · exact absurd h raiseMove_ne_ok
  · next hf =>
    obtain ⟨i, -, hi⟩ := Option.bind_eq_some_iff.mp hf
    exact opKeeps_of_issueOf hi h hs

@[simp] theorem memories_recordOwn (c : Nat) (b : Bundle) (lives : List Live) (s : State) :
    (recordOwn c b lives s).memories = s.memories :=
  memories_foldl (fun s l => by split <;> simp) _ s

@[simp] theorem memories_noteSlip (s0 s : State) (c : Nat) : (noteSlip s0 s c).memories = s.memories := by
  unfold noteSlip
  dsimp only
  split <;> simp

/-! ### An execution in the making: each of its parts keeps the form -/

theorem canonical_put {x : Exec} {r : Res State} (idx : Nat) (hx : Canonical x.s.memories)
    (hr : ∀ s', r = .ok s' → Canonical s'.memories) : Canonical (x.put idx r).s.memories := by
  cases r with
  | error e => exact hx
  | ok s' => exact hr s' rfl

theorem canonical_execFoldl {α : Type} {f : Exec → α → Exec} (hf : ∀ x a, Canonical x.s.memories → Canonical (f x a).s.memories)
    (l : List α) {x : Exec} (hx : Canonical x.s.memories) : Canonical (l.foldl f x).s.memories :=
  List.foldlRecOn (motive := fun x => Canonical x.s.memories) l f hx fun x hx a _ => hf x a hx

theorem canonical_readLive (c : Nat) (x : Exec) (l : Live) (hx : Canonical x.s.memories) :
    Canonical (readLive c x l).s.memories := by
  unfold readLive
  split
  · exact hx
  · split <;> exact hx

theorem canonical_readAll (c : Nat) (lives : List Live) (hs : Canonical s.memories) :
    Canonical (readAll s c lives).s.memories := canonical_execFoldl (canonical_readLive c) lives hs

theorem canonical_deliverLive (c : Nat) (x : Exec) (p : Live × PVal) (hx : Canonical x.s.memories) :
    Canonical (deliverLive c x p).s.memories := by
  unfold deliverLive
  dsimp only
  split
  case h_3 => exact hx
  all_goals exact canonical_put _ hx fun _ h => memories_deliverPort h ▸ hx

theorem canonical_deliverAll {c : Nat} {x : Exec} (hx : Canonical x.s.memories) : Canonical (deliverAll c x).s.memories :=
  canonical_execFoldl (canonical_deliverLive c) _ hx

theorem canonical_issuePage (c : Nat) (b : Bundle) (lives : List Live) (x : Exec) (page : Nat) (hx : Canonical x.s.memories) :
    Canonical (issuePage c b lives x page).s.memories := by
  unfold issuePage
  split
  · exact hx
  · exact canonical_execFoldl (fun x p hx => canonical_put _ hx fun _ h => canonical_issueAt h hx) _ hx

theorem canonical_writeLive (c : Nat) (k0 : Core) (x : Exec) (p : Live × PVal) (hx : Canonical x.s.memories) :
    Canonical (writeLive c k0 x p).s.memories := by
  unfold writeLive
  split
  case h_4 => exact hx
  all_goals exact canonical_put _ hx fun _ h => memories_moveEffect h ▸ hx

theorem canonical_finish {x : Exec} {c : Nat} {b : Bundle} {last : Bool} {br : Option (Live × PVal)} (hx : Canonical x.s.memories) :
    Canonical (finish x c b last br).s.memories := by
  unfold finish
  dsimp only
  split
  · simpa using hx
  · split
    · simpa using hx
    · split
      · exact hx
      · next h =>
        have h3 := canonical_issueAt h (by simpa using hx)
        split
        · exact h3
        · simpa using h3

theorem canonical_outcome {c : Nat} {x : Exec} (h : outcome s c x = .next s') (hs : Canonical s.memories)
    (hx : Canonical x.s.memories) : Canonical s'.memories := by
  unfold outcome at h
  split at h
  · cases h; exact hx
  · exact canonical_stopped h hs
  · cases h; simp [hs]
  · exact canonical_stopped h hs

@[simp] theorem memories_keepSeq (s : State) (c : Nat) (ports : Map Latched) : (keepSeq s c ports).memories = s.memories := (rfl)

@[simp] theorem memories_dropSeq (s : State) (c : Nat) : (dropSeq s c).memories = s.memories := (rfl)

theorem canonical_seqStepOnce {c : Nat} {b : Bundle} {last : Bool} {ports : Map Latched}
    (h : seqStepOnce s c b last ports = .next s') (hs : Canonical s.memories) : Canonical s'.memories := by
  unfold seqStepOnce at h
  split at h
  · exact canonical_outcome h hs (canonical_finish (by simpa using hs))
  · dsimp only at h
    split at h
    · exact canonical_stopped h hs
    · next hi =>
      have h2 := canonical_issueAt hi (by simpa using hs)
      split at h
      · cases h
        simpa using h2
      · exact canonical_outcome h hs (canonical_finish (by simpa using h2))

/-- The parts of a bundle's execution before its end: reads, deliveries, issues and writes, in their order (R164, R220). -/
theorem canonical_bundleParts (c : Nat) (k k1 : Core) (b : Bundle) (lives : List Live) (hs : Canonical s.memories) :
    let x := unitOrder.foldl (issuePage c b lives) (deliverAll c (readAll (setCore s c k1) c lives))
    Canonical (x.vals.foldl (writeLive c k) x).s.memories :=
  canonical_execFoldl (canonical_writeLive c k) _ <| canonical_execFoldl (canonical_issuePage c b lives) _ <|
    canonical_deliverAll <| canonical_readAll c lives (by simpa using hs)

theorem canonical_runBundle {c : Nat} {b : Bundle} (h : runBundle s c b = .next s') (hs : Canonical s.memories) :
    Canonical s'.memories := by
  unfold runBundle at h
  dsimp only at h
  split at h
  · split at h
    · exact canonical_seqStepOnce h hs
    · split at h
      · exact canonical_stopped h hs
      · exact canonical_seqStepOnce h hs
  · have hx (k k1 : Core) (lives : List Live) := canonical_bundleParts c k k1 b lives hs
    dsimp only at hx
    split at h
    · split at h
      · exact canonical_stopped h hs
      · cases h
        rw [memories_keepSeq, memories_recordOwn]
        exact hx _ _ _
    · refine canonical_outcome h hs (canonical_finish ?_)
      rw [memories_recordOwn]
      exact hx _ _ _

theorem canonical_execBundleExecute (h : execBundleExecute s = .next s') (hs : Canonical s.memories) : Canonical s'.memories := by
  unfold execBundleExecute at h
  grind [canonical_stopped, memories_modCore, canonical_openRegion, canonical_execLn, canonical_runBundle]

end

/-! ## Dispatchers (R131 to R155) -/

section
variable {s s' : State}

@[simp] theorem memories_settlePointers (s : State) (d : Nat) :
    (settlePointers s d).memories = s.memories := by simp [settlePointers]

@[simp] theorem memories_settleSpill (n d : Nat) (s : State) : (settleSpill n d s).memories = s.memories := by
  induction n generalizing s with
  | zero => rfl
  | succ n ih =>
    unfold settleSpill
    grind [memories_modWp]

@[simp] theorem memories_settleDispatchers (s : State) : (settleDispatchers s).memories = s.memories := by simp [settleDispatchers]

@[simp] theorem memories_charge (s : State) (d q launch : Nat) : (charge s d q launch).memories = s.memories := by
  unfold charge
  split <;> simp

@[simp] theorem memories_restoreHandle (s : State) (c : Nat) (key : WpKey) (e : Evacuated) :
    (restoreHandle s c key e).memories = s.memories := (rfl)

@[simp] theorem memories_restoreHandles (s : State) (c : Nat) (w : Waypoint) :
    (restoreHandles s c w).memories = s.memories := by simp [restoreHandles]

@[simp] theorem memories_runOn (s : State) (c : Nat) (w : Waypoint) : (runOn s c w).memories = s.memories := by
  unfold runOn
  dsimp only
  split <;> simp

@[simp] theorem memories_splitFirst (s : State) (w : Waypoint) : (splitFirst s w).1.memories = s.memories := by
  unfold splitFirst
  dsimp only
  repeat' split
  all_goals simp

theorem memories_execWaypointPickup (h : execWaypointPickup s = .next s') : s'.memories = s.memories := by
  unfold execWaypointPickup at h
  grind [memories_charge, memories_splitFirst, memories_noteEmpty, memories_runOn]

@[simp] theorem memories_placeRun (s : State) (g : GroupKey) (r : List Nat) : (placeRun s g r).memories = s.memories := by
  refine memories_foldl (fun s i => ?_) _ s
  split
  · dsimp only
    rw [memories_noteEmpty, memories_runOn, memories_splitFirst, memories_charge]
  · rfl

@[simp] theorem memories_faultGroup (s : State) (g : GroupKey) : (faultGroup s g).memories = s.memories := by simp [faultGroup]

@[simp] theorem memories_askPreempt (s : State) (key : WpKey) : (askPreempt s key).memories = s.memories := by
  unfold askPreempt
  split
  · rfl
  · exact memories_foldl (fun s m => by split <;> simp) _ s

@[simp] theorem memories_recallGroup (s : State) (ms : List Waypoint) : (recallGroup s ms).memories = s.memories := by
  unfold recallGroup
  grind [memories_askPreempt]

theorem memories_execStepGroupPlace (h : execStepGroupPlace s = .next s') : s'.memories = s.memories := by
  unfold execStepGroupPlace at h
  grind [memories_recallGroup, memories_faultGroup, memories_placeRun]

theorem memories_execPriorityAge (h : execPriorityAge s = .next s') : s'.memories = s.memories := by
  unfold execPriorityAge at h
  grind [memories_modWp]

theorem memories_execPriorityPreempt (h : execPriorityPreempt s = .next s') : s'.memories = s.memories := by
  unfold execPriorityPreempt at h
  grind [memories_askPreempt, memories_modWp]

@[simp] theorem memories_stealEntry (s : State) (d : Nat) (w : Waypoint) : (stealEntry s d w).memories = s.memories := by
  unfold stealEntry
  dsimp only
  repeat' split
  all_goals simp

theorem memories_execDispatcherSteal (h : execDispatcherSteal s = .next s') : s'.memories = s.memories := by
  unfold execDispatcherSteal at h
  grind [memories_modDisp, memories_stealEntry]

theorem memories_execPreemptHalt (h : execPreemptHalt s = .next s') : s'.memories = s.memories := by
  unfold execPreemptHalt at h
  grind [memories_modCore, memories_withdraw, memories_discardWp, memories_freeCore, memories_enqueue]

@[simp] theorem canonical_saveFrame (s : State) (c : Nat) (st : WpState) (hs : Canonical s.memories) :
    Canonical (saveFrame s c st).memories := by simp [saveFrame, hs]

theorem canonical_execContextSaveDone (h : execContextSaveDone s = .next s') (hs : Canonical s.memories) :
    Canonical s'.memories := by
  unfold execContextSaveDone at h
  grind [memories_settleFreed, memories_freeCore, canonical_saveFrame]

@[simp] theorem memories_evacuate (s : State) (c : Nat) (key : WpKey) :
    (evacuate s c key).memories = s.memories := by simp [evacuate]

theorem memories_execEvacuationComplete (h : execEvacuationComplete s = .next s') : s'.memories = s.memories := by
  unfold execEvacuationComplete at h
  grind [memories_evacuate]

@[simp] theorem memories_countRelaunch (s : State) (key : WpKey) : (countRelaunch s key).memories = s.memories := (rfl)

@[simp] theorem canonical_dropWork (s : State) (c : Nat) (w : Waypoint) (hs : Canonical s.memories) :
    Canonical (dropWork s c w).memories := by
  unfold dropWork
  exact canonical_foldl (fun s x hs => by simp [hs]) _ (by simp [hs])

@[simp] theorem memories_restart (s : State) (c : Nat) (w : Waypoint) : (restart s c w).memories = s.memories := by simp [restart]

@[simp] theorem canonical_relaunch (s : State) (c : Nat) (w : Waypoint) (hs : Canonical s.memories) :
    Canonical (relaunch s c w).memories := by simp [relaunch, hs]

@[simp] theorem canonical_relaunchNow (s : State) (c : Nat) (w : Waypoint) (resume : Bool) (hs : Canonical s.memories) :
    Canonical (relaunchNow s c w resume).memories := by
  unfold relaunchNow
  grind [memories_restart, canonical_relaunch]

theorem canonical_execOverCapacity (h : execOverCapacity s = .next s') (hs : Canonical s.memories) : Canonical s'.memories := by
  unfold execOverCapacity at h
  grind [canonical_relaunchNow, memories_withdraw, memories_freeCore, memories_endFaulted, memories_modWp, memories_modCore,
    canonical_rollBack, canonical_dropWork]

@[simp] theorem memories_drainCluster (s : State) (d cl : Nat) :
    (drainCluster s d cl).memories = s.memories := by simp [drainCluster]

theorem memories_execSelftestRotation (h : execSelftestRotation s = .next s') : s'.memories = s.memories := by
  unfold execSelftestRotation at h
  dsimp only at h
  repeat' split at h
  all_goals cases h
  all_goals simp

@[simp] theorem memories_testFindings (s : State) (p : Nat → Bool) :
    (testFindings s p).memories = s.memories := by simp [testFindings]

theorem memories_execSelftestDone (h : execSelftestDone s = .next s') : s'.memories = s.memories := by
  unfold execSelftestDone at h
  grind [memories_testFindings, memories_modCore, memories_modDisp, memories_logEvent, memories_foldl]

theorem memories_execDispatcherNotify (h : execDispatcherNotify s = .next s') : s'.memories = s.memories := by
  unfold execDispatcherNotify at h
  grind [memories_enqueue, memories_makeReady]

end

/-! ## Launch queues and launches (R42 to R45, R104 to R119) -/

section
variable {s s' : State}

theorem canonical_queueWrite {q : Queue} {a : Nat} {bs : List Byte}
    (h : queueWrite s q a bs = some s') (hs : Canonical s.memories) :
    Canonical s'.memories := by
  unfold queueWrite at h
  grind [memories_emitLink, canonical_storeDram, memories_mk, canonical_hostStored]

@[simp] theorem memories_startIndexRead (s : State) (n : Nat) :
    (startIndexRead s n).memories = s.memories := by simp [startIndexRead]

@[simp] theorem memories_registerIndex (s : State) (n : Nat) : (registerIndex s n).memories = s.memories := by simp [registerIndex]

@[simp] theorem memories_enableQueue (s : State) (n : Nat) (v : Word) :
    (enableQueue s n v).memories = s.memories := by simp [enableQueue]

theorem memories_execLqEnable (h : execLqEnable s = .next s') : s'.memories = s.memories := by
  cases h
  simp

@[simp] theorem canonical_hostStores (s : State) (hs : Canonical s.memories) :
    Canonical (hostStores s).memories := by simp [hostStores, hs]

theorem canonical_execPidxNotify (h : execPidxNotify s = .next s') (hs : Canonical s.memories) : Canonical s'.memories := by
  cases h
  simp [hs]

theorem memories_execCxlLinkRecover (h : execCxlLinkRecover s = .next s') : s'.memories = s.memories := by
  unfold execCxlLinkRecover at h
  grind [memories_startIndexRead, memories_foldl]

theorem memories_execPidxReadDone (h : execPidxReadDone s = .next s') : s'.memories = s.memories := by
  unfold execPidxReadDone at h
  grind [memories_sendSnoop, memories_modQueue, memories_logEvent, memories_startIndexRead]

@[simp] theorem canonical_storeQuiet (s : State) (l : Launch) (va : Nat) (bs : List Byte) (hs : Canonical s.memories) :
    Canonical (storeQuiet s l va bs).memories := by
  unfold storeQuiet
  grind [canonical_storeVaRange]

@[simp] theorem canonical_writeCompletion (s : State) (l : Launch) (word0 : Nat) (words : List Nat) (hs : Canonical s.memories) :
    Canonical (writeCompletion s l word0 words).memories := by simp [writeCompletion, hs]

@[simp] theorem canonical_reject (s : State) (l : Launch) (reason : Nat) (hs : Canonical s.memories) :
    Canonical (reject s l reason).memories := by simp [reject, hs]

@[simp] theorem canonical_enlist (s : State) (l : Launch) (hs : Canonical s.memories) : Canonical (enlist s l).memories := by
  unfold enlist
  grind [canonical_storeQuiet, memories_mk, memories_pair]

theorem canonical_execLaunchRecordAccept (h : execLaunchRecordAccept s = .next s') (hs : Canonical s.memories) :
    Canonical s'.memories := by
  unfold execLaunchRecordAccept at h
  split at h
  · cases h; exact hs
  · split at h
    · cases h; exact hs
    · dsimp only at h
      split at h
      · cases h
      · split at h
        · cases h; simpa using hs
        · split at h
          · cases h
          · next hw =>
            have hw := canonical_queueWrite hw (by
              rw [memories_modQueue]
              split
              · exact canonical_enlist _ _ hs
              · exact hs)
            split at h <;> cases h <;> simp [hw]

@[simp] theorem memories_grant (s : State) (l i : Nat) (x : StreamReq) : (grant s l i x).memories = s.memories := by simp [grant]

@[simp] theorem memories_rootWaypoint (s : State) (l : Launch) (d : Nat) : (rootWaypoint s l d).memories = s.memories := (rfl)

theorem memories_execStreamGrant (h : execStreamGrant s = .next s') : s'.memories = s.memories := by
  unfold execStreamGrant at h
  grind [memories_rootWaypoint, memories_grant]

@[simp] theorem memories_reclaimStream (s : State) (x : StreamReq) :
    (reclaimStream s x).memories = s.memories := by simp [reclaimStream]

@[simp] theorem canonical_completeLaunch (s : State) (l : Launch) (hs : Canonical s.memories) :
    Canonical (completeLaunch s l).memories := by
  refine canonical_writeCompletion _ _ _ _ (canonical_foldl (fun s e hs => canonical_flushHot s e l.id hs) _ ?_)
  rw [memories_foldl (fun s c => by simp), memories_foldl (fun s r => by simp), memories_disarm]
  exact hs

@[simp] theorem memories_setDev (s : State) (st stage reason : Nat) :
    (setDev s st stage reason).memories = s.memories := by simp [setDev]

@[simp] theorem memories_endDieCmd (s : State) (st : Nat) : (endDieCmd s st).memories = s.memories := (rfl)

@[simp] theorem memories_reachHarbour (s : State) (reason : Nat) :
    (reachHarbour s reason).memories = s.memories := by simp [reachHarbour]

@[simp] theorem memories_leaveToHarbour (s : State) (reason : Nat) :
    (leaveToHarbour s reason).memories = s.memories := by simp [leaveToHarbour]

theorem canonical_execLaunchComplete (h : execLaunchComplete s = .next s') (hs : Canonical s.memories) : Canonical s'.memories := by
  unfold execLaunchComplete at h
  grind [memories_sendSnoop, canonical_completeLaunch, memories_reachHarbour]

end

/-! ## Reset, stages, die commands and alarms (R17, R20 to R35) -/

section
variable {s s' : State}

@[simp] theorem memories_refreshReason (s : State) : (refreshReason s).memories = s.memories := by simp [refreshReason]

@[simp] theorem memories_lockCopies (s : State) (dies : List Nat) : (lockCopies s dies).memories = s.memories := (rfl)

theorem canonical_execPowerOnReset (h : execPowerOnReset s = .next s') (hs : Canonical s.memories) : Canonical s'.memories := by
  cases h
  rw [memories_lockCopies]
  exact ⟨reset_memory_wf.1, hs.2⟩

@[simp] theorem memories_beginAdvance (s : State) : (beginAdvance s).memories = s.memories := by simp [beginAdvance]

theorem memories_execFundamentalResetDeassert (h : execFundamentalResetDeassert s = .next s') : s'.memories = s.memories := by
  unfold execFundamentalResetDeassert at h
  grind [memories_setDev, memories_beginAdvance, memories_mk, memories_pair]

@[simp] theorem memories_passStations (s : State) (failing : BitVec 8) :
    (passStations s failing).memories = s.memories := by simp [passStations]

@[simp] theorem memories_reachUnderway (s : State) : (reachUnderway s).memories = s.memories := by simp [reachUnderway]

@[simp] theorem memories_loadImage (s : State) : (loadImage s).memories = s.memories := (rfl)

theorem memories_execAdvanceStageComplete (h : execAdvanceStageComplete s = .next s') : s'.memories = s.memories := by
  unfold execAdvanceStageComplete at h
  grind [memories_setDev, memories_leaveToHarbour, memories_loadImage, memories_passStations, memories_testFindings,
    memories_lockCopies, memories_reachUnderway, memories_mk, memories_pair]

theorem memories_execSupplyRangeChange (h : execSupplyRangeChange s = .next s') : s'.memories = s.memories := by
  cases h
  simp

theorem memories_execSupplyTimeout (h : execSupplyTimeout s = .next s') : s'.memories = s.memories := by
  unfold execSupplyTimeout at h
  grind [memories_leaveToHarbour]

theorem memories_execTemperatureReport (h : execTemperatureReport s = .next s') : s'.memories = s.memories := by
  unfold execTemperatureReport at h
  grind [memories_leaveToHarbour, memories_mk, memories_pair]

@[simp] theorem memories_zeroise (s : State) : (zeroise s).memories = s.memories := (rfl)

@[simp] theorem memories_raiseAlarm (s : State) (level cause : Nat) :
    (raiseAlarm s level cause).memories = s.memories := by simp [raiseAlarm]

theorem memories_execAlarmDetector (h : execAlarmDetector s = .next s') : s'.memories = s.memories := by
  unfold execAlarmDetector at h
  grind [memories_raiseAlarm]

@[simp] theorem memories_clearAlarm2 (s : State) : (clearAlarm2 s).memories = s.memories := by simp [clearAlarm2]

theorem memories_execAlarmClr2 (h : execAlarmClr2 s = .next s') : s'.memories = s.memories := by
  cases h
  simp

@[simp] theorem memories_dieCommand (s : State) (cmd n refusal : Nat) {begin_ : State → State}
    (hb : ∀ s, (begin_ s).memories = s.memories) : (dieCommand s cmd n refusal begin_).memories = s.memories := by
  unfold dieCommand
  dsimp only
  split
  · rfl
  · split
    · simp
    · rw [hb]
      rfl

@[simp] theorem memories_holdLaunch (s : State) (n : Nat) (l : Launch) :
    (holdLaunch s n l).memories = s.memories := by simp [holdLaunch]

@[simp] theorem memories_holdLaunches (s : State) (n : Nat) : (holdLaunches s n).memories = s.memories := by simp [holdLaunches]

@[simp] theorem memories_drainC (s : State) (n : Nat) : (drainC s n).memories = s.memories := by simp [drainC]

theorem memories_execDrainC (h : execDrainC s = .next s') : s'.memories = s.memories := by
  cases h
  simp

@[simp] theorem memories_moveEntries (s : State) (n d : Nat) : (moveEntries s n d).memories = s.memories := (rfl)

@[simp] theorem canonical_endCallsAt (s : State) (k : Nat) (hs : Canonical s.memories) : Canonical (endCallsAt s k).memories := by
  unfold endCallsAt
  exact canonical_foldl (fun s x hs => by simp [hs]) _ (by simp [hs])

@[simp] theorem memories_endEvacuation (s : State) (n : Nat) : (endEvacuation s n).memories = s.memories := by
  unfold endEvacuation
  split <;> simp

@[simp] theorem canonical_finishDrain (s1 : State) (n : Nat) (hs : Canonical s1.memories) :
    Canonical (finishDrain s1 n).memories := by simp [finishDrain, hs]

theorem canonical_execDrainCComplete {s0 : State} (h : execDrainCComplete s0 = .next s') (hs : Canonical s0.memories) :
    Canonical s'.memories := by
  unfold execDrainCComplete at h
  grind [memories_holdLaunches, memories_endEvacuation, canonical_finishDrain]

@[simp] theorem memories_resetC (s : State) (n : Nat) : (resetC s n).memories = s.memories := by simp [resetC]

theorem memories_execResetC (h : execResetC s = .next s') : s'.memories = s.memories := by
  cases h
  simp

theorem memories_execResetCComplete (h : execResetCComplete s = .next s') : s'.memories = s.memories := by
  unfold execResetCComplete at h
  grind [memories_testFindings, memories_endDieCmd, memories_mk, memories_pair]

@[simp] theorem memories_returnC (s : State) (n : Nat) : (returnC s n).memories = s.memories := by simp [returnC]

theorem memories_execReturnC (h : execReturnC s = .next s') : s'.memories = s.memories := by
  cases h
  simp

@[simp] theorem memories_resumeLaunch (s : State) (n : Nat) (l : Launch) :
    (resumeLaunch s n l).memories = s.memories := by simp [resumeLaunch]

theorem memories_execReturnCComplete (h : execReturnCComplete s = .next s') : s'.memories = s.memories := by
  unfold execReturnCComplete at h
  grind [memories_modStation, memories_lockCopies, memories_modDisp, memories_endDieCmd, memories_refreshReason,
    memories_resumeLaunch, memories_mk, memories_pair, memories_foldl]

@[simp] theorem memories_retireM (s : State) (n : Nat) : (retireM s n).memories = s.memories := by simp [retireM]

theorem memories_execRetireM (h : execRetireM s = .next s') : s'.memories = s.memories := by
  cases h
  simp

theorem canonical_execRetireMComplete (h : execRetireMComplete s = .next s') (hs : Canonical s.memories) :
    Canonical s'.memories := by
  unfold execRetireMComplete at h
  grind [canonical_endCallsAt, memories_modStation, memories_refreshReason, memories_endDieCmd, memories_mk, memories_pair]

@[simp] theorem memories_returnM (s : State) (n : Nat) : (returnM s n).memories = s.memories := by simp [returnM]

theorem memories_execReturnM (h : execReturnM s = .next s') : s'.memories = s.memories := by
  cases h
  simp

@[simp] theorem memories_memoryStationBack (s : State) (n : Nat) : (memoryStationBack s n).memories = s.memories := (rfl)

theorem memories_execReturnMComplete (h : execReturnMComplete s = .next s') : s'.memories = s.memories := by
  unfold execReturnMComplete at h
  grind [memories_endDieCmd, memories_memoryStationBack, memories_refreshReason, memories_mk, memories_pair]

@[simp] theorem memories_resetM (s : State) (n : Nat) : (resetM s n).memories = s.memories := by simp [resetM]

theorem memories_execResetM (h : execResetM s = .next s') : s'.memories = s.memories := by
  cases h
  simp

@[simp] theorem canonical_clearStack (s : State) (n : Nat) (failing : List Nat) (hs : Canonical s.memories) :
    Canonical (clearStack s n failing).memories := by simp [clearStack, hs]

theorem canonical_execResetMComplete (h : execResetMComplete s = .next s') (hs : Canonical s.memories) : Canonical s'.memories := by
  unfold execResetMComplete at h
  grind [canonical_clearStack, memories_endDieCmd, memories_memoryStationBack, memories_mk, memories_pair]

theorem memories_execSgtFire (h : execSgtFire s = .next s') : s'.memories = s.memories := by
  cases h
  simp

@[simp] theorem memories_enableCompare (s : State) : (enableCompare s).memories = s.memories := by simp [enableCompare]

theorem memories_execSgtCompareEnable (h : execSgtCompareEnable s = .next s') : s'.memories = s.memories := by
  cases h
  simp

@[simp] theorem memories_armSighting (s : State) : (armSighting s).memories = s.memories := (rfl)

theorem memories_execSgtArm (h : execSgtArm s = .next s') : s'.memories = s.memories := by
  cases h
  simp

theorem memories_execSgtValidClear (h : execSgtValidClear s = .next s') : s'.memories = s.memories := by
  cases h
  simp

theorem memories_execSightingLatch (h : execSightingLatch s = .next s') : s'.memories = s.memories := by
  unfold execSightingLatch at h
  grind [memories_mk, memories_pair]

@[simp] theorem memories_invalidate (s : State) (p : TlbEntry → Bool) :
    (invalidate s p).memories = s.memories := by simp [invalidate]

@[simp] theorem memories_invalidatePage (s : State) : (invalidatePage s).memories = s.memories := by simp [invalidatePage]

@[simp] theorem memories_invalidateAsid (s : State) : (invalidateAsid s).memories = s.memories := by simp [invalidateAsid]

theorem memories_execTlbInvPage (h : execTlbInvPage s = .next s') : s'.memories = s.memories := by
  cases h
  simp

theorem memories_execTlbInvAsid (h : execTlbInvAsid s = .next s') : s'.memories = s.memories := by
  cases h
  simp

@[simp] theorem memories_invalidateAll (s : State) : (invalidateAll s).memories = s.memories := by simp [invalidateAll]

theorem memories_execTlbInvAll (h : execTlbInvAll s = .next s') : s'.memories = s.memories := by
  cases h
  simp

@[simp] theorem memories_releaseForwarding (s : State) : (releaseForwarding s).memories = s.memories := by simp [releaseForwarding]

theorem memories_execTlbReleaseForwarding (h : execTlbReleaseForwarding s = .next s') : s'.memories = s.memories := by
  cases h
  simp

theorem memories_execTlbInvComplete (h : execTlbInvComplete s = .next s') : s'.memories = s.memories := by
  unfold execTlbInvComplete at h
  grind [memories_mk, memories_pair]

end

/-! ## Requests served at a home (R225 to R231) -/

section
variable {s s' : State}

theorem memories_takeKind {s1 : State} {kind st : Nat} {p : Packet} (h : takeKind s kind = some (st, p, s1)) :
    s1.memories = s.memories := by
  unfold takeKind at h
  obtain ⟨r, -, hr⟩ := Option.map_eq_some_iff.mp h
  cases hr
  rfl

@[simp] theorem memories_answer (s : State) (d : Nat) (p r : Packet) : (answer s d p r).memories = s.memories := by simp [answer]

@[simp] theorem memories_noteSeen (s : State) (d : Nat) (p : Packet) : (noteSeen s d p).memories = s.memories := (rfl)

/-- A request served at its home: it waits, goes on to another home, or its service is done (R208, R209). -/
theorem canonical_serve {kind : Nat} {f : State → Nat → Packet → State}
    (hf : ∀ s d p, Canonical s.memories → Canonical (f s d p).memories) (h : serve s kind f = .next s')
    (hs : Canonical s.memories) :
    Canonical s'.memories := by
  unfold serve at h
  split at h
  · cases h; exact hs
  · next hk =>
    have h1 := memories_takeKind hk ▸ hs
    grind [memories_sendPacket, memories_sendSnoop]

@[simp] theorem memories_sendMcast (s : State) (d : Nat) (m : Mcast) (homes : List Nat) :
    (sendMcast s d m homes).memories = s.memories := by simp [sendMcast]

@[simp] theorem canonical_multicast (s : State) (d : Nat) (p reply : Packet) (homes : List Nat) (bs : List Byte)
    (hs : Canonical s.memories) : Canonical (multicast s d p reply homes bs).memories := by simp [multicast, hs]

theorem memories_remulticast {d : Nat} {p : Packet} (h : remulticast s d p = some s') : s'.memories = s.memories := by
  unfold remulticast at h
  obtain ⟨m, -, hm⟩ := Option.map_eq_some_iff.mp h
  rw [← hm, memories_sendMcast]

@[simp] theorem memories_remulticast_getD (s t : State) (d : Nat) (p : Packet) (ht : t.memories = s.memories) :
    ((remulticast s d p).getD t).memories = s.memories := by
  cases hr : remulticast s d p with
  | none => exact ht
  | some u => exact memories_remulticast hr

theorem canonical_execMcast (h : execMcast s = .next s') (hs : Canonical s.memories) : Canonical s'.memories := by
  unfold execMcast at h
  split at h
  · cases h; exact hs
  · next hk =>
    have h1 := memories_takeKind hk ▸ hs
    dsimp only at h
    split at h
    · cases h; exact hs
    · split at h
      · cases h; simpa using hs
      · cases h
        simp [h1]

@[simp] theorem memories_mcastAck (s : State) (d : Nat) (p : Packet) : (mcastAck s d p).memories = s.memories := by simp [mcastAck]

@[simp] theorem memories_serveRead (s : State) (d : Nat) (p : Packet) :
    (serveRead s d p).memories = s.memories := by simp [serveRead]

theorem canonical_execRead (h : execRead s = .next s') (hs : Canonical s.memories) :
    Canonical s'.memories := canonical_serve (fun s d p hs => by simp [hs]) h hs

@[simp] theorem memories_serveStep (s : State) (d : Nat) (p : Packet) (elems : StepDecl → Nat → List (Nat × Nat)) :
    (serveStep s d p elems).memories = s.memories := by
  unfold serveStep
  grind [memories_answer, memories_contribute, memories_noteSeen]

@[simp] theorem canonical_serveWrite (s : State) (d : Nat) (p : Packet) (hs : Canonical s.memories) :
    Canonical (serveWrite s d p).memories := by
  unfold serveWrite
  dsimp only
  repeat' split
  all_goals simp [hs]

theorem canonical_execWrite (h : execWrite s = .next s') (hs : Canonical s.memories) :
    Canonical s'.memories := canonical_serve (fun s d p hs => by simp [hs]) h hs

@[simp] theorem memories_keepRecord (s : State) (d : Nat) (r : AtomRecord) : (keepRecord s d r).memories = s.memories := (rfl)

@[simp] theorem canonical_serveAtom (s : State) (d : Nat) (p : Packet) (hs : Canonical s.memories) :
    Canonical (serveAtom s d p).memories := by
  unfold serveAtom
  dsimp only
  repeat' split
  all_goals simp [hs]

theorem canonical_execAtom (h : execAtom s = .next s') (hs : Canonical s.memories) :
    Canonical s'.memories := canonical_serve (fun s d p hs => by simp [hs]) h hs

@[simp] theorem memories_serveRecov (s : State) (d : Nat) (p : Packet) : (serveRecov s d p).memories = s.memories := by
  unfold serveRecov
  dsimp only
  repeat' split
  all_goals simp

theorem canonical_execRecov (h : execRecov s = .next s') (hs : Canonical s.memories) :
    Canonical s'.memories := canonical_serve (fun s d p hs => by simp [hs]) h hs

@[simp] theorem canonical_serveCfa (s : State) (d : Nat) (p : Packet) (hs : Canonical s.memories) :
    Canonical (serveCfa s d p).memories := by
  unfold serveCfa
  dsimp only
  repeat' split
  all_goals simp [hs]

theorem canonical_execCfa (h : execCfa s = .next s') (hs : Canonical s.memories) : Canonical s'.memories := by
  unfold execCfa at h
  grind [canonical_serve, canonical_serveCfa]

@[simp] theorem canonical_serveAcc (s : State) (d : Nat) (p : Packet) (hs : Canonical s.memories) :
    Canonical (serveAcc s d p).memories := by
  unfold serveAcc
  dsimp only
  repeat' split
  all_goals simp [hs]

theorem canonical_execAcc (h : execAcc s = .next s') (hs : Canonical s.memories) :
    Canonical s'.memories := canonical_serve (fun s d p hs => by simp [hs]) h hs

@[simp] theorem memories_serveWait (s : State) (d : Nat) (p : Packet) :
    (serveWait s d p).memories = s.memories := by simp [serveWait]

theorem canonical_execWaitreg (h : execWaitreg s = .next s') (hs : Canonical s.memories) :
    Canonical s'.memories := canonical_serve (fun s d p hs => by simp [hs]) h hs

theorem canonical_execJoinDecrement (h : execJoinDecrement s = .next s') (hs : Canonical s.memories) : Canonical s'.memories := by
  unfold execJoinDecrement at h
  grind [memories_sendSnoop, memories_logEvent, canonical_storeDramNat, memories_mk, memories_pair]

@[simp] theorem canonical_copyLine (s : State) (m : Migration) (hs : Canonical s.memories) :
    Canonical (copyLine s m).memories := by simp [copyLine, hs]

theorem canonical_execMigline (h : execMigline s = .next s') (hs : Canonical s.memories) : Canonical s'.memories := by
  unfold execMigline at h
  split at h
  · cases h; exact hs
  · next hk =>
    have h1 := memories_takeKind hk ▸ hs
    dsimp only at h
    split at h
    · cases h; exact h1
    · cases h
      simp [h1]

@[simp] theorem canonical_finishMigration (s : State) (m : Migration) (hs : Canonical s.memories) :
    Canonical (finishMigration s m).memories := by simp [finishMigration, hs]

theorem canonical_execMigrationComplete (h : execMigrationComplete s = .next s') (hs : Canonical s.memories) :
    Canonical s'.memories := by
  unfold execMigrationComplete at h
  grind [canonical_finishMigration]

theorem memories_execNearMemoryUnitDown (h : execNearMemoryUnitDown s = .next s') : s'.memories = s.memories := by
  cases h
  simp

theorem memories_execReservedKindDiscard (h : execReservedKindDiscard s = .next s') : s'.memories = s.memories := by
  unfold execReservedKindDiscard at h
  grind [memories_logEvent, memories_mk, memories_pair]

end

/-! ## Responses and completions (R371 to R380) -/

section
variable {s s' : State}

@[simp] theorem canonical_failRequest (s : State) (e : Nat) (r : Req) (st : Nat) (hs : Canonical s.memories) :
    Canonical (failRequest s e r st).memories := by
  unfold failRequest
  dsimp only
  repeat' split
  all_goals simp [hs]

@[simp] theorem memories_fillWords (s : State) (cmd : Cmd) (bs : List Byte) : (fillWords s cmd bs).memories = s.memories := by
  unfold fillWords
  dsimp only
  split <;> simp

@[simp] theorem canonical_takeAnswer (s : State) (e : Nat) (r : Req) (bs : List Byte) (hs : Canonical s.memories) :
    Canonical (takeAnswer s e r bs).memories := by
  unfold takeAnswer
  dsimp only
  repeat' split
  all_goals simp [hs]

theorem canonical_execData (h : execData s = .next s') (hs : Canonical s.memories) : Canonical s'.memories := by
  unfold execData at h
  split at h
  · cases h; exact hs
  · next hk =>
    have h1 := memories_takeKind hk ▸ hs
    split at h <;> cases h <;> simp [h1]

theorem memories_execAck (h : execAck s = .next s') : s'.memories = s.memories := by
  unfold execAck at h
  split at h
  · cases h; rfl
  · next hk =>
    rw [← memories_takeKind hk]
    split at h
    · cases h; simp
    · split at h <;> cases h <;> simp

theorem canonical_execAtomRsp (h : execAtomRsp s = .next s') (hs : Canonical s.memories) : Canonical s'.memories := by
  unfold execAtomRsp at h
  split at h
  · cases h; exact hs
  · next hk =>
    have h1 := memories_takeKind hk ▸ hs
    split at h
    · cases h; exact h1
    · split at h <;> cases h <;> simp [h1]

theorem canonical_execRefuse (h : execRefuse s = .next s') (hs : Canonical s.memories) : Canonical s'.memories := by
  unfold execRefuse at h
  split at h
  · cases h; exact hs
  · next hk =>
    have h1 := memories_takeKind hk ▸ hs
    split at h <;> cases h <;> simp [h1]

@[simp] theorem memories_reissue (s : State) (e : Nat) (r : Req) : (reissue s e r).memories = s.memories := by simp [reissue]

theorem canonical_execRequestReissueTimeout (h : execRequestReissueTimeout s = .next s') (hs : Canonical s.memories) :
    Canonical s'.memories := by
  unfold execRequestReissueTimeout at h
  grind [canonical_failRequest, memories_reissue, memories_mk, memories_pair]

@[simp] theorem canonical_advanceCmd (s : State) (cmd : Cmd) (lim : Nat) (hs : Canonical s.memories) :
    Canonical (advanceCmd s cmd lim).memories := by
  unfold advanceCmd
  grind [canonical_readList, canonical_advancePieces, canonical_advanceUpdates, memories_startMigration]

@[simp] theorem memories_countDone (s : State) (cmd : Cmd) (st : Nat) : (countDone s cmd st).memories = s.memories := by
  unfold countDone
  split <;> simp

@[simp] theorem canonical_modHolder (s : State) (key : WpKey) (f : Core → Core) (hs : Canonical s.memories) :
    Canonical (modHolder s key f).memories := by
  unfold modHolder
  grind [memories_modCore, canonical_putFrame]

theorem canonical_runFollowOn {cmd : Cmd} {f : FollowOn} {st : Nat} (h : runFollowOn s cmd f = some (s', st))
    (hs : Canonical s.memories) : Canonical s'.memories := by
  unfold runFollowOn at h
  grind [canonical_modHolder]

@[simp] theorem canonical_completeCmd (s : State) (cmd : Cmd) (hs : Canonical s.memories) :
    Canonical (completeCmd s cmd).memories := by simp [completeCmd, hs]

theorem canonical_execCommandComplete (h : execCommandComplete s = .next s') (hs : Canonical s.memories) :
    Canonical s'.memories := by
  unfold execCommandComplete at h
  split at h
  · cases h; exact hs
  · next cmd0 _ =>
    have h1 := canonical_advanceCmd s cmd0 s.arg.off hs
    dsimp only at h
    split at h
    · cases h; exact h1
    · split at h
      · cases h; exact h1
      · split at h
        · cases h
          simp [h1]
        · split at h
          · cases h; exact h1
          · next hf =>
            cases h
            simp [canonical_runFollowOn hf h1]

@[simp] theorem canonical_faultFrame (s : State) (w : Waypoint) (k : Core) (code : BitVec 16) (info : Word) (tag : Nat)
    (hs : Canonical s.memories) : Canonical (faultFrame s w k code info tag).memories := by
  unfold faultFrame
  dsimp only
  repeat' split
  all_goals simp [hs]

theorem canonical_execAsyncFault (h : execAsyncFault s = .next s') (hs : Canonical s.memories) : Canonical s'.memories := by
  unfold execAsyncFault at h
  dsimp only at h
  repeat' split at h
  all_goals cases h
  all_goals simp [hs]

@[simp] theorem memories_takeWaitAnswer (s : State) (c : Nat) (st : Nat) :
    (takeWaitAnswer s c st).memories = s.memories := by simp [takeWaitAnswer]

theorem memories_execNotify (h : execNotify s = .next s') : s'.memories = s.memories := by
  unfold execNotify at h
  split at h
  · cases h; rfl
  · next hk =>
    have h1 := memories_takeKind hk
    grind [memories_takeWaitAnswer, memories_enqueue]

end

/-! ## Events of a core -/

section
variable {s s' : State}

theorem memories_execOperationComplete (h : execOperationComplete s = .next s') : s'.memories = s.memories := by
  cases h
  simp

theorem memories_execBundleRetire (h : execBundleRetire s = .next s') : s'.memories = s.memories := by
  unfold execBundleRetire at h
  grind [memories_modCore]

theorem memories_execForwardDeliver (h : execForwardDeliver s = .next s') : s'.memories = s.memories := by
  cases h
  simp

theorem canonical_execTimedWaitExpiry (h : execTimedWaitExpiry s = .next s') (hs : Canonical s.memories) :
    Canonical s'.memories := by
  unfold execTimedWaitExpiry at h
  grind [canonical_execBundleExecute, memories_mk, memories_pair]

@[simp] theorem memories_bankError (s : State) (b : BankId) (line : Nat) (corrected : Bool) :
    (bankError s b line corrected).memories = s.memories := by simp [bankError]

@[simp] theorem canonical_regCheck (s : State) (c sel : Nat) (hs : Canonical s.memories) :
    Canonical (regCheck s c sel).memories := by simp [regCheck, hs]

@[simp] theorem canonical_regError (s : State) (c storage bank line sel : Nat) (corrected : Bool) (hs : Canonical s.memories) :
    Canonical (regError s c storage bank line sel corrected).memories := by simp [regError, hs]

@[simp] theorem memories_cacheError (s : State) (d bank dpa : Nat) (corrected : Bool) :
    (cacheError s d bank dpa corrected).memories = s.memories := by simp [cacheError]

theorem canonical_execEccError (h : execEccError s = .next s') (hs : Canonical s.memories) : Canonical s'.memories := by
  cases h
  dsimp only
  split <;> simp [hs]

@[simp] theorem memories_flipBank (s : State) (c : Nat) (l : Level) (e : Evac) :
    (flipBank s c l e).memories = s.memories := by simp [flipBank]

theorem memories_execChartLineMove (h : execChartLineMove s = .next s') : s'.memories = s.memories := by
  unfold execChartLineMove at h
  grind [memories_modCore, memories_flipBank]

end

/-! ## Slots of the ring (R36 to R66) -/

section
variable {o : OpIn} {s s' : State}

/-- R50. A firing writes at most its local extent. -/
theorem canonical_fire (s : State) (k : Nat) (e : AlmEntry) (x : Slot) (frag : Option Fragment) (hs : Canonical s.memories) :
    Canonical (fire s k e x frag).state.memories := by
  unfold fire
  dsimp only
  split
  · simpa using hs
  · split
    · simpa using hs
    · simp [hs]

@[simp] theorem canonical_passEntry (s : State) (k key stream : Nat) (x : Slot) (hs : Canonical s.memories) :
    Canonical (passEntry s k key stream x).1.memories := by
  unfold passEntry
  dsimp only
  split
  · exact hs
  · split
    · simpa using hs
    · split
      · exact hs
      · generalize (if readsLocal (entryOp (entryAt s k key)) then stagedNow s k (entryAt s k key) else none) = frag
        have hf := canonical_fire s k (entryAt s k key) x frag hs
        split
        · exact hs
        · split
          · dsimp only
            split <;> simp [hf]
          · simp [hf]

theorem memories_execStageFragment (h : execStageFragment s = .next s') : s'.memories = s.memories := by
  unfold execStageFragment at h
  dsimp only at h
  repeat' split at h
  all_goals cases h
  all_goals simp

theorem canonical_loadPacket {w : Waiting} {q : Option Packet} (h : loadPacket s w = some (s', q)) (hs : Canonical s.memories) :
    Canonical s'.memories := by
  unfold loadPacket at h
  grind [memories_addStatus, canonical_deliver, memories_dropReq]

@[simp] theorem canonical_injectInto (s : State) (i key : Nat) (hs : Canonical s.memories) :
    Canonical (injectInto s i key).memories := by
  unfold injectInto
  split
  · exact hs
  · split
    · exact hs
    · next hl =>
      have h1 := canonical_loadPacket hl hs
      dsimp only
      split <;> simpa using h1

theorem canonical_execBeInject (h : execBeInject s = .next s') (hs : Canonical s.memories) : Canonical s'.memories := by
  unfold execBeInject at h
  grind [canonical_injectInto, memories_setSlot, memories_mk, memories_pair]

theorem memories_execBeStarved (h : execBeStarved s = .next s') : s'.memories = s.memories := by
  unfold execBeStarved at h
  grind [memories_modStation]

@[simp] theorem canonical_removePacket (s : State) (p : Packet) (hs : Canonical s.memories) :
    Canonical (removePacket s p).memories := by
  unfold removePacket
  grind [memories_takeWaitAnswer, canonical_failRequest]

@[simp] theorem canonical_takePacket (s : State) (k : Nat) (x : Slot) (hs : Canonical s.memories) :
    Canonical (takePacket s k x).1.memories := by
  unfold takePacket
  dsimp only
  repeat' split
  all_goals simp [hs]

@[simp] theorem canonical_passMarks (s : State) (k key : Nat) (x : Slot) (hs : Canonical s.memories) :
    Canonical (passMarks s k key x).1.memories := by
  unfold passMarks
  dsimp only
  repeat' split
  all_goals simp [hs]

@[simp] theorem canonical_passBestEffort (s : State) (k key : Nat) (x : Slot) (hs : Canonical s.memories) :
    Canonical (passBestEffort s k key x).1.memories := by
  unfold passBestEffort
  dsimp only
  split <;> simp [hs]

@[simp] theorem memories_countCrc (s : State) (k : Nat) : (countCrc s k).memories = s.memories := (rfl)

@[simp] theorem memories_failCrc (s : State) (k : Nat) (o : Owner) (x : Slot) : (failCrc s k o x).1.memories = s.memories := (rfl)

@[simp] theorem memories_loseToken (s : State) (k key i : Nat) : (loseToken s k key i).memories = s.memories := by
  unfold loseToken
  split <;> simp

@[simp] theorem memories_clearReclaimed (s : State) : (clearReclaimed s).memories = s.memories := by simp [clearReclaimed]

@[simp] theorem memories_reclaimAt (s : State) (k key : Nat) : (reclaimAt s k key).memories = s.memories := by simp [reclaimAt]

@[simp] theorem canonical_passSlot (s : State) (k key : Nat) (x : Slot) (hs : Canonical s.memories) :
    Canonical (passSlot s k key x).memories := by
  unfold passSlot
  split <;> simp [hs]

theorem canonical_execSlotPass (h : execSlotPass s = .next s') (hs : Canonical s.memories) : Canonical s'.memories := by
  unfold execSlotPass at h
  grind [memories_setSlot, memories_loseToken, memories_reclaimAt, canonical_passSlot, memories_mk, memories_pair]

end

/-! ## Sealing (R77 to R79) -/

@[simp] theorem memories_modEq (s : State) (f : Equator → Equator) : (modEq s f).memories = s.memories := (rfl)

@[simp] theorem memories_sealSlot (s : State) (x : Slot) (ekind p : Nat) (d : Dir) (lane pos : Nat) :
    (sealSlot s x ekind p d lane pos).memories = s.memories := (rfl)

@[simp] theorem memories_sendToken (s : State) (kind : Nat) (r : Rekeying) :
    (sendToken s kind r).memories = s.memories := by simp [sendToken]

@[simp] theorem memories_tokenCame (s : State) (ring : BitVec 64) (slot : Nat) :
    (tokenCame s ring slot).memories = s.memories := by simp [tokenCame]

/-! ## Tokens (R406, R407) -/

section
variable {s s' : State}

@[simp] theorem memories_putBarrierToken (s : State) (g : GroupKey) (t : Option Token) :
    (putBarrierToken s g t).memories = s.memories := (rfl)

theorem canonical_execBarrierToken (h : execBarrierToken s = .next s') (hs : Canonical s.memories) : Canonical s'.memories := by
  unfold execBarrierToken at h
  grind [canonical_completeBarrier, memories_putBarrierToken]

@[simp] theorem canonical_newCopy (s : State) (t : Token) (hs : Canonical s.memories) : Canonical (newCopy s t).1.memories := by
  unfold newCopy
  dsimp only
  split
  · exact hs
  · split
    · exact canonical_mergeParties _ _ hs
    · exact hs

@[simp] theorem canonical_resendToken (s : State) (i : Nat) (hs : Canonical s.memories) : Canonical (resendToken s i).memories := by
  unfold resendToken
  split <;> simp [hs]

@[simp] theorem memories_resendRekey (s : State) : (resendRekey s).memories = s.memories := by
  unfold resendRekey
  split <;> simp

theorem canonical_execTokenResend (h : execTokenResend s = .next s') (hs : Canonical s.memories) : Canonical s'.memories := by
  cases h
  simp [hs]

end

/-! ## The trust domain (R84 to R95) -/

section
variable {s s' : State}

@[simp] theorem canonical_failEq (s : State) (agent : Nat) (seq : BitVec 32) (st : Nat) (hs : Canonical s.memories) :
    Canonical (failEq s agent seq st).memories := by
  unfold failEq
  split <;> simp [hs]

@[simp] theorem canonical_failRequests (s : State) (p : EqReq → Bool) (st : Nat) (hs : Canonical s.memories) :
    Canonical (failRequests s p st).memories := by
  unfold failRequests
  exact canonical_foldl (fun s x hs => by simp [hs]) _ (by simp [hs])

@[simp] theorem canonical_failWaiting (s : State) (p : Packet → Bool) (st : Nat) (hs : Canonical s.memories) :
    Canonical (failWaiting s p st).memories := by
  unfold failWaiting
  exact canonical_foldl (fun s x hs => by simp [hs]) _ (by simp [hs])

@[simp] theorem memories_dropForeign (s : State) (p : Packet → Bool) : (dropForeign s p).memories = s.memories := (rfl)

@[simp] theorem canonical_endCalls (s : State) (st : Nat) (p : Nat → PlanSlot → Bool) (hs : Canonical s.memories) :
    Canonical (endCalls s st p).memories := by
  unfold endCalls
  exact canonical_foldl (fun s x hs => by simp [hs]) _ (by simp [hs])

@[simp] theorem memories_setPass (s : State) (r : Rekeying) (n : Nat) : (setPass s r n).memories = s.memories := (rfl)

@[simp] theorem memories_tryForward (s : State) : (tryForward s).memories = s.memories := by
  unfold tryForward
  split <;> simp

@[simp] theorem canonical_beginRekey (s : State) (leader : Nat) (epoch : BitVec 32) (members : BitVec 64)
    (hs : Canonical s.memories) : Canonical (beginRekey s leader epoch members).memories := by
  unfold beginRekey
  grind [memories_modEq, canonical_endCalls, canonical_failWaiting, canonical_failRequests, memories_tryForward,
    memories_dropForeign]

@[simp] theorem canonical_startRekey (s : State) (joins leaves : BitVec 64) (hs : Canonical s.memories) :
    Canonical (startRekey s joins leaves).memories := by simp [startRekey, hs]

@[simp] theorem canonical_askRekey (s : State) (joins leaves : BitVec 64) (hs : Canonical s.memories) :
    Canonical (askRekey s joins leaves).memories := by simp [askRekey, hs]

@[simp] theorem memories_beginDerivation (s : State) (r : Rekeying) : (beginDerivation s r).memories = s.memories := (rfl)

@[simp] theorem memories_resumeDomain (s : State) (r : Rekeying) : (resumeDomain s r).memories = s.memories := (rfl)

@[simp] theorem canonical_nextRekey (s : State) (r : Rekeying) (queued : List (BitVec 64 × BitVec 64)) (hs : Canonical s.memories) :
    Canonical (nextRekey s r queued).memories := by
  unfold nextRekey
  split <;> simp [hs]

theorem canonical_execRekey (h : execRekey s = .next s') (hs : Canonical s.memories) : Canonical s'.memories := by
  unfold execRekey at h
  grind [memories_tokenCame, memories_beginDerivation, memories_tryForward, memories_sendToken, canonical_startRekey, memories_emit,
    canonical_beginRekey]

theorem canonical_execRekeyDrainTimeout (h : execRekeyDrainTimeout s = .next s') (hs : Canonical s.memories) :
    Canonical s'.memories := by
  unfold execRekeyDrainTimeout at h
  grind [memories_dropForeign, canonical_failRequests, memories_sendToken, memories_setPass]

theorem memories_execKeyed (h : execKeyed s = .next s') : s'.memories = s.memories := by
  unfold execKeyed at h
  grind [memories_tokenCame, memories_modEq, memories_resumeDomain, memories_sendToken, memories_beginDerivation, memories_emit]

theorem memories_execKeyDerived (h : execKeyDerived s = .next s') : s'.memories = s.memories := by
  unfold execKeyDerived at h
  grind [memories_sendToken, memories_setPass, memories_modEq]

theorem canonical_execResume (h : execResume s = .next s') (hs : Canonical s.memories) : Canonical s'.memories := by
  unfold execResume at h
  grind [canonical_nextRekey, memories_tokenCame, memories_sendToken, memories_resumeDomain, memories_emit]

@[simp] theorem canonical_departed (s : State) (p : Nat) (hs : Canonical s.memories) :
    Canonical (departed s p).memories := by simp [departed, hs]

@[simp] theorem memories_modSession (s : State) (p : Nat) (f : Session → Session) :
    (modSession s p f).memories = s.memories := (rfl)

theorem memories_execHeartbeat (h : execHeartbeat s = .next s') : s'.memories = s.memories := by
  unfold execHeartbeat at h
  grind [memories_emit]

theorem canonical_execHeartbeatMiss (h : execHeartbeatMiss s = .next s') (hs : Canonical s.memories) : Canonical s'.memories := by
  unfold execHeartbeatMiss at h
  grind [memories_modSession, canonical_departed]

@[simp] theorem memories_sessionFails (s : State) (p : Nat) : (sessionFails s p).memories = s.memories := by simp [sessionFails]

@[simp] theorem memories_replyTo (s : State) (x : Session) (n : Nat) : (replyTo s x n).memories = s.memories := by simp [replyTo]

@[simp] theorem canonical_admitPeer (s : State) (p : Nat) (others : Bool) (hs : Canonical s.memories) :
    Canonical (admitPeer s p others).memories := by simp [admitPeer, hs]

@[simp] theorem canonical_sessionMessage (s : State) (p : Nat) (m : SpdmMsg) (others : Bool) (hs : Canonical s.memories) :
    Canonical (sessionMessage s p m others).memories := by
  unfold sessionMessage
  dsimp only
  repeat' split
  all_goals simp [hs]

theorem canonical_execSpdmMessage (h : execSpdmMessage s = .next s') (hs : Canonical s.memories) : Canonical s'.memories := by
  cases h
  simp [hs]

@[simp] theorem memories_openSession (s : State) (p : Nat) : (openSession s p).memories = s.memories := by simp [openSession]

theorem memories_execJoinTimeout (h : execJoinTimeout s = .next s') : s'.memories = s.memories := by
  unfold execJoinTimeout at h
  grind [memories_openSession, memories_modEq, memories_foldl]

end

/-! ## The Equator station (R69 to R83) -/

section
variable {s s' : State}

theorem canonical_execEqLinkTrainingDone (h : execEqLinkTrainingDone s = .next s') (hs : Canonical s.memories) :
    Canonical s'.memories := by
  unfold execEqLinkTrainingDone at h
  grind [memories_modEq, canonical_startRekey]

theorem canonical_execEqFramingLoss (h : execEqFramingLoss s = .next s') (hs : Canonical s.memories) : Canonical s'.memories := by
  unfold execEqFramingLoss at h
  grind [canonical_failWaiting, canonical_failRequests, canonical_endCalls, memories_modEq, memories_mk, memories_pair]

@[simp] theorem canonical_counterEnds (s : State) (p : Nat) (d : Dir) (lane : Nat) (hs : Canonical s.memories) :
    Canonical (counterEnds s p d lane).memories := by simp [counterEnds, hs]

@[simp] theorem memories_skipBetween (s : State) (key : Nat) : (skipBetween s key).memories = s.memories := by simp [skipBetween]

@[simp] theorem canonical_eqEntry (s : State) (key : Nat) (x : Slot) (hs : Canonical s.memories) :
    Canonical (eqEntry s key x).1.memories := by simp [eqEntry, hs]

@[simp] theorem memories_countDiscard (s : State) (why : Discard) (p pseq : Nat) :
    (countDiscard s why p pseq).memories = s.memories := by simp [countDiscard]

@[simp] theorem memories_countLate (s : State) (p : Nat) (pseq : Nat) : (countLate s p pseq).memories = s.memories := (rfl)

@[simp] theorem canonical_discardPacket (s : State) (p : Packet) (from_ : Nat) (hs : Canonical s.memories) :
    Canonical (discardPacket s p from_).memories := by
  unfold discardPacket
  split <;> simp [hs]

theorem memories_deliverPacket {p : Packet} {from_ pseq : Nat} (h : deliverPacket s p from_ pseq = .next s') :
    s'.memories = s.memories := by
  unfold deliverPacket at h
  grind [memories_sendPacket, memories_modEq, memories_tryForward, memories_countLate, memories_mk, memories_pair]

@[simp] theorem memories_openSlot (s : State) (h : EqHead) (x : Slot) (d : Dir) (lane : Nat) (sealed : SealedSlot) :
    (openSlot s h x d lane sealed).1.memories = s.memories := by
  unfold openSlot
  dsimp only
  repeat' split
  all_goals simp

@[simp] theorem memories_passOn (s : State) (sealed : SealedSlot) : (passOn s sealed).memories = s.memories := (rfl)

@[simp] theorem memories_passPoisoned (s : State) (x : Slot) (h : EqHead) :
    (passPoisoned s x h).memories = s.memories := by simp [passPoisoned]

@[simp] theorem canonical_discardStream (s : State) (key : Nat) (x : Slot) (h : EqHead) (integrity : Bool)
    (hs : Canonical s.memories) : Canonical (discardStream s key x h integrity).memories := by
  unfold discardStream
  split <;> simp [hs]

@[simp] theorem canonical_sealFor (s : State) (x : Slot) (ekind p : Nat) (hs : Canonical s.memories) :
    Canonical (sealFor s x ekind p).memories := by
  unfold sealFor
  split <;> simp [hs]

@[simp] theorem canonical_sealOn (s : State) (key : Nat) (x : Slot) (hs : Canonical s.memories) :
    Canonical (sealOn s key x).memories := by simp [sealOn, hs]

@[simp] theorem canonical_discardSlot (s : State) (key : Nat) (x : Slot) (h : EqHead) (why : Discard) (plain : Option Payload)
    (hs : Canonical s.memories) : Canonical (discardSlot s key x h why plain).memories := by
  unfold discardSlot
  dsimp only
  repeat' split
  all_goals simp [hs]

theorem canonical_openHere {key : Nat} {x : Slot} {h : EqHead} {sealed : SealedSlot} (h : openHere s key x h sealed = .next s')
    (hs : Canonical s.memories) : Canonical s'.memories := by
  unfold openHere at h
  grind [canonical_discardSlot, memories_openSlot, memories_deliverPacket, memories_skipBetween, canonical_eqEntry,
    canonical_sealFor, memories_passPoisoned, memories_passOn]

@[simp] theorem memories_loseEqToken (s : State) (i : Nat) : (loseEqToken s i).memories = s.memories := (rfl)

theorem canonical_execEqSlotOpen (h : execEqSlotOpen s = .next s') (hs : Canonical s.memories) : Canonical s'.memories := by
  unfold execEqSlotOpen at h
  grind [memories_loseEqToken, memories_skipBetween, canonical_eqEntry, canonical_sealOn, memories_countCrc,
    canonical_discardStream, canonical_openHere, memories_passOn]

@[simp] theorem memories_keepWaiting (s : State) (p : Packet) : (keepWaiting s p).memories = s.memories := (rfl)

@[simp] theorem canonical_forwardRequest (s : State) (p : Packet) (hs : Canonical s.memories) :
    Canonical (forwardRequest s p).memories := by
  unfold forwardRequest
  split <;> simp [hs]

@[simp] theorem canonical_forwardResponse (s : State) (p : Packet) (to_ : Nat) (hs : Canonical s.memories) :
    Canonical (forwardResponse s p to_).memories := by
  unfold forwardResponse
  split <;> simp [hs]

theorem canonical_execEqRequestForward (h : execEqRequestForward s = .next s') (hs : Canonical s.memories) :
    Canonical s'.memories := by
  unfold execEqRequestForward at h
  grind [canonical_forwardRequest, canonical_forwardResponse, memories_mk, memories_pair]

theorem canonical_execEqResponseTimeout (h : execEqResponseTimeout s = .next s') (hs : Canonical s.memories) :
    Canonical s'.memories := by
  unfold execEqResponseTimeout at h
  grind [memories_tryForward, canonical_failRequests]

end

/-! ## The host interface (R98 to R107) -/

section
variable {s s' : State}

@[simp] theorem memories_modMgmt (s : State) (f : Mgmt → Mgmt) : (modMgmt s f).memories = s.memories := (rfl)

@[simp] theorem memories_writeDieCmd (s : State) (v : Nat) : (writeDieCmd s v).memories = s.memories := by
  unfold writeDieCmd
  dsimp only
  repeat' split
  all_goals simp

@[simp] theorem memories_writeSgtCtl (s : State) (v : Nat) : (writeSgtCtl s v).memories = s.memories := by simp [writeSgtCtl]

@[simp] theorem memories_writeTlbCtl (s : State) (v : Nat) : (writeTlbCtl s v).memories = s.memories := by
  unfold writeTlbCtl
  dsimp only
  repeat' split
  all_goals simp

@[simp] theorem memories_endMail (s : State) (st : Nat) (out : List Byte) : (endMail s st out).memories = s.memories := (rfl)

@[simp] theorem memories_writeMbCmd (s : State) (v : Nat) : (writeMbCmd s v).memories = s.memories := by
  unfold writeMbCmd
  dsimp only
  repeat' split
  all_goals simp

@[simp] theorem memories_writeMgmt (s : State) (off v : Nat) : (writeMgmt s off v).memories = s.memories := by simp [writeMgmt]

@[simp] theorem memories_writeLqCtl (s : State) (n v : Nat) : (writeLqCtl s n v).memories = s.memories := by simp [writeLqCtl]

@[simp] theorem memories_writeLaunch (s : State) (off v : Nat) :
    (writeLaunch s off v).memories = s.memories := by simp [writeLaunch]

@[simp] theorem memories_writeWindow (s : State) (w : Window) (off v : Nat) : (writeWindow s w off v).memories = s.memories := by
  unfold writeWindow
  split <;> simp

@[simp] theorem memories_writeHalf (s : State) (w : Window) (off v : Nat) : (writeHalf s w off v).memories = s.memories := by
  unfold writeHalf
  grind [memories_writeWindow]

theorem memories_execRegisterWrite (h : execRegisterWrite s = .next s') : s'.memories = s.memories := by
  unfold execRegisterWrite at h
  grind [memories_writeWindow, memories_writeHalf]

theorem memories_execConfigRequest (h : execConfigRequest s = .next s') : s'.memories = s.memories := by
  unfold execConfigRequest at h
  grind [memories_emit]

theorem canonical_execHostMemAccess (h : execHostMemAccess s = .next s') (hs : Canonical s.memories) : Canonical s'.memories := by
  unfold execHostMemAccess at h
  grind [memories_sendSnoop, memories_modHome, canonical_storeDram, memories_emit, memories_foldl]

theorem memories_execBirsp (h : execBirsp s = .next s') : s'.memories = s.memories := by
  unfold execBirsp at h
  grind [memories_modHome]

theorem memories_execIdeKmKeyProg (h : execIdeKmKeyProg s = .next s') : s'.memories = s.memories := by
  unfold execIdeKmKeyProg at h
  grind [memories_mk, memories_pair]

theorem canonical_execHostSpdmRequest (h : execHostSpdmRequest s = .next s') (hs : Canonical s.memories) :
    Canonical s'.memories := by
  cases h
  simp [hs]

@[simp] theorem canonical_hostModify (s : State) (e : Nat) (r : Req) (h : Nat) (hs : Canonical s.memories) :
    Canonical (hostModify s e r h).memories := by
  unfold hostModify
  dsimp only
  repeat' split
  all_goals simp [hs]

theorem canonical_execCxlCacheResponse (h : execCxlCacheResponse s = .next s') (hs : Canonical s.memories) :
    Canonical s'.memories := by
  unfold execCxlCacheResponse at h
  grind [canonical_hostStores, memories_enqueue, memories_dropReq, canonical_hostModify, canonical_takeAnswer, memories_mk,
    memories_pair]

end

/-! ## Mailbox commands (R120 to R123) -/

section
variable {s s' : State}

/-- A mailbox command is refused with a status, or it runs. -/
theorem canonical_mail {op : Nat} {allowed sound : Bool} {run : State → State} (hrun : Canonical (run s).memories)
    (h : mail s op allowed sound run = .next s') (hs : Canonical s.memories) : Canonical s'.memories := by
  unfold mail at h
  split at h
  · cases h; exact hs
  · split at h
    · cases h; simpa using hs
    · split at h
      · cases h; simpa using hs
      · cases h; exact hrun

@[simp] theorem memories_mailOk (s : State) : (mailOk s).memories = s.memories := (rfl)

@[simp] theorem memories_beginMail (s : State) (m : Mailing) : (beginMail s m).memories = s.memories := (rfl)

theorem canonical_execAdvance (h : execAdvance s = .next s') (hs : Canonical s.memories) :
    Canonical s'.memories := canonical_mail (by simp [hs]) h hs

theorem canonical_execReturnHarbour (h : execReturnHarbour s = .next s') (hs : Canonical s.memories) :
    Canonical s'.memories := canonical_mail (by simp [hs]) h hs

theorem canonical_execFwStage (h : execFwStage s = .next s') (hs : Canonical s.memories) : Canonical s'.memories := by
  unfold execFwStage at h
  grind [canonical_mail, memories_mailOk, memories_modMgmt]

theorem canonical_execFwCommit (h : execFwCommit s = .next s') (hs : Canonical s.memories) :
    Canonical s'.memories := canonical_mail (by simp [hs]) h hs

theorem canonical_execPowerCap (h : execPowerCap s = .next s') (hs : Canonical s.memories) : Canonical s'.memories := by
  unfold execPowerCap at h
  grind [canonical_mail, memories_mailOk, memories_modMgmt]

theorem canonical_execSelftestInterval (h : execSelftestInterval s = .next s') (hs : Canonical s.memories) :
    Canonical s'.memories := by
  unfold execSelftestInterval at h
  grind [canonical_mail, memories_modMgmt, memories_mailOk, memories_mk, memories_pair]

theorem canonical_execSightRead (h : execSightRead s = .next s') (hs : Canonical s.memories) : Canonical s'.memories := by
  unfold execSightRead at h
  grind [canonical_mail, memories_endMail]

theorem canonical_execErrlogRead (h : execErrlogRead s = .next s') (hs : Canonical s.memories) : Canonical s'.memories := by
  unfold execErrlogRead at h
  exact canonical_mail (by simpa using hs) h hs

theorem canonical_execErrlogClear (h : execErrlogClear s = .next s') (hs : Canonical s.memories) :
    Canonical s'.memories := canonical_mail (by simp [hs]) h hs

theorem canonical_execLaunchCancel (h : execLaunchCancel s = .next s') (hs : Canonical s.memories) : Canonical s'.memories := by
  unfold execLaunchCancel at h
  grind [canonical_mail, memories_endMail, memories_mailOk, memories_endLaunch]

theorem canonical_execEqOwnership (h : execEqOwnership s = .next s') (hs : Canonical s.memories) : Canonical s'.memories := by
  unfold execEqOwnership at h
  grind [canonical_mail, memories_mailOk, memories_modEq]

theorem canonical_execAdmitPolicy (h : execAdmitPolicy s = .next s') (hs : Canonical s.memories) : Canonical s'.memories := by
  unfold execAdmitPolicy at h
  grind [canonical_mail, memories_mailOk, memories_modEq]

theorem canonical_execDomainJoin (h : execDomainJoin s = .next s') (hs : Canonical s.memories) :
    Canonical s'.memories := canonical_mail (by simp [hs]) h hs

theorem canonical_execDomainLeave (h : execDomainLeave s = .next s') (hs : Canonical s.memories) :
    Canonical s'.memories := canonical_mail (by simp [hs]) h hs

theorem canonical_execDomainExpel (h : execDomainExpel s = .next s') (hs : Canonical s.memories) : Canonical s'.memories := by
  unfold execDomainExpel at h
  grind [canonical_mail, memories_endMail, memories_mailOk, canonical_askRekey]

theorem memories_execMailboxCommandEnd (h : execMailboxCommandEnd s = .next s') : s'.memories = s.memories := by
  unfold execMailboxCommandEnd at h
  grind [memories_mailOk, memories_endMail, memories_modMgmt]

end

/-! ## Time, and the choice of the next turn -/

@[simp] theorem canonical_chargeStalls (s : State) (t : Nat) (hs : Canonical s.memories) :
    Canonical (chargeStalls s t).memories := by
  unfold chargeStalls
  exact canonical_foldl (fun s x hs => by simp [hs]) _ (by simp [hs])

@[simp] theorem memories_turnRing (s : State) (t : Nat) : (turnRing s t).memories = s.memories := (rfl)

@[simp] theorem canonical_elapse (s : State) (t : Nat) (hs : Canonical s.memories) :
    Canonical (elapse s t).memories := by simp [elapse, hs]

@[simp] theorem memories_defaultTurn (s : State) : (defaultTurn s).1.memories = s.memories := by
  unfold defaultTurn
  dsimp only
  repeat' split
  all_goals simp

@[simp] theorem canonical_nextTurn (s : State) (hs : Canonical s.memories) : Canonical (nextTurn s).1.memories := by
  unfold nextTurn
  dsimp only
  repeat' split
  all_goals simp [hs]

/-! ## One step -/

/-- R164. An instruction that issues an operation by itself is a trigger move of that operation. -/
theorem exec_of_issueOf {i : Instr} {f : OpIn → State → Res State} (h : issueOf i = some f) :
    ∃ d m, ∀ s, exec i s = runTrigger f d m s := by
  cases i <;> cases h <;> exact ⟨_, _, fun _ => rfl⟩

/-- Every instruction keeps both memories in canonical form: a trigger move by its operation, every other form by its own lemma. -/
theorem canonical_exec {i : Instr} {s s' : State} (h : exec i s = .next s') (hs : Canonical s.memories) :
    Canonical s'.memories := by
  cases hi : issueOf i with
  | some f =>
    obtain ⟨d, m, hr⟩ := exec_of_issueOf hi
    exact canonical_runTrigger (opKeeps_of_issueOf hi) ((hr s).symm.trans h) hs
  | none =>
    cases i with
    | powerOnReset => exact canonical_execPowerOnReset h hs
    | fundamentalResetDeassert => exact memories_execFundamentalResetDeassert h ▸ hs
    | advanceStageComplete => exact memories_execAdvanceStageComplete h ▸ hs
    | supplyRangeChange => exact memories_execSupplyRangeChange h ▸ hs
    | supplyTimeout => exact memories_execSupplyTimeout h ▸ hs
    | temperatureReport => exact memories_execTemperatureReport h ▸ hs
    | alarmDetector => exact memories_execAlarmDetector h ▸ hs
    | registerWrite => exact memories_execRegisterWrite h ▸ hs
    | drainC => exact memories_execDrainC h ▸ hs
    | drainCComplete => exact canonical_execDrainCComplete h hs
    | resetC => exact memories_execResetC h ▸ hs
    | resetCComplete => exact memories_execResetCComplete h ▸ hs
    | returnC => exact memories_execReturnC h ▸ hs
    | returnCComplete => exact memories_execReturnCComplete h ▸ hs
    | retireM => exact memories_execRetireM h ▸ hs
    | retireMComplete => exact canonical_execRetireMComplete h hs
    | returnM => exact memories_execReturnM h ▸ hs
    | returnMComplete => exact memories_execReturnMComplete h ▸ hs
    | resetM => exact memories_execResetM h ▸ hs
    | resetMComplete => exact canonical_execResetMComplete h hs
    | sgtFire => exact memories_execSgtFire h ▸ hs
    | sgtCompareEnable => exact memories_execSgtCompareEnable h ▸ hs
    | sgtArm => exact memories_execSgtArm h ▸ hs
    | sgtValidClear => exact memories_execSgtValidClear h ▸ hs
    | sightingLatch => exact memories_execSightingLatch h ▸ hs
    | tlbInvPage => exact memories_execTlbInvPage h ▸ hs
    | tlbInvAsid => exact memories_execTlbInvAsid h ▸ hs
    | tlbInvAll => exact memories_execTlbInvAll h ▸ hs
    | tlbReleaseForwarding => exact memories_execTlbReleaseForwarding h ▸ hs
    | tlbInvComplete => exact memories_execTlbInvComplete h ▸ hs
    | alarmClr2 => exact memories_execAlarmClr2 h ▸ hs
    | lqEnable => exact memories_execLqEnable h ▸ hs
    | advance => exact canonical_execAdvance h hs
    | returnHarbour => exact canonical_execReturnHarbour h hs
    | fwStage => exact canonical_execFwStage h hs
    | fwCommit => exact canonical_execFwCommit h hs
    | powerCap => exact canonical_execPowerCap h hs
    | selftestInterval => exact canonical_execSelftestInterval h hs
    | sightRead => exact canonical_execSightRead h hs
    | errlogRead => exact canonical_execErrlogRead h hs
    | errlogClear => exact canonical_execErrlogClear h hs
    | launchCancel => exact canonical_execLaunchCancel h hs
    | eqOwnership => exact canonical_execEqOwnership h hs
    | admitPolicy => exact canonical_execAdmitPolicy h hs
    | domainJoin => exact canonical_execDomainJoin h hs
    | domainLeave => exact canonical_execDomainLeave h hs
    | domainExpel => exact canonical_execDomainExpel h hs
    | mailboxCommandEnd => exact memories_execMailboxCommandEnd h ▸ hs
    | configRequest => exact memories_execConfigRequest h ▸ hs
    | hostMemAccess => exact canonical_execHostMemAccess h hs
    | birsp => exact memories_execBirsp h ▸ hs
    | ideKmKeyProg => exact memories_execIdeKmKeyProg h ▸ hs
    | hostSpdmRequest => exact canonical_execHostSpdmRequest h hs
    | cxlLinkRecover => exact memories_execCxlLinkRecover h ▸ hs
    | pidxNotify => exact canonical_execPidxNotify h hs
    | pidxReadDone => exact memories_execPidxReadDone h ▸ hs
    | launchRecordAccept => exact canonical_execLaunchRecordAccept h hs
    | streamGrant => exact memories_execStreamGrant h ▸ hs
    | launchComplete => exact canonical_execLaunchComplete h hs
    | waypointPickup => exact memories_execWaypointPickup h ▸ hs
    | stepGroupPlace => exact memories_execStepGroupPlace h ▸ hs
    | priorityAge => exact memories_execPriorityAge h ▸ hs
    | priorityPreempt => exact memories_execPriorityPreempt h ▸ hs
    | dispatcherSteal => exact memories_execDispatcherSteal h ▸ hs
    | preemptHalt => exact memories_execPreemptHalt h ▸ hs
    | contextSaveDone => exact canonical_execContextSaveDone h hs
    | evacuationComplete => exact memories_execEvacuationComplete h ▸ hs
    | overCapacity => exact canonical_execOverCapacity h hs
    | selftestRotation => exact memories_execSelftestRotation h ▸ hs
    | selftestDone => exact memories_execSelftestDone h ▸ hs
    | dispatcherNotify => exact memories_execDispatcherNotify h ▸ hs
    | bundleExecute => exact canonical_execBundleExecute h hs
    | operationComplete => exact memories_execOperationComplete h ▸ hs
    | bundleRetire => exact memories_execBundleRetire h ▸ hs
    | forwardDeliver => exact memories_execForwardDeliver h ▸ hs
    | timedWaitExpiry => exact canonical_execTimedWaitExpiry h hs
    | asyncFault => exact canonical_execAsyncFault h hs
    | eccError => exact canonical_execEccError h hs
    | chartLineMove => exact memories_execChartLineMove h ▸ hs
    | slotPass => exact canonical_execSlotPass h hs
    | stageFragment => exact memories_execStageFragment h ▸ hs
    | beInject => exact canonical_execBeInject h hs
    | beStarved => exact memories_execBeStarved h ▸ hs
    | read => exact canonical_execRead h hs
    | write => exact canonical_execWrite h hs
    | atom => exact canonical_execAtom h hs
    | cfa => exact canonical_execCfa h hs
    | acc => exact canonical_execAcc h hs
    | waitreg => exact canonical_execWaitreg h hs
    | recov => exact canonical_execRecov h hs
    | data => exact canonical_execData h hs
    | ack => exact memories_execAck h ▸ hs
    | atomRsp => exact canonical_execAtomRsp h hs
    | notify => exact memories_execNotify h ▸ hs
    | mcast => exact canonical_execMcast h hs
    | migline => exact canonical_execMigline h hs
    | refuse => exact canonical_execRefuse h hs
    | reservedKindDiscard => exact memories_execReservedKindDiscard h ▸ hs
    | joinDecrement => exact canonical_execJoinDecrement h hs
    | requestReissueTimeout => exact canonical_execRequestReissueTimeout h hs
    | commandComplete => exact canonical_execCommandComplete h hs
    | migrationComplete => exact canonical_execMigrationComplete h hs
    | barrierToken => exact canonical_execBarrierToken h hs
    | handshake => exact canonical_execHandshake h hs
    | go => exact canonical_execGo h hs
    | abort => exact canonical_execAbort h hs
    | tokenResend => exact canonical_execTokenResend h hs
    | eqLinkTrainingDone => exact canonical_execEqLinkTrainingDone h hs
    | eqFramingLoss => exact canonical_execEqFramingLoss h hs
    | eqSlotOpen => exact canonical_execEqSlotOpen h hs
    | eqRequestForward => exact canonical_execEqRequestForward h hs
    | eqResponseTimeout => exact canonical_execEqResponseTimeout h hs
    | spdmMessage => exact canonical_execSpdmMessage h hs
    | joinTimeout => exact memories_execJoinTimeout h ▸ hs
    | heartbeat => exact memories_execHeartbeat h ▸ hs
    | heartbeatMiss => exact canonical_execHeartbeatMiss h hs
    | rekey => exact canonical_execRekey h hs
    | rekeyDrainTimeout => exact canonical_execRekeyDrainTimeout h hs
    | keyed => exact memories_execKeyed h ▸ hs
    | keyDerived => exact memories_execKeyDerived h ▸ hs
    | resume => exact canonical_execResume h hs
    | move => exact canonical_execMove h hs
    | ln => exact canonical_execLn h hs
    | nearMemoryUnitDown => exact memories_execNearMemoryUnitDown h ▸ hs
    | cxlCacheResponse => exact canonical_execCxlCacheResponse h hs
    | _ => cases hi

/-- Settles O58: a step chooses its turn, which keeps the form (`canonical_nextTurn`), and runs the instruction that the turn names
(`canonical_exec`). -/
theorem memoryKept : Obligations.MemoryKept := by
  intro s t hs h
  rw [memoryOk_iff] at hs ⊢
  have hn := canonical_nextTurn s hs
  unfold step at h
  split at h
  · next hturn =>
    rw [hturn] at hn
    exact canonical_exec h hn
  · next hturn =>
    rw [hturn] at hn
    cases h
    exact hn

end Sys2Proof.Machine

namespace Sys2Proof.Machine

/-! ## The outline of the package

What no work of the copy engines, the Charts or the cores' storage touches: the launches, waypoints, queues and stations, the
management state but for its error log, and the Equator's state but for what the shut host link keeps. As with the memories,
`outline_f` says that f leaves it. -/

/-- The management state without the error log. -/
def Mgmt.unlogged (m : Mgmt) : Mgmt := { m with log := [], logNext := 0, logLost := 0 }

/-- The Equator's state without the messages that wait for the host link. -/
def Equator.unheld (e : Equator) : Equator := { e with linkHeld := [] }

/-- What one knows but for the log, one knows of every other part. -/
theorem Mgmt.of_unlogged {β : Sort _} {m n : Mgmt} (h : m.unlogged = n.unlogged) (g : Mgmt → β)
    (hg : ∀ m : Mgmt, g m.unlogged = g m := by exact fun _ => rfl) : g m = g n := by
  rw [← hg, h, hg]

theorem Equator.of_unheld {β : Sort _} {e e' : Equator} (h : e.unheld = e'.unheld) (g : Equator → β)
    (hg : ∀ e : Equator, g e.unheld = g e := by exact fun _ => rfl) : g e = g e' := by
  rw [← hg, h, hg]

/-- The parts of the state that make its outline. -/
structure Outline where
  arg : Arg
  chron : Nat
  mgmt : Mgmt
  eq : Equator
  queues : Map Queue
  launches : List Launch
  waypoints : List Waypoint
  stations : Map Station

def State.outline (s : State) : Outline :=
  ⟨s.arg, s.chron, s.mgmt.unlogged, s.eq.unheld, s.queues, s.launches, s.waypoints, s.stations⟩

@[simp] theorem outline_fold (s : State) :
    Outline.mk s.arg s.chron s.mgmt.unlogged s.eq.unheld s.queues s.launches s.waypoints s.stations = s.outline := (rfl)

@[simp] theorem outline_mk (agenda : List Agendum) (arg : Arg) (cur : Nat) (out : List OutMsg) (chron : Nat) (skew : Map Int)
    (chronFloor : Map Nat) (clocks : Map Nat) (mgmt : Mgmt) (eq : Equator) (queues : Map Queue) (rrQueue : Nat) (nextLaunch : Nat)
    (launches : List Launch) (waypoints : List Waypoint) (disps : Map Dispatcher) (barriers : List (GroupKey × Barrier))
    (regions : Map StepRegion) (cores : Map Core) (engines : Map Engine) (cmds : List Cmd) (nextCmd : Nat) (ring : Nat)
    (slots : Map Slot) (reclaiming : List StreamReq) (owners : Map Owner) (stations : Map Station) (waiting : List Waiting)
    (inbox : List (Nat × Packet)) (tokens : List Token) (homes : Map Home) (joinDecs : List JoinDec) (mem : List Host.Cell)
    (poisoned : List Nat) (hostMem : List Host.Cell) (cxlReqs : List CxlReq) :
    (State.mk agenda arg cur out chron skew chronFloor clocks mgmt eq queues rrQueue nextLaunch launches waypoints disps barriers
      regions cores engines cmds nextCmd ring slots reclaiming owners stations waiting inbox tokens homes joinDecs mem poisoned
      hostMem cxlReqs).outline = ⟨arg, chron, mgmt.unlogged, eq.unheld, queues, launches, waypoints, stations⟩ := (rfl)

section
variable {s t : State} (h : t.outline = s.outline)
include h

theorem mgmt_of_outline : t.mgmt.unlogged = s.mgmt.unlogged := congrArg Outline.mgmt h
theorem eq_of_outline : t.eq.unheld = s.eq.unheld := congrArg Outline.eq h
theorem launches_of_outline : t.launches = s.launches := congrArg Outline.launches h
theorem waypoints_of_outline : t.waypoints = s.waypoints := congrArg Outline.waypoints h
theorem stations_of_outline : t.stations = s.stations := congrArg Outline.stations h

end

section
variable {α : Type} {f : State → α → State} {s : State}

@[simp] theorem outline_ite (c : Prop) [Decidable c] (s t : State) :
    (if c then s else t).outline = if c then s.outline else t.outline := apply_ite ..

/-- A fold of steps that leave a part of a state leaves it. -/
theorem foldl_keeps {σ : Type} {β : Sort _} {f : σ → α → σ} (g : σ → β) (hf : ∀ s x, g (f s x) = g s) (l : List α) (s : σ) :
    g (l.foldl f s) = g s := by
  induction l generalizing s with
  | nil => rfl
  | cons x l ih => rw [List.foldl_cons, ih, hf]

@[simp] theorem outline_foldl (hf : ∀ s x, (f s x).outline = s.outline) (l : List α) (s : State) :
    (l.foldl f s).outline = s.outline := foldl_keeps State.outline hf l s

end

/-! ### Named places -/

@[simp] theorem outline_setCore (s : State) (c : Nat) (k : Core) : (setCore s c k).outline = s.outline := (rfl)

@[simp] theorem outline_modCore (s : State) (c : Nat) (f : Core → Core) : (modCore s c f).outline = s.outline := (rfl)

@[simp] theorem outline_modEngine (s : State) (e : Nat) (f : Engine → Engine) : (modEngine s e f).outline = s.outline := (rfl)

@[simp] theorem outline_modHome (s : State) (d : Nat) (f : Home → Home) : (modHome s d f).outline = s.outline := (rfl)

@[simp] theorem outline_modDisp (s : State) (d : Nat) (f : Dispatcher → Dispatcher) : (modDisp s d f).outline = s.outline := (rfl)

@[simp] theorem outline_poisonRange (s : State) (a n : Nat) : (poisonRange s a n).outline = s.outline := by simp [poisonRange]

@[simp] theorem outline_putDram (s : State) (a : Nat) (bs : List Byte) : (putDram s a bs).outline = s.outline := (rfl)

@[simp] theorem outline_enqueue (s : State) (i : Instr) (arg : Arg) : (enqueue s i arg).outline = s.outline := (rfl)

@[simp] theorem outline_emit (s : State) (m : OutMsg) : (emit s m).outline = s.outline := (rfl)

@[simp] theorem outline_emitLink (s : State) (m : OutMsg) : (emitLink s m).outline = s.outline := by
  unfold emitLink
  split
  · rfl
  · rfl

@[simp] theorem outline_logEvent (s : State) (cls die unit code addr launch detail : Nat) :
    (logEvent s cls die unit code addr launch detail).outline = s.outline := (rfl)

@[simp] theorem outline_cacheRegions (s : State) (e : Nat) (l : Launch) : (cacheRegions s e l).outline = s.outline := (rfl)

@[simp] theorem outline_cacheLeaf (s : State) (e : Nat) (l : Launch) (va : Nat) (t : Translated) :
    (cacheLeaf s e l va t).outline = s.outline := by
  unfold cacheLeaf
  dsimp only
  split <;> simp

/-! ### The engine: requests, copies and commands -/

section
variable {s s' : State}

@[simp] theorem outline_sendPacket (s : State) (src dst : Nat) (p : Packet) (late : Option (Nat × Piece)) :
    (sendPacket s src dst p late).outline = s.outline := by simp [sendPacket]

@[simp] theorem outline_request (s : State) (e cmd : Nat) (p : Packet) (piece : Option Piece) (late : Option (Nat × Piece)) :
    (request s e cmd p piece late).outline = s.outline := by simp [request]

@[simp] theorem outline_dropReq (s : State) (e : Nat) (seq : BitVec 32) : (dropReq s e seq).outline = s.outline := (rfl)

@[simp] theorem outline_notifyWaiter (s : State) (d : Nat) (w : Waiter) :
    (notifyWaiter s d w).outline = s.outline := by simp [notifyWaiter]

@[simp] theorem outline_afterStore (s : State) (a n : Nat) : (afterStore s a n).outline = s.outline := by simp [afterStore]

@[simp] theorem outline_storeDram (s : State) (a : Nat) (bs : List Byte) :
    (storeDram s a bs).outline = s.outline := by simp [storeDram]

@[simp] theorem outline_storeDramNat (s : State) (a v n : Nat) :
    (storeDramNat s a v n).outline = s.outline := by simp [storeDramNat]

@[simp] theorem outline_sendSnoop (s : State) (line : Nat) : (sendSnoop s line).outline = s.outline := by simp [sendSnoop]

@[simp] theorem outline_contribute (s : State) (l region rank : Nat) (elems : List (Nat × Nat)) :
    (contribute s l region rank elems).outline = s.outline := (rfl)

@[simp] theorem outline_addHot (s : State) (a x : Nat) : (addHot s a x).outline = s.outline := by simp [addHot]

@[simp] theorem outline_flushHot (s : State) (e launch : Nat) : (flushHot s e launch).outline = s.outline := by
  refine (outline_foldl (fun s h => ?_) _ _).trans (outline_modEngine ..)
  split
  · split
    · simp
    · rfl
  · rfl

@[simp] theorem outline_countHot (s : State) (e launch buf bytes ticks : Nat) :
    (countHot s e launch buf bytes ticks).outline = s.outline := by
  unfold countHot
  split <;> simp

@[simp] theorem outline_cacheRange (s : State) (e : Nat) (l : Launch) (va n kind : Nat) :
    (cacheRange s e l va n kind).outline = s.outline :=
  outline_foldl (fun s v => by split <;> simp) _ s

@[simp] theorem outline_cacheRef (s : State) (cmd : Cmd) (r : Word) (n kind : Nat) :
    (cacheRef s cmd r n kind).outline = s.outline := by simp [cacheRef]

@[simp] theorem outline_modCmd (s : State) (id : Nat) (f : Cmd → Cmd) : (modCmd s id f).outline = s.outline := (rfl)

@[simp] theorem outline_dropCmd (s : State) (id : Nat) : (dropCmd s id).outline = s.outline := by
  unfold dropCmd
  split <;> simp

@[simp] theorem outline_addStatus (s : State) (id st : Nat) : (addStatus s id st).outline = s.outline := (rfl)

@[simp] theorem outline_settleLine (s : State) (id c h line : Nat) (st : LineState) :
    (settleLine s id c h line st).outline = s.outline := by
  unfold settleLine
  split <;> simp

@[simp] theorem outline_poisonUnfilled (s : State) (cmd : Cmd) : (poisonUnfilled s cmd).outline = s.outline := by
  simp [poisonUnfilled]

@[simp] theorem outline_logEntryError (s : State) (e : Nat) (l : Launch) (code : BitVec 16) (va : Nat) :
    (logEntryError s e l code va).outline = s.outline := by
  unfold logEntryError
  split
  · split <;> simp
  · rfl

@[simp] theorem outline_failCmd (s : State) (id : Nat) (f : BitVec 16 × Word) : (failCmd s id f).outline = s.outline := by
  unfold failCmd
  split <;> simp

@[simp] theorem outline_accHandle (s : State) (c h off : Nat) (ws : List (Option Int)) :
    (accHandle s c h off ws).outline = s.outline := by
  unfold accHandle
  split
  · rfl
  · refine outline_foldl (fun s wi => ?_) _ s
    split
    · rfl
    · exact outline_modCore ..

@[simp] theorem outline_hostRequest (s : State) (e cmd : Nat) (pkt : Packet) (piece : Option Piece) (kind : CxlKind) (h : Nat)
    (value : BitVec 1024) : (hostRequest s e cmd pkt piece kind h value).outline = s.outline := by simp [hostRequest]

@[simp] theorem outline_hostStore (s : State) (e cmd : Nat) (piece : Option Piece) (h : Nat) (bs : List Byte) :
    (hostStore s e cmd piece h bs).outline = s.outline := by simp [hostStore]

@[simp] theorem outline_takeRemote (s : State) (cmd : Cmd) (x : RemoteLine) : (takeRemote s cmd x).outline = s.outline := by
  unfold takeRemote
  split <;> simp

@[simp] theorem outline_deliverWhole (s0 : State) (cmd : Cmd) (p : Piece) (got : Fetched) :
    (deliverWhole s0 cmd p got).outline = s0.outline := by
  unfold deliverWhole
  dsimp only
  repeat' split
  all_goals simp

@[simp] theorem outline_deliver (s : State) (cmd : Cmd) (p : Piece) (got : Fetched) :
    (deliver s cmd p got).outline = s.outline := by
  unfold deliver
  dsimp only
  repeat' split
  all_goals simp

@[simp] theorem outline_countPiece (s : State) (cmd : Cmd) (p : Piece) : (countPiece s cmd p).outline = s.outline := by
  unfold countPiece
  dsimp only
  repeat' split
  all_goals simp

theorem outline_sendPiece {cmd : Cmd} {p : Piece} (h : sendPiece s cmd p = some s') : s'.outline = s.outline := by
  unfold sendPiece at h
  grind [outline_request, outline_hostRequest, outline_failCmd, outline_deliver]

theorem outline_beginPiece {cmd : Cmd} {p : Piece} (h : beginPiece s cmd p = some s') : s'.outline = s.outline :=
  (outline_sendPiece h).trans (outline_countPiece ..)

@[simp] theorem outline_beginPieces (s : State) (id lim : Nat) (ps : List Piece) :
    (beginPieces s id lim ps).outline = s.outline := by
  induction ps generalizing s lim with
  | nil => cases lim <;> simp [beginPieces]
  | cons p rest ih =>
    cases lim with
    | zero => simp [beginPieces]
    | succ n =>
      unfold beginPieces
      grind [outline_beginPiece, outline_modCmd]

@[simp] theorem outline_advancePieces (s : State) (id lim : Nat) : (advancePieces s id lim).outline = s.outline := by
  unfold advancePieces
  split <;> simp

@[simp] theorem outline_prefMiss (s : State) (id : Nat) (ps : List Piece) : (prefMiss s id ps).outline = s.outline := by
  unfold prefMiss
  split <;> simp

@[simp] theorem outline_startCopy (s : State) (cmd : Cmd) : (startCopy s cmd).outline = s.outline := by
  unfold startCopy
  dsimp only
  split <;> simp

@[simp] theorem outline_startWord (s : State) (cmd : Cmd) (kind access : Nat) :
    (startWord s cmd kind access).outline = s.outline := by
  unfold startWord
  dsimp only
  repeat' split
  all_goals simp

@[simp] theorem outline_askNeed (s : State) (q : Asker) (wp : WpKey) (n : Need) : (askNeed s q wp n).outline = s.outline := by
  unfold askNeed
  split
  · simp
  · dsimp only
    split
    · rfl
    · cases hp : sendPiece _ _ _ with
      | none => rfl
      | some t => exact (outline_sendPiece hp).trans rfl

@[simp] theorem outline_readList (s : State) (cmd : Cmd) : (readList s cmd).outline = s.outline := by
  unfold readList
  dsimp only
  repeat' split
  all_goals simp

@[simp] theorem outline_startMigration (s : State) (cmd : Cmd) : (startMigration s cmd).outline = s.outline := by
  unfold startMigration sendLine
  dsimp only
  repeat' split
  all_goals simp

@[simp] theorem outline_beginCommand (s : State) (cmd : Cmd) : (beginCommand s cmd).outline = s.outline := by
  unfold beginCommand
  dsimp only
  split <;> simp

@[simp] theorem outline_beginHeld (s : State) : (beginHeld s).outline = s.outline :=
  outline_foldl (fun s c => by split <;> simp) _ s

end

/-! ### Charting (R197 to R201) and cores that are freed -/

@[simp] theorem outline_modChart (s : State) (c : Nat) (l : Level) (f : Chart → Chart) :
    (modChart s c l f).outline = s.outline := (rfl)

@[simp] theorem outline_logRetired (s : State) (c : Nat) (code bank : Nat) :
    (logRetired s c code bank).outline = s.outline := (rfl)

@[simp] theorem outline_applyShrink (s : State) (c : Nat) (l : Level) : (applyShrink s c l).outline = s.outline := by
  unfold applyShrink
  dsimp only
  split
  · rfl
  · rw [outline_enqueue]
    refine List.foldlRecOn (motive := fun acc : State × Nat => acc.1.outline = s.outline) _ _ rfl fun acc ih w _ => ?_
    split
    · exact ih
    · simpa using ih

@[simp] theorem outline_retireBank (s : State) (c : Nat) (l : Level) (p : Nat) : (retireBank s c l p).outline = s.outline := by
  unfold retireBank
  dsimp only
  repeat' split
  all_goals simp

@[simp] theorem outline_bankFails (s : State) (c : Nat) (l : Level) (p : Nat) :
    (bankFails s c l p).outline = s.outline := by simp [bankFails]

@[simp] theorem outline_serveOwed (s : State) (c : Nat) (l : Level) : (serveOwed s c l).outline = s.outline := by
  unfold serveOwed
  refine (outline_foldl (fun s o => ?_) _ _).trans (outline_foldl (fun s o => ?_) _ s)
  · split
    · rfl
    · exact outline_modChart ..
  · split <;> simp

@[simp] theorem outline_releaseHandles (s : State) (c : Nat) (p : Nat → Handle → Bool) :
    (releaseHandles s c p).outline = s.outline := by simp [releaseHandles]

@[simp] theorem outline_releaseAll (s : State) (k : WpKey) : (releaseAll s k).outline = s.outline := by simp [releaseAll]

@[simp] theorem outline_retireIdle (s : State) (c : Nat) : (retireIdle s c).outline = s.outline := by simp [retireIdle]

@[simp] theorem outline_regFails (s : State) (c bank : Nat) : (regFails s c bank).outline = s.outline := by simp [regFails]

@[simp] theorem outline_cacheFails (s : State) (d bank : Nat) : (cacheFails s d bank).outline = s.outline := by simp [cacheFails]

@[simp] theorem outline_testFindings (s : State) (p : Nat → Bool) : (testFindings s p).outline = s.outline := by
  simp [testFindings]

@[simp] theorem outline_freeCore (s : State) (c : Nat) : (freeCore s c).outline = s.outline := by simp [freeCore]

end Sys2Proof.Machine

namespace Sys2Proof.Machine

/-! ## Cores beside their Charts and handles

What a retirement of banks and a release of handles leave of a core: `unhoused_f` says that f leaves it of every core. -/

/-- A core but for its handles and its Charts. -/
def Core.unhoused (k : Core) : Core := { k with handles := [], spadChart := {}, opdChart := {}, vregChart := {}, tileChart := {} }

/-- What one knows but for handles and Charts, one knows of every other part. -/
theorem Core.of_unhoused {β : Sort _} {k k' : Core} (h : k'.unhoused = k.unhoused) (g : Core → β)
    (hg : ∀ k : Core, g k.unhoused = g k := by exact fun _ => rfl) : g k' = g k := by
  rw [← hg, h, hg]

/-- A core that the collection does not list is the default one. -/
theorem coreOf_unlisted (s : State) {c : Nat} (h : c ∉ s.cores.map (·.1)) : coreOf s c = {} := by
  unfold coreOf
  generalize s.cores = m at h
  induction m with
  | nil => rfl
  | cons e m ih =>
    rw [List.map_cons, List.mem_cons, not_or] at h
    rw [Map.get, if_neg (Ne.symm h.1), ih h.2]

theorem unhoused_modCore (s : State) (c c' : Nat) (f : Core → Core) (hf : ∀ k, (f k).unhoused = k.unhoused) :
    (coreOf (modCore s c f) c').unhoused = (coreOf s c').unhoused := by
  rw [coreOf_modCore]
  split
  · subst_vars; exact hf _
  · rfl

@[simp] theorem coreOf_logEvent (s : State) (cls die unit code addr launch detail c : Nat) :
    coreOf (logEvent s cls die unit code addr launch detail) c = coreOf s c := (rfl)

@[simp] theorem coreOf_enqueue (s : State) (i : Instr) (a : Arg) (c : Nat) : coreOf (enqueue s i a) c = coreOf s c := (rfl)

@[simp] theorem unhoused_modChart (s : State) (c c' : Nat) (l : Level) (f : Chart → Chart) :
    (coreOf (modChart s c l f) c').unhoused = (coreOf s c').unhoused :=
  unhoused_modCore s c c' _ fun k => by cases l <;> rfl

@[simp] theorem coreOf_logRetired (s : State) (c code bank c' : Nat) :
    coreOf (logRetired s c code bank) c' = coreOf s c' := (rfl)

@[simp] theorem cores_applyShrink (s : State) (c : Nat) (l : Level) : (applyShrink s c l).cores = s.cores := by
  unfold applyShrink
  dsimp only
  split
  · rfl
  · rw [enqueue_cores]
    refine List.foldlRecOn (motive := fun acc : State × Nat => acc.1.cores = s.cores) _ _ rfl fun acc ih w _ => ?_
    split
    · exact ih
    · exact ih

@[simp] theorem coreOf_applyShrink (s : State) (c c' : Nat) (l : Level) : coreOf (applyShrink s c l) c' = coreOf s c' := by
  rw [coreOf, cores_applyShrink, coreOf]

@[simp] theorem unhoused_retireBank (s : State) (c c' : Nat) (l : Level) (p : Nat) :
    (coreOf (retireBank s c l p) c').unhoused = (coreOf s c').unhoused := by
  unfold retireBank
  dsimp only
  repeat' split
  all_goals simp

@[simp] theorem unhoused_bankFails (s : State) (c c' : Nat) (l : Level) (p : Nat) :
    (coreOf (bankFails s c l p) c').unhoused = (coreOf s c').unhoused := by
  unfold bankFails
  split <;> simp

@[simp] theorem unhoused_serveOwed (s : State) (c c' : Nat) (l : Level) :
    (coreOf (serveOwed s c l) c').unhoused = (coreOf s c').unhoused := by
  unfold serveOwed
  refine (foldl_keeps (fun s => (coreOf s c').unhoused) (fun s o => ?_) _ _).trans
    (foldl_keeps (fun s => (coreOf s c').unhoused) (fun s o => ?_) _ s)
  · split
    · rfl
    · exact unhoused_modChart ..
  · split <;> simp

@[simp] theorem unhoused_releaseHandles (s : State) (c c' : Nat) (p : Nat → Handle → Bool) :
    (coreOf (releaseHandles s c p) c').unhoused = (coreOf s c').unhoused := by
  unfold releaseHandles
  dsimp only
  split
  · rfl
  · rw [unhoused_serveOwed, unhoused_serveOwed]
    exact unhoused_modCore _ c c' _ fun k => rfl

@[simp] theorem unhoused_releaseAll (s : State) (k : WpKey) (c' : Nat) :
    (coreOf (releaseAll s k) c').unhoused = (coreOf s c').unhoused :=
  foldl_keeps (fun s => (coreOf s c').unhoused) (fun s c => unhoused_releaseHandles s c c' _) _ s

@[simp] theorem unhoused_retireIdle (s : State) (c c' : Nat) :
    (coreOf (retireIdle s c) c').unhoused = (coreOf s c').unhoused := by
  unfold retireIdle
  refine (foldl_keeps (fun s => (coreOf s c').unhoused) (fun s t => ?_) _ _).trans
    (foldl_keeps (fun s => (coreOf s c').unhoused) (fun s b => ?_) _ s)
  · rw [coreOf_logRetired]
    exact unhoused_modCore s c c' _ fun k => rfl
  · rw [coreOf_logRetired]
    exact unhoused_modCore s c c' _ fun k => rfl

@[simp] theorem unhoused_regFails (s : State) (c c' bank : Nat) :
    (coreOf (regFails s c bank) c').unhoused = (coreOf s c').unhoused := by
  unfold regFails
  dsimp only
  by_cases hb : bank < 16
  all_goals
    simp only [hb, if_true, if_false]
    split
    · rfl
    · split
      · rw [unhoused_retireIdle]
        exact unhoused_modCore s c c' _ fun k => rfl
      · exact unhoused_modCore s c c' _ fun k => rfl

/-! ### Cores that are freed -/

@[simp] theorem mode_freeCore (s : State) (c c' : Nat) :
    (coreOf (freeCore s c) c').mode = if c = c' then .idle else (coreOf s c').mode := by
  rw [freeCore, Core.of_unhoused (unhoused_retireIdle ..) Core.mode, coreOf_modCore]
  split <;> rfl

@[simp] theorem quarantined_freeCore (s : State) (c c' : Nat) :
    (coreOf (freeCore s c) c').quarantined = (coreOf s c').quarantined := by
  rw [freeCore, Core.of_unhoused (unhoused_retireIdle ..) Core.quarantined, coreOf_modCore]
  split
  · subst_vars; rfl
  · rfl

@[simp] theorem cmds_retireIdle (s : State) (c : Nat) : (retireIdle s c).cmds = s.cmds := by
  unfold retireIdle
  refine (foldl_keeps State.cmds (fun s t => ?_) _ _).trans (foldl_keeps State.cmds (fun s b => ?_) _ s)
  · rfl
  · rfl

@[simp] theorem cmds_freeCore (s : State) (c : Nat) : (freeCore s c).cmds = s.cmds := cmds_retireIdle ..

/-! ## DEV_STATE and the return to Harbour (R23, R119) -/

@[simp] theorem setDev_mgmt (s : State) (st stage reason : Nat) :
    (setDev s st stage reason).mgmt = { s.mgmt with devState := st, stage := stage, reason := reason } := by
  unfold setDev
  dsimp only
  split
  · next h =>
    simp only [Bool.and_eq_true, decide_eq_true_eq] at h
    obtain ⟨⟨hst, hstage⟩, hreason⟩ := h
    rw [← hst, ← hstage, ← hreason]
  · rfl

/-- DEV_STATE changes nothing but the management state and what is sent. -/
theorem setDev_frame (s : State) (st stage reason : Nat) : ∃ o, setDev s st stage reason =
    { s with out := o, mgmt := { s.mgmt with devState := st, stage := stage, reason := reason } } := by
  rw [← setDev_mgmt]
  unfold setDev
  dsimp only
  split
  · exact ⟨s.out, rfl⟩
  · exact ⟨_, rfl⟩

/-- The cores that still run something, freed one after another. -/
def freeAll (s : State) (cs : List Nat) : State := cs.foldl (fun s c => if (coreOf s c).mode = .idle then s else freeCore s c) s

@[simp] theorem outline_freeAll (s : State) (cs : List Nat) : (freeAll s cs).outline = s.outline :=
  outline_foldl (fun s c => by simp) cs s

theorem mode_freeAll (cs : List Nat) {s : State} {c : Nat} (h : c ∈ cs ∨ (coreOf s c).mode = .idle) :
    (coreOf (freeAll s cs) c).mode = .idle := by
  induction cs generalizing s with
  | nil => exact h.resolve_left (List.not_mem_nil)
  | cons d cs ih =>
    refine ih ?_
    dsimp only
    rcases h with h | h
    · rcases List.mem_cons.mp h with rfl | h
      · right
        split
        · assumption
        · simp
      · exact .inl h
    · right
      split
      · exact h
      · simp [h]

theorem idle_freeAll (s : State) (c : Nat) : (coreOf (freeAll s (s.cores.map (·.1))) c).mode = .idle := by
  refine mode_freeAll _ ?_
  by_cases h : c ∈ s.cores.map (·.1)
  · exact .inl h
  · right
    rw [coreOf_unlisted s h]

/-- Harbour is reached: the management state, the cores, and what ends with it. -/
theorem reachHarbour_parts (s : State) (reason : Nat) :
    let t := reachHarbour s reason
    t.cores = s.cores ∧ t.launches = s.launches ∧ t.waypoints = [] ∧ t.cmds = [] ∧ t.eq = s.eq ∧ t.mem = s.mem ∧
      ∃ st job, t.mgmt = { s.mgmt with csvc := 0#8, cdrain := 0#8, leaving := none, devState := 1, reason := reason, dieStatus := st,
                                       job := job } := by
  unfold reachHarbour
  dsimp only
  split
  all_goals
    obtain ⟨o, ho⟩ := setDev_frame _ 1 _ reason
    rw [ho]
    exact ⟨rfl, rfl, rfl, rfl, rfl, rfl, _, _, rfl⟩

/-- A return to Harbour that begins: every core is freed and every launch is to end ABORTED. -/
def halted (s : State) (reason : Nat) : State :=
  let s1 := freeAll s (s.cores.map (·.1))
  { s1 with queues := s1.queues.map fun q => (q.1, { q.2 with reading := false, again := false, pidx := none }),
            waypoints := s1.waypoints.filter (ended s1), launches := s1.launches.map fun l => { l with ending := .aborted },
            mgmt := { s1.mgmt with leaving := some reason } }

theorem leaveToHarbour_eq (s : State) (reason : Nat) (h : s.mgmt.devState ≠ 1) (hl : s.mgmt.leaving = none) :
    leaveToHarbour s reason =
      if s.launches = [] then reachHarbour (halted s reason) reason else halted s reason := by
  have hla : (freeAll s (s.cores.map (·.1))).launches = s.launches := launches_of_outline (outline_freeAll ..)
  unfold leaveToHarbour
  rw [if_neg h, hl]
  simp only [Option.isSome_none, Bool.false_eq_true, if_false]
  show (if (halted s reason).launches.isEmpty = true then reachHarbour (halted s reason) reason else halted s reason) = _
  simp [halted, hla]

theorem mgmt_halted (s : State) (reason : Nat) :
    (halted s reason).mgmt.unlogged = ({ s.mgmt with leaving := some reason } : Mgmt).unlogged := by
  have := mgmt_of_outline (outline_freeAll s (s.cores.map (·.1)))
  exact congrArg (fun m : Mgmt => { m with leaving := some reason }) this

/-- R23, R119. The device leaves for Harbour. -/
theorem returns_leaveToHarbour (s : State) (reason : Nat) (h : s.mgmt.devState ≠ 1) (hl : s.mgmt.leaving = none) :
    Returns s reason (leaveToHarbour s reason) := by
  have hidle : ∀ c, (coreOf (halted s reason) c).mode = .idle := idle_freeAll s
  have hla : (halted s reason).launches = s.launches.map fun l => { l with ending := .aborted } :=
    congrArg (List.map _) (launches_of_outline (outline_freeAll ..))
  have hm := mgmt_halted s reason
  rw [leaveToHarbour_eq s reason h hl]
  refine ⟨fun he => ?_, fun he => ?_⟩
  · rw [if_pos he]
    obtain ⟨hc, hlaunch, hw, hcmd, -, -, st, job, hmg⟩ := reachHarbour_parts (halted s reason) reason
    refine ⟨by rw [hmg], by rw [hmg], by rw [hmg], by rw [hlaunch, hla, he]; rfl, hw, hcmd, fun c => ?_⟩
    rw [coreOf, hc]
    exact hidle c
  · rw [if_neg he]
    refine ⟨Mgmt.of_unlogged hm Mgmt.leaving, Mgmt.of_unlogged hm Mgmt.devState, Mgmt.of_unlogged hm Mgmt.reason, hidle, ?_, ?_⟩
    · rw [hla, List.map_map]; rfl
    · rw [hla]
      intro l hl
      obtain ⟨x, -, rfl⟩ := List.mem_map.mp hl
      rfl

/-- A return speaks of the launches and of DEV_STATE before it alone. -/
theorem Returns.of_eq {s s' t : State} {reason : Nat} (h : Returns s' reason t) (hl : s'.launches = s.launches)
    (hd : s'.mgmt.devState = s.mgmt.devState) (hr : s'.mgmt.reason = s.mgmt.reason) : Returns s reason t := by
  unfold Returns at *
  rwa [hl, hd, hr] at h

/-- R119. Leaving for Harbour keeps the trust domain, but for what the shut host link keeps. -/
theorem eq_leaveToHarbour (s : State) (reason : Nat) : (leaveToHarbour s reason).eq.unheld = s.eq.unheld := by
  by_cases h : s.mgmt.devState = 1
  · rw [leaveToHarbour, if_pos h]
  · cases hl : s.mgmt.leaving with
    | some r =>
      rw [leaveToHarbour, if_neg h, hl]
      simp only [Option.isSome_some, if_true]
      split <;> rfl
    | none =>
      have he := eq_of_outline (outline_freeAll s (s.cores.map (·.1)))
      rw [leaveToHarbour_eq s reason h hl]
      split
      · obtain ⟨-, -, -, -, heq, -, -⟩ := reachHarbour_parts (halted s reason) reason
        rw [heq]
        exact he
      · exact he

/-- Leaving for Harbour keeps the stage of the advance that it leaves and the stacks that have failed training. -/
theorem stage_leaveToHarbour (s : State) (reason : Nat) (h : s.mgmt.devState ≠ 1) (hl : s.mgmt.leaving = none) :
    (leaveToHarbour s reason).mgmt.stage = s.mgmt.stage ∧ (leaveToHarbour s reason).mgmt.untrained = s.mgmt.untrained := by
  have hm := mgmt_halted s reason
  have hs : (halted s reason).mgmt.stage = s.mgmt.stage := Mgmt.of_unlogged hm Mgmt.stage
  have hu : (halted s reason).mgmt.untrained = s.mgmt.untrained := Mgmt.of_unlogged hm Mgmt.untrained
  rw [leaveToHarbour_eq s reason h hl]
  split
  · obtain ⟨-, -, -, -, -, -, st, job, hmg⟩ := reachHarbour_parts (halted s reason) reason
    rw [hmg]
    exact ⟨hs, hu⟩
  · exact ⟨hs, hu⟩

end Sys2Proof.Machine

namespace Sys2Proof.Machine

/-! ## Bytes and the numbers that they hold (R7) -/

@[simp] theorem length_bytesOf (x n : Nat) : (bytesOf x n).length = n := by simp [bytesOf]

@[simp] theorem length_readBytes (m : List Host.Cell) (a n : Nat) : (readBytes m a n).length = n := by simp [readBytes]

theorem getD_bytesOf (x : Nat) {n i : Nat} (h : i < n) : (bytesOf x n).getD i 0#8 = BitVec.ofNat 8 (x / 2 ^ (8 * i)) := by
  simp [bytesOf, List.getD_eq_getElem?_getD, h, Nat.shiftRight_eq_div_pow]

theorem getD_readBytes (m : List Host.Cell) (a : Nat) {n i : Nat} (h : i < n) :
    (readBytes m a n).getD i 0#8 = readByte m (a + i) := by
  simp [readBytes, List.getD_eq_getElem?_getD, h]

theorem bytesOf_succ (x n : Nat) : bytesOf x (n + 1) = BitVec.ofNat 8 x :: bytesOf (x / 256) n := by
  rw [bytesOf, List.range_succ_eq_map, List.map_cons, List.map_map, bytesOf]
  refine congrArg₂ _ (by simp) (List.map_congr_left fun i _ => ?_)
  rw [Function.comp, Nat.shiftRight_eq_div_pow, Nat.shiftRight_eq_div_pow, Nat.div_div_eq_div_mul, Nat.succ_eq_add_one,
    show 8 * (i + 1) = 8 + 8 * i by omega, Nat.pow_add]

/-- n bytes hold a number modulo 256 ^ n. -/
theorem ofBytes_bytesOf (x n : Nat) : ofBytes (bytesOf x n) = x % 256 ^ n := by
  induction n generalizing x with
  | zero => simp [bytesOf, ofBytes, Nat.mod_one]
  | succ n ih =>
    have h : ofBytes (BitVec.ofNat 8 x :: bytesOf (x / 256) n) = x % 256 + 256 * ofBytes (bytesOf (x / 256) n) := by
      simp [ofBytes]
    rw [bytesOf_succ, h, ih, Nat.pow_succ', Nat.mod_mul]

theorem ofBytes_lt (bs : List Byte) : ofBytes bs < 256 ^ bs.length := by
  induction bs with
  | nil => simp [ofBytes]
  | cons b bs ih =>
    have hb := b.isLt
    have h : ofBytes (b :: bs) = b.toNat + 256 * ofBytes bs := rfl
    rw [h, List.length_cons, Nat.pow_succ']
    omega

/-- What stands where bytes have been written, read back. -/
theorem readBytes_writeBytes (m : List Host.Cell) (bs : List Byte) {off n : Nat} (h : off + n ≤ bs.length) :
    readBytes (writeBytes m 0 bs) off n = (bs.drop off).take n := by
  refine List.ext_getElem (by simp; omega) fun i hi _ => ?_
  have hi' : i < n := by simpa using hi
  simp only [readBytes, List.getElem_map, List.getElem_range, readByte_writeBytes, List.getElem_take, List.getElem_drop]
  rw [if_pos (by omega), List.getD_eq_getElem _ _ (by omega)]
  rfl

/-- The i-th block of blocks of one length. -/
theorem take_drop_flatMap {α β : Type} (f : α → List β) (n : Nat) (hf : ∀ x, (f x).length = n) :
    ∀ (l : List α) (i : Nat) (h : i < l.length), ((l.flatMap f).drop (n * i)).take n = f l[i]
  | x :: l, 0, _ => by
    rw [Nat.mul_zero, List.drop_zero, List.flatMap_cons, List.take_append_of_le_length (hf x).ge,
      List.take_of_length_le (hf x).le]
    rfl
  | x :: l, i + 1, h => by
    rw [List.flatMap_cons, Nat.mul_succ, Nat.add_comm, ← List.drop_drop, List.drop_append_of_le_length (hf x).ge,
      List.drop_of_length_le (hf x).le, List.nil_append]
    exact take_drop_flatMap f n hf l i (by simpa using h)

theorem length_flatMap_const {α β : Type} (f : α → List β) (n : Nat) (hf : ∀ x, (f x).length = n) (l : List α) :
    (l.flatMap f).length = n * l.length := by
  simp [List.length_flatMap, hf, Nat.mul_comm]

/-- What a list of keyed values with one entry for each number below a bound reads as. -/
theorem find_filterMap_range {α : Type} (f : Nat → Option α) (n i : Nat) :
    Map.find ((List.range n).filterMap fun j => (f j).map fun v => (j, v)) i = if i < n then f i else none := by
  induction n with
  | zero => rfl
  | succ n ih =>
    have split_find : ∀ (a b : Map α), Map.find (a ++ b) i = (Map.find a i).orElse fun _ => Map.find b i := by
      intro a b
      induction a with
      | nil => rfl
      | cons e a iha => simp only [List.cons_append, Map.find, iha]; split <;> rfl
    rw [List.range_succ, List.filterMap_append, split_find, ih]
    by_cases hi : i < n
    · rw [if_pos hi, if_pos (by omega)]
      cases hf : f i with
      | some v => rfl
      | none =>
        have : n ≠ i := by omega
        cases hn : f n <;> simp [hn, Map.find, this]
    · rw [if_neg hi]
      by_cases hn : i = n
      · subst hn
        rw [if_pos (by omega)]
        cases hn : f i <;> simp [hn, Map.find]
      · have : n ≠ i := by omega
        rw [if_neg (by omega)]
        cases hn : f n <;> simp [hn, Map.find, this]

end Sys2Proof.Machine

namespace Sys2Proof.Machine

/-! ## The mailbox (R120, R121) -/

/-- The command that an instruction carries out may run: none is in progress, or it is the one that GO has started. -/
def MailFree (g : Mgmt) (i : Instr) : Prop := g.mbStatus ≠ 1 ∨ ∃ op n, mailCommand op = some i ∧ g.mailing = .go op n

/-- A command ends with a status and without output: STATUS and OLEN are set, and vector 64 is sent. -/
def mailEnded (s : State) (st : Nat) : State :=
  emit { s with mgmt := { s.mgmt with mbStatus := st, mbOlen := 0, mailing := .none } } (.msix 64)

/-- An instruction ends a command with a status from a state; MB_DATA reads as before. -/
def MailGives (i : Instr) (s s1 : State) (st : Nat) : Prop :=
  Gives i s fun t => t = { mailEnded s1 st with mgmt := { (mailEnded s1 st).mgmt with mbData := t.mgmt.mbData } } ∧
    ∀ x, readByte t.mgmt.mbData x = readByte s1.mgmt.mbData x

theorem mailGives_of_exec {i : Instr} {s s1 : State} {st : Nat} (h : exec i s = .next (endMail s1 st [])) : MailGives i s s1 st :=
  ⟨_, h, rfl, fun _ => rfl⟩

theorem mailCommand_lt {op : Nat} {i : Instr} (h : mailCommand op = some i) : op < 16 := by
  unfold mailCommand at h
  split at h
  case h_16 => cases h
  all_goals decide

/-- An opcode names one command. -/
theorem mailCommand_inj {op op' : Nat} {i : Instr} (h : mailCommand op = some i) (h' : mailCommand op' = some i) : op = op' := by
  have inj : ∀ a < 16, ∀ b < 16, mailCommand a = mailCommand b → mailCommand a ≠ none → a = b := by decide +kernel
  exact inj op (mailCommand_lt h) op' (mailCommand_lt h') (h.trans h'.symm) (by simp [h])

theorem mailFree_iff {g : Mgmt} {op : Nat} {i : Instr} (h : mailCommand op = some i) : mailFree g op = true ↔ MailFree g i := by
  unfold mailFree MailFree
  rw [Bool.or_eq_true, decide_eq_true_eq]
  refine or_congr_right ?_
  constructor
  · intro hm
    split at hm
    · next n hgo =>
      rw [decide_eq_true_eq] at hm
      exact ⟨op, n, h, hm ▸ hgo⟩
    · cases hm
  · rintro ⟨op', n, hop', hgo⟩
    rw [hgo]
    simp [mailCommand_inj h hop']

section
variable {s : State} {op : Nat} {allowed sound : Bool} {run : State → State}

theorem mail_ignored (h : mailFree s.mgmt op = false) : mail s op allowed sound run = .next s := by simp [mail, h]

theorem mail_wrongState (h : mailFree s.mgmt op = true) : mail s op false sound run = .next (endMail s 4 []) := by simp [mail, h]

theorem mail_badArg (h : mailFree s.mgmt op = true) : mail s op true false run = .next (endMail s 3 []) := by simp [mail, h]

theorem mail_runs (h : mailFree s.mgmt op = true) : mail s op true true run = .next (run s) := by simp [mail, h]

end

/-- R121. The states in which the command of an opcode is allowed. -/
def mailAllowed (s : State) (op : Nat) : Bool :=
  match op with
  | 1 => inHarbour s
  | 2 | 0xA | 0xB | 0xD | 0xE | 0xF => inUnderway s
  | _ => inService s

/-- Every mailbox command goes through `mail`. -/
theorem exec_mail (s : State) {op : Nat} {i : Instr} (h : mailCommand op = some i) :
    ∃ sound run, exec i s = mail s op (mailAllowed s op) sound run := by
  unfold mailCommand at h
  split at h <;> cases h
  · exact ⟨_, _, execAdvance.eq_1 s⟩
  · exact ⟨_, _, execReturnHarbour.eq_1 s⟩
  · exact ⟨_, _, execFwStage.eq_1 s⟩
  · exact ⟨_, _, execFwCommit.eq_1 s⟩
  · exact ⟨_, _, execPowerCap.eq_1 s⟩
  · exact ⟨_, _, execSelftestInterval.eq_1 s⟩
  · exact ⟨_, _, execSightRead.eq_1 s⟩
  · exact ⟨_, _, execErrlogRead.eq_1 s⟩
  · exact ⟨_, _, execErrlogClear.eq_1 s⟩
  · exact ⟨_, _, execLaunchCancel.eq_1 s⟩
  · exact ⟨_, _, execEqOwnership.eq_1 s⟩
  · exact ⟨_, _, execAdmitPolicy.eq_1 s⟩
  · exact ⟨_, _, execDomainJoin.eq_1 s⟩
  · exact ⟨_, _, execDomainLeave.eq_1 s⟩
  · exact ⟨_, _, execDomainExpel.eq_1 s⟩

theorem exec_ignored (s : State) {op : Nat} {i : Instr} (h : mailCommand op = some i) (hf : ¬MailFree s.mgmt i) :
    exec i s = .next s := by
  obtain ⟨sound, run, hx⟩ := exec_mail s h
  rw [hx, mail_ignored]
  rwa [← mailFree_iff h, Bool.not_eq_true] at hf

theorem exec_wrongState (s : State) {op : Nat} {i : Instr} (h : mailCommand op = some i) (ha : mailAllowed s op = false)
    (hf : MailFree s.mgmt i) : MailGives i s s 4 := by
  obtain ⟨sound, run, hx⟩ := exec_mail s h
  exact mailGives_of_exec (by rw [hx, ha, mail_wrongState ((mailFree_iff h).mpr hf)])

/-- Commands of a list of opcodes. -/
theorem opcode_of_mem {ops : List Nat} {i : Instr} (h : i ∈ ops.filterMap mailCommand) :
    ∃ op ∈ ops, mailCommand op = some i := List.mem_filterMap.mp h

section
variable {s : State} {i : Instr} {op : Nat} {allowed sound : Bool} {run : State → State}

/-- A command that is allowed, whose input is in range, has its effect. -/
theorem exec_runs (hx : exec i s = mail s op allowed sound run) (hop : mailCommand op = some i) (hf : MailFree s.mgmt i)
    (ha : allowed = true) (hs : sound = true) : exec i s = .next (run s) := by
  subst ha hs
  rw [hx, mail_runs ((mailFree_iff hop).mpr hf)]

theorem exec_badArg (hx : exec i s = mail s op allowed sound run) (hop : mailCommand op = some i) (hf : MailFree s.mgmt i)
    (ha : allowed = true) (hs : sound = false) : MailGives i s s 3 := by
  subst ha hs
  exact mailGives_of_exec (by rw [hx, mail_badArg ((mailFree_iff hop).mpr hf)])

end

/-! ### The commands, one by one -/

section
variable {s : State}

theorem inHarbour_of (h : s.mgmt.devState = 1) : inHarbour s = true := decide_eq_true h
theorem inUnderway_of (h : s.mgmt.devState = 3) : inUnderway s = true := decide_eq_true h
theorem inService_of (h : s.mgmt.devState = 3 ∨ s.mgmt.devState = 1) : inService s = true := by
  simp only [inService, inHarbour, inUnderway, Bool.or_eq_true, decide_eq_true_eq]
  exact h.symm

theorem mailNat_lt (s : State) (off n : Nat) : mailNat s off n < 256 ^ n := by
  simpa [mailNat] using ofBytes_lt (readBytes s.mgmt.mbData off n)

theorem advance_gives (hp : s.mgmt.devState = 1) (hl : mailLen s.mgmt = 0) (hf : MailFree s.mgmt .advance) :
    Gives .advance s fun t => t.mgmt.devState = 2 ∧ t.mgmt.stage = 1 ∧ t.mgmt.mbStatus = 1 ∧ t.mgmt.mailing = .advance := by
  refine ⟨_, exec_runs (i := .advance) (execAdvance.eq_1 s) rfl hf (inHarbour_of hp) (decide_eq_true hl), ?_⟩
  simp [beginAdvance, beginMail, modMgmt]

theorem returnHarbour_gives (hu : s.mgmt.devState = 3) (hl : mailLen s.mgmt = 0) (hn : s.mgmt.leaving = none)
    (hf : MailFree s.mgmt .returnHarbour) :
    Gives .returnHarbour s fun t => Returns s 0x0C t ∧ t.mgmt.mbStatus = 0 :=
  ⟨_, exec_runs (i := .returnHarbour) (execReturnHarbour.eq_1 s) rfl hf (inUnderway_of hu) (decide_eq_true hl),
    returns_leaveToHarbour s 0x0C (by rw [hu]; decide) hn, rfl⟩

theorem fwStage_gives (hs : s.mgmt.devState = 3 ∨ s.mgmt.devState = 1) (h8 : 8 ≤ mailLen s.mgmt) (hl : mailLen s.mgmt ≤ 4096)
    (hr : mailNat s 0 8 + (mailLen s.mgmt - 8) ≤ 2 ^ 26) (hf : MailFree s.mgmt .fwStage) :
    Gives .fwStage s fun t => t.mgmt.mbStatus = 0 ∧ ∀ x, readByte t.mgmt.staged x =
      if mailNat s 0 8 ≤ x ∧ x < mailNat s 0 8 + (mailLen s.mgmt - 8) then readByte s.mgmt.mbData (8 + (x - mailNat s 0 8))
      else readByte s.mgmt.staged x := by
  refine ⟨_, exec_runs (i := .fwStage) (execFwStage.eq_1 s) rfl hf (inService_of hs) (by simpa [h8, hl] using hr), rfl, fun x => ?_⟩
  show readByte (writeBytes s.mgmt.staged (mailNat s 0 8) (readBytes s.mgmt.mbData 8 (mailLen s.mgmt - 8))) x = _
  rw [readByte_writeBytes, length_readBytes]
  split
  · rw [getD_readBytes _ _ (by omega)]
  · rfl

theorem fwCommit_begins (hs : s.mgmt.devState = 3 ∨ s.mgmt.devState = 1) (hl : mailLen s.mgmt = 0) (hf : MailFree s.mgmt .fwCommit) :
    exec .fwCommit s = .next { s with mgmt := { s.mgmt with mbStatus := 1, mailing := .fwCommit } } :=
  exec_runs (i := .fwCommit) (execFwCommit.eq_1 s) rfl hf (inService_of hs) (decide_eq_true hl)

theorem powerCap_gives (hs : s.mgmt.devState = 3 ∨ s.mgmt.devState = 1) (hl : mailLen s.mgmt = 4) (h1 : 2000 ≤ mailNat s 0 4)
    (h2 : mailNat s 0 4 ≤ 3600) (hf : MailFree s.mgmt .powerCap) :
    MailGives .powerCap s { s with mgmt := { s.mgmt with powerCap := mailNat s 0 4 } } 0 :=
  mailGives_of_exec (exec_runs (i := .powerCap) (execPowerCap.eq_1 s) rfl hf (inService_of hs) (by simp [hl, h1, h2]))

theorem powerCap_badArg (hs : s.mgmt.devState = 3 ∨ s.mgmt.devState = 1) (hr : mailNat s 0 4 < 2000 ∨ 3600 < mailNat s 0 4)
    (hf : MailFree s.mgmt .powerCap) : MailGives .powerCap s s 3 :=
  exec_badArg (i := .powerCap) (execPowerCap.eq_1 s) rfl hf (inService_of hs) (by simp; omega)

theorem selftestInterval_gives (hs : s.mgmt.devState = 3 ∨ s.mgmt.devState = 1) (hl : mailLen s.mgmt = 4) (h1 : 1 ≤ mailNat s 0 4)
    (h2 : mailNat s 0 4 ≤ 3600) (hf : MailFree s.mgmt .selftestInterval) :
    let s1 : State := { s with mgmt := { s.mgmt with stInterval := mailNat s 0 4 } }
    MailGives .selftestInterval s
      { s1 with disps := s.disps.map fun (e : Nat × Dispatcher) => (e.1, { e.2 with testPeriod := testPeriodNow s1 e.1 }) } 0 :=
  mailGives_of_exec (exec_runs (i := .selftestInterval) (execSelftestInterval.eq_1 s) rfl hf (inService_of hs) (by simp [hl, h1, h2]))

theorem selftestInterval_badArg (hs : s.mgmt.devState = 3 ∨ s.mgmt.devState = 1)
    (hr : mailNat s 0 4 < 1 ∨ 3600 < mailNat s 0 4) (hf : MailFree s.mgmt .selftestInterval) : MailGives .selftestInterval s s 3 :=
  exec_badArg (i := .selftestInterval) (execSelftestInterval.eq_1 s) rfl hf (inService_of hs) (by simp; omega)

/-- R122. What SIGHT_READ leaves in MB_DATA. -/
theorem sightRead_gives (hs : s.mgmt.devState = 3 ∨ s.mgmt.devState = 1) (hl : mailLen s.mgmt = 8) (hd : mailNat s 0 1 ≤ 16)
    (hk : mailNat s 1 1 ≤ 5) (hb : ∃ b ∈ blocksOfDie (mailNat s 0 1), b.1 = mailNat s 1 1 ∧ mailNat s 2 2 < b.2)
    (ho : mailNat s 4 4 < snapWords (mailNat s 1 1)) (hf : MailFree s.mgmt .sightRead) :
    Gives .sightRead s fun t => t.mgmt.mbStatus = 0 ∧ t.mgmt.mbOlen = 8 * (snapWords (mailNat s 1 1) - mailNat s 4 4) ∧
      ∀ i, i < snapWords (mailNat s 1 1) - mailNat s 4 4 → ofBytes (readBytes t.mgmt.mbData (8 * i) 8) =
        (Map.get s.mgmt.snapshot (snapKey (mailNat s 0 1) (mailNat s 1 1) (mailNat s 2 2) (mailNat s 4 4 + i)) 0#64).toNat := by
  let word (w : Nat) : Word := Map.get s.mgmt.snapshot (snapKey (mailNat s 0 1) (mailNat s 1 1) (mailNat s 2 2) w) 0#64
  let words : List Nat := span (mailNat s 4 4) (snapWords (mailNat s 1 1) - mailNat s 4 4)
  have hword (w : Nat) : (bytesOf (word w).toNat 8).length = 8 := length_bytesOf _ 8
  have hwords : words.length = snapWords (mailNat s 1 1) - mailNat s 4 4 := by simp [words, span]
  have hlen := length_flatMap_const (fun w => bytesOf (word w).toNat 8) 8 hword words
  refine ⟨_, exec_runs (i := .sightRead) (execSightRead.eq_1 s) rfl hf (inService_of hs) ?_, rfl, hlen.trans (by rw [hwords]), fun i hi => ?_⟩
  · simpa [hl, hd, hk, ho] using hb
  · show ofBytes (readBytes (writeBytes s.mgmt.mbData 0 (words.flatMap fun w => bytesOf (word w).toNat 8)) (8 * i) 8) = (word _).toNat
    have hi' : i < words.length := hwords ▸ hi
    rw [readBytes_writeBytes _ _ (by rw [hlen]; omega), take_drop_flatMap _ 8 hword words i hi', ofBytes_bytesOf,
      Nat.mod_eq_of_lt (show _ < 256 ^ 8 from (word _).isLt)]
    simp [words, span]

theorem length_logBytes (e : LogEntry) : (logBytes e).length = 64 := by simp [logBytes]

/-- R123. What ERRLOG_READ leaves in MB_DATA. -/
theorem errlogRead_gives (hs : s.mgmt.devState = 3 ∨ s.mgmt.devState = 1) (hl : mailLen s.mgmt = 8) (h1 : 1 ≤ mailNat s 4 4)
    (h2 : mailNat s 4 4 ≤ 63) (hf : MailFree s.mgmt .errlogRead) :
    Gives .errlogRead s fun t => t.mgmt.mbStatus = 0 ∧ t.mgmt.log = s.mgmt.log ∧
      ofBytes (readBytes t.mgmt.mbData 0 4) = (s.mgmt.logNext - s.mgmt.log.length) % 2 ^ 32 ∧
      ofBytes (readBytes t.mgmt.mbData 4 4) = min s.mgmt.logLost (2 ^ 32 - 1) ∧
      ∃ n, n ≤ mailNat s 4 4 ∧ t.mgmt.mbOlen = 8 + 64 * n := by
  have hx := exec_runs (i := .errlogRead) (execErrlogRead.eq_1 s) rfl hf (inService_of hs) (by simp [hl, h1, h2])
  dsimp only at hx
  have hes := List.length_take_le (mailNat s 4 4) (s.mgmt.log.drop
    (if (mailNat s 0 4 + 2 ^ 32 - (s.mgmt.logNext - s.mgmt.log.length) % 2 ^ 32) % 2 ^ 32 < 2 ^ 31 then
      (mailNat s 0 4 + 2 ^ 32 - (s.mgmt.logNext - s.mgmt.log.length) % 2 ^ 32) % 2 ^ 32 else 0))
  generalize List.take (mailNat s 4 4) _ = es at hx hes
  have hlen := length_flatMap_const logBytes 64 length_logBytes es
  refine ⟨_, hx, rfl, rfl, ?_, ?_, es.length, hes, ?_⟩
  · show ofBytes (readBytes (writeBytes s.mgmt.mbData 0 _) 0 4) = _
    rw [readBytes_writeBytes _ _ (by simp)]
    simp [ofBytes_bytesOf]
  · show ofBytes (readBytes (writeBytes s.mgmt.mbData 0 _) 4 4) = _
    rw [readBytes_writeBytes _ _ (by simp only [List.length_append, length_bytesOf]; omega)]
    simp [ofBytes_bytesOf]
  · show List.length _ = _
    simp only [List.length_append, length_bytesOf, hlen]

theorem errlogClear_gives (hs : s.mgmt.devState = 3 ∨ s.mgmt.devState = 1) (hl : mailLen s.mgmt = 0)
    (hf : MailFree s.mgmt .errlogClear) :
    MailGives .errlogClear s { s with mgmt := { s.mgmt with log := [], logLost := 0 } } 0 :=
  mailGives_of_exec (exec_runs (i := .errlogClear) (execErrlogClear.eq_1 s) rfl hf (inService_of hs) (decide_eq_true hl))

theorem admitPolicy_gives (hs : s.mgmt.devState = 3 ∨ s.mgmt.devState = 1) (hn : mailNat s 64 4 ≤ 16)
    (hl : mailLen s.mgmt = 68 + 64 * mailNat s 64 4) (hf : MailFree s.mgmt .admitPolicy) :
    MailGives .admitPolicy s { s with eq := { s.eq with
      policyRoot := some (BitVec.ofNat 512 (mailNat s 0 64)),
      policyList := (List.range (mailNat s 64 4)).map fun i => BitVec.ofNat 512 (mailNat s (68 + 64 * i) 64) } } 0 :=
  mailGives_of_exec (exec_runs (i := .admitPolicy) (execAdmitPolicy.eq_1 s) rfl hf (inService_of hs) (by simp [hn, hl]))

@[simp] theorem launches_discardWp (s : State) (k : WpKey) : (discardWp s k).launches = s.launches := by
  have h := launches_of_outline (outline_releaseAll s k)
  unfold discardWp noteEmpty
  dsimp only
  repeat' split
  all_goals exact h

/-- A launch that ends is the only one whose record changes. -/
theorem launches_endLaunch (s : State) (l : Nat) (how : Ending) :
    (endLaunch s l how).launches = s.launches.map fun x =>
      if x.id = l then { x with ending := if x.ending = .running then how else x.ending } else x :=
  foldl_keeps State.launches (fun s w => by
    split
    · rfl
    · exact launches_discardWp s w.key) _ _

theorem launchCancel_notLive (hu : s.mgmt.devState = 3) (hl : mailLen s.mgmt = 5) (hq : mailNat s 0 1 < 64)
    (hn : ∀ l ∈ s.launches, ¬(l.queue = mailNat s 0 1 ∧ l.record = mailNat s 1 4 ∧ l.sys = false))
    (hf : MailFree s.mgmt .launchCancel) : MailGives .launchCancel s s 7 := by
  have hx := exec_runs (i := .launchCancel) (execLaunchCancel.eq_1 s) rfl hf (inUnderway_of hu) (by simp [hl, hq])
  have hfind : (s.launches.find? fun l => l.queue = mailNat s 0 1 && l.record = mailNat s 1 4 && !l.sys) = none :=
    List.find?_eq_none.mpr fun l hl => by simpa [and_assoc] using hn l hl
  rw [hfind] at hx
  exact mailGives_of_exec hx

theorem launchCancel_gives (hu : s.mgmt.devState = 3) (hl : mailLen s.mgmt = 5) (hq : mailNat s 0 1 < 64) {l : Launch}
    (hfind : (s.launches.find? fun l => l.queue = mailNat s 0 1 && l.record = mailNat s 1 4 && !l.sys) = some l)
    (hf : MailFree s.mgmt .launchCancel) :
    Gives .launchCancel s fun t => t.mgmt.mbStatus = 0 ∧ ∀ x ∈ t.launches, x.id = l.id → x.ending ≠ .running := by
  have hx := exec_runs (i := .launchCancel) (execLaunchCancel.eq_1 s) rfl hf (inUnderway_of hu) (by simp [hl, hq])
  rw [hfind] at hx
  refine ⟨_, hx, rfl, fun x hmem hid => ?_⟩
  have hmem' : x ∈ (endLaunch s l.id (if l.held then .dieOffline else .cancelled)).launches := hmem
  rw [launches_endLaunch] at hmem'
  obtain ⟨y, -, rfl⟩ := List.mem_map.mp hmem'
  by_cases hy : y.id = l.id
  · rw [if_pos hy]
    show (if y.ending = .running then _ else y.ending) ≠ .running
    split
    · split <;> decide
    · assumption
  · rw [if_neg hy] at hid
    exact absurd hid hy

/-- R73. The ownership table that entries of 32 bits give. -/
def ownersOf (entry : Nat → Nat) : Map (BitVec 32) :=
  (List.range 1024).filterMap fun i =>
    let v := entry i / 2 ^ 19 * 2 ^ 19 + entry i % 2 ^ 12
    if v = 0 || i % 512 = 0 then none else some (i, BitVec.ofNat 32 v)

theorem get_ownersOf (entry : Nat → Nat) {i : Nat} (hi : i < 1024) (he : entry i < 2 ^ 32) :
    (Map.get (ownersOf entry) i 0#32).toNat = if i % 512 = 0 then 0 else entry i / 2 ^ 19 * 2 ^ 19 + entry i % 2 ^ 12 := by
  let owner (i : Nat) : Nat := entry i / 2 ^ 19 * 2 ^ 19 + entry i % 2 ^ 12
  let held (i : Nat) : Option (BitVec 32) := if owner i = 0 || i % 512 = 0 then none else some (BitVec.ofNat 32 (owner i))
  have hmap : ownersOf entry = (List.range 1024).filterMap fun i => (held i).map fun v => (i, v) := by
    refine congrArg (List.filterMap · _) (funext fun i => ?_)
    simp only [held, owner]
    split <;> rfl
  have howner : owner i < 2 ^ 32 := by
    simp only [owner]
    omega
  rw [hmap, Map.get_eq_find, find_filterMap_range, if_pos hi]
  show _ = if i % 512 = 0 then 0 else owner i
  by_cases h512 : i % 512 = 0
  · simp [held, h512]
  · by_cases h0 : owner i = 0
    · simp [held, h0]
    · simp only [held, h0, h512, decide_false, Bool.or_self, Bool.false_eq_true, if_false, Option.getD_some, BitVec.toNat_ofNat]
      exact Nat.mod_eq_of_lt howner

theorem eq_mailOk (s : State) : (mailOk s).eq = s.eq := rfl
theorem eq_modEq (s : State) (f : Equator → Equator) : (modEq s f).eq = f s.eq := rfl

theorem eqOwnership_gives (hu : s.mgmt.devState = 3) (hl : mailLen s.mgmt = 4096)
    (hc : ∀ i, i < 1024 → mailNat s (4 * i) 4 / 2 ^ 10 % 4 ≠ 3) (hf : MailFree s.mgmt .eqOwnership) :
    Gives .eqOwnership s fun t => t.mgmt.mbStatus = 0 ∧ ∀ i, i < 1024 → (Map.get t.eq.owners i 0#32).toNat =
      if i % 512 = 0 then 0 else mailNat s (4 * i) 4 / 2 ^ 19 * 2 ^ 19 + mailNat s (4 * i) 4 % 2 ^ 12 := by
  have hsound : (mailLen s.mgmt = 4096 && (List.range 1024).all fun i => field (mailNat s (4 * i) 4) 10 2 ≠ 3) = true := by
    rw [Bool.and_eq_true, decide_eq_true_eq, List.all_eq_true]
    refine ⟨hl, fun i hi => decide_eq_true ?_⟩
    exact hc i (List.mem_range.mp hi)
  have hx := exec_runs (i := .eqOwnership) (execEqOwnership.eq_1 s) rfl hf (inUnderway_of hu) hsound
  refine ⟨_, hx, rfl, fun i hi => ?_⟩
  rw [eq_mailOk, eq_modEq]
  refine (congrArg (fun m => (Map.get m i 0#32).toNat) ?_).trans
    (get_ownersOf (fun i => mailNat s (4 * i) 4) hi (mailNat_lt s (4 * i) 4))
  dsimp only
  rw [ownersOf]

theorem domainJoin_refused (hu : s.mgmt.devState = 3) (hl : mailLen s.mgmt = 0) (h : memberOf s s.eq.pkg = true ∨ 2 ≤ s.eq.level)
    (hf : MailFree s.mgmt .domainJoin) : MailGives .domainJoin s s 5 := by
  have hx := exec_runs (i := .domainJoin) (execDomainJoin.eq_1 s) rfl hf (inUnderway_of hu) (decide_eq_true hl)
  rw [if_pos (by simpa using h)] at hx
  exact mailGives_of_exec hx

theorem domainJoin_gives (hu : s.mgmt.devState = 3) (hl : mailLen s.mgmt = 0) (hm : memberOf s s.eq.pkg = false)
    (hv : s.eq.level < 2) (hf : MailFree s.mgmt .domainJoin) :
    MailGives .domainJoin s (emit { s with eq := { s.eq with joining := true, dstate := 1 } }
      (.token 0 (BitVec.ofNat 6 s.eq.pkg) 0#32 (maskOf s.eq.pkg))) 0 := by
  have hx := exec_runs (i := .domainJoin) (execDomainJoin.eq_1 s) rfl hf (inUnderway_of hu) (decide_eq_true hl)
  rw [if_neg (by simp [hm, hv])] at hx
  exact mailGives_of_exec hx

theorem domainLeave_refused (hu : s.mgmt.devState = 3) (hl : mailLen s.mgmt = 0) (hm : memberOf s s.eq.pkg = false)
    (hf : MailFree s.mgmt .domainLeave) : MailGives .domainLeave s s 5 := by
  have hx := exec_runs (i := .domainLeave) (execDomainLeave.eq_1 s) rfl hf (inUnderway_of hu) (decide_eq_true hl)
  rw [if_pos (by simp [hm])] at hx
  exact mailGives_of_exec hx

theorem domainLeave_gives (hu : s.mgmt.devState = 3) (hl : mailLen s.mgmt = 0) (hm : memberOf s s.eq.pkg = true)
    (hf : MailFree s.mgmt .domainLeave) : MailGives .domainLeave s (askRekey s 0#64 (maskOf s.eq.pkg)) 0 := by
  have hx := exec_runs (i := .domainLeave) (execDomainLeave.eq_1 s) rfl hf (inUnderway_of hu) (decide_eq_true hl)
  rw [if_neg (by simp [hm])] at hx
  exact mailGives_of_exec hx

theorem domainExpel_refused (hu : s.mgmt.devState = 3) (hl : mailLen s.mgmt = 1) (hp : mailNat s 0 1 < 64)
    (hm : memberOf s (mailNat s 0 1) = false ∨ memberOf s s.eq.pkg = false) (hf : MailFree s.mgmt .domainExpel) :
    MailGives .domainExpel s s 5 := by
  have hx := exec_runs (i := .domainExpel) (execDomainExpel.eq_1 s) rfl hf (inUnderway_of hu) (by simp [hl, hp])
  rw [if_pos (by simpa using hm)] at hx
  exact mailGives_of_exec hx

theorem domainExpel_gives (hu : s.mgmt.devState = 3) (hl : mailLen s.mgmt = 1) (hp : mailNat s 0 1 < 64)
    (hm : memberOf s (mailNat s 0 1) = true) (hself : memberOf s s.eq.pkg = true) (hf : MailFree s.mgmt .domainExpel) :
    MailGives .domainExpel s (askRekey s 0#64 (maskOf (mailNat s 0 1))) 0 := by
  have hx := exec_runs (i := .domainExpel) (execDomainExpel.eq_1 s) rfl hf (inUnderway_of hu) (by simp [hl, hp])
  rw [if_neg (by simp [hm, hself])] at hx
  exact mailGives_of_exec hx

/-- A command that takes time ends: an advance in Underway, or FAILED in Harbour. -/
theorem mailboxCommandEnd_underway (hm : s.mgmt.mailing = .advance) (hu : s.mgmt.devState = 3) :
    MailGives .mailboxCommandEnd s s 0 :=
  mailGives_of_exec (by show execMailboxCommandEnd s = _; simp [execMailboxCommandEnd, hm, inUnderway_of hu, mailOk])

theorem mailboxCommandEnd_harbour (hm : s.mgmt.mailing = .advance) (hp : s.mgmt.devState = 1) :
    MailGives .mailboxCommandEnd s s 6 :=
  mailGives_of_exec (by
    show execMailboxCommandEnd s = _
    simp [execMailboxCommandEnd, hm, inHarbour_of hp, show inUnderway s = false by simp [inUnderway, hp]])

theorem mailboxCommandEnd_fwCommit (hm : s.mgmt.mailing = .fwCommit) :
    MailGives .mailboxCommandEnd s
      (if Config.imageVerifies s.mgmt.staged = true then { s with mgmt := { s.mgmt with verified := true, image := s.mgmt.staged } } else s)
      (if Config.imageVerifies s.mgmt.staged = true then 0 else 6) :=
  mailGives_of_exec (by
    show execMailboxCommandEnd s = _
    by_cases hv : Config.imageVerifies s.mgmt.staged = true <;> simp [execMailboxCommandEnd, hm, hv, mailOk, modMgmt])

/-- The commands of a set of states, outside these. -/
theorem wrongState_of_mem {ops : List Nat} (ha : ∀ op ∈ ops, mailAllowed s op = false) :
    ∀ i ∈ ops.filterMap mailCommand, MailFree s.mgmt i → MailGives i s s 4 := by
  intro i hi hf
  obtain ⟨op, hop, hmail⟩ := opcode_of_mem hi
  exact exec_wrongState s hmail (ha op hop) hf

end

/-- Settles O50: every command goes through `mail`, which ignores it, refuses its state or its input, or runs it (`exec_ignored`,
`wrongState_of_mem`, `exec_badArg`, `exec_runs`); what each does is its own lemma. -/
theorem mailboxCommands : Obligations.MailboxCommands := by
  intro s g len num parked up ends free runs gives does entry withEq self tuned
  refine ⟨fun i hi hf => ?_, ⟨fun hp hf => ?_, fun hu => ?_, fun hu hp => ?_, advance_gives, returnHarbour_gives, fun hs => ?_,
    fun hu hl hq => ?_, eqOwnership_gives, fun hu hl => ?_, fun hu hl hp => ?_⟩, mailboxCommandEnd_underway,
    mailboxCommandEnd_harbour, mailboxCommandEnd_fwCommit⟩
  · obtain ⟨op, -, hop⟩ := opcode_of_mem (ops := [1, 2, 3, 4, 5, 6, 7, 8, 9, 10, 11, 12, 13, 14, 15]) hi
    exact exec_ignored s hop hf
  · exact exec_wrongState s (op := 1) rfl (decide_eq_false hp) hf
  · have hu' : inUnderway s = false := decide_eq_false hu
    exact wrongState_of_mem (ops := [2, 10, 11, 13, 14, 15]) (by simpa [mailAllowed] using hu')
  · have hs' : inService s = false := by simpa [inService, inHarbour, inUnderway] using ⟨hp, hu⟩
    exact wrongState_of_mem (ops := [3, 4, 5, 6, 7, 8, 9, 12]) (by simpa [mailAllowed] using hs')
  · have hs' : s.mgmt.devState = 3 ∨ s.mgmt.devState = 1 := hs
    exact ⟨fwStage_gives hs', fwCommit_begins hs', powerCap_gives hs', fun _ => powerCap_badArg hs', selftestInterval_gives hs',
      fun _ => selftestInterval_badArg hs', sightRead_gives hs', errlogRead_gives hs', errlogClear_gives hs', admitPolicy_gives hs'⟩
  · exact ⟨launchCancel_notLive hu hl hq, fun l hfind => launchCancel_gives hu hl hq hfind⟩
  · exact ⟨domainJoin_refused hu hl, domainJoin_gives hu hl, domainLeave_refused hu hl, domainLeave_gives hu hl⟩
  · exact ⟨domainExpel_refused hu hl hp, domainExpel_gives hu hl hp⟩

end Sys2Proof.Machine

namespace Sys2Proof

/-- Reading where every value has been changed by its key. -/
theorem Map.get_map {α : Type} (m : Map α) (f : Nat → α → α) {d : α} {k : Nat} (hd : f k d = d) :
    Map.get (m.map fun e => (e.1, f e.1 e.2)) k d = f k (Map.get m k d) := by
  induction m with
  | nil => exact hd.symm
  | cons e m ih =>
    obtain ⟨i, a⟩ := e
    simp only [List.map_cons, Map.get, ih]
    split
    · next h => rw [h]
    · rfl

namespace Machine

/-! ## Sighting triggers (R33) -/

section
variable {s : State} (at_ cause : Nat)

theorem sightTrigger_first (ha : s.mgmt.armed = true) (hp : s.mgmt.pendingSgt = none) :
    sightTrigger s at_ cause = { s with mgmt := { s.mgmt with pendingSgt := some (at_, cause), sgtDone := [] } } := by
  simp [sightTrigger, ha, hp]

theorem sightTrigger_unarmed (ha : s.mgmt.armed = false) :
    sightTrigger s at_ cause = { s with mgmt := { s.mgmt with missed := min (s.mgmt.missed + 1) 0xFFFF } } := by
  simp [sightTrigger, ha, missTrigger]

/-- A later trigger is missed, an earlier one displaces the pending one, which is missed then, and one of the same instant joins it. -/
theorem sightTrigger_pending {tp c : Nat} (ha : s.mgmt.armed = true) (hp : s.mgmt.pendingSgt = some (tp, c)) :
    (sightTrigger s at_ cause).mgmt.pendingSgt =
        (if at_ < tp then some (at_, cause) else if at_ = tp then some (tp, max c cause) else some (tp, c)) ∧
      (sightTrigger s at_ cause).mgmt.missed = if at_ = tp then s.mgmt.missed else min (s.mgmt.missed + 1) 0xFFFF := by
  rcases Nat.lt_trichotomy at_ tp with hlt | rfl | hgt
  · simp [sightTrigger, ha, hp, hlt, hlt.ne, missTrigger]
  · simp [sightTrigger, ha, hp]
  · simp [sightTrigger, ha, hp, hgt.ne', Nat.lt_asymm hgt, missTrigger]

end

/-! ## The alarm level (R96, R97) -/

section
variable {s : State} {level : Nat}

/-- A level raised below 3: the level and a log entry. -/
theorem raiseAlarm_low (cause : Nat) (h : s.eq.level < level) (h3 : level ≠ 3) :
    raiseAlarm s level cause = logEvent { s with eq := { s.eq with level := level } } 5 16 0 level 0 0 cause := by
  simp [raiseAlarm, Nat.not_le.mpr h, h3]

/-- Level 3: what is held is zeroised, and the device leaves for Harbour. -/
theorem raiseAlarm_three (cause : Nat) (h : s.eq.level < 3) :
    raiseAlarm s 3 cause = leaveToHarbour (zeroise (logEvent { s with eq := { s.eq with level := 3 } } 5 16 0 3 0 0 cause)) 9 := by
  simp [raiseAlarm, Nat.not_le.mpr h]

/-- R23. A return to Harbour already begun takes the reason of an alarm. -/
theorem leaveToHarbour_nine (h : s.mgmt.devState ≠ 1) (hl : s.mgmt.leaving ≠ none) :
    (leaveToHarbour s 9).mgmt.leaving = some 9 := by
  rw [leaveToHarbour, if_neg h, if_pos (Option.isSome_iff_ne_none.mpr hl)]
  rfl

/-- What an alarm does where it raises the level. -/
theorem raiseAlarm_raises (cause : Nat) (hle : level ≤ 3) (h : s.eq.level < level) :
    (raiseAlarm s level cause).eq.level = level ∧
      (level ≤ 2 → ∃ e, (raiseAlarm s level cause).mgmt.log.getLast? = some e ∧ e.cls = 5 ∧ e.code = level ∧ e.detail = cause) ∧
      (level = 3 → (raiseAlarm s level cause).eq.sessions = [] ∧ (raiseAlarm s level cause).eq.keys = [] ∧
        (raiseAlarm s level cause).eq.ideKeys = [] ∧ (raiseAlarm s level cause).eq.members = 0#64 ∧
        (raiseAlarm s level cause).eq.linkShut = true ∧
        (s.mgmt.devState ≠ 1 → s.mgmt.leaving = none → Returns s 9 (raiseAlarm s level cause)) ∧
        (s.mgmt.devState ≠ 1 → s.mgmt.leaving ≠ none → (raiseAlarm s level cause).mgmt.leaving = some 9)) := by
  by_cases h3 : level = 3
  · subst h3
    rw [raiseAlarm_three cause h]
    generalize hz : zeroise (logEvent { s with eq := { s.eq with level := 3 } } 5 16 0 3 0 0 cause) = z
    have hmg : z.mgmt.unlogged = s.mgmt.unlogged := by rw [← hz]; rfl
    have hdev : z.mgmt.devState = s.mgmt.devState := Mgmt.of_unlogged hmg Mgmt.devState
    have hleaving : z.mgmt.leaving = s.mgmt.leaving := Mgmt.of_unlogged hmg Mgmt.leaving
    have heq := eq_leaveToHarbour z 9
    have hzeq : z.eq.level = 3 ∧ z.eq.sessions = [] ∧ z.eq.keys = [] ∧ z.eq.ideKeys = [] ∧ z.eq.members = 0#64 ∧
        z.eq.linkShut = true := by subst hz; exact ⟨rfl, rfl, rfl, rfl, rfl, rfl⟩
    obtain ⟨hlevel, hsess, hkeys, hide, hmem, hshut⟩ := hzeq
    refine ⟨(Equator.of_unheld heq Equator.level).trans hlevel, fun hcon => absurd hcon (by decide), fun _ =>
      ⟨(Equator.of_unheld heq Equator.sessions).trans hsess, (Equator.of_unheld heq Equator.keys).trans hkeys,
        (Equator.of_unheld heq Equator.ideKeys).trans hide, (Equator.of_unheld heq Equator.members).trans hmem,
        (Equator.of_unheld heq Equator.linkShut).trans hshut, fun hd hl => ?_, fun hd hl => ?_⟩⟩
    · exact (returns_leaveToHarbour z 9 (hdev ▸ hd) (hleaving ▸ hl)).of_eq (by rw [← hz]; rfl) hdev
        (Mgmt.of_unlogged hmg Mgmt.reason)
    · exact leaveToHarbour_nine (hdev ▸ hd) (hleaving ▸ hl)
  · rw [raiseAlarm_low cause h h3]
    exact ⟨rfl, fun _ => ⟨_, List.getLast?_concat .., rfl, rfl, rfl⟩, fun h' => absurd h' h3⟩

/-- R96. The level and the cause of a detector. -/
def alarmOf : Detector → Nat × Nat
  | .supplyClock => (1, 2)
  | .voltageGlitch => (2, 3)
  | .tamperMesh => (3, 4)
  | .clockGlitch => (3, 5)

theorem exec_alarmDetector (s : State) {x : Detector} (h : s.arg.detector = x) :
    exec .alarmDetector s = .next (raiseAlarm s (alarmOf x).1 (alarmOf x).2) := by
  show execAlarmDetector s = _
  rw [execAlarmDetector, h]
  cases x <;> rfl

theorem raiseAlarm_kept (cause : Nat) (h : level ≤ s.eq.level) : raiseAlarm s level cause = s := if_pos h

end

/-! ## Translations dropped (R207, R230) -/

section
variable {s : State} (p : TlbEntry → Bool)

theorem invalidate_busy (h : s.mgmt.tlbBusy = true) : invalidate s p = s := if_pos h

theorem invalidate_drops {P : TlbEntry → Prop} (hp : ∀ x, p x = true ↔ P x) (h : s.mgmt.tlbBusy = false) :
    (invalidate s p).mgmt.tlbBusy = true ∧ (invalidate s p).mem = s.mem ∧
      ∀ e x, x ∈ (engine (invalidate s p) e).tlb ↔ x ∈ (engine s e).tlb ∧ ¬P x := by
  have hi : invalidate s p = { s with
      mgmt := { s.mgmt with tlbBusy := true, tlbWait := requestsOut s },
      engines := s.engines.map fun e => (e.1, { e.2 with tlb := e.2.tlb.filter fun t => !p t }) } := by
    simp [invalidate, h]
  rw [hi]
  refine ⟨rfl, rfl, fun e x => ?_⟩
  rw [engine, Map.get_map s.engines (fun _ (y : Engine) => { y with tlb := y.tlb.filter fun t => !p t }) rfl]
  simp [engine, ← hp]

/-- Every region-table cache emptied. -/
theorem engine_noRegions (s : State) (e : Nat) :
    engine { s with engines := s.engines.map fun e => (e.1, { e.2 with regions := [] }) } e = { engine s e with regions := [] } :=
  Map.get_map s.engines (fun _ (y : Engine) => { y with regions := [] }) rfl

theorem invalidateAll_eq (h : s.mgmt.tlbBusy = false) :
    invalidateAll s = { invalidate s (fun _ => true) with
      engines := (invalidate s fun _ => true).engines.map fun e => (e.1, { e.2 with regions := [] }) } := by
  simp [invalidateAll, h]

theorem invalidateAll_drops (h : s.mgmt.tlbBusy = false) :
    (invalidateAll s).mgmt.tlbBusy = true ∧ (invalidateAll s).mem = s.mem ∧
      (∀ e x, x ∈ (engine (invalidateAll s) e).tlb ↔ x ∈ (engine s e).tlb ∧ ¬True) ∧
      ∀ e, (engine (invalidateAll s) e).regions = [] := by
  obtain ⟨hbusy, hmem, htlb⟩ := invalidate_drops (fun _ => true) (P := fun _ => True) (fun _ => by simp) h
  rw [invalidateAll_eq h]
  refine ⟨hbusy, hmem, fun e x => ?_, fun e => ?_⟩
  · rw [engine_noRegions]
    simpa using htlb e x
  · rw [engine_noRegions]

theorem releaseForwarding_drops (h : s.mgmt.tlbBusy = false) :
    (releaseForwarding s).mgmt.tlbBusy = true ∧ (releaseForwarding s).mem = s.mem ∧
      ∀ d f, f ∈ (home (releaseForwarding s) d).forwarding ↔
        f ∈ (home s d).forwarding ∧ f.oldPa / 65536 ≠ s.mgmt.tlbPage.toNat % 2 ^ 32 := by
  have hr : releaseForwarding s = { s with
      mgmt := { s.mgmt with tlbBusy := true, tlbWait := [] },
      homes := s.homes.map fun h => (h.1, { h.2 with
        forwarding := h.2.forwarding.filter fun f => f.oldPa / 65536 ≠ s.mgmt.tlbPage.toNat % 2 ^ 32 }) } := by
    simp [releaseForwarding, h]
  rw [hr]
  refine ⟨rfl, rfl, fun d f => ?_⟩
  rw [home, Map.get_map s.homes (fun _ (y : Home) => { y with
    forwarding := y.forwarding.filter fun f => f.oldPa / 65536 ≠ s.mgmt.tlbPage.toNat % 2 ^ 32 }) rfl]
  simp [home]

end

/-! ## The latch (R33) -/

section
variable {s : State} {t c : Nat} (hp : s.mgmt.pendingSgt = some (t, c))
include hp

theorem sightingLatch_none (hdue : dueDies s t = []) : exec .sightingLatch s = .next s := by
  show execSightingLatch s = _
  simp [execSightingLatch, hp, hdue]

theorem sightingLatch_some (hdue : dueDies s t ≠ []) (hlen : (s.mgmt.sgtDone ++ dueDies s t).length < 17) :
    exec .sightingLatch s = .next { s with mgmt := { s.mgmt with
      snapshot := s.mgmt.snapshot ++ snapshotOf s (dueDies s t), sgtDone := s.mgmt.sgtDone ++ dueDies s t } } := by
  show execSightingLatch s = _
  rw [execSightingLatch, hp]
  dsimp only
  rw [if_neg (by simpa using hdue), if_pos hlen]

theorem sightingLatch_last (hdue : dueDies s t ≠ []) (hlen : 17 ≤ (s.mgmt.sgtDone ++ dueDies s t).length) :
    exec .sightingLatch s = .next { s with mgmt := { s.mgmt with
      snapshot := s.mgmt.snapshot ++ snapshotOf s (dueDies s t), armed := false, valid := true, cause := c,
      sgtLatch := BitVec.ofNat 64 t, pendingSgt := none, sgtDone := [] } } := by
  show execSightingLatch s = _
  rw [execSightingLatch, hp]
  dsimp only
  rw [if_neg (by simpa using hdue), if_neg (Nat.not_lt.mpr hlen)]

end

theorem tlbInvComplete_ends {s : State} (hb : s.mgmt.tlbBusy = true) (hw : ∀ x ∈ s.mgmt.tlbWait, findReq s x.1 x.2 = none) :
    exec .tlbInvComplete s = .next { s with mgmt := { s.mgmt with tlbBusy := false, tlbWait := [] } } := by
  have hany : (s.mgmt.tlbWait.any fun x => (findReq s x.1 x.2).isSome) = false := by
    rw [List.any_eq_false]
    intro x hx
    simp [hw x hx]
  show execTlbInvComplete s = _
  simp [execTlbInvComplete, hb, hany]

/-- Settles O48: the triggers by `sightTrigger`'s cases, the alarms by `raiseAlarm_raises`, the translation commands by the drops of
`invalidate` and `releaseForwarding`, the latch by its three cases. -/
theorem alarmsSightingsTranslations : Obligations.AlarmsSightingsTranslations := by
  intro s g trigger raised drops
  have raises {level cause : Nat} (hle : level ≤ 3) (hx : exec .alarmDetector s = .next (raiseAlarm s level cause)) :
      raised level cause :=
    ⟨fun h => by rw [hx, raiseAlarm_kept cause h], fun h => ⟨_, hx, raiseAlarm_raises cause hle h⟩⟩
  have triggers {i : Instr} {s1 : State} {at_ cause : Nat} (hx : exec i s = .next (sightTrigger s1 at_ cause))
      (hg : s1.mgmt.armed = g.armed ∧ s1.mgmt.pendingSgt = g.pendingSgt ∧ s1.mgmt.missed = g.missed) :
      trigger i s1 at_ cause := by
    obtain ⟨harmed, hpend, hmissed⟩ := hg
    refine ⟨fun ha hp => ?_, fun tp c ha hp => ⟨_, hx, ?_⟩, fun ha => ?_⟩
    · rw [hx, sightTrigger_first _ _ (harmed.trans ha) (hpend.trans hp)]
    · rw [← hmissed]
      exact sightTrigger_pending _ _ (harmed.trans ha) (hpend.trans hp)
    · rw [hx, sightTrigger_unarmed _ _ (harmed.trans ha), hmissed]
  refine ⟨fun h => raises (by decide) (exec_alarmDetector s h), fun h => raises (by decide) (exec_alarmDetector s h),
    fun h => raises (by decide) (exec_alarmDetector s h), fun h => raises (by decide) (exec_alarmDetector s h), fun h => ?_, fun h => ?_, triggers rfl ⟨rfl, rfl, rfl⟩, fun h => ?_, rfl, rfl,
    fun t c hp => ⟨sightingLatch_none hp, sightingLatch_some hp, sightingLatch_last hp⟩, ⟨fun h => ?_, fun h => ⟨_, rfl, ?_⟩⟩,
    ⟨fun h => ?_, fun h => ⟨_, rfl, ?_⟩⟩, ⟨fun h => ?_, fun h => ⟨_, rfl, ?_⟩⟩, fun h => ⟨_, rfl, ?_⟩,
    fun h => ⟨_, rfl, releaseForwarding_drops h⟩, tlbInvComplete_ends⟩
  · exact congrArg _ (if_pos h)
  · exact congrArg _ (if_neg h)
  · refine triggers ?_ ⟨rfl, rfl, rfl⟩
    exact congrArg _ (if_neg (by simpa using h))
  · exact congrArg _ (invalidate_busy _ h)
  · exact invalidate_drops _ (fun x => by simp [g]) h
  · exact congrArg _ (invalidate_busy _ h)
  · exact invalidate_drops _ (fun x => by simp [g]) h
  · exact congrArg _ (if_pos h)
  · obtain ⟨hbusy, hmem, htlb, -⟩ := invalidateAll_drops h
    exact ⟨hbusy, hmem, htlb⟩
  · obtain ⟨-, -, -, hreg⟩ := invalidateAll_drops h
    exact hreg

end Machine
end Sys2Proof

namespace Sys2Proof.Machine

/-! ## Stations in and out of pass-through -/

theorem station_modStation (s : State) (k j : Nat) (f : Station → Station) :
    station (modStation s k f) j = if k = j then f (station s k) else station s j := Map.get_set ..

/-- Entries set to NOP leave a station's pass-through. -/
theorem passThrough_disarm (s : State) (p : Nat → AlmEntry → Bool) (j : Nat) :
    (station (disarm s p) j).passThrough = (station s j).passThrough := by
  unfold disarm station
  rw [Map.get_map s.stations (fun k (t : Station) => { t with almanac := t.almanac.filter fun e => !p k e.2 }) rfl]

@[simp] theorem mgmt_noteSummary (s : State) (l st : Nat) : (noteSummary s l st).mgmt = s.mgmt := by
  unfold noteSummary
  split <;> rfl

@[simp] theorem stations_noteSummary (s : State) (l st : Nat) : (noteSummary s l st).stations = s.stations := by
  unfold noteSummary
  split <;> rfl

theorem mgmt_endCall (s : State) (c p status : Nat) : (endCall s c p status).mgmt.unlogged = s.mgmt.unlogged := by
  unfold endCall
  dsimp only
  split
  · rfl
  · split
    · rfl
    · split
      · rfl
      · rw [mgmt_of_outline (outline_beginHeld _), mgmt_noteSummary]
        rfl

theorem stations_endCall (s : State) (c p status : Nat) : (endCall s c p status).stations = s.stations := by
  unfold endCall
  dsimp only
  split
  · rfl
  · split
    · rfl
    · split
      · rfl
      · rw [stations_of_outline (outline_beginHeld _), stations_noteSummary]
        rfl

/-- R414. Calls that end early leave the management state but for the log, and every station's pass-through. -/
theorem mgmt_endCallsAt (s : State) (k : Nat) : (endCallsAt s k).mgmt.unlogged = s.mgmt.unlogged :=
  foldl_keeps (fun s => s.mgmt.unlogged) (fun s x => by
    dsimp only
    split
    · exact mgmt_endCall ..
    · rfl) _ s

theorem passThrough_endCallsAt (s : State) (k j : Nat) :
    (station (endCallsAt s k) j).passThrough = (station s j).passThrough :=
  foldl_keeps (fun s => (station s j).passThrough) (fun s x => by
    dsimp only
    split
    · rw [endCallEarly, station, stations_endCall]
      exact passThrough_disarm s _ j
    · rfl) _ s

/-- REASON written anew changes DEV_STATE's fields alone. -/
theorem refreshReason_frame (s : State) : ∃ o st sg r,
    refreshReason s = { s with out := o, mgmt := { s.mgmt with devState := st, stage := sg, reason := r } } := by
  unfold refreshReason
  split
  · obtain ⟨o, ho⟩ := setDev_frame s 3 s.mgmt.stage (serviceReason s.mgmt)
    exact ⟨o, _, _, _, ho⟩
  · exact ⟨s.out, s.mgmt.devState, s.mgmt.stage, s.mgmt.reason, rfl⟩

/-! ## DIE_CMD commands accepted (R32) -/

section
variable {i : Instr} {s : State} {cmd n refusal : Nat} {begin_ : State → State}

theorem dieCommand_ignored (h : s.mgmt.dieStatus = 1) : dieCommand s cmd n refusal begin_ = s := if_pos h

theorem dieCommand_refused (h : s.mgmt.dieStatus ≠ 1) (hr : refusal ≠ 0) : dieCommand s cmd n refusal begin_ =
    { s with mgmt := { s.mgmt with dieCmd := cmd, dieIdx := n, dieStatus := refusal, job := .none } } := by
  simp [dieCommand, h, hr, endDieCmd]

theorem dieCommand_begun (h : s.mgmt.dieStatus ≠ 1) (hr : refusal = 0) : dieCommand s cmd n refusal begin_ =
    begin_ { s with mgmt := { s.mgmt with dieCmd := cmd, dieIdx := n, dieStatus := 1 } } := by
  simp [dieCommand, h, hr]

theorem exec_dieIgnored (hx : exec i s = .next (dieCommand s cmd n refusal begin_)) (h : s.mgmt.dieStatus = 1) :
    exec i s = .next s := by rw [hx, dieCommand_ignored h]

theorem exec_dieRefused {code : Nat} (hx : exec i s = .next (dieCommand s cmd n refusal begin_)) (h : s.mgmt.dieStatus ≠ 1)
    (hr : refusal = code) (hc : code ≠ 0) :
    exec i s = .next { s with mgmt := { s.mgmt with dieCmd := cmd, dieIdx := n, dieStatus := code, job := .none } } := by
  rw [hx, dieCommand_refused h (hr ▸ hc), hr]

theorem exec_dieBegun (hx : exec i s = .next (dieCommand s cmd n refusal begin_)) (h : s.mgmt.dieStatus ≠ 1) (hr : refusal = 0) :
    exec i s = .next (begin_ { s with mgmt := { s.mgmt with dieCmd := cmd, dieIdx := n, dieStatus := 1 } }) := by
  rw [hx, dieCommand_begun h hr]

end

/-! ### A drain begins (R25, R26) -/

/-- A pre-emption asked for changes waypoints and the agenda alone. -/
theorem askPreempt_keeps {β : Sort _} (g : State → β) (hm : ∀ s k f, g (modWp s k f) = g s) (he : ∀ s i a, g (enqueue s i a) = g s)
    (s : State) (key : WpKey) : g (askPreempt s key) = g s := by
  unfold askPreempt
  split
  · rfl
  · exact foldl_keeps g (fun s m => by
      split
      · rw [he, hm]
      · rfl) _ s

theorem mgmt_askPreempt (s : State) (key : WpKey) : (askPreempt s key).mgmt = s.mgmt :=
  askPreempt_keeps State.mgmt (fun _ _ _ => rfl) (fun _ _ _ => rfl) s key

theorem cmds_askPreempt (s : State) (key : WpKey) : (askPreempt s key).cmds = s.cmds :=
  askPreempt_keeps State.cmds (fun _ _ _ => rfl) (fun _ _ _ => rfl) s key

/-- R26. Launches held are pre-empted, and marked in the launch table. -/
theorem holdLaunches_keeps {β : Sort _} (g : State → β) (hl : ∀ s l f, g (modLaunch s l f) = g s)
    (hp : ∀ s k, g (askPreempt s k) = g s) (s : State) (n : Nat) : g (holdLaunches s n) = g s :=
  foldl_keeps g (fun _ _ => (foldl_keeps g (fun s (w : Waypoint) => hp s w.key) _ _).trans (hl ..)) _ s

theorem mgmt_holdLaunches (s : State) (n : Nat) : (holdLaunches s n).mgmt = s.mgmt :=
  holdLaunches_keeps State.mgmt (fun _ _ _ => rfl) mgmt_askPreempt s n

theorem cmds_holdLaunches (s : State) (n : Nat) : (holdLaunches s n).cmds = s.cmds :=
  holdLaunches_keeps State.cmds (fun _ _ _ => rfl) cmds_askPreempt s n

theorem mgmt_enqueue (s : State) (i : Instr) (a : Arg) : (enqueue s i a).mgmt = s.mgmt := rfl

theorem drainC_begins {s : State} (h : s.mgmt.dieStatus ≠ 1) (hup : underway s = true)
    (hs : s.mgmt.csvc.getLsbD (s.arg.die % 8) = true) (hl : s.mgmt.csvc ≠ dieBit (s.arg.die % 8)) :
    Gives .drainC s fun t => t.mgmt = { s.mgmt with
      dieCmd := 1, dieIdx := s.arg.die % 8, dieStatus := 1, job := .drain (s.arg.die % 8) false,
      cdrain := s.mgmt.cdrain ||| dieBit (s.arg.die % 8) } := by
  have hl' : s.mgmt.csvc ≠ 1#8 <<< (s.arg.die % 8) := hl
  refine ⟨drainC s (s.arg.die % 8), rfl, ?_⟩
  rw [drainC, dieCommand_begun h (by rw [hup, hs]; simp [hl'])]
  dsimp only
  generalize List.flatMap _ _ = pinned
  generalize span _ _ = cores
  refine (foldl_keeps State.mgmt (fun s (w : Waypoint) => mgmt_enqueue s .evacuationComplete { wp := w.key }) _ _).trans
    ((foldl_keeps State.mgmt (fun s c => ?_) _ _).trans (mgmt_holdLaunches ..))
  split
  · rfl
  · exact mgmt_askPreempt ..

theorem mgmt_resetC {s : State} {n : Nat} (h : s.mgmt.dieStatus ≠ 1) (hup : underway s = true) (hs : s.mgmt.csvc.getLsbD n = false) :
    (resetC s n).mgmt = { s.mgmt with
      dieCmd := 2, dieIdx := n, dieStatus := 1, job := .reset n, resetDone := s.mgmt.resetDone &&& ~~~dieBit n,
      microcode := Map.set s.mgmt.microcode n s.mgmt.image } := by
  rw [resetC, dieCommand_begun h (by simp [hup, hs])]
  rfl

/-- R28. A core without handles on a die that resets starts anew. -/
theorem coreOf_resetC {s : State} {n c : Nat} (h : s.mgmt.dieStatus ≠ 1) (hup : underway s = true) (hs : s.mgmt.csvc.getLsbD n = false)
    (hd : dieOf c = n) (hh : (coreOf s c).handles = []) : coreOf (resetC s n) c = {} := by
  rw [resetC, dieCommand_begun h (by simp [hup, hs])]
  refine (Map.get_map s.cores (fun (c : Nat) (k : Core) =>
    if dieOf c ≠ n then k else if k.handles.isEmpty then {} else { k with quarantined := false, vregChart := {}, tileChart := {} })
    (by split <;> rfl)).trans ?_
  exact (if_neg (not_not.mpr hd)).trans (if_pos (List.isEmpty_iff.mpr hh))

/-! ## DIE_CMD commands that end -/

section
variable {s : State} {d : Nat}

/-- R25 steps 5 and 6. The drain ends. -/
theorem finishDrain_ends (s : State) (d : Nat) :
    (finishDrain s d).mgmt.dieStatus = 0 ∧ (finishDrain s d).mgmt.job = .none ∧
      (finishDrain s d).mgmt.csvc = s.mgmt.csvc &&& ~~~dieBit d ∧ (finishDrain s d).mgmt.cdrain = s.mgmt.cdrain &&& ~~~dieBit d ∧
      (station (finishDrain s d) (2 * d)).passThrough = true := by
  obtain ⟨o, st, sg, r, hr⟩ := refreshReason_frame (endDieCmd
    { endCallsAt (modStation s (2 * d) fun t => { t with passThrough := true }) (2 * d) with
      mgmt := { (endCallsAt (modStation s (2 * d) fun t => { t with passThrough := true }) (2 * d)).mgmt with
        csvc := (endCallsAt (modStation s (2 * d) fun t => { t with passThrough := true }) (2 * d)).mgmt.csvc &&& ~~~(1#8 <<< d),
        cdrain := (endCallsAt (modStation s (2 * d) fun t => { t with passThrough := true }) (2 * d)).mgmt.cdrain &&& ~~~(1#8 <<< d) } } 0)
  have hm := mgmt_endCallsAt (modStation s (2 * d) fun t => { t with passThrough := true }) (2 * d)
  have hp := passThrough_endCallsAt (modStation s (2 * d) fun t => { t with passThrough := true }) (2 * d) (2 * d)
  rw [station_modStation, if_pos rfl] at hp
  rw [finishDrain, hr]
  exact ⟨rfl, rfl, congrArg (· &&& _) (Mgmt.of_unlogged hm Mgmt.csvc), congrArg (· &&& _) (Mgmt.of_unlogged hm Mgmt.cdrain), hp⟩

/-- Step 3 of a drain names its job alone in the management state. -/
theorem mgmt_endEvacuation (s : State) (n : Nat) : (endEvacuation s n).mgmt = { s.mgmt with job := .drain n true } := by
  unfold endEvacuation
  split <;> rfl

theorem cmds_endEvacuation (s : State) (n : Nat) : (endEvacuation s n).cmds = s.cmds := by
  unfold endEvacuation
  split <;> rfl

/-- The state from which a drain goes on once what can be evacuated has been. -/
def evacuated (s : State) (d : Nat) (moved : Bool) : State :=
  if moved then holdLaunches s d else endEvacuation (holdLaunches s d) d

theorem cmds_evacuated (s : State) (d : Nat) (moved : Bool) : (evacuated s d moved).cmds = s.cmds := by
  unfold evacuated
  split
  · exact cmds_holdLaunches s d
  · rw [cmds_endEvacuation, cmds_holdLaunches]

theorem mgmt_evacuated (s : State) (d : Nat) (moved : Bool) : (evacuated s d moved).mgmt.csvc = s.mgmt.csvc ∧
    (evacuated s d moved).mgmt.cdrain = s.mgmt.cdrain := by
  unfold evacuated
  split
  · rw [mgmt_holdLaunches]
    exact ⟨rfl, rfl⟩
  · rw [mgmt_endEvacuation, mgmt_holdLaunches]
    exact ⟨rfl, rfl⟩

theorem drainCComplete_eq {moved : Bool} (hj : s.mgmt.job = .drain d moved)
    (he : moved = true ∨ drainEvacuated (holdLaunches s d) d = true) : exec .drainCComplete s =
      if s.cmds.any fun x => dieOf x.core = d then .next (evacuated s d moved) else .next (finishDrain (evacuated s d moved) d) := by
  rw [← cmds_evacuated s d moved]
  show execDrainCComplete s = _
  rw [execDrainCComplete, hj]
  dsimp only
  rw [if_neg (by rcases he with h | h <;> simp [h])]
  rfl

theorem drainCComplete_ends {moved : Bool} (hj : s.mgmt.job = .drain d moved)
    (he : moved = true ∨ drainEvacuated (holdLaunches s d) d = true) (hc : ∀ x ∈ s.cmds, dieOf x.core ≠ d) :
    Gives .drainCComplete s fun t => (t.mgmt.dieStatus = 0 ∧ t.mgmt.job = .none) ∧ t.mgmt.csvc = s.mgmt.csvc &&& ~~~dieBit d ∧
      t.mgmt.cdrain = s.mgmt.cdrain &&& ~~~dieBit d ∧ (station t (2 * d)).passThrough = true := by
  refine ⟨_, (drainCComplete_eq hj he).trans (if_neg (by simpa using hc)), ?_⟩
  obtain ⟨hst, hjob, hcs, hcd, hp⟩ := finishDrain_ends (evacuated s d moved) d
  obtain ⟨hcs', hcd'⟩ := mgmt_evacuated s d moved
  exact ⟨⟨hst, hjob⟩, hcs' ▸ hcs, hcd' ▸ hcd, hp⟩

theorem drainCComplete_waits (hj : s.mgmt.job = .drain d false) (he : drainEvacuated (holdLaunches s d) d = true)
    (hc : ∃ x ∈ s.cmds, dieOf x.core = d) : exec .drainCComplete s = .next (endEvacuation (holdLaunches s d) d) :=
  (drainCComplete_eq hj (.inr he)).trans (if_pos (by simpa using hc))

/-- R28. The self-test of a die that has been reset ends. -/
theorem resetCComplete_ends (hj : s.mgmt.job = .reset d) : Gives .resetCComplete s fun t =>
    (t.mgmt.dieStatus = (if s.arg.ok then 0 else 6) ∧ t.mgmt.job = .none) ∧
      t.mgmt.resetDone = if s.arg.ok then s.mgmt.resetDone ||| dieBit d else s.mgmt.resetDone := by
  have hd : (testFindings s fun c => dieOf c = d).mgmt.resetDone = s.mgmt.resetDone :=
    Mgmt.of_unlogged (mgmt_of_outline (outline_testFindings ..)) Mgmt.resetDone
  have hx : exec .resetCComplete s = execResetCComplete s := rfl
  rw [execResetCComplete, hj] at hx
  dsimp only at hx
  cases hok : s.arg.ok
  · rw [hok, if_neg (by decide)] at hx
    exact ⟨_, hx, ⟨rfl, rfl⟩, hd⟩
  · rw [hok, if_pos rfl] at hx
    exact ⟨_, hx, ⟨rfl, rfl⟩, congrArg (· ||| dieBit d) hd⟩

/-! ### A die returns (R29) -/

theorem mgmt_resumeLaunch (s : State) (n : Nat) (l : Launch) : (resumeLaunch s n l).mgmt = s.mgmt :=
  foldl_keeps State.mgmt (fun s (p : Nat × Nat) => modStation_mgmt s p.1 _) _ s

theorem passThrough_resumeLaunch (s : State) (n : Nat) (l : Launch) (j : Nat) :
    (station (resumeLaunch s n l) j).passThrough = (station s j).passThrough :=
  foldl_keeps (fun s => (station s j).passThrough) (fun s p => by
    rw [setFlag, station_modStation]
    split
    · next h => rw [h]
    · rfl) _ s

theorem launches_resumeLaunch (s : State) (n : Nat) (l : Launch) : (resumeLaunch s n l).launches = s.launches.map fun x =>
    if x.id = l.id then { x with heldFor := x.heldFor.filter (· ≠ n), broken := x.broken.filter fun b => b.1 ≠ n } else x :=
  congrArg (List.map _) (foldl_keeps State.launches (fun s (p : Nat × Nat) => modStation_launches s p.1 _) _ s)

/-- Every launch that is still held for a die is one of those that are still to go on. -/
theorem heldFor_resumed (n : Nat) (ls : List Launch) {s : State} (h : ∀ l ∈ s.launches, n ∈ l.heldFor → l.id ∈ ls.map (·.id)) :
    ∀ l ∈ (ls.foldl (fun s l => resumeLaunch s n l) s).launches, n ∉ l.heldFor := by
  induction ls generalizing s with
  | nil => exact fun l hl hn => List.not_mem_nil (h l hl hn)
  | cons x ls ih =>
    refine ih fun l hl hn => ?_
    rw [launches_resumeLaunch] at hl
    obtain ⟨y, hy, rfl⟩ := List.mem_map.mp hl
    by_cases hx : y.id = x.id
    · rw [if_pos hx] at hn
      simp at hn
    · rw [if_neg hx] at hn ⊢
      exact (List.mem_cons.mp (h y hy hn)).resolve_left hx

theorem returnCComplete_ends (hj : s.mgmt.job = .ret d) : Gives .returnCComplete s fun t =>
    (t.mgmt.dieStatus = 0 ∧ t.mgmt.job = .none) ∧ t.mgmt.csvc = s.mgmt.csvc ||| dieBit d ∧
      (station t (2 * d)).passThrough = false ∧ ∀ l ∈ t.launches, d ∉ l.heldFor := by
  have hx : exec .returnCComplete s = execReturnCComplete s := rfl
  rw [execReturnCComplete, hj] at hx
  dsimp only at hx
  generalize hs2 : modDisp _ d _ = s2 at hx
  have hm : s2.mgmt = { s.mgmt with csvc := s.mgmt.csvc ||| dieBit d, dieStatus := 0, job := .none } := by rw [← hs2]; rfl
  have hp : (station s2 (2 * d)).passThrough = false := by
    rw [← hs2]
    exact congrArg Station.passThrough ((station_modStation (lockCopies s [d]) (2 * d) (2 * d) fun t =>
      { t with passThrough := false, almanac := [], flags := [] }).trans (if_pos rfl))
  generalize hls : s2.launches.filter (fun l => l.heldFor.contains d) = ls at hx
  have hm3 : (ls.foldl (fun s l => resumeLaunch s d l) s2).mgmt = s2.mgmt := foldl_keeps State.mgmt (fun s l => mgmt_resumeLaunch s d l) ls s2
  have hp3 := foldl_keeps (fun s => (station s (2 * d)).passThrough) (fun s l => passThrough_resumeLaunch s d l (2 * d)) ls s2
  have hh3 := heldFor_resumed d ls (s := s2) fun l hl hn => by
    rw [← hls]
    exact List.mem_map_of_mem (List.mem_filter.mpr ⟨hl, by simpa using hn⟩)
  obtain ⟨o, st, sg, r, hr⟩ := refreshReason_frame (ls.foldl (fun s l => resumeLaunch s d l) s2)
  rw [hr, hm3, hm] at hx
  exact ⟨_, hx, ⟨rfl, rfl⟩, rfl, hp3.trans hp, hh3⟩

/-! ### Memory dies (R30, R31) -/

theorem retireMComplete_waits (hj : s.mgmt.job = .retireM d) (hr : requestsLeft s d = true) : exec .retireMComplete s = .next s := by
  show execRetireMComplete s = _
  rw [execRetireMComplete, hj]
  exact if_pos hr

theorem retireMComplete_ends (hj : s.mgmt.job = .retireM d) (hr : requestsLeft s d = false) : Gives .retireMComplete s fun t =>
    (t.mgmt.dieStatus = 0 ∧ t.mgmt.job = .none) ∧ t.mgmt.msvc = s.mgmt.msvc &&& ~~~dieBit d ∧
      t.mgmt.retired = s.mgmt.retired ||| dieBit d ∧ (station t (2 * d + 1)).passThrough = true := by
  have hm := mgmt_endCallsAt (modStation s (2 * d + 1) fun t => { t with passThrough := true }) (2 * d + 1)
  have hp := passThrough_endCallsAt (modStation s (2 * d + 1) fun t => { t with passThrough := true }) (2 * d + 1) (2 * d + 1)
  rw [station_modStation, if_pos rfl] at hp
  have hx : exec .retireMComplete s = execRetireMComplete s := rfl
  rw [execRetireMComplete, hj] at hx
  dsimp only at hx
  rw [hr, if_neg (by decide)] at hx
  generalize endCallsAt _ _ = s1 at hm hp hx
  obtain ⟨o, st, sg, r, hrr⟩ := refreshReason_frame (endDieCmd { s1 with mgmt := { s1.mgmt with
    msvc := s1.mgmt.msvc &&& ~~~(1#8 <<< d), retired := s1.mgmt.retired ||| (1#8 <<< d) } } 0)
  rw [hrr] at hx
  exact ⟨_, hx, ⟨rfl, rfl⟩, congrArg (· &&& _) (Mgmt.of_unlogged hm Mgmt.msvc),
    congrArg (· ||| _) (Mgmt.of_unlogged hm Mgmt.retired), hp⟩

theorem passThrough_memoryStationBack (s : State) (d : Nat) :
    (station (memoryStationBack s d) (2 * d + 1)).passThrough = false := by
  rw [memoryStationBack, station_modStation, if_pos rfl]

theorem returnMComplete_ends (hj : s.mgmt.job = .returnM d) : Gives .returnMComplete s fun t =>
    (t.mgmt.dieStatus = (if s.arg.ok then 0 else 6) ∧ t.mgmt.job = .none) ∧
      (s.arg.ok = true → t.mgmt.msvc = s.mgmt.msvc ||| dieBit d ∧ t.mgmt.retired = s.mgmt.retired &&& ~~~dieBit d ∧
        (station t (2 * d + 1)).passThrough = false) := by
  have hx : exec .returnMComplete s = execReturnMComplete s := rfl
  rw [execReturnMComplete, hj] at hx
  dsimp only at hx
  cases hok : s.arg.ok
  · rw [hok, if_pos (by decide)] at hx
    exact ⟨_, hx, ⟨rfl, rfl⟩, fun h => absurd h (by decide)⟩
  · rw [hok, if_neg (by decide)] at hx
    obtain ⟨o, st, sg, r, hrr⟩ := refreshReason_frame (endDieCmd { memoryStationBack s d with mgmt := { (memoryStationBack s d).mgmt with
      msvc := (memoryStationBack s d).mgmt.msvc ||| (1#8 <<< d),
      retired := (memoryStationBack s d).mgmt.retired &&& ~~~(1#8 <<< d) } } 0)
    rw [hrr] at hx
    exact ⟨_, hx, ⟨rfl, rfl⟩, fun _ => ⟨rfl, rfl, passThrough_memoryStationBack s d⟩⟩

/-- R31. The stack that a reset clears, with the cache banks found failing. -/
theorem clearStack_parts (s : State) (n : Nat) (failing : List Nat) :
    (clearStack s n failing).mgmt.unlogged =
        ({ s.mgmt with microcode := Map.set s.mgmt.microcode (8 + n) s.mgmt.image } : Mgmt).unlogged ∧
      (clearStack s n failing).mem = zeroRange s.mem (dpaOf n 0) Config.dieSpan := by
  refine ⟨mgmt_of_outline (outline_foldl (fun s b => outline_cacheFails s n b) _ _), ?_⟩
  exact congrArg Prod.fst (memories_foldl (fun s b => memories_cacheFails s n b) _ _)

theorem readByte_clearStack (s : State) (n : Nat) (failing : List Nat) :
    (∀ x, x < Config.dieSpan → readByte (clearStack s n failing).mem (dpaOf n x) = 0#8) ∧
      ∀ x, dpaDie x ≠ n → readByte (clearStack s n failing).mem x = readByte s.mem x := by
  rw [(clearStack_parts s n failing).2]
  refine ⟨fun x hx => ?_, fun x hx => ?_⟩
  · rw [readByte_zeroRange, if_pos (by simp only [dpaOf]; omega)]
  · rw [readByte_zeroRange, if_neg ?_]
    rintro ⟨hlo, hhi⟩
    refine hx (Nat.div_eq_of_lt_le ?_ ?_)
    · simpa [dpaOf] using hlo
    · rw [Nat.succ_mul]
      simpa [dpaOf] using hhi

theorem resetMComplete_ends (hj : s.mgmt.job = .resetM d) : Gives .resetMComplete s fun t =>
    (t.mgmt.dieStatus = (if s.arg.ok then 0 else 6) ∧ t.mgmt.job = .none) ∧
      t.mgmt.msvc = (if s.arg.ok then s.mgmt.msvc ||| dieBit d else s.mgmt.msvc &&& ~~~dieBit d) ∧
      t.mgmt.untrained = (if s.arg.ok then s.mgmt.untrained &&& ~~~dieBit d else s.mgmt.untrained ||| dieBit d) ∧
      (s.arg.ok = true → (station t (2 * d + 1)).passThrough = false) ∧
      (∀ x, x < Config.dieSpan → readByte t.mem (dpaOf d x) = 0#8) ∧ ∀ x, dpaDie x ≠ d → readByte t.mem x = readByte s.mem x := by
  obtain ⟨hm, -⟩ := clearStack_parts s d s.arg.nums
  obtain ⟨hin, hout⟩ := readByte_clearStack s d s.arg.nums
  have hsvc : (clearStack s d s.arg.nums).mgmt.msvc = s.mgmt.msvc := Mgmt.of_unlogged hm Mgmt.msvc
  have hut : (clearStack s d s.arg.nums).mgmt.untrained = s.mgmt.untrained := Mgmt.of_unlogged hm Mgmt.untrained
  have hx : exec .resetMComplete s = execResetMComplete s := rfl
  rw [execResetMComplete, hj] at hx
  dsimp only at hx
  cases hok : s.arg.ok
  · rw [hok, if_neg (by decide)] at hx
    exact ⟨_, hx, ⟨rfl, rfl⟩, congrArg (· &&& _) hsvc, congrArg (· ||| _) hut, fun h => absurd h (by decide), hin, hout⟩
  · rw [hok, if_pos rfl] at hx
    exact ⟨_, hx, ⟨rfl, rfl⟩, congrArg (· ||| _) hsvc, congrArg (· &&& _) hut, fun _ => passThrough_memoryStationBack _ d, hin, hout⟩

end

/-- Settles O47: each command goes through `dieCommand`, which ignores, refuses or begins it; each end is its own lemma. -/
theorem dieService : Obligations.DieService := by
  intro s g n b up refused begun over_
  have hdrain : exec .drainC s = .next (dieCommand s 1 n _ _) := congrArg Host.Outcome.next (drainC.eq_1 s n)
  have hreset : exec .resetC s = .next (dieCommand s 2 n _ _) := congrArg Host.Outcome.next (resetC.eq_1 s n)
  have hreturn : exec .returnC s = .next (dieCommand s 3 n _ _) := congrArg Host.Outcome.next (returnC.eq_1 s n)
  have hretire : exec .retireM s = .next (dieCommand s 4 n _ _) := congrArg Host.Outcome.next (retireM.eq_1 s n)
  have hback : exec .returnM s = .next (dieCommand s 5 n _ _) := congrArg Host.Outcome.next (returnM.eq_1 s n)
  have hanew : exec .resetM s = .next (dieCommand s 6 n _ _) := congrArg Host.Outcome.next (resetM.eq_1 s n)
  refine ⟨fun h i hi => ?_, fun h => ⟨fun hr => ?_, fun hu hb => ?_, fun hu hs hl => ?_, fun hr => ?_, fun hu hs => ?_, fun hr => ?_,
    fun hu hs hd => ?_, fun hr => ?_, fun hu hs h7 => ?_, fun hu hs h7 hh => ?_, fun hu hs h7 hh => ?_, fun hr => ?_, fun hu hs => ?_,
    fun hr => ?_, fun hp => ?_⟩, fun d _ => ⟨fun moved => drainCComplete_ends, drainCComplete_waits, resetCComplete_ends,
    returnCComplete_ends, retireMComplete_waits, retireMComplete_ends, returnMComplete_ends, resetMComplete_ends⟩⟩
  · simp only [List.mem_cons, List.not_mem_nil, or_false] at hi
    rcases hi with rfl | rfl | rfl | rfl | rfl | rfl
    · exact exec_dieIgnored hdrain h
    · exact exec_dieIgnored hreset h
    · exact exec_dieIgnored hreturn h
    · exact exec_dieIgnored hretire h
    · exact exec_dieIgnored hback h
    · exact exec_dieIgnored hanew h
  · exact exec_dieRefused hdrain h (if_pos (by simpa [up, g] using hr)) (by decide)
  · refine exec_dieRefused hdrain h ((if_neg ?_).trans (if_pos hb)) (by decide)
    have hn : n < 8 := Nat.mod_lt _ (by decide)
    have hset : s.mgmt.csvc.getLsbD n = true := by
      rw [show s.mgmt.csvc = 1#8 <<< n from hb]
      simp [hn]
    simp [show underway s = true from hu, hset]
  · obtain ⟨t, ht, hm⟩ := drainC_begins h hu hs hl
    refine ⟨t, ht, ?_⟩
    show (_ ∧ _ ∧ _ ∧ _) ∧ _ ∧ _
    rw [hm]
    exact ⟨⟨rfl, rfl, rfl, rfl⟩, rfl, rfl⟩
  · exact exec_dieRefused hreset h (if_pos (by simpa [up, g] using hr)) (by decide)
  · refine ⟨resetC s n, rfl, ?_⟩
    show (_ ∧ _ ∧ _ ∧ _) ∧ _ ∧ _
    rw [mgmt_resetC h hu hs]
    exact ⟨⟨rfl, rfl, rfl, rfl⟩, rfl, fun c hc hh => coreOf_resetC h hu hs hc hh⟩
  · exact exec_dieRefused hreturn h (if_pos (by simpa [up, g, or_assoc] using hr)) (by decide)
  · exact ⟨_, exec_dieBegun hreturn h (if_neg (by simpa [up, g] using ⟨⟨hu, hs⟩, hd⟩)), rfl, rfl, rfl, rfl⟩
  · exact exec_dieRefused hretire h (if_pos (by simpa [up, g] using hr)) (by decide)
  · exact exec_dieRefused hretire h ((if_neg (by simpa [up, g] using ⟨hu, hs⟩)).trans (if_pos h7)) (by decide)
  · exact exec_dieRefused hretire h ((if_neg (by simpa [up, g] using ⟨hu, hs⟩)).trans ((if_neg h7).trans (if_pos hh))) (by decide)
  · exact ⟨_, exec_dieBegun hretire h ((if_neg (by simpa [up, g] using ⟨hu, hs⟩)).trans ((if_neg h7).trans (if_neg (by simp [hh])))),
      rfl, rfl, rfl, rfl⟩
  · exact exec_dieRefused hback h (if_pos (by simpa [up, g] using hr)) (by decide)
  · exact ⟨_, exec_dieBegun hback h (if_neg (by simpa [up, g] using ⟨hu, hs⟩)), rfl, rfl, rfl, rfl⟩
  · exact exec_dieRefused hanew h (if_pos hr) (by decide)
  · exact ⟨_, exec_dieBegun hanew h (if_neg (by simpa [g] using hp)), rfl, rfl, rfl, rfl⟩

end Sys2Proof.Machine

namespace Sys2Proof.Machine

/-! ## Register writes (R9, R20) -/

/-- A field of the low 32 bits is that of the number. -/
theorem field_mod {lo n : Nat} (x : Nat) (h : lo + n ≤ 32) : field (x % 2 ^ 32) lo n = field x lo n := by
  refine Nat.eq_of_testBit_eq fun i => ?_
  simp only [field, Nat.testBit_mod_two_pow, Nat.testBit_div_two_pow]
  by_cases hi : i < n
  · simp [hi, show i + lo < 32 by omega]
  · simp [hi]

theorem testBit_low {i : Nat} (x : Nat) (h : i < 32) : (x % 2 ^ 32).testBit i = x.testBit i := by
  rw [Nat.testBit_mod_two_pow]
  simp [h]

theorem ofNat_low {n : Nat} (x : Nat) (h : n ≤ 32) : BitVec.ofNat n (x % 2 ^ 32) = BitVec.ofNat n x := by
  refine BitVec.eq_of_toNat_eq ?_
  rw [BitVec.toNat_ofNat, BitVec.toNat_ofNat, Nat.mod_mod_of_dvd _ (Nat.pow_dvd_pow 2 h)]

section
variable {s : State} {w : Window} {off x : Nat}

/-- A 4-byte write of a register of 4 bytes. -/
theorem writeHalf_whole (v : Nat) (h : register s w off = some (4, x)) : writeHalf s w off v = writeWindow s w off v := by
  simp only [writeHalf, h]

section
variable (hr : s.mgmt.resetAsserted = false) (ho : s.arg.off = off) (h4 : off % 4 = 0)
include hr ho h4

theorem exec_registerWrite_four (hw : s.arg.wide ≠ 1#1024) (h : register s s.arg.window off = some (4, x)) :
    exec .registerWrite s = .next (writeWindow s s.arg.window off (s.arg.value.toNat % 2 ^ 32)) := by
  have ha : s.arg.off / 4 * 4 = off := by omega
  show execRegisterWrite s = _
  simp only [execRegisterWrite, ha, hr, hw, Bool.false_eq_true, if_false, writeHalf_whole _ h]

theorem exec_registerWrite_eight (hw : s.arg.wide = 1#1024) (h : register s s.arg.window off = some (8, x)) :
    exec .registerWrite s = .next (writeWindow s s.arg.window off s.arg.value.toNat) := by
  have ha : s.arg.off / 4 * 4 = off := by omega
  show execRegisterWrite s = _
  simp only [execRegisterWrite, ha, hr, hw, h, Bool.false_eq_true, if_false, if_true]

end

/-! ### The management window -/

/-- A 4-byte write of a register of the management window. -/
theorem exec_mgmtWrite (hr : s.mgmt.resetAsserted = false) (hwin : s.arg.window = .management) (hw : s.arg.wide ≠ 1#1024)
    (ho : s.arg.off = off) (h4 : off % 4 = 0) (h : mgmtRegister s off = some (4, x)) :
    exec .registerWrite s = .next (writeMgmt s off (s.arg.value.toNat % 2 ^ 32)) := by
  rw [exec_registerWrite_four hr ho h4 hw (by rw [hwin]; exact h), hwin]
  rfl

/-- MB_DATA is the group of registers from 0x11000 on. -/
theorem mgmtRegister_mbData (s : State) {n : Nat} (hn : n < 1024) :
    mgmtRegister s (0x11000 + 4 * n) = some (4, ofBytes (readBytes s.mgmt.mbData (4 * n) 4)) := by
  have hnot {k : Nat} (hk : k < 0x11000) : 0x11000 + 4 * n ≠ k := by omega
  have hgroup {base size m : Nat} (h : base + size * m ≤ 0x11000) : inGroup (0x11000 + 4 * n) base size m = false := by
    simp only [inGroup, Bool.and_eq_false_iff, decide_eq_false_iff_not]
    left; right; omega
  have hin : inGroup (0x11000 + 4 * n) 0x11000 4 1024 = true := by
    simp only [inGroup, Bool.and_eq_true, decide_eq_true_eq]
    omega
  simp [mgmtRegister, hnot, hgroup, hin]

theorem writeMgmt_mbData (s : State) {n : Nat} (v : Nat) (hn : n < 1024) :
    writeMgmt s (0x11000 + 4 * n) v = modMgmt s fun m => { m with mbData := writeBytes m.mbData (4 * n) (bytesOf v 4) } := by
  have hnot {k : Nat} (hk : k < 0x11000) : 0x11000 + 4 * n ≠ k := by omega
  have hgroup {base size m : Nat} (h : base + size * m ≤ 0x11000) : inGroup (0x11000 + 4 * n) base size m = false := by
    simp only [inGroup, Bool.and_eq_false_iff, decide_eq_false_iff_not]
    left; right; omega
  have hin : inGroup (0x11000 + 4 * n) 0x11000 4 1024 = true := by
    simp only [inGroup, Bool.and_eq_true, decide_eq_true_eq]
    omega
  simp [writeMgmt, hnot, hgroup, hin]

/-- R25, R32. GO of DIE_CMD begins its command. -/
theorem writeDieCmd_go {v n : Nat} {f : State → Nat → State} (hs : s.mgmt.dieStatus ≠ 1) (hgo : v.testBit 31 = true)
    (hf : (n, f) ∈ [(1, drainC), (2, resetC), (3, returnC), (4, retireM), (5, returnM), (6, resetM)]) (hn : field v 24 4 = n) :
    writeDieCmd s v = f { s with mgmt := { s.mgmt with dieCmd := n, dieIdx := field v 16 3 } } (field v 16 3) := by
  rw [writeDieCmd, if_neg hs, hgo, hn]
  simp only [List.mem_cons, Prod.mk.injEq, List.not_mem_nil, or_false] at hf
  rcases hf with ⟨rfl, rfl⟩ | ⟨rfl, rfl⟩ | ⟨rfl, rfl⟩ | ⟨rfl, rfl⟩ | ⟨rfl, rfl⟩ | ⟨rfl, rfl⟩ <;> rfl

/-- R207. GO of TLB_INV_CTL begins its command. -/
theorem writeTlbCtl_go {v n : Nat} {f : State → State} (hs : s.mgmt.tlbBusy = false) (hgo : v.testBit 31 = true)
    (hf : (n, f) ∈ [(0, invalidatePage), (1, invalidateAsid), (2, invalidateAll), (3, releaseForwarding)]) (hn : field v 16 2 = n) :
    writeTlbCtl s v = f { s with mgmt := { s.mgmt with tlbScope := n, tlbAsid := BitVec.ofNat 16 v } } := by
  rw [writeTlbCtl, hs, hgo, hn]
  simp only [List.mem_cons, Prod.mk.injEq, List.not_mem_nil, or_false] at hf
  rcases hf with ⟨rfl, rfl⟩ | ⟨rfl, rfl⟩ | ⟨rfl, rfl⟩ | ⟨rfl, rfl⟩ <;> rfl

/-- R120. GO of MB_CMD starts its command. -/
theorem writeMbCmd_go {v n : Nat} {j : Instr} (hs : s.mgmt.mbStatus ≠ 1) (hgo : v.testBit 31 = true) (hj : mailCommand n = some j)
    (hn : field v 16 8 = n) : writeMbCmd s v = enqueue { s with mgmt := { s.mgmt with
      mbOpcode := n, mbLen := field v 0 13, mbStatus := 1, mailing := .go n (field v 0 13) } } j {} := by
  rw [writeMbCmd, hgo, hn, hj]
  simp [hs, modMgmt]

end

/-! ### The launch window (R104) -/

section
variable {s : State} {off : Nat}

/-- The address registers of a queue have 8 bytes; they are kept while the queue is enabled. -/
theorem launchRegister_address (hoff : off < 4096) (hr : off % 64 = 0x0 ∨ off % 64 = 0x8 ∨ off % 64 = 0x10) :
    ∃ x, launchRegister s off = some (8, x) := by
  have h63 : ¬off / 64 > 63 := by omega
  rcases hr with h | h | h <;> simp [launchRegister, h63, h]

theorem launchRegister_ctl (hoff : off < 4096) (hr : off % 64 = 0x18) :
    launchRegister s off = some (4, lqCtlWord (queueOf s (off / 64))) := by
  have h63 : ¬off / 64 > 63 := by omega
  simp [launchRegister, h63, hr]

theorem writeLaunch_address (v : Nat) (hoff : off < 4096) (hv : v < 2 ^ 64)
    (hr : off % 64 = 0x0 ∨ off % 64 = 0x8 ∨ off % 64 = 0x10) (hen : (queueOf s (off / 64)).en = false) :
    writeLaunch s off v = modQueue s (off / 64) fun q =>
      if off % 64 = 0x0 then { q with base := BitVec.ofNat 64 (v % 2 ^ 52 + v / 2 ^ 63 * 2 ^ 63) }
      else if off % 64 = 0x8 then { q with paddr := BitVec.ofNat 64 (v % 2 ^ 52) }
      else { q with caddr := BitVec.ofNat 64 (v % 2 ^ 52) } := by
  have h63 : ¬off / 64 > 63 := by omega
  have hloc : field v 63 1 = v / 2 ^ 63 := by
    rw [field]
    omega
  rcases hr with h | h | h <;> simp [writeLaunch, h63, h, hen, hloc]

theorem writeLaunch_enabled (v : Nat) (hr : off % 64 ≠ 0x18) (hen : (queueOf s (off / 64)).en = true) :
    writeLaunch s off v = s := by
  simp [writeLaunch, hr, hen]

/-- R104. LQ_CTL with EN = 1 written to a queue that is not enabled. -/
theorem writeLaunch_ctl (v : Nat) (hoff : off < 4096) (hr : off % 64 = 0x18) (hen : (queueOf s (off / 64)).en = false)
    (hgo : v.testBit 31 = true) :
    writeLaunch s off v = enableQueue (modQueue s (off / 64) fun q =>
      { q with ien := v.testBit 10, pcap := BitVec.ofNat 2 (v / 2 ^ 8), size := BitVec.ofNat 5 v, en := false }) (off / 64)
      (BitVec.ofNat 64 v) := by
  have h63 : ¬off / 64 > 63 := by omega
  have hpcap : BitVec.ofNat 2 (field v 8 2) = BitVec.ofNat 2 (v / 2 ^ 8) := by
    refine BitVec.eq_of_toNat_eq ?_
    simp [field]
  have hsize : BitVec.ofNat 5 (field v 0 5) = BitVec.ofNat 5 v := by
    refine BitVec.eq_of_toNat_eq ?_
    simp [field]
  simp [writeLaunch, h63, hr, writeLqCtl, hgo, hpcap, hsize, modQueue, hen]

end

/-! ### The writes of the host, register by register -/

section
variable {s : State}

section
variable (hr : s.mgmt.resetAsserted = false) (hwin : s.arg.window = .management) (hw : s.arg.wide ≠ 1#1024)
include hr hwin hw

theorem registerWrite_dieCmd_busy (ho : s.arg.off = 0xC) (hs : s.mgmt.dieStatus = 1) : exec .registerWrite s = .next s := by
  rw [exec_mgmtWrite hr hwin hw ho rfl rfl]
  exact congrArg _ (if_pos hs)

theorem registerWrite_dieCmd_go (ho : s.arg.off = 0xC) (hs : s.mgmt.dieStatus ≠ 1) (hgo : s.arg.value.toNat.testBit 31 = true)
    {n : Nat} {f : State → Nat → State}
    (hf : (n, f) ∈ [(1, drainC), (2, resetC), (3, returnC), (4, retireM), (5, returnM), (6, resetM)])
    (hn : s.arg.value.toNat / 2 ^ 24 % 16 = n) :
    exec .registerWrite s = .next (f { s with mgmt := { s.mgmt with dieCmd := n, dieIdx := s.arg.value.toNat / 2 ^ 16 % 8 } }
      (s.arg.value.toNat / 2 ^ 16 % 8)) := by
  rw [exec_mgmtWrite hr hwin hw ho rfl rfl]
  refine congrArg _ ((writeDieCmd_go hs (by rwa [testBit_low _ (by decide)]) hf ?_).trans ?_)
  · rwa [field_mod _ (by decide)]
  · rw [field_mod _ (by decide)]
    rfl

theorem registerWrite_sgtCtl (ho : s.arg.off = 0x20) (hv : s.arg.value.toNat % 2 ^ 32 = 9) :
    exec .registerWrite s =
      .next (fireSighting { s with mgmt := { s.mgmt with mchkEn := true, cmpEn := false, armed := false } }) := by
  rw [exec_mgmtWrite hr hwin hw ho rfl rfl, hv]
  refine congrArg _ ?_
  show writeSgtCtl s 9 = _
  simp [writeSgtCtl, modMgmt, Nat.testBit]

theorem registerWrite_tlbCtl_busy (ho : s.arg.off = 0x5008) (hs : s.mgmt.tlbBusy = true) : exec .registerWrite s = .next s := by
  rw [exec_mgmtWrite hr hwin hw ho rfl rfl]
  exact congrArg _ (if_pos hs)

theorem registerWrite_tlbCtl_go (ho : s.arg.off = 0x5008) (hs : s.mgmt.tlbBusy = false) (hgo : s.arg.value.toNat.testBit 31 = true)
    {n : Nat} {f : State → State}
    (hf : (n, f) ∈ [(0, invalidatePage), (1, invalidateAsid), (2, invalidateAll), (3, releaseForwarding)])
    (hn : s.arg.value.toNat / 2 ^ 16 % 4 = n) :
    exec .registerWrite s =
      .next (f { s with mgmt := { s.mgmt with tlbScope := n, tlbAsid := BitVec.ofNat 16 s.arg.value.toNat } }) := by
  rw [exec_mgmtWrite hr hwin hw ho rfl rfl]
  refine congrArg _ ((writeTlbCtl_go hs (by rwa [testBit_low _ (by decide)]) hf ?_).trans ?_)
  · rwa [field_mod _ (by decide)]
  · rw [ofNat_low _ (by decide)]

theorem registerWrite_mbCmd_busy (ho : s.arg.off = 0x10000) (hs : s.mgmt.mbStatus = 1) :
    exec .registerWrite s = .next { s with mgmt := { s.mgmt with
      mbOpcode := s.arg.value.toNat / 2 ^ 16 % 256, mbLen := s.arg.value.toNat % 2 ^ 13 } } := by
  rw [exec_mgmtWrite hr hwin hw ho rfl rfl]
  refine congrArg _ ?_
  show writeMbCmd s _ = _
  rw [writeMbCmd, field_mod _ (by decide), field_mod _ (by decide)]
  simp [hs, modMgmt, field]

theorem registerWrite_mbCmd_go (ho : s.arg.off = 0x10000) (hs : s.mgmt.mbStatus ≠ 1) (hgo : s.arg.value.toNat.testBit 31 = true)
    {n : Nat} {j : Instr} (hj : mailCommand n = some j) (hn : s.arg.value.toNat / 2 ^ 16 % 256 = n) :
    exec .registerWrite s = .next (enqueue { s with mgmt := { s.mgmt with
      mbOpcode := n, mbLen := s.arg.value.toNat % 2 ^ 13, mbStatus := 1, mailing := .go n (s.arg.value.toNat % 2 ^ 13) } } j {}) := by
  rw [exec_mgmtWrite hr hwin hw ho rfl rfl]
  refine congrArg _ ((writeMbCmd_go hs (by rwa [testBit_low _ (by decide)]) hj ?_).trans ?_)
  · rwa [field_mod _ (by decide)]
  · rw [field_mod _ (by decide), field, Nat.pow_zero, Nat.div_one]

theorem registerWrite_eqTmo (ho : s.arg.off = 0x4020) :
    exec .registerWrite s = .next { s with eq := { s.eq with tmo := s.arg.value.setWidth 32 } } := by
  rw [exec_mgmtWrite hr hwin hw ho rfl rfl]
  have htmo : BitVec.ofNat 32 (s.arg.value.toNat % 2 ^ 32) = s.arg.value.setWidth 32 := by
    rw [ofNat_low _ (by decide)]
    exact BitVec.eq_of_toNat_eq (by simp)
  refine congrArg _ ?_
  show { s with eq := { s.eq with tmo := BitVec.ofNat 32 (s.arg.value.toNat % 2 ^ 32) } } = _
  rw [htmo]

theorem registerWrite_mbData {n : Nat} (hn : n < 1024) (ho : s.arg.off = 0x11000 + 4 * n) :
    Gives .registerWrite s fun t => t = { s with mgmt := { s.mgmt with mbData := t.mgmt.mbData } } ∧
      ∀ x, readByte t.mgmt.mbData x = if 4 * n ≤ x ∧ x < 4 * n + 4 then BitVec.ofNat 8 (s.arg.value.toNat / 2 ^ (8 * (x - 4 * n)))
        else readByte s.mgmt.mbData x := by
  refine ⟨_, exec_mgmtWrite hr hwin hw ho (by omega) (mgmtRegister_mbData s hn), ?_⟩
  rw [writeMgmt_mbData s _ hn]
  refine ⟨rfl, fun x => ?_⟩
  show readByte (writeBytes s.mgmt.mbData (4 * n) (bytesOf (s.arg.value.toNat % 2 ^ 32) 4)) x = _
  rw [readByte_writeBytes, length_bytesOf]
  split
  · rw [getD_bytesOf _ (by omega)]
    refine BitVec.eq_of_toNat_eq ?_
    rw [BitVec.toNat_ofNat, BitVec.toNat_ofNat]
    exact field_mod s.arg.value.toNat (lo := 8 * (x - 4 * n)) (n := 8) (by omega)
  · rfl

end

theorem registerWrite_sgtTime (hr : s.mgmt.resetAsserted = false) (hwin : s.arg.window = .management) (hw : s.arg.wide = 1#1024)
    (ho : s.arg.off = 0x28) : exec .registerWrite s = .next { s with mgmt := { s.mgmt with sgtTime := s.arg.value } } := by
  rw [exec_registerWrite_eight hr ho rfl hw (by rw [hwin]; rfl), hwin]
  refine congrArg _ ?_
  show { s with mgmt := { s.mgmt with sgtTime := BitVec.ofNat 64 s.arg.value.toNat } } = _
  rw [BitVec.ofNat_toNat, BitVec.setWidth_eq]

section
variable (hr : s.mgmt.resetAsserted = false) (hwin : s.arg.window = .launch) (hoff : s.arg.off < 4096)
include hr hwin hoff

theorem exec_launchAddress (hw : s.arg.wide = 1#1024)
    (hreg : s.arg.off % 64 = 0x0 ∨ s.arg.off % 64 = 0x8 ∨ s.arg.off % 64 = 0x10) :
    exec .registerWrite s = .next (writeLaunch s s.arg.off s.arg.value.toNat) := by
  obtain ⟨x, hx⟩ := launchRegister_address (s := s) hoff hreg
  rw [exec_registerWrite_eight hr rfl (by omega) hw (by rw [hwin]; exact hx), hwin]
  rfl

theorem registerWrite_lqCtl (hreg : s.arg.off % 64 = 0x18) (hw : s.arg.wide ≠ 1#1024) (hen : (queueOf s (s.arg.off / 64)).en = false)
    (hv : s.arg.value.toNat < 2 ^ 32) (hgo : s.arg.value.toNat.testBit 31 = true) :
    exec .registerWrite s = .next (enableQueue (modQueue s (s.arg.off / 64) fun q =>
      { q with ien := s.arg.value.toNat.testBit 10, pcap := BitVec.ofNat 2 (s.arg.value.toNat / 2 ^ 8),
               size := BitVec.ofNat 5 s.arg.value.toNat, en := false }) (s.arg.off / 64) s.arg.value) := by
  rw [exec_registerWrite_four hr rfl (by omega) hw (by rw [hwin]; exact launchRegister_ctl hoff hreg), hwin, Nat.mod_eq_of_lt hv]
  refine congrArg _ ((writeLaunch_ctl _ hoff hreg hen hgo).trans ?_)
  rw [show BitVec.ofNat 64 s.arg.value.toNat = s.arg.value by simp]

end

theorem exec_configRequest (hr : s.mgmt.resetAsserted = false) : exec .configRequest s = .next { s with out := s.out ++ [.answer
    (BitVec.ofNat 512 (readWindow s s.arg.window (s.arg.off / 4 * 4) +
      readWindow s s.arg.window (s.arg.off / 4 * 4 + 4) * 2 ^ 32))] } := by
  show execConfigRequest s = _
  simp only [execConfigRequest, hr, Bool.false_eq_true, if_false]
  rfl

end

end Sys2Proof.Machine

namespace Sys2Proof.Machine

/-! ## Accesses of the host to device memory (R101) -/

@[simp] theorem homes_sendPacket (s : State) (src dst : Nat) (p : Packet) (late : Option (Nat × Piece)) :
    (sendPacket s src dst p late).homes = s.homes := by
  unfold sendPacket
  split <;> rfl

theorem home_modHome (s : State) (d d' : Nat) (f : Home → Home) :
    home (modHome s d f) d' = if d = d' then f (home s d) else home s d' := Map.get_set ..

/-- A store leaves which lines the host holds. -/
theorem held_storeDram (s : State) (a : Nat) (bs : List Byte) (d : Nat) : (home (storeDram s a bs) d).held = (home s d).held := by
  have queued (s : State) (q : Nat × Nat) : (home (enqueue s .pidxNotify { index := q.2 }) d).held = (home s d).held := rfl
  unfold storeDram afterStore
  refine (foldl_keeps (fun s => (home s d).held) queued _ _).trans ((foldl_keeps (fun s => (home s d).held) (fun s w => ?_) _ _).trans ?_)
  · rw [notifyWaiter, home, homes_sendPacket]
    rfl
  · rw [home_modHome]
    split
    · next h => rw [← h]; rfl
    · rfl

theorem mem_storeDram (s : State) (a : Nat) (bs : List Byte) : (storeDram s a bs).mem = writeBytes s.mem a bs :=
  congrArg Prod.fst (memories_afterStore (putDram s a bs) a bs.length)

/-- The state in which an access of the host takes place: the line that the host may keep is marked. -/
def hostMarked (s : State) (x : Nat) : State :=
  if s.arg.index = 1 then
    (s.arg.nums.filter (home s (dpaDie x)).held.contains).foldl sendSnoop (modHome s (dpaDie x) fun y =>
      { y with held := if y.held.contains (x / 128) then y.held else y.held ++ [x / 128] })
  else s

theorem hostMarked_zero {s : State} (x : Nat) (hi : s.arg.index = 0) : hostMarked s x = s := if_neg (by rw [hi]; decide)

theorem held_hostMarked {s : State} (x : Nat) (hi : s.arg.index = 1) (hnums : s.arg.nums = []) :
    x / 128 ∈ (home (hostMarked s x) (dpaDie x)).held := by
  rw [hostMarked, if_pos hi, hnums]
  show x / 128 ∈ (home (modHome s (dpaDie x) _) (dpaDie x)).held
  rw [home_modHome, if_pos rfl]
  dsimp only
  split
  · next h => exact List.contains_iff_mem.mp h
  · exact List.mem_append_right _ (List.mem_singleton_self _)

section
variable {s : State} (hr : s.mgmt.resetAsserted = false) (hs : s.eq.linkShut = false)

section
variable (hh : s.arg.off / 64 * 64 < 8 * Config.reservedBase) {x : Nat} (hx : forwardTo s (hdmAddress (s.arg.off / 64 * 64)) = some x)
include hr hs hh hx

theorem exec_hostMemAccess : exec .hostMemAccess s = .next (
    if !s.arg.ok then storeDram (hostMarked s x) x (bytesOf s.arg.wide.toNat 64)
    else if poisonIn s x 64 then emit (hostMarked s x) .answerPoison
    else emit (hostMarked s x) (.answer (BitVec.ofNat 512 (ofBytes (dramBytes s x 64))))) := by
  have hn : ¬(s.arg.off / 64 * 64 ≥ 8 * Config.reservedBase) := Nat.not_le.mpr hh
  show execHostMemAccess s = _
  simp only [execHostMemAccess, hn, hr, hs, hx, decide_false, Bool.or_self, Bool.false_eq_true, if_false]
  split
  · rfl
  · split <;> rfl

theorem hostMemAccess_holds (hi : s.arg.index = 1) (hnums : s.arg.nums = []) :
    Gives .hostMemAccess s fun t => x / 128 ∈ (home t (dpaDie x)).held := by
  have hheld := held_hostMarked x hi hnums
  refine ⟨_, exec_hostMemAccess hr hs hh hx, ?_⟩
  split
  · rw [held_storeDram]
    exact hheld
  · split <;> exact hheld

theorem hostMemAccess_poison (hi : s.arg.index = 0) (hok : s.arg.ok = true) (hp : poisonIn s x 64 = true) :
    exec .hostMemAccess s = .next { s with out := s.out ++ [.answerPoison] } := by
  rw [exec_hostMemAccess hr hs hh hx, hostMarked_zero x hi, hok, hp]
  rfl

theorem hostMemAccess_reads (hi : s.arg.index = 0) (hok : s.arg.ok = true) (hp : poisonIn s x 64 = false) :
    exec .hostMemAccess s = .next { s with out := s.out ++ [.answer (BitVec.ofNat 512 (ofBytes (dramBytes s x 64)))] } := by
  rw [exec_hostMemAccess hr hs hh hx, hostMarked_zero x hi, hok, hp]
  rfl

theorem hostMemAccess_writes (hi : s.arg.index = 0) (hok : s.arg.ok = false) : Gives .hostMemAccess s fun t => ∀ y,
    readByte t.mem y = if x ≤ y ∧ y < x + 64 then BitVec.ofNat 8 (s.arg.wide.toNat / 2 ^ (8 * (y - x))) else readByte s.mem y := by
  refine ⟨_, exec_hostMemAccess hr hs hh hx, fun y => ?_⟩
  rw [hostMarked_zero x hi, hok]
  show readByte (storeDram s x (bytesOf s.arg.wide.toNat 64)).mem y = _
  rw [mem_storeDram, readByte_writeBytes, length_bytesOf]
  split
  · rw [getD_bytesOf _ (by omega)]
  · rfl

end

end

/-- R101. The host gives a line up. -/
theorem birsp_gives {s : State} (hs : s.eq.linkShut = false) : Gives .birsp s fun t => t.mem = s.mem ∧ ∀ d y,
    (y ∈ (home t d).held ↔ y ∈ (home s d).held ∧ ¬(d = dpaDie (128 * s.arg.index) ∧ y = s.arg.index)) ∧
      (y ∈ (home t d).snoops ↔ y ∈ (home s d).snoops ∧ ¬(d = dpaDie (128 * s.arg.index) ∧ y = s.arg.index)) := by
  have hx : exec .birsp s = execBirsp s := rfl
  rw [execBirsp, hs, if_neg (by decide)] at hx
  refine ⟨_, hx, rfl, fun d y => ?_⟩
  rw [home_modHome]
  split
  · next h => simp [h]
  · next h => simp [Ne.symm h]

/-! ## IDE keys and answers over CXL.cache (R100, R102) -/

theorem ideKmKeyProg_gives {s : State} (h : s.eq.level < 2) : Gives .ideKmKeyProg s fun t =>
    t = { s with out := s.out ++ s.eq.linkHeld, eq := { s.eq with ideKeys := t.eq.ideKeys, linkShut := false, linkHeld := [] } } ∧
      ∀ y, y ∈ t.eq.ideKeys ↔ y ∈ s.eq.ideKeys ∨ y = s.arg.index := by
  refine ⟨_, if_pos h, rfl, fun y => ?_⟩
  dsimp only
  split
  · next hc =>
    have hmem := List.contains_iff_mem.mp hc
    exact ⟨.inl, fun hy => hy.elim id fun he => he ▸ hmem⟩
  · simp

section
variable {s : State} {r : CxlReq} (hs : s.eq.linkShut = false) (hr : s.cxlReqs[s.arg.index]? = some r)
include hs hr

/-- The state in which the host's answer is taken: what the host has stored stands, and the request is done. -/
def answered (s : State) : State := { s with
  hostMem := writeBytes s.hostMem s.arg.off (s.arg.nums.map (BitVec.ofNat 8)), cxlReqs := s.cxlReqs.eraseIdx s.arg.index }

theorem cxlCacheResponse_index (ha : r.agent = 72) :
    exec .cxlCacheResponse s = .next (enqueue (answered s) .pidxReadDone { index := r.seq.toNat }) := by
  show execCxlCacheResponse s = _
  simp only [execCxlCacheResponse, hr, hs, Bool.false_eq_true, if_false, ha, if_true]
  rfl

theorem cxlCacheResponse_unknown (ha : r.agent ≠ 72) (hf : findReq s r.agent r.seq = none) :
    exec .cxlCacheResponse s = .next (answered s) := by
  have hf' : findReq { hostStores s with cxlReqs := (hostStores s).cxlReqs.eraseIdx s.arg.index } r.agent r.seq = none := hf
  show execCxlCacheResponse s = _
  simp only [execCxlCacheResponse, hr, hs, Bool.false_eq_true, if_false, ha, hf']
  rfl

theorem cxlCacheResponse_known (ha : r.agent ≠ 72) {x : Req} (hf : findReq s r.agent r.seq = some x) :
    (r.kind = .wrInv ∨ r.kind = .itoMWr → exec .cxlCacheResponse s = .next (dropReq (answered s) r.agent r.seq)) ∧
      (r.kind = .rdShared ∨ r.kind = .rdCurr → exec .cxlCacheResponse s = .next (
        if 3 ≤ x.pkt.kind ∧ x.pkt.kind ≤ 5 then hostModify (answered s) r.agent x r.hpa
        else takeAnswer (answered s) r.agent x (readBytes (answered s).hostMem r.hpa 128))) := by
  have hf' : findReq { hostStores s with cxlReqs := (hostStores s).cxlReqs.eraseIdx s.arg.index } r.agent r.seq = some x := hf
  have hx : exec .cxlCacheResponse s = execCxlCacheResponse s := rfl
  simp only [execCxlCacheResponse, hr, hs, Bool.false_eq_true, if_false, ha, hf', Bool.and_eq_true, decide_eq_true_eq] at hx
  rw [hx]
  refine ⟨fun h => ?_, fun h => ?_⟩
  · rcases h with h | h <;> simp only [h] <;> rfl
  · rcases h with h | h <;> simp only [h] <;> rfl

end

end Sys2Proof.Machine

namespace Sys2Proof.Machine

/-! ## Launch queues (R104 to R107) -/

theorem queueOf_modQueue (s : State) (n i : Nat) (f : Queue → Queue) :
    queueOf (modQueue s n f) i = if n = i then f (queueOf s n) else queueOf s i := Map.get_set ..

theorem queueOf_logEvent (s : State) (cls die unit code addr launch detail n : Nat) :
    queueOf (logEvent s cls die unit code addr launch detail) n = queueOf s n := rfl

/-- What a read of a producer index line begun, or noted, leaves of the queue. -/
def Queue.asked (q : Queue) : Queue := if q.reading then { q with again := true } else { q with reading := true }

/-- The request for a producer index line: queued at the home of device memory, or sent to the host. -/
def askIndex (t : State) (n : Nat) (q : Queue) : State :=
  if q.inDevice then enqueue t .pidxReadDone { index := n }
  else emitLink { t with cxlReqs := t.cxlReqs ++ [{ agent := 72, seq := BitVec.ofNat 32 n, hpa := q.pidxAddr, kind := .rdShared }] }
    (.cxlCache 72 .rdShared q.pidxAddr 0#1024)

section
variable {s : State} {n : Nat}

theorem startIndexRead_off (h : (queueOf s n).en = false) : startIndexRead s n = s := by simp [startIndexRead, h]

theorem startIndexRead_again (he : (queueOf s n).en = true) (hu : underway s = true) (hr : (queueOf s n).reading = true) :
    startIndexRead s n = modQueue s n fun q => { q with again := true } := by simp [startIndexRead, he, hu, hr]

theorem startIndexRead_asks (he : (queueOf s n).en = true) (hu : underway s = true) (hr : (queueOf s n).reading = false) :
    startIndexRead s n = askIndex (modQueue s n fun q => { q with reading := true }) n (queueOf s n) := by
  simp [startIndexRead, he, hu, hr, askIndex]

/-- A part of the state that no request for an index line is in. -/
theorem askIndex_keeps {β : Sort _} (g : State → β) (hq : ∀ s i a, g (enqueue s i a) = g s)
    (he : ∀ s xs m, g (emitLink { s with cxlReqs := xs } m) = g s) (t : State) (n : Nat) (q : Queue) : g (askIndex t n q) = g t := by
  unfold askIndex
  split
  · exact hq ..
  · exact he ..

@[simp] theorem emitLink_queues (s : State) (m : OutMsg) : (emitLink s m).queues = s.queues := by
  unfold emitLink
  split <;> rfl

@[simp] theorem emitLink_mgmt (s : State) (m : OutMsg) : (emitLink s m).mgmt = s.mgmt := by
  unfold emitLink
  split <;> rfl

@[simp] theorem emitLink_mem (s : State) (m : OutMsg) : (emitLink s m).mem = s.mem := by
  unfold emitLink
  split <;> rfl

@[simp] theorem emitLink_launches (s : State) (m : OutMsg) : (emitLink s m).launches = s.launches := by
  unfold emitLink
  split <;> rfl

@[simp] theorem askIndex_queues (t : State) (n : Nat) (q : Queue) : (askIndex t n q).queues = t.queues :=
  askIndex_keeps State.queues (fun _ _ _ => rfl) (fun _ _ _ => emitLink_queues ..) t n q

/-- Beginning to read index lines changes queues, the agenda and what the link carries. -/
theorem startIndexRead_keeps {β : Sort _} (g : State → β) (hm : ∀ s n f, g (modQueue s n f) = g s)
    (hq : ∀ s i a, g (enqueue s i a) = g s) (he : ∀ s xs m, g (emitLink { s with cxlReqs := xs } m) = g s) (s : State) (n : Nat) :
    g (startIndexRead s n) = g s := by
  by_cases hx : (queueOf s n).en = true ∧ underway s = true
  · obtain ⟨hen, hu⟩ := hx
    cases hr : (queueOf s n).reading
    · rw [startIndexRead_asks hen hu hr, askIndex_keeps g hq he, hm]
    · rw [startIndexRead_again hen hu hr, hm]
  · rw [startIndexRead]
    simp only [← Bool.not_and, Bool.not_eq_true', Bool.and_eq_false_iff] at hx ⊢
    rw [if_pos]
    cases hen : (queueOf s n).en <;> cases hu : underway s <;> simp_all

@[simp] theorem startIndexRead_mgmt (s : State) (n : Nat) : (startIndexRead s n).mgmt = s.mgmt :=
  startIndexRead_keeps State.mgmt (fun _ _ _ => rfl) (fun _ _ _ => rfl) (fun _ _ _ => emitLink_mgmt ..) s n

@[simp] theorem startIndexRead_mem (s : State) (n : Nat) : (startIndexRead s n).mem = s.mem :=
  startIndexRead_keeps State.mem (fun _ _ _ => rfl) (fun _ _ _ => rfl) (fun _ _ _ => emitLink_mem ..) s n

@[simp] theorem startIndexRead_launches (s : State) (n : Nat) : (startIndexRead s n).launches = s.launches :=
  startIndexRead_keeps State.launches (fun _ _ _ => rfl) (fun _ _ _ => rfl) (fun _ _ _ => emitLink_launches ..) s n

theorem underway_startIndexRead (s : State) (n : Nat) : underway (startIndexRead s n) = underway s := by
  rw [underway, startIndexRead_mgmt, underway]

/-- The queues after a read of an index line has been begun. -/
theorem queueOf_startIndexRead (hu : underway s = true) (i : Nat) :
    queueOf (startIndexRead s n) i =
      if n = i then (if (queueOf s i).en then (queueOf s i).asked else queueOf s i) else queueOf s i := by
  cases hen : (queueOf s n).en
  · rw [startIndexRead_off hen]
    split
    · next h => rw [← h, hen]; rfl
    · rfl
  · cases hr : (queueOf s n).reading
    · rw [startIndexRead_asks hen hu hr, queueOf, askIndex_queues, ← queueOf, queueOf_modQueue]
      split
      · next h => simp [← h, hen, Queue.asked, hr]
      · rfl
    · rw [startIndexRead_again hen hu hr, queueOf_modQueue]
      split
      · next h => simp [← h, hen, Queue.asked, hr]
      · rfl

/-- R105. Every queue's index line read again, one queue after another. -/
theorem queueOf_startIndexReads (hu : underway s = true) (m i : Nat) :
    queueOf ((List.range m).foldl startIndexRead s) i =
      if i < m then (if (queueOf s i).en then (queueOf s i).asked else queueOf s i) else queueOf s i := by
  induction m with
  | zero => rfl
  | succ m ih =>
    have hu' : underway ((List.range m).foldl startIndexRead s) = true := by
      rw [foldl_keeps underway underway_startIndexRead]
      exact hu
    rw [List.range_succ, List.foldl_append, List.foldl_cons, List.foldl_nil, queueOf_startIndexRead hu', ih]
    rcases Nat.lt_trichotomy i m with h | rfl | h
    · simp [h, h.ne', Nat.lt_succ_of_lt h]
    · simp
    · simp [h.ne, Nat.lt_asymm h, show ¬i < m + 1 by omega]

theorem cxlLinkRecover_gives (hu : underway s = true) : Gives .cxlLinkRecover s fun t =>
    t.mem = s.mem ∧ t.launches = s.launches ∧ ∀ i, i < 64 →
      queueOf t i = if (queueOf s i).en then (queueOf s i).asked else queueOf s i :=
  ⟨_, rfl, foldl_keeps State.mem startIndexRead_mem _ s, foldl_keeps State.launches startIndexRead_launches _ s,
    fun i hi => (queueOf_startIndexReads hu 64 i).trans (if_pos hi)⟩

/-! ### LQ_ENABLE (R104, R107) -/

@[simp] theorem registerIndex_queues (s : State) (n : Nat) : (registerIndex s n).queues = s.queues := by
  unfold registerIndex
  dsimp only
  split <;> rfl

@[simp] theorem registerIndex_mgmt (s : State) (n : Nat) : (registerIndex s n).mgmt = s.mgmt := by
  unfold registerIndex
  dsimp only
  split <;> rfl

@[simp] theorem registerIndex_mem (s : State) (n : Nat) : (registerIndex s n).mem = s.mem := by
  unfold registerIndex
  dsimp only
  split <;> rfl

/-- R104, R107. Are the size that a word names and the addresses of a queue sound? -/
def Queue.Sound (q : Queue) (v : Word) : Prop :=
  2 ≤ (v.extractLsb' 0 5).toNat ∧ (v.extractLsb' 0 5).toNat ≤ 16 ∧ q.baseAddr % 4096 = 0 ∧ q.pidxAddr % 64 = 0 ∧ q.cidxAddr % 4 = 0

/-- What a write of EN = 1 leaves in the other fields of a queue. -/
def Queue.ctl (q : Queue) (v : Word) : Queue :=
  { q with ien := v.getLsbD 10, pcap := v.extractLsb' 8 2, size := v.extractLsb' 0 5, pidx := none }

theorem enableQueue_unsound {v : Word} (he : (queueOf s n).en = false) (hv : v.getLsbD 31 = true) (h : ¬(queueOf s n).Sound v) :
    enableQueue s n v = modQueue s n fun q => { q.ctl v with en := false } := by
  have hb : (decide (2 ≤ (v.extractLsb' 0 5).toNat) && decide ((v.extractLsb' 0 5).toNat ≤ 16) &&
      decide ((queueOf s n).baseAddr % 4096 = 0) && decide ((queueOf s n).pidxAddr % 64 = 0) &&
      decide ((queueOf s n).cidxAddr % 4 = 0)) = false := by
    rw [← Bool.not_eq_true]
    simpa [Queue.Sound, and_assoc] using h
  unfold enableQueue
  simp only [he, hv, hb, Bool.not_true, Bool.or_self, Bool.false_eq_true, if_false]
  rfl

theorem enableQueue_sound {v : Word} (he : (queueOf s n).en = false) (hv : v.getLsbD 31 = true) (h : (queueOf s n).Sound v) :
    enableQueue s n v =
      startIndexRead (registerIndex (modQueue s n fun q => { q.ctl v with en := true, overrun := false }) n) n := by
  have hb : (decide (2 ≤ (v.extractLsb' 0 5).toNat) && decide ((v.extractLsb' 0 5).toNat ≤ 16) &&
      decide ((queueOf s n).baseAddr % 4096 = 0) && decide ((queueOf s n).pidxAddr % 64 = 0) &&
      decide ((queueOf s n).cidxAddr % 4 = 0)) = true := by
    simpa [Queue.Sound, and_assoc] using h
  unfold enableQueue
  simp only [he, hv, hb, Bool.not_true, Bool.or_self, Bool.false_eq_true, if_false, if_true]
  rfl

theorem lqEnable_unsound (he : (queueOf s (s.arg.index % 64)).en = false) (hv : s.arg.value.getLsbD 31 = true)
    (h : ¬(queueOf s (s.arg.index % 64)).Sound s.arg.value) : Gives .lqEnable s fun t =>
      queueOf t (s.arg.index % 64) = (queueOf s (s.arg.index % 64)).ctl s.arg.value ∧ t.mem = s.mem := by
  refine ⟨_, rfl, ?_⟩
  rw [enableQueue_unsound he hv h]
  refine ⟨?_, rfl⟩
  rw [queueOf_modQueue, if_pos rfl, ← he]
  rfl

theorem lqEnable_sound (he : (queueOf s (s.arg.index % 64)).en = false) (hv : s.arg.value.getLsbD 31 = true)
    (h : (queueOf s (s.arg.index % 64)).Sound s.arg.value) (hu : underway s = true)
    (hr : (queueOf s (s.arg.index % 64)).reading = false) : Gives .lqEnable s fun t =>
      queueOf t (s.arg.index % 64) =
        { (queueOf s (s.arg.index % 64)).ctl s.arg.value with en := true, overrun := false, reading := true } ∧ t.mem = s.mem := by
  refine ⟨_, rfl, ?_⟩
  rw [enableQueue_sound he hv h]
  generalize hs1 : (modQueue s (s.arg.index % 64) fun q => { q.ctl s.arg.value with en := true, overrun := false }) = s1
  have hq : queueOf (registerIndex s1 (s.arg.index % 64)) (s.arg.index % 64) =
      { (queueOf s (s.arg.index % 64)).ctl s.arg.value with en := true, overrun := false } := by
    rw [queueOf, registerIndex_queues, ← hs1, ← queueOf, queueOf_modQueue, if_pos rfl]
  have hu1 : underway (registerIndex s1 (s.arg.index % 64)) = true := by
    rw [underway, registerIndex_mgmt, ← hs1]
    exact hu
  rw [queueOf_startIndexRead hu1, if_pos rfl, startIndexRead_mem, registerIndex_mem, hq, ← hs1]
  refine ⟨?_, rfl⟩
  rw [if_pos rfl, Queue.asked]
  exact if_neg (by simp [Queue.ctl, hr])

/-! ### The producer index (R105, R106) -/

theorem hostStores_none (h : s.arg.nums = []) : hostStores s = s := by
  rw [hostStores, h]
  rfl

theorem pidxNotify_again (he : (queueOf s (s.arg.index % 64)).en = true) (hu : underway s = true) (hn : s.arg.nums = [])
    (hr : (queueOf s (s.arg.index % 64)).reading = true) :
    exec .pidxNotify s = .next (modQueue s (s.arg.index % 64) fun q => { q with again := true }) := by
  show execPidxNotify s = _
  rw [execPidxNotify, hostStores_none hn, startIndexRead_again he hu hr]

theorem pidxNotify_asks (he : (queueOf s (s.arg.index % 64)).en = true) (hu : underway s = true) (hn : s.arg.nums = [])
    (hr : (queueOf s (s.arg.index % 64)).reading = false) : exec .pidxNotify s = .next
      (askIndex (modQueue s (s.arg.index % 64) fun q => { q with reading := true }) (s.arg.index % 64) (queueOf s (s.arg.index % 64))) := by
  show execPidxNotify s = _
  rw [execPidxNotify, hostStores_none hn, startIndexRead_asks he hu hr]

/-- No request for the queue's index line is under way. -/
theorem index_unasked (hreq : ∀ r ∈ s.cxlReqs, ¬(r.agent = 72 ∧ r.seq.toNat = n)) :
    (s.cxlReqs.any fun r => r.agent = 72 && r.seq.toNat = n) = false := by
  simpa [List.any_eq_false] using hreq

section
variable (hr : (queueOf s (s.arg.index % 64)).reading = true)
  (hreq : ∀ r ∈ s.cxlReqs, ¬(r.agent = 72 ∧ r.seq.toNat = s.arg.index % 64))
include hr hreq

theorem pidxReadDone_held {line : Nat}
    (hh : queueHeld s (queueOf s (s.arg.index % 64)) (queueOf s (s.arg.index % 64)).pidxAddr 4 = some line) :
    exec .pidxReadDone s = .next (sendSnoop s line) := by
  show execPidxReadDone s = _
  simp only [execPidxReadDone, hr, index_unasked hreq, hh, Bool.not_true, Bool.or_self, Bool.false_eq_true, if_false]

section
variable (hh : queueHeld s (queueOf s (s.arg.index % 64)) (queueOf s (s.arg.index % 64)).pidxAddr 4 = none) {bs : List Byte}
  (hb : queueRead s (queueOf s (s.arg.index % 64)) (queueOf s (s.arg.index % 64)).pidxAddr 4 = some bs)
include hh hb

theorem pidxReadDone_unread (hoff : ¬((queueOf s (s.arg.index % 64)).en = true ∧ underway s = true)) :
    exec .pidxReadDone s = .next (modQueue s (s.arg.index % 64) fun q => { q with reading := false, again := false }) := by
  show execPidxReadDone s = _
  simp only [execPidxReadDone, hr, index_unasked hreq, hh, hb, Bool.not_true, Bool.or_self, Bool.false_eq_true, if_false]
  exact if_pos (by simpa [-not_and, Classical.not_and_iff_not_or_not] using hoff)

section
variable (he : (queueOf s (s.arg.index % 64)).en = true) (hu : underway s = true)
include he hu

theorem pidxReadDone_overrun (ho : 2 ^ (queueOf s (s.arg.index % 64)).size.toNat <
      (BitVec.ofNat 32 (ofBytes bs) - (queueOf s (s.arg.index % 64)).cidx).toNat) :
    Gives .pidxReadDone s fun t =>
      queueOf t (s.arg.index % 64) = { queueOf s (s.arg.index % 64) with
        reading := false, again := false, en := false, overrun := true, pidx := none } ∧
      ∃ e ∈ t.mgmt.log, e.cls = 4 ∧ e.code = 0x20000 + s.arg.index % 64 := by
  have hx : exec .pidxReadDone s = execPidxReadDone s := rfl
  simp only [execPidxReadDone, hr, index_unasked hreq, hh, hb, he, hu, Bool.not_true, Bool.or_self, Bool.false_eq_true, if_false,
    gt_iff_lt, if_pos ho] at hx
  refine ⟨_, hx, ?_, _, List.mem_append_right _ (List.mem_singleton_self _), rfl, rfl⟩
  rw [queueOf_logEvent, queueOf_modQueue, if_pos rfl, queueOf_modQueue, if_pos rfl]

theorem pidxReadDone_kept (ho : (BitVec.ofNat 32 (ofBytes bs) - (queueOf s (s.arg.index % 64)).cidx).toNat ≤
      2 ^ (queueOf s (s.arg.index % 64)).size.toNat) :
    Gives .pidxReadDone s fun t =>
      queueOf t (s.arg.index % 64) = { queueOf s (s.arg.index % 64) with
        reading := (queueOf s (s.arg.index % 64)).again, again := false, pidx := some (BitVec.ofNat 32 (ofBytes bs)) } := by
  have hx : exec .pidxReadDone s = execPidxReadDone s := rfl
  simp only [execPidxReadDone, hr, index_unasked hreq, hh, hb, he, hu, Bool.not_true, Bool.or_self, Bool.false_eq_true, if_false, gt_iff_lt,
    if_neg (Nat.not_lt.mpr ho)] at hx
  refine ⟨_, hx, ?_⟩
  generalize hs2 : modQueue (modQueue s _ _) _ _ = s2
  have hq2 : queueOf s2 (s.arg.index % 64) = { queueOf s (s.arg.index % 64) with
      reading := false, again := false, pidx := some (BitVec.ofNat 32 (ofBytes bs)) } := by
    rw [← hs2, queueOf_modQueue, if_pos rfl, queueOf_modQueue, if_pos rfl]
  have hu2 : underway s2 = true := by
    rw [← hs2]
    exact hu
  cases ha : (queueOf s (s.arg.index % 64)).again
  · rw [if_neg (by decide), hq2]
  · rw [if_pos rfl, queueOf_startIndexRead hu2, if_pos rfl, hq2, if_pos he]
    rfl

end
end
end
end

/-- While the link carries only configuration traffic, nothing of the host passes. -/
theorem exec_linkShut {s : State} (hs : s.eq.linkShut = true) {i : Instr} (hi : i ∈ [Instr.hostMemAccess, .birsp, .cxlCacheResponse]) :
    exec i s = .next s := by
  simp only [List.mem_cons, List.not_mem_nil, or_false] at hi
  rcases hi with rfl | rfl | rfl
  · show execHostMemAccess s = _
    simp [execHostMemAccess, hs]
  · show execBirsp s = _
    simp [execBirsp, hs]
  · show execCxlCacheResponse s = _
    unfold execCxlCacheResponse
    split
    · rfl
    · simp [hs]

/-- Settles O49: the register writes by `exec_mgmtWrite` and the launch window's lemmas, the accesses by `exec_hostMemAccess`, the queues by
what `startIndexRead` and `enableQueue` do to one queue. -/
theorem hostAccess : Obligations.HostAccess := by
  constructor
  · intro s g w off v q i acts hr
    refine ⟨fun hwin hw => ⟨registerWrite_dieCmd_busy hr hwin hw, fun ho hs hgo n f hf hn =>
      registerWrite_dieCmd_go hr hwin hw ho hs hgo hf hn, registerWrite_sgtCtl hr hwin hw, registerWrite_tlbCtl_busy hr hwin hw,
      fun ho hs hgo n f hf hn => registerWrite_tlbCtl_go hr hwin hw ho hs hgo hf hn, registerWrite_mbCmd_busy hr hwin hw,
      fun ho hs hgo n j hj hn => registerWrite_mbCmd_go hr hwin hw ho hs hgo ?_ hn, registerWrite_eqTmo hr hwin hw,
      fun n hn ho => registerWrite_mbData hr hwin hw hn ho⟩, fun hwin hw ho => registerWrite_sgtTime hr hwin hw ho,
      fun hwin hoff hw hreg => ⟨fun hen => ?_, fun hen => ?_⟩,
      fun hwin hoff hreg hw hen hv hgo => registerWrite_lqCtl hr hwin hoff hreg hw hen hv hgo, exec_configRequest hr⟩
    · simp only [List.mem_cons, Prod.mk.injEq, List.not_mem_nil, or_false] at hj
      rcases hj with h | h | h | h | h | h | h | h | h | h | h | h | h | h | h
      all_goals obtain ⟨rfl, rfl⟩ := h; rfl
    · rw [exec_launchAddress hr hwin hoff hw hreg,
        writeLaunch_enabled _ (by rcases hreg with h | h | h <;> rw [h] <;> decide) hen]
    · rw [exec_launchAddress hr hwin hoff hw hreg, writeLaunch_address _ hoff s.arg.value.isLt hreg hen]
  · intro s a n q h asks
    refine ⟨fun hs i hi => exec_linkShut hs hi, fun hr hs hh x hx hi hn _ => hostMemAccess_holds hr hs hh hx hi hn,
      fun hr hs hh x hx hi => ⟨hostMemAccess_poison hr hs hh hx hi, hostMemAccess_reads hr hs hh hx hi,
        hostMemAccess_writes hr hs hh hx hi⟩,
      birsp_gives, fun hlv => if_neg (Nat.not_lt.mpr hlv), ideKmKeyProg_gives, fun hs r hr => ⟨cxlCacheResponse_index hs hr,
        cxlCacheResponse_unknown hs hr, fun x ha hf => cxlCacheResponse_known hs hr ha hf⟩, fun he hv => ⟨lqEnable_unsound he hv,
        lqEnable_sound he hv⟩, fun he hu hn => ⟨pidxNotify_again he hu hn, fun hr => ?_⟩, cxlLinkRecover_gives,
      fun line hr hreq hh => pidxReadDone_held hr hreq hh, fun bs hr hreq hh hb => ⟨pidxReadDone_unread hr hreq hh hb,
        pidxReadDone_overrun hr hreq hh hb, pidxReadDone_kept hr hreq hh hb⟩⟩
    refine ⟨_, pidxNotify_asks he hu hn hr, ?_⟩
    show if q.inDevice then _ else _
    split
    · next hd => exact if_pos hd
    · next hd => exact if_neg hd

end Sys2Proof.Machine

namespace Sys2Proof

/-- Values written at keys one after another, read back. -/
theorem Map.get_foldl_set {α : Type} (f : Nat → α) (d : α) (k : Nat) (ds : List Nat) (m : Map α) :
    Map.get (ds.foldl (fun m i => Map.set m i (f i)) m) k d = if k ∈ ds then f k else Map.get m k d := by
  induction ds generalizing m with
  | nil => simp
  | cons i ds ih =>
    rw [List.foldl_cons, ih, Map.get_set]
    by_cases hk : k ∈ ds
    · simp [hk]
    · by_cases hi : i = k
      · simp [hi]
      · simp [hk, hi, Ne.symm hi]

namespace Machine

/-! ## Power-on and the release of reset (R17, R20) -/

/-- R17. Locking copies changes their offsets and floors. -/
theorem lockCopies_frame (s : State) (dies : List Nat) :
    lockCopies s dies = { s with skew := (lockCopies s dies).skew, chronFloor := (lockCopies s dies).chronFloor } := rfl

theorem mgmt_lockCopies (s : State) (dies : List Nat) : (lockCopies s dies).mgmt = s.mgmt := rfl
theorem mem_lockCopies (s : State) (dies : List Nat) : (lockCopies s dies).mem = s.mem := rfl

theorem skew_lockCopies (s : State) (dies : List Nat) (d : Nat) : Map.get (lockCopies s dies).skew d 0 =
    if d ∈ dies then ((min (s.arg.nums.getD d 2) 4 : Nat) - 2 : Int) else Map.get s.skew d 0 :=
  Map.get_foldl_set (fun d => ((min (s.arg.nums.getD d 2) 4 : Nat) - 2 : Int)) 0 d dies s.skew

theorem powerOnReset_gives (s : State) : Gives .powerOnReset s fun t =>
    t = { State.reset with
      agenda := s.agenda, arg := s.arg, out := s.out, hostMem := s.hostMem, skew := t.skew, chronFloor := t.chronFloor } ∧
      ∀ d, d < 16 → -2 ≤ Map.get t.skew d 0 ∧ Map.get t.skew d 0 ≤ 2 ∧ copyOf t d = 0 := by
  refine ⟨_, rfl, lockCopies_frame _ _, fun d hd => ?_⟩
  have hchron : ∀ s0 : State, s0.chron = 0 → copyOf (lockCopies s0 copyDies) d = 0 := fun s0 h => if_pos h
  rw [skew_lockCopies, if_pos (show d ∈ copyDies from List.mem_range.mpr hd)]
  exact ⟨by omega, by omega, hchron _ rfl⟩

/-- DEV_STATE leaves device memory. -/
@[simp] theorem setDev_mem (s : State) (st stage reason : Nat) : (setDev s st stage reason).mem = s.mem := by
  obtain ⟨o, ho⟩ := setDev_frame s st stage reason
  rw [ho]

theorem resetDeassert_gives {s : State} (h : s.mgmt.resetAsserted = true) : Gives .fundamentalResetDeassert s fun t =>
    t.mgmt.resetAsserted = false ∧ t.mem = s.mem ∧
      (s.mgmt.autoHeld = true → t.mgmt.devState = 1 ∧ t.mgmt.stage = 0 ∧ t.mgmt.reason = 2) ∧
      (s.mgmt.autoHeld = false → t.mgmt.devState = 2 ∧ t.mgmt.stage = 1) ∧
      (s.mgmt.autoHeld = false → s.mgmt.devState = 1 → t.out = s.out ++ [.msix 66]) := by
  have hx : exec .fundamentalResetDeassert s = execFundamentalResetDeassert s := rfl
  rw [execFundamentalResetDeassert, h, if_neg (by decide)] at hx
  dsimp only at hx
  cases ha : s.mgmt.autoHeld
  · rw [ha, if_neg (by decide), beginAdvance] at hx
    refine ⟨_, hx, ?_, setDev_mem .., fun hc => absurd hc (by decide), fun _ => ?_, fun _ hd => ?_⟩
    · rw [setDev_mgmt]
    · rw [setDev_mgmt]
      exact ⟨rfl, rfl⟩
    · simp [setDev, hd, emit]
  · rw [ha, if_pos rfl] at hx
    refine ⟨_, hx, ?_, setDev_mem .., fun _ => ?_, fun hc => absurd hc (by decide), fun hc => absurd hc (by decide)⟩
    · rw [setDev_mgmt]
    · rw [setDev_mgmt]
      exact ⟨rfl, rfl, rfl⟩

/-! ## The stages of the advance (R21, R22) -/

/-- Stations of compute dies changed one after another. -/
theorem station_modStations (f : Nat → Station → Station) (m : Nat) (s : State) (i : Nat) :
    station ((List.range m).foldl (fun s d => modStation s (2 * d) (f d)) s) (2 * i) =
      if i < m then f i (station s (2 * i)) else station s (2 * i) := by
  induction m with
  | zero => rfl
  | succ m ih =>
    rw [List.range_succ, List.foldl_append, List.foldl_cons, List.foldl_nil, station_modStation]
    by_cases h : 2 * m = 2 * i
    · have hmi : m = i := by omega
      subst hmi
      rw [if_pos rfl, ih, if_neg (Nat.lt_irrefl _), if_pos (Nat.lt_succ_self _)]
    · rw [if_neg h, ih]
      exact if_congr (by omega) rfl rfl

theorem passThrough_passStations (s : State) (failing : BitVec 8) {d : Nat} (hd : d < 8) :
    (station (passStations s failing) (2 * d)).passThrough = failing.getLsbD d := by
  rw [passStations, station_modStations (fun d t => { t with passThrough := failing.getLsbD d }), if_pos hd]

theorem mgmt_passStations (s : State) (failing : BitVec 8) : (passStations s failing).mgmt = s.mgmt :=
  foldl_keeps State.mgmt (fun s (d : Nat) => modStation_mgmt s (2 * d) _) _ s

theorem launches_passStations (s : State) (failing : BitVec 8) : (passStations s failing).launches = s.launches :=
  foldl_keeps State.launches (fun s (d : Nat) => modStation_launches s (2 * d) _) _ s

theorem mem_passStations (s : State) (failing : BitVec 8) : (passStations s failing).mem = s.mem :=
  foldl_keeps State.mem (fun s (d : Nat) => modStation_mem s (2 * d) _) _ s

section
variable {s : State}

/-- DEV_STATE with the next stage. -/
def nextStage (s : State) : State := setDev s 2 (s.mgmt.stage + 1) s.mgmt.reason

/-- What stage 3 tests: the compute dies and their banks. -/
def selfTested (s : State) : State :=
  testFindings (passStations { s with mgmt := { s.mgmt with tested := ~~~s.arg.failed } } s.arg.failed) fun _ => true

/-- R22. The stations once the last stage has passed. -/
def Station.cleared (t : Station) : Station := { t with almanac := [], rows := [], flags := [], starving := [], marks := [] }

/-- The rings once the last stage has passed: no owner, no stream, every slot empty and every station clean. -/
def ringsCleared (s : State) : State :=
  { s with slots := s.slots.map fun x => (x.1, { hops := x.2.hops }), owners := [], reclaiming := [],
           stations := s.stations.map fun t => (t.1, t.2.cleared) }

section
variable (hd : s.mgmt.devState = 2)
include hd

/-- The end of each stage. -/
theorem advanceStage_one (hst : s.mgmt.stage = 1) : exec .advanceStageComplete s =
    .next (if s.arg.ok then loadImage (nextStage s) else leaveToHarbour s 3) := by
  show execAdvanceStageComplete s = _
  simp only [execAdvanceStageComplete, hd, hst, ne_eq, not_true_eq_false, if_false]
  rw [nextStage, hst]
  split <;> rfl

theorem advanceStage_two (hst : s.mgmt.stage = 2) : exec .advanceStageComplete s =
    .next (if s.arg.failed ||| s.mgmt.untrained = 0#8 then nextStage s
      else leaveToHarbour { s with mgmt := { s.mgmt with untrained := s.arg.failed ||| s.mgmt.untrained } } 4) := by
  show execAdvanceStageComplete s = _
  simp only [execAdvanceStageComplete, hd, hst, ne_eq, not_true_eq_false, if_false]
  rw [nextStage, hst]
  split <;> rfl

theorem advanceStage_three (hst : s.mgmt.stage = 3) : exec .advanceStageComplete s =
    .next (if s.arg.failed = 0xFF#8 then leaveToHarbour (selfTested s) 5 else setDev (selfTested s) 2 4 (selfTested s).mgmt.reason) := by
  show execAdvanceStageComplete s = _
  unfold selfTested
  simp only [execAdvanceStageComplete, hd, hst, ne_eq, not_true_eq_false, if_false]
  split <;> rfl

theorem advanceStage_four (hst : s.mgmt.stage = 4) : exec .advanceStageComplete s =
    .next (if s.arg.ok then { nextStage s with slots := [], ring := 0 } else leaveToHarbour s 6) := by
  show execAdvanceStageComplete s = _
  simp only [execAdvanceStageComplete, hd, hst, ne_eq, not_true_eq_false, if_false]
  rw [nextStage, hst]
  split <;> rfl

theorem advanceStage_five (hst : s.mgmt.stage = 5) : exec .advanceStageComplete s =
    .next (if s.arg.ok then lockCopies (nextStage s) copyDies else leaveToHarbour s 7) := by
  show execAdvanceStageComplete s = _
  simp only [execAdvanceStageComplete, hd, hst, ne_eq, not_true_eq_false, if_false]
  rw [nextStage, hst]
  split <;> rfl

theorem advanceStage_six (hst : s.mgmt.stage = 6) : exec .advanceStageComplete s =
    .next (if s.arg.ok then reachUnderway (ringsCleared (nextStage s)) else leaveToHarbour s 6) := by
  show execAdvanceStageComplete s = _
  simp only [execAdvanceStageComplete, hd, hst, ne_eq, not_true_eq_false, if_false]
  rw [nextStage, hst]
  cases s.arg.ok <;> rfl

end

/-- The advance goes on in a stage: nothing of device memory has changed. -/
def Advances (s : State) (n : Nat) (t : State) : Prop := t.mgmt.devState = 2 ∧ t.mgmt.stage = n ∧ t.mem = s.mem

theorem advances_nextStage (s : State) : Advances s (s.mgmt.stage + 1) (nextStage s) := by
  rw [Advances, nextStage, setDev_mgmt, setDev_mem]
  exact ⟨rfl, rfl, rfl⟩

/-- The self-test leaves the management state but for what it has tested. -/
theorem mgmt_selfTested (s : State) : (selfTested s).mgmt.unlogged = ({ s.mgmt with tested := ~~~s.arg.failed } : Mgmt).unlogged :=
  by rw [selfTested, mgmt_of_outline (outline_testFindings ..), mgmt_passStations]

theorem launches_selfTested (s : State) : (selfTested s).launches = s.launches :=
  by rw [selfTested, launches_of_outline (outline_testFindings ..), launches_passStations]

theorem mem_selfTested (s : State) : (selfTested s).mem = s.mem := by
  show (selfTested s).memories.1 = s.mem
  rw [selfTested, memories_testFindings, State.memories, mem_passStations]

theorem passThrough_selfTested (s : State) {d : Nat} (hd : d < 8) :
    (station (selfTested s) (2 * d)).passThrough = s.arg.failed.getLsbD d := by
  have hstations : (selfTested s).stations = _ := stations_of_outline (outline_testFindings ..)
  rw [station, hstations]
  exact passThrough_passStations _ _ hd

section
variable (hd : s.mgmt.devState = 2)
include hd

theorem advanceStage_passes (hst : s.mgmt.stage = 1 ∨ s.mgmt.stage = 4 ∨ s.mgmt.stage = 5) (hok : s.arg.ok = true) :
    Gives .advanceStageComplete s (Advances s (s.mgmt.stage + 1)) := by
  obtain ⟨hdev, hstage, hmem⟩ := advances_nextStage s
  rcases hst with h | h | h
  · exact ⟨_, (advanceStage_one hd h).trans (congrArg _ (if_pos hok)), hdev, hstage, hmem⟩
  · exact ⟨_, (advanceStage_four hd h).trans (congrArg _ (if_pos hok)), hdev, hstage, hmem⟩
  · refine ⟨_, (advanceStage_five hd h).trans (congrArg _ (if_pos hok)), ?_⟩
    rw [Advances, mgmt_lockCopies, mem_lockCopies]
    exact ⟨hdev, hstage, hmem⟩

theorem advanceStage_runs (hst : s.mgmt.stage = 1) (hok : s.arg.ok = true) :
    Gives .advanceStageComplete s fun t => t.mgmt.running = s.mgmt.image := by
  refine ⟨_, (advanceStage_one hd hst).trans (congrArg _ (if_pos hok)), ?_⟩
  show (nextStage s).mgmt.image = _
  rw [nextStage, setDev_mgmt]

theorem advanceStage_trained (hst : s.mgmt.stage = 2) (hf : s.arg.failed = 0#8) (hu : s.mgmt.untrained = 0#8) :
    Gives .advanceStageComplete s (Advances s 3) := by
  refine ⟨_, (advanceStage_two hd hst).trans (congrArg _ (if_pos (by rw [hf, hu]; decide))), ?_⟩
  have h := advances_nextStage s
  rwa [hst] at h

theorem advanceStage_tested (hst : s.mgmt.stage = 3) (hf : s.arg.failed ≠ 0xFF#8) :
    Gives .advanceStageComplete s fun t => Advances s 4 t ∧ t.mgmt.tested = ~~~s.arg.failed ∧
      ∀ d, d < 8 → (station t (2 * d)).passThrough = s.arg.failed.getLsbD d := by
  refine ⟨_, (advanceStage_three hd hst).trans (congrArg _ (if_neg hf)), ?_⟩
  obtain ⟨o, ho⟩ := setDev_frame (selfTested s) 2 4 (selfTested s).mgmt.reason
  rw [ho]
  exact ⟨⟨rfl, rfl, mem_selfTested s⟩, Mgmt.of_unlogged (mgmt_selfTested s) Mgmt.tested, fun d hd => passThrough_selfTested s hd⟩

/-- A stage that fails leaves for Harbour with its reason. -/
theorem advanceStage_fails (hl : s.mgmt.leaving = none) (hok : s.arg.ok = false) :
    (s.mgmt.stage = 1 → Gives .advanceStageComplete s (Returns s 3)) ∧
      (s.mgmt.stage = 4 ∨ s.mgmt.stage = 6 → Gives .advanceStageComplete s (Returns s 6)) ∧
      (s.mgmt.stage = 5 → Gives .advanceStageComplete s (Returns s 7)) := by
  have hok' : ¬s.arg.ok = true := by simp [hok]
  have hret (reason : Nat) := returns_leaveToHarbour s reason (by omega) hl
  refine ⟨fun h => ⟨_, (advanceStage_one hd h).trans (congrArg _ (if_neg hok')), hret 3⟩, fun h => ?_,
    fun h => ⟨_, (advanceStage_five hd h).trans (congrArg _ (if_neg hok')), hret 7⟩⟩
  rcases h with h | h
  · exact ⟨_, (advanceStage_four hd h).trans (congrArg _ (if_neg hok')), hret 6⟩
  · exact ⟨_, (advanceStage_six hd h).trans (congrArg _ (if_neg hok')), hret 6⟩

theorem advanceStage_untrained (hl : s.mgmt.leaving = none) (hst : s.mgmt.stage = 2) (hf : s.arg.failed ||| s.mgmt.untrained ≠ 0#8) :
    Gives .advanceStageComplete s fun t => Returns s 4 t ∧ t.mgmt.untrained = s.arg.failed ||| s.mgmt.untrained := by
  have hne : s.mgmt.devState ≠ 1 := by omega
  refine ⟨_, (advanceStage_two hd hst).trans (congrArg _ (if_neg hf)), ?_, ?_⟩
  · exact (returns_leaveToHarbour { s with mgmt := { s.mgmt with untrained := s.arg.failed ||| s.mgmt.untrained } } 4 hne hl).of_eq
      rfl rfl rfl
  · exact (stage_leaveToHarbour { s with mgmt := { s.mgmt with untrained := s.arg.failed ||| s.mgmt.untrained } } 4 hne hl).2

theorem advanceStage_noDie (hl : s.mgmt.leaving = none) (hst : s.mgmt.stage = 3) (hf : s.arg.failed = 0xFF#8) :
    Gives .advanceStageComplete s fun t => Returns s 5 t ∧ t.mgmt.stage = 3 := by
  have hm := mgmt_selfTested s
  have hdev : (selfTested s).mgmt.devState = s.mgmt.devState := Mgmt.of_unlogged hm Mgmt.devState
  have hleaving : (selfTested s).mgmt.leaving = none := (Mgmt.of_unlogged hm Mgmt.leaving).trans hl
  have hstage : (selfTested s).mgmt.stage = s.mgmt.stage := Mgmt.of_unlogged hm Mgmt.stage
  have hreason : (selfTested s).mgmt.reason = s.mgmt.reason := Mgmt.of_unlogged hm Mgmt.reason
  have hne : (selfTested s).mgmt.devState ≠ 1 := by omega
  refine ⟨_, (advanceStage_three hd hst).trans (congrArg _ (if_pos hf)), ?_, ?_⟩
  · exact (returns_leaveToHarbour _ 5 hne hleaving).of_eq (launches_selfTested s) hdev hreason
  · rw [(stage_leaveToHarbour _ 5 hne hleaving).1, hstage, hst]

end

/-! ### Underway (R21, R22, R24) -/

/-- What the reading of index lines leaves of a state that has come to Underway. -/
def State.moored (s : State) : Mgmt × Map Owner × List StreamReq × Map Slot × Map Station :=
  (s.mgmt, s.owners, s.reclaiming, s.slots, s.stations)

theorem moored_emitLink (s : State) (m : OutMsg) : (emitLink s m).moored = s.moored := by
  unfold emitLink
  split <;> rfl

theorem moored_registerIndex (s : State) (n : Nat) : (registerIndex s n).moored = s.moored := by
  unfold registerIndex
  dsimp only
  split <;> rfl

theorem moored_startIndexRead (s : State) (n : Nat) : (startIndexRead s n).moored = s.moored :=
  startIndexRead_keeps State.moored (fun _ _ _ => rfl) (fun _ _ _ => rfl) (fun _ _ _ => moored_emitLink ..) s n

theorem serviceReason_eq (m : Mgmt) :
    serviceReason m = if m.csvc = 0xFF#8 ∧ m.msvc = 0xFF#8 ∧ m.retired = 0#8 then 0 else 8 :=
  if_congr (by simp only [Bool.and_eq_true, decide_eq_true_eq, and_assoc]) rfl rfl

/-- R24. Underway with the tested dies in service, and the rings as they were. -/
theorem moored_reachUnderway (s : State) : (reachUnderway s).moored =
    ({ s.mgmt with csvc := s.mgmt.tested, cdrain := 0#8, devState := 3, stage := 7,
                   reason := serviceReason { s.mgmt with csvc := s.mgmt.tested, cdrain := 0#8 } },
      s.owners, s.reclaiming, s.slots, s.stations) := by
  unfold reachUnderway
  refine (foldl_keeps State.moored (fun s n => ?_) _ _).trans ?_
  · rw [moored_startIndexRead]
    split
    · exact moored_registerIndex ..
    · rfl
  · dsimp only
    obtain ⟨o, ho⟩ := setDev_frame { s with
      mgmt := { s.mgmt with csvc := s.mgmt.tested, cdrain := 0#8 },
      eq := { s.eq with level := if s.eq.level = 3 then 0 else s.eq.level },
      disps := (List.range 8).map fun d => (d, { emptySince := s.chron, testPeriod := testPeriodNow s d : Dispatcher }) } 3 7
      (serviceReason { s.mgmt with csvc := s.mgmt.tested, cdrain := 0#8 })
    rw [ho]
    rfl

theorem slotOf_ringsCleared (s : State) (key : Nat) : slotOf (ringsCleared s) key = { hops := (slotOf s key).hops } :=
  Map.get_map s.slots (fun _ (x : Slot) => { hops := x.hops }) rfl

theorem station_ringsCleared (s : State) (k : Nat) : station (ringsCleared s) k = (station s k).cleared :=
  Map.get_map s.stations (fun _ (t : Station) => t.cleared) rfl

theorem advanceStage_underway (hd : s.mgmt.devState = 2) (hst : s.mgmt.stage = 6) (hok : s.arg.ok = true) :
    Gives .advanceStageComplete s fun t => t.mgmt.devState = 3 ∧ t.mgmt.stage = 7 ∧ t.mgmt.csvc = s.mgmt.tested ∧
      t.mgmt.cdrain = 0#8 ∧ t.owners = [] ∧ t.reclaiming = [] ∧ (∀ key, slotOf t key = { hops := (slotOf s key).hops }) ∧
      t.mgmt.reason = (if s.mgmt.tested = 0xFF#8 ∧ s.mgmt.msvc = 0xFF#8 ∧ s.mgmt.retired = 0#8 then 0 else 8) ∧
      ∀ k n, (entryAt t k n).word = 0#64 ∧ flagOf t k n = {} := by
  refine ⟨_, (advanceStage_six hd hst).trans (congrArg _ (if_pos hok)), ?_⟩
  have h := moored_reachUnderway (ringsCleared (nextStage s))
  generalize reachUnderway (ringsCleared (nextStage s)) = t at h
  obtain ⟨hmgmt, howners, hrecl, hslots, hstations⟩ : t.mgmt = _ ∧ t.owners = _ ∧ t.reclaiming = _ ∧ t.slots = _ ∧ t.stations = _ := by
    simpa only [State.moored, Prod.mk.injEq] using h
  obtain ⟨o, ho⟩ := setDev_frame s 2 (s.mgmt.stage + 1) s.mgmt.reason
  have hnext : nextStage s = _ := ho
  have hstation (k : Nat) : station t k = (station (nextStage s) k).cleared := by
    rw [station, hstations]
    exact station_ringsCleared _ k
  refine ⟨by rw [hmgmt], by rw [hmgmt], ?_, by rw [hmgmt], howners, hrecl, fun key => ?_, ?_, fun k n => ?_⟩
  · rw [hmgmt, hnext]
    rfl
  · rw [slotOf, hslots]
    refine (slotOf_ringsCleared _ key).trans ?_
    rw [hnext]
    rfl
  · rw [hmgmt, hnext]
    exact serviceReason_eq _
  · rw [entryAt, flagOf, hstation]
    exact ⟨rfl, rfl⟩

/-! ## Supply and temperature (R34, R35) -/

theorem supplyTimeout_returns (ho : s.mgmt.supplyOut = true) (ht : s.mgmt.supplySince + 1000000 < s.chron) (hd : s.mgmt.devState ≠ 1)
    (hl : s.mgmt.leaving = none) : Gives .supplyTimeout s (Returns s 0x0B) :=
  ⟨_, if_pos (by simp [ho, ht]), returns_leaveToHarbour s 0x0B hd hl⟩

theorem temperatureReport_returns (hh : ∃ x ∈ s.arg.nums, 115 ≤ x) (hd : s.mgmt.devState ≠ 1) (hl : s.mgmt.leaving = none) :
    Gives .temperatureReport s (Returns s 0x0A) :=
  ⟨_, if_pos (by simpa using hh), returns_leaveToHarbour s 0x0A hd hl⟩

theorem temperatureReport_throttles (hh : ∀ x ∈ s.arg.nums, x < 115) : Gives .temperatureReport s fun t =>
    t = { s with mgmt := { s.mgmt with clocks := t.mgmt.clocks } } ∧ ∀ d, d < 8 → clockOf t d =
      if s.mgmt.powerCap < s.arg.nums2.headD 0 ∨ 105 < s.arg.nums.getD d 0 then max (clockOf s d - 100) 1000
      else min (clockOf s d + 100) 2100 := by
  refine ⟨_, if_neg (by simpa using hh), rfl, fun d hd => ?_⟩
  refine (Map.get_foldl_set (fun d => throttled (clockOf s d)
    (decide (s.arg.nums2.headD 0 > s.mgmt.powerCap) || decide (s.arg.nums.getD d 0 > 105))) 2100 d (List.range 8) s.mgmt.clocks).trans ?_
  rw [if_pos (List.mem_range.mpr hd), throttled]
  simp

end

/-- Settles O46: power-on by `lockCopies_frame`, the advance stage by stage, Underway by `moored_reachUnderway`, the returns by
`returns_leaveToHarbour`. -/
theorem startUp : Obligations.StartUp := by
  intro s a st advances
  refine ⟨powerOnReset_gives s, resetDeassert_gives, fun hd => ⟨advanceStage_passes hd, advanceStage_runs hd, advanceStage_trained hd,
    advanceStage_tested hd, fun hl => ⟨fun h hok => (advanceStage_fails hd hl hok).1 h, advanceStage_untrained hd hl,
      advanceStage_noDie hd hl, fun h hok => (advanceStage_fails hd hl hok).2.1 h, fun h hok => (advanceStage_fails hd hl hok).2.2 h⟩,
    advanceStage_underway hd⟩, rfl, supplyTimeout_returns, temperatureReport_returns, temperatureReport_throttles⟩

end Machine
end Sys2Proof

namespace Sys2Proof.Machine

/-! ## Results that arrive, and retirement (R167, R173) -/

theorem valueAt_of_sameButRetired {k' k : Core} (h : SameButRetired k' k) (key : Nat) : valueAt k' key = valueAt k key := by
  obtain ⟨e, p, fl, w, rfl⟩ := h
  rfl

section
variable {k : Core} {key : Nat}

theorem arriveResult_found {p : Pend} (h : k.pends.find? (fun p => p.reg = key) = some p) (hc : p.cmd = none) :
    arriveResult k key = markFull { k with pends := k.pends.filter fun q => q.reg ≠ key || (p.fixed && p.left ≠ 0) } key := by
  simp only [arriveResult, h, hc, Option.isSome_none, Bool.false_eq_true, if_false]

/-- A register that is FULL stays FULL, and one that has arrived is. -/
theorem full_arriveResult (k : Core) (a : Nat) {key : Nat} (hk : isEmpty k key = false) : isEmpty (arriveResult k a) key = false := by
  unfold arriveResult
  split
  · exact hk
  · split
    · exact hk
    · by_cases h : key < 320
      · rw [isEmpty_markFull _ _ _ h]
        show (isEmpty k key && _) = false
        rw [hk, Bool.false_and]
      · exact BitVec.getLsbD_of_ge _ _ (Nat.not_lt.mp h)

/-- A register's result on its way is there until it arrives. -/
theorem pends_arriveResult_other (k : Core) {a : Nat} (h : a ≠ key) (p : Pend) (hp : p.reg = key) :
    p ∈ (arriveResult k a).pends ↔ p ∈ k.pends := by
  unfold arriveResult
  split
  · rfl
  · split
    · rfl
    · show p ∈ List.filter _ k.pends ↔ p ∈ k.pends
      simp [hp, Ne.symm h]

theorem full_arrived (hc : ∀ p ∈ k.pends, p.reg = key → p.cmd = none) (hp : ∃ p ∈ k.pends, p.reg = key) :
    isEmpty (arriveResult k key) key = false := by
  cases hf : k.pends.find? (fun p => p.reg = key) with
  | none =>
    obtain ⟨p, hp, hr⟩ := hp
    simpa [hr] using List.find?_eq_none.mp hf p hp
  | some p =>
    have hmem := List.mem_of_find?_eq_some hf
    have hreg : p.reg = key := by simpa using List.find?_some hf
    rw [arriveResult_found hf (hc p hmem hreg)]
    by_cases h : key < 320
    · rw [isEmpty_markFull _ _ _ h]
      simp
    · exact BitVec.getLsbD_of_ge _ _ (Nat.not_lt.mp h)

/-- Every result of a list has arrived. -/
theorem full_arriveResults (regs : List Nat) (k : Core) (h : isEmpty k key = false ∨
      key ∈ regs ∧ (∀ p ∈ k.pends, p.reg = key → p.cmd = none) ∧ ∃ p ∈ k.pends, p.reg = key) :
    isEmpty (regs.foldl arriveResult k) key = false := by
  induction regs generalizing k with
  | nil => exact h.resolve_right fun h => List.not_mem_nil h.1
  | cons a regs ih =>
    refine ih _ ?_
    rcases h with h | ⟨hmem, hc, hp⟩
    · exact .inl (full_arriveResult k a h)
    · by_cases ha : a = key
      · subst ha
        exact .inl (full_arrived hc hp)
      · refine .inr ⟨(List.mem_cons.mp hmem).resolve_left (Ne.symm ha), fun p hp hr => hc p ?_ hr, ?_⟩
        · exact (pends_arriveResult_other k ha p hr).mp hp
        · obtain ⟨p, hp, hr⟩ := hp
          exact ⟨p, (pends_arriveResult_other k ha p hr).mpr hp, hr⟩

/-- The f registers made EMPTY, and no other. -/
theorem isEmpty_markEmpties (js : List Nat) (k : Core) (hk : key < 320) :
    isEmpty (js.foldl (fun k j => markEmpty k (0x90 + j)) k) key = (isEmpty k key || decide (∃ j ∈ js, 0x90 + j = key)) := by
  induction js generalizing k with
  | nil => simp
  | cons j js ih =>
    rw [List.foldl_cons, ih, isEmpty_markEmpty _ _ _ hk]
    by_cases h : 0x90 + j = key <;> simp [h]

end

theorem operationComplete_arrives {s : State} {p : Pend} (hi : s.arg.index < 0x140)
    (hf : (coreOf s s.arg.core).pends.find? (fun p => p.reg = s.arg.index) = some p) (hc : p.cmd = none) :
    Gives .operationComplete s fun t => OnlyCore s.arg.core s t ∧ isEmpty (coreOf t s.arg.core) s.arg.index = false ∧
      (∀ key, valueAt (coreOf t s.arg.core) key = valueAt (coreOf s s.arg.core) key) ∧
      ∀ key, key < 0x140 → key ≠ s.arg.index → isEmpty (coreOf t s.arg.core) key = isEmpty (coreOf s s.arg.core) key := by
  refine ⟨_, rfl, modCore_only .., ?_⟩
  rw [coreOf_modCore_same, if_neg (by omega)]
  refine ⟨?_, valueAt_of_sameButRetired (sameButRetired_arrive ..), fun key hk hne => ?_⟩
  · rw [arriveResult_found hf hc, isEmpty_markFull _ _ _ hi]
    simp
  · rw [arriveResult_found hf hc, isEmpty_markFull _ _ _ hk]
    simp [isEmpty, Ne.symm hne]

/-- The first element of a list for which p holds, taken from it. -/
theorem takeNth_zero {α : Type} [BEq α] [LawfulBEq α] (p : α → Bool) (l : List α) :
    takeNth p 0 l = (l.find? p).map fun x => (x, l.erase x) := by
  induction l with
  | nil => rfl
  | cons y l ih =>
    rw [takeNth, List.find?_cons]
    cases hy : p y
    · rw [if_neg (by decide), ih]
      cases hf : l.find? p with
      | none => rfl
      | some x =>
        have hx : p x = true := List.find?_some hf
        have hne : (y == x) = false := beq_false_of_ne fun h => by rw [h, hx] at hy; cases hy
        simp [List.erase_cons, hne]
    · simp

theorem operationComplete_lands {s : State} {n : Nat} {f : Nat × Nat} (hi : s.arg.index = 0x800 + n)
    (hf : (coreOf s s.arg.core).flight.find? (fun x => x.1 = n) = some f) :
    exec .operationComplete s = .next (modCore s s.arg.core fun k => { k with flight := k.flight.erase f }) := by
  have hn : s.arg.index - 0x800 = n := by omega
  refine congrArg (fun k => Host.Outcome.next (setCore s s.arg.core k)) ?_
  dsimp only
  rw [if_pos (by omega), endFlight, takeNth_zero, hn, hf]
  rfl

theorem window_arriveResult (k : Core) (a : Nat) : (arriveResult k a).window = k.window := by
  unfold arriveResult
  split
  · rfl
  · split <;> rfl

theorem flg_arriveResult (k : Core) (a : Nat) : (arriveResult k a).flg = k.flg := by
  unfold arriveResult
  split
  · rfl
  · split <;> rfl

theorem mem_bitsSet {x n i : Nat} : i ∈ bitsSet x n ↔ i < n ∧ x.testBit i = true := by simp [bitsSet]

theorem bundleRetire_gives {s : State} {u : Unretired} {rest : List Unretired} (hm : (coreOf s s.arg.core).mode = .running)
    (hw : (coreOf s s.arg.core).window = u :: rest) : Gives .bundleRetire s fun t =>
      OnlyCore s.arg.core s t ∧ (coreOf t s.arg.core).window = rest ∧ (coreOf t s.arg.core).flg = (coreOf s s.arg.core).flg ||| u.flags ∧
      (∀ key, valueAt (coreOf t s.arg.core) key = valueAt (coreOf s s.arg.core) key) ∧
      (∀ j, j < 4 → u.consumes.getLsbD j = true → isEmpty (coreOf t s.arg.core) (0x90 + j) = true) ∧
      ∀ key ∈ u.regs, (key < 0x90 ∨ 0x94 ≤ key) → (∀ p ∈ (coreOf s s.arg.core).pends, p.reg = key → p.cmd = none) →
        (∃ p ∈ (coreOf s s.arg.core).pends, p.reg = key) → isEmpty (coreOf t s.arg.core) key = false := by
  have hx : exec .bundleRetire s = .next (modCore s s.arg.core retireOldest) := if_pos hm
  refine ⟨_, hx, modCore_only .., ?_⟩
  rw [coreOf_modCore_same]
  generalize coreOf s s.arg.core = k at hw
  have hr : retireOldest k = setFlags ((bitsSet u.consumes.toNat 4).foldl (fun k j => markEmpty k (0x90 + j))
      (u.regs.foldl arriveResult { k with window := rest })) u.flags := by rw [retireOldest, hw]
  have hwindow : ((bitsSet u.consumes.toNat 4).foldl (fun k j => markEmpty k (0x90 + j))
      (u.regs.foldl arriveResult { k with window := rest })).window = rest :=
    (foldl_keeps Core.window (fun k (j : Nat) => (rfl : (markEmpty k (0x90 + j)).window = k.window)) _ _).trans
      (foldl_keeps Core.window window_arriveResult _ _)
  have hflg : ((bitsSet u.consumes.toNat 4).foldl (fun k j => markEmpty k (0x90 + j))
      (u.regs.foldl arriveResult { k with window := rest })).flg = k.flg :=
    (foldl_keeps Core.flg (fun k (j : Nat) => (rfl : (markEmpty k (0x90 + j)).flg = k.flg)) _ _).trans (foldl_keeps Core.flg flg_arriveResult _ _)
  have hempty {key : Nat} (hk : key < 320) : isEmpty (retireOldest k) key =
      (isEmpty (u.regs.foldl arriveResult { k with window := rest }) key ||
        decide (∃ j ∈ bitsSet u.consumes.toNat 4, 0x90 + j = key)) := by
    rw [hr]
    exact isEmpty_markEmpties _ _ hk
  refine ⟨by rw [hr]; exact hwindow, by rw [hr]; exact congrArg (· ||| u.flags) hflg,
    valueAt_of_sameButRetired (sameButRetired_oldest k), fun j hj hb => ?_, fun key hmem hne hc hp => ?_⟩
  · rw [hempty (by omega), Bool.or_eq_true, decide_eq_true_eq]
    exact .inr ⟨j, mem_bitsSet.mpr ⟨hj, hb⟩, rfl⟩
  · by_cases hk : key < 320
    · rw [hempty hk, full_arriveResults u.regs { k with window := rest } (.inr ⟨hmem, hc, hp⟩), Bool.false_or, decide_eq_false_iff_not]
      rintro ⟨j, hj, rfl⟩
      have := (mem_bitsSet.mp hj).1
      omega
    · exact BitVec.getLsbD_of_ge _ _ (Nat.not_lt.mp hk)

/-! ## Forward writes that are held (R179) -/

section
variable {s : State} {port n : Nat} {v : Vec}
  (hh : (coreOf s s.arg.core).held.find? (fun h => h.1 = s.arg.index) = some (s.arg.index, port, v))
  (hp : portCore s s.arg.core port = some n)
include hh hp

theorem forwardDeliver_waits (he : isEmpty (coreOf s n) (0x90 + port % 4) = false) : exec .forwardDeliver s = .next s := by
  refine congrArg Host.Outcome.next ?_
  simp only [deliverForward, hh, hp, he, Bool.not_false, Bool.or_true, if_true]

theorem forwardDeliver_gives (hfirst : (coreOf s s.arg.core).held.find? (fun h => h.2.1 = port) = some (s.arg.index, port, v))
    (hg : sameGroup s s.arg.core n = true) (hne : n ≠ s.arg.core) (he : isEmpty (coreOf s n) (0x90 + port % 4) = true) :
    Gives .forwardDeliver s fun t =>
      valueAt (coreOf t n) (0x90 + port % 4) = .ve v ∧ isEmpty (coreOf t n) (0x90 + port % 4) = false ∧
      coreOf t s.arg.core = { coreOf s s.arg.core with
        held := (coreOf s s.arg.core).held.filter fun h => h.1 ≠ s.arg.index, sent := (coreOf s s.arg.core).sent ++ [s.arg.index] } ∧
      t.mem = s.mem := by
  have hx : deliverForward s s.arg.core s.arg.index =
      modCore (modCore s n fun kn => markFull { kn with ve := Map.set kn.ve (0x90 + port % 4) v } (0x90 + port % 4)) s.arg.core
        fun k => { k with held := k.held.filter fun h => h.1 ≠ s.arg.index, sent := k.sent ++ [s.arg.index] } := by
    simp only [deliverForward, hh, hp, hfirst, hg, he, Option.elim_some, decide_true, Bool.not_true, Bool.or_self, Bool.false_eq_true,
      if_false]
  refine ⟨_, congrArg Host.Outcome.next hx, ?_, ?_, ?_, rfl⟩
  · rw [coreOf_modCore_other _ _ (Ne.symm hne), coreOf_modCore_same, valueAt_markFull, valueAt, if_neg (by omega), if_neg (by omega),
      if_neg (by omega), if_pos (by omega), Map.get_set_same]
  · rw [coreOf_modCore_other _ _ (Ne.symm hne), coreOf_modCore_same, isEmpty_markFull _ _ _ (by omega)]
    simp
  · rw [coreOf_modCore_same, coreOf_modCore_other _ _ hne]

end

end Sys2Proof.Machine

namespace Sys2Proof.Machine

/-! ## Translation without the cores

Where an address leads depends on the memories, the homes and the engines, not on what the cores hold. -/

section
variable (s : State) (cs : Map Core)

theorem forwardN_cores (n a : Nat) : forwardN { s with cores := cs } n a = forwardN s n a := by
  induction n generalizing a with
  | zero => rfl
  | succ n ih => simp only [forwardN, ih]; rfl

theorem atHome_cores (a : Nat) : atHome { s with cores := cs } a = atHome s a := by
  rw [atHome, forwardTo, forwardN_cores]
  rfl

theorem walk_cores (table va fuel level : Nat) : walk { s with cores := cs } table va fuel level = walk s table va fuel level := by
  induction fuel generalizing table level with
  | zero => rfl
  | succ fuel ih => simp only [walk, ih, atHome_cores]; rfl

theorem regionEntry_cores (ptroot i : Nat) : regionEntry { s with cores := cs } ptroot i = regionEntry s ptroot i := by
  simp only [regionEntry, atHome_cores]
  rfl

theorem translate_cores (ptroot : Nat) (sys : Bool) (va kind : Nat) :
    translate { s with cores := cs } ptroot sys va kind = translate s ptroot sys va kind := by
  simp only [translate, placeOf, walk_cores, funext (regionEntry_cores s cs ptroot)]

end

/-- A word of code is the same where the core stands under the same waypoint and has the same lines fetched. -/
theorem fetchWord_setCore (s : State) (c : Nat) (k : Core) (hwp : k.wp = (coreOf s c).wp) (hr : k.remote = (coreOf s c).remote) (va : Nat) :
    fetchWord (setCore s c k) c va = fetchWord s c va := by
  have hl : coreLaunch (setCore s c k) c = coreLaunch s c := by
    rw [coreLaunch, coreOf_setCore_same, hwp]
    rfl
  have ht : ∀ p q v i, translate (setCore s c k) p q v i = translate s p q v i := translate_cores s _
  have ha : ∀ a, atHome (setCore s c k) a = atHome s a := atHome_cores s _
  have hrem : ∀ p a, readRemote (setCore s c k) { core := c } p a 4 = readRemote s { core := c } p a 4 := by
    intro p a
    have hlines : Asker.lines { core := c } (setCore s c k) = Asker.lines { core := c } s := by
      show (coreOf (setCore s c k) c).remote = (coreOf s c).remote
      rw [coreOf_setCore_same, hr]
    rw [readRemote, hlines]
    rfl
  simp only [fetchWord, hl, ht, ha, hrem]
  rfl

theorem nextOf_setCore (s : State) (c : Nat) (k : Core) (hwp : k.wp = (coreOf s c).wp) (hr : k.remote = (coreOf s c).remote) (a len : Nat) :
    nextOf (setCore s c k) c a len = nextOf s c a len := by
  rw [nextOf, fetchWord_setCore s c k hwp hr, nextOf]

/-! ## Timed waits (R320) -/

theorem timedWait_early {s : State} {x : Word} (hw : (coreOf s s.arg.core).waitUntil = some x)
    (hm : (chronOf s (s.arg.core / 48) - x).msb = true) : exec .timedWaitExpiry s = .next s := by
  have hge : ¬(chronOf s (dieOf s.arg.core) - x).toNat < 2 ^ 63 := by
    rw [BitVec.msb_eq_decide, decide_eq_true_eq] at hm
    exact Nat.not_lt.mpr hm
  show execTimedWaitExpiry s = _
  simp only [execTimedWaitExpiry, hw, if_neg hge]

theorem timedWait_over {s : State} {x : Word} (hw : (coreOf s s.arg.core).waitUntil = some x)
    (hm : (chronOf s (s.arg.core / 48) - x).msb = false) :
    exec .timedWaitExpiry s = execBundleExecute { s with cur := s.arg.core } := by
  have hlt : (chronOf s (dieOf s.arg.core) - x).toNat < 2 ^ 63 := by
    rw [BitVec.msb_eq_decide, decide_eq_false_iff_not] at hm
    exact Nat.not_le.mp hm
  show execTimedWaitExpiry s = _
  simp only [execTimedWaitExpiry, hw, if_pos hlt]

/-! ## A bundle without moves -/

theorem sameButRetired_age (k : Core) : SameButRetired (agePends k) k :=
  (sameButRetired_foldl _ (fun k _ => ⟨_, k.pends, k.flg, k.window, rfl⟩) _ _).trans ⟨k.empty, _, k.flg, k.window, rfl⟩

/-- Entering the slip window leaves a core's waypoint, its lines fetched and the step of its MX.SEQ. -/
theorem enterWindow_keeps (k : Core) (b : Bundle) (lives : List Live) : (enterWindow k b lives).wp = k.wp ∧
    (enterWindow k b lives).remote = k.remote ∧ (enterWindow k b lives).seqStep = k.seqStep := by
  have h : SameButRetired (agePends (if k.window.length ≥ 16 then retireOldest k else k)) k := by
    refine (sameButRetired_age _).trans ?_
    split
    · exact sameButRetired_oldest k
    · exact ⟨k.empty, k.pends, k.flg, k.window, rfl⟩
  obtain ⟨e, p, fl, w, hk⟩ := h
  rw [enterWindow, hk]
  exact ⟨rfl, rfl, rfl⟩

/-- Nothing is read, delivered or issued of no live move. -/
theorem executed_none (s : State) (c : Nat) (b : Bundle) :
    unitOrder.foldl (issuePage c b []) (deliverAll c (readAll s c [])) = { s := s } :=
  List.foldl_fixed' (fun _ => rfl) unitOrder

/-- An execution that ends without a branch stops nothing. -/
theorem finish_stops (x : Exec) (c : Nat) (b : Bundle) (last : Bool) : (finish x c b last none).stops = x.stops := by
  unfold finish
  dsimp only
  cases last <;> rfl

section
variable {s : State} {c : Nat} {b : Bundle} (hseq : (coreOf s c).seqStep = 0) (hwords : b.words = []) (hstick : b.stick = [])
include hseq hwords hstick

/-- A bundle without moves enters the window and ends. -/
theorem runBundle_empty : runBundle s c b = .next (finish
    { s := setCore s c (enterWindow (countReplays (coreOf s c) b) b []) } c b (decide ((coreOf s c).rep ≥ b.rep)) none).s := by
  have hreplay : replayUnits b = [] := by rw [replayUnits, hstick]; rfl
  have hlives (last : Bool) : livesOf (coreOf s c) b last 1 = [] := by
    rw [livesOf, hreplay, ownLives, hwords]
    rfl
  have hk : (coreOf (setCore s c (enterWindow (countReplays (coreOf s c) b) b [])) c).seqStep = 0 := by
    rw [coreOf_setCore_same, (enterWindow_keeps ..).2.2]
    exact hseq
  have hx := executed_none (setCore s c (enterWindow (countReplays (coreOf s c) b) b [])) c b
  rw [runBundle]
  simp only [hseq, hlives, ne_eq, not_true_eq_false, if_false, hx, List.foldl_nil, recordOwn, List.filter_nil, hk]
  have hb : (if pageStopped { s := setCore s c (enterWindow (countReplays (coreOf s c) b) b []) } [] 11 = true then none
      else branchOf { s := setCore s c (enterWindow (countReplays (coreOf s c) b) b []) }) = none := rfl
  rw [hb, outcome, finish_stops]
  rfl

end

/-- R164. After its last execution the core stands at the next bundle, with nothing of its waits left. -/
theorem coreOf_finish_last (x : Exec) (c : Nat) {b : Bundle} (he : b.eos = false) :
    (coreOf (finish x c b true none).s c).waitUntil = none ∧ (coreOf (finish x c b true none).s c).pc = nextOf x.s c b.addr b.len := by
  have hf : (finish x c b true none).s =
      endBundle (modCore x.s c fun k => { k with pc := nextOf x.s c b.addr b.len }) c (nextOf x.s c b.addr b.len) := by
    simp [finish, he]
  rw [hf, endBundle, coreOf_modCore_same]
  exact ⟨rfl, rfl⟩

/-- R320. The time has come: a bundle without moves that has run its last execution leads to the next. -/
theorem timedWait_ends {s : State} {x : Word} {b : Bundle} (hw : (coreOf s s.arg.core).waitUntil = some x)
    (hm : (chronOf s (s.arg.core / 48) - x).msb = false) (hrun : (coreOf s s.arg.core).mode = .running)
    (hb : bundleAt { s with cur := s.arg.core } s.arg.core = .ok b) (hwords : b.words = []) (hmoves : b.moves = []) (hstick : b.stick = [])
    (hsync : b.sync = false) (hmark : b.mark = false) (heos : b.eos = false) (hre : (coreOf s s.arg.core).reopen = false)
    (hseq : (coreOf s s.arg.core).seqStep = 0) (hrep : b.rep ≤ (coreOf s s.arg.core).rep)
    (hcons : ∀ u ∈ (coreOf s s.arg.core).window, u.consumes = 0#4) : Gives .timedWaitExpiry s fun t =>
      (coreOf t s.arg.core).waitUntil = none ∧
        (coreOf t s.arg.core).pc = nextOf { s with cur := s.arg.core } s.arg.core b.addr b.len := by
  generalize hs' : { s with cur := s.arg.core } = s' at hb
  have hcur : s'.cur = s.arg.core := by rw [← hs']
  have hcore : coreOf s' s.arg.core = coreOf s s.arg.core := by rw [← hs']; rfl
  have hretired : needsRetired (coreOf s s.arg.core) b = false := by
    rw [needsRetired, hsync, hmark, hwords]
    simpa [List.any_eq_false] using hcons
  have hopens : opensRegion (coreOf s s.arg.core) b = false := by
    rw [opensRegion, hmark, hre]
    simp
  have hx : execBundleExecute s' = runBundle s' s.arg.core b := by
    simp only [execBundleExecute, hcur, hb, hretired, hopens, hmoves, hcore, hrun, ne_eq, not_true_eq_false, if_false, Bool.false_and,
      Bool.false_eq_true]
  have hrun' := runBundle_empty (s := s') (c := s.arg.core) (hcore ▸ hseq) hwords hstick
  rw [decide_eq_true (show (coreOf s' s.arg.core).rep ≥ b.rep from hcore ▸ hrep)] at hrun'
  obtain ⟨hwp, hrem, -⟩ := enterWindow_keeps (countReplays (coreOf s' s.arg.core) b) b []
  obtain ⟨hwait, hpc⟩ := coreOf_finish_last
    { s := setCore s' s.arg.core (enterWindow (countReplays (coreOf s' s.arg.core) b) b []) } s.arg.core heos
  refine ⟨_, (timedWait_over hw hm).trans (by rw [hs', hx]; exact hrun'), hwait, hpc.trans ?_⟩
  exact nextOf_setCore s' _ _ hwp hrem _ _

end Sys2Proof.Machine

namespace Sys2Proof.Machine

/-! ## Poisoned words (R15) -/

theorem mem_addWord (w x : Nat) (ws : List Nat) : x ∈ addWord w ws ↔ x = w ∨ x ∈ ws := by
  induction ws with
  | nil => simp [addWord]
  | cons y ws ih =>
    unfold addWord
    split
    · simp
    · split
      · next h => simp [h]
      · simp only [List.mem_cons, ih]
        exact or_left_comm

/-- A protected word is poisoned where it is listed. -/
theorem poisonIn_word (s : State) (w : Nat) : poisonIn s (8 * w) 8 = decide (w ∈ s.poisoned) := by
  rw [Bool.eq_iff_iff, poisonIn, List.any_eq_true, decide_eq_true_eq]
  constructor
  · rintro ⟨x, hx, h⟩
    rw [Bool.and_eq_true, decide_eq_true_eq, decide_eq_true_eq] at h
    have : x = w := by omega
    exact this ▸ hx
  · intro hw
    exact ⟨w, hw, by simp⟩

/-- R50. A word that is poisoned is listed with those that were. -/
theorem poisoned_poisonRange (s : State) (d : Nat) : (poisonRange s (d / 8 * 8) 8).poisoned = addWord (d / 8) s.poisoned := by
  have hspan : span (d / 8 * 8 / 8) ((d / 8 * 8 + 8 - 1) / 8 - d / 8 * 8 / 8 + 1) = [d / 8] := by
    rw [show d / 8 * 8 / 8 = d / 8 by omega, show (d / 8 * 8 + 8 - 1) / 8 - d / 8 + 1 = 1 by omega]
    rfl
  rw [poisonRange, if_neg (by decide)]
  show List.foldl _ _ _ = _
  rw [hspan]
  rfl

@[simp] theorem poisonRange_mem (s : State) (a n : Nat) : (poisonRange s a n).mem = s.mem := by
  unfold poisonRange
  split <;> rfl

@[simp] theorem poisonRange_mgmt (s : State) (a n : Nat) : (poisonRange s a n).mgmt = s.mgmt := by
  unfold poisonRange
  split <;> rfl

/-! ## ECC errors (R15, R198) -/

section
variable {s : State}

/-- The entry that an event leaves in the error log. -/
theorem getLast_logEvent (s : State) (cls die unit code addr launch detail : Nat) :
    ∃ e, (logEvent s cls die unit code addr launch detail).mgmt.log.getLast? = some e ∧ e.cls = cls ∧ e.die = die ∧ e.unit = unit ∧
      e.code = code ∧ e.addr = addr := ⟨_, List.getLast?_concat .., rfl, rfl, rfl, rfl, rfl⟩

theorem eccError_dram {d : Nat} (hp : s.arg.place = .dram d) : Gives .eccError s fun t => t.mem = s.mem ∧
    (∃ e, t.mgmt.log.getLast? = some e ∧ e.cls = (if s.arg.ok then 1 else 2) ∧ e.die = 8 + dpaDie d ∧ e.addr = d / 8 * 8 ∧
      e.code = if s.arg.ok then 0x103 else 0x203) ∧
    ∀ w, poisonIn t (8 * w) 8 = (poisonIn s (8 * w) 8 || (!s.arg.ok && decide (w = d / 8))) := by
  have hx : exec .eccError s = execEccError s := rfl
  simp only [execEccError, hp] at hx
  obtain ⟨e, he, hcls, hdie, -, hcode, haddr⟩ :=
    getLast_logEvent s (errorClass s.arg.ok) (8 + dpaDie d) 0 (errorCode s.arg.ok 3) (d / 8 * 8) 0 0
  cases hok : s.arg.ok
  · rw [hok] at hx hcls hcode he
    rw [if_neg (by decide)] at hx
    refine ⟨_, hx, poisonRange_mem .., ⟨e, ?_, hcls, hdie, haddr, hcode⟩, fun w => ?_⟩
    · rw [poisonRange_mgmt]
      exact he
    · rw [poisonIn_word, poisonIn_word, poisoned_poisonRange]
      show decide (w ∈ addWord (d / 8) s.poisoned) = _
      simp [mem_addWord, Bool.or_comm]
  · rw [hok] at hx hcls hcode he
    rw [if_pos rfl] at hx
    exact ⟨_, hx, rfl, ⟨e, he, hcls, hdie, haddr, hcode⟩, fun w => by simp [poisonIn, modHome, logEvent, emit]⟩

/-! ### Banks of a core's storage -/

theorem chartOf_setLineStates (k : Core) (l l' : Level) (m : Map LineState) : chartOf (setLineStates k l m) l' = chartOf k l' := by
  cases l <;> cases l' <;> rfl

theorem lineStates_setLineStates (k : Core) (l : Level) (m : Map LineState) : lineStates (setLineStates k l m) l = m := by
  cases l <;> rfl

/-- The lines of a bank. -/
theorem bankBytes_lines (l : Level) (b : Nat) : b * bankBytes l / 128 = b * (bankBytes l / 128) := by
  cases l <;> simp only [bankBytes] <;> omega

theorem eccError_bank {b : BankId} {line : Nat} (hp : s.arg.place = .bank b line) (hok : s.arg.ok = false)
    (hf : (chartOf (coreOf s b.core) b.level).failing.contains b.bank = true) : Gives .eccError s fun t => t.mem = s.mem ∧
      (∃ e, t.mgmt.log.getLast? = some e ∧ e.cls = 2 ∧ e.die = b.core / 48 ∧ e.unit = b.core % 48 ∧ e.code = 0x201) ∧
      Map.get (lineStates (coreOf t b.core) b.level) (b.bank * (bankBytes b.level / 128) + line) .full = .poison := by
  have hx : exec .eccError s = execEccError s := rfl
  simp only [execEccError, hp, hok, bankError, Bool.false_eq_true, if_false] at hx
  rw [bankFails, coreOf_modCore_same, chartOf_setLineStates, coreOf_logEvent, if_pos hf] at hx
  obtain ⟨e, he, hcls, hdie, hunit, hcode, -⟩ := getLast_logEvent s (errorClass false) (dieOf b.core) (coreNo b.core) (errorCode false 1) 0 0
    (storageDetail (levelCode b.level) b.bank line)
  refine ⟨_, hx, rfl, ⟨e, he, hcls, hdie, hunit, hcode⟩, ?_⟩
  rw [coreOf_modCore_same, lineStates_setLineStates, bankBytes_lines, Map.get_set_same]

/-! ### Banks of the memory-side cache -/

theorem failing_replaceBank (ch : Chart) (logical n p : Nat) : (replaceBank ch logical n p).failing = ch.failing := by
  unfold replaceBank
  dsimp only
  repeat' split
  all_goals rfl

theorem home_logEvent (s : State) (cls die unit code addr launch detail d : Nat) :
    home (logEvent s cls die unit code addr launch detail) d = home s d := rfl

theorem failing_cacheFails (s : State) (d : Nat) {b : Nat} (hb : b < Config.cachePhysical) :
    (home (cacheFails s d b) d).cacheChart.failing.contains b = true := by
  unfold cacheFails
  dsimp only
  split
  · next h =>
    rw [Bool.or_eq_true, decide_eq_true_eq] at h
    exact h.resolve_right (Nat.not_le.mpr hb)
  · rw [home_logEvent, home_modHome, if_pos rfl, failing_replaceBank]
    simp

theorem poisoned_cacheFails (s : State) (d b : Nat) : (cacheFails s d b).poisoned = s.poisoned := by
  unfold cacheFails
  dsimp only
  split <;> rfl

theorem eccError_cache_none {d b x : Nat} (hp : s.arg.place = .cache d b x) (hb : 200 ≤ b) : exec .eccError s = .next s := by
  show execEccError s = _
  simp only [execEccError, hp]
  rw [if_neg (show ¬b < Config.cachePhysical from Nat.not_lt.mpr hb)]

theorem eccError_cache {d b x : Nat} (hp : s.arg.place = .cache d b x) (hb : b < 200) (hok : s.arg.ok = false) :
    Gives .eccError s fun t => t.mem = s.mem ∧ poisonIn t (x / 8 * 8) 8 = true ∧
      (home t (d % 8)).cacheChart.failing.contains b = true := by
  have hb' : b < Config.cachePhysical := hb
  have hx : exec .eccError s = execEccError s := rfl
  simp only [execEccError, hp, hok, cacheError, Bool.false_eq_true, if_false, if_pos hb'] at hx
  refine ⟨_, hx, ?_, ?_, failing_cacheFails _ _ hb'⟩
  · show (State.memories _).1 = _
    rw [memories_cacheFails]
    exact poisonRange_mem ..
  · rw [Nat.mul_comm, poisonIn_word, poisoned_cacheFails, Nat.mul_comm, poisoned_poisonRange, decide_eq_true_eq, mem_addWord]
    exact .inl rfl

end

end Sys2Proof.Machine

namespace Sys2Proof.Machine

/-! ## Waypoints and commands found by their keys -/

/-- Elements changed in a list, their keys kept, are found as before. -/
theorem find_map_keyed {α β : Type} [DecidableEq β] (key : α → β) {f : α → α} (hf : ∀ x, key (f x) = key x) (l : List α) (b : β) :
    ((l.map f).find? fun x => key x = b) = (l.find? fun x => key x = b).map f := by
  rw [List.find?_map]
  exact congrArg (fun p => (l.find? p).map f) (funext fun x => by simp [hf x])

theorem key_ite_keyed {α β : Type} (key : α → β) {f : α → α} (hf : ∀ x, key (f x) = key x) (c : α → Prop) [DecidablePred c] (x : α) :
    key (if c x then f x else x) = key x := by
  split
  · exact hf x
  · rfl

/-- Of the elements with a key, the one found is changed. -/
theorem find_mod_same {α β : Type} [DecidableEq β] (key : α → β) {f : α → α} (hf : ∀ x, key (f x) = key x) (l : List α) (b : β) :
    ((l.map fun x => if key x = b then f x else x).find? fun x => key x = b) = (l.find? fun x => key x = b).map f := by
  rw [find_map_keyed key (key_ite_keyed key hf _)]
  cases h : l.find? fun x => key x = b with
  | none => rfl
  | some x => simp [show key x = b by simpa using List.find?_some h]

theorem findWp_modWp_same (s : State) (k : WpKey) {f : Waypoint → Waypoint} (hf : ∀ w, (f w).key = w.key) :
    findWp (modWp s k f) k = (findWp s k).map f := find_mod_same Waypoint.key hf s.waypoints k

theorem findCmd_modCmd_same (s : State) (id : Nat) {f : Cmd → Cmd} (hf : ∀ x, (f x).id = x.id) :
    findCmd (modCmd s id f) id = (findCmd s id).map f := find_mod_same Cmd.id hf s.cmds id

theorem findLaunch_modLaunch_same (s : State) (l : Nat) {f : Launch → Launch} (hf : ∀ x, (f x).id = x.id) :
    findLaunch (modLaunch s l f) l = (findLaunch s l).map f := find_mod_same Launch.id hf s.launches l

/-! ## Frames in device memory (R148) -/

/-- Bytes written inside a range leave every byte outside it. -/
theorem readByte_pieces {a n x : Nat} (hx : x < a ∨ a + n ≤ x) (ps : List FramePiece) (hp : ∀ p ∈ ps, p.1 + p.2.length ≤ n)
    (m : List Host.Cell) : readByte (ps.foldl (fun m p => writeBytes m (a + p.1) p.2) m) x = readByte m x := by
  induction ps generalizing m with
  | nil => rfl
  | cons p ps ih =>
    have := hp p (List.mem_cons_self ..)
    rw [List.foldl_cons, ih fun q hq => hp q (List.mem_cons_of_mem _ hq), readByte_writeBytes, if_neg (by omega)]

theorem readByte_writeFrame (s : State) (a : Nat) (ro : List Byte) (k : Core) {x : Nat} (hx : x < a ∨ a + Config.frameSize ≤ x) :
    readByte (writeFrame s a ro k).mem x = readByte s.mem x := by
  refine (readByte_pieces hx _ (fun p hp => ?_) _).trans ?_
  · simpa using (List.mem_filter.mp hp).2
  · rw [readByte_zeroRange, if_neg (by omega)]

section
variable {s : State} {key : WpKey} {w : Waypoint}

/-- R148. A saved frame is in the waypoint's record, which names its place; nothing else of device memory changes. -/
theorem putFrame_found (h : findWp s key = some w) (c : Option Nat) (k : Core) :
    ∃ a, findWp (putFrame s key c k) key = some { w with frame := some k, frameAt := some a } ∧
      ∀ x, (x < a ∨ a + Config.frameSize ≤ x) → readByte (putFrame s key c k).mem x = readByte s.mem x := by
  refine ⟨framePlace s w, ?_, fun x hx => ?_⟩
  · simp only [putFrame, h]
    refine (findWp_modWp_same s key (f := fun w' => { w' with frame := some k, frameAt := some (framePlace s w) }) fun _ => rfl).trans ?_
    rw [h]
    rfl
  · simp only [putFrame, h]
    exact readByte_writeFrame _ _ _ _ hx

end

/-- A frame saved changes neither a core, a launch nor a command. -/
theorem putFrame_frame (s : State) (key : WpKey) (c : Option Nat) (k : Core) :
    ∃ ws m p, putFrame s key c k = { s with waypoints := ws, mem := m, poisoned := p } := by
  unfold putFrame
  split
  · exact ⟨s.waypoints, s.mem, s.poisoned, rfl⟩
  · exact ⟨_, _, _, rfl⟩

/-! ## Commands that have begun -/

/-- Which of the commands in progress have begun. -/
def State.begun (s : State) : List Bool := s.cmds.map (·.begun)

theorem State.begun_iff {s : State} : (∀ y ∈ s.cmds, y.begun = true) ↔ ∀ b ∈ s.begun, b = true := by simp [State.begun]

theorem begun_map (s : State) {f : Cmd → Cmd} (hf : ∀ x, (f x).begun = x.begun) :
    ({ s with cmds := s.cmds.map f } : State).begun = s.begun := by
  simp only [State.begun, List.map_map]
  exact List.map_congr_left fun x _ => hf x

theorem begun_modCmd (s : State) (id : Nat) {f : Cmd → Cmd} (hf : ∀ x, (f x).begun = x.begun) : (modCmd s id f).begun = s.begun :=
  begun_map s (key_ite_keyed Cmd.begun hf _)

/-- No command waits to begin. -/
theorem beginHeld_begun {s : State} (h : ∀ b ∈ s.begun, b = true) : beginHeld s = s := by
  have : (s.cmds.filter fun c => !c.begun) = [] :=
    List.filter_eq_nil_iff.mpr fun y hy => by simp [State.begun_iff.mpr h y hy]
  rw [beginHeld, this]
  rfl

theorem cmds_serveOwed (s : State) (c : Nat) (l : Level) : (serveOwed s c l).cmds = s.cmds := by
  unfold serveOwed
  refine (foldl_keeps State.cmds (fun s (o : Nat × Nat) => ?_) _ _).trans (foldl_keeps State.cmds (fun s (o : Nat × Nat) => ?_) _ s)
  · split <;> rfl
  · split <;> rfl

theorem begun_releaseHandles (s : State) (c : Nat) (p : Nat → Handle → Bool) : (releaseHandles s c p).begun = s.begun := by
  unfold releaseHandles
  dsimp only
  split
  · rfl
  · rw [State.begun, cmds_serveOwed, cmds_serveOwed]
    exact begun_map s fun _ => rfl

theorem begun_discardWp (s : State) (k : WpKey) : (discardWp s k).begun = s.begun := by
  have h : (releaseAll s k).begun = s.begun := foldl_keeps State.begun (fun s c => begun_releaseHandles s c _) _ s
  unfold discardWp noteEmpty
  dsimp only
  repeat' split
  all_goals exact h

theorem begun_settleFreed (s : State) (k : WpKey) : (settleFreed s k).begun = s.begun := by
  unfold settleFreed
  split
  · exact begun_discardWp s k
  · rfl

theorem begun_poisonUnfilled (s : State) (x : Cmd) : (poisonUnfilled s x).begun = s.begun :=
  foldl_keeps State.begun (fun s (u : Nat × Nat × Nat) => by
    refine (begun_modCmd _ _ ?_).trans ?_
    · exact fun x => rfl
    · split <;> rfl) _ s

/-! ### A core's mode while lines settle and commands go -/

theorem mode_modCore (s : State) (c c' : Nat) {f : Core → Core} (hf : ∀ k, (f k).mode = k.mode) :
    (coreOf (modCore s c f) c').mode = (coreOf s c').mode := by
  rw [coreOf_modCore]
  split
  · next h => rw [hf, h]
  · rfl

theorem mode_setLine (k : Core) (h : Handle) (line : Nat) (st : LineState) : (setLine k h line st).mode = k.mode := by
  obtain ⟨_, l, _, _⟩ := h
  cases l <;> rfl

theorem mode_poisonUnfilled (s : State) (x : Cmd) (c : Nat) : (coreOf (poisonUnfilled s x) c).mode = (coreOf s c).mode :=
  foldl_keeps (fun s => (coreOf s c).mode) (fun s (u : Nat × Nat × Nat) => by
    show (coreOf (match handleOf s u.1 u.2.1 with
      | some hd => modCore s u.1 fun k => setLine k hd u.2.2 .poison
      | none => s) c).mode = _
    split
    · exact mode_modCore s _ c fun k => mode_setLine ..
    · rfl) _ s

/-- R381. A command gone frees tiles, and leaves the rest of every core. -/
theorem coreOf_dropCmd (s : State) (id c : Nat) : ∃ r, coreOf (dropCmd s id) c = { coreOf s c with reserved := r } := by
  have h : (dropCmd s id).cores = s.cores ∨ (dropCmd s id).cores =
      s.cores.map fun e => (e.1, { e.2 with reserved := e.2.reserved.filter fun r => r.2.2 ≠ id }) := by
    unfold dropCmd
    dsimp only
    repeat' split
    · exact .inr rfl
    · exact .inl rfl
    · exact .inl rfl
  rcases h with h | h
  · exact ⟨(coreOf s c).reserved, by rw [coreOf, h]; rfl⟩
  · refine ⟨(coreOf s c).reserved.filter fun r => r.2.2 ≠ id, ?_⟩
    rw [coreOf, h]
    exact Map.get_map s.cores (fun _ k => { k with reserved := k.reserved.filter fun r => r.2.2 ≠ id }) rfl

end Sys2Proof.Machine

namespace Sys2Proof.Machine

/-! ## A core that leaves its waypoint FAULTED (R188, R190) -/

theorem coreOf_noteEmpty (s : State) (d c : Nat) : coreOf (noteEmpty s d) c = coreOf s c := by
  unfold noteEmpty
  split <;> rfl

theorem unhoused_discardWp (s : State) (key : WpKey) (c : Nat) : (coreOf (discardWp s key) c).unhoused = (coreOf s c).unhoused := by
  unfold discardWp
  dsimp only
  split
  · split
    · rw [coreOf_noteEmpty]
      exact unhoused_releaseAll s key c
    · exact unhoused_releaseAll s key c
  · exact unhoused_releaseAll s key c

theorem unhoused_settleFreed (s : State) (key : WpKey) (c : Nat) :
    (coreOf (settleFreed s key) c).unhoused = (coreOf s c).unhoused := by
  unfold settleFreed
  split
  · exact unhoused_discardWp s key c
  · rfl

theorem sameButRetired_name (k : Core) : ∃ e p fl w, nameBoundary k =
    { k with empty := e, pends := p, flg := fl, window := w, rpi := BitVec.ofNat 64 (retireAll k).rep,
             mxs := BitVec.ofNat 64 (retireAll k).seqStep, seqStep := 0 } := by
  obtain ⟨e, p, fl, w, h⟩ := sameButRetired_all k
  exact ⟨e, p, fl, w, by rw [nameBoundary, h]⟩

/-- R188. Core c stops between bundles, its frame is saved and the core freed; f is what its waypoint's record takes. -/
def leftFaulted (s : State) (c : Nat) (f : Waypoint → Waypoint) : State :=
  let wp := (coreOf s c).wp
  settleFreed (freeCore (putFrame (modWp (modCore s c nameBoundary) wp f) wp (some c) (frameOf (nameBoundary (coreOf s c)))) c) wp

/-- R188, R190. What the record of a waypoint takes that faults at a bundle: FAULTED, its RESUME, and the fault of a handler run to
come. -/
def TakesFault (f : Waypoint → Waypoint) (code : BitVec 16) (info : Word) (at_ : Nat) : Prop :=
  ∀ w, (f w).key = w.key ∧ (f w).state = .faulted ∧ (f w).resume = at_ ∧
    (f w).fault = some { code := code, info := info, addr := at_, handlerRun := true }

theorem takeAsync_leaves {s s0 : State} {c : Nat} {code : BitVec 16} {info : Word} {older : Bool}
    (h0 : (if isMachineCheck code then quarantine s c code info else s) = s0) (hreg : (coreOf s0 c).region = none)
    (hhm : (coreOf s0 c).hm = false) (htr : (coreLaunch s0 c).traph ≠ 0) :
    ∃ f, takeAsync s c code info older = leftFaulted s0 c f ∧ TakesFault f code info (coreOf s0 c).pc := by
  obtain ⟨e, p, fl, w, hn⟩ := sameButRetired_name (coreOf s0 c)
  have hpc : (nameBoundary (coreOf s0 c)).pc = (coreOf s0 c).pc := by rw [hn]
  unfold takeAsync
  simp only [h0, hreg, hhm, Option.isSome_none, Bool.false_and, Bool.and_false, Bool.false_eq_true, if_false, htr, decide_false,
    Bool.false_or, coreOf_modCore_same]
  refine ⟨_, rfl, fun w => ?_⟩
  rw [hpc]
  unfold pinTo
  dsimp only
  split <;> exact ⟨rfl, rfl, rfl, rfl⟩

section
variable {s : State} {c : Nat} {f : Waypoint → Waypoint}

theorem coreOf_putFrame (s : State) (key : WpKey) (o : Option Nat) (k : Core) (c : Nat) : coreOf (putFrame s key o k) c = coreOf s c := by
  obtain ⟨ws, m, p, h⟩ := putFrame_frame s key o k
  rw [h]
  rfl

theorem launchOf_of_outline {s t : State} (h : t.outline = s.outline) (l : Nat) : launchOf t l = launchOf s l := by
  rw [launchOf, findLaunch, launches_of_outline h]
  rfl

theorem findWp_of_outline {s t : State} (h : t.outline = s.outline) (key : WpKey) : findWp t key = findWp s key := by
  rw [findWp, waypoints_of_outline h]
  rfl

theorem launchOf_putFrame (s : State) (key : WpKey) (o : Option Nat) (k : Core) (l : Nat) :
    launchOf (putFrame s key o k) l = launchOf s l := by
  obtain ⟨ws, m, p, h⟩ := putFrame_frame s key o k
  rw [h]
  rfl

theorem findWp_discardWp (s : State) (key : WpKey) : findWp (discardWp s key) key = none := by
  have h : (discardWp s key).waypoints = (releaseAll s key).waypoints.filter fun w => w.key ≠ key := by
    unfold discardWp noteEmpty
    dsimp only
    repeat' split
    all_goals rfl
  rw [findWp, h]
  simp

theorem mode_leftFaulted : (coreOf (leftFaulted s c f) c).mode = .idle := by
  rw [leftFaulted, Core.of_unhoused (unhoused_settleFreed ..) Core.mode, mode_freeCore, if_pos rfl]

theorem quarantined_leftFaulted : (coreOf (leftFaulted s c f) c).quarantined = (coreOf s c).quarantined := by
  obtain ⟨e, p, fl, w, hn⟩ := sameButRetired_name (coreOf s c)
  rw [leftFaulted, Core.of_unhoused (unhoused_settleFreed ..) Core.quarantined, quarantined_freeCore, coreOf_putFrame]
  show (coreOf (modCore s c nameBoundary) c).quarantined = _
  rw [coreOf_modCore_same, hn]

theorem begun_leftFaulted : (leftFaulted s c f).begun = s.begun := by
  rw [leftFaulted, begun_settleFreed, State.begun, cmds_freeCore]
  obtain ⟨ws, m, p, h⟩ := putFrame_frame (modWp (modCore s c nameBoundary) (coreOf s c).wp f) (coreOf s c).wp (some c)
    (frameOf (nameBoundary (coreOf s c)))
  rw [h]
  rfl

/-- The launch of the waypoint that a core leaves is as it was. -/
theorem ending_left (key : WpKey) (o : Option Nat) (k : Core) (l : Nat) :
    launchOf (freeCore (putFrame (modWp (modCore s c nameBoundary) key f) key o k) c) l = launchOf s l := by
  rw [launchOf_of_outline (outline_freeCore ..), launchOf_putFrame]
  rfl

/-- R115. The waypoint of a launch that has ended is discarded. -/
theorem findWp_leftFaulted_ended (he : (launchOf s (coreOf s c).wp.launch).ending ≠ .running) :
    findWp (leftFaulted s c f) (coreOf s c).wp = none := by
  rw [leftFaulted, settleFreed, ending_left, if_pos he]
  exact findWp_discardWp _ _

theorem findWp_leftFaulted (he : (launchOf s (coreOf s c).wp.launch).ending = .running) : findWp (leftFaulted s c f) (coreOf s c).wp =
    (findWp (putFrame (modWp (modCore s c nameBoundary) (coreOf s c).wp f) (coreOf s c).wp (some c)
      (frameOf (nameBoundary (coreOf s c)))) (coreOf s c).wp).map fun w => { w with preempt := false } := by
  rw [leftFaulted, settleFreed, ending_left, if_neg (not_not_intro he)]
  refine (findWp_modWp_same _ _ (f := fun w => { w with preempt := false }) fun _ => rfl).trans ?_
  rw [findWp_of_outline (outline_freeCore ..)]

/-- R148. Otherwise its record has the frame, and device memory is as it was outside it. -/
theorem findWp_leftFaulted_running {w : Waypoint} (hf : ∀ w, (f w).key = w.key) (hw : findWp s (coreOf s c).wp = some w)
    (he : (launchOf s (coreOf s c).wp.launch).ending = .running) :
    ∃ k a, findWp (leftFaulted s c f) (coreOf s c).wp = some { f w with frame := some k, frameAt := some a, preempt := false } ∧
      ∀ x, (x < a ∨ a + Config.frameSize ≤ x) → readByte (leftFaulted s c f).mem x = readByte s.mem x := by
  have hw' : findWp (modWp (modCore s c nameBoundary) (coreOf s c).wp f) (coreOf s c).wp = some (f w) :=
    (findWp_modWp_same _ _ hf).trans (congrArg (Option.map f) hw)
  obtain ⟨a, hfound, hmem⟩ := putFrame_found hw' (some c) (frameOf (nameBoundary (coreOf s c)))
  refine ⟨frameOf (nameBoundary (coreOf s c)), a, ?_, fun x hx => ?_⟩
  · rw [findWp_leftFaulted he, hfound]
    rfl
  · rw [leftFaulted, settleFreed, ending_left, if_neg (not_not_intro he)]
    have : (freeCore (putFrame (modWp (modCore s c nameBoundary) (coreOf s c).wp f) (coreOf s c).wp (some c)
        (frameOf (nameBoundary (coreOf s c)))) c).mem = _ := congrArg Prod.fst (memories_freeCore ..)
    rw [modWp_mem, this]
    exact hmem x hx

theorem frameOnly_leftFaulted (hf : ∀ w, (f w).key = w.key) : FrameOnly s (leftFaulted s c f) (coreOf s c).wp := by
  intro y hy
  by_cases he : (launchOf s (coreOf s c).wp.launch).ending = .running
  · cases hw : findWp s (coreOf s c).wp with
    | none =>
      have hw' : findWp (modWp (modCore s c nameBoundary) (coreOf s c).wp f) (coreOf s c).wp = none :=
        (findWp_modWp_same _ _ hf).trans (congrArg (Option.map f) hw)
      have hp : findWp (putFrame (modWp (modCore s c nameBoundary) (coreOf s c).wp f) (coreOf s c).wp (some c)
          (frameOf (nameBoundary (coreOf s c)))) (coreOf s c).wp = none := by
        simp only [putFrame, hw']
      rw [findWp_leftFaulted he, hp] at hy
      cases hy
    | some w =>
      obtain ⟨k, a, hfound, hmem⟩ := findWp_leftFaulted_running hf hw he
      obtain rfl := Option.some.inj (hfound.symm.trans hy)
      exact ⟨fun h => by simp at h, fun b hb => by obtain rfl := Option.some.inj hb; exact hmem⟩
  · rw [findWp_leftFaulted_ended he] at hy
    cases hy

end

/-! ## A machine check of a register (R155, R188) -/

theorem launches_sightTrigger (s : State) (at_ cause : Nat) : (sightTrigger s at_ cause).launches = s.launches := by
  unfold sightTrigger missTrigger
  repeat' split
  all_goals rfl

theorem cores_sightTrigger (s : State) (at_ cause : Nat) : (sightTrigger s at_ cause).cores = s.cores := by
  unfold sightTrigger missTrigger
  repeat' split
  all_goals rfl

/-- R155. A core that meets a machine check is quarantined; its state is as it was otherwise, and so are the launches and the
memories. -/
theorem quarantine_parts (s : State) (c : Nat) (code : BitVec 16) (info : Word) :
    coreOf (quarantine s c code info) c = { coreOf s c with quarantined := true } ∧
      (quarantine s c code info).launches = s.launches ∧ (quarantine s c code info).mem = s.mem := by
  have hc : (machineCheckSighting s).cores = s.cores := by
    unfold machineCheckSighting
    split
    · exact cores_sightTrigger ..
    · rfl
  have hl : (machineCheckSighting s).launches = s.launches := by
    unfold machineCheckSighting
    split
    · exact launches_sightTrigger ..
    · rfl
  have hm : (machineCheckSighting s).mem = s.mem := by
    unfold machineCheckSighting
    split
    · exact congrArg Prod.fst (memories_sightTrigger ..)
    · rfl
  refine ⟨?_, hl, hm⟩
  unfold quarantine
  dsimp only
  rw [coreOf, modDisp_cores]
  refine (coreOf_modCore_same _ c _).trans ?_
  rw [coreOf_logEvent, coreOf, hc]
  rfl

theorem FrameOnly.of_mem {s s' t : State} {key : WpKey} (h : FrameOnly s' t key) (hm : s'.mem = s.mem) : FrameOnly s t key := by
  rw [FrameOnly, ← hm]
  exact h

theorem eccError_vreg {s : State} {c r : Nat} (hp : s.arg.place = .vreg c r) (hok : s.arg.ok = false)
    (hm : (coreOf s c).mode = .running) (hhm : (coreOf s c).hm = false) (hreg : (coreOf s c).region = none)
    (htr : (coreLaunch s c).traph ≠ 0) : Gives .eccError s fun t =>
      (coreOf t c).quarantined = true ∧ (coreOf t c).mode = .idle ∧ FrameOnly s t (coreOf s c).wp := by
  have hx : exec .eccError s = execEccError s := rfl
  simp only [execEccError, hp, hok, regError, Bool.false_eq_true, if_false] at hx
  generalize hs1 : regFails (logEvent s _ _ _ _ _ _ _) c _ = s1 at hx
  have hcore : (coreOf s1 c).unhoused = (coreOf s c).unhoused := by rw [← hs1, unhoused_regFails, coreOf_logEvent]
  have hl : s1.launches = s.launches := by rw [← hs1]; exact launches_of_outline (by simp)
  have hmem : s1.mem = s.mem := by rw [← hs1]; exact congrArg Prod.fst (memories_regFails ..)
  have hmode : (coreOf s1 c).mode = .running := (Core.of_unhoused hcore Core.mode).trans hm
  obtain ⟨hq, hql, hqm⟩ := quarantine_parts s1 c tcRegUncorrectable (BitVec.ofNat 64 (0x40 + r % 64))
  have hwp : (coreOf (quarantine s1 c tcRegUncorrectable (BitVec.ofNat 64 (0x40 + r % 64))) c).wp = (coreOf s c).wp := by
    rw [hq]
    exact Core.of_unhoused hcore Core.wp
  obtain ⟨f, ht, hf⟩ := takeAsync_leaves (s := s1) (c := c) (older := false) (code := tcRegUncorrectable)
    (info := BitVec.ofNat 64 (0x40 + r % 64)) (if_pos (by decide))
    (by rw [hq]; exact (Core.of_unhoused hcore Core.region).trans hreg) (by rw [hq]; exact (Core.of_unhoused hcore Core.hm).trans hhm)
    (by rw [coreLaunch, hwp, launchOf, findLaunch, hql, hl]; exact htr)
  rw [regCheck, if_pos hmode, ht] at hx
  refine ⟨_, hx, ?_, mode_leftFaulted, ?_⟩
  · rw [quarantined_leftFaulted, hq]
  · rw [← hwp]
    exact (frameOnly_leftFaulted fun w => (hf w).1).of_mem (hqm.trans hmem)

/-! ## The fault of a command (R149, R188) -/

theorem begun_dropCmd {s : State} (id : Nat) (h : ∀ y ∈ s.cmds, y.begun = true) : ∀ y ∈ (dropCmd s id).cmds, y.begun = true := by
  have hc : (dropCmd s id).cmds = s.cmds.filter fun c => c.id ≠ id := by
    unfold dropCmd
    dsimp only
    repeat' split
    all_goals rfl
  rw [hc]
  exact fun y hy => h y (List.mem_of_mem_filter hy)

theorem findCmd_dropCmd (s : State) (id : Nat) : findCmd (dropCmd s id) id = none := by
  simp [findCmd, dropCmd]

/-- A command cancelled is gone; where every other had begun, its waypoint and the modes of the cores are as they were. -/
theorem cancelCmd_parts {s : State} (x : Cmd) (h : ∀ b ∈ s.begun, b = true) : findCmd (cancelCmd s x) x.id = none ∧
    (cancelCmd s x).outline = s.outline ∧ ∀ c, (coreOf (cancelCmd s x) c).mode = (coreOf s c).mode := by
  generalize hg : (fun g : Engine => { g with reqs := g.reqs.filter fun r => r.cmd ≠ x.id }) = g
  have hp : ∀ y ∈ (modEngine (poisonUnfilled s x) (engineOf x.core) g).cmds, y.begun = true :=
    State.begun_iff.mpr ((begun_poisonUnfilled s x).symm ▸ h)
  have hx : cancelCmd s x = dropCmd (modEngine (poisonUnfilled s x) (engineOf x.core) g) x.id := by
    rw [← hg] at hp ⊢
    exact beginHeld_begun (State.begun_iff.mp (begun_dropCmd _ hp))
  rw [hx]
  refine ⟨findCmd_dropCmd .., by simp, fun c => ?_⟩
  obtain ⟨r, hr⟩ := coreOf_dropCmd (modEngine (poisonUnfilled s x) (engineOf x.core) g) x.id c
  rw [hr]
  exact mode_poisonUnfilled s x c

theorem isMachineCheck_if {α : Type} {code : BitVec 16} (h : isMachineCheck code = false) (a b : α) :
    (if isMachineCheck code then a else b) = b := if_neg (by rw [h]; decide)

theorem asyncFault_ends {s : State} {x : Cmd} {code : BitVec 16} {info : Word} {c : Nat} {w : Waypoint}
    (hx : findCmd s s.arg.index = some x) (hfault : x.fault = some (code, info)) (hmc : isMachineCheck code = false)
    (hheld : heldByCore s x.wp = some c) (hwp : (coreOf s c).wp = x.wp) (hm : (coreOf s c).mode = .running)
    (hhm : (coreOf s c).hm = false) (hreg : (coreOf s c).region = none) (hw : findWp s x.wp = some w)
    (htr : (launchOf s x.wp.launch).traph ≠ 0) (hbegun : ∀ y ∈ s.cmds, y.begun = true) : Gives .asyncFault s fun t =>
      findCmd t x.id = none ∧ (coreOf t c).mode = .idle ∧ ((launchOf s x.wp.launch).ending ≠ .running → findWp t x.wp = none) ∧
      ((launchOf s x.wp.launch).ending = .running → ∃ w', findWp t x.wp = some w' ∧ w'.state = .faulted ∧
        w'.resume = (coreOf s c).pc ∧ ∃ f, w'.fault = some f ∧ f.code = code ∧ f.info = info ∧ f.handlerRun = true) := by
  have he : exec .asyncFault s = execAsyncFault s := rfl
  simp only [execAsyncFault, hx, hfault, hheld, hm, ne_eq, not_true_eq_false, decide_false, Bool.false_and, Bool.false_eq_true,
    if_false] at he
  obtain ⟨f, ht, hf⟩ := takeAsync_leaves (info := info)
    (older := !(coreOf s c).region.elim false fun r => r.tag = x.tag && x.tag ≠ 0)
    (isMachineCheck_if hmc (quarantine s c code info) s) hreg hhm (by rw [coreLaunch, hwp]; exact htr)
  have hb : ∀ b ∈ (leftFaulted s c f).begun, b = true := by
    rw [begun_leftFaulted]
    exact State.begun_iff.mp hbegun
  obtain ⟨t, hte, hgone, ho, hmode⟩ : ∃ t, exec .asyncFault s = .next t ∧ findCmd t x.id = none ∧
      t.outline = (leftFaulted s c f).outline ∧ (coreOf t c).mode = (coreOf (leftFaulted s c f) c).mode := by
    rw [ht] at he
    cases hy : findCmd (leftFaulted s c f) x.id with
    | none =>
      simp only [hy] at he
      exact ⟨_, he, hy, rfl, rfl⟩
    | some y =>
      simp only [hy] at he
      have hyid : y.id = x.id := by simpa using List.find?_some hy
      obtain ⟨h1, h2, h3⟩ := cancelCmd_parts y hb
      exact ⟨_, he, hyid ▸ h1, h2, h3 c⟩
  refine ⟨t, hte, hgone, hmode.trans mode_leftFaulted, fun hend => ?_, fun hend => ?_⟩
  · rw [findWp_of_outline ho, ← hwp]
    exact findWp_leftFaulted_ended (hwp ▸ hend)
  · obtain ⟨k, a, hfound, -⟩ := findWp_leftFaulted_running (fun w => (hf w).1) (hwp ▸ hw) (hwp ▸ hend)
    obtain ⟨-, hstate, hres, hflt⟩ := hf w
    rw [hwp, ← findWp_of_outline ho] at hfound
    exact ⟨_, hfound, hstate, hres, _, hflt, rfl, rfl, rfl⟩

end Sys2Proof.Machine

namespace Sys2Proof.Machine

/-! ## A bank on its way (R200) -/

section
variable (k : Core) (l : Level)

theorem storage_setStorage (m : List Host.Cell) : storage (setStorage k l m) l = m := by cases l <;> rfl
theorem storage_setLineStates (m : Map LineState) : storage (setLineStates k l m) l = storage k l := by cases l <;> rfl
theorem storage_setChart (ch : Chart) : storage (setChart k l ch) l = storage k l := by cases l <;> rfl
theorem lineStates_setStorage (m : List Host.Cell) : lineStates (setStorage k l m) l = lineStates k l := by cases l <;> rfl
theorem lineStates_setChart (ch : Chart) : lineStates (setChart k l ch) l = lineStates k l := by cases l <;> rfl
theorem chartOf_setStorage (m : List Host.Cell) : chartOf (setStorage k l m) l = chartOf k l := by cases l <;> rfl
theorem chartOf_setChart (ch : Chart) : chartOf (setChart k l ch) l = ch := by cases l <;> rfl

end

/-- The line that starts at a byte of a bank. -/
theorem line_of_byte (l : Level) (b i : Nat) : (b * bankBytes l + 128 * i) / 128 = b * (bankBytes l / 128) + i := by
  cases l <;> simp only [bankBytes] <;> omega

section
variable (k : Core) (l : Level) (e : Evac)

/-- R200. The line at the pointer is copied; every other byte of the storage is as it was. -/
theorem storage_moveLine (x : Nat) : readByte (storage (moveLine k l e) l) x =
    if e.dst * bankBytes l + 128 * e.ptr ≤ x ∧ x < e.dst * bankBytes l + 128 * e.ptr + 128
    then readByte (storage k l) (e.src * bankBytes l + 128 * e.ptr + (x - (e.dst * bankBytes l + 128 * e.ptr)))
    else readByte (storage k l) x := by
  unfold moveLine
  dsimp only
  rw [storage_setChart, storage_setLineStates, storage_setStorage, readByte_writeBytes, length_readBytes]
  by_cases h : e.dst * bankBytes l + 128 * e.ptr ≤ x ∧ x < e.dst * bankBytes l + 128 * e.ptr + 128
  · rw [if_pos h, if_pos h, getD_readBytes _ _ (by omega)]
  · rw [if_neg h, if_neg h]

theorem lineStates_moveLine : Map.get (lineStates (moveLine k l e) l) ((e.dst * bankBytes l + 128 * e.ptr) / 128) .full =
    Map.get (lineStates k l) ((e.src * bankBytes l + 128 * e.ptr) / 128) .full := by
  unfold moveLine
  dsimp only
  rw [lineStates_setChart, lineStates_setLineStates, lineStates_setStorage, line_of_byte, line_of_byte]
  split
  · next h => rw [Map.get_erase, if_pos rfl, h]
  · rw [Map.get_set_same]

theorem chartOf_moveLine : chartOf (moveLine k l e) l =
    { chartOf k l with evacs := (chartOf k l).evacs.map fun x => if x = e then { e with ptr := e.ptr + 1 } else x } := by
  unfold moveLine
  dsimp only
  rw [chartOf_setChart, chartOf_setLineStates, chartOf_setStorage]

end

section
variable {s : State} {e : Evac} (he : (chartOf (coreOf s s.arg.core) s.arg.level).evacs.find? (fun e => e.logical = s.arg.index) = some e)
include he

theorem chartLineMove_moves (h : 128 * (e.ptr + 1) < bankBytes s.arg.level) : Gives .chartLineMove s fun t => OnlyCore s.arg.core s t ∧
    (∀ j, j < 128 → readByte (storage (coreOf t s.arg.core) s.arg.level) (e.dst * bankBytes s.arg.level + 128 * e.ptr + j) =
      readByte (storage (coreOf s s.arg.core) s.arg.level) (e.src * bankBytes s.arg.level + 128 * e.ptr + j)) ∧
    (∀ x, x < e.dst * bankBytes s.arg.level + 128 * e.ptr ∨ e.dst * bankBytes s.arg.level + 128 * e.ptr + 128 ≤ x →
      readByte (storage (coreOf t s.arg.core) s.arg.level) x = readByte (storage (coreOf s s.arg.core) s.arg.level) x) ∧
    Map.get (lineStates (coreOf t s.arg.core) s.arg.level) ((e.dst * bankBytes s.arg.level + 128 * e.ptr) / 128) .full =
      Map.get (lineStates (coreOf s s.arg.core) s.arg.level) ((e.src * bankBytes s.arg.level + 128 * e.ptr) / 128) .full ∧
    (chartOf (coreOf t s.arg.core) s.arg.level).evacs =
      (chartOf (coreOf s s.arg.core) s.arg.level).evacs.map fun x => if x = e then { e with ptr := e.ptr + 1 } else x := by
  have hx : exec .chartLineMove s = execChartLineMove s := rfl
  simp only [execChartLineMove, he, if_neg (show ¬128 * (e.ptr + 1) ≥ bankBytes s.arg.level from Nat.not_le.mpr h)] at hx
  refine ⟨_, hx, modCore_only .., ?_⟩
  rw [coreOf_modCore_same]
  refine ⟨fun j hj => ?_, fun x hx => ?_, lineStates_moveLine .., ?_⟩
  · rw [storage_moveLine, if_pos (by omega), Nat.add_sub_cancel_left]
  · rw [storage_moveLine, if_neg (by omega)]
  · rw [chartOf_moveLine]

theorem chartLineMove_flips (h : bankBytes s.arg.level ≤ 128 * (e.ptr + 1)) (hfall : e.fall = false)
    (hfail : (chartOf (coreOf s s.arg.core) s.arg.level).failing.contains e.dst = false) : Gives .chartLineMove s fun t =>
      (chartOf (coreOf t s.arg.core) s.arg.level).phys s.arg.index = e.dst ∧
        e.src ∈ (chartOf (coreOf t s.arg.core) s.arg.level).retired ∧ t.mem = s.mem := by
  have hlog : e.logical = s.arg.index := by simpa using List.find?_some he
  have hx : exec .chartLineMove s = execChartLineMove s := rfl
  simp only [execChartLineMove, he, if_pos (show 128 * (e.ptr + 1) ≥ bankBytes s.arg.level from h), flipBank, hfall, Bool.false_eq_true,
    if_false, coreOf_logRetired, modChart, coreOf_modCore_same, chartOf_setChart, chartOf_moveLine, hfail] at hx
  refine ⟨_, hx, ?_, ?_, rfl⟩
  · rw [coreOf_logRetired, coreOf_modCore_same, chartOf_setChart, Chart.phys, hlog, Map.get_set_same]
  · rw [coreOf_logRetired, coreOf_modCore_same, chartOf_setChart]
    simp

end

end Sys2Proof.Machine

namespace Sys2Proof

/-- The key of the first entry for which p holds, the value at that key changed so that p goes on to hold of it. -/
theorem Map.find_key_set {α : Type} (p : Nat × α → Bool) {c : Nat} {d v : α} (m : Map α) (h : (m.find? p).map Prod.fst = some c)
    (hv : p (c, Map.get m c d) = true → p (c, v) = true) : ((Map.set m c v).find? p).map Prod.fst = some c := by
  induction m with
  | nil => cases h
  | cons e t ih =>
    obtain ⟨i, a⟩ := e
    unfold Map.set
    split
    · cases hp : p (c, v)
      · rw [List.find?_cons, hp]
        exact h
      · rw [List.find?_cons, hp]
        rfl
    · split
      · next hc =>
        subst hc
        cases hp : p (c, v)
        · have hpa : p (c, a) = false := by simpa [Map.get, hp] using hv
          rw [List.find?_cons, hpa] at h
          rw [List.find?_cons, hp]
          exact h
        · rw [List.find?_cons, hp]
          rfl
      · next hc =>
        rw [List.find?_cons] at h ⊢
        cases hp : p (i, a)
        · rw [hp] at h
          refine ih h ?_
          rwa [Map.get, if_neg (Ne.symm hc)] at hv
        · rw [hp] at h
          exact h

namespace Machine

/-! ## A command completes (R204) -/

/-- A waypoint's core goes on holding it when neither its mode nor its waypoint changes. -/
theorem heldByCore_modCore {s : State} {key : WpKey} {c : Nat} {f : Core → Core} (h : heldByCore s key = some c)
    (hf : ∀ k, (f k).mode = k.mode ∧ (f k).wp = k.wp) : heldByCore (modCore s c f) key = some c :=
  Map.find_key_set (d := {}) _ s.cores h fun hp => by
    obtain ⟨hm, hw⟩ := hf (coreOf s c)
    rw [hm, hw]
    exact hp

/-- The status that a counter notes: one bit from 24 on. -/
theorem getLsbD_statusBit (st i : Nat) (hi : i < 32) : (if st = 0 then 0#32 else 1#32 <<< (23 + st)).getLsbD i =
    decide (st ≠ 0 ∧ i = 23 + st) := by
  split
  · next h => simp [h]
  · next h =>
    simp only [BitVec.getLsbD_shiftLeft, BitVec.getLsbD_one, hi, h, decide_true, Bool.true_and, ne_eq, not_false_eq_true, true_and]
    rw [Bool.eq_iff_iff]
    simp only [Bool.and_eq_true, Bool.not_eq_true', decide_eq_false_iff_not, decide_eq_true_eq]
    omega

/-- R204. A counter counts the completion in its low bits, and notes the status in bits 24 on. -/
theorem addHeld_one (m : Map (BitVec 32)) (n st : Nat) :
    (Map.get (addHeld m [(n, st)]) n 0#32).extractLsb' 0 24 = (Map.get m n 0#32).extractLsb' 0 24 + 1#24 ∧
      ∀ i, i < 8 → (Map.get (addHeld m [(n, st)]) n 0#32).getLsbD (24 + i) =
        ((Map.get m n 0#32).getLsbD (24 + i) || decide (st = i + 1)) := by
  have hget : Map.get (addHeld m [(n, st)]) n 0#32 = ((Map.get m n 0#32 &&& 0xFF000000#32) ||| ((Map.get m n 0#32 + 1) &&& 0xFFFFFF#32)) |||
      (if st = 0 then 0#32 else 1#32 <<< (23 + st)) := by
    rw [addHeld, List.foldl_cons, List.foldl_nil, Map.get_update, if_pos rfl]
    rfl
  have hlow : ∀ i, i < 24 → (0xFF000000#32).getLsbD i = false ∧ (0xFFFFFF#32).getLsbD i = true := by decide
  have hhigh : ∀ i, i < 8 → (0xFF000000#32).getLsbD (24 + i) = true ∧ (0xFFFFFF#32).getLsbD (24 + i) = false := by decide
  rw [hget]
  generalize Map.get m n 0#32 = x
  constructor
  · have hadd : x.extractLsb' 0 24 + 1#24 = (x + 1).extractLsb' 0 24 := by
      refine BitVec.eq_of_toNat_eq ?_
      simp only [BitVec.toNat_add, BitVec.extractLsb'_toNat, BitVec.toNat_ofNat, Nat.shiftRight_zero, BitVec.ofNat_eq_ofNat]
      omega
    rw [hadd]
    refine BitVec.eq_of_getLsbD_eq fun i hi => ?_
    have hst : ¬(st ≠ 0 ∧ i = 23 + st) := by omega
    simp only [BitVec.getLsbD_extractLsb', hi, decide_true, Bool.true_and, Nat.zero_add, BitVec.getLsbD_or, BitVec.getLsbD_and,
      (hlow i hi).1, (hlow i hi).2, Bool.and_false, Bool.false_or, Bool.and_true, getLsbD_statusBit st i (by omega), hst, decide_false,
      Bool.or_false]
  · intro i hi
    have hst : (st ≠ 0 ∧ 24 + i = 23 + st) ↔ st = i + 1 := by omega
    simp only [BitVec.getLsbD_or, BitVec.getLsbD_and, (hhigh i hi).1, (hhigh i hi).2, Bool.and_true, Bool.and_false, Bool.or_false,
      getLsbD_statusBit st (24 + i) (by omega), hst]

/-- What a result that arrives leaves of a core: what is neither a register, a pending result nor a region's shadow. -/
theorem resultInto_frame (k : Core) (id : Nat) (v : Word) :
    (resultInto k id v).counters = k.counters ∧ (resultInto k id v).mode = k.mode ∧ (resultInto k id v).wp = k.wp := by
  unfold resultInto putValue
  dsimp only
  repeat' split
  all_goals exact ⟨rfl, rfl, rfl⟩

/-- R167. A command's result arrives in the register that waits for it. -/
theorem resultInto_found {k : Core} {id : Nat} {v : Word} {p : Pend} (hp : k.pends.find? (fun p => p.cmd = some id) = some p)
    (hlo : 0x100 ≤ p.reg) (hhi : p.reg < 0x140) :
    valueAt (resultInto k id v) p.reg = .sc v ∧ isEmpty (resultInto k id v) p.reg = false := by
  have h0 : hardWired p.reg = false := by simp [hardWired]; omega
  have h : ∃ r, resultInto k id v =
      { markFull (putValue { k with pends := k.pends.filter fun q => q.cmd ≠ some id } p.reg (.sc v)) p.reg with region := r } := by
    unfold resultInto
    simp only [hp]
    repeat' split
    · exact ⟨_, rfl⟩
    · exact ⟨_, rfl⟩
    · exact ⟨_, rfl⟩
  obtain ⟨r, h⟩ := h
  rw [h]
  constructor
  · exact valueAt_putValue_sc _ v h0 (.inr (by omega))
  · show isEmpty (markFull _ p.reg) p.reg = false
    rw [isEmpty_markFull _ _ _ hhi]
    simp

/-- R204. SUMMARY notes a status by its bit. -/
theorem findLaunch_noteSummary {s : State} {n : Nat} {l : Launch} (st : Nat) (h : findLaunch s n = some l) :
    ∃ l', findLaunch (noteSummary s n st) n = some l' ∧
      ∀ i, i < 7 → l'.summary.getLsbD i = (l.summary.getLsbD i || decide (st = i + 1)) := by
  unfold noteSummary
  split
  · next hst =>
    rw [Bool.or_eq_true, decide_eq_true_eq, decide_eq_true_eq] at hst
    refine ⟨l, h, fun i hi => ?_⟩
    rw [decide_eq_false (by omega), Bool.or_false]
  · next hst =>
    rw [Bool.or_eq_true, decide_eq_true_eq, decide_eq_true_eq] at hst
    refine ⟨_, (findLaunch_modLaunch_same s n (f := fun x => { x with summary := x.summary ||| (1#7 <<< (st - 1)) })
      fun _ => rfl).trans (congrArg _ h), fun i hi => ?_⟩
    simp only [BitVec.getLsbD_or, BitVec.getLsbD_shiftLeft, BitVec.getLsbD_one, hi, decide_true, Bool.true_and]
    congr 1
    rw [Bool.eq_iff_iff]
    simp only [Bool.and_eq_true, Bool.not_eq_true', decide_eq_false_iff_not, decide_eq_true_eq]
    omega

theorem noteSummary_frame (s : State) (n st : Nat) : ∃ ls, noteSummary s n st = { s with launches := ls } := by
  unfold noteSummary
  split
  · exact ⟨s.launches, rfl⟩
  · exact ⟨_, rfl⟩

section
variable {s : State} {x : Cmd} {c : Nat} (hbegun : x.begun = true) (hfault : x.fault = none) (hpieces : x.pieces = [])
  (hwait : x.waitList = false) (hup : x.updates = []) (hmig : x.kind ≠ .mig) (hfollow : x.follow = none) (hunf : x.unfilled = [])
  (hreqs : reqsOf s (engineOf x.core) x.id = []) (hheld : heldByCore s x.wp = some c) (hall : ∀ y ∈ s.cmds, y.begun = true)

include hbegun hfault hpieces hwait hup hmig hreqs hfollow in
/-- A command with nothing left completes. -/
theorem commandComplete_completes (hx : findCmd s s.arg.index = some x) : exec .commandComplete s = .next (completeCmd s x) := by
  have hadv : advanceCmd s x s.arg.off = s := by simp [advanceCmd, hbegun, hfault, hwait, hpieces, hup, hmig]
  have hover : cmdOver s x = true := by simp [cmdOver, hbegun, hfault, hwait, hpieces, hup, hmig, hreqs]
  have he : exec .commandComplete s = execCommandComplete s := rfl
  simp only [execCommandComplete, hx, hadv, hover, hfollow, Bool.not_true, Bool.false_eq_true, if_false] at he
  exact he

/-- The state in which a command has counted on its counter and given its result. -/
def counted (s : State) (x : Cmd) (c : Nat) : State :=
  modCore (modCore s c fun k => { k with counters := addHeld k.counters [(x.counter, x.status)] }) c fun k =>
    resultInto k x.id (x.result.getD 0#64)

include hunf hheld hall in
/-- R204. What a completion does: counter and result in the core, SUMMARY in the launch, the command gone. -/
theorem completeCmd_eq : completeCmd s x = dropCmd (noteSummary (counted s x c) x.wp.launch x.status) x.id := by
  have hpoison : poisonUnfilled s x = s := by rw [poisonUnfilled, hunf]; rfl
  have hheld' : heldByCore (modCore s c fun k => { k with counters := addHeld k.counters [(x.counter, x.status)] }) x.wp = some c :=
    heldByCore_modCore hheld fun _ => ⟨rfl, rfl⟩
  have hdone : modHolder (countDone (poisonUnfilled s x) x x.status) x.wp (fun k => resultInto k x.id (x.result.getD 0#64)) =
      counted s x c := by
    rw [hpoison]
    simp only [countDone, hheld, modHolder, hheld']
    rfl
  obtain ⟨ls, hls⟩ := noteSummary_frame (counted s x c) x.wp.launch x.status
  rw [completeCmd, hdone]
  refine beginHeld_begun (State.begun_iff.mp (begun_dropCmd _ ?_))
  rw [hls]
  exact hall

include hbegun hfault hpieces hwait hup hmig hfollow hunf hreqs hheld hall in
theorem commandComplete_gives (hx : findCmd s s.arg.index = some x) : Gives .commandComplete s fun t =>
    findCmd t x.id = none ∧ t.mem = s.mem ∧
    (let was := Map.get (coreOf s c).counters x.counter 0#32
      let now := Map.get (coreOf t c).counters x.counter 0#32
      now.extractLsb' 0 24 = was.extractLsb' 0 24 + 1#24 ∧
      ∀ i, i < 8 → now.getLsbD (24 + i) = (was.getLsbD (24 + i) || decide (x.status = i + 1))) ∧
    (∀ p v, (coreOf s c).pends.find? (fun p => p.cmd = some x.id) = some p → x.result = some v → 0x100 ≤ p.reg → p.reg < 0x140 →
      valueAt (coreOf t c) p.reg = .sc v ∧ isEmpty (coreOf t c) p.reg = false) ∧
    ∀ l, findLaunch s x.wp.launch = some l → ∃ l', findLaunch t x.wp.launch = some l' ∧
      ∀ i, i < 7 → l'.summary.getLsbD i = (l.summary.getLsbD i || decide (x.status = i + 1)) := by
  refine ⟨_, commandComplete_completes hbegun hfault hpieces hwait hup hmig hfollow hreqs hx, ?_⟩
  rw [completeCmd_eq hunf hheld hall]
  obtain ⟨ls, hls⟩ := noteSummary_frame (counted s x c) x.wp.launch x.status
  obtain ⟨r, hr⟩ := coreOf_dropCmd (noteSummary (counted s x c) x.wp.launch x.status) x.id c
  have hcore : coreOf (noteSummary (counted s x c) x.wp.launch x.status) c =
      resultInto { coreOf s c with counters := addHeld (coreOf s c).counters [(x.counter, x.status)] } x.id (x.result.getD 0#64) := by
    rw [hls]
    show coreOf (counted s x c) c = _
    rw [counted, coreOf_modCore_same, coreOf_modCore_same]
  have hmem : ∀ (s : State) id, (dropCmd s id).mem = s.mem := fun s id => by
    unfold dropCmd
    dsimp only
    repeat' split
    all_goals rfl
  refine ⟨findCmd_dropCmd .., ?_, ?_, fun p v hp hv hlo hhi => ?_, fun l hl => ?_⟩
  · rw [hmem, hls]
    rfl
  · dsimp only
    rw [hr]
    dsimp only
    rw [hcore, (resultInto_frame ..).1]
    exact addHeld_one ..
  · rw [hr, hcore, hv]
    exact resultInto_found (k := { coreOf s c with counters := addHeld (coreOf s c).counters [(x.counter, x.status)] }) hp hlo hhi
  · obtain ⟨l', hl', hbits⟩ := findLaunch_noteSummary (s := counted s x c) x.status hl
    refine ⟨l', ?_, hbits⟩
    rw [findLaunch, launches_of_outline (outline_dropCmd ..)]
    exact hl'

end

end Machine
end Sys2Proof

namespace Sys2Proof.Machine

/-! ## Requests without an answer (R225) -/

section
variable {s : State} {e : Nat} {r : Req} {x : Cmd}

theorem findReq_dropReq (s : State) (e : Nat) (seq : BitVec 32) : findReq (dropReq s e seq) e seq = none := by
  rw [findReq, dropReq, engine, modEngine, Map.get_set_same]
  simp

/-- The status of a command that is found. -/
theorem findCmd_addStatus {id st : Nat} (h : findCmd s id = some x) :
    findCmd (addStatus s id st) id = some { x with status := max x.status st } :=
  (findCmd_modCmd_same s id (f := fun c => { c with status := max c.status st }) fun _ => rfl).trans (congrArg _ h)

/-- R203. A request that fails without a part to poison and without a recovery token. -/
theorem failRequest_plain {st : Nat} (hx : findCmd s r.cmd = some x) (hp : r.piece = none) (hst : st < 6) :
    failRequest s e r st = addStatus (dropReq s e r.seq) r.cmd st := by
  have hid : x.id = r.cmd := by simpa using List.find?_some hx
  have hx' : findCmd (dropReq s e r.seq) r.cmd = some x := hx
  simp [failRequest, hx', hp, hid, Nat.not_le.mpr hst]

/-- R375. An atomic whose result is lost gives its recovery token. -/
theorem failRequest_atom {st : Nat} (hx : findCmd s r.cmd = some x) (hk : r.pkt.kind ≠ 1) (ha : x.kind = .atom) (hst : 6 ≤ st) :
    failRequest s e r st =
      addStatus (modCmd (dropReq s e r.seq) r.cmd fun c => { c with result := some (recoveryToken e r.seq) }) r.cmd st := by
  have hid : x.id = r.cmd := by simpa using List.find?_some hx
  have hx' : findCmd (dropReq s e r.seq) r.cmd = some x := hx
  have hst' : st ≥ 6 := hst
  simp only [failRequest, hx', ha, hst', hid, hk, decide_true, Bool.and_true, if_true, if_false]
  split <;> rfl

/-- R225. A request sent once more is marked so, and its packet is on its way again. -/
theorem reissue_gives {seq : BitVec 32} (hr : findReq s e seq = some r) : (reissue s e r).mem = s.mem ∧
    (∃ y, findReq (reissue s e r) e seq = some y ∧ y.reissued = true ∧ y.sentAt = s.chron) ∧
    ((∃ p, (reissue s e r).inbox = s.inbox ++ [p] ∧ p.2.seq = r.pkt.seq ∧ p.2.retry = true) ∨
      ∃ w, (reissue s e r).waiting = s.waiting ++ [w] ∧ w.pkt.seq = r.pkt.seq ∧ w.pkt.retry = true) := by
  have hseq : r.seq = seq := by simpa using List.find?_some hr
  have hfound : ∃ y, findReq (modEngine s e fun g => { g with
      reqs := g.reqs.map fun x => if x.seq = r.seq then { x with reissued := true, sentAt := s.chron, pkt := { r.pkt with retry := true } } else x })
      e seq = some y ∧ y.reissued = true ∧ y.sentAt = s.chron := by
    rw [findReq, engine, modEngine, Map.get_set_same, hseq]
    exact ⟨_, (find_mod_same Req.seq (f := fun x => { x with reissued := true, sentAt := s.chron, pkt := { r.pkt with retry := true } })
      (fun _ => rfl) _ seq).trans (congrArg (Option.map _) hr), rfl, rfl⟩
  unfold reissue sendPacket
  dsimp only
  split
  · exact ⟨rfl, hfound, .inl ⟨_, rfl, rfl, rfl⟩⟩
  · exact ⟨rfl, hfound, .inr ⟨_, rfl, rfl, rfl⟩⟩

end

section
variable {s : State} {r : Req} {x : Cmd} (hr : findReq s s.arg.index s.arg.seq = some r)
  (ht : r.sentAt + Config.requestTimeout ≤ s.chron) (hb : beyondMeridian s s.arg.index r = false) (hx : findCmd s r.cmd = some x)
include hr ht hb

/-- R225. The time-out of a request that is not beyond the Meridian. -/
theorem exec_requestReissueTimeout : exec .requestReissueTimeout s = .next (
    if r.pkt.kind = 3 && !heldAtLink s s.arg.index r then failRequest s s.arg.index r 6
    else if r.reissued || heldAtLink s s.arg.index r then
      failRequest { s with cxlReqs := s.cxlReqs.filter fun q => !(q.agent = s.arg.index && q.seq = r.seq) } s.arg.index r 3
    else reissue s s.arg.index r) := by
  have he : exec .requestReissueTimeout s = execRequestReissueTimeout s := rfl
  simp only [execRequestReissueTimeout, hr, hb, decide_eq_false (Nat.not_lt.mpr ht), Bool.or_false, Bool.false_eq_true, if_false] at he
  rw [he]
  split
  · rfl
  · split <;> rfl

include hx in
theorem requestReissueTimeout_lost (hp : r.piece = none)
    (hl : heldAtLink s s.arg.index r = true ∨ r.pkt.kind ≠ 3 ∧ r.reissued = true) : Gives .requestReissueTimeout s fun t =>
      findReq t s.arg.index s.arg.seq = none ∧ t.mem = s.mem ∧ ∃ y, findCmd t r.cmd = some y ∧ y.status = max x.status 3 := by
  have hseq : r.seq = s.arg.seq := by simpa using List.find?_some hr
  have hn : (r.pkt.kind = 3 && !heldAtLink s s.arg.index r) = false := by
    rcases hl with hl | ⟨hk, -⟩
    · simp [hl]
    · simp [hk]
  have hy : (r.reissued || heldAtLink s s.arg.index r) = true := by
    rcases hl with hl | ⟨-, hre⟩
    · simp [hl]
    · simp [hre]
  have he := exec_requestReissueTimeout hr ht hb
  rw [hn, hy, if_neg (by decide), if_pos rfl, failRequest_plain (x := x)
    (s := { s with cxlReqs := s.cxlReqs.filter fun q => !(q.agent = s.arg.index && q.seq = r.seq) }) hx hp (by decide)] at he
  refine ⟨_, he, ?_, rfl, _, findCmd_addStatus (x := x) hx, rfl⟩
  rw [hseq]
  exact findReq_dropReq ..

include hx in
theorem requestReissueTimeout_atomic (hl : heldAtLink s s.arg.index r = false) (hk : r.pkt.kind = 3) (ha : x.kind = .atom) :
    Gives .requestReissueTimeout s fun t => findReq t s.arg.index s.arg.seq = none ∧
      ∃ y, findCmd t r.cmd = some y ∧ y.status = max x.status 6 ∧ y.result = some (recoveryToken s.arg.index r.seq) := by
  have hseq : r.seq = s.arg.seq := by simpa using List.find?_some hr
  have he := exec_requestReissueTimeout hr ht hb
  rw [if_pos (by simp [hk, hl]), failRequest_atom (x := x) hx (by rw [hk]; decide) ha (by decide)] at he
  refine ⟨_, he, ?_, _, findCmd_addStatus (x := { x with result := some (recoveryToken s.arg.index r.seq) }) ?_, rfl, rfl⟩
  · rw [hseq]
    exact findReq_dropReq ..
  · exact (findCmd_modCmd_same (dropReq s s.arg.index r.seq) r.cmd
      (f := fun c => { c with result := some (recoveryToken s.arg.index r.seq) }) fun _ => rfl).trans (congrArg _ hx)

theorem requestReissueTimeout_again (hl : heldAtLink s s.arg.index r = false) (hk : r.pkt.kind ≠ 3) (hre : r.reissued = false) :
    Gives .requestReissueTimeout s fun t => t.mem = s.mem ∧
      (∃ y, findReq t s.arg.index s.arg.seq = some y ∧ y.reissued = true ∧ y.sentAt = s.chron) ∧
      ((∃ p, t.inbox = s.inbox ++ [p] ∧ p.2.seq = r.pkt.seq ∧ p.2.retry = true) ∨
        ∃ w, t.waiting = s.waiting ++ [w] ∧ w.pkt.seq = r.pkt.seq ∧ w.pkt.retry = true) := by
  have he := exec_requestReissueTimeout hr ht hb
  rw [if_neg (by simp [hk]), if_neg (by simp [hl, hre])] at he
  exact ⟨_, he, reissue_gives hr⟩

end

/-- Settles O39. Each clause is the lemma named after its event; the waits and time-outs by the cases of their conditions. -/
theorem coreEvents : Obligations.CoreEvents := by
  unfold Obligations.CoreEvents
  intro s
  dsimp only
  refine ⟨fun p hi hf hc => operationComplete_arrives hi hf hc, fun n f hi hf => operationComplete_lands hi hf,
    fun u rest hm hw => bundleRetire_gives hm hw, fun port v n h1 h2 h3 h4 h5 => ?_, fun x hw hm => timedWait_early hw hm, ?_,
    fun d hp => eccError_dram hp, fun b line hp hok hf => eccError_bank hp hok hf,
    fun c r hp hok hm hhm hreg htr => eccError_vreg hp hok hm hhm hreg htr,
    fun d b x hp => ⟨fun hb => eccError_cache_none hp hb, fun hb hok => eccError_cache hp hb hok⟩,
    fun e he => ⟨fun h => chartLineMove_moves he h, fun h hfall hfail => chartLineMove_flips he h hfall hfail⟩, ?_, ?_, ?_⟩
  · exact ⟨fun h => forwardDeliver_waits h1 h3 h, fun h => forwardDeliver_gives h1 h3 h2 h4 h5 h⟩
  · intro x b hw hm hrun hb hwords hmoves hstick hsync hmark heos hre hseq hrep hcons
    exact timedWait_ends hw hm hrun hb hwords hmoves hstick hsync hmark heos hre hseq hrep hcons
  · intro x c hx hbegun hfault hpieces hwait hup hmig hfollow hunf hreqs hheld hall
    exact commandComplete_gives hbegun hfault hpieces hwait hup hmig hfollow hunf hreqs hheld hall hx
  · intro r x hr ht hb hx
    exact ⟨fun hl hp => requestReissueTimeout_lost hr ht hb hx hp (.inl hl),
      fun hl hk ha => requestReissueTimeout_atomic hr ht hb hx hl hk ha,
      fun _ hk hre hp => requestReissueTimeout_lost hr ht hb hx hp (.inr ⟨hk, hre⟩),
      fun hl hk hre => requestReissueTimeout_again hr ht hb hl hk hre⟩
  · intro x code info c w hx hfault hmc hheld hwp hm hhm hreg hw htr hbegun
    exact asyncFault_ends hx hfault hmc hheld hwp hm hhm hreg hw htr hbegun

end Sys2Proof.Machine

namespace Sys2Proof.Machine

/-! ## Flags and entries of a station (R46, R58) -/

theorem flagOf_modStation (s : State) (k a b : Nat) (g : Map Flag → Map Flag) :
    flagOf (modStation s k fun t => { t with flags := g t.flags }) a b =
      if k = a then Map.get (g (station s k).flags) b {} else flagOf s a b := by
  unfold flagOf
  rw [station_modStation]
  split <;> rfl

theorem flagOf_setFlag (s : State) (k f st a b : Nat) : flagOf (setFlag s k f st) a b =
    if a = k ∧ b = f then { set := true, status := max (flagOf s k f).status st } else flagOf s a b := by
  refine (flagOf_modStation s k a b fun m => Map.update m f {} fun x => { set := true, status := max x.status st }).trans ?_
  by_cases hk : k = a
  · subst hk
    rw [if_pos rfl, Map.get_update]
    simp only [true_and, eq_comm (a := b)]
    rfl
  · rw [if_neg hk, if_neg fun h => hk h.1.symm]

theorem flagOf_clearFlag (s : State) (k f a b : Nat) :
    flagOf (clearFlag s k f) a b = if a = k ∧ b = f then {} else flagOf s a b := by
  refine (flagOf_modStation s k a b fun m => Map.erase m f).trans ?_
  by_cases hk : k = a
  · subst hk
    rw [if_pos rfl, Map.get_erase]
    simp only [true_and, eq_comm (a := b)]
    rfl
  · rw [if_neg hk, if_neg fun h => hk h.1.symm]

/-- An entry that is not NOP reads as it was written. -/
theorem entryAt_setEntry (s : State) (k key : Nat) {e : AlmEntry} (he : e.word ≠ 0#64) : entryAt (setEntry s k key e) k key = e := by
  unfold entryAt setEntry
  rw [station_modStation, if_pos rfl, if_neg he, Map.get_set_same]

theorem valueAt_setLine (k : Core) (h : Handle) (line : Nat) (st : LineState) (key : Nat) :
    valueAt (setLine k h line st) key = valueAt k key := by
  unfold setLine
  cases h.level <;> rfl

/-- R52. The lines that an entry marks lie beside every register. -/
theorem valueAt_markEntryLines (s : State) (k : Nat) (e : AlmEntry) (c key : Nat) :
    valueAt (coreOf (markEntryLines s k e) c) key = valueAt (coreOf s c) key := by
  unfold markEntryLines
  split
  · rfl
  · refine foldl_keeps (fun s => valueAt (coreOf s c) key) (fun s n => ?_) _ s
    split
    · split
      · rw [coreOf_modCore]
        split
        · subst_vars
          exact foldl_keeps (fun k => valueAt k key) (fun k l => valueAt_setLine ..) _ _
        · rfl
      · rfl
    · rfl

theorem mem_writeEntry (s : State) (k key : Nat) (w : Word) (launch : Nat) (chunk : Option (Nat × Nat × Nat)) :
    (writeEntry s k key w launch chunk).mem = s.mem := congrArg Prod.fst (memories_writeEntry s k key w launch chunk)

theorem valueAt_spent (c : Nat) (m : MoveF) (t : State) (c' key : Nat) :
    valueAt (coreOf (spent c m t) c') key = valueAt (coreOf t c') key := by
  unfold spent
  split
  · rw [coreOf_modCore]
    split
    · subst_vars; rfl
    · rfl
  · rfl

theorem stations_spent (c : Nat) (m : MoveF) (t : State) : (spent c m t).stations = t.stations := by rw [spent_cores]

/-! ## Station flags (R401, R402) -/

section
variable {s : State} {o : OpIn} {ctl x : Word}

theorem flagStation_eq (c : Nat) (ctl : Word) : flagStation c ctl =
    if ctl.getLsbD 0 then 16 else if ctl.getLsbD 1 then 2 * (c / 48) + 1 else 2 * (c / 48) := by
  unfold flagStation dieOf
  cases ctl.getLsbD 1 <;> rfl

theorem closing_shut {c : Nat} (h : gating (coreOf s c) = false) : closing s c = .ok () := by simp [closing, h]

theorem pathClear_open {c p : Nat} (h : (fenceIds s c p).isEmpty = true) : pathClear s c p = .ok () := by simp [pathClear, h]

theorem flagOperands_read (hctl : scOp s o 12 = .ok ctl) (hx : scVal o = .ok x) (hp : (fenceIds s o.c 5).isEmpty = true) :
    flagOperands s o = .ok (flagStation o.c ctl, x.toNat % 64,
      flagGranted (coreLaunch s o.c) (flagStation o.c ctl) (x.toNat % 64), ctl) := by
  simp only [flagOperands, rgCtl, hctl, hx, pathClear_open hp]

variable {k f : Nat} {granted : Bool} (hf : flagOperands s o = .ok (k, f, granted, ctl))
include hf

theorem opRgWaitf_ungranted (hg : granted = false) : opRgWaitf o s = .ok (variableResult s o 8#64) := by
  simp [opRgWaitf, hf, hg]

theorem opRgWaitf_waits (hg : granted = true) (h : (station s k).passThrough = true ∨ (flagOf s k f).set = false) :
    opRgWaitf o s = block := by
  rcases h with h | h <;> simp [opRgWaitf, hf, hg, h]

theorem opRgWaitf_passes (hg : granted = true) (hp : (station s k).passThrough = false) (h : (flagOf s k f).set = true) :
    opRgWaitf o s =
      let r := variableResult s o (BitVec.ofNat 64 (flagOf s k f).status)
      .ok (if ctl.getLsbD 2 then clearFlag r k f else r) := by
  simp [opRgWaitf, hf, hg, hp, h]

variable (g : State → Nat → Nat → State) (hc : gating (coreOf s o.c) = false)
include hc

theorem changeFlag_ungranted (hg : granted = false) : changeFlag g o s = .ok (variableResult s o 8#64) := by
  simp [changeFlag, hf, closing_shut hc, hg]

theorem changeFlag_passThrough (hg : granted = true) (hp : (station s k).passThrough = true) :
    changeFlag g o s = .ok (variableResult s o 9#64) := by
  simp [changeFlag, hf, closing_shut hc, hg, hp]

theorem changeFlag_changes (hg : granted = true) (hp : (station s k).passThrough = false) :
    changeFlag g o s = .ok (variableResult (g s k f) o 0#64) := by
  simp [changeFlag, hf, closing_shut hc, hg, hp]

end

/-! ## Almanac writes (R403, R404) -/

/-- R403. The word of an entry with its stream's id in bits [50:41]. -/
theorem entryWord_eq (e : Word) (id : Nat) : (e &&& ~~~(0x3FF#64 <<< 41)) ||| BitVec.ofNat 64 (id % 1024 * 2 ^ 41) =
    e.extractLsb' 51 13 ++ BitVec.ofNat 10 id ++ e.extractLsb' 0 41 := by
  have hid : BitVec.ofNat 64 (id % 1024 * 2 ^ 41) = (BitVec.ofNat 10 id).setWidth 64 <<< 41 := by
    apply BitVec.eq_of_toNat_eq
    simp [BitVec.toNat_shiftLeft, Nat.shiftLeft_eq]
  rw [hid]
  generalize BitVec.ofNat 10 id = b
  apply BitVec.eq_of_getLsbD_eq
  intro i hi
  have hmask : (0x3FF#64 <<< 41).getLsbD i = (decide (41 ≤ i) && decide (i < 51)) := by
    revert i
    decide
  simp only [BitVec.getLsbD_or, BitVec.getLsbD_and, BitVec.getLsbD_not, hmask, BitVec.getLsbD_shiftLeft, BitVec.getLsbD_setWidth,
    BitVec.getLsbD_append, BitVec.getLsbD_extractLsb', hi]
  by_cases h1 : i < 41
  · simp [h1, show ¬41 ≤ i by omega]
  · by_cases h2 : i - 41 < 10
    · simp [h1, h2, show 41 ≤ i by omega, show i < 51 by omega]
      omega
    · simp [h1, h2, show ¬i < 51 by omega, show i - 41 - 10 < 13 by omega, show 51 + (i - 41 - 10) = i by omega]
      intro h
      have := b.getLsbD_of_ge (i - 41) (by omega)
      simp_all

theorem streamStation_eq (c : Nat) (x : StreamReq) (paired : Bool) : streamStation c x paired =
    if x.ring = .equator then 16 else if paired then 2 * (c / 48) + 1 else 2 * (c / 48) := by
  unfold streamStation dieOf
  cases x.ring <;> cases paired <;> rfl

theorem slotKey_eq {d : Dir} {lane pos : Nat} (hl : lane < 8) (hp : pos < 64) :
    slotKey d lane pos = (if d = .west then 512 else 0) + lane * 64 + pos := by
  unfold slotKey dirNo
  rw [Nat.mod_eq_of_lt hl, Nat.mod_eq_of_lt hp]
  cases d <;> simp

section
variable {s : State} {o : OpIn} {i p ctl e : Word} {x : StreamReq}

theorem almStream_absent (h : (coreLaunch s o.c).streams[i.toNat % 32]? = none) :
    almStream s o i ctl = raise tcAlmanacOwner (BitVec.ofNat 64 (i.toNat % 32)) := by simp [almStream, h]

theorem almStream_refused (h : (coreLaunch s o.c).streams[i.toNat % 32]? = some x)
    (hx : x.chain = true ∨ (station s (streamStation o.c x (ctl.getLsbD 1))).passThrough = true) :
    almStream s o i ctl = raise tcAlmanacOwner (BitVec.ofNat 64 (i.toNat % 32)) := by
  have hx : (x.chain || (station s (streamStation o.c x (ctl.getLsbD 1))).passThrough) = true := by simpa only [Bool.or_eq_true] using hx
  simp only [almStream, h, hx, if_true]

theorem almStream_found (h : (coreLaunch s o.c).streams[i.toNat % 32]? = some x) (hx : x.chain = false)
    (hp : (station s (streamStation o.c x (ctl.getLsbD 1))).passThrough = false) :
    almStream s o i ctl = .ok (x, streamStation o.c x (ctl.getLsbD 1)) := by
  simp only [almStream, h, hx, hp, Bool.or_false, Bool.false_eq_true, if_false]

variable (hi : scOp s o 0 = .ok i) (hctl : scOp s o 12 = .ok ctl) (he : scVal o = .ok e) (hf : (fenceIds s o.c 5).isEmpty = true)
include hi hctl he hf

theorem opRgAlmStrm_refused {t : Stop} (h : almStream s o i ctl = .error t) : opRgAlmStrm o s = .error t := by
  simp [opRgAlmStrm, rgCtl, hi, hctl, he, pathClear_open hf, h]

theorem opRgAlmStrm_writes {k : Nat} (h : almStream s o i ctl = .ok (x, k)) (hg : gating (coreOf s o.c) = false) :
    opRgAlmStrm o s = .ok (modStation s k fun t =>
      { t with rows := Map.set t.rows x.id { exp := e.truncate 16, cvt := e.getLsbD 16 } }) := by
  simp [opRgAlmStrm, rgCtl, hi, hctl, he, pathClear_open hf, h, closing_shut hg]

omit hi he hf in
theorem opRgAlm_strm (h : ctl.getLsbD 3 = true) : opRgAlm o s = opRgAlmStrm o s := by
  simp only [opRgAlm, rgCtl, hctl, h, if_true]

omit hi he hf in
theorem opRgAlm_entry (h : ctl.getLsbD 3 = false) : opRgAlm o s = almEntry o s := by
  simp only [opRgAlm, rgCtl, hctl, h, Bool.false_eq_true, if_false]

variable (hp : scOp s o 1 = .ok p)
include hp

theorem almEntry_refused {t : Stop} (h : almStream s o i ctl = .error t) : almEntry o s = .error t := by
  simp [almEntry, rgCtl, hi, hp, hctl, he, pathClear_open hf, h]

/-- Both forms refuse a stream that the launch may not name. -/
theorem opRgAlm_refused {t : Stop} (h : almStream s o i ctl = .error t) : opRgAlm o s = .error t := by
  cases h3 : ctl.getLsbD 3 with
  | true => rw [opRgAlm_strm hctl h3, opRgAlmStrm_refused hi hctl he hf h]
  | false => rw [opRgAlm_entry hctl h3, almEntry_refused hi hctl he hf hp h]

theorem almEntry_unowned {k : Nat} (h : almStream s o i ctl = .ok (x, k))
    (hx : x.pos.getLsbD (p.toNat % 64) = false ∨ e.getLsbD 57 = true ∧ streamFlag x k (e.extractLsb' 51 6).toNat = false) :
    almEntry o s = raise tcAlmanacOwner (BitVec.ofNat 64 (i.toNat % 32)) := by
  have hfl : field e.toNat 51 6 = (e.extractLsb' 51 6).toNat := by simp [field, BitVec.extractLsb'_toNat, Nat.shiftRight_eq_div_pow]
  have hno : (!x.pos.getLsbD (p.toNat % 64) || (e.getLsbD 57 && !streamFlag x k (e.extractLsb' 51 6).toNat)) = true := by
    rcases hx with hx | ⟨h57, hx⟩
    · rw [hx]; rfl
    · rw [h57, hx]; exact Bool.or_true _
  simp only [almEntry, rgCtl, hi, hp, hctl, he, pathClear_open hf, h, hfl, hno, if_true]

theorem almEntry_writes {k : Nat} (h : almStream s o i ctl = .ok (x, k)) (hpos : x.pos.getLsbD (p.toNat % 64) = true)
    (hflag : e.getLsbD 57 = true → streamFlag x k (e.extractLsb' 51 6).toNat = true) (hg : gating (coreOf s o.c) = false) :
    almEntry o s = .ok (writeEntry s k (slotKey x.dir x.lane (p.toNat % 64))
      (e.extractLsb' 51 13 ++ BitVec.ofNat 10 x.id ++ e.extractLsb' 0 41) (coreLaunch s o.c).id none) := by
  have hfl : field e.toNat 51 6 = (e.extractLsb' 51 6).toNat := by simp [field, BitVec.extractLsb'_toNat, Nat.shiftRight_eq_div_pow]
  have hok : (!x.pos.getLsbD (p.toNat % 64) || (e.getLsbD 57 && !streamFlag x k (e.extractLsb' 51 6).toNat)) = false := by
    cases h57 : e.getLsbD 57 <;> simp_all
  simp only [almEntry, rgCtl, hi, hp, hctl, he, pathClear_open hf, h, hfl, hok, closing_shut hg, ← entryWord_eq]
  rfl

end

/-! ### The operations of RG on flags and entries -/

section
variable {s : State} {m : MoveF} {v : PVal} {k : Core} {d : BitVec 12} {f : OpIn → State → Res State}

/-- A wait that leaves nothing behind takes the mark of a stall away. -/
theorem runTrigger_block (h : Feeds s d m v k) (ho : f (issued s d m v) (fed s k) = block) :
    runTrigger f d m s = .next (modCore s s.cur fun k => { k with stalls := [] }) := runTrigger_wait h ho

theorem runTrigger_raise (h : Feeds s d m v k) {code : BitVec 16} {info : Word} (ho : f (issued s d m v) (fed s k) = raise code info) :
    runTrigger f d m s = .next (takeTrap s s.cur { code := code, info := info }) := runTrigger_trap h ho

end

section
variable {s : State} {d : BitVec 12} {m : MoveF} {v : PVal} {k : Core} {st f : Nat} {granted : Bool} {ctl : Word}
  (hfeed : Feeds s d m v k) (hf : flagOperands (fed s k) (issued s d m v) = .ok (st, f, granted, ctl))
include hfeed hf

/-- R58, R402. WAITF of a SET flag passes with its status, and clears it under .clr. -/
theorem runTrigger_waitf (hg : granted = true) (hp : (station s st).passThrough = false) (hset : (flagOf s st f).set = true) :
    ∃ t, runTrigger opRgWaitf d m s = .next (spent s.cur m t) ∧
      coreOf t s.cur = coreOf (variableResult (fed s k) (issued s d m v) (BitVec.ofNat 64 (flagOf s st f).status)) s.cur ∧
      (ctl.getLsbD 2 = false → ∀ a b, flagOf t a b = flagOf s a b) ∧
      (ctl.getLsbD 2 = true → flagOf t st f = {} ∧ ∀ a b, ¬(a = st ∧ b = f) → flagOf t a b = flagOf s a b) := by
  refine ⟨_, runTrigger_ok hfeed (opRgWaitf_passes hf hg hp hset), ?_, fun hc => ?_, fun hc => ?_⟩
  · split
    · rfl
    · rfl
  · rw [if_neg (by rw [hc]; decide)]
    exact fun _ _ => rfl
  · rw [if_pos hc]
    exact ⟨(flagOf_clearFlag ..).trans (if_pos ⟨rfl, rfl⟩), fun a b h => (flagOf_clearFlag ..).trans (if_neg h)⟩

/-- R401, R402. POST and CLR. -/
theorem runTrigger_changeFlag (g : State → Nat → Nat → State) (hgat : gating k = false) :
    let gives (t : State) (w : Word) : Prop :=
      runTrigger (changeFlag g) d m s = .next (spent s.cur m (variableResult t (issued s d m v) w))
    (granted = false → gives (fed s k) 8#64) ∧
    (granted = true → (station s st).passThrough = true → gives (fed s k) 9#64) ∧
    (granted = true → (station s st).passThrough = false → gives (g (fed s k) st f) 0#64) := by
  have hgat : gating (coreOf (fed s k) (issued s d m v).c) = false := by simpa using hgat
  exact ⟨fun hg => runTrigger_ok hfeed (changeFlag_ungranted hf g hgat hg),
    fun hg hp => runTrigger_ok hfeed (changeFlag_passThrough hf g hgat hg hp),
    fun hg hp => runTrigger_ok hfeed (changeFlag_changes hf g hgat hg hp)⟩

end

section
variable {s : State} {m : MoveF} {v : PVal} {k : Core} {i p ctl e : Word} {x : StreamReq} {st : Nat}
  (hfeed : Feeds s 0xC17#12 m v k) (hi : scOp (fed s k) (issued s 0xC17#12 m v) 0 = .ok i)
  (hp : scOp (fed s k) (issued s 0xC17#12 m v) 1 = .ok p) (hctl : scOp (fed s k) (issued s 0xC17#12 m v) 12 = .ok ctl)
  (he : scVal (issued s 0xC17#12 m v) = .ok e) (hf : (fenceIds (fed s k) s.cur 5).isEmpty = true)
include hfeed hi hp hctl he hf

/-- R403, R404. Both forms take ALMANAC_OWNER of a stream that the launch may not name. -/
theorem alm_refuses (h : almStream (fed s k) (issued s 0xC17#12 m v) i ctl = raise tcAlmanacOwner (BitVec.ofNat 64 (i.toNat % 32))) :
    traps (.rgAlm m) s 0x0042#16 (BitVec.ofNat 64 (i.toNat % 32)) ∧ traps (.rgAlmStrm m) s 0x0042#16 (BitVec.ofNat 64 (i.toNat % 32)) :=
  ⟨runTrigger_raise hfeed (opRgAlm_refused hi hctl he hf hp h), runTrigger_raise hfeed (opRgAlmStrm_refused hi hctl he hf h)⟩

variable (hx : almStream (fed s k) (issued s 0xC17#12 m v) i ctl = .ok (x, st))
include hx

/-- R403. An entry at another's position, or that sets a flag not granted, takes ALMANAC_OWNER. -/
theorem alm_unowned (h3 : ctl.getLsbD 3 = false)
    (h : x.pos.getLsbD (p.toNat % 64) = false ∨ e.getLsbD 57 = true ∧ streamFlag x st (e.extractLsb' 51 6).toNat = false) :
    traps (.rgAlm m) s 0x0042#16 (BitVec.ofNat 64 (i.toNat % 32)) :=
  runTrigger_raise hfeed ((opRgAlm_entry hctl h3).trans (almEntry_unowned hi hctl he hf hp hx h))

variable (hgat : gating k = false)
include hgat

/-- R403. The entry form writes its entry and changes no register. -/
theorem alm_writes (h3 : ctl.getLsbD 3 = false) (hpos : x.pos.getLsbD (p.toNat % 64) = true)
    (hflag : e.getLsbD 57 = true → streamFlag x st (e.extractLsb' 51 6).toNat = true) (hne : e &&& ~~~(0x3FF#64 <<< 41) ≠ 0#64)
    (hl : x.lane < 8) : ∃ t, exec (.rgAlm m) s = .next t ∧
      entryAt t st ((if x.dir = .west then 512 else 0) + x.lane * 64 + p.toNat % 64) =
        { word := e.extractLsb' 51 13 ++ BitVec.ofNat 10 x.id ++ e.extractLsb' 0 41, n := 0, launch := (coreLaunch (fed s k) s.cur).id } ∧
      t.mem = s.mem ∧ RegsKept [] k (coreOf t s.cur) := by
  have hgat : gating (coreOf (fed s k) (issued s 0xC17#12 m v).c) = false := by simpa using hgat
  refine ⟨_, runTrigger_ok hfeed ((opRgAlm_entry hctl h3).trans (almEntry_writes hi hctl he hf hp hx hpos hflag hgat)), ?_, ?_, fun key _ => ?_⟩
  · rw [← slotKey_eq hl (Nat.mod_lt _ (by decide)), entryAt, station, stations_spent]
    refine entryAt_setEntry _ _ _ ?_
    rw [← entryWord_eq]
    exact fun h => hne (BitVec.or_eq_zero_iff.mp h).1
  · rw [spent_mem, mem_writeEntry, fed_mem]
  · rw [valueAt_spent]
    exact (valueAt_markEntryLines ..).trans (by rw [coreOf_fed])

omit hp in
/-- R404. The stream form writes the stream's row; ALM is that form under .strm. -/
theorem almStrm_writes : ∃ t, exec (.rgAlmStrm m) s = .next t ∧ (ctl.getLsbD 3 = true → exec (.rgAlm m) s = .next t) ∧
    rowOf t st x.id = { exp := e.extractLsb' 0 16, cvt := e.getLsbD 16 } ∧ t.mem = s.mem ∧ RegsKept [] k (coreOf t s.cur) := by
  have hgat : gating (coreOf (fed s k) (issued s 0xC17#12 m v).c) = false := by simpa using hgat
  have h := opRgAlmStrm_writes hi hctl he hf hx hgat
  refine ⟨_, runTrigger_ok hfeed h, fun h3 => runTrigger_ok hfeed ((opRgAlm_strm hctl h3).trans h), ?_, ?_, fun key _ => ?_⟩
  · rw [rowOf, station, stations_spent]
    refine (congrArg (fun t => Map.get (Station.rows t) x.id {}) ((station_modStation ..).trans (if_pos rfl))).trans ?_
    rw [Map.get_set_same]
    rfl
  · rw [spent_mem]; rfl
  · rw [valueAt_spent]
    exact congrArg (valueAt · key) (coreOf_fed s k)

end


/-- Settles O31. The flag operations by their three cases, POST and CLR as one change of a flag; the Almanac writes by what `almStream`
answers. -/
theorem flagsAndAlmanac : Obligations.FlagsAndAlmanac := by
  unfold Obligations.FlagsAndAlmanac
  refine ⟨fun m s v k ctl x => ?_, fun m s v k i p ctl e => ?_⟩
  · dsimp only
    rw [← flagStation_eq]
    refine ⟨fun ⟨hfeed, hctl, hx, hp⟩ => ?_, fun ⟨hfeed, hctl, hx, hp⟩ hgat => ?_, fun ⟨hfeed, hctl, hx, hp⟩ hgat => ?_⟩
    all_goals have hf := flagOperands_read hctl hx hp
    · refine ⟨fun hg => ?_, fun hg hw => ?_, fun hg hp hset => runTrigger_waitf hfeed hf hg hp hset⟩
      · exact runTrigger_ok hfeed (opRgWaitf_ungranted hf (Bool.eq_false_of_not_eq_true hg))
      · exact runTrigger_block hfeed (opRgWaitf_waits hf hg hw)
    · obtain ⟨hno, hpass, hok⟩ := runTrigger_changeFlag hfeed hf (fun s k n => setFlag s k n 0) hgat
      refine ⟨fun hg => hno (Bool.eq_false_of_not_eq_true hg), hpass, fun hg hp => ⟨_, hok hg hp, rfl, ?_, fun a b h => ?_⟩⟩
      · exact (flagOf_setFlag ..).trans ((if_pos ⟨rfl, rfl⟩).trans (by rw [Nat.max_zero]; rfl))
      · exact (flagOf_setFlag ..).trans (if_neg h)
    · obtain ⟨hno, hpass, hok⟩ := runTrigger_changeFlag hfeed hf clearFlag hgat
      refine ⟨fun hg => hno (Bool.eq_false_of_not_eq_true hg), hpass, fun hg hp => ⟨_, hok hg hp, rfl, ?_, fun a b h => ?_⟩⟩
      · exact (flagOf_clearFlag ..).trans (if_pos ⟨rfl, rfl⟩)
      · exact (flagOf_clearFlag ..).trans (if_neg h)
  · dsimp only
    simp only [← streamStation_eq]
    refine fun hfeed hi hp hctl he hf => ⟨fun hj => ?_, fun x hj => ⟨fun hx => ?_, fun hch hpt h3 h => ?_, fun hch hpt h3 hgat hpos hflag hne hl => ?_,
      fun hch hpt hgat => ?_⟩⟩
    · exact alm_refuses hfeed hi hp hctl he hf (almStream_absent hj)
    · exact alm_refuses hfeed hi hp hctl he hf (almStream_refused hj hx)
    · exact alm_unowned hfeed hi hp hctl he hf (almStream_found hj hch hpt) h3 h
    · exact alm_writes hfeed hi hp hctl he hf (almStream_found hj hch hpt) hgat h3 hpos hflag hne hl
    · exact almStrm_writes hfeed hi hctl he hf (almStream_found hj hch hpt) hgat

end Sys2Proof.Machine

namespace Sys2Proof.Machine

/-! ## Translation and local data by the parts that they depend on

Where an address leads depends on the memories and their homes alone; what stands in a local extent, on the launches, the cores
and the stations too. -/

section
variable {s t : State} (hh : t.homes = s.homes)
include hh

theorem forwardN_of_homes (n a : Nat) : forwardN t n a = forwardN s n a := by
  induction n generalizing a with
  | zero => rfl
  | succ n ih => simp only [forwardN, ih, forwardOnce, home, hh]

theorem atHome_of_homes (a : Nat) : atHome t a = atHome s a := by rw [atHome, forwardTo, forwardN_of_homes hh, atHome, forwardTo]

variable (hm : t.mem = s.mem) (hp : t.poisoned = s.poisoned)
include hm hp

omit hh hp in
theorem dramBytes_of_mem (a n : Nat) : dramBytes t a n = dramBytes s a n := by rw [dramBytes, hm, dramBytes]

omit hh hp in
theorem dramNat_of_mem (a n : Nat) : dramNat t a n = dramNat s a n := by rw [dramNat, dramBytes_of_mem hm, dramNat]

omit hh hm in
theorem poisonIn_of_poisoned (a n : Nat) : poisonIn t a n = poisonIn s a n := by rw [poisonIn, hp, poisonIn]

theorem walk_of_memory (table va fuel level : Nat) : walk t table va fuel level = walk s table va fuel level := by
  induction fuel generalizing table level with
  | zero => rfl
  | succ fuel ih =>
    unfold walk
    rw [funext (atHome_of_homes hh), funext fun a => funext (poisonIn_of_poisoned hp a), funext fun a => funext (dramNat_of_mem hm a)]
    simp only [ih]

variable (hc : t.chron = s.chron)
include hc

omit hh in
theorem seenNat_of_memory (a n : Nat) : seenNat t a n = seenNat s a n := by
  simp only [seenNat, seenBytes, poisonIn_of_poisoned hp, dramBytes_of_mem hm, hm, hc]

theorem regionEntry_of_memory (ptroot i : Nat) : regionEntry t ptroot i = regionEntry s ptroot i := by
  simp only [regionEntry, atHome_of_homes hh, seenNat_of_memory hm hp hc]

theorem translate_of_memory (ptroot : Nat) (sys : Bool) (va kind : Nat) : translate t ptroot sys va kind = translate s ptroot sys va kind := by
  simp only [translate, placeOf, walk_of_memory hh hm hp, funext (regionEntry_of_memory hh hm hp hc ptroot)]

end

section
variable {s t : State} (hh : t.homes = s.homes) (hm : t.mem = s.mem) (hp : t.poisoned = s.poisoned) (hc : t.chron = s.chron)
include hh hm hp hc

theorem heldVa_of_memory (l : Launch) (va n : Nat) : heldVa t l va n = heldVa s l va n := by
  simp only [heldVa, heldLine, home, translate_of_memory hh hm hp hc, atHome_of_homes hh, hh]

variable (hl : t.launches = s.launches) (hk : t.cores = s.cores)
include hl hk

theorem readLocal_of_memory (a : Local) (n : Nat) : readLocal t a n = readLocal s a n := by
  cases a with
  | handle c h off =>
    unfold readLocal readHandle handleOf coreOf
    rw [hk]
  | window l va =>
    unfold readLocal launchOf findLaunch
    rw [hl, funext fun l => funext fun va => funext (heldVa_of_memory hh hm hp hc l va),
      funext fun p => funext fun y => funext fun va => funext (translate_of_memory hh hm hp hc p y va), funext (atHome_of_homes hh),
      funext fun a => funext (poisonIn_of_poisoned hp a), funext fun a => funext (dramBytes_of_mem hm a)]

variable (hs : t.stations = s.stations)
include hs

omit hh hm hp hc hl hk in
theorem rowOf_of_stations (k id : Nat) : rowOf t k id = rowOf s k id := by rw [rowOf, station, hs, rowOf, station]

omit hh hm hp hc hl hk in
theorem converts_of_stations (k : Nat) (e : AlmEntry) : converts t k e = converts s k e := by
  rw [converts, rowOf_of_stations hs, converts]

omit hh hm hp hc in
theorem extentOf_of_parts (k : Nat) (e : AlmEntry) (n : Nat) : extentOf t k e n = extentOf s k e n := by
  unfold extentOf extentBytes streamLaunch handleOf coreOf
  rw [hl, hk, funext fun k => funext (converts_of_stations hs k)]

theorem stagedNow_of_parts (k : Nat) (e : AlmEntry) : stagedNow t k e = stagedNow s k e := by
  unfold stagedNow extentBytes
  rw [extentOf_of_parts hl hk hs, funext fun a => funext (readLocal_of_memory hh hm hp hc hl hk a), converts_of_stations hs]

end

/-! ## The pass of a slot (R37, R50) -/

/-- R37. The slot of a position as it makes its next hop. -/
def passing (s : State) (key : Nat) : Slot := { slotOf s key with hops := nextPass s key + 1 }

/-- R37. The station that it passes. -/
def passedStation (s : State) (key : Nat) : Nat := passStation (keyWest key) (nextPass s key)

/-- R37. The hop made, at the ring clock of the pass. -/
def hopped (s : State) (key : Nat) : State := setSlot { s with ring := dueClock s key } key (passing s key)

theorem slotOf_setSlot (s : State) (key : Nat) (x : Slot) : slotOf (setSlot s key x) key = x := Map.get_set_same ..

theorem passedStation_lt (s : State) (key : Nat) : passedStation s key < 16 := by
  unfold passedStation passStation
  split <;> omega

/-- R37. The ring clock of a pass is not past. -/
theorem ring_le_dueClock (s : State) (key : Nat) : s.ring ≤ dueClock s key := by
  unfold dueClock passClock nextPass ceilDiv
  omega

theorem stagedNow_hopped (s : State) (key k : Nat) (e : AlmEntry) : stagedNow (hopped s key) k e = stagedNow s k e :=
  stagedNow_of_parts (s := s) (t := hopped s key) rfl rfl rfl rfl rfl rfl rfl k e

theorem keyPos_slotKey (d : Dir) (lane pos : Nat) : keyPos (slotKey d lane pos) = pos % 64 := by
  unfold keyPos slotKey
  omega

theorem keyLane_slotKey (d : Dir) (lane pos : Nat) : keyLane (slotKey d lane pos) = lane % 8 := by
  unfold keyLane slotKey
  omega

theorem keyWest_slotKey (d : Dir) (lane pos : Nat) : keyWest (slotKey d lane pos) = decide (d = .west) := by
  unfold keyWest slotKey
  cases d
  · have : (dirNo .east * 512 + lane % 8 * 64 + pos % 64) / 512 % 2 ≠ 1 := by simp only [dirNo]; omega
    simpa using this
  · have : (dirNo .west * 512 + lane % 8 * 64 + pos % 64) / 512 % 2 = 1 := by simp only [dirNo]; omega
    simpa using this

theorem keyDir_slotKey (d : Dir) (lane pos : Nat) : keyDir (slotKey d lane pos) = d := by
  rw [keyDir, keyWest_slotKey]
  cases d <;> rfl

section
variable {s : State} {key : Nat} (hkey : slotKey s.arg.dir s.arg.lane s.arg.pos = key)
include hkey

theorem slotPass_undue (h : passDue s key = false) : exec .slotPass s = .next s := by
  show execSlotPass s = _
  simp only [execSlotPass, hkey, h, Bool.not_false, if_true]

variable (hdue : passDue s key = true)
include hdue

/-- R41, R66. A control position goes on; a bad CRC loses a token at a station that is not in pass-through. -/
theorem slotPass_control (hc : (ownerOf s key).cls = 2) : exec .slotPass s = .next (
    if s.arg.ok || (station s (passedStation s key)).passThrough then hopped s key
    else loseToken (hopped s key) (passedStation s key) key s.arg.index) := by
  show execSlotPass s = _
  simp only [execSlotPass, hkey, hdue, hc, Bool.not_true, Bool.false_eq_true, if_false, if_true]
  rfl

/-- Any other position: in pass-through the slot goes on, else it passes the station; then its position may be reclaimed. -/
theorem slotPass_other (hc : (ownerOf s key).cls ≠ 2) : exec .slotPass s = .next (reclaimAt
    (if (station s (passedStation s key)).passThrough then hopped s key
      else passSlot (hopped s key) (passedStation s key) key (passing s key)) (passedStation s key) key) := by
  show execSlotPass s = _
  simp only [execSlotPass, hkey, hdue, hc, Bool.not_true, Bool.false_eq_true, if_false]
  rfl

end

theorem reclaimAt_kept (s : State) (k key : Nat) (h : (slotOf s key).reclaim = false ∨ k ≠ 15) : reclaimAt s k key = s := by
  unfold reclaimAt
  rcases h with h | h <;> simp [h]

/-- What passes a station that is not in pass-through, on a position that is not a control position. -/
theorem slotPass_passes {s : State} {key : Nat} (hkey : slotKey s.arg.dir s.arg.lane s.arg.pos = key) (hdue : passDue s key = true)
    (hp : (station s (passedStation s key)).passThrough = false) (hc : (ownerOf s key).cls ≠ 2) {t : State} {x : Slot}
    (h : passSlot (hopped s key) (passedStation s key) key (passing s key) = setSlot t key x) (hx : x.reclaim = false) :
    exec .slotPass s = .next (setSlot t key x) := by
  rw [slotPass_other hkey hdue hc, hp, if_neg (by decide), h, reclaimAt_kept]
  exact .inl (by rw [slotOf_setSlot, hx])

end Sys2Proof.Machine

namespace Sys2Proof.Machine

/-! ## The parts of a pass (R48 to R50, R60 to R66) -/

/-- The stream that owns a position, 0 where none does. -/
def Owner.live (o : Owner) : Nat := if o.cls = 1 then o.stream else 0

section
variable {s : State} {k key : Nat} {x : Slot}

theorem passSlot_sound (h : x.valid = false ∨ s.arg.ok = true) : passSlot s k key x =
    let b := passBestEffort s k key x
    let r := passEntry b.1 k key (ownerOf s key).live b.2
    setSlot r.1 key r.2 := by
  have hc : (x.valid && !s.arg.ok) = false := by rcases h with h | h <;> simp [h]
  simp only [passSlot, hc, Bool.false_eq_true, if_false]
  rfl

theorem passSlot_broken (hv : x.valid = true) (hok : s.arg.ok = false) : passSlot s k key x =
    let f := failCrc s k (ownerOf s key) x
    let b := passBestEffort f.1 k key f.2
    let r := passEntry b.1 k key (ownerOf s key).live b.2
    setSlot r.1 key r.2 := by
  simp only [passSlot, hv, hok, Bool.not_false, Bool.and_true, if_true]
  rfl

/-- R61, R62. No packet of a slot stays at a station that it is neither for nor from. -/
theorem takePacket_onward (h : x.valid = false ∨ x.dst ≠ k ∧ x.src ≠ k) : takePacket s k x = (s, x) := by
  rcases h with h | ⟨hd, hs⟩
  · simp [takePacket, h]
  · simp [takePacket, hd, hs]

theorem takePacket_takes (hv : x.valid = true) (hd : x.dst = k) : takePacket s k x =
    ({ s with inbox := s.inbox ++ [(k, { decodePacket x.payload with origin := x.origin })] }, freeSlot x) := by
  simp [takePacket, hv, hd]

theorem takePacket_removes (hv : x.valid = true) (hd : x.dst ≠ k) (hs : x.src = k) : takePacket s k x =
    (removePacket s { decodePacket x.payload with origin := x.origin }, freeSlot x) := by
  simp [takePacket, hv, hd, hs]

/-- R63. Nothing happens at a slot without a mark that is free, or not best-effort, or passes a station that is not starved on its lane. -/
theorem passMarks_unmarked (ht : x.thr = false)
    (h : x.valid = false ∨ (ownerOf s key).cls ≠ 0 ∨ laneNo (keyDir key) (keyLane key) ∉ (station s k).starving) :
    passMarks s k key x = (s, x) := by
  rcases h with h | h | h <;> simp [passMarks, ht, h]

/-- R63. A station that is starved on the lane marks the full slot that it forwards. -/
theorem passMarks_marks (ht : x.thr = false) (hv : x.valid = true) (hc : (ownerOf s key).cls = 0)
    (hl : laneNo (keyDir key) (keyLane key) ∈ (station s k).starving) (hs : starvedAt s k (keyDir key) = true) :
    passMarks s k key x = (modStation s k fun t => { t with
      starving := t.starving.filter (· ≠ laneNo (keyDir key) (keyLane key)), marks := t.marks ++ [laneNo (keyDir key) (keyLane key)],
      throttle := min (t.throttle + 1) 0xFFFF }, stamp { x with thr := true, mark := k }) := by
  simp [passMarks, ht, hv, hc, hl, hs]

/-- R60 to R63. A slot whose packet neither ends nor marks here goes on as it is. -/
theorem passBestEffort_onward (ht : x.thr = false) (hbe : x.cls = 0 → x.valid = false ∨ x.dst ≠ k ∧ x.src ≠ k)
    (h : x.valid = false ∨ (ownerOf s key).cls ≠ 0 ∨ laneNo (keyDir key) (keyLane key) ∉ (station s k).starving) :
    passBestEffort s k key x = (s, x) := by
  have htake : (if x.cls = 0 then takePacket s k x else (s, x)) = (s, x) := by
    split
    · exact takePacket_onward (hbe ‹_›)
    · rfl
  rw [passBestEffort, htake]
  exact passMarks_unmarked ht h

theorem passBestEffort_taken (hc : x.cls = 0) {t : State} {y : Slot} (h : takePacket s k x = (t, y)) :
    passBestEffort s k key x = passMarks t k key y := by rw [passBestEffort, if_pos hc, h]

variable {stream : Nat}

theorem passEntry_unarmed (h : armed (entryAt s k key) = false) : passEntry s k key stream x = (s, x) := by simp [passEntry, h]

/-- R48. An entry for another stream than the position's owner counts. -/
theorem passEntry_other (h : armed (entryAt s k key) = true) (ho : stream = 0 ∨ entryStream (entryAt s k key) ≠ stream) :
    passEntry s k key stream x = (modStation s k fun t => { t with ownerSkip := min (t.ownerSkip + 1) 0xFFFF }, x) := by
  have hc : (decide (stream = 0) || decide (entryStream (entryAt s k key) ≠ stream)) = true := by simpa using ho
  simp only [passEntry, h, hc, Bool.not_true, Bool.false_eq_true, if_false, if_true]

variable (ha : armed (entryAt s k key) = true) (h0 : stream ≠ 0) (hs : entryStream (entryAt s k key) = stream)
include ha h0 hs

theorem passEntry_unmatched (hm : slotMatches (entryAt s k key) x = false) : passEntry s k key stream x = (s, x) := by
  simp [passEntry, ha, h0, hs, hm]

/-- The fragment that a matching entry fires with. -/
def firedFragment (s : State) (k : Nat) (e : AlmEntry) : Option Fragment := if readsLocal (entryOp e) then stagedNow s k e else none

variable (hm : slotMatches (entryAt s k key) x = true)
include hm

/-- R51. A LOAD whose fragment is not there retries. -/
theorem passEntry_retries (hop : entryOp (entryAt s k key) = 1) (hext : (extentOf s k (entryAt s k key) (entryAt s k key).n).isSome = true)
    (hf : stagedNow s k (entryAt s k key) = none) : passEntry s k key stream x = (s, x) := by
  simp [passEntry, ha, h0, hs, hm, hop, hext, hf, readsLocal]

end

/-- R50. What a firing with a status leaves of its entry: the next firing, or NOP with its flag set. -/
def entryFired (s : State) (k key : Nat) (e : AlmEntry) (st : Nat) : State :=
  if e.n ≥ entryRep e then
    (if entryFe e then setFlag (setEntry s k key {}) k (entryFlag e) st else setEntry s k key {})
  else setEntry s k key { e with n := e.n + 1, status := st, staged := none }

section
variable {s : State} {k key stream : Nat} {x : Slot}

/-- R48 to R51. A matching entry of no collective call fires. -/
theorem passEntry_fires (ha : armed (entryAt s k key) = true) (h0 : stream ≠ 0) (hs : entryStream (entryAt s k key) = stream)
    (hm : slotMatches (entryAt s k key) x = true) (hi : x.integrity = false) (hc : (entryAt s k key).chunk = none)
    (hf : entryOp (entryAt s k key) = 1 → (firedFragment s k (entryAt s k key)).isSome = true) :
    passEntry s k key stream x =
      let f := fire s k (entryAt s k key) x (firedFragment s k (entryAt s k key))
      (entryFired f.state k key (entryAt s k key) f.status, f.slot) := by
  have hretry : (decide (entryOp (entryAt s k key) = 1) && (extentOf s k (entryAt s k key) (entryAt s k key).n).isSome &&
      (firedFragment s k (entryAt s k key)).isNone) = false := by
    by_cases h1 : entryOp (entryAt s k key) = 1
    · have := hf h1
      cases hfr : firedFragment s k (entryAt s k key) <;> simp_all
    · simp [h1]
  unfold firedFragment at hretry
  simp only [passEntry, ha, h0, hs, hm, hretry, hi, hc, Bool.not_true, Bool.false_eq_true, if_false, decide_false, ne_eq, not_true_eq_false,
    Bool.or_false]
  rw [entryFired, firedFragment]
  split
  · rfl
  · rw [hc]

end

end Sys2Proof.Machine

namespace Sys2Proof.Machine

/-! ## Firings (R50, R56, R57) -/

section
variable {s : State} {k key : Nat} {e : AlmEntry}

theorem cores_entryFired (s : State) (k key : Nat) (e : AlmEntry) (st : Nat) : (entryFired s k key e st).cores = s.cores := by
  unfold entryFired
  repeat' split
  all_goals rfl

theorem mem_entryFired (s : State) (k key : Nat) (e : AlmEntry) (st : Nat) : (entryFired s k key e st).mem = s.mem := by
  unfold entryFired
  repeat' split
  all_goals rfl

theorem word_of_armed (h : armed e = true) : e.word ≠ 0#64 := by
  intro hw
  simp [armed, entryOp, hw, field] at h

theorem entryAt_setEntry_nop (s : State) (k key : Nat) : entryAt (setEntry s k key {}) k key = {} := by
  unfold entryAt setEntry
  rw [station_modStation, if_pos rfl, if_pos rfl, Map.get_erase, if_pos rfl]

theorem flagOf_setEntry (s : State) (k key : Nat) (e : AlmEntry) (a b : Nat) : flagOf (setEntry s k key e) a b = flagOf s a b := by
  unfold flagOf setEntry
  rw [station_modStation]
  split
  · subst_vars; rfl
  · rfl

theorem entryAt_setFlag (s : State) (k f st a b : Nat) : entryAt (setFlag s k f st) a b = entryAt s a b := by
  unfold entryAt setFlag
  rw [station_modStation]
  split
  · subst_vars; rfl
  · rfl

/-- R48. Before its last firing an entry goes to the next one. -/
theorem entryAt_entryFired (st : Nat) (ha : armed e = true) (h : e.n < entryRep e) :
    entryAt (entryFired s k key e st) k key = { e with n := e.n + 1, status := st, staged := none } := by
  rw [entryFired, if_neg (by omega)]
  exact entryAt_setEntry s k key (e := { e with n := e.n + 1, status := st, staged := none }) (word_of_armed ha)

/-- R48, R58. After it the entry reads NOP, and its flag is set with the status. -/
theorem entryFired_last (st : Nat) (h : entryRep e ≤ e.n) : entryAt (entryFired s k key e st) k key = {} ∧
    (entryFe e = true → flagOf (entryFired s k key e st) k (entryFlag e) =
      { set := true, status := max (flagOf s k (entryFlag e)).status st }) := by
  rw [entryFired, if_pos h]
  cases hfe : entryFe e with
  | false => exact ⟨entryAt_setEntry_nop s k key, nofun⟩
  | true =>
    rw [if_pos rfl]
    refine ⟨(entryAt_setFlag ..).trans (entryAt_setEntry_nop s k key), fun _ => ?_⟩
    rw [flagOf_setFlag, if_pos ⟨rfl, rfl⟩, flagOf_setEntry]

end

section
variable {s : State} {k : Nat} {e : AlmEntry} {x : Slot} {l : Local}
  (hbad : formatMismatch s k e x = false) (hext : extentOf s k e e.n = some l) (hcv : converts s k e = false)
  (hpo : x.poison = false) (hov : x.ovf = false)

theorem ingress_plain (hcv : converts s k e = false) (f : Fragment) :
    ingress s k e f = { words := f.bytes, poison := f.poison, ovf := false, negZero := 0#32 } := by simp [ingress, hcv]

theorem egress_plain (hcv : converts s k e = false) (x : Slot) : egress s k e x = (bytesOf x.payload.toNat (8 * entryLen e), false) := by
  simp [egress, hcv]

include hbad hext hcv

/-- R50. LOAD of a sound fragment fills the slot with it. -/
theorem fire_load {f : Fragment} (hop : entryOp e = 1) (hf : f.poison = false) (hpo : x.poison = false) :
    fire s k e x (some f) = { state := s, status := e.status, slot := stamp { x with
      payload := BitVec.ofNat 2048 (f.bytes.toNat % 2 ^ (64 * entryLen e)), len := entryLen e, ptype := entryType e,
      stream := entryStream e, cls := 1, src := min k 15, seq := BitVec.ofNat 16 e.n, ovf := false, sand := 0#32, valid := true,
      exp := if entryType e = 2 then (rowOf s k (entryStream e)).exp else 0#16 } } := by
  simp [fire, hop, hbad, hext, fireLoad, ingress_plain hcv, hf, writesLocal, hpo]

/-- R50. COPY and EMPTY write the payload at the local extent. -/
theorem fire_copy (hop : entryOp e = 2 ∨ entryOp e = 4) (hpo : x.poison = false) (hov : x.ovf = false) :
    fire s k e x none = ⟨writeLocal s l (bytesOf x.payload.toNat (8 * entryLen e)), if entryOp e = 4 then freeSlot x else x, e.status⟩ := by
  rcases hop with hop | hop <;> simp [fire, hop, hbad, hext, egress_plain hcv, writesLocal, hpo, hov]

/-- R50. ADD of a sound fragment. -/
theorem fire_add {f : Fragment} (hop : entryOp e = 3) (hf : f.poison = false) (hpo : x.poison = false) (hov : x.ovf = false)
    (hin : (addPayload (if entryType e = 0 then 32 else 64) (entryLen e) x.payload f.bytes).2 = false) :
    fire s k e x (some f) = { state := s, status := e.status, slot := stamp { x with
      payload := (addPayload (if entryType e = 0 then 32 else 64) (entryLen e) x.payload f.bytes).1, ovf := false, sand := x.sand &&& 0#32 } } := by
  simp [fire, hop, hbad, hext, fireAdd, ingress_plain hcv, hf, writesLocal, hpo, hov, hin]

omit hcv in
/-- R51. ADD without its fragment poisons the slot. -/
theorem fire_add_missing (hop : entryOp e = 3) (hpo : x.poison = false) :
    (fire s k e x none).state = s ∧ (fire s k e x none).slot = stamp { x with poison := true } := by
  simp [fire, hop, hbad, hext, fireAdd, writesLocal, hpo]

end

/-! ## Bytes of a payload, and sums in passing -/

/-- Digits of a number written from a list, lowest first. -/
theorem digit_foldr (b : Nat) (vs : List Nat) (h : ∀ v ∈ vs, v < b) {i : Nat} (hi : i < vs.length) :
    vs.foldr (fun v acc => v + b * acc) 0 / b ^ i % b = vs.getD i 0 := by
  induction vs generalizing i with
  | nil => simp at hi
  | cons v vs ih =>
    have hv := h v (List.mem_cons_self ..)
    cases i with
    | zero => simp [Nat.mod_eq_of_lt hv]
    | succ i =>
      have hb : 0 < b := by omega
      rw [List.foldr_cons, Nat.pow_succ', ← Nat.div_div_eq_div_mul, Nat.add_mul_div_left _ _ hb, Nat.div_eq_of_lt hv, Nat.zero_add]
      exact ih (fun v hv => h v (List.mem_cons_of_mem _ hv)) (by simpa using hi)

theorem foldr_digits_lt (b : Nat) (vs : List Nat) (h : ∀ v ∈ vs, v < b) : vs.foldr (fun v acc => v + b * acc) 0 < b ^ vs.length := by
  induction vs with
  | nil => simp
  | cons v vs ih =>
    have hv := h v (List.mem_cons_self ..)
    have hi := ih fun v hv => h v (List.mem_cons_of_mem _ hv)
    rw [List.foldr_cons, List.length_cons, Nat.pow_succ']
    calc v + b * vs.foldr (fun v acc => v + b * acc) 0 < b + b * vs.foldr (fun v acc => v + b * acc) 0 := by omega
      _ = b * (vs.foldr (fun v acc => v + b * acc) 0 + 1) := by rw [Nat.mul_add, Nat.mul_one, Nat.add_comm]
      _ ≤ b * b ^ vs.length := Nat.mul_le_mul_left _ hi

/-- A field of a number as a signed word. -/
theorem signed_field {n : Nat} (x : BitVec n) (w i : Nat) : signed (field x.toNat (w * i) w) w = (x.extractLsb' (w * i) w).toInt := by
  rw [BitVec.toInt_eq_toNat_cond, BitVec.extractLsb'_toNat, Nat.shiftRight_eq_div_pow, signed, field, Nat.mod_mod]
  have : 2 * (x.toNat / 2 ^ (w * i) % 2 ^ w) < 2 ^ w ↔ x.toNat / 2 ^ (w * i) % 2 ^ w < 2 ^ (w - 1) := by
    cases w with
    | zero => simp [Nat.mod_one]
    | succ w => rw [Nat.succ_sub_one, Nat.pow_succ]; omega
  simp only [this]

/-- Words of one width packed into a payload, read back. -/
theorem extractLsb'_packed {N : Nat} (w : Nat) (vs : List Nat) (h : ∀ v ∈ vs, v < 2 ^ w) (hlen : w * vs.length ≤ N) {i : Nat}
    (hi : i < vs.length) : (BitVec.ofNat N (vs.foldr (fun v acc => v + 2 ^ w * acc) 0)).extractLsb' (w * i) w = BitVec.ofNat w (vs.getD i 0) := by
  have hlt : vs.foldr (fun v acc => v + 2 ^ w * acc) 0 < 2 ^ N := calc
    _ < (2 ^ w) ^ vs.length := foldr_digits_lt _ vs h
    _ = 2 ^ (w * vs.length) := (Nat.pow_mul ..).symm
    _ ≤ 2 ^ N := Nat.pow_le_pow_right (by decide) hlen
  apply BitVec.eq_of_toNat_eq
  rw [BitVec.extractLsb'_toNat, BitVec.toNat_ofNat, Nat.mod_eq_of_lt hlt, Nat.shiftRight_eq_div_pow, Nat.pow_mul, digit_foldr _ vs h hi,
    BitVec.toNat_ofNat, Nat.mod_eq_of_lt]
  rw [List.getD_eq_getElem _ _ hi]
  exact h _ (List.getElem_mem hi)

theorem wrapN_toInt_add {w : Nat} (a b : BitVec w) : wrapN (a.toInt + b.toInt) w = (a + b).toNat :=
  (BitVec.toNat_ofInt ..).symm.trans (by rw [BitVec.ofInt_add, BitVec.ofInt_toInt, BitVec.ofInt_toInt])

/-- R50. Elements of the sum of a payload and a contribution, where none leaves the signed range. -/
theorem addPayload_sums {w n : Nat} (x y : Payload) (hw : w = 32 ∨ w = 64) (hn : n ≤ 32)
    (h : ∀ i, i < 64 * n / w → (x.extractLsb' (w * i) w).saddOverflow (y.extractLsb' (w * i) w) = false) :
    (addPayload w n x y).2 = false ∧ ∀ i, i < 64 * n / w →
      (addPayload w n x y).1.extractLsb' (w * i) w = x.extractLsb' (w * i) w + y.extractLsb' (w * i) w := by
  have hlen : n * 64 / w = 64 * n / w := by rw [Nat.mul_comm]
  simp only [addPayload, hlen, signed_field]
  constructor
  · rw [List.any_map, List.any_eq_false]
    intro i hi
    have := h i (List.mem_range.mp hi)
    rw [BitVec.saddOverflow, Bool.or_comm] at this
    simpa using this
  · intro i hi
    have hfold (vs : List Int) : vs.foldr (fun v acc => wrapN v w + 2 ^ w * acc) 0 =
        (vs.map fun v => wrapN v w).foldr (fun v acc => v + 2 ^ w * acc) 0 := by rw [List.foldr_map]
    rw [hfold, List.map_map, extractLsb'_packed]
    · rw [List.getD_eq_getElem _ _ (by simpa using hi), List.getElem_map, List.getElem_range, Function.comp, wrapN_toInt_add,
        BitVec.ofNat_toNat, BitVec.setWidth_eq]
    · intro v hv
      obtain ⟨j, -, rfl⟩ := List.mem_map.mp hv
      simp only [Function.comp, wrapN_toInt_add]
      exact BitVec.isLt _
    · simp only [List.length_map, List.length_range]
      rcases hw with rfl | rfl <;> omega
    · simpa using hi

end Sys2Proof.Machine

namespace Sys2Proof.Machine

/-! ## Bytes stored in a handle (R196, R202) -/

section
variable {k k' : Core} {h : Handle}

theorem handleByte_of_chart (hc : chartOf k' h.level = chartOf k h.level) (o : Nat) : handleByte k' h o = handleByte k h o := by
  rw [handleByte, hc, handleByte]

theorem byteOf_of_parts (hc : chartOf k' h.level = chartOf k h.level) (hs : storage k' h.level = storage k h.level) (j : Nat) :
    byteOf k' h j = byteOf k h j := by rw [byteOf, hs, handleByte_of_chart hc, byteOf]

theorem byteOf_setLine (line : Nat) (st : LineState) (j : Nat) : byteOf (setLine k h line st) h j = byteOf k h j :=
  byteOf_of_parts (chartOf_setLineStates ..) (storage_setLineStates ..) j

theorem atOffset_cons (off : Nat) (b : Byte) (bs : List Byte) : atOffset off (b :: bs) = (off, b) :: atOffset (off + 1) bs := by
  have hr : (List.range (bs.length + 1)).map (off + ·) = off :: (List.range bs.length).map (off + 1 + ·) := by
    simp [List.range_succ_eq_map, Nat.add_assoc, Nat.add_comm 1]
  rw [atOffset, span, List.length_cons, hr]
  rfl

/-- Bytes stored from an offset of a handle whose bytes lie in places of their own. -/
theorem byteOf_putBytes (bs : List Byte) {off j : Nat} (hk : Sound k h) (hl : off + bs.length ≤ h.size) (hj : j < h.size) :
    byteOf (putBytes k h (atOffset off bs)) h j = if off ≤ j ∧ j < off + bs.length then bs.getD (j - off) 0#8 else byteOf k h j := by
  induction bs generalizing k off with
  | nil =>
    rw [if_neg (by simp)]
    rfl
  | cons b bs ih =>
    rw [List.length_cons] at hl
    rw [atOffset_cons, putBytes, ih]
    · rw [List.length_cons]
      by_cases hjo : j = off
      · subst hjo
        rw [if_neg (by omega), if_pos (by omega), byteOf, storage_setStorage, handleByte_of_chart (chartOf_setStorage ..), readByte_writeByte,
          if_pos rfl, Nat.sub_self]
        rfl
      · have hne : handleByte k h off ≠ handleByte k h j := fun he => hjo (hk _ _ (by omega) hj he).symm
        have hkeep : byteOf (setStorage k h.level (writeByte (storage k h.level) (handleByte k h off) b)) h j = byteOf k h j := by
          rw [byteOf, storage_setStorage, handleByte_of_chart (chartOf_setStorage ..), readByte_writeByte, if_neg hne, byteOf]
        rw [hkeep]
        by_cases hin : off + 1 ≤ j ∧ j < off + 1 + bs.length
        · rw [if_pos hin, if_pos (by omega), show j - off = (j - (off + 1)) + 1 by omega, List.getD_cons_succ]
        · rw [if_neg hin, if_neg (by omega)]
    · intro i j hi hj he
      rw [handleByte_of_chart (chartOf_setStorage ..), handleByte_of_chart (chartOf_setStorage ..)] at he
      exact hk i j hi hj he
    · omega

/-- R202. A store of bytes, with the states of the lines that it touches. -/
theorem byteOf_storeHandle (bs : List Byte) {off j : Nat} (hk : Sound k h) (hl : off + bs.length ≤ h.size) (hj : j < h.size) :
    byteOf (storeHandle k h (atOffset off bs)) h j = if off ≤ j ∧ j < off + bs.length then bs.getD (j - off) 0#8 else byteOf k h j :=
  (foldl_keeps (fun k => byteOf k h j) (fun _ _ => byteOf_setLine ..) _ _).trans (byteOf_putBytes bs hk hl hj)

end

theorem bytesOf_extract {n : Nat} (x : BitVec n) {m j : Nat} (hj : j < m) : (bytesOf x.toNat m).getD j 0#8 = x.extractLsb' (8 * j) 8 := by
  rw [getD_bytesOf _ hj]
  apply BitVec.eq_of_toNat_eq
  rw [BitVec.toNat_ofNat, BitVec.extractLsb'_toNat, Nat.shiftRight_eq_div_pow]

/-- R46, R47. A local extent lies within its handle. -/
theorem extentOf_handle {s : State} {k : Nat} {e : AlmEntry} {n c h off : Nat} {hd : Handle}
    (he : extentOf s k e n = some (.handle c h off)) (hh : handleOf s c h = some hd) : off + extentBytes s k e ≤ hd.size := by
  unfold extentOf at he
  dsimp only at he
  split at he
  · cases he
  · split at he
    · split at he
      · cases he
      · split at he
        · cases he
        · split at he
          · next hfind hin =>
            cases he
            cases hfind.symm.trans hh
            exact hin.2
          · cases he
    · split at he
      · cases he
      · split at he <;> cases he

/-! ## A slot at a station that is not in pass-through (R48 to R51) -/

/-- R37, R43. The slot of a position is due at station k, which is not in pass-through, and its position is not being reclaimed. -/
structure PassesAt (s : State) (key k : Nat) : Prop where
  names : slotKey s.arg.dir s.arg.lane s.arg.pos = key
  due : passDue s key = true
  here : passedStation s key = k
  inService : (station s k).passThrough = false
  kept : (slotOf s key).reclaim = false

/-- The slot goes on as it is, and nothing else changes but the ring clock and the counters of stations. -/
def WentOn (s t : State) (key k : Nat) : Prop :=
  t.ring = dueClock s key ∧ slotOf t key = passing s key ∧ entryAt t k key = entryAt s k key ∧ t.mem = s.mem ∧ t.inbox = s.inbox

/-- R48, R58. The firing of an entry counts; with the last one the entry reads NOP and its flag is set. -/
def FiringCounts (s t : State) (k key : Nat) (e : AlmEntry) : Prop :=
  (e.n < entryRep e → entryAt t k key = { e with n := e.n + 1, staged := none }) ∧
  (entryRep e ≤ e.n → entryAt t k key = {} ∧ (entryFe e = true → flagOf t k (entryFlag e) =
    { set := true, status := max (flagOf s k (entryFlag e)).status e.status }))

section
variable {s : State} {key k : Nat} (h : PassesAt s key k)
include h

theorem PassesAt.gives {t : State} {x : Slot} (hc : (ownerOf s key).cls ≠ 2)
    (hs : passSlot (hopped s key) k key (passing s key) = setSlot t key x) (hx : x.reclaim = false) :
    exec .slotPass s = .next (setSlot t key x) := by
  obtain ⟨hkey, hdue, rfl, hp, -⟩ := h
  exact slotPass_passes hkey hdue hp hc hs hx

/-- A slot whose CRC holds, or that is free, by its packet and its entry. -/
theorem PassesAt.sound {t u : State} {y z : Slot} (hc : (ownerOf s key).cls ≠ 2) (hcrc : (slotOf s key).valid = false ∨ s.arg.ok = true)
    (hb : passBestEffort (hopped s key) k key (passing s key) = (t, y)) (he : passEntry t k key (ownerOf s key).live y = (u, z))
    (hz : z.reclaim = false) : exec .slotPass s = .next (setSlot u key z) := by
  refine h.gives hc ((passSlot_sound (s := hopped s key) (x := passing s key) hcrc).trans ?_) hz
  dsimp only
  rw [hb]
  dsimp only
  rw [show (ownerOf (hopped s key) key).live = (ownerOf s key).live from rfl, he]

/-- A full slot whose CRC fails. -/
theorem PassesAt.broken {t u : State} {y z : Slot} (hc : (ownerOf s key).cls ≠ 2) (hv : (slotOf s key).valid = true) (hok : s.arg.ok = false)
    (hb : passBestEffort (countCrc (hopped s key) k) k key (failCrc (hopped s key) k (ownerOf s key) (passing s key)).2 = (t, y))
    (he : passEntry t k key (ownerOf s key).live y = (u, z)) (hz : z.reclaim = false) : exec .slotPass s = .next (setSlot u key z) := by
  refine h.gives hc ((passSlot_broken (s := hopped s key) (x := passing s key) hv hok).trans ?_) hz
  dsimp only
  rw [show (ownerOf (hopped s key) key) = ownerOf s key from rfl]
  rw [show (failCrc (hopped s key) k (ownerOf s key) (passing s key)).1 = countCrc (hopped s key) k from rfl, hb]
  dsimp only
  rw [he]

/-- An entry that does not fire lets the slot go on. -/
theorem PassesAt.goesOn {u : State} (hc : (ownerOf s key).cls ≠ 2) (hcrc : (slotOf s key).valid = false ∨ s.arg.ok = true)
    (hb : passBestEffort (hopped s key) k key (passing s key) = (hopped s key, passing s key))
    (he : passEntry (hopped s key) k key (ownerOf s key).live (passing s key) = (u, passing s key))
    (hu : u.ring = dueClock s key ∧ entryAt u k key = entryAt s k key ∧ u.mem = s.mem ∧ u.inbox = s.inbox) :
    exec .slotPass s = .next (setSlot u key (passing s key)) ∧ WentOn s (setSlot u key (passing s key)) key k := by
  obtain ⟨hr, hen, hm, hi⟩ := hu
  exact ⟨h.sound hc hcrc hb he h.kept, hr, slotOf_setSlot .., hen, hm, hi⟩

end

end Sys2Proof.Machine

namespace Sys2Proof.Machine

section
variable (s : State) (key : Nat)

@[simp] theorem entryAt_hopped (k j : Nat) : entryAt (hopped s key) k j = entryAt s k j := rfl
@[simp] theorem ownerOf_hopped (j : Nat) : ownerOf (hopped s key) j = ownerOf s j := rfl
@[simp] theorem extentOf_hopped (k : Nat) (e : AlmEntry) (n : Nat) : extentOf (hopped s key) k e n = extentOf s k e n :=
  extentOf_of_parts (s := s) (t := hopped s key) rfl rfl rfl k e n

omit key in
theorem entryAt_modStation (k a b : Nat) (f : Station → Station) (hf : ∀ t, (f t).almanac = t.almanac) :
    entryAt (modStation s k f) a b = entryAt s a b := by
  unfold entryAt
  rw [station_modStation]
  split
  · subst_vars; rw [hf]
  · rfl

theorem station_setSlot (x : Slot) (k : Nat) : station (setSlot s key x) k = station s k := rfl

/-- R60 to R63. No packet of the slot ends at the station. -/
def NoPacketEnds (x : Slot) (k : Nat) : Prop := x.cls = 0 → x.valid = false ∨ x.dst ≠ k ∧ x.src ≠ k

end

section
variable {s : State} {key k : Nat} (h : PassesAt s key k)
include h

section
variable (hc : (ownerOf s key).cls = 1) (ht : (slotOf s key).thr = false) (hbe : NoPacketEnds (slotOf s key) k)
include hc ht hbe

omit h in
theorem passBestEffort_stream : passBestEffort (hopped s key) k key (passing s key) = (hopped s key, passing s key) :=
  passBestEffort_onward ht hbe (.inr (.inl (by rw [ownerOf_hopped, hc]; decide)))

variable (hcrc : (slotOf s key).valid = false ∨ s.arg.ok = true)
include hcrc

theorem slotPass_unarmed (ha : armed (entryAt s k key) = false) : Gives .slotPass s fun t => WentOn s t key k :=
  ⟨_, h.goesOn (by rw [hc]; decide) hcrc (passBestEffort_stream hc ht hbe) (passEntry_unarmed ha) ⟨rfl, rfl, rfl, rfl⟩⟩

/-- R48. An entry of another stream counts OWNER_SKIP. -/
theorem slotPass_ownerSkip (ha : armed (entryAt s k key) = true)
    (ho : (ownerOf s key).stream = 0 ∨ entryStream (entryAt s k key) ≠ (ownerOf s key).stream) :
    Gives .slotPass s fun t => WentOn s t key k ∧ (station t k).ownerSkip = min ((station s k).ownerSkip + 1) 0xFFFF := by
  have hlive : (ownerOf s key).live = (ownerOf s key).stream := if_pos hc
  have he := passEntry_other (s := hopped s key) (x := passing s key) (stream := (ownerOf s key).live) ha (by rw [hlive]; exact ho)
  obtain ⟨hx, hw⟩ := h.goesOn (by rw [hc]; decide) hcrc (passBestEffort_stream hc ht hbe) he
    ⟨rfl, entryAt_modStation _ k _ _ _ fun _ => rfl, rfl, rfl⟩
  refine ⟨_, hx, hw, ?_⟩
  rw [station_setSlot, station_modStation, if_pos rfl]
  rfl

variable (ha : armed (entryAt s k key) = true) (h0 : (ownerOf s key).stream ≠ 0)
  (hst : entryStream (entryAt s k key) = (ownerOf s key).stream)
include ha h0 hst

theorem slotPass_unmatched (hm : slotMatches (entryAt s k key) (passing s key) = false) :
    Gives .slotPass s fun t => WentOn s t key k ∧ (station t k).ownerSkip = (station s k).ownerSkip := by
  have hlive : (ownerOf s key).live = (ownerOf s key).stream := if_pos hc
  have he := passEntry_unmatched (s := hopped s key) (x := passing s key) (stream := (ownerOf s key).live) ha (by rwa [hlive])
    (by rw [hlive]; exact hst) hm
  obtain ⟨hx, hw⟩ := h.goesOn (by rw [hc]; decide) hcrc (passBestEffort_stream hc ht hbe) he ⟨rfl, rfl, rfl, rfl⟩
  exact ⟨_, hx, hw, rfl⟩

variable (hm : slotMatches (entryAt s k key) (passing s key) = true)
include hm

/-- R51. A LOAD without its fragment lets the slot go on. -/
theorem slotPass_retries {l : Local} (hop : entryOp (entryAt s k key) = 1) (hext : extentOf s k (entryAt s k key) (entryAt s k key).n = some l)
    (hf : stagedNow s k (entryAt s k key) = none) : Gives .slotPass s fun t => WentOn s t key k := by
  have hlive : (ownerOf s key).live = (ownerOf s key).stream := if_pos hc
  have he := passEntry_retries (s := hopped s key) (x := passing s key) (stream := (ownerOf s key).live) ha (by rwa [hlive])
    (by rw [hlive]; exact hst) hm hop (by rw [entryAt_hopped, extentOf_hopped, hext]; rfl) (by rw [entryAt_hopped, stagedNow_hopped, hf])
  exact ⟨_, h.goesOn (by rw [hc]; decide) hcrc (passBestEffort_stream hc ht hbe) he ⟨rfl, rfl, rfl, rfl⟩⟩

variable (hi : (slotOf s key).integrity = false) (hch : (entryAt s k key).chunk = none)
include hi hch

/-- R50. What a firing leaves. -/
theorem slotPass_fires {f : Fired} {frag : Option Fragment}
    (hfr : (if readsLocal (entryOp (entryAt s k key)) then stagedNow s k (entryAt s k key) else none) = frag)
    (hop : entryOp (entryAt s k key) = 1 → frag.isSome = true)
    (hfire : fire (hopped s key) k (entryAt s k key) (passing s key) frag = f) (hrec : f.slot.reclaim = false) :
    exec .slotPass s = .next (setSlot (entryFired f.state k key (entryAt s k key) f.status) key f.slot) := by
  have hlive : (ownerOf s key).live = (ownerOf s key).stream := if_pos hc
  have hfrag : firedFragment (hopped s key) k (entryAt s k key) = frag := by rw [firedFragment, stagedNow_hopped, hfr]
  have he := passEntry_fires (s := hopped s key) (x := passing s key) (stream := (ownerOf s key).live) ha (by rwa [hlive])
    (by rw [hlive]; exact hst) hm hi hch (by rw [entryAt_hopped, hfrag]; exact hop)
  rw [entryAt_hopped, hfrag, hfire] at he
  exact h.sound (by rw [hc]; decide) hcrc (passBestEffort_stream hc ht hbe) he hrec

end

end

/-- R48 to R50. The slot of a position passes a station whose armed entry e is of the stream that owns the position and matches the slot;
its local extent is l, formats agree, nothing is converted, and the slot carries no mark of a fault. -/
structure FiresAt (s : State) (key k : Nat) (e : AlmEntry) (l : Local) : Prop extends PassesAt s key k where
  ofStream : (ownerOf s key).cls = 1
  unmarked : (slotOf s key).thr = false
  noPacket : NoPacketEnds (slotOf s key) k
  crc : s.arg.ok = true
  entry : entryAt s k key = e
  armed : armed e = true
  owned : (ownerOf s key).stream ≠ 0
  stream : entryStream e = (ownerOf s key).stream
  matched : slotMatches e (passing s key) = true
  format : formatMismatch s k e (passing s key) = false
  extent : extentOf s k e e.n = some l
  plain : converts s k e = false
  unpoisoned : (slotOf s key).poison = false
  fits : (slotOf s key).ovf = false
  whole : (slotOf s key).integrity = false
  noCall : e.chunk = none

theorem entryLen_le (e : AlmEntry) : entryLen e ≤ 32 := by
  unfold entryLen field
  split <;> omega

theorem firingCounts_entryFired {s f : State} {k key : Nat} {e : AlmEntry} (hs : f.stations = s.stations) (ha : armed e = true) (x : Slot) :
    FiringCounts s (setSlot (entryFired f k key e e.status) key x) k key e := by
  refine ⟨fun h => entryAt_entryFired e.status ha h, fun h => ?_⟩
  obtain ⟨hn, hf⟩ := entryFired_last (s := f) (k := k) (key := key) e.status h
  refine ⟨hn, fun hfe => (hf hfe).trans ?_⟩
  rw [flagOf, station, hs, flagOf, station]

section
variable {s : State} {key k : Nat} {e : AlmEntry} {l : Local} (h : FiresAt s key k e l)
include h

theorem FiresAt.fires {f : Fired} {frag : Option Fragment} (hfr : (if readsLocal (entryOp e) then stagedNow s k e else none) = frag)
    (hop : entryOp e = 1 → frag.isSome = true) (hfire : fire (hopped s key) k e (passing s key) frag = f) (hrec : f.slot.reclaim = false) :
    exec .slotPass s = .next (setSlot (entryFired f.state k key e f.status) key f.slot) := by
  obtain ⟨hp, hc, ht, hbe, hok, rfl, ha, h0, hst, hm, -, -, -, -, -, hi, hch⟩ := h
  exact slotPass_fires hp hc ht hbe (.inr hok) ha h0 hst hm hi hch hfr hop hfire hrec

/-- R50, R51. A LOAD fills the free slot with its fragment. -/
theorem FiresAt.load {f : Fragment} (hop : entryOp e = 1) (hst : stagedNow s k e = some f) (hf : f.poison = false) :
    Gives .slotPass s fun t => FiringCounts s t k key e ∧ t.mem = s.mem ∧ slotOf t key = stamp { passing s key with
      payload := BitVec.ofNat 2048 (f.bytes.toNat % 2 ^ (64 * entryLen e)), len := entryLen e, ptype := entryType e,
      stream := (ownerOf s key).stream, cls := 1, src := k, seq := BitVec.ofNat 16 e.n, sand := 0#32, valid := true,
      exp := if entryType e = 2 then (rowOf s k (ownerOf s key).stream).exp else 0#16 } := by
  have hfire := fire_load (s := hopped s key) (k := k) (e := e) (x := passing s key) h.format ((extentOf_hopped ..).trans h.extent) h.plain hop hf
    h.unpoisoned
  refine ⟨_, h.fires (by rw [hop]; exact hst) (fun _ => rfl) hfire h.kept, firingCounts_entryFired rfl h.armed _, mem_entryFired .., ?_⟩
  have hk : min k 15 = k := by
    have := passedStation_lt s key
    rw [h.here] at this
    omega
  rw [slotOf_setSlot, h.stream, hk]
  have hov : (passing s key).ovf = false := h.fits
  rw [← hov]
  rfl

/-- R50, R56. An ADD adds its fragment element by element. -/
theorem FiresAt.add {f : Fragment} (hop : entryOp e = 3) (hst : stagedNow s k e = some f) (hf : f.poison = false) {w : Nat}
    (hw : w = if entryType e = 0 then 32 else 64) (hin : ∀ i, i < 64 * entryLen e / w →
      ((slotOf s key).payload.extractLsb' (w * i) w).saddOverflow (f.bytes.extractLsb' (w * i) w) = false) :
    Gives .slotPass s fun t => FiringCounts s t k key e ∧ t.mem = s.mem ∧ (slotOf t key).valid = true ∧ (slotOf t key).ovf = false ∧
      ∀ i, i < 64 * entryLen e / w → (slotOf t key).payload.extractLsb' (w * i) w =
        (slotOf s key).payload.extractLsb' (w * i) w + f.bytes.extractLsb' (w * i) w := by
  have hw' : w = 32 ∨ w = 64 := by
    rw [hw]
    split
    · exact .inl rfl
    · exact .inr rfl
  obtain ⟨hno, hsum⟩ := addPayload_sums (slotOf s key).payload f.bytes hw' (entryLen_le e) hin
  have hfire := fire_add (s := hopped s key) (k := k) (e := e) (x := passing s key) h.format ((extentOf_hopped ..).trans h.extent) h.plain hop hf
    h.unpoisoned h.fits (by rw [← hw]; exact hno)
  have hvalid : (slotOf s key).valid = true := by
    have hm := h.matched
    rw [slotMatches, if_neg (by rw [hop]; decide), Bool.and_eq_true] at hm
    exact hm.1
  refine ⟨_, h.fires (by rw [hop]; exact hst) (fun h1 => by rw [hop] at h1; cases h1) hfire h.kept, firingCounts_entryFired rfl h.armed _,
    mem_entryFired .., ?_⟩
  rw [slotOf_setSlot, ← hw]
  exact ⟨hvalid, rfl, hsum⟩

/-- R51. An ADD without its fragment poisons the slot. -/
theorem FiresAt.addMissing (hop : entryOp e = 3) (hst : stagedNow s k e = none) : Gives .slotPass s fun t =>
    slotOf t key = stamp { passing s key with poison := true } ∧ t.mem = s.mem := by
  obtain ⟨hs, hx⟩ := fire_add_missing (s := hopped s key) (k := k) (e := e) (x := passing s key) h.format ((extentOf_hopped ..).trans h.extent) hop
    h.unpoisoned
  refine ⟨_, h.fires (frag := none) (by rw [hop]; exact hst) (fun h1 => by rw [hop] at h1; cases h1) rfl (by rw [hx]; exact h.kept), ?_, ?_⟩
  · rw [slotOf_setSlot, hx]
  · exact (mem_entryFired ..).trans (by rw [hs]; rfl)

/-- R50. A COPY writes the payload at the local extent, an EMPTY frees the slot too. -/
theorem FiresAt.copy {c hn off : Nat} {hd : Handle} (hop : entryOp e = 2 ∨ entryOp e = 4) (hl : l = .handle c hn off)
    (hh : handleOf s c hn = some hd) (hsound : Sound (coreOf s c) hd) : Gives .slotPass s fun t => FiringCounts s t k key e ∧
      slotOf t key = (if entryOp e = 4 then freeSlot (passing s key) else passing s key) ∧
      (∀ j, j < 8 * entryLen e → byteOf (coreOf t c) hd (off + j) = (slotOf s key).payload.extractLsb' (8 * j) 8) ∧
      ∀ j, j < hd.size → (j < off ∨ off + 8 * entryLen e ≤ j) → byteOf (coreOf t c) hd j = byteOf (coreOf s c) hd j := by
  subst hl
  have hfire := fire_copy (s := hopped s key) (k := k) (e := e) (x := passing s key) h.format ((extentOf_hopped ..).trans h.extent) h.plain hop
    h.unpoisoned h.fits
  have hin : off + 8 * entryLen e ≤ hd.size := by
    have := extentOf_handle h.extent hh
    rwa [extentBytes, h.plain, if_neg (by decide)] at this
  have hw : writeLocal (hopped s key) (.handle c hn off) (bytesOf (slotOf s key).payload.toNat (8 * entryLen e)) =
      modCore (hopped s key) c fun k => storeHandle k hd (atOffset off (bytesOf (slotOf s key).payload.toNat (8 * entryLen e))) := by
    have : handleOf (hopped s key) c hn = some hd := hh
    simp only [writeLocal, this]
  refine ⟨_, h.fires (frag := none) ?_ ?_ hfire ?_, firingCounts_entryFired ?_ h.armed _, slotOf_setSlot .., ?_⟩
  · rcases hop with hop | hop <;> rw [hop] <;> rfl
  · rcases hop with hop | hop <;> rw [hop] <;> nofun
  · dsimp only
    split
    · exact h.kept
    · exact h.kept
  · exact (congrArg State.stations hw).trans rfl
  · have hcore : coreOf (setSlot (entryFired (writeLocal (hopped s key) (.handle c hn off) (bytesOf (slotOf s key).payload.toNat (8 * entryLen e)))
        k key e e.status) key (if entryOp e = 4 then freeSlot (passing s key) else passing s key)) c =
        storeHandle (coreOf s c) hd (atOffset off (bytesOf (slotOf s key).payload.toNat (8 * entryLen e))) := by
      rw [hw]
      refine (congrArg (Map.get · c {}) (cores_entryFired ..)).trans ?_
      exact coreOf_modCore_same (hopped s key) c _
    have hbyte {j : Nat} (hj : j < hd.size) := byteOf_storeHandle (bytesOf (slotOf s key).payload.toNat (8 * entryLen e)) (off := off) hsound
      (by rw [length_bytesOf]; exact hin) hj
    rw [length_bytesOf] at hbyte
    refine ⟨fun j hj => ?_, fun j hj ho => ?_⟩
    · refine (congrArg (byteOf · hd (off + j)) hcore).trans ?_
      rw [hbyte (by omega), if_pos (by omega), Nat.add_sub_cancel_left, bytesOf_extract _ hj]
    · refine (congrArg (byteOf · hd j) hcore).trans ?_
      rw [hbyte hj, if_neg (by omega)]

end

end Sys2Proof.Machine

namespace Sys2Proof.Machine

/-! ## Broken slots, packets and marks (R60 to R66) -/

/-- The i-th element of a list, taken from it. -/
theorem takeNth_all {α : Type} (i : Nat) (l : List α) : takeNth (fun _ => true) i l = l[i]?.map fun x => (x, l.eraseIdx i) := by
  induction l generalizing i with
  | nil => rfl
  | cons x l ih =>
    cases i with
    | zero => rfl
    | succ i =>
      rw [takeNth, if_pos rfl, ih]
      cases hx : l[i]? <;> simp [hx]

/-- R60. A waiting packet whose data is at hand goes into a slot. -/
theorem injectInto_plain {s : State} {i key : Nat} {w : Waiting} (hw : s.waiting[i]? = some w) (hl : w.late = none) :
    injectInto s i key = setSlot { s with waiting := s.waiting.eraseIdx i } key (fillSlot (slotOf s key) w.station w.dst w.pkt) := by
  have hload : loadPacket s w = some (s, some w.pkt) := by simp [loadPacket, hl]
  simp only [injectInto, takeNth_all, hw, Option.map_some, hload]
  rfl

/-- R63. The slot x that comes back to the station that marked it, its mark gone and the i-th waiting packet in it. -/
def injectedBack (s : State) (key k i : Nat) (w : Waiting) (x : Slot) : State :=
  let s1 := modStation s k fun t => { t with marks := t.marks.filter (· ≠ laneNo (keyDir key) (keyLane key)) }
  setSlot { setSlot s1 key (stamp { x with thr := false, mark := 0 }) with waiting := s.waiting.eraseIdx i } key
    (fillSlot (stamp { x with thr := false, mark := 0 }) w.station w.dst w.pkt)

theorem slotOf_injectedBack (s : State) (key k i : Nat) (w : Waiting) (x : Slot) : slotOf (injectedBack s key k i w x) key =
    fillSlot (stamp { x with thr := false, mark := 0 }) w.station w.dst w.pkt := slotOf_setSlot ..

theorem entryAt_injectedBack (s : State) (key k i : Nat) (w : Waiting) (x : Slot) (a b : Nat) :
    entryAt (injectedBack s key k i w x) a b = entryAt s a b :=
  entryAt_modStation s k a b (fun t => { t with marks := t.marks.filter (· ≠ laneNo (keyDir key) (keyLane key)) }) fun _ => rfl

theorem fillSlot_fields (x : Slot) {k : Nat} (j d : Nat) (p : Packet) (hj : j = k) : (fillSlot x j d p).valid = true ∧
    (fillSlot x j d p).thr = false ∧ (fillSlot x j d p).payload = encodePacket p ∧ (fillSlot x j d p).dst = d ∧ (fillSlot x j d p).src = k ∧
    (fillSlot x j d p).reclaim = x.reclaim :=
  ⟨rfl, rfl, rfl, rfl, hj, by rw [fillSlot, stamp]⟩

theorem passMarks_returns {s : State} {key k i : Nat} {w : Waiting} {x : Slot} (ht : x.thr = true) (hm : x.mark = k)
    (hv : x.valid = false) (hr : x.reclaim = false) (hc : (ownerOf s key).cls = 0)
    (hi : s.waiting.findIdx (fun w => w.station = k && wayTo k w.dst = keyDir key) = i) (hw : s.waiting[i]? = some w) (hl : w.late = none) :
    passMarks s k key x = (injectedBack s key k i w x, slotOf (injectedBack s key k i w x) key) := by
  have hinj := injectInto_plain (s := setSlot (modStation s k fun t =>
    { t with marks := t.marks.filter (· ≠ laneNo (keyDir key) (keyLane key)) }) key (stamp { x with thr := false, mark := 0 }))
    (key := key) hw hl
  rw [slotOf_setSlot] at hinj
  have hback : (x.thr && decide (x.mark = k)) = true := by rw [ht, hm, decide_eq_true rfl]; rfl
  have hfull : (x.valid || x.reclaim || !decide ((ownerOf s key).cls = 0)) = false := by rw [hv, hr, hc]; rfl
  simp only [passMarks, hback, hfull, if_true, Bool.false_eq_true, if_false, modStation_waiting, hi, hinj]
  rfl

theorem station_countCrc (s : State) (k : Nat) : (station (countCrc s k) k).crcDiscard = min ((station s k).crcDiscard + 1) 0xFFFF := by
  rw [countCrc, station_modStation, if_pos rfl]

theorem entryAt_countCrc (s : State) (k a b : Nat) : entryAt (countCrc s k) a b = entryAt s a b :=
  entryAt_modStation s k a b (fun t => { t with crcDiscard := min (t.crcDiscard + 1) 0xFFFF }) fun _ => rfl

theorem entryAt_of_stations {s t : State} (h : t.stations = s.stations) (k j : Nat) : entryAt t k j = entryAt s k j := by
  rw [entryAt, station, h, entryAt, station]

/-- R62. A request whose packet comes back ends, and its command takes DIE_OFFLINE. -/
theorem removePacket_request {s : State} {p : Packet} {r : Req} {z : Cmd} (ho : p.origin = none) (hag : p.agent < 64) (hk : p.kind ≠ 6)
    (hr : findReq s p.agent p.seq = some r) (hp : r.piece = none) (hz : findCmd s r.cmd = some z) : ∃ u, removePacket s p = u ∧
      findReq u p.agent p.seq = none ∧ u.inbox = s.inbox ∧ (∃ z', findCmd u r.cmd = some z' ∧ z'.status = max z.status 5) ∧
      u.stations = s.stations := by
  have hseq : r.seq = p.seq := by simpa using List.find?_some hr
  have hag' : ¬64 ≤ p.agent := by omega
  have hdrop : findCmd (dropReq s p.agent r.seq) r.cmd = some z := hz
  refine ⟨addStatus (dropReq s p.agent r.seq) r.cmd 5, ?_, ?_, rfl, ⟨_, findCmd_addStatus (st := 5) hdrop, rfl⟩, rfl⟩
  · rw [← failRequest_plain hz hp (by decide)]
    simp only [removePacket, ho, Option.isSome_none, ge_iff_le, hag', decide_false, Bool.or_false, Bool.false_eq_true, if_false, hk, hr]
  · rw [← hseq]
    exact findReq_dropReq s p.agent r.seq

section
variable {s : State} {key k : Nat} (h : PassesAt s key k) (ha : armed (entryAt s k key) = false)
include h ha

/-- R66. A stream slot whose CRC fails is poisoned. -/
theorem slotPass_poisoned (hc : (ownerOf s key).cls = 1) (hv : (slotOf s key).valid = true) (hok : s.arg.ok = false)
    (ht : (slotOf s key).thr = false) : Gives .slotPass s fun t =>
      slotOf t key = stamp { passing s key with poison := true, cls := 1, stream := (ownerOf s key).stream } ∧
        (station t k).crcDiscard = min ((station s k).crcDiscard + 1) 0xFFFF := by
  have hf : (failCrc (hopped s key) k (ownerOf s key) (passing s key)).2 =
      stamp { passing s key with poison := true, cls := 1, stream := (ownerOf s key).stream } := if_pos hc
  have hb := passBestEffort_onward (s := countCrc (hopped s key) k) (k := k) (key := key)
    (x := stamp { passing s key with poison := true, cls := 1, stream := (ownerOf s key).stream }) ht nofun
    (.inr (.inl (by rw [show ownerOf (countCrc (hopped s key) k) key = ownerOf s key from rfl, hc]; decide)))
  have hkept : (stamp { passing s key with poison := true, cls := 1, stream := (ownerOf s key).stream }).reclaim = false := h.kept
  rw [← hf] at hb hkept ⊢
  refine ⟨_, h.broken (by rw [hc]; decide) hv hok hb (passEntry_unarmed ?_) hkept, slotOf_setSlot .., ?_⟩
  · rw [entryAt_countCrc, entryAt_hopped, ha]
  · exact station_countCrc (hopped s key) k

/-- R66. A best-effort slot whose CRC fails is freed. -/
theorem slotPass_freed (hc : (ownerOf s key).cls = 0) (hv : (slotOf s key).valid = true) (hok : s.arg.ok = false)
    (ht : (slotOf s key).thr = false) : Gives .slotPass s fun t => slotOf t key = freeSlot (passing s key) ∧ t.inbox = s.inbox ∧
      (station t k).crcDiscard = min ((station s k).crcDiscard + 1) 0xFFFF := by
  have hf : (failCrc (hopped s key) k (ownerOf s key) (passing s key)).2 = freeSlot (passing s key) := if_neg (by rw [hc]; decide)
  have hb := passBestEffort_onward (s := countCrc (hopped s key) k) (k := k) (key := key) (x := freeSlot (passing s key)) ht
    (fun _ => .inl rfl) (.inl rfl)
  have hkept : (freeSlot (passing s key)).reclaim = false := h.kept
  rw [← hf] at hb hkept ⊢
  refine ⟨_, h.broken (by rw [hc]; decide) hv hok hb (passEntry_unarmed ?_) hkept, slotOf_setSlot .., ?_, ?_⟩
  · rw [entryAt_countCrc, entryAt_hopped, ha]
  · rfl
  · exact station_countCrc (hopped s key) k

section
variable (hc : (ownerOf s key).cls ≠ 2) (hx : (slotOf s key).cls = 0) (hcrc : (slotOf s key).valid = false ∨ s.arg.ok = true)
  (ht : (slotOf s key).thr = false)
include hc hx hcrc ht

/-- R61. A packet is taken at its destination. -/
theorem slotPass_takes (hv : (slotOf s key).valid = true) (hd : (slotOf s key).dst = k) : Gives .slotPass s fun t =>
    t.inbox = s.inbox ++ [(k, { decodePacket (slotOf s key).payload with origin := (slotOf s key).origin })] ∧
      slotOf t key = freeSlot (passing s key) ∧ t.mem = s.mem := by
  have hb := (passBestEffort_taken (key := key) (x := passing s key) hx
    (takePacket_takes (s := hopped s key) (k := k) (x := passing s key) hv hd)).trans (passMarks_unmarked (x := freeSlot (passing s key)) ht (.inl rfl))
  exact ⟨_, h.sound hc hcrc hb (passEntry_unarmed ha) h.kept, rfl, slotOf_setSlot .., rfl⟩

/-- R62. A packet that comes back to its source is removed: its request ends with DIE_OFFLINE. -/
theorem slotPass_removes {r : Req} {z : Cmd} (hv : (slotOf s key).valid = true) (hd : (slotOf s key).dst ≠ k)
    (hs : (slotOf s key).src = k) (ho : (slotOf s key).origin = none) (hag : (decodePacket (slotOf s key).payload).agent < 64)
    (hk : (decodePacket (slotOf s key).payload).kind ≠ 6)
    (hr : findReq s (decodePacket (slotOf s key).payload).agent (decodePacket (slotOf s key).payload).seq = some r) (hp : r.piece = none)
    (hz : findCmd s r.cmd = some z) : Gives .slotPass s fun t => slotOf t key = freeSlot (passing s key) ∧
      findReq t (decodePacket (slotOf s key).payload).agent (decodePacket (slotOf s key).payload).seq = none ∧ t.inbox = s.inbox ∧
      ∃ z', findCmd t r.cmd = some z' ∧ z'.status = max z.status 5 := by
  obtain ⟨u, hu, hreq, hin, hcmd, hst⟩ := removePacket_request (s := hopped s key)
    (p := { decodePacket (slotOf s key).payload with origin := (slotOf s key).origin }) ho hag hk hr hp hz
  have htake := takePacket_removes (s := hopped s key) (k := k) (x := passing s key) hv hd hs
  rw [show (passing s key).payload = (slotOf s key).payload from rfl, show (passing s key).origin = (slotOf s key).origin from rfl, hu] at htake
  have hb := (passBestEffort_taken (key := key) (x := passing s key) hx htake).trans (passMarks_unmarked (x := freeSlot (passing s key)) ht (.inl rfl))
  have ha' : armed (entryAt u k key) = false := (congrArg armed (entryAt_of_stations hst k key)).trans ha
  refine ⟨_, h.sound hc hcrc hb (passEntry_unarmed ha') h.kept, slotOf_setSlot .., ?_, ?_, ?_⟩
  · exact hreq
  · exact hin
  · exact hcmd

omit hx in
/-- R60 to R63. A slot that is free, or whose packet is neither for nor from the station, goes on where no mark is due. -/
theorem slotPass_bestEffort (hbe : (slotOf s key).valid = false ∨ (slotOf s key).dst ≠ k ∧ (slotOf s key).src ≠ k ∧
    ((ownerOf s key).cls = 1 ∨ laneNo (keyDir key) (keyLane key) ∉ (station s k).starving)) : Gives .slotPass s fun t => WentOn s t key k := by
  refine ⟨_, h.goesOn hc hcrc (passBestEffort_onward (x := passing s key) ht (fun _ => ?_) ?_) (passEntry_unarmed ha) ⟨rfl, rfl, rfl, rfl⟩⟩
  · exact hbe.imp_right fun ⟨hd, hs, _⟩ => ⟨hd, hs⟩
  · rcases hbe with hv | ⟨-, -, ho | hl⟩
    · exact .inl hv
    · exact .inr (.inl (by rw [ownerOf_hopped, ho]; decide))
    · exact .inr (.inr hl)

/-- R63. A starved station marks the full slot that it forwards. -/
theorem slotPass_throttles (hv : (slotOf s key).valid = true) (hd : (slotOf s key).dst ≠ k) (hs : (slotOf s key).src ≠ k)
    (ho : (ownerOf s key).cls = 0) (hl : laneNo (keyDir key) (keyLane key) ∈ (station s k).starving)
    (hst : starvedAt s k (keyDir key) = true) : Gives .slotPass s fun t =>
      slotOf t key = stamp { passing s key with thr := true, mark := k } ∧
        (station t k).throttle = min ((station s k).throttle + 1) 0xFFFF ∧ laneNo (keyDir key) (keyLane key) ∈ (station t k).marks := by
  have hst' : starvedAt (hopped s key) k (keyDir key) = true := by
    obtain ⟨w, hw, hp⟩ := List.any_eq_true.mp hst
    refine List.any_eq_true.mpr ⟨w, hw, ?_⟩
    have hle := ring_le_dueClock s key
    simp only [Bool.and_eq_true, decide_eq_true_eq] at hp ⊢
    obtain ⟨hk, ht⟩ := hp
    exact ⟨hk, le_trans ht hle⟩
  have hb := (passBestEffort_taken (key := key) (x := passing s key) hx
    (takePacket_onward (s := hopped s key) (k := k) (x := passing s key) (.inr ⟨hd, hs⟩))).trans
    (passMarks_marks (s := hopped s key) (x := passing s key) ht hv ho hl hst')
  refine ⟨_, h.sound hc hcrc hb (passEntry_unarmed ?_) h.kept, slotOf_setSlot .., ?_⟩
  · rw [entryAt_modStation _ _ _ _ _ (by exact fun _ => rfl), entryAt_hopped, ha]
  · rw [station_setSlot, station_modStation, if_pos rfl]
    exact ⟨rfl, List.mem_append_right _ (List.mem_singleton.mpr rfl)⟩

end

/-- R63. A marked free slot that comes back to its station takes the first packet that waits there for its direction. -/
theorem slotPass_returns {w : Waiting} {i : Nat} (hc : (ownerOf s key).cls = 0) (hv : (slotOf s key).valid = false)
    (ht : (slotOf s key).thr = true) (hm : (slotOf s key).mark = k)
    (hi : s.waiting.findIdx? (fun w => w.station = k && wayTo k w.dst = keyDir key) = some i) (hw : s.waiting[i]? = some w)
    (hl : w.late = none) : Gives .slotPass s fun t => (slotOf t key).valid = true ∧ (slotOf t key).thr = false ∧
      (slotOf t key).payload = encodePacket w.pkt ∧ (slotOf t key).dst = w.dst ∧ (slotOf t key).src = k := by
  have hstation : w.station = k := by
    obtain ⟨hlt, hp, -⟩ := List.findIdx?_eq_some_iff_getElem.mp hi
    rw [List.getElem?_eq_getElem hlt] at hw
    cases hw
    simp only [Bool.and_eq_true, decide_eq_true_eq] at hp
    exact hp.1
  have hidx := (List.findIdx?_eq_some_iff_findIdx_eq.mp hi).2
  have hb : passBestEffort (hopped s key) k key (passing s key) = (injectedBack (hopped s key) key k i w (passing s key),
      slotOf (injectedBack (hopped s key) key k i w (passing s key)) key) := by
    have htake : (if (passing s key).cls = 0 then takePacket (hopped s key) k (passing s key) else (hopped s key, passing s key)) =
        (hopped s key, passing s key) := by
      split
      · exact takePacket_onward (.inl hv)
      · rfl
    rw [passBestEffort, htake]
    exact passMarks_returns (s := hopped s key) (x := passing s key) ht hm hv h.kept hc hidx hw hl
  have hslot := slotOf_injectedBack (hopped s key) key k i w (passing s key)
  obtain ⟨hvalid, hthr, hpay, hdst, hsrc, hrec⟩ := fillSlot_fields (stamp { passing s key with thr := false, mark := 0 }) w.station w.dst w.pkt hstation
  rw [← hslot] at hvalid hthr hpay hdst hsrc hrec
  refine ⟨_, h.sound (by rw [hc]; decide) (.inl hv) hb (passEntry_unarmed ?_) (hrec.trans h.kept), ?_⟩
  · rw [entryAt_injectedBack, entryAt_hopped, ha]
  · have hin : slotOf (setSlot (injectedBack (hopped s key) key k i w (passing s key)) key
        (slotOf (injectedBack (hopped s key) key k i w (passing s key)) key)) key =
        slotOf (injectedBack (hopped s key) key k i w (passing s key)) key := slotOf_setSlot ..
    dsimp only
    rw [hin]
    exact ⟨hvalid, hthr, hpay, hdst, hsrc⟩

end

end Sys2Proof.Machine

namespace Sys2Proof.Machine

/-! ## Tokens of the control position (R41, R66) -/

section
variable {s : State} {i : Nat}

theorem mem_carried {key : Nat} : i ∈ carried s key ↔ key = 0 ∧ ∃ t, s.tokens[i]? = some t ∧ t.equator = false ∧ t.lost = false := by
  unfold carried
  split
  · simp [*]
  · next h => simp [not_not.mp h, List.range_eq_range', ← List.zipIdx_eq_zip_range', List.mk_mem_zipIdx_iff_getElem?]

theorem loseToken_none {key : Nat} (k : Nat) (h : carried s key = []) : loseToken s k key i = s := by simp [loseToken, h]

/-- R66. The token that the slot carried is lost. -/
theorem loseToken_carried {key : Nat} (k : Nat) (h : i ∈ carried s key) : loseToken s k key i = { countCrc s k with
    tokens := ((List.range s.tokens.length).zip s.tokens).map fun t => if t.1 = i then { t.2 with lost := true } else t.2 } := by
  have htok : (countCrc s k).tokens = s.tokens := rfl
  unfold loseToken
  cases hc : carried s key with
  | nil => simp [hc] at h
  | cons j rest =>
    have hn : (if rest.contains i then i else j) = i := by
      rw [hc, List.mem_cons] at h
      by_cases hr : i ∈ rest
      · simp [hr]
      · simp [h.resolve_right hr]
    simp only [hn, htok]

theorem getElem?_markLost {t : Token} {l : List Token} (h : l[i]? = some t) :
    (((List.range l.length).zip l).map fun t => if t.1 = i then { t.2 with lost := true } else t.2)[i]? = some { t with lost := true } := by
  obtain ⟨hi, ht⟩ := List.getElem?_eq_some_iff.mp h
  simp [hi, ht]

end

/-! ## Reclaiming (R43) -/

theorem Map.get_filter {α : Type} (m : Map α) (p : Nat → Bool) (k : Nat) (d : α) :
    Map.get (m.filter fun e => p e.1) k d = if p k then Map.get m k d else d := by
  induction m with
  | nil => simp
  | cons e m ih =>
    rw [List.filter_cons]
    by_cases hk : e.1 = k
    · subst hk
      by_cases hp : p e.1 <;> simp [hp, Map.get, ih]
    · by_cases hp : p e.1 <;> simp [hp, Map.get, ih, hk]

theorem flagOf_clearStreamFlags (s : State) {z : StreamReq} {j f : Nat} (hj : ringAt j = z.ring) (hf : streamFlag z j f = true) :
    flagOf (clearStreamFlags s z) j f = {} := by
  have hst : station (clearStreamFlags s z) j =
      { station s j with flags := (station s j).flags.filter fun f => !streamFlag z j f.1 } := by
    have hmap := Map.get_map s.stations (fun j t =>
      if ringAt j = z.ring then { t with flags := t.flags.filter fun f => !streamFlag z j f.1 } else t) (d := {}) (k := j) (by simp [hj])
    rw [if_pos hj] at hmap
    rw [station, station, ← hmap]
    refine congrArg (fun m : Map Station => Map.get m j {}) (List.map_congr_left fun t _ => ?_)
    split <;> rfl
  rw [flagOf, hst, Map.get_filter _ fun f => !streamFlag z j f]
  simp [hf]

theorem owners_clearReclaimed (s : State) : (clearReclaimed s).owners = s.owners :=
  foldl_keeps (f := clearStreamFlags) State.owners (fun _ _ => rfl) _ _

theorem slots_clearReclaimed (s : State) : (clearReclaimed s).slots = s.slots :=
  foldl_keeps (f := clearStreamFlags) State.slots (fun _ _ => rfl) _ _

/-- R43. Of a stream none of whose positions is left to reclaim, the flags are clear. -/
theorem flagOf_clearReclaimed {s : State} {z : StreamReq} {j f : Nat} (hz : s.reclaiming = [z])
    (hp : ∀ p, p < 64 → z.pos.getLsbD p = true → (slotOf s (slotKey z.dir z.lane p)).reclaim = false) (hj : ringAt j = z.ring)
    (hf : streamFlag z j f = true) : flagOf (clearReclaimed s) j f = {} := by
  have hdone : ((bitsSet z.pos.toNat 64).any fun p => (slotOf s (slotKey z.dir z.lane p)).reclaim) = false := by
    refine List.any_eq_false.mpr fun p hm => ?_
    obtain ⟨hlt, hbit⟩ := mem_bitsSet.mp hm
    simpa using hp p hlt hbit
  simp only [clearReclaimed, hz, List.filter_cons, hdone, Bool.not_false, if_true, List.filter_nil, List.foldl_cons, List.foldl_nil,
    Bool.false_eq_true, if_false]
  exact flagOf_clearStreamFlags _ hj hf

/-- R43. A position being reclaimed becomes best-effort. -/
theorem reclaimAt_reclaims {s : State} {key : Nat} {x : Slot} (hx : slotOf s key = x) (hr : x.reclaim = true) :
    ownerOf (reclaimAt s 15 key) key = { cls := 0, stream := 0 } ∧
    slotOf (reclaimAt s 15 key) key = stamp { freeSlot x with cls := 0, stream := 0, reclaim := false } ∧
    ∀ z j f, s.reclaiming = [z] → z.ring = .meridian → (∀ p, p < 64 → z.pos.getLsbD p = true → slotKey z.dir z.lane p = key) →
      j < 16 → streamFlag z j f = true → flagOf (reclaimAt s 15 key) j f = {} := by
  subst hx
  simp only [reclaimAt, hr, decide_true, Bool.and_true, if_true]
  refine ⟨?_, ?_, fun z j f hz hring hpos hj hf => ?_⟩
  · rw [ownerOf, owners_clearReclaimed]
    exact Map.get_set_same ..
  · rw [slotOf, slots_clearReclaimed]
    exact Map.get_set_same ..
  · refine flagOf_clearReclaimed hz (fun p hp hb => ?_) (by rw [ringAt, if_neg (by omega), hring]) hf
    rw [hpos p hp hb]
    refine (congrArg Slot.reclaim (slotOf_setSlot ..)).trans ?_
    rw [stamp]

section
variable {s : State} {key k : Nat}

/-- R43. The slot of a position that is being reclaimed passes station 15. -/
theorem slotPass_reclaims (hkey : slotKey s.arg.dir s.arg.lane s.arg.pos = key) (hdue : passDue s key = true)
    (hk : passedStation s key = 15) (hc : (ownerOf s key).cls = 1) (ha : armed (entryAt s 15 key) = false)
    (hr : (slotOf s key).reclaim = true) (hok : s.arg.ok = true) (ht : (slotOf s key).thr = false) (hbe : NoPacketEnds (slotOf s key) 15) :
    Gives .slotPass s fun t => ownerOf t key = { cls := 0, stream := 0 } ∧
      slotOf t key = stamp { freeSlot (passing s key) with cls := 0, stream := 0, reclaim := false } ∧
      ∀ z j f, s.reclaiming = [z] → z.ring = .meridian → (∀ p, p < 64 → z.pos.getLsbD p = true → slotKey z.dir z.lane p = key) →
        j < 16 → streamFlag z j f = true → flagOf t j f = {} := by
  have hpass : passSlot (hopped s key) 15 key (passing s key) = setSlot (hopped s key) key (passing s key) := by
    refine (passSlot_sound (s := hopped s key) (x := passing s key) (.inr hok)).trans ?_
    rw [passBestEffort_stream hc ht hbe]
    dsimp only
    rw [passEntry_unarmed (by rw [entryAt_hopped, ha])]
  have hx := slotPass_other hkey hdue (by rw [hc]; decide)
  rw [hk, hpass] at hx
  refine ⟨_, hx, ?_⟩
  split
  · exact reclaimAt_reclaims (s := hopped s key) (slotOf_setSlot ..) hr
  · exact reclaimAt_reclaims (s := setSlot (hopped s key) key (passing s key)) (slotOf_setSlot ..) hr

/-- R36, R49. In pass-through a slot goes on as it is. -/
theorem slotPass_passThrough (hkey : slotKey s.arg.dir s.arg.lane s.arg.pos = key) (hdue : passDue s key = true)
    (hk : passedStation s key = k) (hp : (station s k).passThrough = true)
    (hr : (slotOf s key).reclaim = false ∨ k ≠ 15 ∨ (ownerOf s key).cls = 2) : exec .slotPass s = .next (hopped s key) := by
  subst hk
  by_cases hc : (ownerOf s key).cls = 2
  · rw [slotPass_control hkey hdue hc, if_pos (by rw [hp, Bool.or_true])]
  · rw [slotPass_other hkey hdue hc, if_pos hp, reclaimAt_kept]
    rw [show slotOf (hopped s key) key = passing s key from slotOf_setSlot ..]
    rcases hr with hr | hr | hr
    · exact .inl hr
    · exact .inr hr
    · exact absurd hr hc

section
variable (hkey : slotKey s.arg.dir s.arg.lane s.arg.pos = key) (hdue : passDue s key = true) (hk : passedStation s key = k)
  (hc : (ownerOf s key).cls = 2)
include hkey hdue hk hc

omit hk in
theorem slotPass_control_moves (h : s.arg.ok = true ∨ key ≠ 0 ∨ ∀ t ∈ s.tokens, t.equator = true ∨ t.lost = true) :
    exec .slotPass s = .next (hopped s key) := by
  rw [slotPass_control hkey hdue hc]
  rcases h with h | h
  · rw [if_pos (by rw [h, Bool.true_or])]
  · rw [loseToken_none, ite_self]
    refine List.eq_nil_iff_forall_not_mem.mpr fun i hi => ?_
    obtain ⟨h0, t, ht, he, hl⟩ := mem_carried.mp hi
    rcases h with h | h
    · exact h h0
    · have := h t (List.mem_of_getElem? ht)
      simp [he, hl] at this

/-- R66. A bad CRC loses a token. -/
theorem slotPass_losesToken {t : Token} (hp : (station s k).passThrough = false) (hok : s.arg.ok = false) (h0 : key = 0)
    (ht : s.tokens[s.arg.index]? = some t) (he : t.equator = false) (hl : t.lost = false) :
    Gives .slotPass s fun u => u.tokens[s.arg.index]? = some { t with lost := true } ∧
      (station u k).crcDiscard = min ((station s k).crcDiscard + 1) 0xFFFF := by
  subst hk
  have hx := slotPass_control hkey hdue hc
  rw [hok, hp, if_neg (by decide), loseToken_carried (s := hopped s key) _ (mem_carried.mpr ⟨h0, t, ht, he, hl⟩)] at hx
  exact ⟨_, hx, getElem?_markLost ht, station_countCrc (hopped s key) _⟩

end

end

end Sys2Proof.Machine

namespace Sys2Proof.Machine

/-! ## Staging and injection (R51, R60, R63) -/

theorem readsLocal_iff {op : Nat} : readsLocal op = true ↔ op = 1 ∨ op = 3 ∨ op = 5 := by
  simp [readsLocal, or_assoc]

/-- R51. A staged fragment stands in its entry. -/
theorem stageFragment_stages {s : State} {k key : Nat} {l : Local} {f : Fragment} (hk : s.arg.station = k)
    (hkey : slotKey s.arg.dir s.arg.lane s.arg.pos = key) (hp : (station s k).passThrough = false) (ha : armed (entryAt s k key) = true)
    (hop : readsLocal (entryOp (entryAt s k key)) = true) (hst : (entryAt s k key).staged = none)
    (hext : extentOf s k (entryAt s k key) (entryAt s k key).n = some l) (hf : readLocal s l (extentBytes s k (entryAt s k key)) = some f) :
    Gives .stageFragment s fun t => t.mem = s.mem ∧ entryAt t k key = { entryAt s k key with staged := some f } := by
  have hnow : stagedNow s k (entryAt s k key) = some f := by simp only [stagedNow, hst, hext, hf]
  have hx : exec .stageFragment s = .next (setEntry s k key { entryAt s k key with staged := some f }) := by
    show execStageFragment s = _
    simp only [execStageFragment, hk, hkey, ha, hop, hp, hnow, Bool.not_false, Bool.and_self, if_true]
  exact ⟨_, hx, rfl, entryAt_setEntry s k key (e := { entryAt s k key with staged := some f }) (word_of_armed ha)⟩

/-- R37. The position that passes a station in a direction at a ring clock does so there. -/
theorem passStation_positionAt {d : Dir} {k t : Nat} (hk : k < 16) (ht : positionAt d k t ≤ t) :
    passStation (decide (d = .west)) ((t - positionAt d k t) / 4) = k := by
  unfold passStation positionAt stationOffset at *
  cases d
  · simp only [reduceCtorEq, decide_false, Bool.false_eq_true, if_false] at ht ⊢
    omega
  · simp only [decide_true, if_true] at ht ⊢
    omega

/-- R60. The free slot that a station finds: the one of the lowest lane. -/
theorem freeLane_some {s : State} {d : Dir} {k t key : Nat} (h : freeLane s d k t = some key) : ∃ l < 8,
    key = slotKey d l (positionAt d k t) ∧ positionAt d k t ≤ t ∧ freeFor s key = true ∧
    ∀ j, j < l → freeFor s (slotKey d j (positionAt d k t)) = false := by
  unfold freeLane at h
  dsimp only at h
  split at h
  · cases h
  · next ht =>
    rw [List.find?_map, Option.map_eq_some_iff] at h
    obtain ⟨l, hl, rfl⟩ := h
    obtain ⟨hfree, hfirst⟩ := List.find?_range_eq_some.mp hl
    refine ⟨l, List.mem_range.mp hfirst.1, rfl, Nat.not_lt.mp ht, hfree, fun j hj => ?_⟩
    simpa using hfirst.2 j hj

/-- R60. Where and when a station injects. -/
theorem injection_some {s : State} {w : Waiting} {key t : Nat} (h : injection s w = some (key, t)) :
    s.ring ≤ t ∧ freeLane s (wayTo w.station w.dst) w.station t = some key := by
  obtain ⟨c, hc, hfound⟩ := List.exists_of_findSome?_eq_some h
  obtain ⟨i, -, rfl⟩ := List.mem_map.mp hc
  obtain ⟨key', hkey, heq⟩ := Option.map_eq_some_iff.mp hfound
  cases heq
  exact ⟨Nat.le_add_right .., hkey⟩

/-- R37. The slot of a key as it comes to the injecting station at ring clock t. -/
def slotComes (s : State) (key t : Nat) : State :=
  setSlot { s with ring := t } key { slotOf s key with hops := (t - keyPos key) / 4 + 1 }

theorem injection_place {s : State} {w : Waiting} {key t : Nat} (h : injection s w = some (key, t)) :
    keyWest key = decide (wayTo w.station w.dst = .west) ∧ freeFor s key = true ∧ s.ring ≤ t ∧ keyPos key ≤ t ∧
    (w.station < 16 → passStation (keyWest key) ((t - keyPos key) / 4) = w.station) ∧
    ∀ l, l < keyLane key → freeFor s (slotKey (wayTo w.station w.dst) l (keyPos key)) = false := by
  obtain ⟨ht, hlane⟩ := injection_some h
  obtain ⟨l, hl, rfl, hle, hfree, hfirst⟩ := freeLane_some hlane
  have hpos : keyPos (slotKey (wayTo w.station w.dst) l (positionAt (wayTo w.station w.dst) w.station t)) =
      positionAt (wayTo w.station w.dst) w.station t := by
    rw [keyPos_slotKey]
    exact Nat.mod_mod ..
  rw [hpos, keyWest_slotKey, keyLane_slotKey, Nat.mod_eq_of_lt hl]
  exact ⟨rfl, hfree, ht, hle, fun hk => passStation_positionAt hk hle, hfirst⟩

section
variable {s : State} {w : Waiting} (hw : s.waiting[s.arg.index]? = some w) (hp : (station s w.station).passThrough = false)
include hw hp

theorem beInject_none (h : injection s w = none) : exec .beInject s = .next s := by
  show execBeInject s = _
  simp only [execBeInject, hw, hp, h, Bool.false_eq_true, if_false]

/-- R60. The packet goes into the slot. -/
theorem beInject_injects {key t : Nat} (h : injection s w = some (key, t)) (hl : w.late = none) : Gives .beInject s fun u =>
    u.ring = t ∧ u.waiting = s.waiting.eraseIdx s.arg.index ∧ (slotOf u key).valid = true ∧ (slotOf u key).payload = encodePacket w.pkt ∧
      (slotOf u key).src = w.station ∧ (slotOf u key).dst = w.dst := by
  have hload : loadPacket s w = some (s, some w.pkt) := by simp [loadPacket, hl]
  have hx : exec .beInject s = .next (injectInto (slotComes s key t) s.arg.index key) := by
    show execBeInject s = _
    simp only [execBeInject, hw, hp, h, hload, Bool.false_eq_true, if_false]
    rfl
  rw [injectInto_plain (s := slotComes s key t) (w := w) hw hl] at hx
  obtain ⟨hvalid, -, hpay, hdst, hsrc, -⟩ := fillSlot_fields (slotOf (slotComes s key t) key) w.station w.dst w.pkt rfl
  refine ⟨_, hx, rfl, rfl, ?_⟩
  rw [slotOf_setSlot]
  exact ⟨hvalid, hpay, hsrc, hdst⟩

omit hp in
theorem beStarved_not (h : s.ring < w.since + 64 ∨ laneNo (wayTo w.station w.dst) s.arg.lane ∈ (station s w.station).starving ∨
    laneNo (wayTo w.station w.dst) s.arg.lane ∈ (station s w.station).marks) : exec .beStarved s = .next s := by
  show execBeStarved s = _
  rcases h with h | h | h <;> simp [execBeStarved, hw, h]

/-- R63. A packet that has waited 64 ring clocks. -/
theorem beStarved_starves (hr : w.since + 64 ≤ s.ring) (hst : laneNo (wayTo w.station w.dst) s.arg.lane ∉ (station s w.station).starving)
    (hm : laneNo (wayTo w.station w.dst) s.arg.lane ∉ (station s w.station).marks) : exec .beStarved s =
      .next (modStation s w.station fun t => { t with starving := t.starving ++ [laneNo (wayTo w.station w.dst) s.arg.lane] }) := by
  show execBeStarved s = _
  simp [execBeStarved, hw, hp, Nat.not_lt.mpr hr, hst, hm]

end

/-! ## Slot passes -/

/-- Settles O44: every kind of pass has its lemma, stated of the number, station and clock of the key's next pass. -/
theorem slotPasses : Obligations.SlotPasses := by
  unfold Obligations.SlotPasses
  intro s a key lane x h
  have hkey : slotKey a.dir a.lane a.pos = key := rfl
  have hpos : keyPos key = a.pos % 64 := keyPos_slotKey ..
  have hdir : keyDir key = a.dir := keyDir_slotKey ..
  have hlane : lane = laneNo (keyDir key) (keyLane key) := by
    rw [hdir, show keyLane key = a.lane % 8 from keyLane_slotKey .., laneNo, Nat.mod_mod]
    show (if a.dir = .west then 8 else 0) + a.lane % 8 = _
    cases a.dir <;> rfl
  have hnext : h = nextPass s key := by rw [nextPass, hpos]; rfl
  have hwest : keyWest key = decide (a.dir = .west) := keyWest_slotKey ..
  clear_value key lane h
  subst hnext hlane
  have hclock : a.pos % 64 + 4 * nextPass s key = dueClock s key := by rw [dueClock, passClock, hpos]
  have hstation : (if a.dir = .west then 15 - nextPass s key % 16 else nextPass s key % 16) = passedStation s key := by
    rw [passedStation, hwest, passStation]
    simp only [decide_eq_true_eq]
  rw [hclock, hstation]
  intro y k o e due open_ empty moved goesOn
  have hpasses (hopen : open_) (hr : x.reclaim = false) : PassesAt s key k := ⟨hkey, hopen.1, rfl, hopen.2, hr⟩
  refine ⟨?_, ?_, ?_, ?_, ?_, ?_, ?_, ?_, ?_, ?_, ?_, ?_, ?_, ?_, ?_⟩
  · exact fun d => ⟨keyPos_slotKey .., keyLane_slotKey ..⟩
  · exact fun hdue => slotPass_undue hkey (by simpa [due] using hdue)
  · exact fun hdue hp hr => slotPass_passThrough hkey hdue rfl hp hr
  · exact fun hopen hc hok => slotPass_control_moves hkey hopen.1 hc (.inl hok)
  · exact fun t hopen hc hok h0 ht he hl => slotPass_losesToken hkey hopen.1 rfl hc hopen.2 hok h0 ht he hl
  · exact fun hopen hc h => slotPass_control_moves hkey hopen.1 hc (.inr h)
  · intro hopen hc hr ht hbe hcrc
    have hp := hpasses hopen hr
    exact ⟨fun ha => slotPass_unarmed hp hc ht hbe hcrc ha, fun ha ho => slotPass_ownerSkip hp hc ht hbe hcrc ha ho,
      fun ha h0 hst hm => slotPass_unmatched hp hc ht hbe hcrc ha h0 hst hm⟩
  · exact fun hopen hc hv hok ha hr ht => slotPass_poisoned (hpasses hopen hr) ha hc hv hok ht
  · intro l hopen hc hr ht hbe hok ha h0 hst hm hfmt hext hcv hpo hov hi hch n entryGoesOn
    have hf : FiresAt s key k e l := ⟨hpasses hopen hr, hc, ht, hbe, hok, rfl, ha, h0, hst, hm, hfmt, hext, hcv, hpo, hov, hi, hch⟩
    exact ⟨fun f hop hs hfp => hf.load hop hs hfp,
      fun hop hs => slotPass_retries (hpasses hopen hr) hc ht hbe (.inr hok) ha h0 hst hm hop hext hs,
      fun f hop hs hfp w hw hin => hf.add hop hs hfp hw hin, fun hop hs => hf.addMissing hop hs,
      fun c hn off hd hop hl hh hsound => hf.copy hop hl hh hsound⟩
  · intro hopen hc hx ha hr hcrc ht p
    have hp := hpasses hopen hr
    refine ⟨fun hv hd => slotPass_takes hp ha hc hx hcrc ht hv hd,
      fun r z hv hd hs ho hag hk hreq hpc hz => slotPass_removes hp ha hc hx hcrc ht hv hd hs ho hag hk hreq hpc hz,
      fun hbe => slotPass_bestEffort hp ha hc hcrc ht hbe, fun hv hd hs ho hl hst => ?_⟩
    rw [← hdir] at hst
    exact slotPass_throttles hp ha hc hx hcrc ht hv hd hs ho hl hst
  · exact fun hopen hc ha hr hv hok ht => slotPass_freed (hpasses hopen hr) ha hc hv hok ht
  · intro w i hopen hc ha hr hv ht hm hi hw hl
    rw [← hdir] at hi
    exact slotPass_returns (hpasses hopen hr) ha hc hv ht hm hi hw hl
  · intro hdue hc ha hr hok hk ht hbe
    have ha' : armed (entryAt s 15 key) = false := by rw [← hk]; exact ha
    have hbe' : NoPacketEnds (slotOf s key) 15 := by rw [← hk]; exact hbe
    exact slotPass_reclaims hkey hdue hk hc ha' hr hok ht hbe'
  · exact fun l f hp ha hop hst hext hf => stageFragment_stages rfl rfl hp ha (readsLocal_iff.mpr hop) hst hext hf
  · intro w hw hp west lane
    have hway : (if west then Dir.west else .east) = wayTo w.station w.dst := rfl
    have hwest : decide (wayTo w.station w.dst = .west) = west := by rw [← hway]; cases west <;> rfl
    have hlane : lane = laneNo (wayTo w.station w.dst) a.lane := by
      rw [← hway, laneNo]
      show (if west then 8 else 0) + a.lane % 8 = _
      cases west <;> rfl
    rw [hlane, hway]
    refine ⟨fun h => beInject_none hw hp h, fun j t h => ?_, fun h => beStarved_not hw h, fun hr hst hm => beStarved_starves hw hp hr hst hm⟩
    obtain ⟨hkw, hfree, ht, hle, hpass, hfirst⟩ := injection_place h
    rw [hwest] at hkw
    rw [hkw] at hpass
    exact ⟨hkw, hfree, ht, hle, hpass, hfirst, fun hl => beInject_injects hw hp h hl⟩

end Sys2Proof.Machine

namespace Sys2Proof.Machine

/-! ## What stores to memory leave

The state without its memories, the homes, the engines, what waits on the rings and at the host, and the agenda: no store changes it. -/

def State.unstored (s : State) : State :=
  { s with agenda := [], out := [], eq := s.eq.unheld, waiting := [], inbox := [], engines := [], homes := [], mem := [], poisoned := [], hostMem := [] }

/-- A part of the state that no store changes. -/
theorem State.of_unstored {β : Sort _} {s t : State} (h : t.unstored = s.unstored) (g : State → β)
    (hg : ∀ s : State, g s.unstored = g s := by exact fun _ => rfl) : g t = g s := by
  rw [← hg, h, hg]

section
variable (s : State)

@[simp] theorem unstored_emit (m : OutMsg) : (emit s m).unstored = s.unstored := rfl

@[simp] theorem unstored_emitLink (m : OutMsg) : (emitLink s m).unstored = s.unstored := by
  unfold emitLink
  split <;> rfl

@[simp] theorem unstored_sendPacket (src dst : Nat) (p : Packet) (late : Option (Nat × Piece)) :
    (sendPacket s src dst p late).unstored = s.unstored := by
  unfold sendPacket
  split <;> rfl

@[simp] theorem unstored_afterStore (a n : Nat) : (afterStore s a n).unstored = s.unstored :=
  (foldl_keeps (f := fun s (q : Nat × Nat) => enqueue s .pidxNotify { index := q.2 }) State.unstored (fun _ _ => rfl) _ _).trans
    (foldl_keeps (f := fun s w => notifyWaiter s (dpaDie a) w) State.unstored (fun s _ => unstored_sendPacket s ..) _ _)

@[simp] theorem unstored_storeDram (a : Nat) (bs : List Byte) : (storeDram s a bs).unstored = s.unstored :=
  unstored_afterStore (putDram s a bs) ..

@[simp] theorem unstored_addHot (a x : Nat) : (addHot s a x).unstored = s.unstored := by
  unfold addHot
  split
  · rfl
  · exact unstored_storeDram ..

@[simp] theorem unstored_flushHot (e launch : Nat) : (flushHot s e launch).unstored = s.unstored := by
  unfold flushHot
  refine (foldl_keeps State.unstored (fun s h => ?_) _ _).trans rfl
  split
  · split
    · exact foldl_keeps (f := fun s a => addHot (addHot s a h.bytes) (a + 8) h.ticks) State.unstored
        (fun s _ => (unstored_addHot ..).trans (unstored_addHot s ..)) _ _
    · rfl
  · rfl

variable {s}

theorem unstored_storeVa {t : State} {l : Launch} {va : Nat} {bs : List Byte} (h : storeVa s l va bs = .ok t) : t.unstored = s.unstored := by
  unfold storeVa at h
  split at h
  · cases h
  · split at h
    · cases h
      exact foldl_keeps State.unstored (fun s _ => unstored_storeDram s ..) _ _
    · cases h
      exact unstored_emitLink ..
    · cases h

theorem unstored_storeVaRange {t : State} {l : Launch} {va : Nat} {bs : List Byte} (h : storeVaRange s l va bs = .ok t) :
    t.unstored = s.unstored := by
  refine List.foldlRecOn (motive := fun r : Except (Miss × Nat) State => ∀ t, r = .ok t → t.unstored = s.unstored) _ _ ?_ ?_ t h
  · rintro t ⟨⟩
    rfl
  · intro r ih p _ t ht
    split at ht
    · split at ht
      · cases ht
        exact (unstored_storeVa ‹_›).trans (ih _ rfl)
      · cases ht
    · exact ih t ht

variable (s)

@[simp] theorem unstored_storeQuiet (l : Launch) (va : Nat) (bs : List Byte) : (storeQuiet s l va bs).unstored = s.unstored := by
  unfold storeQuiet
  split
  · exact unstored_storeVaRange ‹_›
  · rfl

@[simp] theorem unstored_writeCompletion (l : Launch) (word0 : Nat) (words : List Nat) :
    (writeCompletion s l word0 words).unstored = s.unstored := by
  unfold writeCompletion
  dsimp only
  split <;> simp

variable {s}

theorem unstored_queueWrite {t : State} {q : Queue} {a : Nat} {bs : List Byte} (h : queueWrite s q a bs = some t) :
    t.unstored = s.unstored := by
  unfold queueWrite at h
  split at h
  · cases h
    exact unstored_emitLink ..
  · split at h
    · cases h
      exact unstored_storeDram ..
    · cases h

end

/-- R103, R116. A completion's vector is sent where its queue has one. -/
theorem msix_writeCompletion {s : State} {l : Launch} (word0 : Nat) (words : List Nat) (h : (queueOf s l.queue).ien = true) :
    .msix l.queue ∈ (writeCompletion s l word0 words).out := by
  unfold writeCompletion
  dsimp only
  rw [if_pos h]
  exact List.mem_append_right _ (List.mem_singleton.mpr rfl)

/-! ## Acceptance (R105, R108, R110) -/

/-- R108. An id that no live launch has: there are more candidates than live launches. -/
theorem freshLaunchId_fresh {s : State} (h : s.launches.length < 1024) : ∀ x ∈ s.launches, x.id ≠ freshLaunchId s := by
  let from_ (i : Nat) : Nat := (s.nextLaunch - 1 + i) % (2 ^ 32 - 1) + 1
  have hinj : ((List.range 1025).map from_).Nodup := by
    refine List.Nodup.map_on (fun i hi j hj he => ?_) List.nodup_range
    rw [List.mem_range] at hi hj
    have : (s.nextLaunch - 1 + i) % (2 ^ 32 - 1) = (s.nextLaunch - 1 + j) % (2 ^ 32 - 1) := Nat.succ.inj he
    omega
  obtain ⟨i, hi⟩ : ∃ i, (((List.range 1025).map from_).find? fun i => !s.launches.any fun l => l.id = i) = some i := by
    rw [← Option.isSome_iff_exists, Option.isSome_iff_ne_none]
    intro hnone
    have hsub : (List.range 1025).map from_ ⊆ s.launches.map (·.id) := fun i hi => by
      have := List.find?_eq_none.mp hnone i hi
      simpa using this
    have hlen := (List.subperm_of_subset hinj hsub).length_le
    rw [List.length_map, List.length_map, List.length_range] at hlen
    omega
  have hfresh : freshLaunchId s = i := by
    show (((List.range 1025).map from_).find? fun i => !s.launches.any fun l => l.id = i).getD 1 = i
    rw [hi, Option.getD_some]
  intro x hx
  have := List.find?_some hi
  rw [hfresh]
  simp only [Bool.not_eq_true', List.any_eq_false, decide_eq_true_eq] at this
  exact this x hx

/-- R110. A record's launch keeps its id, its queue and its place, whatever its tables hold. -/
theorem validate_fields (s : State) (r : List Byte) (l : Launch) (pcap : Nat) :
    (validate s r l pcap).2.id = l.id ∧ (validate s r l pcap).2.queue = l.queue ∧ (validate s r l pcap).2.record = l.record ∧
      (validate s r l pcap).1 ≤ 9 := by
  unfold validate
  dsimp only
  repeat' split
  all_goals exact ⟨rfl, rfl, rfl, Nat.le_of_ble_eq_true rfl⟩

theorem recordLaunch_fields (r : List Byte) (id queue index : Nat) : (recordLaunch r id queue index).id = id ∧
    (recordLaunch r id queue index).queue = queue ∧ (recordLaunch r id queue index).record = index := ⟨rfl, rfl, rfl⟩

/-- R108. What a launch enlisted changes. -/
theorem launches_enlist (s : State) (l : Launch) : (enlist s l).launches = s.launches ++ [l] ∧ (enlist s l).queues = s.queues := by
  have h1 := unstored_storeQuiet s l l.compl (bytesOf 0 8)
  have h2 : (if l.hot = 0 then storeQuiet s l l.compl (bytesOf 0 8)
      else storeQuiet (storeQuiet s l l.compl (bytesOf 0 8)) l l.hot (List.replicate 4096 0#8)).unstored = s.unstored := by
    split
    · exact h1
    · exact (unstored_storeQuiet ..).trans h1
  exact ⟨congrArg (· ++ [l]) (State.of_unstored h2 State.launches), State.of_unstored h2 State.queues⟩

/-- R108, R110. A rejection is in the error log; no launch and no queue changes. -/
theorem reject_logs (s : State) (l : Launch) (reason : Nat) : (reject s l reason).launches = s.launches ∧
    (reject s l reason).queues = s.queues ∧ (reject s l reason).rrQueue = s.rrQueue ∧
    ∃ e ∈ (reject s l reason).mgmt.log, e.cls = 4 ∧ e.code = 0x10000 + reason := by
  have h : (reject s l reason).unstored = (logEvent s 4 16 l.queue (0x10000 + reason) 0 0 l.record).unstored := by
    unfold reject
    dsimp only
    split
    · exact unstored_writeCompletion ..
    · rfl
  refine ⟨State.of_unstored h State.launches, State.of_unstored h State.queues, State.of_unstored h State.rrQueue, ?_⟩
  rw [show (reject s l reason).mgmt.log = _ from State.of_unstored h fun s => s.mgmt.log]
  exact ⟨_, List.mem_append_right _ (List.mem_singleton.mpr rfl), rfl, rfl⟩

section
variable {s : State} {n : Nat} (hup : underway s = true) (hroom : s.launches.length < 1024) (hn : nextQueue s = some n)
include hup hroom hn

/-- R101. A line that the host holds is asked back first. -/
theorem recordAccept_asks {r : List Byte} {line : Nat}
    (hr : queueRead s (queueOf s n) ((queueOf s n).baseAddr + 256 * ((queueOf s n).cidx.toNat % 2 ^ (queueOf s n).size.toNat)) 256 = some r)
    (hheld : acceptHeld s (queueOf s n) ((queueOf s n).baseAddr + 256 * ((queueOf s n).cidx.toNat % 2 ^ (queueOf s n).size.toNat))
      (validate s r (recordLaunch r (freshLaunchId s) n (queueOf s n).cidx.toNat) (queueOf s n).pcap.toNat).2 = some line) :
    exec .launchRecordAccept s = .next (sendSnoop s line) := by
  show execLaunchRecordAccept s = _
  have hfull : ¬1024 ≤ s.launches.length := by omega
  simp [execLaunchRecordAccept, hup, hfull, hn, hr, hheld]

/-- R105, R108. A record accepted is a live launch, or in the error log with its reason. -/
theorem recordAccept_accepts {r : List Byte} {s3 : State} {q : Queue} {v : Nat × Launch} (hq : queueOf s n = q)
    (hv : validate s r (recordLaunch r (freshLaunchId s) n q.cidx.toNat) q.pcap.toNat = v)
    (hr : queueRead s q (q.baseAddr + 256 * (q.cidx.toNat % 2 ^ q.size.toNat)) 256 = some r)
    (hheld : acceptHeld s q (q.baseAddr + 256 * (q.cidx.toNat % 2 ^ q.size.toNat)) v.2 = none)
    (hw : queueWrite (modQueue { (if v.1 = 0 then enlist s v.2 else s) with rrQueue := (n + 1) % 64 } n fun q => { q with cidx := q.cidx + 1 })
      q q.cidxAddr (bytesOf (q.cidx + 1).toNat 4) = some s3) :
    Gives .launchRecordAccept s fun t => (queueOf t n).cidx = q.cidx + 1 ∧ t.rrQueue = (n + 1) % 64 ∧
      (v.1 = 0 → t.launches = s.launches ++ [v.2] ∧ v.2.id = freshLaunchId s ∧ ∀ x ∈ s.launches, x.id ≠ freshLaunchId s) ∧
      (v.1 ≠ 0 → t.launches = s.launches ∧ ∃ e ∈ t.mgmt.log, e.cls = 4 ∧ e.code = 0x10000 + v.1) := by
  have hx : exec .launchRecordAccept s = .next (if v.1 = 0 then s3 else reject s3 { v.2 with id := 0 } v.1) := by
    show execLaunchRecordAccept s = _
    have hserves : ¬(!underway s || decide (s.launches.length ≥ 1024)) = true := by simpa [hup] using hroom
    rw [execLaunchRecordAccept, if_neg hserves, hn]
    dsimp only
    rw [hq, hr]
    dsimp only
    rw [hv, hheld]
    dsimp only
    rw [hw]
  have hkept := unstored_queueWrite hw
  have hqueue : (queueOf s3 n).cidx = q.cidx + 1 := by
    have hqs : (if v.1 = 0 then enlist s v.2 else s).queues = s.queues := by
      split
      · exact (launches_enlist ..).2
      · rfl
    refine (State.of_unstored hkept fun s => (queueOf s n).cidx).trans ?_
    rw [queueOf_modQueue, if_pos rfl]
    show (Map.get (if v.1 = 0 then enlist s v.2 else s).queues n {}).cidx + 1 = _
    rw [hqs, ← hq]
    rfl
  have hrr : s3.rrQueue = (n + 1) % 64 := State.of_unstored hkept State.rrQueue
  have hlaunches : s3.launches = (if v.1 = 0 then enlist s v.2 else s).launches := State.of_unstored hkept State.launches
  refine ⟨_, hx, ?_⟩
  by_cases h0 : v.1 = 0
  · rw [if_pos h0] at hlaunches ⊢
    refine ⟨hqueue, hrr, fun _ => ⟨hlaunches.trans (launches_enlist ..).1, ?_, freshLaunchId_fresh hroom⟩, fun h => absurd h0 h⟩
    rw [← hv, (validate_fields ..).1, (recordLaunch_fields ..).1]
  · rw [if_neg h0] at hlaunches ⊢
    obtain ⟨hl, hqs, hrr', hlog⟩ := reject_logs s3 { v.2 with id := 0 } v.1
    refine ⟨?_, hrr'.trans hrr, fun h => absurd h h0, fun _ => ⟨hl.trans hlaunches, hlog⟩⟩
    rw [queueOf, hqs]
    exact hqueue

end

end Sys2Proof.Machine

namespace Sys2Proof.Machine

/-! ## Grants and roots (R42, R113) -/

/-- R113. The root waypoint of a launch. -/
theorem rootWaypoint_adds (s : State) (l : Launch) (d : Nat) : ∃ w ∈ (rootWaypoint s l d).waypoints,
    w.key = ⟨l.id, 1⟩ ∧ w.state = .ready ∧ w.resume = l.entry ∧ w.level = 0 ∧ w.lo = 0 ∧ w.prio = l.prio ∧ w.holder = d ∧
      w.sval = l.args ∧ w.hi = (levelWord l 0).elim 1 fun w => w.extent :=
  ⟨_, List.mem_append_right _ (List.mem_singleton.mpr rfl), rfl, rfl, rfl, rfl, rfl, rfl, rfl, rfl, rfl⟩

/-- A launch changed in other fields than its id and its streams. -/
theorem streams_modLaunch {s : State} {l : Nat} {f : Launch → Launch} (hid : ∀ x, (f x).id = x.id) (hst : ∀ x, (f x).streams = x.streams)
    {y : Launch} (h : findLaunch s l = some y) : ∃ z, findLaunch (modLaunch s l f) l = some z ∧ z.streams = y.streams :=
  ⟨f y, by rw [findLaunch_modLaunch_same s l hid, h]; rfl, hst y⟩

theorem streams_rootWaypoint {s : State} {x y : Launch} (d : Nat) (h : findLaunch s x.id = some y) :
    ∃ z, findLaunch (rootWaypoint s x d) x.id = some z ∧ z.streams = y.streams := by
  obtain ⟨z, hz, hzs⟩ := streams_modLaunch (s := s) (f := fun x => { x with granted := true }) (fun _ => rfl) (fun _ => rfl) h
  obtain ⟨z', hz', hzs'⟩ := streams_modLaunch (f := fun l : Launch => { l with nextWp := max l.nextWp (1 + 1) }) (fun _ => rfl) (fun _ => rfl) hz
  exact ⟨z', hz', hzs'.trans hzs⟩

theorem owners_foldl_setOwner (key : Nat → Nat) (o : Owner) (ps : List Nat) (s : State) :
    (ps.foldl (fun s p => setOwner s (key p) o) s).owners = (ps.map key).foldl (fun m i => Map.set m i o) s.owners := by
  induction ps generalizing s with
  | nil => rfl
  | cons p ps ih => exact ih (setOwner s (key p) o)

/-- The id with which a stream is granted (R42, R73). -/
def grantedId (s : State) (x : StreamReq) : Nat := if x.ring = .equator then x.eqid else freshStreamId s

section
variable (s : State) (l i : Nat) (x : StreamReq)

/-- The launch's record of a stream granted. -/
def streamGranted : State := modLaunch s l fun y => { y with streams := y.streams.set i { x with id := grantedId s x } }

theorem grant_eq : grant s l i x = if x.ring = .equator then streamGranted s l i x else
    (bitsSet x.pos.toNat 64).foldl (fun u p => setOwner u (slotKey x.dir x.lane p) { cls := 1, stream := grantedId s x })
      (streamGranted s l i x) := rfl

theorem launches_grant : (grant s l i x).launches = (streamGranted s l i x).launches := by
  rw [grant_eq]
  split
  · rfl
  · exact foldl_keeps (f := fun s p => setOwner s (slotKey x.dir x.lane p) _) State.launches (fun _ _ => rfl) _ _

/-- R42. A stream granted on the Meridian owns its positions. -/
theorem ownerOf_grant (hx : x.ring = .meridian) {p : Nat} (hp : p < 64) (hb : x.pos.getLsbD p = true) :
    ownerOf (grant s l i x) (slotKey x.dir x.lane p) = { cls := 1, stream := grantedId s x } := by
  have hne : x.ring ≠ .equator := by rw [hx]; decide
  have hmem : slotKey x.dir x.lane p ∈ (bitsSet x.pos.toNat 64).map (slotKey x.dir x.lane) :=
    List.mem_map_of_mem (mem_bitsSet.mpr ⟨hp, hb⟩)
  rw [grant_eq, if_neg hne, ownerOf, owners_foldl_setOwner (slotKey x.dir x.lane), Map.get_foldl_set fun _ => _, if_pos hmem]

end

/-- R113. The root waypoint that a grant to launch l may bring. -/
def rootAfter (s : State) (l : Nat) : State := match rootless s with
  | some (y, d) => if y.id = l then rootWaypoint s y d else s
  | none => s

section
variable {s : State} (hup : underway s = true)
include hup

theorem streamGrant_roots {l : Launch} {d : Nat} (h : rootless s = some (l, d)) : exec .streamGrant s = .next (rootWaypoint s l d) := by
  show execStreamGrant s = _
  simp [execStreamGrant, hup, h]

/-- R42. The first request that can be is granted; the last of a launch brings its root. -/
theorem streamGrant_grants {l i : Nat} {x : StreamReq} {y : Launch} (hr : rootless s = none) (hn : nextGrant s = some (l, i, x))
    (hl : findLaunch s l = some y) : Gives .streamGrant s fun t =>
      (∃ z, findLaunch t l = some z ∧ z.streams = y.streams.set i { x with id := grantedId s x }) ∧
        (x.ring = .meridian → ∀ p, p < 64 → x.pos.getLsbD p = true →
          ownerOf t (slotKey x.dir x.lane p) = { cls := 1, stream := grantedId s x }) := by
  have hx : exec .streamGrant s = .next (rootAfter (grant s l i x) l) := by
    show execStreamGrant s = _
    simp only [execStreamGrant, hup, hr, hn, Bool.not_true, Bool.false_eq_true, if_false]
    rfl
  have hfound : findLaunch (grant s l i x) l = some { y with streams := y.streams.set i { x with id := grantedId s x } } := by
    have hmod := findLaunch_modLaunch_same s l
      (f := fun y => { y with streams := y.streams.set i { x with id := grantedId s x } }) fun _ => rfl
    rw [hl] at hmod
    rw [findLaunch, launches_grant]
    exact hmod
  refine ⟨_, hx, ?_⟩
  unfold rootAfter
  split
  · next y' d _ =>
    split
    · next he =>
      subst he
      exact ⟨streams_rootWaypoint d hfound, fun hm p hp hb => ownerOf_grant s _ i x hm hp hb⟩
    · exact ⟨⟨_, hfound, rfl⟩, fun hm p hp hb => ownerOf_grant s l i x hm hp hb⟩
  · exact ⟨⟨_, hfound, rfl⟩, fun hm p hp hb => ownerOf_grant s l i x hm hp hb⟩

end

end Sys2Proof.Machine

namespace Sys2Proof.Machine

/-! ## Completion (R114 to R116) -/

theorem Map.mem_of_find {α : Type} {m : Map α} {k : Nat} {x : α} (h : Map.find m k = some x) : (k, x) ∈ m := by
  induction m with
  | nil => cases h
  | cons e m ih =>
    rw [Map.find] at h
    split at h
    · next hk =>
      cases h
      exact hk ▸ List.mem_cons_self ..
    · exact List.mem_cons_of_mem _ (ih h)

section
variable (s : State) (l : Launch)

/-- The cores without a launch's collective plans. -/
def planless (id : Nat) : State :=
  { s with cores := s.cores.map fun e => (e.1, { e.2 with plans := e.2.plans.filter fun p => p.2.launch ≠ id }) }

theorem coreOf_planless (id c : Nat) :
    coreOf (planless s id) c = { coreOf s c with plans := (coreOf s c).plans.filter fun p => p.2.launch ≠ id } :=
  Map.get_map s.cores (fun _ k => { k with plans := k.plans.filter fun p => p.2.launch ≠ id }) rfl

/-- The launch's ring work disarmed and its streams reclaimed. -/
def silenced : State := (grantedStreams l).foldl reclaimStream (disarm (planless s l.id) fun _ e => e.launch = l.id)

/-- Its handles released. -/
def unhandled : State :=
  ((silenced s l).cores.map (·.1)).foldl (fun s c => releaseHandles s c fun _ h => h.owner.launch = l.id) (silenced s l)

/-- Its hotness counted. -/
def cooled : State := ((unhandled s l).engines.map (·.1)).foldl (fun s e => flushHot s e l.id) (unhandled s l)

/-- Words 1 to 6 of its completion record. -/
def completionWords : List Nat :=
  [l.tag.toNat, l.start.toNat, s.chron % 2 ^ 64, l.fcode * 2 ^ 48 + l.fwaypt, l.faddr,
    min l.nfault (2 ^ 32 - 1) * 2 ^ 32 + l.nrelaunch * 2 ^ 16 + l.summary.toNat, 0]

/-- Its completion record written. -/
def recorded : State := writeCompletion (cooled s l) l (2 ^ 63 + finalStatus l * 2 ^ 48 + l.id) (completionWords s l)

theorem completeLaunch_eq : completeLaunch s l =
    { recorded s l with launches := (recorded s l).launches.filter fun x => x.id ≠ l.id,
                        waypoints := (recorded s l).waypoints.filter fun w => w.key.launch ≠ l.id,
                        barriers := (recorded s l).barriers.filter fun b => b.1.launch ≠ l.id,
                        regions := (recorded s l).regions.filter fun r => r.1 / 128 ≠ l.id,
                        tokens := (recorded s l).tokens.filter fun t => t.key.launch ≠ l.id || t.key.launch = 0 } := rfl

theorem reclaimStream_frame (x : StreamReq) : ∃ st sl rc, reclaimStream s x = { s with stations := st, slots := sl, reclaiming := rc } := by
  unfold reclaimStream
  dsimp only
  split
  · exact ⟨_, s.slots, s.reclaiming, rfl⟩
  · refine List.foldlRecOn (motive := fun t : State => ∃ st sl rc, t = { s with stations := st, slots := sl, reclaiming := rc }) _ _
      ⟨_, s.slots, _, rfl⟩ ?_
    rintro _ ⟨st, sl, rc, rfl⟩ p -
    exact ⟨st, _, rc, rfl⟩

theorem silenced_frame : ∃ st sl rc, silenced s l = { planless s l.id with stations := st, slots := sl, reclaiming := rc } := by
  refine List.foldlRecOn (motive := fun t : State => ∃ st sl rc, t = { planless s l.id with stations := st, slots := sl, reclaiming := rc }) _ _
    ⟨_, s.slots, s.reclaiming, rfl⟩ ?_
  rintro _ ⟨st, sl, rc, rfl⟩ x -
  obtain ⟨st', sl', rc', h⟩ := reclaimStream_frame { planless s l.id with stations := st, slots := sl, reclaiming := rc } x
  exact ⟨st', sl', rc', h⟩

end

/-! ### Handles -/

section
variable (s : State) (c c' : Nat)

theorem handles_modChart (l : Level) (f : Chart → Chart) : (coreOf (modChart s c l f) c').handles = (coreOf s c').handles := by
  rw [modChart, coreOf_modCore]
  split
  · subst_vars
    cases l <;> rfl
  · rfl

theorem handles_serveOwed (l : Level) : (coreOf (serveOwed s c l) c').handles = (coreOf s c').handles := by
  unfold serveOwed
  refine (foldl_keeps (fun s => (coreOf s c').handles) (fun s o => ?_) _ _).trans
    (foldl_keeps (fun s => (coreOf s c').handles) (fun s o => ?_) _ s)
  · split
    · rfl
    · exact handles_modChart s ..
  · split
    · rfl
    · rw [coreOf_logRetired]
      exact handles_modChart s ..

/-- R398. A core's handles after a release at a core. -/
theorem handles_releaseHandles (p : Nat → Handle → Bool) : (coreOf (releaseHandles s c p) c').handles =
    if c = c' then (coreOf s c).handles.filter fun h => !p h.1 h.2 else (coreOf s c').handles := by
  unfold releaseHandles
  dsimp only
  split
  · next hnone =>
    split
    · next he =>
      subst he
      rw [List.isEmpty_iff, List.filter_eq_nil_iff] at hnone
      exact (List.filter_eq_self.mpr fun h hh => by simpa using hnone h hh).symm
    · rfl
  · rw [handles_serveOwed, handles_serveOwed, coreOf_modCore]
    split <;> rfl

variable {c'}

/-- A handle that is left after a release at several cores. -/
theorem mem_handles_released {p : Nat → Handle → Bool} {cs : List Nat} {s : State} {h : Nat × Handle}
    (hm : h ∈ (coreOf (cs.foldl (fun s c => releaseHandles s c p) s) c').handles) :
    h ∈ (coreOf s c').handles ∧ (c' ∈ cs → p h.1 h.2 = false) := by
  induction cs generalizing s with
  | nil => exact ⟨hm, fun hc => absurd hc (List.not_mem_nil)⟩
  | cons c cs ih =>
    obtain ⟨hin, hp⟩ := ih hm
    rw [handles_releaseHandles] at hin
    split at hin
    · next he =>
      subst he
      obtain ⟨hin, hnot⟩ := List.mem_filter.mp hin
      exact ⟨hin, fun _ => by simpa using hnot⟩
    · next he => exact ⟨hin, fun hc => hp ((List.mem_cons.mp hc).resolve_left (Ne.symm he))⟩

end

/-! ### What a completion leaves -/

section
variable (s : State) (l : Launch)

theorem unstored_recorded : (recorded s l).unstored = (unhandled s l).unstored :=
  (unstored_writeCompletion ..).trans (foldl_keeps (f := fun s e => flushHot s e l.id) State.unstored (fun s e => unstored_flushHot s e l.id) _ _)

theorem outline_unhandled : (unhandled s l).outline = (silenced s l).outline :=
  foldl_keeps (f := fun s c => releaseHandles s c _) State.outline (fun s c => outline_releaseHandles s c _) _ _

theorem unhoused_unhandled (c : Nat) : (coreOf (unhandled s l) c).unhoused = (coreOf (silenced s l) c).unhoused :=
  foldl_keeps (f := fun s c => releaseHandles s c _) (fun s => (coreOf s c).unhoused) (fun s c' => unhoused_releaseHandles s c' c _) _ _

theorem coreOf_completeLaunch (c : Nat) : coreOf (completeLaunch s l) c = coreOf (unhandled s l) c := by
  rw [completeLaunch_eq]
  exact State.of_unstored (unstored_recorded s l) fun s => coreOf s c

/-- R114. The launches left. -/
theorem launches_completeLaunch : (completeLaunch s l).launches = s.launches.filter fun x => x.id ≠ l.id := by
  obtain ⟨st, sl, rc, h⟩ := silenced_frame s l
  have hl : (recorded s l).launches = s.launches := calc
    (recorded s l).launches = (unhandled s l).launches := State.of_unstored (unstored_recorded s l) State.launches
    _ = (silenced s l).launches := launches_of_outline (outline_unhandled s l)
    _ = s.launches := by rw [h]; rfl
  rw [completeLaunch_eq]
  exact congrArg (List.filter fun x => x.id ≠ l.id) hl

theorem leaving_completeLaunch : (completeLaunch s l).mgmt.leaving = s.mgmt.leaving := by
  obtain ⟨st, sl, rc, h⟩ := silenced_frame s l
  calc (completeLaunch s l).mgmt.leaving = (unhandled s l).mgmt.leaving := State.of_unstored (unstored_recorded s l) fun s => s.mgmt.leaving
    _ = (silenced s l).mgmt.leaving := Mgmt.of_unlogged (mgmt_of_outline (outline_unhandled s l)) Mgmt.leaving
    _ = s.mgmt.leaving := by rw [h]; rfl

theorem queues_cooled : (cooled s l).queues = s.queues := by
  obtain ⟨st, sl, rc, h⟩ := silenced_frame s l
  calc (cooled s l).queues = (unhandled s l).queues := State.of_unstored
        (foldl_keeps (f := fun s e => flushHot s e l.id) State.unstored (fun s e => unstored_flushHot s e l.id) _ _) State.queues
    _ = (silenced s l).queues := congrArg Outline.queues (outline_unhandled s l)
    _ = s.queues := by rw [h]; rfl

variable {s l}

theorem handleOf_completeLaunch {c h : Nat} {hd : Handle} (hh : handleOf (completeLaunch s l) c h = some hd) : hd.owner.launch ≠ l.id := by
  have hm := Map.mem_of_find hh
  rw [coreOf_completeLaunch] at hm
  obtain ⟨hin, hp⟩ := mem_handles_released hm
  by_cases hc : c ∈ (silenced s l).cores.map (·.1)
  · simpa using hp hc
  · rw [coreOf_unlisted _ hc] at hin
    cases hin

theorem plans_completeLaunch {c p : Nat} {x : PlanSlot} (hx : Map.find (coreOf (completeLaunch s l) c).plans p = some x) : x.launch ≠ l.id := by
  obtain ⟨st, sl, rc, h⟩ := silenced_frame s l
  have hplans : (coreOf (completeLaunch s l) c).plans = (coreOf s c).plans.filter fun p => p.2.launch ≠ l.id := calc
    (coreOf (completeLaunch s l) c).plans = (coreOf (unhandled s l) c).plans := by rw [coreOf_completeLaunch]
    _ = (coreOf (silenced s l) c).plans := Core.of_unhoused (unhoused_unhandled s l c) Core.plans
    _ = (coreOf (planless s l.id) c).plans := by rw [h]; rfl
    _ = _ := by rw [coreOf_planless]
  rw [hplans] at hx
  simpa using (List.mem_filter.mp (Map.mem_of_find hx)).2

theorem msix_completeLaunch (h : (queueOf s l.queue).ien = true) : .msix l.queue ∈ (completeLaunch s l).out := by
  rw [completeLaunch_eq]
  refine msix_writeCompletion (s := cooled s l) _ _ ?_
  rw [queueOf, queues_cooled]
  exact h

end

section
variable {s : State} {l : Launch} (hl : findLaunch s s.arg.index = some l) (hover : launchOver s l = true)
include hl hover

/-- R101. A line that the host holds is asked back first. -/
theorem launchComplete_asks {line : Nat} (h : completionHeld s l = some line) : exec .launchComplete s = .next (sendSnoop s line) := by
  show execLaunchComplete s = _
  simp only [execLaunchComplete, hl, hover, h, Bool.not_true, Bool.false_eq_true, if_false]

theorem launchComplete_completes (h : completionHeld s l = none) (hs : s.mgmt.leaving = none) :
    exec .launchComplete s = .next (completeLaunch s l) := by
  show execLaunchComplete s = _
  have hleave := (leaving_completeLaunch s l).trans hs
  simp only [execLaunchComplete, hl, hover, h, hleave, Bool.not_true, Bool.false_eq_true, if_false]

end

/-- Settles O51: acceptance by `recordAccept_accepts`, grants by `streamGrant_roots` and `streamGrant_grants`, completion by what
`completeLaunch` leaves. -/
theorem launches : Obligations.Launches := by
  unfold Obligations.Launches
  intro s hup
  have hserves : s.mgmt.leaving = none := by
    simp only [underway, Bool.and_eq_true, Option.isNone_iff_eq_none] at hup
    exact hup.2
  refine ⟨?_, ?_, ?_, ?_, ?_, ?_⟩
  · intro n line hroom hn q hheld hread
    obtain ⟨r, hr⟩ := Option.isSome_iff_exists.mp hread
    exact recordAccept_asks hup hroom hn hr (by rw [acceptHeld, hheld]; rfl)
  · exact fun n r s3 hroom hn hr hheld hw => recordAccept_accepts hup hroom hn rfl rfl hr hheld hw
  · exact fun l d hr => ⟨_, streamGrant_roots hup hr, rootWaypoint_adds s l d⟩
  · intro l i x y hr hn hl hx id
    obtain ⟨t, ht, ⟨z, hz, hzs⟩, hown⟩ := streamGrant_grants hup hr hn hl
    have hi : i < y.streams.length := (List.getElem?_eq_some_iff.mp hx).1
    exact ⟨t, ht, ⟨z, hz, by rw [hzs, List.getElem?_set_self hi]; rfl⟩, hown⟩
  · exact fun l line hl hover hheld => launchComplete_asks hl hover hheld
  · intro l hl hover hheld
    refine ⟨_, launchComplete_completes hl hover hheld hserves, fun x => ?_, fun w hw => ?_, fun c h hd hh => handleOf_completeLaunch hh,
      fun c p sl hp => plans_completeLaunch hp, fun b hb => ?_, msix_completeLaunch⟩
    · rw [launches_completeLaunch, List.mem_filter, decide_eq_true_eq]
    · simpa using (List.mem_filter.mp hw).2
    · simpa using (List.mem_filter.mp hb).2

end Sys2Proof.Machine

namespace Sys2Proof.Machine

/-! ## A record pending (R105) -/

/-- Has a queue a record pending? -/
def Queue.waits (q : Queue) : Bool := q.en && match q.pidx with
  | some p => p ≠ q.cidx
  | none => false

theorem Queue.waits_false {q : Queue} (h : q.en = false ∨ q.pidx = none ∨ q.pidx = some q.cidx) : q.waits = false := by
  rcases h with h | h | h <;> simp [Queue.waits, h]

/-- R105. The first queue with a record pending. -/
theorem nextQueue_first {s : State} {i : Nat} (hi : i < 64) (hw : (queueOf s ((s.rrQueue + i) % 64)).waits = true)
    (hb : ∀ j, j < i → (queueOf s ((s.rrQueue + j) % 64)).waits = false) : nextQueue s = some ((s.rrQueue + i) % 64) := by
  show (((List.range 64).map fun i => (s.rrQueue + i) % 64).find? fun n => (queueOf s n).waits) = _
  rw [List.find?_map, Option.map_eq_some_iff]
  exact ⟨i, List.find?_range_eq_some.mpr ⟨hw, List.mem_range.mpr hi, fun j hj => by simp [hb j hj]⟩, rfl⟩

section
variable {s : State} (hu : ∀ d, (home s d).held = [])
include hu

theorem heldLine_unheld (a n : Nat) : heldLine s a n = none := by simp [heldLine, hu]

theorem queueHeld_unheld (q : Queue) (a n : Nat) : queueHeld s q a n = none := by
  rw [queueHeld, heldLine_unheld hu, ite_self]

/-- R101. Of device memory the host holds no line. -/
theorem heldVa_unheld (l : Launch) (va n : Nat) : heldVa s l va n = none := by
  rw [heldVa, List.findSome?_eq_none_iff]
  intro i _
  split
  · split
    · exact List.findSome?_eq_none_iff.mpr fun a _ => heldLine_unheld hu ..
    · rfl
  · rfl

theorem acceptHeld_unheld (q : Queue) (a : Nat) (l : Launch) : acceptHeld s q a l = none := by
  simp [acceptHeld, queueHeld_unheld hu, heldVa_unheld hu]

theorem completionHeld_unheld (l : Launch) : completionHeld s l = none := by
  simp [completionHeld, heldVa_unheld hu]

end

theorem queueRead_exists {s : State} {q : Queue} {a n : Nat} (h : q.inDevice = true → dpaExists (a + n - 1) = true) :
    ∃ r, queueRead s q a n = some r := by
  unfold queueRead
  cases hd : q.inDevice with
  | false => exact ⟨_, rfl⟩
  | true =>
    rw [h hd]
    exact ⟨_, rfl⟩

theorem queueWrite_exists (s : State) {q : Queue} {a : Nat} {bs : List Byte} (h : q.inDevice = true → dpaExists (a + bs.length - 1) = true) :
    ∃ t, queueWrite s q a bs = some t := by
  unfold queueWrite
  cases hd : q.inDevice with
  | false => exact ⟨_, rfl⟩
  | true =>
    rw [h hd]
    exact ⟨_, rfl⟩

theorem field_zero (x n : Nat) : field x 0 n = x % 2 ^ n := by rw [field, Nat.pow_zero, Nat.div_one]

/-- R105, R108, R110. A record pending on a queue whose memory exists is accepted, live or rejected. -/
theorem recordAccept_pending {s : State} {n : Nat} {q : Queue} (hup : underway s = true) (hu : ∀ d, (home s d).held = [])
    (hroom : s.launches.length < 1024) (hn : nextQueue s = some n) (hq : queueOf s n = q)
    (hmem : q.inDevice = true → dpaExists (q.baseAddr + 256 * (q.cidx.toNat % 2 ^ q.size.toNat) + 255) = true ∧
      dpaExists (q.cidxAddr + 3) = true) :
    Gives .launchRecordAccept s fun t => (queueOf t n).cidx = q.cidx + 1 ∧ t.rrQueue = (n + 1) % 64 ∧
      ((∃ l, t.launches = s.launches ++ [l] ∧ l.queue = n ∧ l.record = q.cidx.toNat ∧ ∀ x ∈ s.launches, x.id ≠ l.id) ∨
        t.launches = s.launches ∧ ∃ e ∈ t.mgmt.log, e.cls = 4 ∧ 0x10000 < e.code ∧ e.code ≤ 0x10009) := by
  obtain ⟨r, hr⟩ := queueRead_exists (s := s) (q := q) (a := q.baseAddr + 256 * (q.cidx.toNat % 2 ^ q.size.toNat)) (n := 256)
    fun hd => (hmem hd).1
  obtain ⟨v, hv⟩ : ∃ v, validate s r (recordLaunch r (freshLaunchId s) n q.cidx.toNat) q.pcap.toNat = v := ⟨_, rfl⟩
  obtain ⟨s3, hw⟩ := queueWrite_exists
    (modQueue { (if v.1 = 0 then enlist s v.2 else s) with rrQueue := (n + 1) % 64 } n fun q => { q with cidx := q.cidx + 1 })
    (q := q) (a := q.cidxAddr) (bs := bytesOf (q.cidx + 1).toNat 4) fun hd => by rw [length_bytesOf]; exact (hmem hd).2
  obtain ⟨t, ht, hcidx, hrr, hlive, hrej⟩ := recordAccept_accepts hup hroom hn hq hv hr (acceptHeld_unheld hu ..) hw
  refine ⟨t, ht, hcidx, hrr, ?_⟩
  obtain ⟨hid, hqueue, hrec, hreason⟩ := validate_fields s r (recordLaunch r (freshLaunchId s) n q.cidx.toNat) q.pcap.toNat
  obtain ⟨-, hlq, hlr⟩ := recordLaunch_fields r (freshLaunchId s) n q.cidx.toNat
  rw [hv] at hqueue hrec hreason
  by_cases h0 : v.1 = 0
  · obtain ⟨hl, hfresh, hids⟩ := hlive h0
    exact .inl ⟨v.2, hl, hqueue.trans hlq, hrec.trans hlr, by rwa [hfresh]⟩
  · obtain ⟨hl, e, he, hcls, hcode⟩ := hrej h0
    exact .inr ⟨hl, e, he, hcls, by omega, by omega⟩

end Sys2Proof.Machine

namespace Sys2Proof.Machine

/-! ## The launch that waits first (R42, R113) -/

theorem diesOf_eq (l : Launch) : diesOf l = (List.range 8).filter fun d => l.dies = 0#8 || l.dies.getLsbD d := by
  unfold diesOf
  split
  · next h => simp [h]
  · next h => simp [bitsSet, h, BitVec.getLsbD]

/-- R113. The lowest die of a launch in service. -/
theorem lowestDie {s : State} {l : Launch} {d : Nat} (hd : d < 8) (hin : l.dies = 0#8 ∨ l.dies.getLsbD d = true)
    (hs : s.mgmt.csvc.getLsbD d = true) (hlow : ∀ e, e < d → (l.dies = 0#8 ∨ l.dies.getLsbD e = true) → s.mgmt.csvc.getLsbD e = false) :
    (diesOf l).find? (dieServes s) = some d := by
  rw [diesOf_eq, List.find?_filter, List.find?_range_eq_some]
  refine ⟨by simpa [dieServes, hs] using hin, List.mem_range.mpr hd, fun e he => ?_⟩
  have hout := hlow e he
  by_cases hin : l.dies = 0#8 ∨ l.dies.getLsbD e = true
  · simp [dieServes, hout hin]
  · simp only [not_or] at hin
    simp [hin]

/-- What a launch waits for whose root may be created: `rootless` finds the first that has it. -/
def awaitedRoot (s : State) (l : Launch) : Option (Launch × Nat) :=
  if l.granted || l.held || l.ending ≠ .running || l.streams.any (fun x => x.id = 0) then none
  else ((diesOf l).find? (dieServes s)).map fun d => (l, d)

theorem awaitedRoot_none {s : State} {l : Launch} (h : l.granted = true ∨ l.heldFor ≠ [] ∨ l.ending ≠ .running ∨ ∃ z ∈ l.streams, z.id = 0) :
    awaitedRoot s l = none := by
  refine if_pos ?_
  rcases h with h | h | h | ⟨z, hz, h⟩
  · simp [h]
  · simp [Launch.held, h]
  · simp [h]
  · have : (l.streams.any fun x => x.id = 0) = true := List.any_eq_true.mpr ⟨z, hz, by simpa using h⟩
    rw [this, Bool.or_true]

theorem awaitedRoot_some {s : State} {l : Launch} {d : Nat} (hg : l.granted = false) (hh : l.heldFor = []) (hr : l.ending = .running)
    (hst : ∀ y ∈ l.streams, y.id ≠ 0) (hd : (diesOf l).find? (dieServes s) = some d) : awaitedRoot s l = some (l, d) := by
  have hst' : (l.streams.any fun x => x.id = 0) = false := List.any_eq_false.mpr fun y hy => by simpa using hst y hy
  rw [awaitedRoot, if_neg (by simp [hg, Launch.held, hh, hr, hst']), hd, Option.map_some]

theorem rootless_eq (s : State) : rootless s = s.launches.findSome? (awaitedRoot s) := rfl

/-! ## The request that waits first (R42) -/

/-- The requests of one launch that wait. -/
def waitingOf (l : Launch) : List (Nat × Nat × StreamReq) :=
  ((List.range l.streams.length).zip l.streams).filterMap fun x =>
    if x.2.id = 0 && l.ending = .running then some (l.id, x.1, x.2) else none

theorem waitingStreams_eq (s : State) : waitingStreams s = s.launches.flatMap waitingOf := rfl

theorem waitingOf_none {l : Launch} (h : ∀ y ∈ l.streams, y.id ≠ 0) : waitingOf l = [] := by
  refine List.filterMap_eq_nil_iff.mpr fun y hy => ?_
  simp [h _ (List.of_mem_zip hy).2]

/-- The first request without an id waits first. -/
theorem waitingOf_first {l : Launch} {ps qs : List StreamReq} {x : StreamReq} (hl : l.streams = ps ++ x :: qs) (hps : ∀ y ∈ ps, y.id ≠ 0)
    (hx : x.id = 0) (hr : l.ending = .running) : ∃ rest, waitingOf l = (l.id, ps.length, x) :: rest := by
  have hsplit : (List.range l.streams.length).zip l.streams =
      (List.range ps.length).zip ps ++ (ps.length, x) :: ((List.range qs.length).map (ps.length + 1 + ·)).zip qs := by
    have hlen : l.streams.length = ps.length + 1 + qs.length := by rw [hl, List.length_append, List.length_cons]; omega
    rw [hlen, List.range_add, List.range_succ, List.append_assoc, hl, List.zip_append (by simp)]
    rfl
  rw [waitingOf, hsplit, List.filterMap_append, List.filterMap_eq_nil_iff.mpr fun y hy => by simp [hps _ (List.of_mem_zip hy).2],
    List.nil_append, List.filterMap_cons]
  simp [hx, hr]

theorem waitingStreams_first {s : State} {pre post : List Launch} {l : Launch} {w : Nat × Nat × StreamReq} (hs : s.launches = pre ++ l :: post)
    (hpre : ∀ x ∈ pre, ∀ y ∈ x.streams, y.id ≠ 0) (hl : ∃ rest, waitingOf l = w :: rest) : ∃ rest, waitingStreams s = w :: rest := by
  obtain ⟨rest, hl⟩ := hl
  refine ⟨rest ++ post.flatMap waitingOf, ?_⟩
  rw [waitingStreams_eq, hs, List.flatMap_append, List.flatMap_eq_nil_iff.mpr fun x hx => waitingOf_none (hpre x hx), List.nil_append,
    List.flatMap_cons, hl]
  rfl

/-- R42. The first request that waits is granted where it can be. -/
theorem nextGrant_first {s : State} {w : Nat × Nat × StreamReq} (hw : ∃ rest, waitingStreams s = w :: rest)
    (hg : grantable s w.2.2 [] = true) : nextGrant s = some w := by
  obtain ⟨rest, hw⟩ := hw
  unfold nextGrant
  dsimp only
  rw [hw, List.length_cons, List.range_succ_eq_map, List.findSome?_cons]
  simp [hg]

theorem liveStreams_eq (s : State) : liveStreams s = (s.launches.flatMap (·.streams)).filter fun y => y.id ≠ 0 := by
  rw [List.filter_flatMap]
  rfl

theorem overlap_meridian {x y : StreamReq} (hx : x.ring = .meridian) (h : y.ring = .meridian →
    ¬(y.dir = x.dir ∧ y.lane = x.lane ∧ x.pos &&& y.pos ≠ 0#64) ∧ ∀ k, x.flags.getD k 0#64 &&& y.flags.getD k 0#64 = 0#64) :
    overlap x y = false := by
  by_cases hy : y.ring = .meridian
  · obtain ⟨hp, hf⟩ := h hy
    have hflags : ((x.flags.zip y.flags).any fun p => p.1 &&& p.2 ≠ 0#64) = false := by
      refine List.any_eq_false.mpr fun p hm => ?_
      obtain ⟨k, hk, he⟩ := List.getElem_of_mem hm
      rw [List.length_zip] at hk
      have := hf k
      rw [List.getD_eq_getElem _ _ (by omega), List.getD_eq_getElem _ _ (by omega)] at this
      rw [List.getElem_zip] at he
      rw [← he]
      simpa using this
    have hpos : ¬(x.dir = y.dir ∧ x.lane = y.lane ∧ x.pos &&& y.pos ≠ 0#64) := fun ⟨hd, hl, hp'⟩ => hp ⟨hd.symm, hl.symm, hp'⟩
    rw [overlap, hflags, Bool.and_false, Bool.or_false]
    simpa [hx, hy, and_assoc] using hpos
  · rw [overlap, hx]
    simp [Ne.symm hy]

/-- R42. A stream of the Meridian that waits first can be granted. -/
theorem grantable_meridian {s : State} {x : StreamReq} (hx : x.ring = .meridian)
    (hfree : ∀ p, p < 64 → x.pos.getLsbD p = true → (ownerOf s (slotKey x.dir x.lane p)).cls = 0)
    (hapart : ∀ y ∈ s.launches.flatMap (·.streams) ++ s.reclaiming, y.id ≠ 0 → y.ring = .meridian →
      ¬(y.dir = x.dir ∧ y.lane = x.lane ∧ x.pos &&& y.pos ≠ 0#64) ∧ ∀ k, x.flags.getD k 0#64 &&& y.flags.getD k 0#64 = 0#64)
    (hrec : ∀ y ∈ s.reclaiming, y.id ≠ 0)
    (hfew : ((s.launches.flatMap (·.streams)).filter fun y => y.id ≠ 0 && y.ring = .meridian).length < 64)
    (hleft : 16 ≤ ((List.range 64).filter fun p => (ownerOf s (slotKey x.dir x.lane p)).cls = 0 && !x.pos.getLsbD p).length) :
    grantable s x [] = true := by
  have hheld : ((bitsSet x.pos.toNat 64).any fun p => (ownerOf s (slotKey x.dir x.lane p)).cls ≠ 0) = false := by
    refine List.any_eq_false.mpr fun p hp => ?_
    obtain ⟨hlt, hbit⟩ := mem_bitsSet.mp hp
    simpa using hfree p hlt hbit
  have hover : ((liveStreams s ++ s.reclaiming).any (overlap x)) = false := by
    refine List.any_eq_false.mpr fun y hy => ?_
    have hid : y.id ≠ 0 := by
      rcases List.mem_append.mp hy with hy | hy
      · rw [liveStreams_eq] at hy
        simpa using (List.mem_filter.mp hy).2
      · exact hrec y hy
    have hm : y ∈ s.launches.flatMap (·.streams) ++ s.reclaiming := by
      rcases List.mem_append.mp hy with hy | hy
      · rw [liveStreams_eq] at hy
        exact List.mem_append_left _ (List.mem_filter.mp hy).1
      · exact List.mem_append_right _ hy
    simp [overlap_meridian hx (hapart y hm hid)]
  have hsame : ((liveStreams s).filter fun y => y.ring = x.ring).length < 64 := by
    rw [liveStreams_eq, List.filter_filter, hx]
    refine lt_of_eq_of_lt (congrArg List.length (List.filter_congr fun y _ => ?_)) hfew
    rw [Bool.and_comm]
  have hne : ¬x.ring = .equator := by rw [hx]; decide
  have hleft' : 16 ≤ bestEffortLeft s x x.pos := hleft
  simp only [grantable, hheld, hover, hsame, if_neg hne, List.all_nil, Config.minBestEffort, ge_iff_le, hleft', Bool.and_false, Bool.not_false,
    decide_true, Bool.and_self]

theorem freshStreamId_pos (s : State) : freshStreamId s ≠ 0 := by
  unfold freshStreamId
  cases h : (span 1 1023).find? fun i => !(liveStreams s ++ s.reclaiming).any fun y => y.ring = .meridian && y.id = i with
  | none => decide
  | some i =>
    obtain ⟨j, -, rfl⟩ := List.mem_map.mp (List.mem_of_find?_eq_some h)
    rw [Option.getD_some]
    omega

theorem findLaunch_split {s : State} {pre post : List Launch} {l : Launch} (hs : s.launches = pre ++ l :: post)
    (hpre : ∀ x ∈ pre, x.id ≠ l.id) : findLaunch s l.id = some l := by
  rw [findLaunch, hs, List.find?_append, List.find?_eq_none.mpr fun x hx => by simpa using hpre x hx]
  simp

section
variable {s : State} {l : Launch} {pre post : List Launch} (hs : s.launches = pre ++ l :: post) (hup : underway s = true)
  (hpre : ∀ x ∈ pre, x.granted = true ∧ x.id ≠ l.id ∧ ∀ y ∈ x.streams, y.id ≠ 0)
include hs hup hpre

/-- R113. The root of the first launch that waits. -/
theorem streamGrant_rootsFirst (hg : l.granted = false) (hh : l.heldFor = []) (hr : l.ending = .running) {d : Nat}
    (hst : ∀ y ∈ l.streams, y.id ≠ 0) (hd : (diesOf l).find? (dieServes s) = some d) :
    exec .streamGrant s = .next (rootWaypoint s l d) := by
  refine streamGrant_roots hup ?_
  rw [rootless_eq, hs, List.findSome?_append, List.findSome?_eq_none_iff.mpr fun x hx => awaitedRoot_none (.inl (hpre x hx).1), Option.none_or,
    List.findSome?_cons, awaitedRoot_some hg hh hr hst hd]

/-- R42. The first request that waits, where no root does. -/
theorem streamGrant_grantsFirst (hr : l.ending = .running) {x : StreamReq} {ps qs : List StreamReq} (hl : l.streams = ps ++ x :: qs)
    (hps : ∀ y ∈ ps, y.id ≠ 0) (hx : x.id = 0) (hring : x.ring = .meridian)
    (hpost : ∀ y ∈ post, y.granted = true ∨ y.heldFor ≠ [] ∨ y.ending ≠ .running ∨ ∃ z ∈ y.streams, z.id = 0)
    (hg : grantable s x [] = true) : Gives .streamGrant s fun t => ∃ id z, id ≠ 0 ∧ findLaunch t l.id = some z ∧
      z.streams = ps ++ { x with id := id } :: qs ∧ ∀ p, p < 64 → x.pos.getLsbD p = true →
        ownerOf t (slotKey x.dir x.lane p) = { cls := 1, stream := id } := by
  have hroot : rootless s = none := by
    rw [rootless_eq, List.findSome?_eq_none_iff]
    intro y hy
    rw [hs, List.mem_append, List.mem_cons] at hy
    rcases hy with hy | rfl | hy
    · exact awaitedRoot_none (.inl (hpre y hy).1)
    · exact awaitedRoot_none (.inr (.inr (.inr ⟨x, by rw [hl]; exact List.mem_append_right _ (List.mem_cons_self ..), hx⟩)))
    · exact awaitedRoot_none (hpost y hy)
  have hnext : nextGrant s = some (l.id, ps.length, x) := nextGrant_first
    (waitingStreams_first hs (fun y hy => (hpre y hy).2.2) (waitingOf_first hl hps hx hr)) hg
  obtain ⟨t, ht, ⟨z, hz, hzs⟩, hown⟩ := streamGrant_grants hup hroot hnext (findLaunch_split hs fun y hy => (hpre y hy).2.1)
  refine ⟨t, ht, grantedId s x, z, ?_, hz, ?_, hown hring⟩
  · rw [grantedId, if_neg (by rw [hring]; decide)]
    exact freshStreamId_pos s
  · rw [hzs, hl, List.set_append_right _ _ (le_refl _), Nat.sub_self]
    rfl

end

end Sys2Proof.Machine

namespace Sys2Proof.Machine

/-! ## A launch with nothing left (R114) -/

theorem heldByCore_none {s : State} {key : WpKey} (h : ∀ e ∈ s.cores, e.2.mode = .idle ∨ e.2.wp ≠ key) : heldByCore s key = none := by
  rw [heldByCore, Option.map_eq_none_iff, List.find?_eq_none]
  intro e he
  rcases h e he with h | h <;> simp [h]

/-- R114. Its waypoints ended, its commands completed, its join decrements performed and no core on it. -/
theorem launchOver_ended {s : State} {l : Launch} (hg : l.granted = true ∨ l.ending ≠ .running)
    (hw : ∀ w ∈ s.waypoints, w.key.launch = l.id → w.state = .done ∨ w.state = .faulted ∧ w.fault = none ∧ w.frame = none)
    (hx : ∀ x ∈ s.cmds, x.wp.launch ≠ l.id) (hj : ∀ j ∈ s.joinDecs, j.launch ≠ l.id)
    (hc : ∀ e ∈ s.cores, e.2.mode = .idle ∨ e.2.wp.launch ≠ l.id) : launchOver s l = true := by
  have hws : (s.waypoints.all fun w => w.key.launch ≠ l.id || ended s w) = true := by
    refine List.all_eq_true.mpr fun w hm => ?_
    by_cases hl : w.key.launch = l.id
    · have hcore : heldByCore s w.key = none := heldByCore_none fun e he => (hc e he).imp_right fun h he => h (by rw [he, hl])
      rcases hw w hm hl with h | ⟨h, hf, hfr⟩ <;> simp [ended, *]
    · simp [hl]
  have hxs : (s.cmds.any fun c => c.wp.launch = l.id) = false := List.any_eq_false.mpr fun x hm => by simpa using hx x hm
  have hjs : (s.joinDecs.any fun j => j.launch = l.id) = false := List.any_eq_false.mpr fun j hm => by simpa using hj j hm
  have hcs : (s.cores.any fun e => e.2.mode ≠ .idle && e.2.wp.launch = l.id) = false :=
    List.any_eq_false.mpr fun e hm => by rcases hc e hm with h | h <;> simp [h]
  have hg' : (l.granted || l.ending ≠ .running) = true := by simpa using hg
  rw [launchOver, hws, hxs, hjs, hcs, hg']
  rfl

theorem mode_completeLaunch (s : State) (l : Launch) (c : Nat) : (coreOf (completeLaunch s l) c).mode = (coreOf s c).mode := by
  obtain ⟨st, sl, rc, h⟩ := silenced_frame s l
  calc (coreOf (completeLaunch s l) c).mode = (coreOf (unhandled s l) c).mode := by rw [coreOf_completeLaunch]
    _ = (coreOf (silenced s l) c).mode := Core.of_unhoused (unhoused_unhandled s l c) Core.mode
    _ = (coreOf (planless s l.id) c).mode := by rw [h]; rfl
    _ = (coreOf s c).mode := by rw [coreOf_planless]

section
variable {s : State} {l : Launch} (hl : findLaunch s s.arg.index = some l) (hover : launchOver s l = true) (hheld : completionHeld s l = none)
include hl hover hheld

/-- R119. With the last launch a return to Harbour ends there. -/
theorem launchComplete_returns {r : Nat} (hs : s.mgmt.leaving = some r) (hall : ∀ x ∈ s.launches, x.id = l.id)
    (hidle : ∀ c, (coreOf s c).mode = .idle) : Gives .launchComplete s (InHarbour r) := by
  have hnone : (completeLaunch s l).launches = [] := by
    rw [launches_completeLaunch, List.filter_eq_nil_iff]
    exact fun x hx => by simpa using hall x hx
  have hx : exec .launchComplete s = .next (reachHarbour (completeLaunch s l) r) := by
    show execLaunchComplete s = _
    have hleave := (leaving_completeLaunch s l).trans hs
    simp only [execLaunchComplete, hl, hover, hheld, hleave, hnone, List.isEmpty_nil, Bool.not_true, Bool.false_eq_true, if_false, if_true]
  obtain ⟨hc, hlaunch, hw, hcmd, -, -, st, job, hmg⟩ := reachHarbour_parts (completeLaunch s l) r
  refine ⟨_, hx, by rw [hmg], by rw [hmg], by rw [hmg], by rw [hlaunch, hnone], hw, hcmd, fun c => ?_⟩
  rw [coreOf, hc]
  exact (mode_completeLaunch s l c).trans (hidle c)

end

end Sys2Proof.Machine

namespace Sys2Proof.Machine

/-! ## A waypoint that any idle core may take (R135, R143, R144) -/

/-- The dispatcher of die d places: the die is in service and not draining, none of its clusters under test. -/
def Serving (s : State) (d : Nat) : Prop :=
  d < 8 ∧ s.mgmt.csvc.getLsbD d = true ∧ s.mgmt.cdrain.getLsbD d = false ∧ (disp s d).underTest = none

/-- A core holds nothing and has every bank in service. -/
def Core.Whole (k : Core) : Prop :=
  k.quarantined = false ∧ k.handles = [] ∧ k.spadChart = {} ∧ k.opdChart = {} ∧ k.vregChart = {} ∧ k.tileChart = {}

/-- A launch runs on every die, bound to no part of it, and needs no more than a core has. -/
def Launch.RunsAnywhere (l : Launch) : Prop :=
  l.granted = true ∧ l.heldFor = [] ∧ l.ending = .running ∧ l.dies = 0#8 ∧ (∀ x ∈ l.levels, x.domain ≤ 2) ∧
    l.spb ≤ 384 ∧ l.opb ≤ 64 ∧ l.vreg ≤ 64 ∧ l.acct ≤ 16

/-- A waypoint of such a launch is an entry on chip, bound to no core, and has no handles to bring. -/
def WaitsAnywhere (s : State) (w : Waypoint) (l : Launch) : Prop :=
  findWp s w.key = some w ∧ findLaunch s w.key.launch = some l ∧ l.RunsAnywhere ∧ (w.state = .ready ∨ w.state = .preempted) ∧ w.aff = 0 ∧
    w.range = false ∧ w.evacuated = [] ∧ w.fault = none ∧ w.spilled = false ∧ w.prio < 4

/-- And it is no member of a step group. -/
def WaitsAlone (s : State) (w : Waypoint) (l : Launch) : Prop :=
  WaitsAnywhere s w l ∧ ∀ x, levelWord l w.level = some x → x.step = false

theorem governing_le {l : Launch} (h : ∀ x ∈ l.levels, x.domain ≤ 2) (n : Nat) : governing l n ≤ 2 := by
  have hd (n : Nat) : domainOfLevel l n ≤ 2 := by
    unfold domainOfLevel levelWord
    cases hx : l.levels[n]? with
    | none => exact Nat.zero_le _
    | some x => exact h x (List.mem_of_getElem? hx)
  induction n with
  | zero =>
    rw [governing]
    split
    · exact le_refl _
    · exact hd 0
  | succ n ih =>
    rw [governing]
    split
    · exact ih
    · exact hd (n + 1)

theorem inDomain_anywhere {l : Launch} (h : ∀ x ∈ l.levels, x.domain ≤ 2) (hd : l.dies = 0#8) (w : Waypoint) (c : Nat) :
    inDomain l w c = true := by
  have hle := governing_le h w.level
  unfold inDomain
  split
  · omega
  · omega
  · omega
  · simp [hd]

section
variable {s : State} {c : Nat}

theorem coreServes_serving (hd : Serving s (c / 48)) (hq : (coreOf s c).quarantined = false) : coreServes s c = true := by
  obtain ⟨-, hs, -, -⟩ := hd
  simp [coreServes, dieServes, dieOf, hs, hq]

theorem coreOpen_serving (hd : Serving s (c / 48)) (hq : (coreOf s c).quarantined = false) : coreOpen s c = true := by
  have hs := coreServes_serving hd hq
  obtain ⟨-, -, hdrain, htest⟩ := hd
  simp [coreOpen, hs, dieOf, hdrain, htest]

variable {l : Launch} {w : Waypoint}

theorem inPlacement_anywhere (hl : l.RunsAnywhere) (hd : Serving s (c / 48)) (hq : (coreOf s c).quarantined = false) :
    inPlacement s l w c = true := by
  obtain ⟨-, -, -, hdies, hdom, -⟩ := hl
  rw [inPlacement, coreServes_serving hd hq, inDomain_anywhere hdom hdies]
  rfl

/-- R144. A whole core covers what such a launch needs. -/
theorem coversNeeds_whole (hl : l.RunsAnywhere) (hk : (coreOf s c).Whole) (key : WpKey) : coversNeeds s c l key = true := by
  obtain ⟨-, -, -, -, -, hspb, hopb, hvreg, hacct⟩ := hl
  obtain ⟨hq, hh, hspad, hopd, hve, hti⟩ := hk
  simp [coversNeeds, capacity, capVreg, capTiles, chartOf, reservedBanks, logicalBanks, hq, hh, hspad, hopd, hve, hti, hspb, hopb, hvreg, hacct,
    Config.spadLogical, Config.opdLogical, Config.vregLogical, Config.tileBanks]

theorem canRestore_nothing (h : w.evacuated = []) : canRestore s c w = true := by simp [canRestore, h]

theorem launchOf_found {k : Nat} (h : findLaunch s k = some l) : launchOf s k = l := by rw [launchOf, h, Option.getD_some]

theorem isEntry_waits (h : w.state = .ready ∨ w.state = .preempted) : isEntry s w = true := by rcases h with h | h <;> simp [isEntry, h]

theorem notStep {n : Nat} (h : ∀ x, levelWord l n = some x → x.step = false) : ((levelWord l n).elim false fun x => x.step) = false := by
  cases hx : levelWord l n with
  | none => rfl
  | some x => exact h x hx

/-- R143. A whole core of a serving die may take it. -/
theorem mayTake_waitsAlone (hw : WaitsAlone s w l) (hd : Serving s (c / 48)) (hk : (coreOf s c).Whole) : mayTake s c w = true := by
  obtain ⟨⟨-, hl, hruns, hst, haff, hrange, hev, -⟩, hstep⟩ := hw
  have hplace := inPlacement_anywhere (w := w) hruns hd hk.1
  have hneeds := coversNeeds_whole hruns hk w.key
  obtain ⟨hg, hh, hr, -⟩ := hruns
  simp [mayTake, launchOf_found hl, hg, Launch.held, hh, hr, isEntry_waits hst, notStep hstep, haff, hplace, hneeds, canRestore_nothing hev, hrange]

end

/-! ## The entry chosen (R140, R143) -/

theorem oldest_eq_none {ws : List Waypoint} : oldest ws = none ↔ ws = [] := by
  cases ws with
  | nil => simp [oldest]
  | cons w ws =>
    rw [oldest]
    split
    · split <;> simp
    · simp

theorem oldest_mem {ws : List Waypoint} {w : Waypoint} (h : oldest ws = some w) : w ∈ ws := by
  induction ws with
  | nil => cases h
  | cons x ws ih =>
    rw [oldest] at h
    split at h
    · next v hv =>
      split at h
      · cases h
        exact List.mem_cons_of_mem _ (ih hv)
      · cases h
        exact List.mem_cons_self ..
    · cases h
      exact List.mem_cons_self ..

/-- Where every entry is one, that one is the oldest. -/
theorem oldest_only {ws : List Waypoint} {w : Waypoint} (h : ∀ x ∈ ws, x = w) : oldest ws = none ∨ oldest ws = some w := by
  cases ho : oldest ws with
  | none => exact .inl rfl
  | some v => exact .inr (by rw [h v (oldest_mem ho)])

theorem oldest_only_some {ws : List Waypoint} {w : Waypoint} (h : ∀ x ∈ ws, x = w) (hw : w ∈ ws) : oldest ws = some w :=
  (oldest_only h).resolve_left fun hn => by simp [oldest_eq_none.mp hn] at hw

/-- A search that can only find one thing. -/
theorem findSome?_only {α β : Type} {f : α → Option β} {l : List α} {b : β} (h : ∀ a ∈ l, f a = none ∨ f a = some b) :
    l.findSome? f = none ∨ l.findSome? f = some b := by
  cases hf : l.findSome? f with
  | none => exact .inl rfl
  | some c =>
    obtain ⟨a, ha, hfa⟩ := List.exists_of_findSome?_eq_some hf
    exact .inr ((h a ha).resolve_left (by simp [hfa]) ▸ hfa).symm

theorem findSome?_only_some {α β : Type} {f : α → Option β} {l : List α} {b : β} (h : ∀ a ∈ l, f a = none ∨ f a = some b) {a : α}
    (ha : a ∈ l) (hf : f a = some b) : l.findSome? f = some b :=
  (findSome?_only h).resolve_left fun hn => by simp [List.findSome?_eq_none_iff.mp hn a ha] at hf

theorem mem_launchesFrom {s : State} {l : Launch} (cur : Nat) (hl : l ∈ s.launches) : l.id ∈ launchesFrom s cur := by
  have hm : l.id ∈ (s.launches.map fun l => l.id).takeWhile (· ≠ cur) ++ (s.launches.map fun l => l.id).dropWhile (· ≠ cur) := by
    rw [List.takeWhile_append_dropWhile]
    exact List.mem_map_of_mem hl
  exact List.mem_append.mpr (List.mem_append.mp hm).symm

section
variable {s : State} {c : Nat} {w : Waypoint} {l : Launch} (hw : WaitsAlone s w l)
include hw

theorem mem_entriesOf : w ∈ entriesOf s w.holder := by
  obtain ⟨⟨hf, -, -, hst, -⟩, -⟩ := hw
  exact List.mem_filter.mpr ⟨List.mem_of_find?_eq_some hf, by simp [isEntry_waits hst]⟩

variable (hold : w.holder = dieOf c) (honly : ∀ y ∈ s.waypoints, y.holder = dieOf c → y = w)

include honly in
omit hw in
theorem takeFrom_only (q rank : Nat) : takeFrom s c q rank = none ∨ takeFrom s c q rank = some w := by
  refine findSome?_only fun i _ => oldest_only fun x hx => ?_
  obtain ⟨hentry, -⟩ := List.mem_filter.mp (List.mem_filter.mp hx).1
  obtain ⟨hin, hh⟩ := List.mem_filter.mp hentry
  simp only [Bool.and_eq_true, decide_eq_true_eq] at hh
  exact honly x hin hh.1

include hold honly

/-- R143. An idle core whose die has one entry takes that. -/
theorem choice_only (hd : Serving s (c / 48)) (hk : (coreOf s c).Whole) : choice s c = some w := by
  have hmay := mayTake_waitsAlone hw hd hk
  have hentry := mem_entriesOf hw
  obtain ⟨⟨-, hl, -, -, haff, -, -, -, hsp, hprio⟩, -⟩ := hw
  have hlaunch : w.key.launch ∈ rotation s (dieOf c) w.prio := by
    have hid : l.id = w.key.launch := by simpa using List.find?_some hl
    refine List.mem_filter.mpr ⟨hid ▸ mem_launchesFrom _ (List.mem_of_find?_eq_some hl), ?_⟩
    exact List.any_eq_true.mpr ⟨w, hold ▸ hentry, by simp⟩
  have htake : takeFrom s c w.prio 2 = some w := by
    have hws : w ∈ (onChip s (dieOf c)).filter fun x => x.key.launch = w.key.launch && x.prio = w.prio && takeRank c x = 2 && mayTake s c x := by
      refine List.mem_filter.mpr ⟨List.mem_filter.mpr ⟨hold ▸ hentry, by simp [hsp]⟩, ?_⟩
      simp [takeRank, haff, hmay]
    refine (takeFrom_only honly w.prio 2).resolve_left fun hn => ?_
    have := List.findSome?_eq_none_iff.mp hn w.key.launch hlaunch
    rw [oldest_eq_none] at this
    simp [this] at hws
  refine findSome?_only_some (fun rank _ => findSome?_only fun q _ => takeFrom_only honly q rank) (a := 2) (by decide) ?_
  exact findSome?_only_some (fun q _ => takeFrom_only honly q 2) (List.mem_range.mpr hprio) htake

end

end Sys2Proof.Machine

namespace Sys2Proof.Machine

/-! ## A waypoint put on a core (R133, R143) -/

/-- A waypoint's record as it is picked up. -/
def pickedUp (s : State) (c : Nat) (w x : Waypoint) (mine : List Nat) : Waypoint :=
  { x with evac := false, evacuated := [], state := if x.state = .faulted then .faulted else .running, wait := 0, frame := none, heldDone := [],
           pickedAt := s.chron, start := (w.resume, w.sval), startHandles := mine, startCmd := s.nextCmd, holder := dieOf c, preempt := false,
           urged := false, spilled := false }

/-- A core that runs a waypoint from where it stood. -/
def Core.RunsFrom (k : Core) (w : Waypoint) : Prop := k.mode = .running ∧ k.wp = w.key ∧ k.pc = w.resume

section
variable {s : State} {c : Nat} {w : Waypoint}

theorem restoreHandles_nothing (h : w.evacuated = []) : restoreHandles s c w = modWp s w.key fun w => { w with evac := false, evacuated := [] } := by
  rw [restoreHandles, h]
  rfl

/-- The running state of a core that takes a waypoint. -/
def takenCore (s : State) (k : Core) (w : Waypoint) : Core := match w.frame with
  | some f => restoredCore s k f w
  | none => freshCore k w

theorem takenCore_runs (s : State) (k : Core) (w : Waypoint) : (takenCore s k w).RunsFrom w := by
  unfold takenCore
  split <;> exact ⟨rfl, rfl, rfl⟩

/-- R133, R143. A waypoint without handles to bring and without a fault to take runs on core c; its record is as picked up. -/
theorem runOn_plain (hev : w.evacuated = []) (hf : w.fault = none) : ∃ mine k, (coreOf (runOn s c w) c).RunsFrom w ∧
    (runOn s c w).cores = Map.set s.cores c k ∧
    (runOn s c w).waypoints = s.waypoints.map fun x => if x.key = w.key then pickedUp s c w x mine else x := by
  have hr := restoreHandles_nothing (s := s) (c := c) hev
  have hwps (mine : List Nat) : (s.waypoints.map fun x => if x.key = w.key then { x with evac := false, evacuated := [] } else x).map
      (fun x => if x.key = w.key then
        { x with state := if x.state = .faulted then .faulted else .running, wait := 0, frame := none, heldDone := [], pickedAt := s.chron,
                 start := (w.resume, w.sval), startHandles := mine, startCmd := s.nextCmd, holder := dieOf c, preempt := false, urged := false,
                 spilled := false } else x) =
      s.waypoints.map fun x => if x.key = w.key then pickedUp s c w x mine else x := by
    rw [List.map_map]
    refine List.map_congr_left fun x _ => ?_
    by_cases hx : x.key = w.key
    · simp only [Function.comp, if_pos hx]
      rfl
    · simp only [Function.comp, if_neg hx]
  unfold runOn
  simp only [hr, hf]
  refine ⟨_, takenCore (modWp s w.key fun w => { w with evac := false, evacuated := [] }) (coreOf s c) w, ?_, rfl, hwps _⟩
  refine (congrArg (Core.RunsFrom · w) (coreOf_modCore_same (modWp s w.key fun w => { w with evac := false, evacuated := [] }) c
    fun k => takenCore (modWp s w.key fun w => { w with evac := false, evacuated := [] }) k w)).mpr ?_
  exact takenCore_runs ..

end

theorem charge_frame (s : State) (d q launch : Nat) : ∃ m, charge s d q launch = { s with disps := m } := by
  unfold charge
  split
  · exact ⟨s.disps, rfl⟩
  · exact ⟨_, rfl⟩

theorem noteEmpty_frame (s : State) (d : Nat) : ∃ m, noteEmpty s d = { s with disps := m } := by
  unfold noteEmpty
  split
  · exact ⟨_, rfl⟩
  · exact ⟨s.disps, rfl⟩

theorem splitFirst_single {s : State} {w : Waypoint} (h : w.range = false) : splitFirst s w = (s, w) := by simp [splitFirst, h]

/-- R140, R143, R145. A waypoint placed on core c, charged at die d. -/
def placedOn (s : State) (c d : Nat) (w : Waypoint) : State := noteEmpty (runOn (charge s d w.prio w.key.launch) c w) d

theorem placedOn_runs (s : State) (c d : Nat) {w : Waypoint} (hev : w.evacuated = []) (hf : w.fault = none) : ∃ mine k,
    k.RunsFrom w ∧ (placedOn s c d w).cores = Map.set s.cores c k ∧
    (placedOn s c d w).waypoints = s.waypoints.map fun x => if x.key = w.key then pickedUp s c w x mine else x := by
  obtain ⟨m, hm⟩ := charge_frame s d w.prio w.key.launch
  obtain ⟨m', hm'⟩ := noteEmpty_frame (runOn (charge s d w.prio w.key.launch) c w) d
  obtain ⟨mine, k, hrun, hc, hw⟩ := runOn_plain (s := { s with disps := m }) (c := c) hev hf
  rw [coreOf, hc, Map.get_set_same] at hrun
  refine ⟨mine, k, hrun, ?_, ?_⟩
  · rw [placedOn, hm', hm]
    exact hc
  · rw [placedOn, hm', hm]
    exact hw

theorem findWp_modWp (s : State) (k k' : WpKey) {f : Waypoint → Waypoint} (hf : ∀ w, (f w).key = w.key) :
    findWp (modWp s k f) k' = (findWp s k').map fun w => if w.key = k then f w else w :=
  find_map_keyed Waypoint.key (key_ite_keyed Waypoint.key hf _) s.waypoints k'

/-- R143. An idle core takes its die's one entry. -/
theorem waypointPickup_only {s : State} {w : Waypoint} {l : Launch} (hd : Serving s (s.arg.core / 48))
    (hidle : (coreOf s s.arg.core).mode = .idle) (hk : (coreOf s s.arg.core).Whole) (hw : WaitsAlone s w l) (hold : w.holder = s.arg.core / 48)
    (honly : ∀ y ∈ s.waypoints, y.holder = s.arg.core / 48 → y = w) : Gives .waypointPickup s fun t =>
      (coreOf t s.arg.core).RunsFrom w ∧ ∃ x, findWp t w.key = some x ∧ x.state = .running := by
  have hopen := coreOpen_serving hd hk.1
  have hchoice := choice_only (c := s.arg.core) hw hold honly hd hk
  obtain ⟨⟨hfound, -, -, hst, -, hrange, hev, hf, -, -⟩, -⟩ := hw
  have hx : exec .waypointPickup s = .next (placedOn s s.arg.core (dieOf s.arg.core) w) := by
    show execWaypointPickup s = _
    simp [execWaypointPickup, hidle, hopen, hchoice, splitFirst_single hrange]
    rfl
  obtain ⟨mine, k, hrun, hc, hwps⟩ := placedOn_runs s s.arg.core (dieOf s.arg.core) hev hf
  refine ⟨_, hx, ?_, pickedUp s s.arg.core w w mine, ?_, ?_⟩
  · rw [coreOf, hc, Map.get_set_same]
    exact hrun
  · rw [findWp, hwps]
    refine (find_mod_same Waypoint.key (f := fun x => pickedUp s s.arg.core w x mine) (fun _ => rfl) s.waypoints w.key).trans ?_
    rw [show (s.waypoints.find? fun x => x.key = w.key) = some w from hfound]
    rfl
  · refine if_neg fun h => ?_
    rcases hst with hst | hst <;> rw [hst] at h <;> cases h

/-! ## Stealing (R145) -/

/-- R145. A die without entries takes its neighbour's. -/
theorem dispatcherSteal_only {s : State} {w : Waypoint} {l : Launch} (hd : Serving s s.arg.die) (he : Serving s ((s.arg.die + 1) % 8))
    (hempty : ∀ y ∈ s.waypoints, y.holder ≠ s.arg.die) (hw : WaitsAlone s w l) (hold : w.holder = (s.arg.die + 1) % 8)
    (honly : ∀ y ∈ s.waypoints, y.holder = (s.arg.die + 1) % 8 → y = w) (hq : (coreOf s (48 * s.arg.die)).quarantined = false)
    (hlong : (disp s s.arg.die).emptySince + 2000 * ((disp s s.arg.die).steals + 1) ≤ s.chron) :
    Gives .dispatcherSteal s fun t => findWp t w.key = some { w with holder := s.arg.die } := by
  have hentry := mem_entriesOf hw
  rw [hold] at hentry
  have hnone : entriesOf s s.arg.die = [] := List.filter_eq_nil_iff.mpr fun y hy => by simp [hempty y hy]
  have hnear : ∃ rest, nearestDies s s.arg.die = (s.arg.die + 1) % 8 :: rest := by
    obtain ⟨-, hs, hdrain, -⟩ := he
    have hfirst : ((span 1 7).map fun j => (s.arg.die + j) % 8).find? (dieServes s) = some ((s.arg.die + 1) % 8) := by
      simp [span, List.range_succ_eq_map, dieServes, hs]
    unfold nearestDies
    dsimp only
    rw [hfirst]
    simp [hdrain]
  have hcore : Serving s (48 * s.arg.die / 48) := by rwa [Nat.mul_div_cancel_left _ (by decide)]
  obtain ⟨⟨hfound, hl, hruns, hst, haff, hrange, hev, hf, hsp, hprio⟩, hstep⟩ := hw
  have hplace : (span (48 * s.arg.die) 48).any (inPlacement s l w) = true :=
    List.any_eq_true.mpr ⟨48 * s.arg.die, List.mem_map.mpr ⟨0, by decide, rfl⟩, inPlacement_anywhere hruns hcore hq⟩
  have hsteal : stealable s s.arg.die ((s.arg.die + 1) % 8) = some w := by
    have honly' (p : Waypoint → Bool) : ∀ x ∈ (entriesOf s ((s.arg.die + 1) % 8)).filter p, x = w := fun x hx => by
      obtain ⟨hin, hh⟩ := List.mem_filter.mp (List.mem_filter.mp hx).1
      simp only [Bool.and_eq_true, decide_eq_true_eq] at hh
      exact honly x hin hh.1
    refine findSome?_only_some (fun q _ => oldest_only (honly' _)) (List.mem_range.mpr hprio) (oldest_only_some (honly' _) ?_)
    refine List.mem_filter.mpr ⟨hentry, ?_⟩
    simp [launchOf_found hl, haff, notStep hstep, hplace, hrange]
  have hx : exec .dispatcherSteal s = .next (noteEmpty (modWp (modDisp s s.arg.die fun x => { x with steals := x.steals + 1 }) w.key
      fun x => { x with holder := s.arg.die, spilled := false }) w.holder) := by
    obtain ⟨-, hs, hdrain, -⟩ := hd
    obtain ⟨rest, hnear⟩ := hnear
    show execDispatcherSteal s = _
    simp [execDispatcherSteal, dieServes, hs, hdrain, hnone, Nat.not_lt.mpr hlong, hnear, hsteal, stealEntry, hrange]
  refine ⟨_, hx, ?_⟩
  obtain ⟨m, hm⟩ := noteEmpty_frame (modWp (modDisp s s.arg.die fun x => { x with steals := x.steals + 1 }) w.key
      fun x => { x with holder := s.arg.die, spilled := false }) w.holder
  rw [hm]
  refine (findWp_modWp_same (modDisp s s.arg.die fun x => { x with steals := x.steals + 1 }) w.key
    (f := fun x => { x with holder := s.arg.die, spilled := false }) fun _ => rfl).trans ?_
  rw [show findWp (modDisp s s.arg.die fun x => { x with steals := x.steals + 1 }) w.key = some w from hfound, Option.map_some, hsp.symm]

end Sys2Proof.Machine

namespace Sys2Proof.Machine

/-! ## Pre-emption (R146) -/

section
variable {s : State}

theorem heldByCore_some {e : Nat × Core} (he : e ∈ s.cores) (hm : e.2.mode ≠ .idle) : ∃ c, heldByCore s e.2.wp = some c := by
  rw [← Option.isSome_iff_exists, heldByCore, Option.isSome_map, List.find?_isSome]
  exact ⟨e, he, by simp [hm]⟩

theorem mem_cores_of_coreOf {c : Nat} (h : (coreOf s c).mode ≠ .idle) : (c, coreOf s c) ∈ s.cores := by
  unfold coreOf at *
  revert h
  generalize s.cores = m
  intro h
  induction m with
  | nil => exact absurd rfl h
  | cons e m ih =>
    rw [Map.get] at h ⊢
    by_cases hc : e.1 = c
    · rw [if_pos hc, ← hc]
      exact List.mem_cons_self ..
    · rw [if_neg hc] at h ⊢
      exact List.mem_cons_of_mem _ (ih h)

/-- The step by which a pre-emption is asked for of one waypoint. -/
def askOne (s : State) (m : Waypoint) : State := match heldByCore s m.key with
  | some c => enqueue (modWp s m.key fun x => { x with preempt := true }) .preemptHalt { core := c }
  | none => s

theorem askOne_held {m : Waypoint} {c : Nat} (h : heldByCore s m.key = some c) :
    askOne s m = enqueue (modWp s m.key fun x => { x with preempt := true }) .preemptHalt { core := c } := by rw [askOne, h]

/-- A waypoint's record found after a request: pre-empted if it was, and urged as it was. -/
def AskedFrom (s t : State) (key : WpKey) : Prop :=
  ∀ y, findWp s key = some y → ∃ z, findWp t key = some z ∧ (y.preempt = true → z.preempt = true) ∧ z.urged = y.urged

theorem askedFrom_askOne (m : Waypoint) (key : WpKey) : AskedFrom s (askOne s m) key := by
  intro y hy
  unfold askOne
  split
  · refine ⟨if y.key = m.key then { y with preempt := true } else y, ?_, ?_⟩
    · refine (findWp_modWp s m.key key (f := fun x => { x with preempt := true }) fun _ => rfl).trans ?_
      rw [hy, Option.map_some]
    · split
      · exact ⟨fun _ => rfl, rfl⟩
      · exact ⟨id, rfl⟩
  · exact ⟨y, hy, id, rfl⟩

theorem askedFrom_foldl (ms : List Waypoint) (key : WpKey) : AskedFrom s (ms.foldl askOne s) key := by
  induction ms generalizing s with
  | nil => exact fun y hy => ⟨y, hy, id, rfl⟩
  | cons m ms ih =>
    intro y hy
    obtain ⟨z, hz, hp, hu⟩ := askedFrom_askOne m key y hy
    obtain ⟨z', hz', hp', hu'⟩ := ih z hz
    exact ⟨z', hz', hp' ∘ hp, hu'.trans hu⟩

theorem cores_askOne (s : State) (m : Waypoint) : (askOne s m).cores = s.cores := by
  unfold askOne
  split <;> rfl

/-- A waypoint on a core among those asked is pre-empted. -/
theorem askOne_preempts {ms : List Waypoint} {v : Waypoint} (hv : v ∈ ms) (hfound : findWp s v.key = some v)
    (hheld : ∃ c, heldByCore s v.key = some c) : ∃ y, findWp (ms.foldl askOne s) v.key = some y ∧ y.preempt = true := by
  obtain ⟨as, bs, rfl⟩ := List.append_of_mem hv
  obtain ⟨y, hy, -⟩ := askedFrom_foldl as v.key v hfound
  have hheld' : ∃ c, heldByCore (as.foldl askOne s) v.key = some c := by
    rwa [heldByCore, foldl_keeps State.cores cores_askOne]
  obtain ⟨c, hc⟩ := hheld'
  have hone : findWp (askOne (as.foldl askOne s) v) v.key = some { y with preempt := true } := by
    rw [askOne_held hc]
    refine (findWp_modWp_same _ v.key (f := fun x => { x with preempt := true }) fun _ => rfl).trans ?_
    rw [hy]
    rfl
  obtain ⟨z, hz, hp, -⟩ := askedFrom_foldl bs v.key _ hone
  rw [List.foldl_append, List.foldl_cons]
  exact ⟨z, hz, hp rfl⟩

/-- R137, R146. A waypoint on a core is pre-empted when that is asked for; no core changes, and who is urged stays so. -/
theorem askPreempt_asks {key : WpKey} {v : Waypoint} (hfound : findWp s key = some v) (hheld : ∃ c, heldByCore s key = some c) :
    (askPreempt s key).cores = s.cores ∧ (∃ y, findWp (askPreempt s key) key = some y ∧ y.preempt = true) ∧
      ∀ k, AskedFrom s (askPreempt s key) k := by
  have hkey : v.key = key := by simpa using List.find?_some hfound
  subst hkey
  obtain ⟨ms, hms, hv⟩ : ∃ ms : List Waypoint, askPreempt s v.key = ms.foldl askOne s ∧ v ∈ ms := by
    refine ⟨if (levelWord (launchOf s v.key.launch) v.level).elim false fun x => x.step then membersOf s (groupOf v) else [v], ?_, ?_⟩
    · unfold askPreempt
      rw [hfound]
      rfl
    · split
      · exact List.mem_filter.mpr ⟨List.mem_of_find?_eq_some hfound, by simp⟩
      · exact List.mem_singleton.mpr rfl
  rw [hms]
  exact ⟨foldl_keeps State.cores cores_askOne .., askOne_preempts hv hfound hheld, askedFrom_foldl ms⟩

/-- R146. The longest run among the candidates is one of them. -/
theorem longest_mem {cs : List (Nat × Nat)} (h : cs ≠ []) : ∃ b ∈ cs, cs.foldl (fun best x => match best with
    | none => some x
    | some b => if x.1 < b.1 then some x else some b) none = some b := by
  cases cs with
  | nil => exact absurd rfl h
  | cons x cs =>
    rw [List.foldl_cons]
    refine List.foldlRecOn (motive := fun r : Option (Nat × Nat) => ∃ b ∈ x :: cs, r = some b) _ _ ⟨x, List.mem_cons_self .., rfl⟩ ?_
    rintro _ ⟨b, hb, rfl⟩ y hy
    by_cases hlt : y.1 < b.1
    · exact ⟨y, List.mem_cons_of_mem _ hy, if_pos hlt⟩
    · exact ⟨b, hb, if_neg hlt⟩

/-- R146. What a core yields for a waiting waypoint: when its waypoint was picked up, and its number. -/
def yields (s : State) (l : Launch) (w : Waypoint) (e : Nat × Core) : Option (Nat × Nat) :=
  match findWp s e.2.wp with
  | none => none
  | some v =>
    if e.2.mode = .running && (launchOf s v.key.launch).prio ≥ 2 && s.chron ≥ v.pickedAt + 100000 && inPlacement s l w e.1 &&
        coreOpen s e.1 && coversNeeds s e.1 l w.key && canRestore s e.1 w && (w.aff ≠ 2 || anchorOf w = e.1) then
      some (v.pickedAt, e.1)
    else none

theorem yields_some {l : Launch} {w : Waypoint} {e : Nat × Core} {b : Nat × Nat} (h : yields s l w e = some b) :
    b.2 = e.1 ∧ e.2.mode = .running ∧ ∃ v, findWp s e.2.wp = some v := by
  unfold yields at h
  split at h
  · cases h
  · next v hv =>
    split at h
    · next hc =>
      cases h
      simp only [Bool.and_eq_true, decide_eq_true_eq] at hc
      obtain ⟨⟨⟨⟨⟨⟨⟨hm, -⟩, -⟩, -⟩, -⟩, -⟩, -⟩, -⟩ := hc
      exact ⟨rfl, hm, v, hv⟩
    · cases h

theorem victim_eq (s : State) (l : Launch) (w : Waypoint) : victim s l w = ((s.cores.filterMap (yields s l w)).foldl
    (fun best x => match best with
      | none => some x
      | some b => if x.1 < b.1 then some x else some b) none).map (·.2) := rfl

/-- R146. Where some core may yield, the one that does runs a waypoint. -/
theorem victim_runs {l : Launch} {w : Waypoint} {e : Nat × Core} (he : e ∈ s.cores) (hy : ∃ b, yields s l w e = some b) :
    ∃ e' ∈ s.cores, victim s l w = some e'.1 ∧ e'.2.mode = .running ∧ ∃ v, findWp s e'.2.wp = some v := by
  obtain ⟨b, hb⟩ := hy
  obtain ⟨b', hb', hlong⟩ := longest_mem (List.ne_nil_of_mem (List.mem_filterMap.mpr ⟨e, he, hb⟩))
  obtain ⟨e', he', hy'⟩ := List.mem_filterMap.mp hb'
  obtain ⟨hc, hm, hv⟩ := yields_some hy'
  exact ⟨e', he', by rw [victim_eq, hlong, Option.map_some, hc], hm, hv⟩

/-- R146. A class-0 entry that has waited has a running waypoint of class 2 or 3 pre-empted. -/
theorem priorityPreempt_urges {w x : Waypoint} {l : Launch} {v : Nat} (hwp : w.key = s.arg.wp) (hw : WaitsAlone s w l) (hp : w.prio = 0)
    (hu : w.urged = false) (hlong : w.readyAt + 20000 ≤ s.chron) (hbusy : ∀ c, c < 384 → (coreOf s c).mode ≠ .idle)
    (hcores : ∀ e ∈ s.cores, coreOf s e.1 = e.2) (hd : Serving s (v / 48)) (hrun : (coreOf s v).mode = .running)
    (hk : (coreOf s v).Whole) (hx : findWp s (coreOf s v).wp = some x) (hpicked : x.pickedAt + 100000 ≤ s.chron)
    (hprio : 2 ≤ (launchOf s (coreOf s v).wp.launch).prio) : Gives .priorityPreempt s fun t =>
      (∃ y, findWp t w.key = some y ∧ y.urged = true) ∧
        ∃ c y, (coreOf t c).mode = .running ∧ findWp t (coreOf t c).wp = some y ∧ y.preempt = true := by
  obtain ⟨⟨hfound, hl, hruns, hst, haff, hrange, hev, -⟩, -⟩ := hw
  have hxkey : x.key = (coreOf s v).wp := by simpa using List.find?_some hx
  have hyield : yields s l w (v, coreOf s v) = some (x.pickedAt, v) := by
    simp [yields, hx, hrun, hxkey, hprio, hpicked, inPlacement_anywhere (w := w) hruns hd hk.1, coreOpen_serving hd hk.1,
      coversNeeds_whole hruns hk w.key, canRestore_nothing hev, haff]
  obtain ⟨e, he, hvictim, hm, v', hv'⟩ := victim_runs (mem_cores_of_coreOf (by rw [hrun]; decide)) ⟨_, hyield⟩
  have hfree : ((List.range 384).any fun c => (coreOf s c).mode = .idle && coreOpen s c && mayTake s c w) = false :=
    List.any_eq_false.mpr fun c hc => by simp [hbusy c (List.mem_range.mp hc)]
  have hexec : exec .priorityPreempt s = .next (askPreempt (modWp s w.key fun x => { x with urged := true }) e.2.wp) := by
    show execPriorityPreempt s = _
    rw [hwp] at hfound
    have hlong' : ¬s.chron < w.readyAt + 20000 := by omega
    simp only [execPriorityPreempt, hfound, launchOf_found hl, hfree, isEntry_waits hst, hp, hu, hlong', hvictim, hcores e he, Bool.not_true,
      Bool.or_false, decide_false, ne_eq, not_true_eq_false, Bool.false_eq_true, if_false]
  have hfound' : ∃ v'', findWp (modWp s w.key fun x => { x with urged := true }) e.2.wp = some v'' := by
    rw [findWp_modWp s w.key e.2.wp (f := fun x => { x with urged := true }) fun _ => rfl, hv']
    exact ⟨_, rfl⟩
  obtain ⟨v'', hv''⟩ := hfound'
  obtain ⟨hc, hpre, hasked⟩ := askPreempt_asks (s := modWp s w.key fun x => { x with urged := true }) hv''
    (heldByCore_some (s := modWp s w.key fun x => { x with urged := true }) he (by rw [hm]; decide))
  have hurged : findWp (modWp s w.key fun x => { x with urged := true }) w.key = some { w with urged := true } := by
    rw [findWp_modWp_same s w.key (f := fun x => { x with urged := true }) fun _ => rfl, hfound]
    rfl
  obtain ⟨z, hz, -, hzu⟩ := hasked w.key _ hurged
  have hcore : coreOf (askPreempt (modWp s w.key fun x => { x with urged := true }) e.2.wp) e.1 = e.2 := by
    rw [coreOf, hc]
    exact hcores e he
  obtain ⟨y, hy, hyp⟩ := hpre
  exact ⟨_, hexec, ⟨z, hz, hzu⟩, e.1, y, by rw [hcore, hm], by rw [hcore, hy], hyp⟩

end

end Sys2Proof.Machine

namespace Sys2Proof.Machine

/-! ## Numbers without repeats, and chains (R181) -/

theorem mem_dedup {x : Nat} {l : List Nat} : x ∈ dedup l ↔ x ∈ l := by
  induction l with
  | nil => exact Iff.rfl
  | cons y l ih =>
    rw [dedup, List.foldr_cons, ← dedup]
    by_cases hy : y ∈ dedup l
    · simp only [List.contains_iff_mem, hy, if_true, List.mem_cons, ih]
      exact ⟨.inr, fun h => h.elim (fun h => by subst h; exact ih.mp hy) id⟩
    · simp only [List.contains_iff_mem, hy, if_false, List.mem_cons, ih]

theorem nodup_dedup (l : List Nat) : (dedup l).Nodup := by
  induction l with
  | nil => exact List.nodup_nil
  | cons y l ih =>
    rw [dedup, List.foldr_cons, ← dedup]
    by_cases hy : y ∈ dedup l
    · simpa only [List.contains_iff_mem, hy, if_true] using ih
    · simpa only [List.contains_iff_mem, hy, if_false] using List.nodup_cons.mpr ⟨hy, ih⟩

/-- A list as long as that of its numbers repeats none. -/
theorem length_dedup_iff {l : List Nat} : (dedup l).length = l.length ↔ l.Nodup := by
  have hsub : (dedup l).Subperm l := List.subperm_of_subset (nodup_dedup l) fun _ h => mem_dedup.mp h
  refine ⟨fun h => ?_, fun h => le_antisymm hsub.length_le ?_⟩
  · exact (hsub.perm_of_length_le (by rw [h])).nodup_iff.mp (nodup_dedup l)
  · exact (List.subperm_of_subset h fun _ h => mem_dedup.mpr h).length_le

theorem length_chainRun {l : Launch} : ∀ {n c : Nat} {r : List Nat}, chainRun l n c = some r → r.length = n
  | 0, _, _, h => by cases h; rfl
  | 1, _, _, h => by cases h; rfl
  | n + 2, c, r, h => by
    rw [chainRun] at h
    split at h
    · cases h
    · obtain ⟨r', hr', rfl⟩ := Option.map_eq_some_iff.mp h
      rw [List.length_cons, length_chainRun hr']

theorem span_succ (lo n : Nat) : span lo (n + 1) = lo :: span (lo + 1) n := by
  simp [span, List.range_succ_eq_map, Nat.add_assoc, Nat.add_comm 1]

/-- R181. Within a die a run of the chain is a run of its cores. -/
theorem chainRun_within (l : Launch) : ∀ {n c : Nat}, 1 ≤ n → c % 48 + n ≤ 48 → chainRun l n c = some (span c n)
  | 1, c, _, _ => by simp [chainRun, span]
  | n + 2, c, _, h => by
    have hnext : chainNext l c = some (c + 1) := if_pos (by rw [coreNo]; omega)
    rw [chainRun, hnext]
    dsimp only
    rw [chainRun_within l (by omega) (by omega), span_succ c (n + 1)]
    rfl

/-! ## Step groups (R137) -/

/-- A waypoint of a step group. -/
def Member (s : State) (g : GroupKey) (y : Waypoint) : Prop :=
  y ∈ s.waypoints ∧ y.key.launch = g.launch ∧ y.level = g.level ∧ y.parent = g.parent

theorem mem_membersOf {s : State} {g : GroupKey} {y : Waypoint} : y ∈ membersOf s g ↔ Member s g y := by
  obtain ⟨a, b, c⟩ := g
  simp [membersOf, groupOf, Member]

/-- A step group whose coordinates, one of each, all wait. -/
structure WaitingGroup (s : State) (g : GroupKey) (l : Launch) (x : LevelWord) : Prop where
  launch : findLaunch s g.launch = some l
  level : levelWord l g.level = some x
  step : x.step = true
  inhabited : 1 ≤ x.extent
  ids : s.waypoints.length ≤ 0xFFFFF
  waits : ∀ y, Member s g y → WaitsAnywhere s y l ∧ y.hi = y.lo + 1 ∧ y.lo < x.extent ∧ ∀ z ∈ s.waypoints, z.key = y.key → z = y
  apart : ∀ y z, Member s g y → Member s g z → y.lo = z.lo → y = z
  covers : ∀ i, i < x.extent → ∃ y, Member s g y ∧ y.lo = i

theorem le_reach (ws : List Waypoint) (r : Nat) : r ≤ ws.foldl (fun r w => if w.lo ≤ r then max r w.hi else r) r := by
  refine List.foldlRecOn (motive := fun b => r ≤ b) _ _ (le_refl r) fun b hb w _ => ?_
  split
  · exact le_trans hb (le_max_left ..)
  · exact hb

/-- One round takes in every range that begins where the run stands. -/
theorem hi_le_reach {ws : List Waypoint} {w : Waypoint} (hw : w ∈ ws) {r : Nat} (hr : w.lo ≤ r) :
    w.hi ≤ ws.foldl (fun r w => if w.lo ≤ r then max r w.hi else r) r := by
  obtain ⟨as, bs, rfl⟩ := List.append_of_mem hw
  rw [List.foldl_append, List.foldl_cons, if_pos (le_trans hr (le_reach as r))]
  exact le_trans (le_max_right ..) (le_reach bs _)

theorem reachOf_covers {ws : List Waypoint} {extent : Nat} (h : ∀ i, i < extent → ∃ y ∈ ws, y.lo = i ∧ y.hi = i + 1) (n r : Nat) :
    min extent (r + n) ≤ reachOf ws n r := by
  induction n generalizing r with
  | zero => exact min_le_right ..
  | succ n ih =>
    rw [reachOf]
    refine le_trans ?_ (ih _)
    by_cases hr : r < extent
    · obtain ⟨y, hy, hlo, hhi⟩ := h r hr
      have := hi_le_reach hy (le_of_eq hlo)
      omega
    · have := le_reach ws r
      omega

section
variable {s : State} {g : GroupKey} {l : Launch} {x : LevelWord} (h : WaitingGroup s g l x)
include h

theorem WaitingGroup.entry {y : Waypoint} (hy : Member s g y) : y.state = .ready ∨ y.state = .preempted := by
  obtain ⟨⟨-, -, -, hst, -⟩, -⟩ := h.waits y hy
  exact hst

theorem WaitingGroup.liveMembers_eq : liveMembers s g = membersOf s g := by
  refine List.filter_eq_self.mpr fun y hy => ?_
  rcases h.entry (mem_membersOf.mp hy) with hs | hs <;> simp [ended, hs]

theorem WaitingGroup.mem_live {y : Waypoint} : y ∈ liveMembers s g ↔ Member s g y := by rw [h.liveMembers_eq, mem_membersOf]

theorem WaitingGroup.coversAll : coversAll (membersOf s g) x.extent = true := by
  have hcov (i : Nat) (hi : i < x.extent) : ∃ y ∈ membersOf s g, y.lo = i ∧ y.hi = i + 1 := by
    obtain ⟨y, hy, hlo⟩ := h.covers i hi
    obtain ⟨-, hhi, -⟩ := h.waits y hy
    exact ⟨y, mem_membersOf.mpr hy, hlo, by rw [hhi, hlo]⟩
  have hlen : x.extent ≤ (membersOf s g).length := by
    have hsub : List.range x.extent ⊆ (membersOf s g).map (·.lo) := fun i hi => by
      obtain ⟨y, hy, hlo, -⟩ := hcov i (List.mem_range.mp hi)
      exact List.mem_map.mpr ⟨y, hy, hlo⟩
    have := (List.subperm_of_subset List.nodup_range hsub).length_le
    rwa [List.length_range, List.length_map] at this
  have := reachOf_covers hcov (membersOf s g).length 0
  exact decide_eq_true (by omega)

theorem WaitingGroup.idsEnough : idsEnough s g.launch (liveMembers s g) = true := by
  have hmore : ((liveMembers s g).map fun w => if w.range then w.hi - w.lo - 1 else 0).foldl (· + ·) 0 = 0 := by
    refine List.foldlRecOn (motive := fun b => b = 0) _ _ rfl fun b hb n hn => ?_
    obtain ⟨w, hw, rfl⟩ := List.mem_map.mp hn
    obtain ⟨⟨-, -, -, -, -, hrange, -⟩, -⟩ := h.waits w (h.mem_live.mp hw)
    rw [hb, hrange]
    rfl
  have hused := List.length_filter_le (fun w => w.key.launch = g.launch && !ended s w) s.waypoints
  have := h.ids
  rw [Machine.idsEnough, hmore]
  exact decide_eq_true (by omega)

/-- The member of a coordinate, among waypoints of the group that are it or run. -/
theorem WaitingGroup.memberAt_eq {ws : List Waypoint} {y : Waypoint} (hy : Member s g y) (hin : y ∈ ws)
    (hws : ∀ z ∈ ws, Member s g z) : memberAt ws y.lo = some y := by
  obtain ⟨-, hhi, -⟩ := h.waits y hy
  cases hf : memberAt ws y.lo with
  | none =>
    have := List.find?_eq_none.mp hf y hin
    simp [hhi] at this
  | some z =>
    have hz := hws z (List.mem_of_find?_eq_some hf)
    obtain ⟨-, hzhi, -⟩ := h.waits z hz
    have hp := List.find?_some hf
    simp only [Bool.and_eq_true, decide_eq_true_eq] at hp
    rw [h.apart z y hz hy (by omega)]

theorem WaitingGroup.memberAt_live {y : Waypoint} (hy : Member s g y) : memberAt (liveMembers s g) y.lo = some y :=
  h.memberAt_eq hy (h.mem_live.mpr hy) fun _ hz => h.mem_live.mp hz

end

/-! ### Members placed one after another -/

/-- The placing of the member of coordinate i. -/
def placeMember (g : GroupKey) (r : List Nat) (u : State) (i : Nat) : State :=
  match memberAt ((membersOf u g).filter (isEntry u)) i, r[i]? with
  | some w, some c => noteEmpty (runOn (splitFirst (charge u w.holder w.prio w.key.launch) w).1 c
      (splitFirst (charge u w.holder w.prio w.key.launch) w).2) w.holder
  | _, _ => u

theorem placeRun_eq (s : State) (g : GroupKey) (r : List Nat) : placeRun s g r = (List.range r.length).foldl (placeMember g r) s := rfl

theorem placeMember_places {u : State} {g : GroupKey} {r : List Nat} {i c : Nat} {w : Waypoint} (hr : r[i]? = some c)
    (hw : memberAt ((membersOf u g).filter (isEntry u)) i = some w) (hrange : w.range = false) :
    placeMember g r u i = placedOn u c w.holder w := by
  unfold placeMember
  rw [hw, hr]
  dsimp only
  rw [splitFirst_single hrange]
  rfl

/-- After n placements: the group's waypoints are members as they were, or run; the later members wait still; the earlier ones run. -/
structure PlacedTo (s u : State) (g : GroupKey) (r : List Nat) (n : Nat) : Prop where
  left : ∀ z, Member u g z → z ∈ s.waypoints ∨ z.state = .running
  kept : ∀ y, Member s g y → n ≤ y.lo → y ∈ u.waypoints
  runs : ∀ y, Member s g y → y.lo < n → ∃ c, r[y.lo]? = some c ∧ (coreOf u c).RunsFrom y

section
variable {s : State} {g : GroupKey} {l : Launch} {x : LevelWord} (h : WaitingGroup s g l x) {r : List Nat} (hr : r.Nodup)
  (hlen : r.length = x.extent)
include h

theorem PlacedTo.memberAt {u : State} {n : Nat} (hp : PlacedTo s u g r n) {y : Waypoint} (hy : Member s g y) (hlo : y.lo = n) :
    memberAt ((membersOf u g).filter (isEntry u)) n = some y := by
  subst hlo
  refine h.memberAt_eq hy (List.mem_filter.mpr ⟨mem_membersOf.mpr ⟨hp.kept y hy (le_refl _), hy.2⟩, isEntry_waits (h.entry hy)⟩) fun z hz => ?_
  obtain ⟨hm, he⟩ := List.mem_filter.mp hz
  have hz := mem_membersOf.mp hm
  refine ⟨(hp.left z hz).resolve_right fun hrun => ?_, hz.2⟩
  simp [isEntry, hrun] at he

include hr hlen

theorem PlacedTo.succ {u : State} {n : Nat} (hp : PlacedTo s u g r n) (hn : n < r.length) :
    PlacedTo s (placeMember g r u n) g r (n + 1) := by
  obtain ⟨w, hw, hlo⟩ := h.covers n (hlen ▸ hn)
  obtain ⟨⟨-, -, -, hst, -, hrange, hev, hf, -⟩, -, -, huniq⟩ := h.waits w hw
  have hc : r[n]? = some r[n] := List.getElem?_eq_getElem hn
  rw [placeMember_places hc (hp.memberAt h hw hlo) hrange]
  obtain ⟨mine, k, hrun, hcores, hwps⟩ := placedOn_runs u r[n] w.holder hev hf
  refine ⟨fun z hz => ?_, fun y hy hny => ?_, fun y hy hny => ?_⟩
  · obtain ⟨hin, hz⟩ := hz
    rw [hwps] at hin
    obtain ⟨z', hin', rfl⟩ := List.mem_map.mp hin
    split at hz
    · next hkey =>
      rw [if_pos hkey]
      refine .inr ?_
      rcases hp.left z' ⟨hin', hz⟩ with hold | hrunning
      · rw [huniq z' hold hkey]
        exact if_neg fun hfa => by rcases hst with hst | hst <;> rw [hst] at hfa <;> cases hfa
      · exact if_neg fun hfa => by rw [hrunning] at hfa; cases hfa
    · next hkey =>
      rw [if_neg hkey]
      exact hp.left z' ⟨hin', hz⟩
  · rw [hwps]
    refine List.mem_map.mpr ⟨y, hp.kept y hy (by omega), if_neg fun hkey => ?_⟩
    rw [huniq y hy.1 hkey] at hny
    omega
  · rcases Nat.lt_succ_iff_lt_or_eq.mp hny with hlt | heq
    · obtain ⟨c, hyc, hruns⟩ := hp.runs y hy hlt
      refine ⟨c, hyc, ?_⟩
      have hne : r[n] ≠ c := fun he => by
        have := (List.nodup_iff_getElem?_ne_getElem?.mp hr) y.lo n hlt hn
        rw [hyc, hc, he] at this
        exact this rfl
      rw [coreOf, hcores, Map.get_set_other _ _ _ hne]
      exact hruns
    · rw [heq, h.apart y w hy hw (by rw [heq, hlo])]
      exact ⟨r[n], hc, by rw [coreOf, hcores, Map.get_set_same]; exact hrun⟩

/-- R137. A step group placed on a run of cores runs there. -/
theorem placeRun_runs {y : Waypoint} (hy : Member s g y) : ∃ c, (coreOf (placeRun s g r) c).RunsFrom y := by
  have hall : ∀ n, n ≤ r.length → PlacedTo s ((List.range n).foldl (placeMember g r) s) g r n := by
    intro n hn
    induction n with
    | zero => exact ⟨fun z hz => .inl hz.1, fun y hy _ => hy.1, fun y _ hlt => absurd hlt (Nat.not_lt_zero _)⟩
    | succ n ih =>
      rw [List.range_succ, List.foldl_append]
      exact (ih (by omega)).succ h hr hlen (by omega)
  obtain ⟨-, -, hlt, -⟩ := h.waits y hy
  obtain ⟨c, -, hruns⟩ := (hall r.length (le_refl _)).runs y hy (by omega)
  exact ⟨c, placeRun_eq s g r ▸ hruns⟩

end

end Sys2Proof.Machine

namespace Sys2Proof.Machine

section
variable {s : State} {g : GroupKey} {l : Launch} {x : LevelWord}

/-- R181. A run of a group repeats no core and is as long as the group. -/
theorem groupRuns_mem {w : Waypoint} {n : Nat} {r : List Nat} (h : r ∈ groupRuns s l w n) : r.Nodup ∧ r.length = n := by
  obtain ⟨c, -, hc⟩ := List.mem_filterMap.mp h
  split at hc
  · cases hc
  · split at hc
    · next r' hrun =>
      split at hc
      · next hok =>
        cases hc
        simp only [Bool.and_eq_true, decide_eq_true_eq] at hok
        obtain ⟨-, hdedup⟩ := hok
        have hlen := length_chainRun hrun
        exact ⟨length_dedup_iff.mp (hdedup.trans hlen.symm), hlen⟩
      · cases hc
    · cases hc

/-- Consecutive cores of a serving die that have room. -/
structure RoomAt (s : State) (d c0 n : Nat) : Prop where
  serving : Serving s d
  above : 48 * d ≤ c0
  below : c0 + n ≤ 48 * d + 48
  free : ∀ i, i < n → (coreOf s (c0 + i)).mode = .idle ∧ (coreOf s (c0 + i)).Whole

theorem RoomAt.die {d c0 n : Nat} (h : RoomAt s d c0 n) {i : Nat} (hi : i < n) : Serving s ((c0 + i) / 48) := by
  have ha := h.above
  have hb := h.below
  rw [show (c0 + i) / 48 = d by omega]
  exact h.serving

variable {d c0 : Nat} (hr : RoomAt s d c0 x.extent) (h : WaitingGroup s g l x)
include hr h

omit hr in
theorem WaitingGroup.runsAnywhere : l.RunsAnywhere := by
  obtain ⟨y, hy, -⟩ := h.covers 0 h.inhabited
  obtain ⟨⟨-, hl, hruns, -⟩, -⟩ := h.waits y hy
  exact hruns

theorem RoomAt.mem_groupRuns (w : Waypoint) : span c0 x.extent ∈ groupRuns s l w x.extent := by
  have hruns := h.runsAnywhere
  have ha := hr.above
  have hb := hr.below
  have h1 := h.inhabited
  obtain ⟨hd, -⟩ := hr.serving
  have hchain : chainRun l x.extent c0 = some (span c0 x.extent) := chainRun_within l h1 (by omega)
  have hplace : (span c0 x.extent).all (inPlacement s l w) = true := by
    refine List.all_eq_true.mpr fun c hc => ?_
    obtain ⟨i, hi, rfl⟩ := List.mem_map.mp hc
    rw [List.mem_range] at hi
    obtain ⟨-, hq, -⟩ := hr.free i hi
    exact inPlacement_anywhere hruns (hr.die hi) hq
  have hnodup : (span c0 x.extent).Nodup := List.nodup_range.map fun a b hab => by simpa using hab
  have hlen : (dedup (span c0 x.extent)).length = x.extent := by
    rw [length_dedup_iff.mpr hnodup, span, List.length_map, List.length_range]
  refine List.mem_filterMap.mpr ⟨c0, List.mem_range.mpr (by omega), ?_⟩
  rw [if_neg (by omega), hchain]
  exact if_pos (by rw [hplace, hlen]; simp)

theorem RoomAt.runFits : runFits s l (liveMembers s g) (span c0 x.extent) = true := by
  have hruns := h.runsAnywhere
  refine List.all_eq_true.mpr fun i hi => ?_
  rw [List.mem_range, span, List.length_map, List.length_range] at hi
  obtain ⟨y, hy, rfl⟩ := h.covers i hi
  obtain ⟨⟨-, -, -, -, haff, -, hev, -⟩, -⟩ := h.waits y hy
  obtain ⟨hidle, hk⟩ := hr.free y.lo hi
  have hget : (span c0 x.extent)[y.lo]? = some (c0 + y.lo) := by simp [span, hi]
  rw [h.memberAt_live hy, hget]
  simp [hidle, coreOpen_serving (hr.die hi) hk.1, coversNeeds_whole hruns hk y.key, canRestore_nothing hev, haff]

/-- R137, R181. A step group whose coordinates all wait runs, where consecutive cores have room. -/
theorem stepGroupPlace_runs (hg : s.arg.group = g) : Gives .stepGroupPlace s fun t => ∀ y, Member s g y → ∃ c, (coreOf t c).RunsFrom y := by
  have hruns := h.runsAnywhere
  obtain ⟨w, ws, hms⟩ : ∃ w ws, liveMembers s g = w :: ws := by
    obtain ⟨y, hy, -⟩ := h.covers 0 h.inhabited
    exact List.exists_cons_of_ne_nil (List.ne_nil_of_mem (h.mem_live.mpr hy))
  have hentry (y : Waypoint) (hy : y ∈ w :: ws) : y.state = .ready ∨ y.state = .preempted := h.entry (h.mem_live.mp (hms ▸ hy))
  have hwaits : ((w :: ws).all fun m => m.state = .ready || m.state = .preempted) = true :=
    List.all_eq_true.mpr fun y hy => by simpa using hentry y hy
  have hany : ((w :: ws).any fun m => m.state = .ready || m.state = .preempted) = true :=
    List.any_eq_true.mpr ⟨w, List.mem_cons_self .., by simpa using hentry w (List.mem_cons_self ..)⟩
  obtain ⟨r, hfind⟩ : ∃ r, (groupRuns s l w x.extent).find? (runFits s l (w :: ws)) = some r := by
    rw [← Option.isSome_iff_exists, List.find?_isSome]
    exact ⟨_, hr.mem_groupRuns h w, hms ▸ hr.runFits h⟩
  have hsome : (groupRuns s l w x.extent).isEmpty = false := by
    rw [List.isEmpty_eq_false_iff]
    exact List.ne_nil_of_mem (hr.mem_groupRuns h w)
  have hx : exec .stepGroupPlace s = .next (placeRun s g r) := by
    show execStepGroupPlace s = _
    have hids := hms ▸ h.idsEnough
    have hcov := h.coversAll
    obtain ⟨hgr, hh, hrun, -⟩ := hruns
    have hheld : l.held = false := by rw [Launch.held, hh]; rfl
    simp only [execStepGroupPlace, hg, launchOf_found h.launch, h.level, hms, hcov, h.step, hgr, hheld, hrun, hany, hwaits, hids, hsome, hfind,
      Bool.true_or, Bool.not_true, Bool.or_false, ne_eq, not_true_eq_false, decide_false, Bool.false_eq_true, if_false]
  obtain ⟨hnodup, hlen⟩ := groupRuns_mem (List.mem_of_find?_eq_some hfind)
  exact ⟨_, hx, fun y hy => placeRun_runs h hnodup hlen hy⟩

end

end Sys2Proof.Machine

namespace Sys2Proof.Machine

/-! ## Evacuation (R131) -/

theorem unarmed_of_word {e : AlmEntry} (h : e.word = 0#64) : armed e = false := by simp [armed, entryOp, h, field]

section
variable {s : State} {c : Nat}

/-- R55, R131. Nothing targets a handle of a core while no command, no call and no armed entry is left. -/
theorem mayEvacuate_quiet (hx : s.cmds = []) (hp : ∀ e ∈ s.cores, e.2.plans = [])
    (ha : ∀ e ∈ (station s (2 * dieOf c)).almanac, e.2.word = 0#64) (key : WpKey) : mayEvacuate s c key = true := by
  refine List.all_eq_true.mpr fun h _ => ?_
  have htarget : handleTargeted s c h.1 = false := by
    rw [handleTargeted, hx, List.any_nil, Bool.false_or, List.any_eq_false]
    intro e he
    simp [hp e he]
  have harmed : handleArmed s c h.1 = false := List.any_eq_false.mpr fun e he => by simp [unarmed_of_word (ha e he)]
  rw [htarget, harmed]
  rfl

/-- R131. A pinned waypoint that must and may leave its core has its handles copied out. -/
theorem evacuationComplete_evacuates {w : Waypoint} (hfound : findWp s s.arg.wp = some w) (hmust : mustEvacuate s w = true)
    (hmay : mayEvacuate s (anchorOf w) w.key = true) (hh : ∃ n h, (n, h) ∈ (coreOf s (anchorOf w)).handles ∧ h.owner = w.key) :
    Gives .evacuationComplete s fun t => (∀ n h, (n, h) ∈ (coreOf t (anchorOf w)).handles → h.owner ≠ w.key) ∧
      ∃ x, findWp t w.key = some x ∧ x.evac = true ∧ x.aff = 0 ∧ x.evacuated ≠ [] := by
  have hkey : w.key = s.arg.wp := by simpa using List.find?_some hfound
  rw [← hkey] at hfound
  obtain ⟨n, h, hmem, howner⟩ := hh
  have hin : (n, h) ∈ handlesOf s (anchorOf w) w.key := List.mem_filter.mpr ⟨hmem, by simpa using howner⟩
  have hsome : (handlesOf s (anchorOf w) w.key).isEmpty = false := by
    rw [List.isEmpty_eq_false_iff]
    exact List.ne_nil_of_mem hin
  have hx : exec .evacuationComplete s = .next (evacuate s (anchorOf w) w.key) := by
    show execEvacuationComplete s = _
    simp only [execEvacuationComplete, ← hkey, hfound, hmust, hmay, Bool.and_self, if_true]
  rw [evacuate] at hx
  simp only [hsome, Bool.false_eq_true, if_false] at hx
  refine ⟨_, hx, fun n h hm => ?_, ?_⟩
  · rw [handles_releaseHandles, if_pos rfl] at hm
    simpa using (List.mem_filter.mp hm).2
  · rw [findWp_of_outline (outline_releaseHandles ..), findWp_modWp_same s w.key
      (f := fun x => { x with evac := true, evacuated := (handlesOf s (anchorOf w) w.key).map (copyOut (coreOf s (anchorOf w))), aff := 0,
                              pmask := 0#8 }) fun _ => rfl, hfound]
    exact ⟨_, rfl, rfl, rfl, List.ne_nil_of_mem (List.mem_map_of_mem hin)⟩

end

/-! ## Over capacity (R150, R151) -/

section
variable {s : State} {c : Nat} {w : Waypoint}

theorem withdraw_frame (s : State) (key : WpKey) : ∃ b, withdraw s key = { s with barriers := b } := by
  unfold withdraw
  split
  · exact ⟨s.barriers, rfl⟩
  · dsimp only
    split
    · exact ⟨_, rfl⟩
    · exact ⟨s.barriers, rfl⟩

theorem dropWork_idle (h : ∀ x ∈ s.cmds, x.wp ≠ w.key) :
    dropWork s c w = modCore s c fun k => { k with region := none, frozen := false, held := [], sent := [] } := by
  rw [dropWork, List.filter_eq_nil_iff.mpr fun x hx => by simp [h x hx]]
  rfl

theorem ending_modLaunch (s : State) (l : Nat) {f : Launch → Launch} (hid : ∀ x, (f x).id = x.id) (he : ∀ x, (f x).ending = x.ending) :
    (launchOf (modLaunch s l f) l).ending = (launchOf s l).ending := by
  rw [launchOf, findLaunch_modLaunch_same s l hid, launchOf]
  cases findLaunch s l with
  | none => rfl
  | some x => exact he x

theorem findWp_releaseAll (s : State) (key k : WpKey) : findWp (releaseAll s key) k = findWp s k := findWp_of_outline (outline_releaseAll s key) k

theorem findWp_freeCore (s : State) (c : Nat) (k : WpKey) : findWp (freeCore s c) k = findWp s k := findWp_of_outline (outline_freeCore s c) k

theorem findWp_modWp_found {key : WpKey} {f : Waypoint → Waypoint} (hf : ∀ w, (f w).key = w.key) (h : findWp s key = some w) :
    findWp (modWp s key f) key = some (f w) := by rw [findWp_modWp_same s key hf, h, Option.map_some]

/-- R141. A waypoint made READY keeps what it was picked up with. -/
theorem makeReady_found {key : WpKey} (h : findWp s key = some w) :
    ∃ x, findWp (makeReady s key) key = some x ∧ x.state = .ready ∧ x.start = w.start ∧ x.rcount = w.rcount :=
  ⟨_, findWp_modWp_found (fun _ => rfl) h, rfl, rfl, rfl⟩

/-- R151. The record of a waypoint that stands as at its pick-up again. -/
def asPickedUp (s : State) (c : Nat) (x : Waypoint) : Waypoint :=
  { x with resume := x.start.1, sval := x.start.2, frame := none, frameAt := none, leftAt := s.chron, holder := dieOf c, fault := none }

/-- R151. A RESTART before its relaunch is counted. -/
def restarted (s : State) (c : Nat) (w : Waypoint) : State :=
  modWp (makeReady (freeCore (releaseAll s w.key) c) w.key) w.key (asPickedUp s c)

theorem restart_eq (h : w.startHandles = []) : restart s c w = settleFreed (countRelaunch (restarted s c w) w.key) w.key := by
  rw [restart, if_neg (by simp [h])]
  rfl

theorem restarted_found (hfound : findWp s w.key = some w) : ∃ x, findWp (restarted s c w) w.key = some x ∧ x.state = .ready ∧
    x.resume = w.start.1 ∧ x.rcount = w.rcount := by
  have hfreed : findWp (freeCore (releaseAll s w.key) c) w.key = some w := by rw [findWp_freeCore, findWp_releaseAll, hfound]
  obtain ⟨x, hx, hst, hstart, hrc⟩ := makeReady_found hfreed
  exact ⟨asPickedUp s c x, findWp_modWp_found (fun _ => rfl) hx, hst, congrArg Prod.fst hstart, hrc⟩

theorem countRelaunch_found {key : WpKey} (h : findWp s key = some w) :
    findWp (countRelaunch s key) key = some { w with rcount := w.rcount + 1 } :=
  findWp_modWp_found (f := fun w => { w with rcount := w.rcount + 1 }) (fun _ => rfl) h

theorem coreOf_countRelaunch (s : State) (key : WpKey) (c : Nat) : coreOf (countRelaunch s key) c = coreOf s c := rfl

theorem coreOf_restarted (s : State) (c : Nat) (w : Waypoint) : coreOf (restarted s c w) c = coreOf (freeCore (releaseAll s w.key) c) c := rfl

theorem settleFreed_found {key : WpKey} (h : findWp s key = some w) (hrun : (launchOf s key.launch).ending = .running) :
    findWp (settleFreed s key) key = some { w with preempt := false } := by
  rw [settleFreed, if_neg (by simpa using hrun)]
  exact findWp_modWp_found (f := fun w => { w with preempt := false }) (fun _ => rfl) h

/-- R151. RESTART of a waypoint of a live launch: its core is free, and it is READY as it was picked up. -/
theorem restart_readies (hfound : findWp s w.key = some w) (h : w.startHandles = []) (hrun : (launchOf s w.key.launch).ending = .running) :
    (coreOf (restart s c w) c).mode = .idle ∧
      ∃ x, findWp (restart s c w) w.key = some x ∧ x.state = .ready ∧ x.resume = w.start.1 ∧ x.rcount = w.rcount + 1 := by
  rw [restart_eq h]
  have hlaunches : (restarted s c w).launches = s.launches :=
    (launches_of_outline (outline_freeCore ..)).trans (launches_of_outline (outline_releaseAll ..))
  have hstays : (launchOf (countRelaunch (restarted s c w) w.key) w.key.launch).ending = .running := by
    refine (ending_modLaunch _ w.key.launch (f := fun l => { l with nrelaunch := min (l.nrelaunch + 1) 0xFFFF }) (fun _ => rfl)
      fun _ => rfl).trans ?_
    show (launchOf (restarted s c w) w.key.launch).ending = _
    rw [launchOf, findLaunch, hlaunches]
    exact hrun
  have hidle : (coreOf (settleFreed (countRelaunch (restarted s c w) w.key) w.key) c).mode = .idle := by
    rw [Core.of_unhoused (unhoused_settleFreed ..) Core.mode, coreOf_countRelaunch, coreOf_restarted, mode_freeCore, if_pos rfl]
  obtain ⟨x, hx, hst, hres, hrc⟩ := restarted_found (c := c) hfound
  exact ⟨hidle, _, settleFreed_found (countRelaunch_found hx) hstays, hst, hres,
    congrArg (· + 1) hrc⟩

theorem relaunchNow_restarts (h : ∀ x ∈ s.cmds, x.wp ≠ w.key) : relaunchNow s c w false = restart s c w := by
  have hnone : (s.cmds.any fun x => x.wp = w.key) = false := List.any_eq_false.mpr fun x hm => by simpa using h x hm
  rw [relaunchNow, hnone]
  rfl

theorem evacuationDue_unpinned (h : ∀ x ∈ s.waypoints, x.aff ≠ 2) (c : Nat) : evacuationDue s c = false := by
  have hnone : pinnedTo s c = [] := by
    unfold pinnedTo
    rw [List.filter_eq_nil_iff.mpr fun x hx => by simp [h x hx]]
    rfl
  rw [evacuationDue, shrinkTurn, hnone]
  rfl

theorem banksShort_over (hcap : capacity (coreOf s c) .spad < (heldBanks (coreOf s c) .spad).length)
    (hh : ∃ n h, (n, h) ∈ (coreOf s c).handles ∧ h.owner = (coreOf s c).wp ∧ h.level = .spad ∧ h.banks ≠ []) : banksShort s c ≠ 0 := by
  obtain ⟨n, h, hmem, howner, hlevel, hbanks⟩ := hh
  have hpos : 0 < banksOf s c .spad (coreOf s c).wp := by
    obtain ⟨b, hb⟩ := List.exists_mem_of_ne_nil _ hbanks
    have hin : b ∈ ((coreOf s c).handles.filter fun h => h.2.owner = (coreOf s c).wp && h.2.level = .spad).flatMap fun h => h.2.banks :=
      List.mem_flatMap.mpr ⟨(n, h), List.mem_filter.mpr ⟨hmem, by simp [howner, hlevel]⟩, hb⟩
    exact List.length_pos_of_mem hin
  unfold banksShort
  dsimp only
  rw [if_pos (by simp [hcap, hpos])]
  omega

/-- R150, R151. A core over its capacity gives its waypoint back as it was picked up. -/
theorem overCapacity_restarts (hc : s.arg.core = c) (hfound : findWp s (coreOf s c).wp = some w) (hrun : (coreOf s c).mode = .running)
    (hreg : (coreOf s c).region = none) (hcap : capacity (coreOf s c) .spad < (heldBanks (coreOf s c) .spad).length)
    (hh : ∃ n h, (n, h) ∈ (coreOf s c).handles ∧ h.owner = (coreOf s c).wp ∧ h.level = .spad ∧ h.banks ≠ [])
    (hpin : ∀ x ∈ s.waypoints, x.aff ≠ 2) (hx : ∀ x ∈ s.cmds, x.wp ≠ (coreOf s c).wp) (hst : w.startHandles = [])
    (hend : (launchOf s (coreOf s c).wp.launch).ending = .running) (hlim : w.rcount < (launchOf s (coreOf s c).wp.launch).rlimit) :
    Gives .overCapacity s fun t => (coreOf t c).mode = .idle ∧
      ∃ x, findWp t (coreOf s c).wp = some x ∧ x.state = .ready ∧ x.resume = w.start.1 ∧ x.rcount = w.rcount + 1 := by
  have hkey : w.key = (coreOf s c).wp := by simpa using List.find?_some hfound
  have hdue := evacuationDue_unpinned hpin c
  have hshort := banksShort_over hcap hh
  obtain ⟨b, hb⟩ := withdraw_frame s (coreOf s c).wp
  have hdrop := dropWork_idle (s := { s with barriers := b }) (c := c) (w := w) (by rwa [hkey])
  obtain ⟨u, hu, hwps, hlaunches⟩ : ∃ u, exec .overCapacity s = .next (restart u c w) ∧ u.waypoints = s.waypoints ∧
      u.launches = s.launches := by
    refine ⟨modCore (dropWork { s with barriers := b } c w) c fun k => { k with mode := .relaunching false }, ?_, ?_, ?_⟩
    · have hnow := relaunchNow_restarts (s := modCore (dropWork { s with barriers := b } c w) c fun k => { k with mode := .relaunching false })
        (c := c) (w := w) (by rw [hdrop, hkey]; exact hx)
      rw [← hnow]
      show execOverCapacity s = _
      have hlim' : ¬w.rcount ≥ (launchOf s (coreOf s c).wp.launch).rlimit := by omega
      simp only [execOverCapacity, hc, hfound, hrun, hshort, hdue, hreg, hb, hlim', Option.isSome_none, Bool.and_false, Bool.false_and,
        decide_false, Bool.or_false, Bool.false_eq_true, if_false]
    · rw [hdrop]
      rfl
    · rw [hdrop]
      rfl
  rw [← hkey] at hfound hend ⊢
  have hready := restart_readies (s := u) (c := c) (w := w) (by rw [findWp, hwps]; exact hfound) hst
    (by rw [launchOf, findLaunch, hlaunches]; exact hend)
  exact ⟨_, hu, hready⟩

end

/-! ## Self-test (R154, R155) -/

/-- R155. The self-test of an idle cluster that finds nothing. -/
theorem selftestDone_passes {s : State} {cl : Nat} (htest : (disp s s.arg.die).underTest = some cl) (hf : s.arg.failed = 0#8)
    (hb : s.arg.banks = []) (hr : s.arg.regs = [])
    (hidle : ∀ i, i < 6 → (coreOf s (48 * s.arg.die + 6 * cl + i)).mode = .idle ∧ (coreOf s (48 * s.arg.die + 6 * cl + i)).handles = [])
    (hx : ∀ x ∈ s.cmds, engineOf x.core ≠ s.arg.die * 8 + cl) : Gives .selftestDone s fun t => (disp t s.arg.die).underTest = none ∧
      ∃ e ∈ t.mgmt.log, e.cls = 6 ∧ e.unit = cl ∧ e.code = 0x601 := by
  have hdrained : clusterDrained s s.arg.die cl = true := by
    refine List.all_eq_true.mpr fun c hc => ?_
    obtain ⟨i, hi, rfl⟩ := List.mem_map.mp hc
    obtain ⟨hm, hh⟩ := hidle i (List.mem_range.mp hi)
    have hnone : (s.cmds.any fun x => engineOf x.core = s.arg.die * 8 + cl) = false :=
      List.any_eq_false.mpr fun x hm => by simpa using hx x hm
    rw [hm, hh, hnone]
    rfl
  have hexec : exec .selftestDone s = .next (modDisp (logEvent s 6 s.arg.die cl 0x601 0 0 0) s.arg.die fun x => { x with underTest := none }) := by
    show execSelftestDone s = _
    simp [execSelftestDone, htest, hdrained, testFindings, findingsIn, hf, hb, hr, bitsSet]
  refine ⟨_, hexec, ?_, _, List.mem_append_right _ (List.mem_singleton.mpr rfl), rfl, rfl, rfl⟩
  exact congrArg Dispatcher.underTest (Map.get_set_same ..)

end Sys2Proof.Machine

namespace Sys2Proof.Machine

/-! ## Where events complete -/

theorem underway_iff {s : State} : underway s = true ↔ s.mgmt.devState = 3 ∧ s.mgmt.leaving = none := by simp [underway]

/-- Settles O60: each event by the lemma that says where it completes. -/
theorem eventsComplete : Obligations.EventsComplete := by
  unfold Obligations.EventsComplete
  intro s a up unheld serves whole runs waits single
  refine ⟨?_, ?_, ?_, ?_, ?_, ?_, ?_, ?_, ?_, ?_⟩
  · intro i n p hi hn q at_ hup hu hroom hen hp hne hbefore hmem
    subst hn
    refine recordAccept_pending (underway_iff.mpr hup) hu hroom (nextQueue_first hi ?_ fun j hj => Queue.waits_false (hbefore j hj)) rfl fun hd => ?_
    · show (q.en && _) = true
      rw [hen, hp]
      simpa using hne
    · rw [Queue.baseAddr, Queue.cidxAddr, field_zero, field_zero]
      exact hmem hd
  · intro l pre post hs hup hpre hg hh hr
    have hup := underway_iff.mpr hup
    refine ⟨fun d hst hd hin hserves hlow => ?_, fun x ps qs hl hps hx hring hpost hfree hapart hrec hfew hleft => ?_⟩
    · obtain ⟨w, hw, hkey, hstate, hres, -, -, -, hhold, -⟩ := rootWaypoint_adds s l d
      exact ⟨_, streamGrant_rootsFirst hs hup hpre hg hh hr hst (lowestDie hd hin hserves hlow), w, hw, hkey, hstate, hres, hhold⟩
    · exact streamGrant_grantsFirst hs hup hpre hr hl hps hx hring hpost (grantable_meridian hring hfree hapart hrec hfew hleft)
  · intro l hl hu hg hw hx hj hc
    have hover := launchOver_ended hg hw hx hj hc
    have hheld := completionHeld_unheld hu l
    refine ⟨fun hs => ⟨_, launchComplete_completes hl hover hheld hs, fun x => ?_, msix_completeLaunch⟩,
      fun r hs _ hall hidle => launchComplete_returns hl hover hheld hs hall hidle⟩
    rw [launches_completeLaunch, List.mem_filter, decide_eq_true_eq]
  · intro w l hd hidle hk hw hold honly
    obtain ⟨t, ht, ⟨hm, hwp, hpc⟩, hx⟩ := waypointPickup_only hd hidle hk hw hold honly
    exact ⟨t, ht, hm, hwp, hpc, hx⟩
  · intro g member l x d c0 hl hlevel hstep hext hids hwaits hapart hcov hd hlo hhi hfree
    exact stepGroupPlace_runs ⟨hd, hlo, hhi, hfree⟩ ⟨hl, hlevel, hstep, hext, hids, hwaits, hapart, hcov⟩ rfl
  · exact fun w l v x hwp hw hp hu hlong hbusy hcores hd hrun hk hx hpicked hprio =>
      priorityPreempt_urges hwp hw hp hu hlong hbusy hcores hd hrun hk hx hpicked hprio
  · exact fun w l hd he hempty hw hold honly hq hlong => dispatcherSteal_only hd he hempty hw hold honly hq hlong
  · intro w hfound haff hst at_ hcore hdrain hquiet hx halm hh
    have hdie : dieOf (anchorOf w) = w.anchorDie := by
      show (w.anchorDie * 48 + w.anchorCore) / 48 = _
      omega
    have hheld : heldByCore s w.key = none := heldByCore_none fun e he => (hquiet e he).2
    have hmust : mustEvacuate s w = true := by
      simp only [mustEvacuate, haff, hheld, hdie, hdrain, Option.isNone_none, decide_true, Bool.true_and, Bool.and_true, Bool.or_true,
        Bool.true_or]
      simpa [or_assoc] using hst
    refine evacuationComplete_evacuates hfound hmust (mayEvacuate_quiet hx (fun e he => (hquiet e he).1) ?_ _) hh
    rwa [hdie]
  · exact fun w hfound hrun hreg hcap hh hpin hx hst hend hlim =>
      overCapacity_restarts rfl hfound hrun hreg hcap hh hpin hx hst hend hlim
  · exact fun cl htest hf hb hr hidle hx => selftestDone_passes htest hf hb hr hidle hx

end Sys2Proof.Machine

namespace Sys2Proof

theorem Map.find_mapValue {α : Type} (m : Map α) (k : Nat) (f : α → α) :
    Map.find (m.map fun e => if e.1 = k then (e.1, f e.2) else e) k = (Map.find m k).map f := by
  induction m with
  | nil => rfl
  | cons e m ih =>
    obtain ⟨i, a⟩ := e
    by_cases h : i = k
    · simp [Map.find, h]
    · simpa [Map.find, h] using ih

namespace Machine

/-! ## Plans and calls (R90, R410 to R416) -/

/-- R410, R411. The operation of COLL's form f. -/
def collForm (f : Nat) (o : OpIn) (s : State) : Res State :=
  match f with
  | 0 => callOp false o s
  | 1 => opRgCollLoad o s
  | 2 => opRgCollResume o s
  | _ => opRgCollDrop o s

/-- R410. The plan that a header and its chunks' bytes hold, and whether a reserved field of it is nonzero. -/
def planIn (hd bs : List Byte) : Plan × Bool :=
  let word (bs : List Byte) (i : Nat) : Nat := ofBytes ((bs.drop (8 * i)).take 8)
  planOf (word hd 0) (word hd 1) ((List.range (field (word hd 0) 24 8 + 1)).map fun i => (word bs (2 * i), word bs (2 * i + 1)))

section
variable {s : State} {o : OpIn} {x ctl r : Word}

theorem opRgColl_form {f : Nat} (hctl : scOp s o 12 = .ok ctl) (hf : ctl.toNat / 2 ^ 12 % 4 = f) : opRgColl o s = collForm f o s := by
  have hf : field ctl.toNat 12 2 = f := hf
  simp only [opRgColl, rgCtl, hctl, hf]
  rcases f with _ | _ | _ | f <;> rfl

variable (hx : scVal o = .ok x) (hg : gating (coreOf s o.c) = false)
include hx hg

theorem opRgCollDrop_eq : opRgCollDrop o s =
    if slotBusy (planSlot s o.c (x.toNat % 8)) then .ok (variableResult s o 9#64)
    else .ok (variableResult (modCore s o.c fun k => { k with plans := Map.erase k.plans (x.toNat % 8) }) o 0#64) := by
  simp only [opRgCollDrop, hx, closing_shut hg]
  exact apply_ite ..

section
variable {p : Target} (hr : scOp s o 0 = .ok r) (hf : (fenceIds s o.c 2).isEmpty = true) (hp : checkRef s o.c r 16 1 [0] = .ok p)
include hr hf hp

theorem opRgCollLoad_poisoned {a : Nat} (h : readVaRange s { core := o.c } (coreLaunch s o.c) (refVa r) 16 = .poison a) :
    opRgCollLoad o s = .ok (variableResult s o 2#64) := by
  simp only [opRgCollLoad, hr, hx, closing_shut hg, pathClear_open hf, hp, h]

/-- R410. LOAD of a plan that is read: the statuses in their order. -/
theorem opRgCollLoad_read {hd bs : List Byte}
    (hhd : readVaRange s { core := o.c } (coreLaunch s o.c) (refVa r) 16 = .data hd)
    (hbs : readVaRange s { core := o.c } (coreLaunch s o.c) (refVa r + 16)
      (16 * (field (ofBytes ((hd.drop (8 * 0)).take 8)) 24 8 + 1)) = .data bs) :
    opRgCollLoad o s =
      if planForeign s (coreLaunch s o.c) (planIn hd bs).1 then .ok (variableResult s o 3#64)
      else if planBad (coreLaunch s o.c) (planIn hd bs).1 (planIn hd bs).2 then .ok (variableResult s o 8#64)
      else if slotBusy (planSlot s o.c (x.toNat % 8)) then .ok (variableResult s o 9#64)
      else .ok (variableResult (modCore s o.c fun k =>
        { k with plans := Map.set k.plans (x.toNat % 8)
                   { launch := (coreLaunch s o.c).id, plan := (planIn hd bs).1, nextSeq := 0#16, call := none } }) o 0#64) := by
  simp only [opRgCollLoad, hr, hx, closing_shut hg, pathClear_open hf, hp, hhd, hbs]
  rfl

end

section
variable {src dst scr n : Word} {resume : Bool} (h0 : scOp s o 0 = .ok src) (h1 : scOp s o 1 = .ok dst) (h2 : scOp s o 2 = .ok scr)
  (h3 : scOp s o 3 = .ok n) (hf : (fenceIds s o.c 5).isEmpty = true)

/-- R411, R415. The call that CALL or RESUME starts in a slot. -/
def startedCall (s : State) (x : PlanSlot) (resume : Bool) (src dst scr : Word) (n : Nat) : Call :=
  { id := s.nextCmd, seq := if resume then x.nextSeq else x.nextSeq + 1, running := true, resume := resume, src := src, dst := dst,
    scr := scr, count := n, done := if resume then x.call.elim [] fun q => q.done else [] }

/-- R411. A slot's next call, detached. -/
def withCall (s : State) (c p : Nat) (q : Call) : State :=
  modSlot { s with nextCmd := s.nextCmd + 1 } c p fun x => { x with nextSeq := q.seq, call := some q }

include h0 h1 h2 h3 hf

theorem callOp_empty (h : planSlot s o.c (x.toNat % 8) = none) :
    callOp resume o s = .ok (variableResult s o (BitVec.ofNat 64 (8 * 2 ^ 16 + (0#16).toNat))) := by
  simp only [callOp, callOperands, h0, h1, h2, h3, hx, closing_shut hg, pathClear_open hf, h]

variable {sl : PlanSlot} (h : planSlot s o.c (x.toNat % 8) = some sl)
include h

theorem callOp_running (hr : slotBusy (some sl) = true) :
    callOp resume o s = .ok (variableResult s o (BitVec.ofNat 64 (9 * 2 ^ 16 + sl.nextSeq.toNat))) := by
  simp only [callOp, callOperands, h0, h1, h2, h3, hx, closing_shut hg, pathClear_open hf, h, hr, if_true]

variable (hr : slotBusy (some sl) = false)
include hr

theorem callOp_refused (hres : resume = true) (hno : ¬∃ q, sl.call = some q ∧ q.status ≠ 0) :
    callOp resume o s = .ok (variableResult s o (BitVec.ofNat 64 (10 * 2 ^ 16 + sl.nextSeq.toNat))) := by
  have hno : (sl.call.elim false fun q => decide (q.status ≠ 0)) = false := by
    cases hq : sl.call with
    | none => rfl
    | some q => simpa [hq] using hno
  simp only [callOp, callOperands, h0, h1, h2, h3, hx, closing_shut hg, pathClear_open hf, h, hr, hres, hno, Bool.not_false,
    Bool.and_self, if_true, Bool.false_eq_true, if_false]

theorem callOp_starts (hagain : resume = true → ∃ q, sl.call = some q ∧ q.status ≠ 0)
    (hbuf : checkBuffers s o.c sl.plan src dst scr = .ok ()) :
    callOp resume o s =
      let q := startedCall s sl resume src dst scr (n.toNat % 2 ^ 40)
      .ok (variableResult (withCall s o.c (x.toNat % 8) q) o (q.seq.setWidth 64)) := by
  have hseq (q : BitVec 16) : q.setWidth 64 = BitVec.ofNat 64 (0 * 2 ^ 16 + q.toNat) := by
    rw [Nat.zero_mul, Nat.zero_add, BitVec.ofNat_toNat]
  have hgo : (resume && !(sl.call.elim false fun q => decide (q.status ≠ 0))) = false := by
    cases resume with
    | false => rfl
    | true =>
      obtain ⟨q, hq, hst⟩ := hagain rfl
      simp [hq, hst]
  simp only [callOp, callOperands, h0, h1, h2, h3, hx, closing_shut hg, pathClear_open hf, h, hr, hgo, hbuf, Bool.false_eq_true, if_false,
    hseq]
  rfl

end

omit hg
variable {sl : PlanSlot} {q : Call}

theorem opRgCwait_idle (h : (planSlot s o.c (x.toNat % 8)).bind PlanSlot.call = none) : opRgCwait o s = .ok (variableResult s o 0#64) := by
  cases hs : planSlot s o.c (x.toNat % 8) with
  | none => simp only [opRgCwait, hx, hs]
  | some sl =>
    rw [hs, Option.bind_some] at h
    simp only [opRgCwait, hx, hs, h]

variable (hs : planSlot s o.c (x.toNat % 8) = some sl) (hq : sl.call = some q)
include hs hq

theorem opRgCwait_running (hr : q.running = true) : opRgCwait o s = block := by simp only [opRgCwait, hx, hs, hq, hr, if_true]

theorem opRgCwait_aborted (hr : q.running = false) (hst : q.status = 8) (ht : q.trapTaken = false) :
    opRgCwait o s = .error (.trap { code := 0x0041#16, info := q.seq.setWidth 64, slot := some (x.toNat % 8) }) := by
  simp only [opRgCwait, hx, hs, hq, hr, hst, ht, Bool.not_false, decide_true, Bool.and_self, if_true, Bool.false_eq_true, if_false]
  rfl

theorem opRgCwait_ended (hr : q.running = false) (hst : q.status = 8 → q.trapTaken = true) :
    opRgCwait o s = .ok (variableResult s o (BitVec.ofNat 64 (q.seq.toNat * 2 ^ 32 + progressOf sl.plan q * 2 ^ 16 + q.status))) := by
  have hno : (decide (q.status = 8) && !q.trapTaken) = false := by
    by_cases h8 : q.status = 8
    · simp [hst h8]
    · simp [h8]
  simp only [opRgCwait, hx, hs, hq, hr, hno, Bool.false_eq_true, if_false]

end

/-! ### A call that has started -/

section
variable {s : State}

theorem coreOf_variableResult (s : State) (o : OpIn) (w : Word) :
    coreOf (variableResult s o w) o.c = issueResult (coreOf s o.c) (resultKey o.page) (.sc w) 0 false o.page := coreOf_modCore_same ..

/-- A result changes no plan, nor the waypoint. -/
theorem plans_issueResult_sc (k : Core) (key : Nat) (w : Word) (dist : Nat) (fixed : Bool) (page : Nat) :
    (issueResult k key (.sc w) dist fixed page).plans = k.plans ∧ (issueResult k key (.sc w) dist fixed page).wp = k.wp := by
  have hput : (putValue k key (.sc w)).plans = k.plans ∧ (putValue k key (.sc w)).wp = k.wp := by
    unfold putValue
    split
    · exact ⟨rfl, rfl⟩
    · dsimp only
      split <;> exact ⟨rfl, rfl⟩
  unfold issueResult
  split
  · exact ⟨rfl, rfl⟩
  · exact hput

theorem planSlot_eq_some {c p : Nat} {x : PlanSlot} :
    planSlot s c p = some x ↔ Map.find (coreOf s c).plans p = some x ∧ x.launch = (coreOf s c).wp.launch := by
  simp only [planSlot, Option.bind_eq_some_iff, Option.ite_none_right_eq_some, Option.some.injEq]
  constructor
  · rintro ⟨y, hy, hl, rfl⟩
    exact ⟨hy, hl⟩
  · exact fun ⟨hx, hl⟩ => ⟨x, hx, hl, rfl⟩

/-- A core whose slot p has the call q. -/
def Core.calling (k : Core) (p : Nat) (q : Call) : Core :=
  { k with plans := k.plans.map fun e => if e.1 = p then (e.1, { e.2 with nextSeq := q.seq, call := some q }) else e }

/-- R411. What a call that starts leaves, with its number in b.rg: its slot, no other register, no other core. -/
theorem withCall_leaves {m : MoveF} {v : PVal} {k : Core} {p : Nat} {x : PlanSlot} (h : planSlot (fed s k) s.cur p = some x) (q : Call) (w : Word) :
    let u := variableResult (withCall (fed s k) s.cur p q) (issued s 0xC1C#12 m v) w
    OnlyCore s.cur { s with nextCmd := s.nextCmd + 1 } u ∧ planSlot u s.cur p = some { x with nextSeq := q.seq, call := some q } ∧
      RegsKept [resultKey 12] k (coreOf u s.cur) ∧ valueAt (coreOf u s.cur) (resultKey 12) = .sc w := by
  intro u
  obtain ⟨hx, hl⟩ := planSlot_eq_some.mp h
  rw [coreOf_fed] at hx hl
  have hk : coreOf (withCall (fed s k) s.cur p q) s.cur = k.calling p q :=
    (coreOf_modCore_same ..).trans (congrArg (Core.calling · p q) (coreOf_fed s k))
  have hpage : (issued s 0xC1C#12 m v).page = 12 := by simp [OpIn.page]
  have hu : coreOf u s.cur = issueResult (k.calling p q) (resultKey 12) (.sc w) 0 false 12 :=
    (coreOf_variableResult ..).trans (by rw [issued_c, hk, hpage])
  obtain ⟨hplans, hwp⟩ := plans_issueResult_sc (k.calling p q) (resultKey 12) w 0 false 12
  refine ⟨?_, planSlot_eq_some.mpr ?_, fun key hkey => ?_, ?_⟩
  · exact ⟨rfl, fun c hc => (coreOf_modCore_other _ _ (Ne.symm hc)).trans ((coreOf_modCore_other _ _ (Ne.symm hc)).trans
      (coreOf_setCore_other s k (Ne.symm hc)))⟩
  · rw [hu, hplans, hwp]
    exact ⟨(Map.find_mapValue _ _ fun y : PlanSlot => { y with nextSeq := q.seq, call := some q }).trans (congrArg _ hx), hl⟩
  · rw [hu, valueAt_issueResult_other _ _ _ _ _ (Ne.symm (List.ne_of_not_mem_cons hkey))]
    rfl
  · rw [hu, valueAt_issueResult _ _ _ _ _ (by decide)]
    exact valueAt_putValue_sc _ w (by decide) (.inr (by decide))

end

/-! ### The operations of RG on plans -/

section
variable {s : State} {m : MoveF} {v : PVal} {k : Core} {x ctl : Word} {i : Instr}

/-- R387, R410. An instruction does as a form of COLL where it is that form, or COLL with the form in o12. -/
theorem exec_collForm {f : Nat} {j : Instr} {u : State} (hfeed : Feeds s 0xC1C#12 m v k)
    (hi : i = j ∨ i = .rgColl m ∧ scOp (fed s k) (issued s 0xC1C#12 m v) 12 = .ok ctl ∧ ctl.toNat / 2 ^ 12 % 4 = f)
    (hj : exec j s = runTrigger (collForm f) 0xC1C#12 m s)
    (ho : collForm f (issued s 0xC1C#12 m v) (fed s k) = .ok u) : exec i s = .next (spent s.cur m u) := by
  rcases hi with rfl | ⟨rfl, hctl, hf⟩
  · exact hj.trans (runTrigger_ok hfeed ho)
  · exact runTrigger_ok hfeed ((opRgColl_form hctl hf).trans ho)

end

/-- Settles O33. Each form is one operation of COLL (`exec_collForm`), whose answers are its lemmas in the order of its checks; what a call
that starts leaves is `withCall_leaves`. -/
theorem collectiveOperations : Obligations.CollectiveOperations := by
  unfold Obligations.CollectiveOperations
  refine ⟨fun m s v k x r ctl i p => ?_, fun m s v k x src dst scr n ctl i resume => ⟨?_, ?_⟩⟩
  · dsimp only
    intro hfeed hx hg
    have hg : gating (coreOf (fed s k) (issued s 0xC1C#12 m v).c) = false := by simpa using hg
    refine ⟨fun hi => ?_, fun hi hr hf hp => ⟨fun a h => ?_, fun hd bs hhd hbs => ?_⟩⟩
    · have hdrop := opRgCollDrop_eq hx hg
      exact ⟨fun hb => exec_collForm hfeed hi rfl (hdrop.trans (if_pos hb)), fun hb => exec_collForm hfeed hi rfl (hdrop.trans (if_neg hb))⟩
    · exact exec_collForm hfeed hi rfl (opRgCollLoad_poisoned hx hg hr hf hp h)
    · have hread := opRgCollLoad_read hx hg hr hf hp hhd hbs
      refine ⟨fun h3 => ?_, fun h3 h8 => ?_, fun h3 h8 h9 => ?_, fun h3 h8 h9 => ?_⟩
      all_goals refine exec_collForm hfeed hi rfl (hread.trans ?_)
      · exact if_pos h3
      · exact (if_neg h3).trans (if_pos h8)
      · exact (if_neg h3).trans ((if_neg h8).trans (if_pos h9))
      · exact (if_neg h3).trans ((if_neg h8).trans (if_neg h9))
  · dsimp only
    intro hfeed hx h0 h1 h2 h3 hg hf hi
    have hg : gating (coreOf (fed s k) (issued s 0xC1C#12 m v).c) = false := by simpa using hg
    have hgo {u : State} (ho : callOp resume (issued s 0xC1C#12 m v) (fed s k) = .ok u) : exec i s = .next (spent s.cur m u) := by
      rcases hi with ⟨rfl, rfl⟩ | ⟨rfl, hctl, hform⟩
      · exact runTrigger_ok hfeed ho
      · refine runTrigger_ok hfeed ((opRgColl_form hctl hform).trans ?_)
        cases resume
        · exact ho
        · exact ho
    refine ⟨fun h => hgo (callOp_empty hx hg h0 h1 h2 h3 hf h), fun sl h => ⟨fun hr => ?_, fun hr hres hno => ?_, fun hr hagain hbuf => ?_⟩⟩
    · exact hgo (callOp_running hx hg h0 h1 h2 h3 hf h hr)
    · exact hgo (callOp_refused hx hg h0 h1 h2 h3 hf h (Bool.eq_false_of_not_eq_true hr) hres hno)
    · have hr := Bool.eq_false_of_not_eq_true hr
      obtain ⟨honly, hslot, hregs, hval⟩ := withCall_leaves h (startedCall (fed s k) sl resume src dst scr (n.toNat % 2 ^ 40))
        ((startedCall (fed s k) sl resume src dst scr (n.toNat % 2 ^ 40)).seq.setWidth 64)
      exact ⟨_, _, hgo (callOp_starts hx hg h0 h1 h2 h3 hf h hr hagain hbuf), honly, hslot, rfl, rfl, rfl, rfl, rfl, rfl, rfl, rfl, rfl, rfl, rfl,
        rfl, hregs, hval⟩
  · dsimp only
    intro hfeed hx
    have hnone (h : (planSlot (fed s k) s.cur (x.toNat % 8)).bind PlanSlot.call = none) :=
      runTrigger_ok hfeed (opRgCwait_idle hx h)
    refine ⟨fun h => hnone (by rw [h]; rfl), fun sl h => ⟨fun hq => hnone (by rw [h]; exact hq), fun q hq => ⟨fun hr => ?_, fun hr hst ht => ?_,
      fun hr hst => ?_⟩⟩⟩
    · exact runTrigger_block hfeed (opRgCwait_running hx h hq hr)
    · exact runTrigger_trap hfeed (opRgCwait_aborted hx h hq hr hst ht)
    · exact runTrigger_ok hfeed (opRgCwait_ended hx h hq hr hst)

end Machine
end Sys2Proof

namespace Sys2Proof.Machine

/-! ## Messages that have left

What the package has sent stays sent: no work of the engines, no abort and no token takes a message back. `sent_f` says so of f. -/

/-- A message has left the package. -/
def State.Sent (s : State) (m : OutMsg) : Prop := m ∈ s.out

section
variable {m : OutMsg}

theorem sent_emit_same (s : State) (m : OutMsg) : (emit s m).Sent m := List.mem_append_right _ (List.mem_singleton.mpr rfl)

@[simp] theorem sent_fold (s : State) : m ∈ s.out ↔ s.Sent m := Iff.rfl

@[simp] theorem sent_mk (agenda : List Agendum) (arg : Arg) (cur : Nat) (out : List OutMsg) (chron : Nat) (skew : Map Int)
    (chronFloor : Map Nat) (clocks : Map Nat) (mgmt : Mgmt) (eq : Equator) (queues : Map Queue) (rrQueue : Nat) (nextLaunch : Nat)
    (launches : List Launch) (waypoints : List Waypoint) (disps : Map Dispatcher) (barriers : List (GroupKey × Barrier))
    (regions : Map StepRegion) (cores : Map Core) (engines : Map Engine) (cmds : List Cmd) (nextCmd : Nat) (ring : Nat)
    (slots : Map Slot) (reclaiming : List StreamReq) (owners : Map Owner) (stations : Map Station) (waiting : List Waiting)
    (inbox : List (Nat × Packet)) (tokens : List Token) (homes : Map Home) (joinDecs : List JoinDec) (mem : List Host.Cell)
    (poisoned : List Nat) (hostMem : List Host.Cell) (cxlReqs : List CxlReq) :
    (State.mk agenda arg cur out chron skew chronFloor clocks mgmt eq queues rrQueue nextLaunch launches waypoints disps barriers
      regions cores engines cmds nextCmd ring slots reclaiming owners stations waiting inbox tokens homes joinDecs mem poisoned
      hostMem cxlReqs).Sent m ↔ m ∈ out := Iff.rfl

@[simp] theorem sent_ite (c : Prop) [Decidable c] (s t : State) :
    (if c then s else t).Sent m ↔ if c then s.Sent m else t.Sent m := by
  split <;> exact Iff.rfl

theorem sent_foldl {α : Type} {f : State → α → State} (hf : ∀ s x, s.Sent m → (f s x).Sent m) (l : List α) {s : State} (hs : s.Sent m) :
    (l.foldl f s).Sent m :=
  List.foldlRecOn (motive := fun s => s.Sent m) l f hs fun s hs x _ => hf s x hs

variable (s : State)

/-! ### Named places -/

@[simp] theorem sent_modCore (c : Nat) (f : Core → Core) : (modCore s c f).Sent m ↔ s.Sent m := Iff.rfl

@[simp] theorem sent_modEngine (e : Nat) (f : Engine → Engine) : (modEngine s e f).Sent m ↔ s.Sent m := Iff.rfl

@[simp] theorem sent_modHome (d : Nat) (f : Home → Home) : (modHome s d f).Sent m ↔ s.Sent m := Iff.rfl

@[simp] theorem sent_modLaunch (l : Nat) (f : Launch → Launch) : (modLaunch s l f).Sent m ↔ s.Sent m := Iff.rfl

@[simp] theorem sent_modEq (f : Equator → Equator) : (modEq s f).Sent m ↔ s.Sent m := Iff.rfl

@[simp] theorem sent_modCmd (id : Nat) (f : Cmd → Cmd) : (modCmd s id f).Sent m ↔ s.Sent m := Iff.rfl

@[simp] theorem sent_addStatus (id st : Nat) : (addStatus s id st).Sent m ↔ s.Sent m := Iff.rfl

@[simp] theorem sent_putDram (a : Nat) (bs : List Byte) : (putDram s a bs).Sent m ↔ s.Sent m := Iff.rfl

@[simp] theorem sent_enqueue (i : Instr) (arg : Arg) : (enqueue s i arg).Sent m ↔ s.Sent m := Iff.rfl

@[simp] theorem sent_poisonRange (a n : Nat) : (poisonRange s a n).Sent m ↔ s.Sent m := by
  unfold poisonRange
  split <;> exact Iff.rfl

@[simp] theorem sent_dropReq (e : Nat) (seq : BitVec 32) : (dropReq s e seq).Sent m ↔ s.Sent m := Iff.rfl

@[simp] theorem sent_cacheRegions (e : Nat) (l : Launch) : (cacheRegions s e l).Sent m ↔ s.Sent m := Iff.rfl

@[simp] theorem sent_contribute (l region rank : Nat) (elems : List (Nat × Nat)) :
    (contribute s l region rank elems).Sent m ↔ s.Sent m := Iff.rfl

@[simp] theorem sent_cacheLeaf (e : Nat) (l : Launch) (va : Nat) (t : Translated) : (cacheLeaf s e l va t).Sent m ↔ s.Sent m := by
  unfold cacheLeaf
  dsimp only
  split <;> simp

@[simp] theorem sent_sendPacket (src dst : Nat) (p : Packet) (late : Option (Nat × Piece)) :
    (sendPacket s src dst p late).Sent m ↔ s.Sent m := by
  unfold sendPacket
  split <;> exact Iff.rfl

@[simp] theorem sent_request (e cmd : Nat) (p : Packet) (piece : Option Piece) (late : Option (Nat × Piece)) :
    (request s e cmd p piece late).Sent m ↔ s.Sent m := by simp [request]

@[simp] theorem sent_dropCmd (id : Nat) : (dropCmd s id).Sent m ↔ s.Sent m := by
  unfold dropCmd
  split <;> simp

@[simp] theorem sent_notifyWaiter (d : Nat) (w : Waiter) : (notifyWaiter s d w).Sent m ↔ s.Sent m := by simp [notifyWaiter]

variable {s} (hs : s.Sent m)
include hs

@[simp] theorem sent_emit (x : OutMsg) : (emit s x).Sent m := List.mem_append_left _ hs

@[simp] theorem sent_emitLink (x : OutMsg) : (emitLink s x).Sent m := by
  unfold emitLink
  split
  · exact hs
  · exact sent_emit hs x

@[simp] theorem sent_logEvent (cls die unit code addr launch detail : Nat) : (logEvent s cls die unit code addr launch detail).Sent m :=
  List.mem_append_left _ hs

/-! ### The engine: requests, copies and commands -/

@[simp] theorem sent_afterStore (a n : Nat) : (afterStore s a n).Sent m :=
  sent_foldl (f := fun s (q : Nat × Nat) => enqueue s .pidxNotify { index := q.2 }) (fun _ _ h => h) _
    (sent_foldl (f := fun s w => notifyWaiter s (dpaDie a) w) (fun s _ h => (sent_notifyWaiter s ..).mpr h) _ hs)

@[simp] theorem sent_storeDram (a : Nat) (bs : List Byte) : (storeDram s a bs).Sent m := by simp [storeDram, hs]

@[simp] theorem sent_storeDramNat (a v n : Nat) : (storeDramNat s a v n).Sent m := by simp [storeDramNat, hs]

@[simp] theorem sent_sendSnoop (line : Nat) : (sendSnoop s line).Sent m := by simp [sendSnoop, hs]

@[simp] theorem sent_addHot (a x : Nat) : (addHot s a x).Sent m := by simp [addHot, hs]

@[simp] theorem sent_flushHot (e launch : Nat) : (flushHot s e launch).Sent m := by
  refine sent_foldl (fun s h hs => ?_) _ (by simpa using hs)
  split
  · split
    · exact sent_foldl (fun s a hs => by simp [hs]) _ hs
    · exact hs
  · exact hs

@[simp] theorem sent_countHot (e launch buf bytes ticks : Nat) : (countHot s e launch buf bytes ticks).Sent m := by
  unfold countHot
  split <;> simp [hs]

@[simp] theorem sent_cacheRange (e : Nat) (l : Launch) (va n kind : Nat) : (cacheRange s e l va n kind).Sent m :=
  sent_foldl (fun s v hs => by split <;> simp [hs]) _ hs

@[simp] theorem sent_cacheRef (cmd : Cmd) (r : Word) (n kind : Nat) : (cacheRef s cmd r n kind).Sent m := by simp [cacheRef, hs]

@[simp] theorem sent_settleLine (id c h line : Nat) (st : LineState) : (settleLine s id c h line st).Sent m := by
  unfold settleLine
  split <;> simp [hs]

@[simp] theorem sent_poisonUnfilled (cmd : Cmd) : (poisonUnfilled s cmd).Sent m :=
  sent_foldl (fun s u hs => by simp [hs]) _ hs

@[simp] theorem sent_logEntryError (e : Nat) (l : Launch) (code : BitVec 16) (va : Nat) : (logEntryError s e l code va).Sent m := by
  unfold logEntryError
  split
  · split <;> simp [hs]
  · exact hs

@[simp] theorem sent_failCmd (id : Nat) (f : BitVec 16 × Word) : (failCmd s id f).Sent m := by
  unfold failCmd
  split <;> simp [hs]

@[simp] theorem sent_accHandle (c h off : Nat) (ws : List (Option Int)) : (accHandle s c h off ws).Sent m := by
  unfold accHandle
  split
  · exact hs
  · exact sent_foldl (fun s wi hs => by split <;> exact hs) _ hs

@[simp] theorem sent_hostRequest (e cmd : Nat) (pkt : Packet) (piece : Option Piece) (kind : CxlKind) (h : Nat) (value : BitVec 1024) :
    (hostRequest s e cmd pkt piece kind h value).Sent m := by simp [hostRequest, hs]

@[simp] theorem sent_hostStore (e cmd : Nat) (piece : Option Piece) (h : Nat) (bs : List Byte) : (hostStore s e cmd piece h bs).Sent m := by
  simp [hostStore, hs]

@[simp] theorem sent_takeRemote (cmd : Cmd) (x : RemoteLine) : (takeRemote s cmd x).Sent m := by
  unfold takeRemote
  split <;> simp [hs]

@[simp] theorem sent_deliverWhole (cmd : Cmd) (p : Piece) (got : Fetched) : (deliverWhole s cmd p got).Sent m := by
  have hpoison {s : State} (l : List Nat) (hs : s.Sent m) : (l.foldl (fun s a => poisonRange s (atHome s a) p.len) s).Sent m :=
    sent_foldl (fun s a hs => (sent_poisonRange s ..).mpr hs) l hs
  unfold deliverWhole
  dsimp only
  repeat' split
  all_goals simp [hs, hpoison]

@[simp] theorem sent_deliver (cmd : Cmd) (p : Piece) (got : Fetched) : (deliver s cmd p got).Sent m := by
  unfold deliver
  dsimp only
  repeat' split
  all_goals simp [hs]

@[simp] theorem sent_countPiece (cmd : Cmd) (p : Piece) : (countPiece s cmd p).Sent m := by
  unfold countPiece
  dsimp only
  repeat' split
  all_goals simp [hs]

theorem sent_sendPiece {t : State} {cmd : Cmd} {p : Piece} (h : sendPiece s cmd p = some t) : t.Sent m := by
  unfold sendPiece at h
  grind [sent_request, sent_hostRequest, sent_failCmd, sent_deliver]

@[simp] theorem sent_beginPieces (id lim : Nat) (ps : List Piece) : (beginPieces s id lim ps).Sent m := by
  induction ps generalizing s lim with
  | nil => cases lim <;> simpa [beginPieces] using hs
  | cons p rest ih =>
    cases lim with
    | zero => simpa [beginPieces] using hs
    | succ n =>
      unfold beginPieces
      split
      · exact hs
      · split
        · next h => exact ih (sent_sendPiece (sent_countPiece hs ..) h) n
        · exact ih (by simpa using hs) n

@[simp] theorem sent_advancePieces (id lim : Nat) : (advancePieces s id lim).Sent m := by
  unfold advancePieces
  split <;> simp [hs]

@[simp] theorem sent_prefMiss (id : Nat) (ps : List Piece) : (prefMiss s id ps).Sent m := by
  unfold prefMiss
  split
  · exact hs
  · exact sent_foldl (fun s u hs => by simp [hs]) _ (by simpa using hs)

@[simp] theorem sent_startCopy (cmd : Cmd) : (startCopy s cmd).Sent m := by
  unfold startCopy
  dsimp only
  repeat' split
  all_goals simp [hs]

@[simp] theorem sent_startWord (cmd : Cmd) (kind access : Nat) : (startWord s cmd kind access).Sent m := by
  unfold startWord
  dsimp only
  repeat' split
  all_goals simp [hs]

@[simp] theorem sent_askNeed (q : Asker) (wp : WpKey) (n : Need) : (askNeed s q wp n).Sent m := by
  unfold askNeed
  split
  · simp [hs]
  · dsimp only
    split
    · exact hs
    · cases hp : sendPiece _ _ _ with
      | none => exact hs
      | some t => exact sent_sendPiece (by exact hs) hp

@[simp] theorem sent_readList (cmd : Cmd) : (readList s cmd).Sent m := by
  have hcount {c : Prop} [Decidable c] (e l b n : Nat) : (if c then countHot s e l b n 0 else s).Sent m := by
    split <;> simp [hs]
  unfold readList
  dsimp only
  split
  · exact hs
  · exact sent_askNeed hs ..
  · simp [hs]
  · simp [hs]
  · refine sent_advancePieces ((sent_modCmd ..).mpr ?_) ..
    split
    · exact hcount ..
    · exact sent_failCmd (hcount ..) ..

@[simp] theorem sent_startMigration (cmd : Cmd) : (startMigration s cmd).Sent m := by
  unfold startMigration sendLine
  dsimp only
  repeat' split
  all_goals simp [hs]

@[simp] theorem sent_beginCommand (cmd : Cmd) : (beginCommand s cmd).Sent m := by
  have hrows {s : State} {l : List (Nat × Nat)} {wk : Nat} (hs : s.Sent m) : (l.foldl (fun s r =>
      cacheRef (cacheRef s cmd (cmd.src + BitVec.ofNat 64 r.1) cmd.n 1) cmd (cmd.dst + BitVec.ofNat 64 r.2) cmd.n wk) s).Sent m :=
    sent_foldl (fun s r hs => by simp [hs]) _ hs
  unfold beginCommand
  dsimp only
  split
  all_goals simp [hs, hrows]

@[simp] theorem sent_beginHeld : (beginHeld s).Sent m :=
  sent_foldl (fun s c hs => by split <;> simp [hs]) _ hs

end

end Sys2Proof.Machine

namespace Sys2Proof.Machine

/-! ## The slot's header (R39, R76) -/

/-- The Equator's fields of a header are those that it was made of, each at its width. -/
theorem eqHeadOf_headerOf (x : Slot) (h : EqHead) : eqHeadOf (headerOf x h) =
    { pseq := h.pseq % 2 ^ 64, spkg := h.spkg % 64, dpkg := h.dpkg % 64, ksb := h.ksb, enc := h.enc, ekind := h.ekind % 4 } := by
  obtain ⟨pseq, spkg, dpkg, ksb, enc, ekind⟩ := h
  obtain ⟨hi, hn⟩ : ∃ hi, (headerOf x ⟨pseq, spkg, dpkg, ksb, enc, ekind⟩).toNat =
      (ekind % 4 * 2 ^ 32 + enc.toNat * 2 ^ 34 + ksb.toNat * 2 ^ 35 + dpkg % 64 * 2 ^ 36 + spkg % 64 * 2 ^ 42 + pseq % 2 ^ 64 * 2 ^ 48 +
        hi * 2 ^ 112) % 2 ^ 224 :=
    ⟨x.sand.toNat + x.valid.toNat * 2 ^ 32 + x.cls % 4 * 2 ^ 34 + x.ptype % 16 * 2 ^ 36 + x.len % 64 * 2 ^ 40 + x.ovf.toNat * 2 ^ 49 +
      x.poison.toNat * 2 ^ 50 + x.thr.toNat * 2 ^ 51 + x.mark % 16 * 2 ^ 52 + x.dst % 16 * 2 ^ 56 + x.src % 16 * 2 ^ 60 +
      x.stream % 1024 * 2 ^ 64 + x.seq.toNat * 2 ^ 80 + x.exp.toNat * 2 ^ 96, by
        rw [headerOf, BitVec.toNat_ofNat]
        refine congrArg (fun n => n % 2 ^ 224) ?_
        dsimp only
        omega⟩
  have hbool (b : Bool) : b.toNat < 2 ∧ b = decide (b.toNat = 1) := by cases b <;> decide
  obtain ⟨he, hed⟩ := hbool enc
  obtain ⟨hk, hkd⟩ := hbool ksb
  simp only [eqHeadOf, field, hn, Nat.testBit_eq_decide_div_mod_eq, EqHead.mk.injEq]
  refine ⟨by omega, by omega, by omega, ?_, ?_, by omega⟩
  · exact (decide_eq_decide.mpr (by omega)).trans hkd.symm
  · exact (decide_eq_decide.mpr (by omega)).trans hed.symm

/-! ## Calls and requests that end (R83, R92, R414) -/

/-- What an aborted request, an ended call and a token of a re-key leave of the Equator's state. -/
def Equator.lasting (e : Equator) : Equator := { e with requests := [], waitingCmds := [], send := [], linkHeld := [] }

/-- What a re-key that begins leaves of it. -/
def Equator.settled (e : Equator) : Equator := { e.lasting with rekey := none, dstate := 0, queued := [] }

theorem Equator.of_lasting {β : Sort _} {e e' : Equator} (h : e.lasting = e'.lasting) (g : Equator → β)
    (hg : ∀ e : Equator, g e.lasting = g e := by exact fun _ => rfl) : g e = g e' := by
  rw [← hg, h, hg]

theorem Equator.of_settled {β : Sort _} {e e' : Equator} (h : e.settled = e'.settled) (g : Equator → β)
    (hg : ∀ e : Equator, g e.settled = g e := by exact fun _ => rfl) : g e = g e' := by
  rw [← hg, h, hg]

theorem Equator.lasting_of_unheld {e e' : Equator} (h : e.unheld = e'.unheld) : e.lasting = e'.lasting := Equator.of_unheld h Equator.lasting

theorem Equator.settled_of_lasting {e e' : Equator} (h : e.lasting = e'.lasting) : e.settled = e'.settled := Equator.of_lasting h Equator.settled

section
variable {m : OutMsg} {s : State}

theorem unheld_endCall (s : State) (c p status : Nat) : (endCall s c p status).eq.unheld = s.eq.unheld := by
  unfold endCall
  dsimp only
  split
  · rfl
  split
  · rfl
  split
  · rfl
  refine (eq_of_outline (outline_beginHeld _)).trans ?_
  obtain ⟨ls, hls⟩ := noteSummary_frame (modCall s c p fun q => { q with running := false, status := max _ status, armed := [] }) _ _
  rw [hls]
  rfl

theorem unheld_endCalls (s : State) (st : Nat) (p : Nat → PlanSlot → Bool) : (endCalls s st p).eq.unheld = s.eq.unheld := by
  refine foldl_keeps (fun s => s.eq.unheld) (fun s x => ?_) _ s
  split
  · exact unheld_endCall ..
  · rfl

@[simp] theorem outline_failRequest (s : State) (e : Nat) (r : Req) (st : Nat) : (failRequest s e r st).outline = s.outline := by
  unfold failRequest
  dsimp only
  repeat' split
  all_goals simp

@[simp] theorem outline_failEq (s : State) (agent : Nat) (seq : BitVec 32) (st : Nat) : (failEq s agent seq st).outline = s.outline := by
  unfold failEq
  split <;> simp

/-- The requests that end are gone; no other part of the Equator's state changes but what the shut host link holds. -/
theorem unheld_failRequests (s : State) (p : EqReq → Bool) (st : Nat) :
    (failRequests s p st).eq.unheld = { s.eq with requests := s.eq.requests.filter fun q => !p q }.unheld :=
  eq_of_outline (outline_foldl (fun _ _ => outline_failEq ..) _ (modEq s fun e => { e with requests := e.requests.filter fun q => !p q }))

theorem unheld_failWaiting (s : State) (p : Packet → Bool) (st : Nat) :
    (failWaiting s p st).eq.unheld = { s.eq with waitingCmds := s.eq.waitingCmds.filter fun q => !p q }.unheld :=
  eq_of_outline (outline_foldl (fun _ _ => outline_failEq ..) _ (modEq s fun e => { e with waitingCmds := e.waitingCmds.filter fun q => !p q }))

theorem lasting_failRequests (s : State) (p : EqReq → Bool) (st : Nat) : (failRequests s p st).eq.lasting = s.eq.lasting :=
  (Equator.lasting_of_unheld (unheld_failRequests s p st)).trans rfl

theorem lasting_failWaiting (s : State) (p : Packet → Bool) (st : Nat) : (failWaiting s p st).eq.lasting = s.eq.lasting :=
  (Equator.lasting_of_unheld (unheld_failWaiting s p st)).trans rfl

variable (hs : s.Sent m)
include hs

@[simp] theorem sent_noteSummary (l st : Nat) : (noteSummary s l st).Sent m := by simp [noteSummary, hs]

@[simp] theorem sent_endCall (c p status : Nat) : (endCall s c p status).Sent m := by
  unfold endCall
  dsimp only
  split
  · exact hs
  split
  · exact hs
  split
  · exact hs
  · exact sent_beginHeld (sent_noteSummary (by exact hs) ..)

@[simp] theorem sent_endCallEarly (c p status : Nat) : (endCallEarly s c p status).Sent m := sent_endCall (by exact hs) ..

@[simp] theorem sent_endCalls (st : Nat) (p : Nat → PlanSlot → Bool) : (endCalls s st p).Sent m :=
  sent_foldl (fun s x hs => by split <;> simp [hs]) _ hs

@[simp] theorem sent_failRequest (e : Nat) (r : Req) (st : Nat) : (failRequest s e r st).Sent m := by
  unfold failRequest
  dsimp only
  repeat' split
  all_goals simp [hs]

@[simp] theorem sent_failEq (agent : Nat) (seq : BitVec 32) (st : Nat) : (failEq s agent seq st).Sent m := by
  unfold failEq
  split <;> simp [hs]

@[simp] theorem sent_failRequests (p : EqReq → Bool) (st : Nat) : (failRequests s p st).Sent m :=
  sent_foldl (fun s q hs => by simp [hs]) _ (by simpa using hs)

@[simp] theorem sent_failWaiting (p : Packet → Bool) (st : Nat) : (failWaiting s p st).Sent m :=
  sent_foldl (fun s q hs => by simp [hs]) _ (by simpa using hs)

end

/-! ## Tokens of a re-key (R77, R92) -/

/-- R77, R92. The token of a kind has left for a re-key: as it is, or sealed to the east. -/
def Tells (kind : Nat) (r : Rekeying) (t : State) : Prop :=
  .token kind (BitVec.ofNat 6 r.leader) r.epoch r.members ∈ t.out ∨
    ∃ z : SealedSlot, .eqSlot .east 0 0 z ∈ t.out ∧ (eqHeadOf z.header).enc = true ∧ (eqHeadOf z.header).ekind = 2

section
variable {m : OutMsg} {s : State} (kind : Nat) (r : Rekeying)

/-- R77. What a sealed slot carries in its header. -/
theorem sealSlot_sends (s : State) (x : Slot) (ekind p : Nat) (d : Dir) (lane pos : Nat) :
    ∃ z : SealedSlot, (sealSlot s x ekind p d lane pos).Sent (.eqSlot d lane pos z) ∧ (eqHeadOf z.header).enc = true ∧
      (eqHeadOf z.header).ekind = ekind % 4 ∧ (eqHeadOf z.header).pseq = sendCount s p d lane % 2 ^ 64 := by
  refine ⟨_, sent_emit_same _ _, ?_⟩
  rw [eqHeadOf_headerOf]
  exact ⟨rfl, rfl, rfl⟩

theorem sendToken_tells (s : State) : Tells kind r (sendToken s kind r) := by
  unfold sendToken
  dsimp only
  split
  · obtain ⟨z, hz, henc, hkind, -⟩ := sealSlot_sends s (tokenSlot kind r) 2 (nextOfMask s r.ring .east) .east 0 0
    exact .inr ⟨z, hz, henc, hkind⟩
  · exact .inl (sent_emit_same ..)

/-- A token that leaves moves a send counter and nothing else of the Equator's state. -/
theorem sendToken_eq (s : State) : ∃ c, (sendToken s kind r).eq = { s.eq with send := c } := by
  unfold sendToken
  dsimp only
  split
  · exact ⟨_, rfl⟩
  · exact ⟨s.eq.send, rfl⟩

theorem lasting_sendToken (s : State) : (sendToken s kind r).eq.lasting = s.eq.lasting := by
  obtain ⟨c, hc⟩ := sendToken_eq kind r s
  rw [hc]
  rfl

theorem sent_sendToken (hs : s.Sent m) : (sendToken s kind r).Sent m := by
  unfold sendToken sealSlot
  dsimp only
  split
  · exact sent_emit (by exact hs) _
  · exact sent_emit hs _

theorem inbox_sendToken (s : State) : (sendToken s kind r).inbox = s.inbox := by
  unfold sendToken
  dsimp only
  split <;> rfl

/-- A token that comes moves an expected counter and nothing else. -/
theorem tokenCame_eq (s : State) (ring : BitVec 64) (slot : Nat) : ∃ c, tokenCame s ring slot = { s with eq := { s.eq with expected := c } } := by
  unfold tokenCame
  dsimp only
  split
  · exact ⟨s.eq.expected, rfl⟩
  · exact ⟨_, rfl⟩

/-- R92. Pass 1 goes on, or waits for what is outstanding. -/
theorem tryForward_cases (s : State) :
    tryForward s = s ∨ ∃ r, s.eq.rekey = some r ∧ r.pass = 1 ∧ tryForward s = sendToken (setPass s r 2) 1 r := by
  unfold tryForward
  cases h : s.eq.rekey with
  | none => exact .inl rfl
  | some r =>
    dsimp only
    split
    · next hgo =>
      simp only [Bool.and_eq_true, decide_eq_true_eq] at hgo
      exact .inr ⟨r, rfl, hgo.1.1, rfl⟩
    · exact .inl rfl

theorem sent_tryForward (hs : s.Sent m) : (tryForward s).Sent m := by
  rcases tryForward_cases s with h | ⟨r, -, -, h⟩
  · rw [h]
    exact hs
  · rw [h]
    exact sent_sendToken _ _ (by exact hs)

/-- Whether pass 1 goes on or not, the rest of the Equator's state but for the re-key stays. -/
theorem settled_tryForward (s : State) : (tryForward s).eq.settled = s.eq.settled ∧ (tryForward s).eq.requests = s.eq.requests := by
  rcases tryForward_cases s with h | ⟨r, -, -, h⟩
  · rw [h]
    exact ⟨rfl, rfl⟩
  · obtain ⟨c, hc⟩ := sendToken_eq 1 r (setPass s r 2)
    rw [h, hc]
    exact ⟨rfl, rfl⟩

end

/-! ## Re-keys that begin (R91, R92) -/

section
variable {m : OutMsg} {s : State}

theorem lasting_dropForeign (s : State) (p : Packet → Bool) : (dropForeign s p).eq.lasting = s.eq.lasting := rfl

theorem lasting_endCalls (s : State) (st : Nat) (p : Nat → PlanSlot → Bool) : (endCalls s st p).eq.lasting = s.eq.lasting :=
  Equator.lasting_of_unheld (unheld_endCalls s st p)

/-- R92. A package that has taken REKEY: sealing has stopped, and what it had begun for packages that leave has ended. -/
def rekeyTaken (s : State) (r : Rekeying) : State :=
  let gone (p : Nat) : Bool := !r.members.getLsbD s.eq.pkg || !r.members.getLsbD p
  let s1 := modEq s fun e => { e with rekey := some r, dstate := if e.members.getLsbD s.eq.pkg then 3 else e.dstate }
  dropForeign (failWaiting (failRequests (endCalls s1 7 fun _ _ => true) (fun q => gone q.pkg) 7) (fun q => gone q.pkg) 7)
    fun p => p.origin.elim false gone

theorem beginRekey_eq (s : State) (leader : Nat) (epoch : BitVec 32) (members : BitVec 64) :
    beginRekey s leader epoch members = tryForward (rekeyTaken s ⟨leader, epoch, members, s.eq.members ||| members, 1, s.chron⟩) := rfl

theorem lasting_rekeyTaken (s : State) (r : Rekeying) : (rekeyTaken s r).eq.lasting =
    { s.eq with rekey := some r, dstate := if s.eq.members.getLsbD s.eq.pkg then 3 else s.eq.dstate }.lasting := by
  unfold rekeyTaken
  rw [lasting_dropForeign, lasting_failWaiting, lasting_failRequests, lasting_endCalls]
  rfl

/-- R92. What a re-key that begins at a member leaves: it stands in pass 1, or REKEY has gone on. -/
theorem beginRekey_begins (s : State) (leader : Nat) (epoch : BitVec 32) (members : BitVec 64) :
    let t := beginRekey s leader epoch members
    ∃ r, t.eq.lasting = { s.eq with rekey := some r, dstate := if s.eq.members.getLsbD s.eq.pkg then 3 else s.eq.dstate }.lasting ∧
      r.leader = leader ∧ r.epoch = epoch ∧ r.members = members ∧ (r.pass = 1 ∨ r.pass = 2 ∧ Tells 1 r t) := by
  dsimp only
  rw [beginRekey_eq]
  have hu := lasting_rekeyTaken s ⟨leader, epoch, members, s.eq.members ||| members, 1, s.chron⟩
  generalize rekeyTaken s ⟨leader, epoch, members, s.eq.members ||| members, 1, s.chron⟩ = u at hu
  rcases tryForward_cases u with h | ⟨r, hr, -, h⟩
  · rw [h]
    exact ⟨_, hu, rfl, rfl, rfl, .inl rfl⟩
  · obtain rfl := Option.some.inj (hr.symm.trans (Equator.of_lasting hu Equator.rekey))
    rw [h]
    refine ⟨⟨leader, epoch, members, s.eq.members ||| members, 2, s.chron⟩, ?_, rfl, rfl, rfl, .inr ⟨rfl, sendToken_tells 1 _ _⟩⟩
    rw [lasting_sendToken]
    exact congrArg (fun e : Equator => { e with rekey := some ⟨leader, epoch, members, s.eq.members ||| members, 2, s.chron⟩ }) hu

theorem settled_beginRekey (s : State) (leader : Nat) (epoch : BitVec 32) (members : BitVec 64) :
    (beginRekey s leader epoch members).eq.settled = s.eq.settled := by
  obtain ⟨r, hr, -⟩ := beginRekey_begins s leader epoch members
  exact (Equator.settled_of_lasting hr).trans rfl

theorem settled_startRekey (s : State) (joins leaves : BitVec 64) : (startRekey s joins leaves).eq.settled = s.eq.settled := by
  unfold startRekey
  split
  · rfl
  · exact settled_beginRekey ..

variable (hs : s.Sent m)
include hs

theorem sent_beginRekey (leader : Nat) (epoch : BitVec 32) (members : BitVec 64) : (beginRekey s leader epoch members).Sent m := by
  unfold beginRekey
  refine sent_tryForward ?_
  exact sent_failWaiting (sent_failRequests (sent_endCalls (by exact hs) ..) ..) ..

theorem sent_startRekey (joins leaves : BitVec 64) : (startRekey s joins leaves).Sent m := by
  unfold startRekey
  split
  · exact hs
  · exact sent_beginRekey hs ..

end

end Sys2Proof.Machine

namespace Sys2Proof.Machine

/-! ## Slots at the Equator station (R80 to R82) -/

section
variable {s : State} {h : EqHead} {x : Slot} {z : SealedSlot}

/-- R80. A full slot in sound order goes by its addresses; that of a packet, on or back to its sender. -/
theorem eqSlotOpen_full (hlink : s.eq.link = true) (hpos : ¬(s.arg.lane % 8 = 0 ∧ s.arg.pos % 64 = 0))
    (hvalid : (slotOfHeader s.arg.sealed.header s.arg.sealed.payload).valid = true) (hok : s.arg.ok = true) :
    let h := eqHeadOf s.arg.sealed.header
    let x := slotOfHeader s.arg.sealed.header s.arg.sealed.payload
    (h.dpkg = s.eq.pkg → exec .eqSlotOpen s = openHere s (slotKey s.arg.dir s.arg.lane s.arg.pos) x h s.arg.sealed) ∧
    (h.dpkg ≠ s.eq.pkg → h.ekind = 0 →
      exec .eqSlotOpen s = .next (if h.spkg = s.eq.pkg then s else passOn s s.arg.sealed)) := by
  have hpos : (decide (s.arg.lane % 8 = 0) && decide (s.arg.pos % 64 = 0)) = false := by simpa using hpos
  have he : exec .eqSlotOpen s = execEqSlotOpen s := rfl
  refine ⟨fun hd => ?_, fun hd hk => ?_⟩
  · rw [he, execEqSlotOpen]
    simp only [hlink, hpos, hvalid, hok, hd, Bool.not_true, Bool.false_eq_true, if_false, if_true]
  · rw [he, execEqSlotOpen]
    simp only [hlink, hpos, hvalid, hok, hd, hk, Bool.not_true, Bool.false_eq_true, if_false]
    by_cases hs : (eqHeadOf s.arg.sealed.header).spkg = s.eq.pkg
    · simp [hs]
    · simp [hs]

/-- R77, R80. What the key of a slot's pair opens it to. -/
def openedBy (s : State) (h : EqHead) (x : Slot) (d : Dir) (lane : Nat) (z : SealedSlot) : Option Payload :=
  (Map.find s.eq.keys (pairNo h.ksb.toNat h.spkg s.eq.pkg)).bind fun key =>
    gcmOpen key (nonceOf h.spkg s.eq.pkg d lane h.pseq) z.header z.payload x.len z.tag

/-- R79. The state in which the counter of a slot's channel has moved past it. -/
def numberTaken (s : State) (h : EqHead) (d : Dir) (lane : Nat) : State :=
  modEq s fun e => { e with expected := Map.set e.expected (channelNo h.ksb.toNat h.spkg s.eq.pkg d lane) ((h.pseq + 1) % 2 ^ 64) }

section
variable {d : Dir} {lane : Nat} (hadm : admitted s h.ksb = true) (hmem : memberOf s h.spkg = true)
include hadm hmem

theorem openSlot_bad (ho : openedBy s h x d lane z = none) : openSlot s h x d lane z = (s, .error .tagFail) := by
  rw [openedBy] at ho
  simp only [openSlot, hadm, hmem, ho, Bool.not_true, Bool.or_self, Bool.false_eq_true, if_false]

theorem openSlot_expected {plain : Payload} (ho : openedBy s h x d lane z = some plain)
    (hseq : h.pseq = Map.get s.eq.expected (channelNo h.ksb.toNat h.spkg s.eq.pkg d lane) 0) :
    openSlot s h x d lane z = (numberTaken s h d lane, .ok (payloadPart plain x.len)) := by
  rw [openedBy] at ho
  simp only [openSlot, hadm, hmem, ho, Bool.not_true, Bool.or_self, Bool.false_eq_true, if_false]
  exact if_pos hseq

end

section
variable (henc : h.enc = true) (key : Nat)
include henc

theorem openHere_bad (ho : openSlot s h x s.arg.dir s.arg.lane z = (s, .error .tagFail)) :
    openHere s key x h z = .next (discardSlot s key x h .tagFail none) := by
  simp only [openHere, henc, ho, Bool.not_true, Bool.false_eq_true, if_false]

variable {t : State} {plain : Payload} (ho : openSlot s h x s.arg.dir s.arg.lane z = (t, .ok plain))
include ho

theorem openHere_packet (hk : h.ekind = 0) : openHere s key x h z = deliverPacket t (decodePacket plain) h.spkg h.pseq := by
  simp only [openHere, henc, ho, hk, Bool.not_true, Bool.false_eq_true, if_false, if_true]

theorem openHere_null (hk : h.ekind = 3) : openHere s key x h z = .next t := by
  simp only [openHere, henc, ho, hk, Bool.not_true, Bool.false_eq_true, if_false, if_true, OfNat.ofNat_ne_zero]

end

/-- R81. Of a packet that cannot be opened, or of a slot without a stream, the discard is all that is left. -/
theorem discardSlot_closed (key : Nat) (why : Discard) (hk : h.ekind = 0 ∨ h.ekind = 3) :
    discardSlot s key x h why none = countDiscard s why h.spkg h.pseq := by
  rcases hk with hk | hk <;> simp [discardSlot, hk]

/-- R81, R96. At the highest alarm level a bad tag is counted and logged, and raises nothing. -/
theorem countDiscard_tagFail (hl : s.eq.level = 3) (p pseq : Nat) :
    let t := countDiscard s .tagFail p pseq
    t.eq.tagFail = Map.set s.eq.tagFail p (min (Map.get s.eq.tagFail p 0 + 1) 0xFFFF) ∧ t.eq.expected = s.eq.expected ∧
      ∃ l ∈ t.mgmt.log, l.cls = 3 ∧ l.code = 1 := by
  intro t
  obtain ⟨u, hu⟩ : ∃ u : State, u = modEq (logEvent (modEq s fun e => { e with tagFail := bumpErr e.tagFail p }) 3 16 p 1 0 0 pseq) fun e =>
    { e with discards := (e.discards.filter fun x => s.chron < x.1 + 1000000000) ++ [(s.chron, p)] } := ⟨_, rfl⟩
  have hlevel : u.eq.level = 3 := by
    rw [hu]
    exact hl
  have hkept (n : Nat) (hn : n ≤ 3) : raiseAlarm u n 1 = u := raiseAlarm_kept 1 (hlevel ▸ hn)
  have ht : t = u := by
    show countDiscard s .tagFail p pseq = u
    unfold countDiscard
    dsimp only
    rw [← hu]
    simp only [hkept 1 (by decide), hkept 2 (by decide), hkept 3 (by decide), ite_self]
  rw [ht, hu]
  exact ⟨rfl, rfl, _, List.mem_append_right _ (List.mem_singleton.mpr rfl), rfl, rfl⟩

end

/-! ## Packets opened (R82, R83) -/

section
variable {s : State}

theorem foreignHomes_modEq (f : Equator → Equator) (a : Nat) : foreignHomes (modEq s f) a = foreignHomes s a := by
  have hr (ptroot : Nat) : regionEntry (modEq s f) ptroot = regionEntry s ptroot :=
    funext (regionEntry_of_memory (t := modEq s f) rfl rfl rfl rfl ptroot)
  simp only [foreignHomes, coveringRegion, hr]
  rfl

/-- R82, R211. The home to which a package's packet goes: for a read the nearest replica. -/
def homeOfPacket (s : State) (p : Packet) : Nat :=
  if p.kind = 1 then nearestTo 15 (foreignHomes s p.paddr) else (foreignHomes s p.paddr).headD p.paddr

/-- R208. A request goes to an address that no memory die has. -/
def PacketLost (s : State) (p : Packet) : Prop := isRequest p.kind = true ∧ dpaExists (homeOfPacket s p) = false

theorem homeOfPacket_numberTaken (h : EqHead) (d : Dir) (lane : Nat) (p : Packet) :
    homeOfPacket (numberTaken s h d lane) p = homeOfPacket s p := by
  simp only [homeOfPacket, numberTaken, foreignHomes_modEq]

theorem deliverPacket_nowhere {p : Packet} (hk : isRequest p.kind = true) (ha : dpaExists (homeOfPacket s p) = false) (from_ pseq : Nat) :
    deliverPacket s p from_ pseq = .fault (.noSuchAddress (homeOfPacket s p)) := by
  rw [homeOfPacket] at ha ⊢
  simp only [deliverPacket, hk, ha, Bool.not_false, if_true]

theorem eq_sendPacket (s : State) (src dst : Nat) (p : Packet) (late : Option (Nat × Piece)) : (sendPacket s src dst p late).eq = s.eq := by
  unfold sendPacket
  split <;> rfl

/-- No packet that is delivered moves a counter of what is expected. -/
theorem deliverPacket_delivers {p : Packet} (h : ¬(isRequest p.kind = true ∧ dpaExists (homeOfPacket s p) = false)) (from_ pseq : Nat) :
    ∃ t, deliverPacket s p from_ pseq = .next t ∧ t.eq.expected = s.eq.expected := by
  cases hk : isRequest p.kind with
  | true =>
    have ha : dpaExists (homeOfPacket s p) = true := by simpa [hk] using h
    rw [homeOfPacket] at ha
    refine ⟨_, by simp only [deliverPacket, hk, ha, Bool.not_true, Bool.false_eq_true, if_true, if_false]; rfl, ?_⟩
    exact congrArg Equator.expected (eq_sendPacket ..)
  | false =>
    simp only [deliverPacket, hk, Bool.false_eq_true, if_false]
    split
    · exact ⟨_, rfl, rfl⟩
    · split
      · refine ⟨_, rfl, (Equator.of_settled (settled_tryForward _).1 Equator.expected).trans ?_⟩
        exact (congrArg Equator.expected (eq_sendPacket ..)).trans rfl
      · exact ⟨_, rfl, rfl⟩

/-- R81, R82. A packet that is opened goes to its home, its requester or the log, and the counter has moved past it. -/
theorem openHere_good {h : EqHead} {x : Slot} {z : SealedSlot} {plain : Payload} (henc : h.enc = true) (key : Nat) (hk : h.ekind = 0)
    (ho : openSlot s h x s.arg.dir s.arg.lane z = (numberTaken s h s.arg.dir s.arg.lane, .ok plain)) :
    (PacketLost s (decodePacket plain) → openHere s key x h z = .fault (.noSuchAddress (homeOfPacket s (decodePacket plain)))) ∧
    (¬PacketLost s (decodePacket plain) → ∃ t, openHere s key x h z = .next t ∧
      Map.get t.eq.expected (channelNo h.ksb.toNat h.spkg s.eq.pkg s.arg.dir s.arg.lane) 0 = (h.pseq + 1) % 2 ^ 64) := by
  rw [openHere_packet henc key ho hk, PacketLost, ← homeOfPacket_numberTaken h s.arg.dir s.arg.lane]
  refine ⟨fun ⟨hreq, hno⟩ => deliverPacket_nowhere hreq hno _ _, fun hyes => ?_⟩
  obtain ⟨t, ht, hexp⟩ := deliverPacket_delivers hyes h.spkg h.pseq
  refine ⟨t, ht, ?_⟩
  rw [hexp]
  exact Map.get_set_same ..

/-! ## Requests to other packages (R82, R83) -/

/-- R77, R79. A sealed slot takes the next number of its channel. -/
theorem sendCount_sealSlot (s : State) (x : Slot) (ekind p : Nat) (d : Dir) (lane pos : Nat) :
    sendCount (sealSlot s x ekind p d lane pos) p d lane = sendCount s p d lane + 1 := Map.get_set_same ..

/-- R83. The record of a request of this package. -/
def eqRequestOf (s : State) (p : Packet) : EqReq := { pkg := p.pkg, agent := p.agent, seq := p.seq, atomic := p.kind = 3, sentAt := s.chron }

/-- R83. A request remembered until its answer. -/
def remembered (s : State) (q : EqReq) : State :=
  modEq s fun e => { e with requests := (e.requests.filter fun x => !(x.agent = q.agent && x.seq = q.seq)) ++ [q] }

theorem forwardRequest_seals {p : Packet} (hp : memberOf s p.pkg = true) (hown : memberOf s s.eq.pkg = true) (hlink : s.eq.link = true)
    (hkey : s.eq.rekey = none) (hcan : canSeal s p.pkg (eqWay s p.pkg) s.arg.lane = true) :
    forwardRequest s p =
      sealSlot (remembered s (eqRequestOf s p)) (eqPacketSlot p) 0 p.pkg (eqWay s p.pkg) s.arg.lane s.arg.pos := by
  simp only [forwardRequest, hp, hown, hlink, sealingStopped, hkey, hcan, Option.elim_none, Bool.not_true, Bool.or_self, Bool.false_eq_true,
    if_false]
  rfl

theorem eqRequestForward_request {st : Nat} {p : Packet} {rest : List (Nat × Packet)}
    (htake : takeNth (forEquator s) s.arg.index s.inbox = some ((st, p), rest)) (horig : p.origin = none)
    (hbest : eqBestEffort s (slotKey (eqWay s p.pkg) s.arg.lane s.arg.pos) = true)
    (hvalid : (slotOfHeader s.arg.sealed.header s.arg.sealed.payload).valid = false)
    (hthr : (slotOfHeader s.arg.sealed.header s.arg.sealed.payload).thr = false) :
    exec .eqRequestForward s = .next (forwardRequest { s with inbox := rest } p) := by
  have he : exec .eqRequestForward s = execEqRequestForward s := rfl
  rw [he, execEqRequestForward]
  simp only [htake, horig, Option.getD_none, hbest, hvalid, hthr, Bool.not_true, Bool.or_self, Bool.false_eq_true, if_false]

end

/-- Settles O53. A full slot goes by its addresses (`eqSlotOpen_full`); one for this package by what its key opens it to, a packet in it by
`deliverPacket`'s cases; a request leaves by `sealSlot`, whose header is read back by `eqHeadOf_headerOf`. -/
theorem equatorSlots : Obligations.EquatorSlots := by
  unfold Obligations.EquatorSlots
  intro s
  dsimp only
  refine ⟨fun ⟨hlink, hpos, hvalid, hok⟩ hd hk hs => ?_, fun ⟨hlink, hpos, hvalid, hok⟩ hd hk hs => ?_,
    fun ⟨hlink, hpos, hvalid, hok⟩ hd henc hadm hmem hseq => ?_, fun st p rest htake horig hp hown hlink hkey hbest hvalid hthr hcan => ?_⟩
  · rw [(eqSlotOpen_full hlink hpos hvalid hok).2 hd hk, if_neg hs]
    rfl
  · rw [(eqSlotOpen_full hlink hpos hvalid hok).2 hd hk, if_pos hs]
  · have hopen := (eqSlotOpen_full hlink hpos hvalid hok).1 hd
    cases ho : openedBy s (eqHeadOf s.arg.sealed.header) (slotOfHeader s.arg.sealed.header s.arg.sealed.payload) s.arg.dir s.arg.lane
        s.arg.sealed with
    | some plain =>
      have hgood := openSlot_expected hadm hmem ho hseq
      rw [openedBy] at ho
      simp only [ho]
      refine ⟨fun hk _ => ⟨_, hopen.trans (openHere_null henc _ hgood hk), rfl⟩, fun hk => ?_⟩
      obtain ⟨hnowhere, hdelivers⟩ := openHere_good henc _ hk hgood
      by_cases hno : PacketLost s (decodePacket (payloadPart plain (slotOfHeader s.arg.sealed.header s.arg.sealed.payload).len))
      · exact (if_pos hno).mpr (hopen.trans (hnowhere hno))
      · obtain ⟨t, ht, hexp⟩ := hdelivers hno
        exact (if_neg hno).mpr ⟨t, hopen.trans ht, hexp⟩
    | none =>
      have hbad := hopen.trans (openHere_bad henc _ (openSlot_bad hadm hmem ho))
      rw [openedBy] at ho
      simp only [ho]
      refine ⟨fun hk hl => ?_, fun hk hl => ?_⟩
      · obtain ⟨hfail, hexp, hlog⟩ := countDiscard_tagFail hl (eqHeadOf s.arg.sealed.header).spkg (eqHeadOf s.arg.sealed.header).pseq
        exact ⟨_, hbad.trans (congrArg _ (discardSlot_closed _ _ (.inr hk))), hfail, hexp, hlog⟩
      · obtain ⟨-, hexp, -⟩ := countDiscard_tagFail hl (eqHeadOf s.arg.sealed.header).spkg (eqHeadOf s.arg.sealed.header).pseq
        exact ⟨_, hbad.trans (congrArg _ (discardSlot_closed _ _ (.inl hk))), hexp⟩
  · have hseal := forwardRequest_seals (s := { s with inbox := rest }) hp hown hlink hkey hcan
    refine ⟨_, (eqRequestForward_request htake horig hbest hvalid hthr).trans (congrArg _ hseal), rfl, sendCount_sealSlot ..,
      ⟨eqRequestOf s p, ?_, rfl, rfl, rfl, rfl⟩, ?_⟩
    · exact List.mem_append_right _ (List.mem_singleton.mpr rfl)
    · obtain ⟨z, hz, henc, -, hn⟩ := sealSlot_sends (remembered { s with inbox := rest } (eqRequestOf s p)) (eqPacketSlot p) 0 p.pkg
        (eqWay s p.pkg) s.arg.lane s.arg.pos
      exact ⟨z, hz, henc, hn⟩

end Sys2Proof.Machine

namespace Sys2Proof

/-- Reading what a list of writes left at the key of one of them that no other shares. -/
theorem Map.get_foldl_set_pairs {α : Type} (g : Nat → Nat) {l : List (Nat × α)} {x : Nat × α} (hx : x ∈ l)
    (honly : ∀ y ∈ l, g y.1 = g x.1 → y = x)
    (m : Map α) (d : α) : Map.get (l.foldl (fun m y => Map.set m (g y.1) y.2) m) (g x.1) d = x.2 := by
  induction l using List.reverseRecOn with
  | nil => exact absurd hx List.not_mem_nil
  | append_singleton l y ih =>
    rw [List.foldl_append, List.foldl_cons, List.foldl_nil, Map.get_set]
    split
    · next h => rw [honly y (by simp) h]
    · next h =>
      rcases List.mem_append.mp hx with hx | hx
      · exact ih hx fun z hz => honly z (List.mem_append_left _ hz)
      · obtain rfl := List.mem_singleton.mp hx
        exact absurd rfl h

namespace Machine

/-! ## Training (R69 to R72) -/

theorem mem_zip_range {α : Type} {l : List α} {i : Nat} {x : α} : (i, x) ∈ (List.range l.length).zip l ↔ l[i]? = some x := by
  rw [List.mem_iff_getElem?]
  constructor
  · rintro ⟨j, hj⟩
    obtain ⟨hi, hx⟩ := List.getElem?_zip_eq_some.mp hj
    obtain ⟨_, hi⟩ := List.getElem?_eq_some_iff.mp hi
    rw [List.getElem_range] at hi
    rwa [hi] at hx
  · intro h
    obtain ⟨hi, -⟩ := List.getElem?_eq_some_iff.mp h
    exact ⟨i, List.getElem?_zip_eq_some.mpr ⟨by simp [hi], h⟩⟩

/-- R69. The package with the lowest serial number stands as many places to the west as this one's position says. -/
theorem ringPosition_lowest {l : List Nat} (h : l ≠ []) : ringPosition l < l.length ∧
    ∃ low, l[(l.length - ringPosition l) % l.length]? = some low ∧ ∀ x ∈ l, low ≤ x := by
  obtain ⟨low, hlow⟩ : ∃ low, low = l.foldl min (l.headD 0) := ⟨_, rfl⟩
  obtain ⟨hmem, hle⟩ : low ∈ l ∧ ∀ x ∈ l, low ≤ x := by
    refine List.min?_eq_some_iff.mp ?_
    rw [hlow]
    cases l with
    | nil => exact absurd rfl h
    | cons x l => rw [List.headD_cons, List.foldl_cons, min_self, List.min?_cons']
  have hidx : l.findIdx (· = low) < l.length := List.findIdx_lt_length_of_exists ⟨low, hmem, by simp⟩
  have hat : l[l.findIdx (· = low)]? = some low := by
    rw [List.getElem?_eq_getElem hidx]
    simpa using List.findIdx_getElem (w := hidx)
  have hpos : ringPosition l = (l.length - l.findIdx (· = low)) % l.length := by
    rw [ringPosition, ← hlow, Nat.max_eq_left (by omega)]
  have hback : (l.length - ringPosition l) % l.length = l.findIdx (· = low) := by
    rw [hpos]
    rcases Nat.eq_zero_or_pos (l.findIdx (· = low)) with h0 | h0
    · rw [h0, Nat.sub_zero, Nat.mod_self, Nat.sub_zero, Nat.mod_self]
    · rw [Nat.mod_eq_of_lt (a := l.length - l.findIdx (· = low)) (by omega), Nat.sub_sub_self hidx.le, Nat.mod_eq_of_lt hidx]
  refine ⟨by rw [hpos]; exact Nat.mod_lt _ (by omega), low, ?_, hle⟩
  rw [hback, hat]

/-- R71. The hops as measured, but for the last, which the delay makes longer. -/
theorem paddedHops_eq {l : List Nat} (h : l ≠ []) : ∃ d, paddedHops l = (l.map slotTimes).dropLast ++ [d] ∧
    (paddedHops l).foldl (· + ·) 0 = alignUp ((l.map slotTimes).foldl (· + ·) 0) 64 := by
  obtain ⟨hs, x, hx⟩ : ∃ hs x, l.map slotTimes = hs ++ [x] :=
    ⟨_, _, (List.dropLast_append_getLast (by simpa using h : l.map slotTimes ≠ [])).symm⟩
  obtain ⟨q, hq⟩ : ∃ q, q = (hs ++ [x]).foldl (· + ·) 0 := ⟨_, rfl⟩
  have hpad : paddedHops l = hs ++ [x + (alignUp q 64 - q)] := by
    unfold paddedHops
    simp [hx, hq]
  refine ⟨x + (alignUp q 64 - q), by rw [hpad, hx, List.dropLast_concat], ?_⟩
  rw [hpad, hx, ← hq, List.foldl_append]
  rw [List.foldl_append] at hq
  simp only [List.foldl_cons, List.foldl_nil] at hq ⊢
  unfold alignUp
  omega

theorem paddedHops_length {l : List Nat} (h : l ≠ []) : (paddedHops l).length = l.length := by
  obtain ⟨d, hd, -⟩ := paddedHops_eq h
  have := List.length_pos_iff.mpr h
  rw [hd]
  simp
  omega

theorem paddedHops_aligned {l : List Nat} (h : l ≠ []) : (paddedHops l).foldl (· + ·) 0 % 64 = 0 := by
  obtain ⟨d, -, hd⟩ := paddedHops_eq h
  rw [hd]
  exact Nat.mul_mod_left ..

theorem paddedHops_getElem? {l : List Nat} {i x : Nat} (hi : i + 1 < l.length) (hx : l[i]? = some x) :
    (paddedHops l)[i]? = some (slotTimes x) := by
  obtain ⟨d, hd, -⟩ := paddedHops_eq (l := l) (by rintro rfl; cases hx)
  rw [hd, List.getElem?_append_left (by simp; omega), List.getElem?_dropLast, if_pos (by simp; omega), List.getElem?_map, hx]
  rfl

/-- R71. The table of hops of a direction holds the measured hop of every station but the last. -/
theorem hops_get (g : Nat → Nat) {l : List Nat} {i x : Nat} (hi : i + 1 < l.length) (hx : l[i]? = some x)
    (hg : ∀ j, j < l.length → g j = g i → j = i) :
    Map.get (((List.range l.length).zip (paddedHops l)).foldl (fun m x => Map.set m (g x.1) x.2) []) (g i) 0 = slotTimes x := by
  have hlen : (paddedHops l).length = l.length := paddedHops_length (by rintro rfl; cases hx)
  rw [← hlen]
  refine Map.get_foldl_set_pairs g (x := (i, slotTimes x)) (mem_zip_range.mpr (paddedHops_getElem? hi hx)) (fun y hy hgy => ?_) _ _
  obtain ⟨j, z⟩ := y
  have hj := mem_zip_range.mp hy
  obtain rfl := hg j (hlen ▸ (List.getElem?_eq_some_iff.mp hj).1) hgy
  rw [paddedHops_getElem? hi hx] at hj
  rw [Option.some.inj hj]

/-- R69 to R71. A ring of 2 to 64 packages within the bounds, as the links have measured it. -/
def Trains (a : Arg) : Prop :=
  2 ≤ a.serials.length ∧ a.serials.length ≤ 64 ∧ a.nums.length = a.serials.length ∧ a.nums2.length = a.serials.length ∧
    ∀ h ∈ a.nums ++ a.nums2, slotTimes h ≤ 255

/-- R69 to R72. The Equator's state of a ring that has trained, apart from the domain. -/
def Equator.trained (e : Equator) (a : Arg) : Equator :=
  let n := a.serials.length
  { e with pkg := ringPosition a.serials, count := n, link := true,
           qE := (paddedHops a.nums).foldl (· + ·) 0, qW := (paddedHops a.nums2).foldl (· + ·) 0,
           ehop := ((List.range n).zip (paddedHops a.nums)).foldl (fun m x => Map.set m x.1 x.2) [],
           whop := ((List.range n).zip (paddedHops a.nums2)).foldl (fun m x => Map.set m (n - 1 - x.1) x.2) [] }

section
variable {s : State}

theorem trains_iff (a : Arg) : Trains a ↔
    (decide (a.serials.length < 2) || decide (a.serials.length > 64) || decide (a.nums.length ≠ a.serials.length) ||
    decide (a.nums2.length ≠ a.serials.length) || (a.nums ++ a.nums2).any fun h => decide (slotTimes h > 255)) = false := by
  simp only [Trains, Bool.or_eq_false_iff, decide_eq_false_iff_not, List.any_eq_false, decide_eq_true_eq, not_lt, gt_iff_lt, ne_eq, not_not,
    and_assoc]

theorem eqLinkTrainingDone_untrained (h : ¬Trains s.arg) : exec .eqLinkTrainingDone s = .next s := by
  rw [trains_iff, Bool.not_eq_false] at h
  exact if_pos h

/-- R69 to R72, R95. Whatever the domain does then, the ring stands as it trained. -/
theorem eqLinkTrainingDone_trained (h : Trains s.arg) : ∃ t l, exec .eqLinkTrainingDone s = .next t ∧
    t.eq.settled = { s.eq.trained s.arg with leader := l }.settled := by
  rw [trains_iff] at h
  have he : exec .eqLinkTrainingDone s = execEqLinkTrainingDone s := rfl
  simp only [he, execEqLinkTrainingDone, h, Bool.false_eq_true, if_false]
  split
  · exact ⟨_, s.eq.leader, rfl, rfl⟩
  · split
    · exact ⟨_, _, rfl, settled_startRekey ..⟩
    · exact ⟨_, _, rfl, rfl⟩

theorem eqLinkTrainingDone_gives (h : Trains s.arg) :
    let a := s.arg
    let n := a.serials.length
    Gives .eqLinkTrainingDone s fun t => t.eq.link = true ∧ t.eq.count = n ∧ t.eq.pkg < n ∧
      (∃ low, a.serials[(n - t.eq.pkg) % n]? = some low ∧ ∀ x ∈ a.serials, low ≤ x) ∧ t.eq.qE % 64 = 0 ∧ t.eq.qW % 64 = 0 ∧
      (∀ i x, i + 1 < n → a.nums[i]? = some x → Map.get t.eq.ehop i 0 = max 2 (ceilDiv x 24)) ∧
      (∀ i x, i + 1 < n → a.nums2[i]? = some x → Map.get t.eq.whop (n - 1 - i) 0 = max 2 (ceilDiv x 24)) := by
  dsimp only
  obtain ⟨t, l, ht, heq⟩ := eqLinkTrainingDone_trained h
  obtain ⟨hlo, -, he, hw, -⟩ := h
  have hnil {l : List Nat} (hl : l.length = s.arg.serials.length) : l ≠ [] := List.ne_nil_of_length_pos (by omega)
  obtain ⟨hpos, hlow⟩ := ringPosition_lowest (hnil (l := s.arg.serials) rfl)
  have hpkg : t.eq.pkg = ringPosition s.arg.serials := Equator.of_settled heq Equator.pkg
  rw [← hpkg] at hpos hlow
  refine ⟨t, ht, Equator.of_settled heq Equator.link, Equator.of_settled heq Equator.count, hpos, hlow, ?_, ?_,
    fun i x hi hx => ?_, fun i x hi hx => ?_⟩
  · exact (congrArg (· % 64) (Equator.of_settled heq Equator.qE)).trans (paddedHops_aligned (hnil he))
  · exact (congrArg (· % 64) (Equator.of_settled heq Equator.qW)).trans (paddedHops_aligned (hnil hw))
  · have hget := hops_get (fun i => i) (l := s.arg.nums) (he ▸ hi) hx fun j _ h => h
    rw [Equator.of_settled heq Equator.ehop]
    rw [he] at hget
    exact hget
  · have hget := hops_get (fun i => s.arg.serials.length - 1 - i) (l := s.arg.nums2) (hw ▸ hi) hx fun j hj h => by
      rw [hw] at hj
      omega
    rw [Equator.of_settled heq Equator.whop]
    rw [hw] at hget
    exact hget

/-! ## The ring's loss, and requests without an answer (R83, R95) -/

theorem eqFramingLoss_gives : Gives .eqFramingLoss s fun t => t.eq.link = false ∧ t.eq.rekey = none ∧ t.eq.requests = [] ∧
    t.eq.waitingCmds = [] ∧ ∀ x ∈ t.tokens, x.equator = false := by
  obtain ⟨u, hu⟩ : ∃ u, u = failRequests s (fun _ => true) 3 := ⟨_, rfl⟩
  obtain ⟨v, hv⟩ : ∃ v, v = failWaiting u (fun _ => true) 3 := ⟨_, rfl⟩
  obtain ⟨w, hw⟩ : ∃ w, w = endCalls v 3 fun _ x => x.plan.chunks.any (onEquator (launchOf s x.launch)) := ⟨_, rfl⟩
  have he : exec .eqFramingLoss s = .next (modEq { w with tokens := w.tokens.filter fun t => !t.equator } fun e =>
      { e with link := false, rekey := none, dstate := if e.dstate = 3 then 2 else e.dstate }) := by
    rw [hw, hv, hu]
    rfl
  have hwv : w.eq.unheld = v.eq.unheld := hw ▸ unheld_endCalls ..
  have hvu := hv ▸ unheld_failWaiting u (fun _ => true) 3
  have hus := hu ▸ unheld_failRequests s (fun _ => true) 3
  refine ⟨_, he, rfl, rfl, ?_, ?_, fun x hx => ?_⟩
  · show w.eq.requests = []
    rw [Equator.of_unheld hwv Equator.requests, Equator.of_unheld hvu Equator.requests]
    exact (Equator.of_unheld hus Equator.requests).trans (by simp)
  · show w.eq.waitingCmds = []
    rw [Equator.of_unheld hwv Equator.waitingCmds, Equator.of_unheld hvu Equator.waitingCmds]
    simp
  · simpa using (List.mem_filter.mp hx).2

theorem eqResponseTimeout_gives {q : EqReq} (hq : (s.eq.requests.find? fun q => q.agent = s.arg.index && q.seq = s.arg.seq) = some q)
    (hlong : q.sentAt + max s.eq.tmo.toNat 10000 ≤ s.chron) :
    Gives .eqResponseTimeout s fun t => q ∉ t.eq.requests ∧ ∀ x ∈ t.eq.requests, x ∈ s.eq.requests := by
  have he : exec .eqResponseTimeout s = execEqResponseTimeout s := rfl
  rw [execEqResponseTimeout] at he
  simp only [hq, Nat.not_lt.mpr hlong, if_false] at he
  refine ⟨_, he, ?_⟩
  dsimp only
  rw [(settled_tryForward _).2, Equator.of_unheld (unheld_failRequests ..) Equator.requests]
  exact ⟨by simp, fun x hx => (List.mem_filter.mp hx).1⟩

end

end Machine
end Sys2Proof

namespace Sys2Proof.Machine

/-! ## Sessions (R84 to R87) -/

section
variable {s : State} {m : OutMsg} {p n : Nat} {x : Session} {msg : SpdmMsg}

theorem sessionWith_peer (s : State) (p : Nat) : (sessionWith s p).peer = p := by
  unfold sessionWith
  cases h : s.eq.sessions.find? fun x => x.peer = p with
  | none => rfl
  | some x => simpa using List.find?_some h

theorem advanceSession_peer (x : Session) (msg : SpdmMsg) :
    (advanceSession x msg).peer = x.peer ∧ (advanceSession x msg).stage = x.stage + 1 := by
  cases msg <;> exact ⟨rfl, rfl⟩

/-- R87. Admission starts a re-key or does nothing. -/
theorem admitPeer_cases (s : State) (p : Nat) (others : Bool) : admitPeer s p others = s ∨ admitPeer s p others = startRekey s (maskOf p) 0#64 := by
  unfold admitPeer
  split
  · exact .inr rfl
  · exact .inl rfl

theorem settled_admitPeer (s : State) (p : Nat) (others : Bool) : (admitPeer s p others).eq.settled = s.eq.settled := by
  rcases admitPeer_cases s p others with h | h
  · rw [h]
  · rw [h, settled_startRekey]

theorem sent_admitPeer (hs : s.Sent m) (p : Nat) (others : Bool) : (admitPeer s p others).Sent m := by
  rcases admitPeer_cases s p others with h | h
  · rw [h]
    exact hs
  · rw [h]
    exact sent_startRekey hs ..

theorem admitPeer_host (s : State) (others : Bool) : admitPeer s 64 others = s := by simp [admitPeer]

theorem replyTo_host (hx : x.peer = 64) : replyTo s x n = s := by simp [replyTo, hx]

/-- R84. The lower PKG sends the next request, the higher its answer. -/
theorem replyTo_sends (hx : x.peer < 64) :
    (s.eq.pkg < x.peer → n < 7 → (replyTo s x n).Sent (.spdm x.peer (ownMessage (n + 1)))) ∧
    (x.peer < s.eq.pkg → (replyTo s x n).Sent (.spdm x.peer (ownMessage n))) := by
  have hx : ¬x.peer ≥ 64 := by omega
  unfold replyTo
  dsimp only
  rw [if_neg hx]
  refine ⟨fun hlow hn => ?_, fun hhigh => ?_⟩
  · rw [if_pos hlow, if_pos hn]
    exact sent_emit_same ..
  · rw [if_neg (by omega)]
    exact sent_emit_same ..

/-! ### A message of a session (R84) -/

theorem sessionMessage_heartbeat (hm : msg = .heartbeat) (hup : (sessionWith s p).up = true) (others : Bool) :
    sessionMessage s p msg others = admitPeer (modSession s p fun x => { x with missed := 0 }) p others := by
  subst hm
  exact if_pos hup

theorem sessionMessage_end (hm : msg = .endSession) (others : Bool) :
    sessionMessage s p msg others = modEq s fun e => { e with sessions := e.sessions.filter fun x => x.peer ≠ p } := by
  subst hm
  rfl

variable (hm : messageNo msg < 8)
include hm

theorem sessionMessage_fails (h : messageNo msg ≠ (sessionWith s p).stage ∨ acceptable s (sessionWith s p) msg = false) (others : Bool) :
    sessionMessage s p msg others = sessionFails s p := by
  have h : (decide (messageNo msg ≠ (sessionWith s p).stage) || !acceptable s (sessionWith s p) msg) = true := by simpa using h
  unfold sessionMessage
  dsimp only
  rw [if_neg (by omega), if_neg (by omega), if_pos h]

theorem sessionMessage_accepts (hst : messageNo msg = (sessionWith s p).stage) (hacc : acceptable s (sessionWith s p) msg = true)
    (others : Bool) : sessionMessage s p msg others =
      admitPeer (modEq (replyTo s (sessionWith s p) (messageNo msg)) fun e =>
        { e with sessions := (e.sessions.filter fun z => z.peer ≠ p) ++ [advanceSession (sessionWith s p) msg] }) p others := by
  have h : (decide (messageNo msg ≠ (sessionWith s p).stage) || !acceptable s (sessionWith s p) msg) = false := by simp [hst, hacc]
  unfold sessionMessage
  dsimp only
  rw [if_neg (by omega), if_neg (by omega), if_neg (by rw [h]; decide)]

omit hm in
/-- R87. A session that fails is gone, and an admission in progress with it. -/
theorem sessionFails_gone (hp : p < 64) : (∀ y ∈ (sessionFails s p).eq.sessions, y.peer ≠ p) ∧
    (s.eq.joining = true → (sessionFails s p).eq.joining = false ∧ (sessionFails s p).eq.dstate = 4) := by
  unfold sessionFails
  dsimp only
  split
  · next h =>
    have hj : s.eq.joining = false := Or.resolve_right (by simpa using h) (by omega)
    refine ⟨fun y hy => by simpa using (List.mem_filter.mp hy).2, fun h => ?_⟩
    rw [hj] at h
    cases h
  · have hkeep : ∀ (l : List Session) (t : State), (l.foldl (fun s x => emit s (.spdm x.peer .endSession)) t).eq = t.eq :=
      fun l t => foldl_keeps (f := fun s (x : Session) => emit s (.spdm x.peer .endSession)) State.eq (fun _ _ => rfl) l t
    rw [hkeep]
    refine ⟨fun y hy => ?_, fun _ => ⟨rfl, rfl⟩⟩
    have := (List.mem_filter.mp hy).1
    simpa using (List.mem_filter.mp this).2

/-- R84. A message in its place: the answer or the next request goes out, and the session is a stage further. -/
theorem sessionMessage_advances (hp : p < 64) (hst : messageNo msg = (sessionWith s p).stage)
    (hacc : acceptable s (sessionWith s p) msg = true) (others : Bool) :
    let t := sessionMessage s p msg others
    (s.eq.pkg < p → messageNo msg < 7 → t.Sent (.spdm p (ownMessage (messageNo msg + 1)))) ∧
    (p < s.eq.pkg → t.Sent (.spdm p (ownMessage (messageNo msg)))) ∧ advanceSession (sessionWith s p) msg ∈ t.eq.sessions := by
  dsimp only
  have hpeer := sessionWith_peer s p
  obtain ⟨hnext, hanswer⟩ := replyTo_sends (s := s) (n := messageNo msg) (hpeer.symm ▸ hp)
  rw [hpeer] at hnext hanswer
  rw [sessionMessage_accepts hm hst hacc]
  refine ⟨fun hlow hn => sent_admitPeer (by exact hnext hlow hn) .., fun hhigh => sent_admitPeer (by exact hanswer hhigh) .., ?_⟩
  rw [Equator.of_settled (settled_admitPeer ..) Equator.sessions]
  exact List.mem_append_right _ (List.mem_singleton.mpr rfl)

end

/-! ### Joining (R87) -/

section
variable {s : State} {m : OutMsg}

/-- R84, R87. What opening a session does: sessions stay, one with the peer stands, and a lower PKG has asked where it was new. -/
theorem openSession_opens (s : State) (p : Nat) : (openSession s p).eq.joining = s.eq.joining ∧ (openSession s p).eq.pkg = s.eq.pkg ∧
    (∀ x ∈ s.eq.sessions, x ∈ (openSession s p).eq.sessions) ∧
    (∀ x ∈ (openSession s p).eq.sessions, x ∈ s.eq.sessions ∨ x.peer = p) ∧
    (∃ x ∈ (openSession s p).eq.sessions, x.peer = p) ∧
    ((∀ x ∈ s.eq.sessions, x.peer ≠ p) → s.eq.pkg < p → (openSession s p).Sent (.spdm p (.getVersion true))) := by
  unfold openSession
  split
  · next h =>
    obtain ⟨x, hx, hp⟩ := List.any_eq_true.mp h
    have hp : x.peer = p := by simpa using hp
    exact ⟨rfl, rfl, fun x hx => hx, fun x hx => .inl hx, ⟨x, hx, hp⟩, fun hno => absurd hp (hno x hx)⟩
  · dsimp only
    have hnew : ∀ e : Equator, e.sessions = s.eq.sessions ++ [newSession s p] → (∀ x ∈ s.eq.sessions, x ∈ e.sessions) ∧
        (∀ x ∈ e.sessions, x ∈ s.eq.sessions ∨ x.peer = p) ∧ ∃ x ∈ e.sessions, x.peer = p := by
      intro e he
      rw [he]
      refine ⟨fun x hx => List.mem_append_left _ hx, fun x hx => ?_, newSession s p, by simp, rfl⟩
      rcases List.mem_append.mp hx with hx | hx
      · exact .inl hx
      · rw [List.mem_singleton.mp hx]
        exact .inr rfl
    split
    · obtain ⟨hold, hall, hone⟩ := hnew { s.eq with sessions := s.eq.sessions ++ [newSession s p] } rfl
      exact ⟨rfl, rfl, hold, hall, hone, fun _ _ => sent_emit_same ..⟩
    · next hge =>
      obtain ⟨hold, hall, hone⟩ := hnew { s.eq with sessions := s.eq.sessions ++ [newSession s p] } rfl
      exact ⟨rfl, rfl, hold, hall, hone, fun _ hlt => absurd hlt hge⟩

theorem sent_openSession (hs : s.Sent m) (p : Nat) : (openSession s p).Sent m := by
  unfold openSession
  dsimp only
  split
  · exact hs
  split
  · exact sent_emit (by exact hs) _
  · exact hs

/-- R87. The sessions that a joiner opens, one after another. -/
theorem openSessions_open (l : List Nat) (s : State) :
    let t := l.foldl openSession s
    t.eq.joining = s.eq.joining ∧ (∀ x ∈ s.eq.sessions, x ∈ t.eq.sessions) ∧
      ∀ i ∈ l, (∃ x ∈ t.eq.sessions, x.peer = i) ∧
        ((∀ x ∈ s.eq.sessions, x.peer ≠ i) → s.eq.pkg < i → t.Sent (.spdm i (.getVersion true))) := by
  induction l generalizing s with
  | nil => exact ⟨rfl, fun x hx => hx, fun i hi => absurd hi List.not_mem_nil⟩
  | cons p l ih =>
    obtain ⟨hjoin, hpkg, hold, hall, ⟨y, hy, hyp⟩, hask⟩ := openSession_opens s p
    obtain ⟨ijoin, iold, iall⟩ := ih (openSession s p)
    refine ⟨ijoin.trans hjoin, fun x hx => iold x (hold x hx), fun i hi => ?_⟩
    by_cases hip : i = p
    · subst hip
      exact ⟨⟨y, iold y hy, hyp⟩, fun hno hlt => sent_foldl (fun s x hs => sent_openSession hs x) l (hask hno hlt)⟩
    · obtain ⟨hone, hsent⟩ := iall i ((List.mem_cons.mp hi).resolve_left hip)
      refine ⟨hone, fun hno hlt => hsent (fun x hx => ?_) (hpkg.symm ▸ hlt)⟩
      rcases hall x hx with hx | hx
      · exact hno x hx
      · exact hx ▸ Ne.symm hip

/-- The members that have answered, but for this package. -/
theorem mem_peers {mask : BitVec 64} {own i : Nat} :
    i ∈ (bitsSet mask.toNat 64).filter (· ≠ own) ↔ i < 64 ∧ mask.getLsbD i = true ∧ i ≠ own := by
  rw [List.mem_filter, mem_bitsSet, BitVec.testBit_toNat, decide_eq_true_eq, and_assoc]

theorem joinTimeout_opens (hj : s.eq.joining = true) (h : ∃ i, i < 64 ∧ s.arg.members.getLsbD i = true ∧ i ≠ s.eq.pkg) :
    exec .joinTimeout s = .next (((bitsSet s.arg.members.toNat 64).filter (· ≠ s.eq.pkg)).foldl openSession s) := by
  obtain ⟨i, hi⟩ := h
  have hne : (!((bitsSet s.arg.members.toNat 64).filter (· ≠ s.eq.pkg)).isEmpty) = true := by
    rw [Bool.not_eq_true', List.isEmpty_eq_false_iff_exists_mem]
    exact ⟨i, mem_peers.mpr hi⟩
  have he : exec .joinTimeout s = execJoinTimeout s := rfl
  rw [he, execJoinTimeout]
  simp only [hj, hne, Bool.not_true, Bool.false_eq_true, if_false, if_true]

theorem joinTimeout_alone (hj : s.eq.joining = true) (h : ∀ i, i < 64 → s.arg.members.getLsbD i = true → i = s.eq.pkg)
    (hs : ∀ x ∈ s.eq.sessions, 64 ≤ x.peer) : exec .joinTimeout s = .next { s with eq := { s.eq with
      joining := false, members := maskOf s.eq.pkg, leader := s.eq.pkg, epoch := 1#32, dstate := 2 } } := by
  have hnil : (bitsSet s.arg.members.toNat 64).filter (· ≠ s.eq.pkg) = [] := by
    refine List.eq_nil_iff_forall_not_mem.mpr fun i hi => ?_
    obtain ⟨hi, hm, hne⟩ := mem_peers.mp hi
    exact hne (h i hi hm)
  have hany : (s.eq.sessions.any fun x => decide (x.peer < 64)) = false := by simpa using hs
  have he : exec .joinTimeout s = execJoinTimeout s := rfl
  rw [he, execJoinTimeout]
  simp only [hj, hnil, hany, List.isEmpty_nil, Bool.not_true, Bool.false_eq_true, if_false]
  rfl

/-! ### Heartbeats (R94) -/

theorem heartbeat_sends (h : ∃ x ∈ s.eq.sessions, x.peer = s.arg.index ∧ x.up = true) :
    exec .heartbeat s = .next { s with out := s.out ++ [.spdm s.arg.index .heartbeat] } := by
  refine if_pos (List.any_eq_true.mpr ?_)
  obtain ⟨x, hx, hp, hup⟩ := h
  exact ⟨x, hx, by simp [hp, hup]⟩

theorem heartbeatMiss_counts {x : Session} (h : (s.eq.sessions.find? fun x => x.peer = s.arg.index && x.up) = some x) :
    exec .heartbeatMiss s =
      let t := modSession s s.arg.index fun x => { x with missed := x.missed + 1 }
      if x.missed + 1 = 3 then .next (departed t s.arg.index) else .next t := by
  have he : exec .heartbeatMiss s = execHeartbeatMiss s := rfl
  rw [he, execHeartbeatMiss]
  simp only [h]

end

end Sys2Proof.Machine

namespace Sys2Proof.Machine

/-! ## The keys of a new epoch (R88, R92) -/

section
variable {slot i : Nat} {epoch : BitVec 32} {e : Equator}

theorem pairNo_inj {i j i' j' : Nat} (hj : j < 64) (hj' : j' < 64) (h : pairNo slot i j = pairNo slot i' j') : i = i' ∧ j = j' := by
  unfold pairNo at h
  omega

/-- R88. The two keys that a package shares with the peer of a session, in a key slot. -/
def addPair (slot i : Nat) (epoch : BitVec 32) (e : Equator) (x : Session) : Equator :=
  { e with keys := Map.set (Map.set e.keys (pairNo slot i x.peer) (hkdfExpand x.secret (keyInfo i x.peer epoch)))
                     (pairNo slot x.peer i) (hkdfExpand x.secret (keyInfo x.peer i epoch)) }

/-- The sessions whose peers receive keys at a re-key. -/
def keyed (e : Equator) (r : Rekeying) : List Session :=
  e.sessions.filter fun x => x.up && x.peer < 64 && r.members.getLsbD x.peer && x.peer ≠ e.pkg

theorem deriveKeys_member {r : Rekeying} (h : r.members.getLsbD e.pkg = true) :
    deriveKeys e r = (keyed e r).foldl (addPair (idleSlot e) e.pkg r.epoch) (zeroSlot e (idleSlot e)) := by
  refine if_neg ?_
  rw [h]
  decide

/-- A key slot's two keys of a pair are those of one session. -/
def PairKeys (slot i : Nat) (epoch : BitVec 32) (e : Equator) (x : Session) : Prop :=
  Map.find e.keys (pairNo slot i x.peer) = some (hkdfExpand x.secret (keyInfo i x.peer epoch)) ∧
    Map.find e.keys (pairNo slot x.peer i) = some (hkdfExpand x.secret (keyInfo x.peer i epoch))

theorem pairKeys_addPair_same {x : Session} (hi : i < 64) (hx : x.peer < 64) (hne : x.peer ≠ i) :
    PairKeys slot i epoch (addPair slot i epoch e x) x := by
  have hdiff : pairNo slot x.peer i ≠ pairNo slot i x.peer := fun h => hne (pairNo_inj hi hx h).1
  constructor
  · rw [addPair, Map.find_set, if_neg hdiff, Map.find_set, if_pos rfl]
  · rw [addPair, Map.find_set, if_pos rfl]

theorem pairKeys_addPair_other {x y : Session} (hi : i < 64) (hx : x.peer < 64) (hy : y.peer < 64) (hyi : y.peer ≠ i)
    (hxi : x.peer ≠ i) (hxy : y.peer ≠ x.peer) (h : PairKeys slot i epoch e x) : PairKeys slot i epoch (addPair slot i epoch e y) x := by
  obtain ⟨hto, hfrom⟩ := h
  constructor
  · rw [addPair, Map.find_set, if_neg fun h => hyi (pairNo_inj hi hx h).1, Map.find_set,
      if_neg fun h => hxy (pairNo_inj hy hx h).2, hto]
  · rw [addPair, Map.find_set, if_neg fun h => hxy (pairNo_inj hi hi h).1, Map.find_set,
      if_neg fun h => hxi (pairNo_inj hy hi h).1.symm, hfrom]

/-- Whatever order the sessions are in, a peer that one session names has that session's keys at the end. -/
theorem pairKeys_foldl {x : Session} {l : List Session} (hi : i < 64) (hl : ∀ y ∈ l, y.peer < 64 ∧ y.peer ≠ i) (hx : x ∈ l)
    (huniq : ∀ y ∈ l, y.peer = x.peer → y = x) : PairKeys slot i epoch (l.foldl (addPair slot i epoch) e) x := by
  obtain ⟨hx64, hxi⟩ := hl x hx
  induction l using List.reverseRecOn with
  | nil => exact absurd hx List.not_mem_nil
  | append_singleton l y ih =>
    rw [List.foldl_append, List.foldl_cons, List.foldl_nil]
    obtain ⟨hy64, hyi⟩ := hl y (by simp)
    by_cases hyx : y.peer = x.peer
    · obtain rfl := huniq y (by simp) hyx
      exact pairKeys_addPair_same hi hx64 hxi
    · refine pairKeys_addPair_other hi hx64 hy64 hyi hxi hyx (ih ?_ ?_ ?_)
      · exact fun z hz => hl z (List.mem_append_left _ hz)
      · exact (List.mem_append.mp hx).resolve_right fun h => hyx (by rw [List.mem_singleton.mp h])
      · exact fun z hz => huniq z (List.mem_append_left _ hz)

theorem deriveKeys_gives {r : Rekeying} {x : Session} (hown : r.members.getLsbD e.pkg = true) (hx : x ∈ e.sessions) (hup : x.up = true)
    (h64 : x.peer < 64) (hmem : r.members.getLsbD x.peer = true) (hne : x.peer ≠ e.pkg)
    (huniq : ∀ y ∈ e.sessions, y.peer = x.peer → y = x) (hi : e.pkg < 64) :
    PairKeys (idleSlot e) e.pkg r.epoch (deriveKeys e r) x := by
  rw [deriveKeys_member hown]
  refine pairKeys_foldl hi (fun y hy => ?_) ?_ fun y hy => huniq y (List.mem_filter.mp hy).1
  · have := (List.mem_filter.mp hy).2
    simp only [Bool.and_eq_true, decide_eq_true_eq] at this
    exact ⟨this.1.1.2, this.2⟩
  · refine List.mem_filter.mpr ⟨hx, ?_⟩
    simp [hup, h64, hmem, hne]

end

/-! ## The passes of a re-key (R91 to R93) -/

section
variable {s : State}

/-- R91. The packages that a mask adds and those that it drops, taken together, are the mask again. -/
theorem joins_leaves (M A : BitVec 64) : (M ||| (A &&& ~~~M)) &&& ~~~(M &&& ~~~A) = A := by
  ext i hi
  simp only [BitVec.getElem_and, BitVec.getElem_or, BitVec.getElem_not]
  cases M[i] <;> cases A[i] <;> rfl

theorem startRekey_idle (h : s.eq.rekey = none) (joins leaves : BitVec 64) :
    startRekey s joins leaves = beginRekey s s.eq.pkg (s.eq.epoch + 1) ((s.eq.members ||| joins) &&& ~~~leaves) := by
  simp [startRekey, h]

/-- R92. Pass 2 at a member: the derivation has begun, and the sessions with departing members are gone. -/
theorem mem_beginDerivation (s : State) (r : Rekeying) (x : Session) :
    x ∈ (beginDerivation s r).eq.sessions ↔ x ∈ s.eq.sessions ∧ (64 ≤ x.peer ∨ r.members.getLsbD x.peer = true) := by
  refine List.mem_filter.trans ?_
  simp [modEq, setPass]

theorem resumeDomain_member {r : Rekeying} (h : r.members.getLsbD s.eq.pkg = true) :
    let t := resumeDomain s r
    t.eq.rekey = none ∧ t.eq.members = r.members ∧ t.eq.epoch = r.epoch ∧ t.eq.ksb = (!s.eq.ksb) ∧ t.eq.dstate = 2 ∧
      t.inbox = s.inbox ++ s.eq.waitingCmds.map fun p => (15, p) := by
  unfold resumeDomain
  dsimp only
  rw [if_pos h]
  exact ⟨rfl, rfl, rfl, rfl, rfl, rfl⟩

theorem resumeDomain_ksb (s : State) (r : Rekeying) : (resumeDomain s r).eq.ksb = !s.eq.ksb := by
  unfold resumeDomain
  dsimp only
  split <;> rfl

theorem nextRekey_nil (h : s.eq.queued = []) (r : Rekeying) : nextRekey s r [] = modEq s fun e => { e with rekey := none } := by
  have hq : ({ s.eq with queued := [], rekey := none } : Equator) = { s.eq with rekey := none } := by rw [← h]
  unfold nextRekey
  dsimp only [List.foldl_nil]
  rw [ite_self, modEq, hq]
  rfl

theorem nextRekey_cons (h : memberOf s s.eq.pkg = true) (r : Rekeying) (m : BitVec 64 × BitVec 64) (rest : List (BitVec 64 × BitVec 64)) :
    nextRekey s r (m :: rest) = modEq (beginRekey (modEq s fun e => { e with queued := [], rekey := none }) s.eq.pkg (s.eq.epoch + 1)
      ((s.eq.members ||| m.1) &&& ~~~m.2)) fun e => { e with queued := rest } := by
  unfold nextRekey
  dsimp only
  rw [if_pos (by exact h), startRekey_idle (by rfl)]
  rfl

/-! ### REKEY at a member that stands in no re-key -/

theorem rekey_asks (hr : s.eq.rekey = none) (hep : s.arg.epoch = s.eq.epoch) (hm : memberOf s s.eq.pkg = true)
    (hl : s.eq.leader ≠ s.eq.pkg) :
    exec .rekey s = .next { s with out := s.out ++ [.token 1 s.arg.leader s.arg.epoch s.arg.members] } := by
  have he : exec .rekey s = execRekey s := rfl
  rw [he, execRekey]
  simp [hr, hep, hm, isLeader, hl, emit]

theorem rekey_leads (hr : s.eq.rekey = none) (hep : s.arg.epoch = s.eq.epoch) (hm : memberOf s s.eq.pkg = true)
    (hl : s.eq.leader = s.eq.pkg) : exec .rekey s = .next (beginRekey s s.eq.pkg (s.eq.epoch + 1) s.arg.members) := by
  have he : exec .rekey s = execRekey s := rfl
  rw [he, execRekey]
  simp [hr, hep, hm, isLeader, hl, startRekey_idle hr, joins_leaves]

theorem rekey_follows (hr : s.eq.rekey = none) (hep : s.arg.epoch ≠ s.eq.epoch)
    (hm : memberOf s s.eq.pkg = true ∨ s.arg.members.getLsbD s.eq.pkg = true) : exec .rekey s = .next (beginRekey
      (tokenCame s (s.eq.members ||| s.arg.members) (activeSlot s.eq)) s.arg.leader.toNat s.arg.epoch s.arg.members) := by
  have he : exec .rekey s = execRekey s := rfl
  rw [he, execRekey]
  simp [hr, hep, hm]

/-! ### A re-key in progress -/

variable {r : Rekeying} (hr : s.eq.rekey = some r)
include hr

theorem rekey_returns (hl : r.leader = s.eq.pkg) (hp : r.pass = 2) (hep : s.arg.epoch = r.epoch) : exec .rekey s =
    .next (beginDerivation (tokenCame s (s.eq.members ||| s.arg.members) (activeSlot s.eq)) r) := by
  have he : exec .rekey s = execRekey s := rfl
  rw [he, execRekey]
  simp only [hr, hl, hp, hep, if_true]

theorem rekeyDrainTimeout_ends (hp : r.pass = 1) (ht : r.since + 100000 ≤ s.chron) : exec .rekeyDrainTimeout s = .next (sendToken
    (setPass (dropForeign (failRequests s (fun _ => true) 7) fun p => isResponse p.kind) r 2) 1 r) := by
  have he : exec .rekeyDrainTimeout s = execRekeyDrainTimeout s := rfl
  rw [he, execRekeyDrainTimeout]
  simp [hr, hp, ht]

theorem keyed_derives (hl : r.leader ≠ s.eq.pkg) (hp : r.pass = 2) (hep : s.arg.epoch = r.epoch) :
    exec .keyed s = .next (beginDerivation (tokenCame s r.ring (activeSlot s.eq)) r) := by
  have he : exec .keyed s = execKeyed s := rfl
  rw [he, execKeyed]
  simp [hr, hl, hp, hep]

theorem keyed_goesOn (hl : r.leader ≠ s.eq.pkg) (hp : r.pass = 4) (hep : s.arg.epoch = r.epoch) :
    exec .keyed s = .next (sendToken (tokenCame s r.ring (activeSlot s.eq)) 2 r) := by
  have he : exec .keyed s = execKeyed s := rfl
  rw [he, execKeyed]
  simp [hr, hl, hp, hep]

theorem keyed_returns (hl : r.leader = s.eq.pkg) (hp : r.pass = 4) (hep : s.arg.epoch = r.epoch) : exec .keyed s =
    .next (sendToken (modEq (resumeDomain (tokenCame s r.ring (activeSlot s.eq)) r) fun e =>
      { e with rekey := some { r with pass := 5 }, queued := s.eq.queued }) 3 r) := by
  have he : exec .keyed s = execKeyed s := rfl
  rw [he, execKeyed]
  simp [hr, hl, hp, hep]

theorem keyDerived_goesOn (hp : r.pass = 3) :
    exec .keyDerived s = .next (sendToken (setPass (modEq s fun e => deriveKeys e r) r 4) 2 r) := by
  have he : exec .keyDerived s = execKeyDerived s := rfl
  rw [he, execKeyDerived]
  simp only [hr, hp, if_true]

theorem resume_goesOn (hl : r.leader ≠ s.eq.pkg) (hp : r.pass = 4) (hep : s.arg.epoch = r.epoch) :
    exec .resume s = .next (sendToken (resumeDomain (tokenCame s r.ring (idleSlot s.eq)) r) 3 r) := by
  have he : exec .resume s = execResume s := rfl
  rw [he, execResume]
  simp [hr, hl, hp, hep]

theorem resume_returns (hl : r.leader = s.eq.pkg) (hp : r.pass = 5) (hep : s.arg.epoch = r.epoch) :
    exec .resume s = .next (nextRekey (tokenCame s r.ring (activeSlot s.eq)) r s.eq.queued) := by
  have he : exec .resume s = execResume s := rfl
  rw [he, execResume]
  simp [hr, hl, hp, hep]

end

end Sys2Proof.Machine

namespace Sys2Proof.Machine

/-! ## O52: the trust domain's events (R84 to R95) -/

section
variable {s : State}

/-! ### Sessions -/

theorem heartbeat_clears (s : State) (p : Nat) (others : Bool) :
    ∀ y ∈ (admitPeer (modSession s p fun x => { x with missed := 0 }) p others).eq.sessions, y.peer = p → y.missed = 0 := by
  intro y hy hp
  rw [Equator.of_settled (settled_admitPeer ..) Equator.sessions] at hy
  obtain ⟨x, -, rfl⟩ := List.mem_map.mp hy
  split at hp
  · next h => rw [if_pos h]
  · next h => exact absurd hp h

theorem spdmMessage_gives {t : State} {P : State → Prop} (h : sessionMessage s (s.arg.index % 64) s.arg.msg s.arg.ok = t) (ht : P t) :
    Gives .spdmMessage s P := by
  subst h
  exact ⟨_, rfl, ht⟩

theorem hostSpdmRequest_accepts (hn : messageNo s.arg.msg < 8) (hst : messageNo s.arg.msg = (sessionWith s 64).stage)
    (hacc : acceptable s (sessionWith s 64) s.arg.msg = true) : exec .hostSpdmRequest s = .next { s with eq := { s.eq with
      sessions := (s.eq.sessions.filter fun z => z.peer ≠ 64) ++ [advanceSession (sessionWith s 64) s.arg.msg] } } := by
  have he : exec .hostSpdmRequest s = .next (sessionMessage s 64 s.arg.msg false) := rfl
  rw [he, sessionMessage_accepts hn hst hacc, admitPeer_host, replyTo_host (sessionWith_peer s 64)]
  rfl

theorem spdmMessage_advances (hn : messageNo s.arg.msg < 8) (hst : messageNo s.arg.msg = (sessionWith s (s.arg.index % 64)).stage)
    (hacc : acceptable s (sessionWith s (s.arg.index % 64)) s.arg.msg = true) :
    let p := s.arg.index % 64
    let n := messageNo s.arg.msg
    Gives .spdmMessage s fun t => (s.eq.pkg < p → n < 7 → t.Sent (.spdm p (ownMessage (n + 1)))) ∧
      (p < s.eq.pkg → t.Sent (.spdm p (ownMessage n))) ∧ ∃ y ∈ t.eq.sessions, y.peer = p ∧
        y.stage = (sessionWith s p).stage + 1 ∧ ∀ key, s.arg.msg = .finish key → y.up = true ∧ y.secret = key := by
  obtain ⟨hnext, hanswer, hin⟩ := sessionMessage_advances hn (Nat.mod_lt _ (by decide)) hst hacc s.arg.ok
  obtain ⟨hpeer, hstage⟩ := advanceSession_peer (sessionWith s (s.arg.index % 64)) s.arg.msg
  refine ⟨_, rfl, hnext, hanswer, _, hin, hpeer.trans (sessionWith_peer ..), hstage, fun key hkey => ?_⟩
  rw [hkey]
  exact ⟨rfl, rfl⟩

theorem joinTimeout_gives (hj : s.eq.joining = true) (h : ∃ i, i < 64 ∧ s.arg.members.getLsbD i = true ∧ i ≠ s.eq.pkg) :
    Gives .joinTimeout s fun t => t.eq.joining = true ∧ ∀ i, i < 64 → s.arg.members.getLsbD i = true → i ≠ s.eq.pkg →
      (∃ x ∈ t.eq.sessions, x.peer = i) ∧
        ((∀ x ∈ s.eq.sessions, x.peer ≠ i) → s.eq.pkg < i → t.Sent (.spdm i (.getVersion true))) := by
  obtain ⟨hjoin, -, hall⟩ := openSessions_open ((bitsSet s.arg.members.toNat 64).filter (· ≠ s.eq.pkg)) s
  exact ⟨_, joinTimeout_opens hj h, hjoin.trans hj, fun i hi hm hne => hall i (mem_peers.mpr ⟨hi, hm, hne⟩)⟩

/-! ### Re-keys that begin -/

/-- R92. A re-key that a member has begun and that has not gone past REKEY. -/
def Begun (leader : Nat) (epoch : BitVec 32) (members : BitVec 64) (t : State) (r : Rekeying) : Prop :=
  r.leader = leader ∧ r.epoch = epoch ∧ r.members = members ∧ (r.pass = 1 ∨ r.pass = 2 ∧ Tells 1 r t)

theorem beginRekey_begun (s : State) (leader : Nat) (epoch : BitVec 32) (members : BitVec 64) :
    ∃ r, (beginRekey s leader epoch members).eq.rekey = some r ∧ Begun leader epoch members (beginRekey s leader epoch members) r := by
  obtain ⟨r, heq, hr⟩ := beginRekey_begins s leader epoch members
  exact ⟨r, Equator.of_lasting heq Equator.rekey, hr⟩

theorem dstate_beginRekey (h : memberOf s s.eq.pkg = true) (leader : Nat) (epoch : BitVec 32) (members : BitVec 64) :
    (beginRekey s leader epoch members).eq.dstate = 3 := by
  obtain ⟨r, heq, -⟩ := beginRekey_begins s leader epoch members
  exact (Equator.of_lasting heq Equator.dstate).trans (if_pos h)

theorem rekey_leads_gives (hr : s.eq.rekey = none) (hep : s.arg.epoch = s.eq.epoch) (hm : memberOf s s.eq.pkg = true)
    (hl : s.eq.leader = s.eq.pkg) : Gives .rekey s fun t => ∃ r, t.eq.rekey = some r ∧ r.leader = s.eq.pkg ∧
      r.epoch = s.eq.epoch + 1 ∧ r.members = s.arg.members ∧ t.eq.dstate = 3 ∧ (r.pass = 1 ∨ r.pass = 2 ∧ Tells 1 r t) := by
  obtain ⟨r, hsome, hlead, hepoch, hmem, hpass⟩ := beginRekey_begun s s.eq.pkg (s.eq.epoch + 1) s.arg.members
  exact ⟨_, rekey_leads hr hep hm hl, r, hsome, hlead, hepoch, hmem, dstate_beginRekey hm .., hpass⟩

/-! ### A re-key's passes -/

variable {r : Rekeying} (hr : s.eq.rekey = some r)

section
include hr

theorem rekey_returns_gives (hl : r.leader = s.eq.pkg) (hp : r.pass = 2) (hep : s.arg.epoch = r.epoch) :
    Gives .rekey s fun t => t.eq.rekey = some { r with pass := 3 } ∧
      ∀ x, x ∈ t.eq.sessions ↔ x ∈ s.eq.sessions ∧ (64 ≤ x.peer ∨ r.members.getLsbD x.peer = true) := by
  obtain ⟨c, hc⟩ := tokenCame_eq s (s.eq.members ||| s.arg.members) (activeSlot s.eq)
  refine ⟨_, rekey_returns hr hl hp hep, rfl, fun x => ?_⟩
  rw [mem_beginDerivation, hc]

theorem rekeyDrainTimeout_gives (hp : r.pass = 1) (ht : r.since + 100000 ≤ s.chron) :
    Gives .rekeyDrainTimeout s fun t => t.eq.requests = [] ∧ t.eq.rekey = some { r with pass := 2 } ∧ Tells 1 { r with pass := 2 } t := by
  refine ⟨_, rekeyDrainTimeout_ends hr hp ht, ?_, Equator.of_lasting (lasting_sendToken ..) Equator.rekey, sendToken_tells ..⟩
  obtain ⟨c, hc⟩ := sendToken_eq 1 r (setPass (dropForeign (failRequests s (fun _ => true) 7) fun p => isResponse p.kind) r 2)
  rw [hc]
  refine (Equator.of_unheld (unheld_failRequests s (fun _ => true) 7) Equator.requests).trans ?_
  simp

theorem keyed_goesOn_gives (hl : r.leader ≠ s.eq.pkg) (hp : r.pass = 4) (hep : s.arg.epoch = r.epoch) :
    Gives .keyed s fun t => t.eq.rekey = some r ∧ Tells 2 r t := by
  obtain ⟨c, hc⟩ := tokenCame_eq s r.ring (activeSlot s.eq)
  refine ⟨_, keyed_goesOn hr hl hp hep, ?_, sendToken_tells ..⟩
  rw [Equator.of_lasting (lasting_sendToken ..) Equator.rekey, hc]
  exact hr

theorem keyed_returns_gives (hl : r.leader = s.eq.pkg) (hp : r.pass = 4) (hep : s.arg.epoch = r.epoch) :
    Gives .keyed s fun t => t.eq.rekey = some { r with pass := 5 } ∧ t.eq.ksb = (!s.eq.ksb) ∧ Tells 3 r t := by
  obtain ⟨c, hc⟩ := tokenCame_eq s r.ring (activeSlot s.eq)
  refine ⟨_, keyed_returns hr hl hp hep, Equator.of_lasting (lasting_sendToken ..) Equator.rekey, ?_, sendToken_tells ..⟩
  refine (Equator.of_lasting (lasting_sendToken ..) Equator.ksb).trans ((resumeDomain_ksb _ r).trans ?_)
  rw [hc]

theorem keyDerived_gives (hp : r.pass = 3) : Gives .keyDerived s fun t =>
    t.eq.rekey = some { r with pass := 4 } ∧ Tells 2 { r with pass := 4 } t ∧
      ∀ x ∈ s.eq.sessions, r.members.getLsbD s.eq.pkg = true → x.up = true → x.peer < 64 → r.members.getLsbD x.peer = true →
        x.peer ≠ s.eq.pkg → (∀ y ∈ s.eq.sessions, y.peer = x.peer → y = x) → s.eq.pkg < 64 →
          PairKeys (idleSlot s.eq) s.eq.pkg r.epoch t.eq x := by
  refine ⟨_, keyDerived_goesOn hr hp, Equator.of_lasting (lasting_sendToken ..) Equator.rekey, sendToken_tells .., ?_⟩
  intro x hx hown hup h64 hmem hne huniq hi
  rw [PairKeys, Equator.of_lasting (lasting_sendToken ..) Equator.keys]
  exact deriveKeys_gives hown hx hup h64 hmem hne huniq hi

theorem resume_goesOn_gives (hl : r.leader ≠ s.eq.pkg) (hp : r.pass = 4) (hep : s.arg.epoch = r.epoch)
    (hown : r.members.getLsbD s.eq.pkg = true) : Gives .resume s fun t => t.eq.rekey = none ∧ t.eq.members = r.members ∧
      t.eq.epoch = r.epoch ∧ t.eq.ksb = (!s.eq.ksb) ∧ t.eq.dstate = 2 ∧ Tells 3 r t ∧
      t.inbox = s.inbox ++ s.eq.waitingCmds.map fun p => (15, p) := by
  obtain ⟨c, hc⟩ := tokenCame_eq s r.ring (idleSlot s.eq)
  have hu := lasting_sendToken 3 r (resumeDomain (tokenCame s r.ring (idleSlot s.eq)) r)
  obtain ⟨hrekey, hmem, hepoch, hksb, hstate, hinbox⟩ := resumeDomain_member (s := tokenCame s r.ring (idleSlot s.eq)) (by rw [hc]; exact hown)
  refine ⟨_, resume_goesOn hr hl hp hep, (Equator.of_lasting hu Equator.rekey).trans hrekey, (Equator.of_lasting hu Equator.members).trans hmem,
    (Equator.of_lasting hu Equator.epoch).trans hepoch, (Equator.of_lasting hu Equator.ksb).trans (hksb.trans ?_),
    (Equator.of_lasting hu Equator.dstate).trans hstate, sendToken_tells .., (inbox_sendToken ..).trans (hinbox.trans ?_)⟩
  · rw [hc]
  · rw [hc]

theorem resume_ends (hl : r.leader = s.eq.pkg) (hp : r.pass = 5) (hep : s.arg.epoch = r.epoch) (hq : s.eq.queued = []) :
    exec .resume s = .next (modEq (tokenCame s r.ring (activeSlot s.eq)) fun e => { e with rekey := none }) := by
  obtain ⟨c, hc⟩ := tokenCame_eq s r.ring (activeSlot s.eq)
  rw [resume_returns hr hl hp hep, hq, nextRekey_nil (by rw [hc]; exact hq)]

theorem resume_next_gives {m : BitVec 64 × BitVec 64} {rest : List (BitVec 64 × BitVec 64)} (hl : r.leader = s.eq.pkg)
    (hp : r.pass = 5) (hep : s.arg.epoch = r.epoch) (hq : s.eq.queued = m :: rest) (hm : memberOf s s.eq.pkg = true) :
    Gives .resume s fun t => t.eq.queued = rest ∧ ∃ r', t.eq.rekey = some r' ∧ r'.leader = s.eq.pkg ∧ r'.epoch = s.eq.epoch + 1 ∧
      r'.members = (s.eq.members ||| m.1) &&& ~~~m.2 := by
  obtain ⟨c, hc⟩ := tokenCame_eq s r.ring (activeSlot s.eq)
  have he := resume_returns hr hl hp hep
  rw [hc, hq, nextRekey_cons (by exact hm)] at he
  obtain ⟨r', hr', hlead, hepoch, hmem, -⟩ := beginRekey_begun
    (modEq { s with eq := { s.eq with expected := c } } fun e => { e with queued := [], rekey := none })
    s.eq.pkg (s.eq.epoch + 1) ((s.eq.members ||| m.1) &&& ~~~m.2)
  exact ⟨_, he, rfl, r', hr', hlead, hepoch, hmem⟩

end

end

/-- Settles O52: each event's outcome is stated through the shared works of the Equator station, of which the lemmas above say what they
leave of its state and what they send. -/
theorem trustDomain : Obligations.TrustDomain := by
  unfold Obligations.TrustDomain
  intro s
  dsimp only
  refine ⟨eqLinkTrainingDone_untrained, eqLinkTrainingDone_gives, eqFramingLoss_gives, fun q => eqResponseTimeout_gives,
    ⟨?heartbeat, ?ended, ?fails, spdmMessage_advances⟩, hostSpdmRequest_accepts, joinTimeout_gives, joinTimeout_alone, heartbeat_sends,
    fun x hx => ⟨fun hmiss => ?_, fun hmiss => ?_⟩, fun hr hep hm => ⟨rekey_asks hr hep hm, rekey_leads_gives hr hep hm⟩,
    fun hr hep hm => ⟨_, rekey_follows hr hep hm, beginRekey_begun ..⟩, fun r hr => ⟨rekey_returns_gives hr, rekeyDrainTimeout_gives hr,
      fun hl hp hep => ⟨_, keyed_derives hr hl hp hep, rfl⟩, keyed_goesOn_gives hr, keyed_returns_gives hr, keyDerived_gives hr,
      resume_goesOn_gives hr, resume_ends hr, fun m rest => resume_next_gives hr⟩⟩
  case heartbeat =>
    exact fun hm hup => spdmMessage_gives (sessionMessage_heartbeat hm hup s.arg.ok) (heartbeat_clears s _ _)
  case ended =>
    exact fun hm => spdmMessage_gives (sessionMessage_end hm s.arg.ok) fun y hy => by simpa using (List.mem_filter.mp hy).2
  case fails =>
    exact fun hn h => spdmMessage_gives (sessionMessage_fails hn h s.arg.ok) (sessionFails_gone (Nat.mod_lt _ (by decide)))
  · exact (heartbeatMiss_counts hx).trans (if_neg hmiss)
  · exact (heartbeatMiss_counts hx).trans (if_pos hmiss)

end Sys2Proof.Machine

namespace Sys2Proof.Machine

/-! ## Taking a precise trap (R175, R190) -/

/-! ### The boundary at which a core stops -/

theorem leaveBarrier_frame (s : State) (key : WpKey) : ∃ b, leaveBarrier s key = { s with barriers := b } := by
  unfold leaveBarrier
  split
  · exact ⟨s.barriers, rfl⟩
  · dsimp only
    split
    · exact ⟨_, rfl⟩
    · exact ⟨s.barriers, rfl⟩

theorem window_retireOldest (k : Core) : (retireOldest k).window = k.window.tail := by
  have harrive (k : Core) (key : Nat) : (arriveResult k key).window = k.window := by
    unfold arriveResult
    dsimp only
    repeat' split
    all_goals rfl
  unfold retireOldest
  cases h : k.window with
  | nil => exact h
  | cons u rest =>
    have hempty (k : Core) (j : Nat) : (markEmpty k (0x90 + j)).window = k.window := rfl
    exact (foldl_keeps Core.window hempty (bitsSet u.consumes.toNat 4) _).trans (foldl_keeps Core.window harrive u.regs _)

theorem window_retireN (n : Nat) (k : Core) : (retireN n k).window = k.window.drop n := by
  induction n generalizing k with
  | zero => rfl
  | succ n ih => rw [retireN, ih, window_retireOldest, List.drop_tail]

/-- R175. At a boundary every earlier execution has retired, and the boundary has its name; the registers and the place stay. -/
theorem nameBoundary_eq (k : Core) : ∃ e p fl, nameBoundary k =
    { k with empty := e, pends := p, flg := fl, window := [], rpi := BitVec.ofNat 64 k.rep, mxs := BitVec.ofNat 64 k.seqStep,
             seqStep := 0 } := by
  obtain ⟨e, p, fl, w, h⟩ := sameButRetired_all k
  have hw : w = [] := calc
    w = (retireAll k).window := by rw [h]
    _ = [] := (window_retireN _ k).trans List.drop_length
  exact ⟨e, p, fl, by rw [nameBoundary, h, hw]⟩

/-- R147, R175. Core c at the boundary where it stands; b are the barriers, its waypoint's arrival withdrawn. -/
def atBoundary (s : State) (c : Nat) (b : List (GroupKey × Barrier)) : State := modCore { s with barriers := b } c nameBoundary

section
variable (s : State) (c : Nat) (b : List (GroupKey × Barrier))

theorem coreOf_atBoundary : coreOf (atBoundary s c b) c = nameBoundary (coreOf s c) := coreOf_modCore_same ..

theorem wp_atBoundary : (coreOf (atBoundary s c b) c).wp = (coreOf s c).wp := by
  obtain ⟨e, p, fl, h⟩ := nameBoundary_eq (coreOf s c)
  rw [coreOf_atBoundary, h]

theorem hm_atBoundary : (coreOf (atBoundary s c b) c).hm = (coreOf s c).hm := by
  obtain ⟨e, p, fl, h⟩ := nameBoundary_eq (coreOf s c)
  rw [coreOf_atBoundary, h]

theorem coreLaunch_atBoundary : coreLaunch (atBoundary s c b) c = coreLaunch s c := by
  rw [coreLaunch, wp_atBoundary]
  rfl

end

/-- R190. A precise trap is taken at the boundary where the core stands. -/
theorem takeTrap_precise (s : State) (c : Nat) {code : BitVec 16} (info : Word) (hmc : isMachineCheck code = false) :
    ∃ b, takeTrap s c { code := code, info := info } = enterHandler (atBoundary s c b) c code info (coreOf s c).pc := by
  have hleft : ∃ b, (if barrierTrap s (coreOf s c).wp { code := code, info := info } then leaveBarrier s (coreOf s c).wp else s) =
      { s with barriers := b } := by
    split
    · exact leaveBarrier_frame ..
    · exact ⟨s.barriers, rfl⟩
  obtain ⟨b, hb⟩ := hleft
  obtain ⟨b', hb'⟩ := withdraw_frame { s with barriers := b } (coreOf s c).wp
  refine ⟨b', ?_⟩
  simp only [takeTrap, hb, hb', hmc, Bool.or_self, Bool.false_eq_true, if_false, Option.elim_none]
  rfl

/-! ### A program with a handler -/

/-- R190. The record of a waypoint that met a trap at a bundle. -/
def faultedAt (at_ : Nat) (w : Waypoint) : Waypoint := { w with state := .faulted, resume := at_ }

/-- R190. A core at the start of its launch's handler. -/
def atHandler (code : BitVec 16) (info : Word) (at_ traph : Nat) (k : Core) : Core :=
  { k with trapc := code.zeroExtend 64, trapi := info, epc := BitVec.ofNat 64 at_, hm := true, mode := .running,
           frozen := k.region.isSome, pc := traph, rep := 0, seqStep := 0, waitUntil := none, held := [],
           sent := [], sentAside := k.sent, aside := k.pends.filter fun p => p.fixed && p.left ≠ 0, remote := [],
           visit := k.visit + 1, stalls := [], ahead := 0, heads := [], latch := [] }

theorem enterHandler_starts {s : State} {c : Nat} (code : BitVec 16) (info : Word) (at_ : Nat) (hm : (coreOf s c).hm = false)
    (ht : (coreLaunch s c).traph ≠ 0) : enterHandler s c code info at_ =
      modCore (modWp s (coreOf s c).wp (faultedAt at_)) c (atHandler code info at_ (coreLaunch s c).traph) := by
  simp only [enterHandler, hm, ht, decide_false, Bool.or_false, Bool.false_eq_true, if_false]
  rfl

theorem enterHandler_ends {s : State} {c : Nat} (code : BitVec 16) (info : Word) (at_ : Nat)
    (h : (coreOf s c).hm = true ∨ (coreLaunch s c).traph = 0) : enterHandler s c code info at_ =
      freeCore (endFaulted (modWp s (coreOf s c).wp (faultedAt at_)) (coreOf s c).wp code at_) c := by
  have : ((coreOf s c).hm || decide ((coreLaunch s c).traph = 0)) = true := by simpa using h
  simp only [enterHandler, this, if_true]
  rfl

/-- R126, R190. The record of core c's waypoint FAULTED at the boundary where the core stands. -/
def faulting (s : State) (c : Nat) (b : List (GroupKey × Barrier)) : State :=
  modWp (atBoundary s c b) (coreOf s c).wp (faultedAt (coreOf s c).pc)

section
variable {s : State} {c : Nat} {code : BitVec 16} (info : Word) (hmc : isMachineCheck code = false)
include hmc

theorem takeTrap_starts (hm : (coreOf s c).hm = false) (ht : (coreLaunch s c).traph ≠ 0) :
    ∃ b, takeTrap s c { code := code, info := info } =
      modCore (faulting s c b) c (atHandler code info (coreOf s c).pc (coreLaunch s c).traph) := by
  obtain ⟨b, h⟩ := takeTrap_precise s c info hmc
  exact ⟨b, by rw [h, enterHandler_starts code info _ ((hm_atBoundary s c b).trans hm) (by rwa [coreLaunch_atBoundary]),
    wp_atBoundary, coreLaunch_atBoundary, faulting]⟩

theorem takeTrap_ends (hnone : (coreOf s c).hm = true ∨ (coreLaunch s c).traph = 0) :
    ∃ b, takeTrap s c { code := code, info := info } =
      freeCore (endFaulted (faulting s c b) (coreOf s c).wp code (coreOf s c).pc) c := by
  obtain ⟨b, h⟩ := takeTrap_precise s c info hmc
  exact ⟨b, by rw [h, enterHandler_ends code info _ (by rwa [hm_atBoundary, coreLaunch_atBoundary]), wp_atBoundary, faulting]⟩

end

/-! ### What the end of a launch takes away -/

/-- No waypoint and no handle stands in t that did not stand in s; a waypoint may be pre-empted. -/
structure Thinned (s t : State) : Prop where
  waypoints : ∀ w ∈ t.waypoints, ∃ w0 ∈ s.waypoints, w = { w0 with preempt := w.preempt }
  handles : ∀ c, ∀ h ∈ (coreOf t c).handles, h ∈ (coreOf s c).handles

theorem Thinned.trans {s t u : State} (h : Thinned s t) (g : Thinned t u) : Thinned s u where
  waypoints w hw := by
    obtain ⟨w1, hw1, he1⟩ := g.waypoints w hw
    obtain ⟨w0, hw0, he0⟩ := h.waypoints w1 hw1
    exact ⟨w0, hw0, he1.trans (by rw [he0])⟩
  handles c x hx := h.handles c x (g.handles c x hx)

/-- R196. A handle left after the release of a waypoint's handles is one of another's. -/
theorem mem_handles_releaseAll {s : State} {key : WpKey} {c : Nat} {h : Nat × Handle} (hm : h ∈ (coreOf (releaseAll s key) c).handles) :
    h ∈ (coreOf s c).handles ∧ h.2.owner ≠ key := by
  obtain ⟨hin, hp⟩ := mem_handles_released hm
  refine ⟨hin, ?_⟩
  by_cases hc : c ∈ s.cores.map (·.1)
  · simpa using hp hc
  · rw [coreOf_unlisted s hc] at hin
    cases hin

theorem discardWp_frame (s : State) (key : WpKey) : ∃ d, discardWp s key =
    { releaseAll s key with waypoints := s.waypoints.filter fun w => w.key ≠ key, disps := d } := by
  have hw : (releaseAll s key).waypoints = s.waypoints := waypoints_of_outline (outline_releaseAll s key)
  unfold discardWp
  dsimp only
  rw [hw]
  split
  · split
    · exact noteEmpty_frame ..
    · exact ⟨_, rfl⟩
  · exact ⟨_, rfl⟩

theorem thinned_discardWp (s : State) (key : WpKey) : Thinned s (discardWp s key) := by
  obtain ⟨d, hd⟩ := discardWp_frame s key
  rw [hd]
  exact ⟨fun w hw => ⟨w, (List.mem_filter.mp hw).1, rfl⟩, fun c h hm => (mem_handles_releaseAll hm).1⟩

/-- R118. A waypoint's pre-emption asked for. -/
theorem thinned_preempted (s : State) (key : WpKey) : Thinned s (modWp s key fun w => { w with preempt := true }) where
  waypoints w hw := by
    obtain ⟨w0, hw0, rfl⟩ := List.mem_map.mp hw
    exact ⟨w0, hw0, by split <;> rfl⟩
  handles _ _ h := h

theorem thinned_endLaunch (s : State) (l : Nat) (how : Ending) : Thinned s (endLaunch s l how) := by
  unfold endLaunch
  refine List.foldlRecOn (motive := Thinned s) _ _ ⟨fun w hw => ⟨w, hw, rfl⟩, fun _ _ h => h⟩ fun t ht w _ => ht.trans ?_
  split
  · exact ⟨(thinned_preempted t w.key).waypoints, fun _ _ h => h⟩
  · exact thinned_discardWp t w.key

theorem findLaunch_endLaunch (s : State) (l : Nat) (how : Ending) : findLaunch (endLaunch s l how) l =
    (findLaunch s l).map fun x => { x with ending := if x.ending = .running then how else x.ending } := by
  rw [findLaunch, launches_endLaunch]
  exact findLaunch_modLaunch_same s l (f := fun x => { x with ending := if x.ending = .running then how else x.ending }) fun _ => rfl

/-! ### A waypoint that ends FAULTED (R115) -/

/-- The record of a waypoint that has ended FAULTED. -/
def endedAt (at_ : Nat) (w : Waypoint) : Waypoint := { w with state := .faulted, resume := at_, fault := none, frame := none, frameAt := none }

/-- R115. A launch with one more fault, of which its first is reported. -/
def countsFault (wpid : Nat) (code : BitVec 16) (at_ : Nat) (l : Launch) : Launch :=
  { l with nfault := l.nfault + 1, everFaulted := true,
           fcode := if l.everFaulted then l.fcode else code.toNat,
           fwaypt := if l.everFaulted then l.fwaypt else wpid,
           faddr := if l.everFaulted then l.faddr else at_ }

/-- R115. A waypoint ended FAULTED and its launch's count of it, before an end of the launch. -/
def faultCounted (s : State) (key : WpKey) (code : BitVec 16) (at_ : Nat) : State :=
  modLaunch (modWp (releaseAll s key) key (endedAt at_)) key.launch (countsFault key.wpid code at_)

/-- A launch with a handler goes on, one without ends. -/
theorem endFaulted_cases (s : State) (key : WpKey) (code : BitVec 16) (at_ : Nat) : ∃ d,
    let t : State := { faultCounted s key code at_ with disps := d }
    endFaulted s key code at_ = t ∨ endFaulted s key code at_ = endLaunch t key.launch .faulted := by
  have hend (t u : State) (h : t = u) :
      (if (launchOf t key.launch).traph = 0 then endLaunch t key.launch .faulted else t) = u ∨
        (if (launchOf t key.launch).traph = 0 then endLaunch t key.launch .faulted else t) = endLaunch u key.launch .faulted := by
    subst h
    split
    · exact .inr rfl
    · exact .inl rfl
  unfold endFaulted
  dsimp only
  split
  · next w hw =>
    split
    · obtain ⟨d, hd⟩ := noteEmpty_frame (modWp (releaseAll s key) key (endedAt at_)) w.holder
      exact ⟨d, hend _ _ (congrArg (fun t => modLaunch t key.launch (countsFault key.wpid code at_)) hd)⟩
    · exact ⟨_, hend _ _ rfl⟩
  · exact ⟨_, hend _ _ rfl⟩

/-- R115, R196. What stands when a waypoint has ended FAULTED stood when it was counted. -/
theorem thinned_endFaulted (s : State) (key : WpKey) (code : BitVec 16) (at_ : Nat) :
    Thinned (faultCounted s key code at_) (endFaulted s key code at_) := by
  obtain ⟨d, h | h⟩ := endFaulted_cases s key code at_
  · rw [h]
    exact ⟨fun w hw => ⟨w, hw, rfl⟩, fun _ _ h => h⟩
  · rw [h]
    obtain ⟨hw, hh⟩ := thinned_endLaunch { faultCounted s key code at_ with disps := d } key.launch .faulted
    exact ⟨hw, hh⟩

/-- R115. Its launch has counted it, and may have ended. -/
theorem findLaunch_endFaulted {s : State} {key : WpKey} {l : Launch} (code : BitVec 16) (at_ : Nat) (hl : findLaunch s key.launch = some l) :
    ∃ e, findLaunch (endFaulted s key code at_) key.launch = some { countsFault key.wpid code at_ l with ending := e } := by
  have hcounted : findLaunch (faultCounted s key code at_) key.launch = some (countsFault key.wpid code at_ l) := by
    have hreleased : findLaunch (modWp (releaseAll s key) key (endedAt at_)) key.launch = some l :=
      (congrArg (List.find? _) (launches_of_outline (outline_releaseAll s key))).trans hl
    rw [faultCounted, findLaunch_modLaunch_same _ _ (f := countsFault key.wpid code at_) fun _ => rfl, hreleased, Option.map_some]
  obtain ⟨d, h | h⟩ := endFaulted_cases s key code at_
  · exact ⟨_, by rw [h]; exact hcounted⟩
  · rw [h, findLaunch_endLaunch]
    exact ⟨_, congrArg (Option.map _) hcounted⟩

/-- R115, R196. No handle of it is left. -/
theorem owner_endFaulted {s : State} {key : WpKey} {code : BitVec 16} {at_ c : Nat} {h : Nat × Handle}
    (hm : h ∈ (coreOf (endFaulted s key code at_) c).handles) : h.2.owner ≠ key :=
  (mem_handles_releaseAll ((thinned_endFaulted s key code at_).handles c h hm)).2

/-- R115. Its record, where it is left, is FAULTED at the bundle, without a frame. -/
theorem record_endFaulted {s : State} {key : WpKey} {code : BitVec 16} {at_ : Nat} {w : Waypoint}
    (hw : findWp (endFaulted s key code at_) key = some w) : w.state = .faulted ∧ w.resume = at_ ∧ w.frame = none := by
  have hkey : w.key = key := by simpa using List.find?_some hw
  obtain ⟨w0, hw0, he⟩ := (thinned_endFaulted s key code at_).waypoints w (List.mem_of_find?_eq_some hw)
  obtain ⟨w1, -, h1⟩ := List.mem_map.mp hw0
  have hw1 : w1.key = key := by
    rw [← hkey, he, ← h1]
    split <;> rfl
  rw [he, ← h1, if_pos hw1]
  exact ⟨rfl, rfl, rfl⟩

/-! ### The core that it leaves -/

theorem handles_freeCore (s : State) (c c' : Nat) : (coreOf (freeCore s c) c').handles = (coreOf s c').handles := by
  have hmod {s : State} {f : Core → Core} (hf : ∀ k, (f k).handles = k.handles) :
      (coreOf (modCore s c f) c').handles = (coreOf s c').handles := by
    rw [coreOf_modCore]
    split
    · next h => rw [hf, h]
    · rfl
  have hidle (s : State) : (coreOf (retireIdle s c) c').handles = (coreOf s c').handles := by
    unfold retireIdle
    refine (foldl_keeps (fun s => (coreOf s c').handles) (fun s t => ?_) _ _).trans
      (foldl_keeps (fun s => (coreOf s c').handles) (fun s b => ?_) _ s)
    · rw [coreOf_logRetired]
      exact hmod fun _ => rfl
    · rw [coreOf_logRetired]
      exact hmod fun _ => rfl
  rw [freeCore, hidle]
  exact hmod fun _ => rfl

theorem hm_freeCore (s : State) (c : Nat) : (coreOf (freeCore s c) c).hm = false := by
  rw [freeCore, Core.of_unhoused (unhoused_retireIdle ..) Core.hm, coreOf_modCore_same]

theorem findLaunch_freeCore (s : State) (c l : Nat) : findLaunch (freeCore s c) l = findLaunch s l := by
  rw [findLaunch, launches_of_outline (outline_freeCore s c), findLaunch]

/-- Settles O27: a precise trap is taken at the boundary where the core stands; there the handler starts, or the waypoint ends. -/
theorem trapEntry : Obligations.TrapEntry := by
  unfold Obligations.TrapEntry
  dsimp only
  refine ⟨fun s c code info w hmc hhm htr hw => ?handled, fun s c code info w l hmc hnone hl _ => ?ended⟩
  case handled =>
    obtain ⟨b, ht⟩ := takeTrap_starts info hmc hhm htr
    have hfound : findWp (faulting s c b) (coreOf s c).wp = some (faultedAt (coreOf s c).pc w) := findWp_modWp_found (fun _ => rfl) hw
    have hcore : coreOf (faulting s c b) c = nameBoundary (coreOf s c) := coreOf_atBoundary s c b
    obtain ⟨e, p, fl, hk⟩ := nameBoundary_eq (coreOf s c)
    rw [ht, coreOf_modCore_same, hcore, hk]
    exact ⟨rfl, rfl, rfl, rfl, rfl, rfl, rfl, rfl, rfl, rfl, rfl, rfl, rfl, rfl, rfl, fun _ => rfl, ⟨_, hfound, rfl, rfl⟩, rfl, rfl, rfl⟩
  case ended =>
    have hlaunch : coreLaunch s c = l := launchOf_found hl
    obtain ⟨b, ht⟩ := takeTrap_ends (s := s) (c := c) info hmc (by rwa [hlaunch])
    rw [ht]
    refine ⟨by rw [mode_freeCore, if_pos rfl], hm_freeCore .., fun c' h hd hh => ?handles, fun l' hl' => ?launch, fun w' hw' => ?record⟩
    case handles =>
      have hm := Map.mem_of_find hh
      rw [handles_freeCore] at hm
      exact owner_endFaulted hm
    case launch =>
      obtain ⟨e, he⟩ := findLaunch_endFaulted (s := faulting s c b) code (coreOf s c).pc hl
      rw [findLaunch_freeCore, he] at hl'
      obtain rfl := Option.some.inj hl'
      exact ⟨rfl, rfl, rfl, rfl, rfl⟩
    case record =>
      rw [findWp_freeCore] at hw'
      exact record_endFaulted hw'

end Sys2Proof.Machine

namespace Sys2Proof.Machine

/-! ## What a core's storage being kept up leaves (R153, R196, R199)

The state but for the cores, the commands, the error log and the messages sent: no release of handles, no bank retired and no core freed
changes it. `apart_f` says so of f. -/

def State.apart (s : State) : State := { s with cores := [], cmds := [], mgmt := s.mgmt.unlogged, out := [] }

/-- A part of the state that no such upkeep changes. -/
theorem State.of_apart {β : Sort _} {s t : State} (h : t.apart = s.apart) (g : State → β)
    (hg : ∀ s : State, g s.apart = g s := by exact fun _ => rfl) : g t = g s := by
  rw [← hg, h, hg]

section
variable (s : State)

@[simp] theorem apart_modCore (c : Nat) (f : Core → Core) : (modCore s c f).apart = s.apart := rfl

@[simp] theorem apart_modChart (c : Nat) (l : Level) (f : Chart → Chart) : (modChart s c l f).apart = s.apart := rfl

@[simp] theorem apart_logRetired (c code bank : Nat) : (logRetired s c code bank).apart = s.apart := rfl

@[simp] theorem apart_serveOwed (c : Nat) (l : Level) : (serveOwed s c l).apart = s.apart := by
  unfold serveOwed
  refine (foldl_keeps State.apart (fun s o => ?_) _ _).trans (foldl_keeps State.apart (fun s o => ?_) _ s)
  · split <;> rfl
  · split <;> rfl

@[simp] theorem apart_releaseHandles (c : Nat) (p : Nat → Handle → Bool) : (releaseHandles s c p).apart = s.apart := by
  unfold releaseHandles
  dsimp only
  split
  · rfl
  · rw [apart_serveOwed, apart_serveOwed]
    rfl

@[simp] theorem apart_releaseAll (key : WpKey) : (releaseAll s key).apart = s.apart :=
  foldl_keeps State.apart (fun s _ => apart_releaseHandles s ..) _ s

@[simp] theorem apart_freeCore (c : Nat) : (freeCore s c).apart = s.apart := by
  unfold freeCore retireIdle
  refine (foldl_keeps State.apart (fun s t => ?_) _ _).trans ((foldl_keeps State.apart (fun s b => ?_) _ _).trans rfl)
  · rfl
  · rfl

end

/-! ## Records at a suspension point (R126, R128, R130) -/

/-- R130. With handles a record names the core that it leaves; nothing else of it changes but its mask. -/
theorem pinTo_eq (k : Core) (c : Nat) (w : Waypoint) : ∃ a d n, pinTo k c w =
    { w with pmask := pinnedMask k k.wp, aff := a, anchorDie := d, anchorCore := n } ∧
    (pinnedMask k k.wp ≠ 0#8 → a = 2 ∧ d = c / 48 ∧ n = c % 48) := by
  unfold pinTo
  dsimp only
  split
  · next h => exact ⟨w.aff, w.anchorDie, w.anchorCore, rfl, fun hn => absurd h hn⟩
  · exact ⟨2, dieOf c, coreNo c, rfl, fun _ => ⟨rfl, rfl, rfl⟩⟩

/-- What a record says of a waypoint that left core c from state k: its state, what it waits for, its RESUME and s1 to s4; it has no frame,
and with handles it is pinned there. -/
def RecordedAs (k : Core) (c : Nat) (st : WpState) (wait resume : Nat) (w : Waypoint) : Prop :=
  w.state = st ∧ w.wait = wait ∧ w.resume = resume ∧ w.sval = savedScalars k ∧ w.frame = none ∧
    (pinnedMask k k.wp ≠ 0#8 → w.aff = 2 ∧ w.anchorDie = c / 48 ∧ w.anchorCore = c % 48 ∧ w.pmask = pinnedMask k k.wp)

section
variable {s : State} {c : Nat} {w : Waypoint}

theorem writeRecord_found (hw : findWp s (coreOf s c).wp = some w) (st : WpState) (wait resume : Nat) :
    ∃ x, findWp (writeRecord s c st wait resume) (coreOf s c).wp = some x ∧ RecordedAs (coreOf s c) c st wait resume x := by
  have hkey : ∀ (w : Waypoint), (pinTo (coreOf s c) c { w with
      state := st, wait := wait, resume := resume, sval := savedScalars (coreOf s c), frame := none, frameAt := none, holder := dieOf c,
      leftAt := s.chron }).key = w.key := fun w => by
    obtain ⟨a, d, n, h, -⟩ := pinTo_eq (coreOf s c) c { w with
      state := st, wait := wait, resume := resume, sval := savedScalars (coreOf s c), frame := none, frameAt := none, holder := dieOf c,
      leftAt := s.chron }
    rw [h]
  refine ⟨_, findWp_modWp_found hkey hw, ?_⟩
  obtain ⟨a, d, n, h, hpin⟩ := pinTo_eq (coreOf s c) c { w with
    state := st, wait := wait, resume := resume, sval := savedScalars (coreOf s c), frame := none, frameAt := none, holder := dieOf c,
    leftAt := s.chron }
  rw [h]
  exact ⟨rfl, rfl, rfl, rfl, rfl, fun hm => ⟨(hpin hm).1, (hpin hm).2.1, (hpin hm).2.2, rfl⟩⟩

end

/-! ## Suspension operations (R311 to R314) -/

section
variable (c : Nat) (m : MoveF) (t : State)

@[simp] theorem findWp_spent (key : WpKey) : findWp (spent c m t) key = findWp t key := by rw [spent_cores]; rfl

@[simp] theorem waiting_spent : (spent c m t).waiting = t.waiting := by rw [spent_cores]

@[simp] theorem joinDecs_spent : (spent c m t).joinDecs = t.joinDecs := by rw [spent_cores]

@[simp] theorem mode_spent (c' : Nat) : (coreOf (spent c m t) c').mode = (coreOf t c').mode := by
  unfold spent
  split
  · rw [coreOf_modCore]
    split
    · next h => subst h; rfl
    · rfl
  · rfl

@[simp] theorem handles_spent (c' : Nat) : (coreOf (spent c m t) c').handles = (coreOf t c').handles := by
  unfold spent
  split
  · rw [coreOf_modCore]
    split
    · next h => subst h; rfl
    · rfl
  · rfl

end

section
variable {s : State} {c : Nat} {k : Core} {w : Waypoint}

theorem quiesce_quiet (h : Quiet s c) : quiesce s c = .ok () := by
  obtain ⟨hgate, hcmds, hflight⟩ := h
  have hnone : (s.cmds.any fun x => decide (x.wp = (coreOf s c).wp)) = false :=
    List.any_eq_false.mpr fun x hx => by simpa using hcmds x hx
  simp only [quiesce, closing_shut hgate, hflight, hnone, List.isEmpty_nil, Bool.not_true, Bool.or_self, Bool.false_eq_true, if_false]

theorem noHandler_outside {o : OpIn} (h : (coreOf s o.c).hm = false) : noHandler s o = .ok () := by simp [noHandler, h]

theorem noHandler_inside {o : OpIn} (h : (coreOf s o.c).hm = true) :
    noHandler s o = raise tcPrivilege (o.port.zeroExtend 64) := by simp [noHandler, h]

/-- R312. The core that yields is free. -/
theorem mode_yieldCore (resume : Nat) : (coreOf (yieldCore s c resume) c).mode = .idle := by
  rw [yieldCore, Core.of_unhoused (unhoused_settleFreed ..) Core.mode, mode_freeCore, if_pos rfl]

theorem launchOf_freeReady (key : WpKey) (st : WpState) (wait resume l : Nat) :
    launchOf (freeCore (makeReady (writeRecord s c st wait resume) key) c) l = launchOf s l := by
  rw [launchOf_of_outline (outline_freeCore ..)]
  rfl

/-- R115. The waypoint of a launch that has ended is discarded as it yields. -/
theorem findWp_yieldCore_ended (resume : Nat) (he : (coreLaunch s c).ending ≠ .running) :
    findWp (yieldCore s c resume) (coreOf s c).wp = none := by
  rw [yieldCore, settleFreed, launchOf_freeReady, if_pos (by exact he)]
  exact findWp_discardWp _ _

/-- R312. Otherwise its record is READY at the bundle after. -/
theorem yieldCore_found (resume : Nat) (hw : findWp s (coreOf s c).wp = some w) (he : (coreLaunch s c).ending = .running) :
    ∃ x, findWp (yieldCore s c resume) (coreOf s c).wp = some x ∧ RecordedAs (coreOf s c) c .ready 0 resume x := by
  obtain ⟨x, hx, -, -, hresume, hsval, hframe, hpin⟩ := writeRecord_found hw .ready 0 resume
  have hready := findWp_modWp_found (s := writeRecord s c .ready 0 resume) (f := fun w => { w with
    state := .ready, wait := 0, frameAt := none, prio := (launchOf s (coreOf s c).wp.launch).prio, readyAt := s.chron, agedAt := s.chron })
    (fun _ => rfl) hx
  exact ⟨_, settleFreed_found ((findWp_freeCore ..).trans hready) (by rw [launchOf_freeReady]; exact he), rfl, rfl, hresume, hsval, hframe,
    hpin⟩

/-- R313. A suspension word named by an aligned GLOBAL reference to a page of device memory. -/
theorem suspendWord_home {o : OpIn} {r : Word} {a : Nat} (hx : scVal o = .ok r) (ht : refTag r = 0) (hal : refVa r % 32 = 0)
    (ha : wordHome s o.c (refVa r) 1 = .ok a) : suspendWord s o = .ok a := by
  have hwf : wellFormedRef r = true := by simp only [wellFormedRef, ht]
  have hpos : refPos r = refVa r := by rw [refPos, if_pos ht]
  simp [suspendWord, hx, checkRef, hwf, ht, hpos, hal, ha]

theorem suspendOp_asks {join : Bool} {o : OpIn} {a : Nat} (hword : suspendWord s o = .ok a) (hquiet : Quiet s o.c)
    (hhm : (coreOf s o.c).hm = false) : suspendOp join o s =
      .ok (requestWait (writeRecord s o.c .suspended (if join then 1 else 2) (nextOf s o.c o.addr o.len)) o.c a join) := by
  rw [suspendOp, hword, quiesce_quiet hquiet, noHandler_outside hhm]

/-- R128. What a request for a word at address a leaves to be sent: from the core's die to the home of the word. -/
def AsksFor (t : State) (c : Nat) (wp : WpKey) (a : Nat) (join : Bool) : Prop :=
  ∃ x ∈ t.waiting, x.pkt.kind = 6 ∧ x.pkt.paddr = a ∧ x.station = 2 * (c / 48) ∧ x.dst = 2 * dpaDie a + 1 ∧
    x.pkt.opa = waitOpa wp (c / 48) join

theorem requestWait_asks (s : State) (c a : Nat) (join : Bool) : AsksFor (requestWait s c a join) c (coreOf s c).wp a join := by
  have hne : 2 * dieOf c ≠ 2 * dpaDie a + 1 := by omega
  unfold AsksFor requestWait sendPacket
  rw [if_neg hne]
  exact ⟨_, List.mem_append_right _ (List.mem_singleton.mpr rfl), rfl, rfl, rfl, rfl, rfl⟩

theorem requestWait_eq (s : State) (c a : Nat) (join : Bool) : ∃ q, requestWait s c a join =
    { modCore s c (fun k => { noReopen k with mode := .answer }) with waiting := q } := by
  unfold requestWait sendPacket
  rw [if_neg (by omega)]
  exact ⟨_, rfl⟩

theorem coreOf_requestWait (s : State) (c a : Nat) (join : Bool) :
    coreOf (requestWait s c a join) c = { noReopen (coreOf s c) with mode := .answer } := by
  obtain ⟨q, h⟩ := requestWait_eq s c a join
  rw [h]
  exact coreOf_modCore_same s c fun k => { noReopen k with mode := .answer }

theorem findWp_requestWait (s : State) (c a : Nat) (join : Bool) (key : WpKey) : findWp (requestWait s c a join) key = findWp s key := by
  obtain ⟨q, h⟩ := requestWait_eq s c a join
  rw [h]
  rfl

/-! ### HALT -/

theorem findWp_of_apart {s t : State} (h : t.apart = s.apart) (key : WpKey) : findWp t key = findWp s key :=
  State.of_apart h fun s => findWp s key

section
variable {t : State} (hh : t.homes = s.homes) (hm : t.mem = s.mem) (hp : t.poisoned = s.poisoned) (hc : t.chron = s.chron)
  (he : t.engines = s.engines)
include hh hm hp hc he

theorem engineTranslate_of_memory (e : Nat) (l : Launch) (va kind : Nat) : engineTranslate t e l va kind = engineTranslate s e l va kind := by
  have hen (e : Nat) : engine t e = engine s e := by rw [engine, he, engine]
  simp only [engineTranslate, walk_of_memory hh hm hp, cached, funext fun i => (by
    rw [engineEntry, regionEntry_of_memory hh hm hp hc, engineEntry, hen] : engineEntry t e l i = engineEntry s e l i), hen]

variable (hl : t.launches = s.launches) (hk : t.cores = s.cores)
include hl hk

/-- Where a word lies depends on the memories, the engines, the launches and the core. -/
theorem wordHome_of_memory (c va kind : Nat) : wordHome t c va kind = wordHome s c va kind := by
  have hcl : coreLaunch t c = coreLaunch s c := by rw [coreLaunch, launchOf, findLaunch, coreOf, hl, hk]; rfl
  rw [wordHome, engineTranslate_of_memory hh hm hp hc he, hcl, wordHome]

end

/-- The record of a waypoint that halts. -/
def haltRecorded (s : State) (c : Nat) (w : Waypoint) : State :=
  modWp (writeRecord s c .done 0 w.resume) (coreOf s c).wp fun w => { w with fault := none }

theorem haltRecorded_found (hw : findWp s (coreOf s c).wp = some w) :
    ∃ x, findWp (haltRecorded s c w) (coreOf s c).wp = some x ∧ x.state = .done ∧ x.fault = none := by
  obtain ⟨x, hx, hst, -⟩ := writeRecord_found hw .done 0 w.resume
  exact ⟨_, findWp_modWp_found (f := fun w => { w with fault := none }) (fun _ => rfl) hx, hst, rfl⟩

theorem wordHome_haltRecorded (va kind : Nat) : wordHome (haltRecorded s c w) c va kind = wordHome s c va kind :=
  wordHome_of_memory (t := haltRecorded s c w) (s := s) rfl rfl rfl rfl rfl rfl rfl ..

theorem findWp_sendDecrement (s : State) (c : Nat) (w : Waypoint) (key : WpKey) : findWp (sendDecrement s c w) key = findWp s key := by
  unfold sendDecrement
  dsimp only
  split
  · rfl
  · split
    · rfl
    · exact findWp_of_outline ((outline_logEvent ..).trans (outline_logEntryError ..)) key

theorem sendDecrement_none (hj : w.join = 0#47) : sendDecrement s c w = s := by rw [sendDecrement, if_pos hj]

theorem sendDecrement_home {a : Nat} (hj : w.join ≠ 0#47) (ha : wordHome s c (w.join.toNat * 32) 3 = .ok a) : sendDecrement s c w =
    { s with joinDecs := s.joinDecs ++ [{ dpa := a, launch := w.key.launch, wpid := w.key.wpid, core := c }] } := by
  simp only [sendDecrement, if_neg hj, ha]

/-- What a halted waypoint leaves: its record, the decrement on its way, its handles released and its core free. -/
def leftDone (s : State) (c : Nat) (w : Waypoint) : State :=
  freeCore (releaseAll (sendDecrement (haltRecorded s c w) c w) (coreOf s c).wp) c

theorem opBrHalt_ends {o : OpIn} (hw : findWp s (coreOf s o.c).wp = some w) (hquiet : Quiet s o.c) :
    opBrHalt o s = .ok (leftDone s o.c w) := by
  simp only [opBrHalt, quiesce_quiet hquiet, hw]
  rfl

theorem mode_leftDone : (coreOf (leftDone s c w) c).mode = .idle := by rw [leftDone, mode_freeCore, if_pos rfl]

theorem leftDone_found (hw : findWp s (coreOf s c).wp = some w) :
    ∃ x, findWp (leftDone s c w) (coreOf s c).wp = some x ∧ x.state = .done ∧ x.fault = none := by
  rw [leftDone, findWp_freeCore, findWp_releaseAll, findWp_sendDecrement]
  exact haltRecorded_found hw

/-- R196. No handle of a halted waypoint is left. -/
theorem owner_leftDone {c' : Nat} {h : Nat × Handle} (hm : h ∈ (coreOf (leftDone s c w) c').handles) : h.2.owner ≠ (coreOf s c).wp := by
  rw [leftDone, handles_freeCore] at hm
  exact (mem_handles_releaseAll hm).2

theorem joinDecs_leftDone : (leftDone s c w).joinDecs = (sendDecrement (haltRecorded s c w) c w).joinDecs :=
  (State.of_apart (apart_freeCore ..) State.joinDecs).trans (State.of_apart (apart_releaseAll ..) State.joinDecs)

/-- R128, R313. What SUSP and JOINW leave: the record SUSPENDED, the core awaiting the answer to a request that is on its way. -/
def Suspends (t : State) (c : Nat) (k : Core) (wait resume a : Nat) (join : Bool) : Prop :=
  (∃ x, findWp t k.wp = some x ∧ RecordedAs k c .suspended wait resume x) ∧ (coreOf t c).mode = .answer ∧ AsksFor t c k.wp a join

theorem requestWait_leaves {join : Bool} (hw : findWp s (coreOf s c).wp = some w) (wait resume a : Nat) :
    Suspends (requestWait (writeRecord s c .suspended wait resume) c a join) c (coreOf s c) wait resume a join := by
  refine ⟨?_, ?_, requestWait_asks (writeRecord s c .suspended wait resume) c a join⟩
  · rw [findWp_requestWait]
    exact writeRecord_found hw ..
  · rw [coreOf_requestWait]

theorem Suspends.spent {t : State} {wait resume a : Nat} {join : Bool} (h : Suspends t c k wait resume a join) (m : MoveF) :
    Suspends (spent c m t) c k wait resume a join := by
  obtain ⟨hrec, hmode, hasks⟩ := h
  unfold Suspends AsksFor
  rw [findWp_spent, mode_spent, waiting_spent]
  exact ⟨hrec, hmode, hasks⟩

end

/-- Settles O24. The suspension operations by what they leave: YIELD's by `settleFreed`, the request's by `requestWait`, HALT's by the record
and the release of every handle. -/
theorem suspension : Obligations.Suspension := by
  unfold Obligations.Suspension
  intro m s v k w
  dsimp only
  intro hw hquiet
  have hk : coreOf (fed s k) s.cur = k := coreOf_fed s k
  have hw' : findWp (fed s k) (coreOf (fed s k) s.cur).wp = some w := by rw [hk]; exact hw
  refine ⟨fun hhm hf => ?yield, fun r a hhm ht hal ha => ⟨fun hf hx => ?susp, fun hf hx => ?joinw⟩, fun hf => ?halt, fun hhm hf => ?handler⟩
  case yield =>
    have hop : opBrYield (issued s 0xB19#12 m v) (fed s k) = .ok (yieldCore (fed s k) s.cur (nextOf (fed s k) s.cur (coreOf s s.cur).pc 2)) := by
      rw [opBrYield, issued_c, quiesce_quiet hquiet, noHandler_outside (by rw [issued_c, hk]; exact hhm)]
      rfl
    refine ⟨_, runTrigger_ok hf hop, by rw [mode_spent]; exact mode_yieldCore _, fun he => ?_, fun he => ?_⟩
    · rw [findWp_spent]
      have := findWp_yieldCore_ended (nextOf (fed s k) s.cur (coreOf s s.cur).pc 2) he
      rwa [hk] at this
    · obtain ⟨x, hx, hrec⟩ := yieldCore_found (nextOf (fed s k) s.cur (coreOf s s.cur).pc 2) hw' (not_not.mp he)
      rw [hk] at hx hrec
      exact ⟨x, by rw [findWp_spent]; exact hx, hrec⟩
  case susp =>
    have hword := suspendWord_home (s := fed s k) (o := issued s 0xB18#12 m v) hx ht hal ha
    refine ⟨_, runTrigger_ok hf (suspendOp_asks (join := false) hword hquiet (by rw [issued_c, hk]; exact hhm)), ?_⟩
    have h := requestWait_leaves (join := false) hw' 2 (nextOf (fed s k) s.cur (coreOf s s.cur).pc 2) a
    rw [hk] at h
    exact h.spent m
  case joinw =>
    have hword := suspendWord_home (s := fed s k) (o := issued s 0xB1B#12 m v) hx ht hal ha
    refine ⟨_, runTrigger_ok hf (suspendOp_asks (join := true) hword hquiet (by rw [issued_c, hk]; exact hhm)), ?_⟩
    have h := requestWait_leaves (join := true) hw' 1 (nextOf (fed s k) s.cur (coreOf s s.cur).pc 2) a
    rw [hk] at h
    exact h.spent m
  case halt =>
    have hop : opBrHalt (issued s 0xB1C#12 m v) (fed s k) = .ok (leftDone (fed s k) s.cur w) := opBrHalt_ends hw' hquiet
    refine ⟨_, runTrigger_ok hf hop, by rw [mode_spent, mode_leftDone], ?_, fun c' h hd hh => ?_, fun hj => ?_,
      fun a hj ha => ?_⟩
    · have h := leftDone_found hw'
      rw [hk] at h
      rwa [findWp_spent]
    · have hm := Map.mem_of_find hh
      rw [handles_spent] at hm
      exact hk ▸ owner_leftDone hm
    · rw [joinDecs_spent, joinDecs_leftDone, sendDecrement_none hj]
      rfl
    · rw [joinDecs_spent, joinDecs_leftDone, sendDecrement_home hj ((wordHome_haltRecorded ..).trans ha)]
      rfl
  case handler =>
    refine runTrigger_trap hf ?_
    rw [opBrYield, issued_c, quiesce_quiet hquiet, noHandler_inside (by rw [issued_c, hk]; exact hhm)]
    rfl

end Sys2Proof.Machine

namespace Sys2Proof.Machine

/-! ## Words of device memory after a store (R15) -/

/-- A store leaves its bytes, and every other byte as it was. -/
theorem storedAt_storeDram (s : State) (a : Nat) (bs : List Byte) : StoredAt s (storeDram s a bs) a bs := fun x => by
  rw [mem_storeDram, readByte_writeBytes]

theorem dramBytes_storeDram (s : State) (a : Nat) (bs : List Byte) : dramBytes (storeDram s a bs) a bs.length = bs := by
  refine List.ext_getElem (by simp [dramBytes]) fun i hi hi' => ?_
  rw [← List.getD_eq_getElem _ 0#8 hi, ← List.getD_eq_getElem _ 0#8 hi', dramBytes, getD_readBytes _ _ hi', storedAt_storeDram,
    if_pos ⟨Nat.le_add_right .., by omega⟩, Nat.add_sub_cancel_left]

theorem dramNat_storeDramNat (s : State) (a v n : Nat) : dramNat (storeDramNat s a v n) a n = v % 256 ^ n := by
  have h := dramBytes_storeDram s a (bytesOf v n)
  rw [length_bytesOf] at h
  rw [dramNat, storeDramNat, h, ofBytes_bytesOf]

/-! ## Waypoints that come into being (R124, R134) -/

/-- A waypoint added stands last, with a record of its own, and its launch's next id is past it. -/
theorem addWaypoint_eq (s : State) (w : Waypoint) : ∃ r, addWaypoint s w =
    modLaunch { s with waypoints := (s.waypoints.filter fun x => x.key ≠ w.key) ++ [{ w with record := r }] } w.key.launch
      (fun l => { l with nextWp := max l.nextWp (w.key.wpid + 1) }) := ⟨_, rfl⟩

theorem ending_addWaypoint (s : State) (w : Waypoint) : (launchOf (addWaypoint s w) w.key.launch).ending = (launchOf s w.key.launch).ending := by
  obtain ⟨r, h⟩ := addWaypoint_eq s w
  rw [h]
  exact ending_modLaunch _ w.key.launch (f := fun l => { l with nextWp := max l.nextWp (w.key.wpid + 1) }) (fun _ => rfl) fun _ => rfl

theorem findWp_addWaypoint (s : State) (w : Waypoint) : ∃ r, findWp (addWaypoint s w) w.key = some { w with record := r } := by
  obtain ⟨r, h⟩ := addWaypoint_eq s w
  refine ⟨r, ?_⟩
  have hnone : (s.waypoints.filter fun x => x.key ≠ w.key).find? (fun x => x.key = w.key) = none :=
    List.find?_eq_none.mpr fun x hx => by simpa using (List.mem_filter.mp hx).2
  rw [h]
  show List.find? _ (_ ++ _) = _
  rw [List.find?_append, hnone]
  simp

/-- R115. A waypoint of a launch that has ended is discarded as it comes into being. -/
theorem findWp_settleFreed_ended {s : State} {key : WpKey} (he : (launchOf s key.launch).ending ≠ .running) :
    findWp (settleFreed s key) key = none := by
  rw [settleFreed, if_pos he]
  exact findWp_discardWp s key

/-- One of a live launch stands last. -/
theorem settleFreed_added {s : State} {w : Waypoint} (he : (launchOf s w.key.launch).ending = .running) :
    ∃ r, (settleFreed (addWaypoint s w) w.key).waypoints.getLast? = some { w with record := r, preempt := false } := by
  obtain ⟨r, h⟩ := addWaypoint_eq s w
  refine ⟨r, ?_⟩
  rw [settleFreed, ending_addWaypoint, if_neg (not_not_intro he), h]
  show (List.map _ _).getLast? = _
  rw [List.getLast?_map, modLaunch, List.getLast?_concat]
  simp

theorem settleFreed_added_eq {s : State} {w : Waypoint} (he : (launchOf s w.key.launch).ending = .running) :
    ∃ ws ls, settleFreed (addWaypoint s w) w.key = { s with waypoints := ws, launches := ls } := by
  rw [settleFreed, ending_addWaypoint, if_neg (not_not_intro he)]
  exact ⟨_, _, rfl⟩

/-! ## SPAWN (R315, R316) -/

theorem toNat_mod_four {e : Word} (h : e.extractLsb' 0 2 = 0#2) : e.toNat % 4 = 0 := by
  simpa [BitVec.extractLsb'_toNat] using congrArg BitVec.toNat h

theorem field_of_extract {e : Word} {lo n : Nat} (h : e.extractLsb' lo n = 0#n) : field e.toNat lo n = 0 := by
  simpa [BitVec.extractLsb'_toNat, field, Nat.shiftRight_eq_div_pow] using congrArg BitVec.toNat h

theorem unstored_addAtHome (s : State) (a n : Nat) : (addAtHome s a n).unstored = s.unstored := by
  unfold addAtHome
  dsimp only
  split
  · rfl
  · exact unstored_storeDram ..

/-- R316. The word at its home has risen by n. -/
theorem dramNat_addAtHome {s : State} {a : Nat} (n : Nat) (ha : forwardTo s a = some a) (hp : poisonIn s a 8 = false) :
    dramNat (addAtHome s a n) a 8 = (dramNat s a 8 + n) % 2 ^ 64 := by
  simp only [addAtHome, ha, Option.getD_some, hp, Bool.false_eq_true, if_false]
  rw [dramNat_storeDramNat]
  omega

/-- R316. The join counter, where there is one, risen by the number of children. -/
def joinRaised (s : State) (home : Option Nat) (n : Nat) : State := home.elim s fun a => addAtHome s a n

theorem unstored_joinRaised (s : State) (home : Option Nat) (n : Nat) : (joinRaised s home n).unstored = s.unstored := by
  cases home with
  | none => rfl
  | some a => exact unstored_addAtHome s a n

section
variable {s : State} {c : Nat} {w : Waypoint}

theorem spawnRange_found {lo hi : Nat} {d : LevelWord} (hw : findWp s (coreOf s c).wp = some w)
    (hd : (coreLaunch s c).levels[w.level + 1]? = some d) (hlt : lo < min hi (min d.extent (lo + 65536))) :
    spawnRange s c lo hi = some (w.level + 1, lo, min hi (min d.extent (lo + 65536))) := by
  simp only [spawnRange, hw, Option.elim_some, hd]
  rw [if_neg (by omega)]

theorem spawnRange_empty {lo hi : Nat} {d : LevelWord} (hw : findWp s (coreOf s c).wp = some w)
    (hd : (coreLaunch s c).levels[w.level + 1]? = some d) (hge : min hi (min d.extent (lo + 65536)) ≤ lo) :
    spawnRange s c lo hi = none := by
  simp only [spawnRange, hw, Option.elim_some, hd]
  rw [if_pos hge]

theorem spawnRange_noLevel {lo hi : Nat} (hw : findWp s (coreOf s c).wp = some w)
    (hd : (coreLaunch s c).levels[w.level + 1]? = none) : spawnRange s c lo hi = none := by
  simp only [spawnRange, hw, Option.elim_some, hd]

end

/-- R316. What the record of a spawned range says. -/
structure RangeRecord (k : Core) (c : Nat) (prio entry lvl lo hi aff id : Nat) (join : Word) (w : Waypoint) : Prop where
  key : w.key = ⟨k.wp.launch, id⟩
  state : w.state = .ready
  range : w.range = true
  resume : w.resume = entry
  level : w.level = lvl
  lo : w.lo = lo
  hi : w.hi = hi
  prio : w.prio = prio
  aff : w.aff = aff
  anchorDie : w.anchorDie = c / 48
  anchorCore : w.anchorCore = c % 48
  join : w.join = BitVec.ofNat 47 (refVa join / 32)
  sval : w.sval = savedScalars k
  parent : w.parent = k.wp.wpid

theorem makeRange_eq (s : State) (c entry lvl lo hi aff : Nat) (join : Word) (id : Nat) : ∃ w,
    makeRange s c entry lvl lo hi aff join id = addWaypoint s w ∧
      RangeRecord (coreOf s c) c (coreLaunch s c).prio entry lvl lo hi aff id join w :=
  ⟨_, rfl, ⟨rfl, rfl, rfl, rfl, rfl, rfl, rfl, rfl, rfl, rfl, rfl, rfl, rfl, rfl⟩⟩

section
variable {s : State} {o : OpIn} {e j lo aff hi : Word} {home : Option Nat} {id : Nat}
  (he : scOp s o 0 = .ok e) (hj : scOp s o 1 = .ok j) (hlo : scOp s o 2 = .ok lo) (haff : scOp s o 3 = .ok aff) (hhi : scVal o = .ok hi)
  (h4 : e.extractLsb' 0 2 = 0#2) (h52 : e.extractLsb' 52 12 = 0#12) (hhome : spawnJoin s o j = .ok home)
  (hgate : gating (coreOf s o.c) = false)
include he hj hlo haff hhi h4 h52 hhome hgate

/-- R316. An empty range creates nothing. -/
theorem opBrSpawn_empty (hr : spawnRange s o.c lo.toNat hi.toNat = none) : opBrSpawn o s = .ok s := by
  simp only [opBrSpawn, he, hj, hlo, haff, hhi, toNat_mod_four h4, field_of_extract h52, hhome, closing_shut hgate, hr]
  simp

/-- R316. Any other is made once the join counter has risen. -/
theorem opBrSpawn_makes {lvl a b : Nat} (hr : spawnRange s o.c lo.toNat hi.toNat = some (lvl, a, b))
    (hid : freeWpid s (coreOf s o.c).wp.launch = some id) (hcmds : ∀ x ∈ s.cmds, x.wp ≠ (coreOf s o.c).wp) : opBrSpawn o s =
      .ok (settleFreed (makeRange (joinRaised s home (b - a)) o.c e.toNat lvl a b (aff.toNat % 2) j id)
        ⟨(coreOf s o.c).wp.launch, id⟩) := by
  have hnone : (s.cmds.any fun x => decide (x.wp = (coreOf s o.c).wp)) = false :=
    List.any_eq_false.mpr fun x hx => by simpa using hcmds x hx
  simp only [opBrSpawn, he, hj, hlo, haff, hhi, toNat_mod_four h4, field_of_extract h52, hhome, closing_shut hgate, hr, hid, hnone]
  simp [joinRaised]

end

/-- The program counter is no mark of a consumed register. -/
theorem pc_spent (c : Nat) (m : MoveF) (t : State) (c' : Nat) : (coreOf (spent c m t) c').pc = (coreOf t c').pc := by
  unfold spent
  split
  · rw [coreOf_modCore]
    split
    · next h => subst h; rfl
    · rfl
  · rfl

theorem waypoints_spent (c : Nat) (m : MoveF) (t : State) : (spent c m t).waypoints = t.waypoints := by rw [spent_cores]

/-- Settles O25. The range is empty, or it is made; what is made is discarded where the launch has ended, and else stands last. -/
theorem spawn : Obligations.Spawn := by
  unfold Obligations.Spawn
  intro m s v k w e j lo aff hi home id
  dsimp only
  intro hf he hj hlo haff hhi h4 h52 hhome hgate hw hid hcmds
  have hk : coreOf (fed s k) s.cur = k := coreOf_fed s k
  have hw' : findWp (fed s k) (coreOf (fed s k) s.cur).wp = some w := by rw [hk]; exact hw
  have hgate' : gating (coreOf (fed s k) (issued s 0xB1A#12 m v).c) = false := by rw [issued_c, hk]; exact hgate
  refine ⟨fun d hd => ?level, fun hd => ?noLevel⟩
  case noLevel =>
    exact runTrigger_ok hf (opBrSpawn_empty he hj hlo haff hhi h4 h52 hhome hgate' (spawnRange_noLevel hw' hd))
  case level =>
    set top := min hi.toNat (min d.extent (lo.toNat + 65536))
    refine ⟨fun hlt hend => ?ended, fun hlt hrun => ?made, fun hge => ?empty⟩
    case empty =>
      exact runTrigger_ok hf (opBrSpawn_empty he hj hlo haff hhi h4 h52 hhome hgate' (spawnRange_empty hw' hd hge))
    all_goals
      have hop := opBrSpawn_makes he hj hlo haff hhi h4 h52 hhome hgate' (spawnRange_found hw' hd hlt) (by rw [issued_c, hk]; exact hid)
        (by rw [issued_c, hk]; exact hcmds)
      rw [issued_c, hk] at hop
      have hraised := unstored_joinRaised (fed s k) home (top - lo.toNat)
      obtain ⟨x, hmake, hx⟩ := makeRange_eq (joinRaised (fed s k) home (top - lo.toNat)) s.cur e.toNat (w.level + 1) lo.toNat top
        (aff.toNat % 2) j id
      have hcore : coreOf (joinRaised (fed s k) home (top - lo.toNat)) s.cur = k := (State.of_unstored hraised (coreOf · s.cur)).trans hk
      have hlaunch : coreLaunch (joinRaised (fed s k) home (top - lo.toNat)) s.cur = coreLaunch (fed s k) s.cur :=
        State.of_unstored hraised (coreLaunch · s.cur)
      rw [hcore, hlaunch] at hx
      rw [hmake, ← hx.key] at hop
      have hending : (launchOf (joinRaised (fed s k) home (top - lo.toNat)) x.key.launch).ending = (coreLaunch (fed s k) s.cur).ending := by
        rw [hx.key, coreLaunch, hk]
        exact congrArg Launch.ending (State.of_unstored hraised (launchOf · k.wp.launch))
    case ended =>
      refine ⟨_, runTrigger_ok hf hop, ?_⟩
      rw [findWp_spent, ← hx.key]
      exact findWp_settleFreed_ended (by rw [ending_addWaypoint, hending]; exact hend)
    case made =>
      obtain ⟨r, hlast⟩ := settleFreed_added (hending.trans hrun)
      obtain ⟨ws, ls, heq⟩ := settleFreed_added_eq (hending.trans hrun)
      refine ⟨_, { x with record := r, preempt := false }, runTrigger_ok hf hop, by rw [waypoints_spent]; exact hlast, hx.key, hx.state, hx.range, hx.resume, hx.level, hx.lo, hx.hi,
        hx.prio, hx.aff, hx.anchorDie, hx.anchorCore, hx.join, hx.sval, hx.parent, ?mode, ?pc, fun hn => ?none, fun a ha hfw hp => ?some⟩
      case mode =>
        rw [mode_spent, heq]
        exact congrArg Core.mode hcore
      case pc =>
        rw [pc_spent, heq]
        exact congrArg Core.pc hcore
      case none =>
        rw [spent_mem, heq, hn]
        rfl
      case some =>
        rw [dramNat_of_mem (spent_mem ..), heq, ha]
        exact dramNat_addAtHome _ hfw hp

end Sys2Proof.Machine

namespace Sys2Proof.Machine

/-! ## Packets taken at a station (R386) -/

theorem takeNth_holds {α : Type} {p : α → Bool} {i : Nat} {l l' : List α} {x : α} (h : takeNth p i l = some (x, l')) : p x = true := by
  induction l generalizing i l' with
  | nil => cases i <;> cases h
  | cons y l ih =>
    cases i with
    | zero =>
      rw [takeNth] at h
      split at h
      · next hy => cases h; exact hy
      · obtain ⟨r, hr, he⟩ := Option.map_eq_some_iff.mp h
        cases he
        exact ih hr
    | succ n =>
      rw [takeNth] at h
      obtain ⟨r, hr, he⟩ := Option.map_eq_some_iff.mp h
      cases he
      exact ih hr

/-- What takes a packet of a kind leaves the state as it was but for that packet. -/
theorem takeKind_frame {s s1 : State} {kind st : Nat} {p : Packet} (h : takeKind s kind = some (st, p, s1)) :
    p.kind = kind ∧ ∃ b, s1 = { s with inbox := b } := by
  obtain ⟨⟨⟨st', p'⟩, l⟩, hr, he⟩ := Option.map_eq_some_iff.mp h
  cases he
  have hp := takeNth_holds hr
  rw [Bool.and_eq_true] at hp
  exact ⟨by simpa using hp.1, l, rfl⟩

/-! ## Bytes of a packet -/

theorem take_bytesOf (x : Nat) {m n : Nat} (h : m ≤ n) : (bytesOf x n).take m = bytesOf x m := by
  simp [bytesOf, ← List.map_take, List.take_range, Nat.min_eq_left h]

theorem drop_bytesOf (x : Nat) (m n : Nat) : (bytesOf x (m + n)).drop m = bytesOf (x / 256 ^ m) n := by
  induction m generalizing x with
  | zero => simp
  | succ m ih => rw [Nat.add_right_comm, bytesOf_succ, List.drop_succ_cons, ih, Nat.div_div_eq_div_mul, pow_succ']

/-- Eight bytes of a vector, as a number. -/
theorem ofBytes_slice {n : Nat} (x : BitVec n) (m : Nat) : BitVec.ofNat 64 (ofBytes (bytesOf (x.toNat / 256 ^ m) 8)) = x.extractLsb' (8 * m) 64 := by
  apply BitVec.eq_of_toNat_eq
  rw [ofBytes_bytesOf, BitVec.toNat_ofNat, BitVec.extractLsb'_toNat, Nat.shiftRight_eq_div_pow, show 256 ^ m = 2 ^ (8 * m) from (pow_mul 2 8 m).symm]
  omega

/-! ## Answers at an engine (R203, R204, R375, R386) -/

/-- The request that engine e held under a number has ended, and of its command P holds. -/
def EndsFor (t : State) (e : Nat) (seq : BitVec 32) (id : Nat) (P : Cmd → Prop) : Prop :=
  findReq t e seq = none ∧ ∃ y, findCmd t id = some y ∧ P y

section
variable {s : State} {e : Nat} {seq : BitVec 32} {r : Req} {x : Cmd} (hr : findReq s e seq = some r) (hx : findCmd s r.cmd = some x)
include hr

theorem seq_of_findReq : r.seq = seq := by simpa using List.find?_some hr

theorem findReq_ended : findReq (dropReq s e r.seq) e seq = none := by
  rw [seq_of_findReq hr]
  exact findReq_dropReq s e seq

include hx

theorem endsFor_status (st : Nat) : EndsFor (addStatus (dropReq s e r.seq) r.cmd st) e seq r.cmd fun y =>
    y.result = x.result ∧ y.status = max x.status st :=
  ⟨findReq_ended hr, _, findCmd_addStatus hx, rfl, rfl⟩

theorem endsFor_result (v : Option Word) (st : Nat) :
    EndsFor (addStatus (modCmd (dropReq s e r.seq) r.cmd fun c => { c with result := v }) r.cmd st) e seq r.cmd fun y =>
      y.result = v ∧ y.status = max x.status st :=
  ⟨findReq_ended hr, _, findCmd_addStatus ((findCmd_modCmd_same _ _ (f := fun c : Cmd => { c with result := v }) fun _ => rfl).trans
    (congrArg _ hx)), rfl, rfl⟩

omit hr in
/-- R203. A request without a part, of a command that is no atomic, that fails. -/
theorem failRequest_noToken (hp : r.piece = none) (ha : x.kind ≠ .atom) (st : Nat) :
    failRequest s e r st = addStatus (dropReq s e r.seq) r.cmd st := by
  have hid : x.id = r.cmd := by simpa using List.find?_some hx
  have hx' : findCmd (dropReq s e r.seq) r.cmd = some x := hx
  simp [failRequest, hx', hp, hid, ha]

omit hr in
/-- R375. An atomic without a part whose result is lost gives its recovery token. -/
theorem failRequest_token (hp : r.piece = none) (ha : x.kind = .atom) :
    failRequest s e r 6 = addStatus (modCmd (dropReq s e r.seq) r.cmd fun c => { c with result := some (recoveryToken e r.seq) }) r.cmd 6 := by
  have hid : x.id = r.cmd := by simpa using List.find?_some hx
  have hx' : findCmd (dropReq s e r.seq) r.cmd = some x := hx
  simp [failRequest, hx', hp, hid, ha]

end

/-! ## Bytes that reach a handle (R202, R203) -/

theorem handles_setStorage (k : Core) (l : Level) (m : List Host.Cell) : (setStorage k l m).handles = k.handles := by cases l <;> rfl

theorem handles_putBytes (h : Handle) (bs : List (Nat × Byte)) (k : Core) : (putBytes k h bs).handles = k.handles := by
  induction bs generalizing k with
  | nil => rfl
  | cons b bs ih => rw [putBytes, ih, handles_setStorage]

theorem handleOf_modCore {s : State} {c : Nat} {f : Core → Core} (hf : (f (coreOf s c)).handles = (coreOf s c).handles) (h : Nat) :
    handleOf (modCore s c f) c h = handleOf s c h := by rw [handleOf, coreOf_modCore_same, hf, handleOf]

/-- R202. A line of a handle leaves the EMPTY state: nothing but cores and commands changes, and of its command only which lines are open. -/
theorem settleLine_frame (s : State) (id c h line : Nat) (st : LineState) : ∃ cs ks, settleLine s id c h line st =
    { s with cores := cs, cmds := ks } := by
  unfold settleLine
  dsimp only
  split <;> exact ⟨_, _, rfl⟩

theorem settleLine_found {s : State} {id : Nat} {x : Cmd} (hx : findCmd s id = some x) (c h line : Nat) (st : LineState) :
    ∃ u, findCmd (settleLine s id c h line st) id = some { x with unfilled := u } := by
  have hmod {t : State} (ht : findCmd t id = some x) :
      ∃ u, findCmd (modCmd t id fun x => { x with unfilled := x.unfilled.filter fun u => u ≠ (c, h, line) }) id =
        some { x with unfilled := u } :=
    ⟨_, (findCmd_modCmd_same t id (f := fun x : Cmd => { x with unfilled := x.unfilled.filter fun u => u ≠ (c, h, line) })
      fun _ => rfl).trans (congrArg _ ht)⟩
  unfold settleLine
  dsimp only
  split
  · exact hmod hx
  · exact hmod hx

theorem coreOf_settleLine {s : State} {c h : Nat} {hd : Handle} (hh : handleOf s c h = some hd) (id line : Nat) (st : LineState) :
    coreOf (settleLine s id c h line st) c = setLine (coreOf s c) hd line st := by
  rw [settleLine, hh]
  exact coreOf_modCore_same s c fun k => setLine k hd line st

/-- The core that holds a handle after bytes have landed in it and their line has left the EMPTY state. -/
def landedLine (k : Core) (hd : Handle) (o : Nat) (bs : List Byte) (st : LineState) : Core :=
  setLine (putBytes k hd (atOffset o bs)) hd (o / 128) st

/-- R202. Bytes put into a handle, and then their line settled. -/
theorem coreOf_settleLine_put {s : State} {c h o : Nat} {hd : Handle} (hh : handleOf s c h = some hd) (bs : List Byte) (id : Nat)
    (st : LineState) :
    coreOf (settleLine (modCore s c fun k => putBytes k hd (atOffset o bs)) id c h (o / 128) st) c = landedLine (coreOf s c) hd o bs st := by
  rw [coreOf_settleLine ((handleOf_modCore (handles_putBytes hd _ _) h).trans hh), coreOf_modCore_same, landedLine]

theorem byteOf_landedLine {k : Core} {hd : Handle} (hk : Sound k hd) (bs : List Byte) {o j : Nat} (st : LineState) (hl : o + bs.length ≤ hd.size)
    (hj : j < hd.size) : byteOf (landedLine k hd o bs st) hd j =
      if o ≤ j ∧ j < o + bs.length then bs.getD (j - o) 0#8 else byteOf k hd j := by
  rw [landedLine, byteOf_setLine, byteOf_putBytes bs hk hl hj]

theorem lineState_landedLine (k : Core) (hd : Handle) (o : Nat) (bs : List Byte) (st : LineState) :
    lineState (landedLine k hd o bs st) hd (o / 128) = st := lineState_setLine_same ..

section
variable {s : State} {p : Packet} {r : Req} {x : Cmd} {hd : Handle}
  (hr : findReq s p.agent p.seq = some r) (hx : findCmd s r.cmd = some x)
include hr hx

/-- R139. The answer to a chunk fetch: sixteen bytes at the command's destination, and its length as the command's result. -/
theorem takeAnswer_cfa (hkind : r.pkt.kind = 4) (hlen : p.dlen = 4)
    (hh : handleOf s (x.core / 48 * 48 + refCore x.dst) (refHandle x.dst) = some hd) :
    let t := takeAnswer s p.agent r p.bytes
    EndsFor t p.agent p.seq r.cmd (fun y => y.result = some (p.data.extractLsb' 64 64) ∧ y.status = x.status) ∧
      coreOf t (x.core / 48 * 48 + refCore x.dst) =
        landedLine (coreOf s (x.core / 48 * 48 + refCore x.dst)) hd (refOffset x.dst) (bytesOf p.data.toNat 16) .full ∧ t.mem = s.mem := by
  have hid : x.id = r.cmd := by simpa using List.find?_some hx
  have hx' : findCmd (dropReq s p.agent r.seq) r.cmd = some x := hx
  have hh' : handleOf (dropReq s p.agent r.seq) (x.core / 48 * 48 + refCore x.dst) (refHandle x.dst) = some hd := hh
  have hb : p.bytes = bytesOf p.data.toNat 16 := by rw [Packet.bytes, hlen]
  have hfill : fillWords (dropReq s p.agent r.seq) x (bytesOf p.data.toNat 16) =
      settleLine (modCore (dropReq s p.agent r.seq) (x.core / 48 * 48 + refCore x.dst) fun k =>
        putBytes k hd (atOffset (refOffset x.dst) (bytesOf p.data.toNat 16))) r.cmd (x.core / 48 * 48 + refCore x.dst) (refHandle x.dst)
        (refOffset x.dst / 128) .full := by
    simp only [fillWords, dieOf, hh', hid]
  have hv : BitVec.ofNat 64 (ofBytes (((bytesOf p.data.toNat 16).drop 8).take 8)) = p.data.extractLsb' 64 64 := by
    rw [drop_bytesOf _ 8 8, take_bytesOf _ (Nat.le_refl 8), ofBytes_slice]
  have hans : takeAnswer s p.agent r p.bytes = modCmd (fillWords (dropReq s p.agent r.seq) x (bytesOf p.data.toNat 16)) r.cmd
      fun c => { c with result := some (p.data.extractLsb' 64 64) } := by
    simp only [takeAnswer, hx', hkind, hb, take_bytesOf _ (Nat.le_refl 16), hid, hv]
  dsimp only
  rw [hans, hfill]
  set put := modCore (dropReq s p.agent r.seq) (x.core / 48 * 48 + refCore x.dst) fun k =>
    putBytes k hd (atOffset (refOffset x.dst) (bytesOf p.data.toNat 16))
  obtain ⟨cs, ks, hframe⟩ := settleLine_frame put r.cmd (x.core / 48 * 48 + refCore x.dst) (refHandle x.dst) (refOffset x.dst / 128) .full
  obtain ⟨u, hfound⟩ := settleLine_found (s := put) hx (x.core / 48 * 48 + refCore x.dst) (refHandle x.dst) (refOffset x.dst / 128) .full
  refine ⟨⟨?_, { x with unfilled := u, result := some (p.data.extractLsb' 64 64) }, ?_, rfl, rfl⟩, ?_, ?_⟩
  · rw [hframe]
    exact findReq_ended hr
  · exact (findCmd_modCmd_same _ _ (f := fun c : Cmd => { c with result := some (p.data.extractLsb' 64 64) }) fun _ => rfl).trans
      (congrArg _ hfound)
  · exact coreOf_settleLine_put hh' _ r.cmd .full
  · rw [hframe]
    rfl

omit hr hx in
/-- The requests of a command without the one that is answered. -/
theorem reqsOf_dropReq (h : reqsOf s p.agent x.id = [r]) : reqsOf (dropReq s p.agent r.seq) p.agent x.id = [] := by
  have hcomm : reqsOf (dropReq s p.agent r.seq) p.agent x.id = (reqsOf s p.agent x.id).filter fun y => y.seq ≠ r.seq := by
    rw [reqsOf, dropReq, engine, modEngine, Map.get_set_same, reqsOf, List.filter_filter, List.filter_filter]
    simp only [Bool.and_comm]
  rw [hcomm, h]
  simp

/-- What a part's bytes leave in the storage that it fills. -/
structure LandsIn (t : State) (s : State) (c o : Nat) (hd : Handle) (bs : List Byte) : Prop where
  mem : t.mem = s.mem
  engines : t.engines = s.engines
  core : coreOf t c = putBytes (coreOf s c) hd (atOffset o bs) ∨ ∃ st, coreOf t c = landedLine (coreOf s c) hd o bs st

omit hr hx in
theorem LandsIn.byteOf {t : State} {c o j : Nat} {bs : List Byte} (h : LandsIn t s c o hd bs) (hk : Sound (coreOf s c) hd)
    (hl : o + bs.length ≤ hd.size) (hj : j < hd.size) :
    byteOf (coreOf t c) hd j = if o ≤ j ∧ j < o + bs.length then bs.getD (j - o) 0#8 else byteOf (coreOf s c) hd j := by
  obtain hc | ⟨st, hc⟩ := h.core
  · rw [hc, byteOf_putBytes bs hk hl hj]
  · rw [hc, byteOf_landedLine hk bs st hl hj]

omit hr in
/-- R202, R203. The bytes of a part of CP.GET reach the storage; the line is FULL once nothing of it is missing. -/
theorem deliverWhole_lands {q : Piece} {c h o : Nat} {bs : List Byte} (hdst : q.dst = .spad c h o) (hget : x.kind = .get) (hgone : x.gone = [])
    (hh : handleOf s c h = some hd) (hl : o + bs.length ≤ hd.size) : LandsIn (deliverWhole s x q (.data bs)) s c o hd bs ∧
      (x.pieces = [] → reqsOf s (engineOf x.core) x.id = [] → (c, h, o / 128) ∈ x.unfilled → x.tainted = [] →
        coreOf (deliverWhole s x q (.data bs)) c = landedLine (coreOf s c) hd o bs .full) := by
  have hid : x.id = r.cmd := by simpa using List.find?_some hx
  have hhandle : cmdHandle s x c h = some hd := by simp [cmdHandle, hgone, hh]
  set put := modCore s c fun k => putBytes k hd (atOffset o bs) with hput
  have hput' : coreOf put c = putBytes (coreOf s c) hd (atOffset o bs) := coreOf_modCore_same ..
  have hnow : (findCmd put x.id).getD x = x := by rw [hid]; exact congrArg (·.getD x) hx
  have hcases : deliverWhole s x q (.data bs) =
      if lineOpen put x c h (o / 128) then put
      else if x.unfilled.contains (c, h, o / 128) then
        settleLine put x.id c h (o / 128) (if x.tainted.contains (c, h, o / 128) then .poison else .full)
      else put := by
    simp only [deliverWhole, hdst, hhandle, hget, reduceCtorEq, if_false, if_neg (Nat.not_lt.mpr hl), fills, if_true, ← hput, hnow]
  have hset (st : LineState) : LandsIn (settleLine put x.id c h (o / 128) st) s c o hd bs := by
    obtain ⟨cs, ks, hframe⟩ := settleLine_frame put x.id c h (o / 128) st
    exact ⟨by rw [hframe]; rfl, by rw [hframe]; rfl, .inr ⟨st, coreOf_settleLine_put hh ..⟩⟩
  have hno : LandsIn put s c o hd bs := ⟨rfl, rfl, .inl hput'⟩
  rw [hcases]
  refine ⟨?_, fun hpieces hreqs hunfilled htaint => ?_⟩
  · split
    · exact hno
    · split
      · exact hset _
      · exact hno
  · have hclosed : lineOpen put x c h (o / 128) = false := by
      have : reqsOf put (engineOf x.core) x.id = [] := hreqs
      simp [lineOpen, hpieces, this]
    rw [hclosed, if_neg (by decide), if_pos (by simpa using hunfilled), htaint]
    exact coreOf_settleLine_put hh ..

/-- R203. DATA that answers a read of CP.GET. -/
theorem takeAnswer_get {q : Piece} {c h o : Nat} (hkind : r.pkt.kind = 1) (hp : r.piece = some q) (hdst : q.dst = .spad c h o)
    (hget : x.kind = .get) (hgone : x.gone = []) (hhalf : q.half = 0) (he : p.agent = engineOf x.core) (hlen : 4 * p.dlen = q.len)
    (hh : handleOf s c h = some hd) (hl : o + q.len ≤ hd.size) :
    let t := takeAnswer s p.agent r p.bytes
    findReq t p.agent p.seq = none ∧ LandsIn t (dropReq s p.agent r.seq) c o hd (bytesOf p.data.toNat q.len) ∧
      (x.pieces = [] → reqsOf s p.agent x.id = [r] → (c, h, o / 128) ∈ x.unfilled → x.tainted = [] →
        coreOf t c = landedLine (coreOf s c) hd o (bytesOf p.data.toNat q.len) .full) := by
  have hx' : findCmd (dropReq s p.agent r.seq) r.cmd = some x := hx
  have hbytes : p.bytes.take (srcBytes x q) = bytesOf p.data.toNat q.len := by
    have hsrc : srcBytes x q = q.len := by simp [srcBytes, hhalf, hget]
    rw [hsrc, Packet.bytes, hlen, take_bytesOf _ (Nat.le_refl _)]
  have hans : takeAnswer s p.agent r p.bytes = deliverWhole (dropReq s p.agent r.seq) x q (.data (bytesOf p.data.toNat q.len)) := by
    simp only [takeAnswer, hx', hkind, hp, hbytes, deliver, hhalf]
  obtain ⟨hlands, hfull⟩ := deliverWhole_lands (s := dropReq s p.agent r.seq) hx' hdst hget hgone hh
    (bs := bytesOf p.data.toNat q.len) (by rwa [length_bytesOf])
  dsimp only
  rw [hans]
  refine ⟨?_, hlands, fun hpieces hreqs => hfull hpieces (he ▸ reqsOf_dropReq hreqs)⟩
  rw [findReq, engine, hlands.engines]
  exact findReq_ended hr

end

/-! ## Answers to a core (R128) -/

section
variable {s : State} {c : Nat} {key : WpKey} {w : Waypoint} (hk : (coreOf s c).wp = key) (hw : findWp s key = some w)
include hk hw

theorem takeWaitAnswer_met (hp : w.preempt = false) : let t := takeWaitAnswer s c 1
    t.mem = s.mem ∧ coreOf t c = { coreOf s c with mode := .running } ∧
      ∃ w', findWp t key = some w' ∧ w'.state = .running ∧ w'.resume = w.start.1 := by
  have ht : takeWaitAnswer s c 1 =
      modCore (modWp s key fun w => { w with state := .running, wait := 0, resume := w.start.1 }) c fun k => { k with mode := .running } := by
    simp only [takeWaitAnswer, hk, hw, if_true, Option.elim_some, hp, Bool.false_eq_true, if_false]
  rw [ht]
  exact ⟨rfl, coreOf_modCore_same _ c fun k => { k with mode := .running }, _,
    findWp_modWp_found (f := fun w => { w with state := .running, wait := 0, resume := w.start.1 }) (fun _ => rfl) hw, rfl, rfl⟩

variable (hrun : (launchOf s key.launch).ending = .running)
include hrun

omit hk hw in
theorem settleFreed_frees {t : State} (hl : t.launches = s.launches) {x : Waypoint} (hx : findWp t key = some x) :
    (coreOf (settleFreed (freeCore t c) key) c).mode = .idle ∧
      findWp (settleFreed (freeCore t c) key) key = some { x with preempt := false } := by
  refine ⟨by rw [Core.of_unhoused (unhoused_settleFreed ..) Core.mode, mode_freeCore, if_pos rfl], settleFreed_found ?_ ?_⟩
  · rwa [findWp_freeCore]
  · rw [launchOf_of_outline (outline_freeCore ..), launchOf, findLaunch, hl]
    exact hrun

theorem takeWaitAnswer_retry : let t := takeWaitAnswer s c 2
    (coreOf t c).mode = .idle ∧ ∃ w', findWp t key = some w' ∧ w'.state = .ready ∧ w'.resume = suspensionBundle (coreOf s c) := by
  have ht : takeWaitAnswer s c 2 =
      settleFreed (freeCore (modWp (makeReady s key) key fun w => { w with resume := suspensionBundle (coreOf s c) }) c) key := by
    simp [takeWaitAnswer, hk]
  obtain ⟨x, hx, hst, -⟩ := makeReady_found hw
  obtain ⟨hmode, hfound⟩ := settleFreed_frees (c := c) hrun
    (t := modWp (makeReady s key) key fun w => { w with resume := suspensionBundle (coreOf s c) }) rfl
    (findWp_modWp_found (f := fun w => { w with resume := suspensionBundle (coreOf s c) }) (fun _ => rfl) hx)
  rw [ht]
  exact ⟨hmode, _, hfound, hst, rfl⟩

theorem takeWaitAnswer_registered : let t := takeWaitAnswer s c 3
    (coreOf t c).mode = .idle ∧ ∃ w', findWp t key = some w' ∧ w'.state = w.state ∧ w'.resume = w.resume := by
  have ht : takeWaitAnswer s c 3 = settleFreed (freeCore s c) key := by simp [takeWaitAnswer, hk]
  obtain ⟨hmode, hfound⟩ := settleFreed_frees (c := c) hrun rfl hw
  rw [ht]
  exact ⟨hmode, _, hfound, rfl, rfl⟩

end

/-- R128. The waypoint that an answer or a notification names. -/
theorem waitKey_eq (x : Word) : (⟨field x.toNat 32 32, field x.toNat 12 20⟩ : WpKey) = ⟨x.toNat / 2 ^ 32, x.toNat / 2 ^ 12 % 2 ^ 20⟩ := by
  rw [field, field, Nat.mod_eq_of_lt (show x.toNat / 2 ^ 32 < 2 ^ 32 by omega)]

/-! ## Acknowledgements at an anchor (R211) -/

section
variable {s : State} {d : Nat} {p : Packet} {m : Mcast} (hm : (home s d).mcasts = [m]) (hno : m.no % 2 ^ 32 = p.seq.toNat)
include hm hno

theorem mcastAck_owing (h : m.owed.filter (· ≠ p.paddr) ≠ []) :
    mcastAck s d p = modHome s d fun h => { h with mcasts := [{ m with owed := m.owed.filter (· ≠ p.paddr) }] } := by
  have he : (m.owed.filter (· ≠ p.paddr)).isEmpty = false := by simpa using h
  simp only [mcastAck, hm, List.map_cons, List.map_nil, hno, if_true, List.filter_cons, List.filter_nil, he, Bool.not_false,
    Bool.false_eq_true, if_false, List.foldl_nil]

theorem mcastAck_last (h : m.owed.filter (· ≠ p.paddr) = []) :
    mcastAck s d p = sendPacket (modHome s d fun h => { h with mcasts := [] }) (2 * d + 1) m.dst m.reply none := by
  simp only [mcastAck, hm, List.map_cons, List.map_nil, hno, if_true, List.filter_cons, List.filter_nil, h, List.isEmpty_nil, Bool.not_true,
    Bool.false_eq_true, if_false, List.foldl_nil, List.foldl_cons]

end

/-- Settles O43, kind by kind of answer. -/
theorem answers : Obligations.Answers := by
  unfold Obligations.Answers
  intro s s1 st p r x
  dsimp only
  refine ⟨fun ht => ?data, fun ht hag => ?ack, fun m ht hag hm hno => ?mcast, fun ht => ?atomRsp, fun ht => ?refuse, fun ht => ?notify⟩
  all_goals obtain ⟨-, b, hb⟩ := takeKind_frame ht
  case data =>
    have hnext {r : Req} (hr : findReq s p.agent p.seq = some r) : exec .data s =
        .next (if p.status = 0 then takeAnswer s1 p.agent r p.bytes else failRequest s1 p.agent r p.status) := by
      have hr' : findReq s1 p.agent p.seq = some r := by rw [hb]; exact hr
      show execData s = _
      simp only [execData, ht, hr']
    refine ⟨fun hn => ?_, fun ⟨hr, hx⟩ hst hp ha => ?_, fun hd ⟨hr, hx⟩ hst hkind hlen hh hk hl => ?_,
      fun q c h o hd ⟨hr, hx⟩ hst hkind hp hdst hget hgone hhalf he hlen _ hh hk hl => ?_⟩
    · have hn' : findReq s1 p.agent p.seq = none := by rw [hb]; exact hn
      show execData s = _
      simp only [execData, ht, hn']
    all_goals
      have hnext := hnext hr
      have hr1 : findReq s1 p.agent p.seq = some r := by rw [hb]; exact hr
      have hx1 : findCmd s1 r.cmd = some x := by rw [hb]; exact hx
    · rw [if_neg hst, failRequest_noToken hx1 hp ha] at hnext
      obtain ⟨hreq, y, hy, -, hstat⟩ := endsFor_status hr1 hx1 p.status
      exact ⟨_, hnext, by rw [hb]; rfl, hreq, y, hy, hstat⟩
    · rw [if_pos hst] at hnext
      have hh1 : handleOf s1 (x.core / 48 * 48 + refCore x.dst) (refHandle x.dst) = some hd := by rw [hb]; exact hh
      have hcore (c : Nat) : coreOf s1 c = coreOf s c := by rw [hb]; rfl
      obtain ⟨hends, hc, -⟩ := takeAnswer_cfa hr1 hx1 hkind hlen hh1
      rw [hcore] at hc
      refine ⟨_, hnext, hends, fun j hj => ?_, by rw [hc, lineState_landedLine]⟩
      rw [hc, byteOf_landedLine hk _ _ (by rwa [length_bytesOf]) (by omega), length_bytesOf, if_pos (by omega), Nat.add_sub_cancel_left,
        bytesOf_extract _ hj]
    · rw [if_pos hst] at hnext
      have hh1 : handleOf s1 c h = some hd := by rw [hb]; exact hh
      have hcore : coreOf (dropReq s1 p.agent r.seq) c = coreOf s c := by rw [hb]; rfl
      obtain ⟨hreq, hlands, hfull⟩ := takeAnswer_get hr1 hx1 hkind hp hdst hget hgone hhalf he hlen hh1 hl
      have hbyte {j : Nat} (hj : j < hd.size) := hlands.byteOf (hcore.symm ▸ hk) (by rwa [length_bytesOf]) hj
      rw [hcore, length_bytesOf] at hbyte
      refine ⟨_, hnext, hreq, hlands.mem.trans (by rw [hb]; rfl), fun j hj => ?_, fun j hj hout => ?_, fun hpieces hreqs hunf htaint => ?_⟩
      · rw [hbyte (by omega), if_pos (by omega), Nat.add_sub_cancel_left, bytesOf_extract _ hj]
      · rw [hbyte hj, if_neg (by omega)]
      · rw [hfull hpieces (by rw [hb]; exact hreqs) hunf htaint, lineState_landedLine]
  case ack =>
    have h64 : ¬64 ≤ p.agent := by omega
    refine ⟨fun hn => ?_, fun ⟨hr, hx⟩ => ?_⟩
    · have hn' : findReq s1 p.agent p.seq = none := by rw [hb]; exact hn
      show execAck s = _
      simp only [execAck, ht, if_neg h64, hn']
    · have hr1 : findReq s1 p.agent p.seq = some r := by rw [hb]; exact hr
      have hx1 : findCmd s1 r.cmd = some x := by rw [hb]; exact hx
      have hnext : exec .ack s = .next (addStatus (dropReq s1 p.agent r.seq) r.cmd p.status) := by
        show execAck s = _
        simp only [execAck, ht, if_neg h64, hr1]
      obtain ⟨hreq, y, hy, -, hstat⟩ := endsFor_status hr1 hx1 p.status
      exact ⟨_, hnext, by rw [hb]; rfl, by rw [hb]; rfl, hreq, y, hy, hstat⟩
  case mcast =>
    have hnext : exec .ack s = .next (mcastAck s1 (st / 2) p) := by
      show execAck s = _
      simp only [execAck, ht, if_pos hag]
    have hm1 : (home s1 (st / 2)).mcasts = [m] := by rw [hb]; exact hm
    refine ⟨fun howed => ?_, fun howed => ?_⟩
    · rw [mcastAck_owing hm1 hno howed] at hnext
      refine ⟨_, hnext, by rw [hb]; rfl, rfl, by rw [hb]; rfl, ?_⟩
      rw [home_modHome, if_pos rfl]
    · rw [mcastAck_last hm1 hno howed] at hnext
      refine ⟨_, hnext, ?_, ?_, fun hne => ?_⟩
      · rw [hb]
        exact congrArg Prod.fst (memories_sendPacket ..)
      · rw [home, homes_sendPacket, ← home, home_modHome, if_pos rfl]
      · rw [sendPacket, if_neg (Ne.symm hne), hb]
        exact ⟨_, rfl, rfl, rfl⟩
  case atomRsp =>
    refine ⟨fun hn => ?_, fun ⟨hr, hx⟩ hst => ?_, fun ⟨hr, hx⟩ hst hlt hp => ?_⟩
    · have hn' : findReq s1 p.agent p.seq = none := by rw [hb]; exact hn
      show execAtomRsp s = _
      simp only [execAtomRsp, ht, hn']
    all_goals
      have hr1 : findReq s1 p.agent p.seq = some r := by rw [hb]; exact hr
      have hx1 : findCmd s1 r.cmd = some x := by rw [hb]; exact hx
      have hnext : exec .atomRsp s = if p.status = 0 then .next (modCmd (dropReq s1 p.agent r.seq) r.cmd fun c => { c with result := some p.opa })
          else .next (failRequest s1 p.agent r p.status) := by
        show execAtomRsp s = _
        simp only [execAtomRsp, ht, hr1]
    · rw [if_pos hst] at hnext
      exact ⟨_, hnext, by rw [hb]; rfl, findReq_ended hr1, _,
        (findCmd_modCmd_same _ _ (f := fun c : Cmd => { c with result := some p.opa }) fun _ => rfl).trans (congrArg _ hx1), rfl, rfl⟩
    · rw [if_neg hst, failRequest_plain hx1 hp hlt] at hnext
      exact ⟨_, hnext, by rw [hb]; rfl, endsFor_status hr1 hx1 p.status⟩
  case refuse =>
    refine ⟨fun hn => ?_, fun ⟨hr, hx⟩ ha hp => ?_⟩
    · have hn' : findReq s1 p.agent p.seq = none := by rw [hb]; exact hn
      show execRefuse s = _
      simp only [execRefuse, ht, hn']
    · have hr1 : findReq s1 p.agent p.seq = some r := by rw [hb]; exact hr
      have hx1 : findCmd s1 r.cmd = some x := by rw [hb]; exact hx
      have hnext : exec .refuse s = .next (failRequest s1 p.agent r 6) := by
        show execRefuse s = _
        simp only [execRefuse, ht, hr1]
      rw [failRequest_token hx1 hp ha] at hnext
      exact ⟨_, hnext, by rw [hb]; rfl, endsFor_result hr1 hx1 _ 6⟩
  case notify =>
    rw [← waitKey_eq]
    refine ⟨fun hnone hst => ?_, fun c w hc hmode hwp hw hpre hrun => ?_⟩
    · have hnext : exec .notify s = .next (enqueue s1 .dispatcherNotify
          { die := st / 2, wp := ⟨field p.opa.toNat 32 32, field p.opa.toNat 12 20⟩ }) := by
        show execNotify s = _
        simp only [execNotify, ht, hnone, if_pos hst]
      exact ⟨_, hnext, by rw [hb]; rfl, _, List.mem_append_right _ (List.mem_singleton.mpr rfl), rfl, rfl, rfl⟩
    · have hnext (h0 : p.status ≠ 0) : exec .notify s = .next (takeWaitAnswer s1 c p.status) := by
        show execNotify s = _
        simp only [execNotify, ht, hc, hmode, ne_eq, not_true_eq_false, if_false, if_neg h0]
      have hcore : coreOf s1 c = coreOf s c := by rw [hb]; rfl
      have hwp1 := (congrArg Core.wp hcore).trans hwp
      have hw1 : findWp s1 ⟨field p.opa.toNat 32 32, field p.opa.toNat 12 20⟩ = some w := by rw [hb]; exact hw
      have hrun1 : (launchOf s1 (field p.opa.toNat 32 32)).ending = .running := by
        have hl : field p.opa.toNat 32 32 = p.opa.toNat / 2 ^ 32 := congrArg WpKey.launch (waitKey_eq p.opa)
        rw [hl, hb]
        exact hrun
      rw [← hcore]
      refine ⟨fun hst => ?_, fun hst => ?_, fun hst => ?_⟩
      all_goals
        have hnext := hnext (by omega)
        rw [hst] at hnext
      · obtain ⟨-, hrec⟩ := takeWaitAnswer_met hwp1 hw1 hpre
        exact ⟨_, hnext, hrec⟩
      · exact ⟨_, hnext, takeWaitAnswer_retry hwp1 hw1 hrun1⟩
      · exact ⟨_, hnext, takeWaitAnswer_registered hwp1 hw1 hrun1⟩

end Sys2Proof.Machine

namespace Sys2Proof.Machine

/-! ## Requests at a home (R225, R230, R386) -/

theorem mem_sendPacket (s : State) (src dst : Nat) (p : Packet) (late : Option (Nat × Piece)) : (sendPacket s src dst p late).mem = s.mem :=
  congrArg Prod.fst (memories_sendPacket ..)

theorem mem_answer (s : State) (d : Nat) (p r : Packet) : (answer s d p r).mem = s.mem := mem_sendPacket ..

theorem home_sendPacket (s : State) (src dst : Nat) (p : Packet) (late : Option (Nat × Piece)) (d : Nat) :
    home (sendPacket s src dst p late) d = home s d := by rw [home, homes_sendPacket, home]

theorem home_answer (s : State) (d : Nat) (p r : Packet) (d' : Nat) : home (answer s d p r) d' = home s d' := home_sendPacket ..

/-- An answer sent is the last thing that its home sent. -/
theorem answered_answer (s : State) (d : Nat) {p r : Packet} {P : Packet → Prop} (hP : P r) (ha : r.agent = p.agent) (hs : r.seq = p.seq) :
    Answered (answer s d p r) d p P := by
  refine ⟨r, hP, ha, hs, ?_⟩
  unfold answer sendPacket
  by_cases h : answerStation p = 2 * d + 1
  · rw [if_pos h, if_pos h.symm, h]
    exact List.getLast?_concat ..
  · rw [if_neg h, if_neg (Ne.symm h)]
    exact ⟨_, List.getLast?_concat .., rfl, rfl, rfl⟩

/-- A store ends registrations at its home; nothing else of a home changes. -/
theorem home_storeDram (s : State) (a : Nat) (bs : List Byte) (d : Nat) : ∃ ws, home (storeDram s a bs) d = { home s d with waiters := ws } := by
  have hqueued (s : State) (q : Nat × Nat) : home (enqueue s .pidxNotify { index := q.2 }) d = home s d := rfl
  have hfold : home (storeDram s a bs) d = home (modHome (putDram s a bs) (dpaDie a) fun h => { h with
      waiters := h.waiters.filter fun w => !(a < w.dpa + 8 && w.dpa < a + bs.length && waiterMet (putDram s a bs) w) }) d := by
    unfold storeDram afterStore
    refine (foldl_keeps (fun s => home s d) hqueued _ _).trans (foldl_keeps (fun s => home s d) (fun s w => ?_) _ _)
    rw [notifyWaiter, home_sendPacket]
  rw [hfold, home_modHome]
  split
  · next h => subst h; exact ⟨_, rfl⟩
  · exact ⟨(home s d).waiters, rfl⟩

/-- R386. Bytes packed as the data of a packet. -/
theorem packData_extract (bs : List Byte) {j : Nat} (hlen : bs.length ≤ 128) (hj : j < bs.length) :
    (packData bs).extractLsb' (8 * j) 8 = bs.getD j 0#8 := by
  have hfold : ofBytes bs = (bs.map BitVec.toNat).foldr (fun v acc => v + 2 ^ 8 * acc) 0 := by
    rw [List.foldr_map]
    rfl
  rw [packData, hfold, extractLsb'_packed 8 (bs.map BitVec.toNat) (fun v hv => ?_) (by rw [List.length_map]; omega) (by rwa [List.length_map])]
  · simp [List.getD_eq_getElem?_getD, hj]
  · obtain ⟨b, -, rfl⟩ := List.mem_map.mp hv
    exact b.isLt

section
variable {s s1 : State} {kind st : Nat} {q : Packet} {f : State → Nat → Packet → State} (ht : takeKind s kind = some (st, q, s1))
include ht

theorem serve_absent (h : dpaExists q.paddr = false) : serve s kind f = .fault (.noSuchAddress q.paddr) := by simp [serve, ht, h]

variable (hex : dpaExists q.paddr = true)
include hex

theorem serve_recorded (h : recordHeld s (st / 2) q = true) : serve s kind f = .next (f s1 (st / 2) q) := by simp [serve, ht, hex, h]

variable (hrec : recordHeld s (st / 2) q = false)
include hrec

theorem serve_unknown (h : forwardTo s q.paddr = none) : serve s kind f = .next s := by simp [serve, ht, hex, hrec, h]

theorem serve_forwards {b : Nat} (h : forwardTo s q.paddr = some b) (hst : st ≠ 2 * dpaDie b + 1) :
    serve s kind f = .next (sendPacket s1 st (2 * dpaDie b + 1) { q with fwd := true, paddr := b } none) := by
  simp [serve, ht, hex, hrec, h, hst]

theorem serve_home {b : Nat} (h : forwardTo s q.paddr = some b) (hst : st = 2 * dpaDie b + 1) (hheld : b / 128 ∉ (home s (dpaDie b)).held) :
    serve s kind f = .next (f s1 (dpaDie b) { q with paddr := b }) := by
  have hline : heldLine s b 1 = none := by simp [heldLine, linesOf, span, hheld]
  simp only [serve, ht, hex, hrec, h, hline, Bool.not_true, Bool.false_eq_true, if_false, if_neg (not_not_intro hst)]

end

/-- A request that its home serves performs there; one that has performed is answered whatever its address has become. -/
theorem serve_performs {s : State} {kind d : Nat} {p : Packet} (h : Serves s kind d p) (f : State → Nat → Packet → State) :
    p.kind = kind ∧ ∃ b y, serve s kind f = .next (f { s with inbox := b } d { p with paddr := y }) ∧
      (recordHeld s d p = false → y = p.paddr) := by
  obtain ⟨s1, q, ht, hex, hfw, hd, hheld, hp⟩ := h
  generalize p.paddr = a at hfw hd hheld hp
  subst hp hd
  obtain ⟨hkind, b, rfl⟩ := takeKind_frame ht
  have hst : (2 * dpaDie a + 1) / 2 = dpaDie a := by omega
  refine ⟨hkind, b, ?_⟩
  cases hrec : recordHeld s (dpaDie a) q with
  | true =>
    have h := serve_recorded (f := f) ht hex (by rwa [hst])
    rw [hst] at h
    exact ⟨q.paddr, h, fun hno => absurd (hrec.symm.trans hno) (by decide)⟩
  | false => exact ⟨a, serve_home ht hex (by rwa [hst]) hfw rfl hheld, fun _ => rfl⟩

/-- A request that its home has not applied performs there at its address. -/
theorem serve_fresh {s : State} {kind d : Nat} {p : Packet} (h : Serves s kind d p) (f : State → Nat → Packet → State)
    (hrec : recordHeld s d p = false) : ∃ b, serve s kind f = .next (f { s with inbox := b } d p) := by
  obtain ⟨-, b, y, hx, hy⟩ := serve_performs h f
  obtain rfl := hy hrec
  exact ⟨b, hx⟩

theorem kind_of_serves {s : State} {kind d : Nat} {p : Packet} (h : Serves s kind d p) : p.kind = kind :=
  (serve_performs h fun s _ _ => s).1

/-! What a home finds does not depend on the packets that its station has taken. -/

section
variable (s : State) (b : List (Nat × Packet))

theorem poisonIn_inbox (a n : Nat) : poisonIn { s with inbox := b } a n = poisonIn s a n := rfl

theorem dramNat_inbox (a n : Nat) : dramNat { s with inbox := b } a n = dramNat s a n := rfl

theorem wordAt_inbox (a : Nat) : wordAt { s with inbox := b } a = wordAt s a := rfl

theorem home_inbox (d : Nat) : home { s with inbox := b } d = home s d := rfl

theorem recordsOf_inbox (d key : Nat) : recordsOf { s with inbox := b } d key = recordsOf s d key := rfl

theorem replicasAt_inbox (a : Nat) : replicasAt { s with inbox := b } a = replicasAt s a := by
  simp only [replicasAt, regionEntry_of_memory (t := { s with inbox := b }) (s := s) rfl rfl rfl rfl]

theorem requestOf_inbox (p : Packet) : requestOf { s with inbox := b } p = requestOf s p := rfl

theorem replicasOf_inbox (p : Packet) : replicasOf { s with inbox := b } p = replicasOf s p := by
  simp only [replicasOf, replicasAt_inbox, requestOf_inbox]

theorem goesToAll_inbox (p : Packet) : goesToAll { s with inbox := b } p = goesToAll s p := by
  simp only [goesToAll, replicasAt_inbox, requestOf_inbox]

theorem storedAt_inbox {t : State} {a : Nat} {bs : List Byte} (h : StoredAt { s with inbox := b } t a bs) : StoredAt s t a bs := h

end

/-! ## READ and WRITE (R225, R386) -/

/-- The answer of home d to a request, whose address may have moved, and the memory that it leaves. -/
theorem answered_in {s : State} {d : Nat} {p r : Packet} {y : Nat} {P : Packet → Prop} (hP : P r) (ha : r.agent = p.agent) (hs : r.seq = p.seq) :
    (answer s d { p with paddr := y } r).mem = s.mem ∧ Answered (answer s d { p with paddr := y } r) d p P :=
  ⟨mem_answer .., answered_answer (p := p) s d hP ha hs⟩

section
variable {s : State} {d : Nat} {p : Packet}

theorem serveRead_poisoned (h : poisonIn s p.paddr (4 * p.dlen) = true) : serveRead s d p = answer s d p (answerTo p 8 2) := if_pos h

/-- The answer that carries the bytes of a line. -/
def readReply (s : State) (p : Packet) : Packet :=
  { answerTo p 8 0 with dlen := p.dlen, data := packData (dramBytes s p.paddr (4 * p.dlen)) }

theorem serveRead_reads (h : poisonIn s p.paddr (4 * p.dlen) = false) : serveRead s d p = answer s d p (readReply s p) := by
  rw [serveRead, h]
  rfl

theorem recordHeld_read (h : p.kind = 1) : recordHeld s d p = false := by simp [recordHeld, h]

theorem recordHeld_wait (h : p.kind = 6) : recordHeld s d p = false := by simp [recordHeld, h]

theorem recordHeld_write (h : p.kind = 2) : recordHeld s d p = alreadySeen s d p := by simp [recordHeld, h]

theorem recordHeld_acc (h : p.kind = 5) : recordHeld s d p = alreadySeen s d p := by simp [recordHeld, h]

theorem alreadySeen_fresh (h : (requesterKey p, p.seq) ∉ (home s d).seen) : alreadySeen s d p = false := by simpa [alreadySeen] using h

/-- A repeated store or addition changes no memory. -/
theorem serveWrite_repeated (h : alreadySeen s d p = true) :
    serveWrite s d p = (remulticast s d p).getD (answer s d p (answerTo p 9 0)) := by simp [serveWrite, h]

theorem serveAcc_repeated (h : alreadySeen s d p = true) :
    serveAcc s d p = (remulticast s d p).getD (answer s d p (answerTo p 9 0)) := by simp [serveAcc, h]

theorem mem_repeated (s : State) (d : Nat) (p r : Packet) : ((remulticast s d p).getD (answer s d p r)).mem = s.mem :=
  congrArg Prod.fst (memories_remulticast_getD s _ d p (memories_answer ..))

variable (hnew : alreadySeen s d p = false) (hstep : p.stepw = false)
include hnew hstep

theorem serveWrite_stores (h : goesToAll s p = false) :
    serveWrite s d p = answer (storeDram (noteSeen s d p) p.paddr p.bytes) d p (answerTo p 9 0) := by simp [serveWrite, hnew, hstep, h]

theorem serveWrite_offline (h : goesToAll s p = true) (ho : (home s d).online = false) :
    serveWrite s d p = answer s d p (answerTo p 9 4) := by simp [serveWrite, hnew, hstep, h, ho]

end

/-! ## Atomics (R226, R227, R375) -/

/-- R10. A number of w bits read as a signed one. -/
theorem signed_toNat {w : Nat} (x : BitVec w) : signed x.toNat w = x.toInt := by
  have h := signed_field x w 0
  rwa [Nat.mul_zero, field, pow_zero, Nat.div_one, Nat.mod_eq_of_lt x.isLt, BitVec.extractLsb'_eq_self] at h

/-- R375. What an atomic leaves, in numbers and in words. -/
theorem atomValue_eq {w : Nat} (op : Nat) (m v c : BitVec w) : atomValue op w m.toNat v.toNat c.toNat = (atomResult w op m v c).toNat := by
  unfold atomValue atomResult
  dsimp only
  simp only [signed_toNat]
  split
  · exact (BitVec.toNat_add ..).symm
  · exact (BitVec.toNat_and ..).symm
  · exact (BitVec.toNat_or ..).symm
  · exact (BitVec.toNat_xor ..).symm
  · rw [apply_ite BitVec.toNat, BitVec.slt]
  · rw [apply_ite BitVec.toNat, BitVec.slt]
  · rw [apply_ite BitVec.toNat, BitVec.ult, Nat.min_def]
    simp only [decide_eq_true_eq]
    split <;> split <;> omega
  · rw [apply_ite BitVec.toNat, BitVec.ult, Nat.max_def]
    simp only [decide_eq_true_eq]
    split <;> split <;> omega
  · rfl
  · simp only [apply_ite BitVec.toNat, BitVec.toNat_inj]
  · rfl

section
variable {s : State} {d : Nat} {p : Packet}

theorem serveAtom_offline (h : (home s d).online = false) : serveAtom s d p = answer s d p (answerTo p 0xA 4) := by simp [serveAtom, h]

theorem any_recordsOf (key : Nat) (x : BitVec 32) :
    ((recordsOf s d key).any fun r => r.seq = x) = (home s d).atoms.any fun r => r.agent = key && r.seq = x := by
  rw [recordsOf, List.any_filter]

theorem not_beyondRecords {rs : List AtomRecord} (h : rs.length < 256) (x : BitVec 32) : beyondRecords rs x = false := by
  have h' : ¬rs.length ≥ Config.maxAtomRecords := Nat.not_le.mpr h
  rw [beyondRecords, decide_eq_false h', Bool.false_and]

variable (ho : (home s d).online = true)
include ho

theorem serveAtom_refused (h : ((home s d).atoms.any fun r => r.agent = requesterKey p && r.seq = p.seq) = true) :
    serveAtom s d p = answer s d p (answerTo p 0xE 0) := by
  simp only [serveAtom, ho, any_recordsOf, h, Bool.not_true, Bool.true_or, Bool.false_eq_true, if_false, if_true]

variable (hno : ((home s d).atoms.any fun r => r.agent = requesterKey p && r.seq = p.seq) = false)
  (hlen : (recordsOf s d (requesterKey p)).length < 256) {n : Nat} (hn : n = if p.data.toNat.testBit 9 then 4 else 8)
include hno hlen hn

theorem serveAtom_poisoned (h : poisonIn s p.paddr n = true) : serveAtom s d p = answer s d p (answerTo p 0xA 2) := by
  simp only [serveAtom, ho, any_recordsOf, hno, not_beyondRecords hlen, ← hn, h, Bool.not_true, Bool.or_self, Bool.false_eq_true, if_false,
    if_true]

/-- R375. At an address that is not replicated the store performs and the old value is the answer. -/
theorem serveAtom_performs (h : poisonIn s p.paddr n = false) (hr : replicasOf s p = [p.paddr]) :
    serveAtom s d p = answer
      (storeDram (keepRecord s d { agent := requesterKey p, seq := p.seq, result := some (BitVec.ofNat 64 (dramNat s p.paddr n)) }) p.paddr
        (bytesOf (atomValue (field p.data.toNat 10 4) (8 * n) (dramNat s p.paddr n) (p.opa.toNat % 2 ^ (8 * n)) (p.opb.toNat % 2 ^ (8 * n))) n))
      d p { answerTo p 0xA 0 with opa := BitVec.ofNat 64 (dramNat s p.paddr n) } := by
  simp [serveAtom, ho, any_recordsOf, hno, not_beyondRecords hlen, ← hn, h, multicast, hr]

end

/-- R226. A record kept, while there are fewer than 256 of its requester. -/
theorem mem_keepRecord {s : State} {d : Nat} {r : AtomRecord} (h : (recordsOf s d r.agent).length < 256) : r ∈ (home (keepRecord s d r) d).atoms := by
  have hfew : ¬(recordsOf s d r.agent ++ [r]).length > Config.maxAtomRecords := by
    rw [List.length_append]
    exact Nat.not_lt.mpr h
  rw [keepRecord, home_modHome, if_pos rfl, decide_eq_false hfew]
  simp

/-- R375. The old value of an atomic of w bits, and what it leaves, as words. -/
theorem atom_words {s : State} {a w : Nat} (hw : w = 32 ∨ w = 64) (op : Nat) (v c : Word) :
    let m := BitVec.ofNat w (dramNat s a (w / 8))
    BitVec.ofNat 64 (dramNat s a (w / 8)) = m.setWidth 64 ∧
      atomValue op (8 * (w / 8)) (dramNat s a (w / 8)) (v.toNat % 2 ^ (8 * (w / 8))) (c.toNat % 2 ^ (8 * (w / 8))) =
        (atomResult w op m (v.setWidth w) (c.setWidth w)).toNat := by
  have h8 : 8 * (w / 8) = w := by omega
  have hlt : dramNat s a (w / 8) < 2 ^ w := by
    have h := ofBytes_lt (dramBytes s a (w / 8))
    rw [dramBytes, length_readBytes, show 256 = 2 ^ 8 from rfl, ← Nat.pow_mul, h8] at h
    exact h
  have hm : (BitVec.ofNat w (dramNat s a (w / 8))).toNat = dramNat s a (w / 8) := by rw [BitVec.toNat_ofNat, Nat.mod_eq_of_lt hlt]
  dsimp only
  constructor
  · apply BitVec.eq_of_toNat_eq
    rw [BitVec.toNat_setWidth, hm, BitVec.toNat_ofNat]
  · rw [← atomValue_eq, hm, BitVec.toNat_setWidth, BitVec.toNat_setWidth, h8]

/-- R375. The width of an atomic, in bits and in bytes. -/
theorem atom_width {p : Packet} {w : Nat} (hw : w = if p.data.getLsbD 9 then 32 else 64) :
    (w = 32 ∨ w = 64) ∧ w / 8 = if p.data.toNat.testBit 9 then 4 else 8 := by
  have h : p.data.toNat.testBit 9 = p.data.getLsbD 9 := rfl
  rw [h, hw]
  cases p.data.getLsbD 9
  · exact ⟨.inr rfl, rfl⟩
  · exact ⟨.inl rfl, rfl⟩

/-- R226, R375. What an atomic at an address that is not replicated leaves. -/
theorem serveAtom_leaves {s : State} {d : Nat} {p : Packet} {w : Nat} (hw : w = if p.data.getLsbD 9 then 32 else 64)
    (ho : (home s d).online = true) (hno : ((home s d).atoms.any fun r => r.agent = requesterKey p && r.seq = p.seq) = false)
    (hlen : (recordsOf s d (requesterKey p)).length < 256) (hp : poisonIn s p.paddr (w / 8) = false) (hr : replicasOf s p = [p.paddr]) :
    let m := BitVec.ofNat w (dramNat s p.paddr (w / 8))
    StoredAt s (serveAtom s d p) p.paddr
        (bytesOf (atomResult w (p.data.toNat / 2 ^ 10 % 16) m (p.opa.setWidth w) (p.opb.setWidth w)).toNat (w / 8)) ∧
      Answered (serveAtom s d p) d p (fun r => r.kind = 0xA ∧ r.status = 0 ∧ r.opa = m.setWidth 64) ∧
      ∃ r ∈ (home (serveAtom s d p) d).atoms, r.agent = requesterKey p ∧ r.seq = p.seq ∧ r.result = some (m.setWidth 64) := by
  obtain ⟨hw', hn⟩ := atom_width hw
  obtain ⟨hold, hnew⟩ := atom_words (s := s) (a := p.paddr) hw' (field p.data.toNat 10 4) p.opa p.opb
  have hperf := serveAtom_performs ho hno hlen hn hp hr
  dsimp only at hold hnew ⊢
  rw [hnew] at hperf
  rw [hperf, ← hold]
  refine ⟨fun x => ?_, answered_answer _ d ⟨rfl, rfl, rfl⟩ rfl rfl, ?_⟩
  · rw [mem_answer]
    exact storedAt_storeDram _ _ _ x
  · obtain ⟨ws, hhome⟩ := home_storeDram (keepRecord s d { agent := requesterKey p, seq := p.seq, result := some (BitVec.ofNat 64 (dramNat s p.paddr (w / 8))) })
      p.paddr (bytesOf (atomResult w (field p.data.toNat 10 4) (BitVec.ofNat w (dramNat s p.paddr (w / 8))) (p.opa.setWidth w) (p.opb.setWidth w)).toNat (w / 8)) d
    rw [home_answer, hhome]
    exact ⟨_, mem_keepRecord hlen, rfl, rfl, rfl⟩

/-! ## Stores to every replica (R211) -/

section
variable {s : State} {d : Nat} {p reply : Packet} {homes : List Nat} {bs : List Byte}

theorem multicast_alone (h : ∀ b ∈ homes, b = p.paddr) :
    multicast s d p reply homes bs = answer (storeDram s p.paddr bs) d p reply := by
  have hnone : homes.filter (· ≠ p.paddr) = [] := List.filter_eq_nil_iff.mpr fun b hb => by simpa using h b hb
  simp only [multicast, hnone, List.isEmpty_nil, if_true]

theorem home_sendMcast (s : State) (d : Nat) (m : Mcast) (homes : List Nat) (d' : Nat) : home (sendMcast s d m homes) d' = home s d' :=
  foldl_keeps (fun s => home s d') (fun _ _ => home_sendPacket ..) _ _

/-- The store performs at the anchor. -/
theorem storedAt_multicast : StoredAt s (multicast s d p reply homes bs) p.paddr bs := by
  have hmem : (multicast s d p reply homes bs).mem = (storeDram s p.paddr bs).mem := by
    unfold multicast
    dsimp only
    split
    · exact mem_answer ..
    · exact congrArg Prod.fst (memories_sendMcast ..)
  intro x
  rw [hmem]
  exact storedAt_storeDram s p.paddr bs x

/-- Where there is another replica the anchor keeps a numbered store. -/
theorem mcasts_multicast {b : Nat} (hb : b ∈ homes) (hne : b ≠ p.paddr) :
    (home (multicast s d p reply homes bs) d).mcasts.length = (home s d).mcasts.length + 1 := by
  have hsome : (homes.filter (· ≠ p.paddr)).isEmpty = false := by
    rw [List.isEmpty_eq_false_iff_exists_mem]
    exact ⟨b, List.mem_filter.mpr ⟨hb, by simpa using hne⟩⟩
  obtain ⟨ws, hhome⟩ := home_storeDram s p.paddr bs d
  simp only [multicast, hsome, Bool.false_eq_true, if_false, home_sendMcast]
  rw [home_modHome, if_pos rfl, hhome]
  exact List.length_append

end

/-! ## Chunk fetches (R138, R139) -/

/-- R139. The length of the chunk that the descriptor at a hands out. -/
def chunkAt (s : State) (a : Nat) : Nat :=
  chunkLength (dramNat s (a + 8) 8 - dramNat s a 8) (max (dramNat s (a + 16) 4) 1) (max (dramNat s (a + 20) 4) 1)

/-- R225. A fetch noted with its chunk. -/
def chunkNoted (s : State) (d : Nat) (p : Packet) : State :=
  modHome s d fun h => { h with
    cfaDone := (h.cfaDone.filter fun x => x.agent ≥ 128 || (findReq s x.agent x.seq).isSome) ++
      [{ agent := requesterKey p, seq := p.seq, start := dramNat s p.paddr 8, len := chunkAt s p.paddr }] }

/-- R139. The answer that gives a chunk. -/
def chunkReply (p : Packet) (start len : Nat) : Packet :=
  { answerTo p 8 0 with dlen := 4, data := BitVec.ofNat 1024 (start + len * 2 ^ 64) }

section
variable {s : State} {d : Nat} {p : Packet}

/-- A fetch that the home has served is answered by its record. -/
theorem serveCfa_repeated {r : CfaRecord} (h : ((home s d).cfaDone.find? fun r => r.agent = requesterKey p && r.seq = p.seq) = some r) :
    serveCfa s d p = answer s d p (chunkReply p r.start r.len) := by
  simp only [serveCfa, h, chunkReply]

variable (hnone : ((home s d).cfaDone.find? fun r => r.agent = requesterKey p && r.seq = p.seq) = none)
include hnone

theorem serveCfa_offline (h : (home s d).online = false) : serveCfa s d p = answer s d p (answerTo p 8 4) := by
  simp only [serveCfa, hnone, h, Bool.not_false, if_true]

variable (ho : (home s d).online = true) (hp : poisonIn s p.paddr 24 = false)
include ho hp

theorem serveCfa_over (h : chunkAt s p.paddr = 0) :
    serveCfa s d p = answer (chunkNoted s d p) d p (chunkReply p (dramNat s p.paddr 8) 0) := by
  have hl := h
  rw [chunkAt] at h
  simp only [serveCfa, hnone, ho, hp, h, Bool.not_true, Bool.false_eq_true, if_false, if_true, chunkNoted, chunkReply, hl]

theorem serveCfa_hands (h : chunkAt s p.paddr ≠ 0) :
    serveCfa s d p = multicast (chunkNoted s d p) d p (chunkReply p (dramNat s p.paddr 8) (chunkAt s p.paddr)) (replicasOf s p)
      (bytesOf (dramNat s p.paddr 8 + chunkAt s p.paddr) 8) := by
  have hl : chunkLength (dramNat s (p.paddr + 8) 8 - dramNat s p.paddr 8) (max (dramNat s (p.paddr + 16) 4) 1)
      (max (dramNat s (p.paddr + 20) 4) 1) = chunkAt s p.paddr := rfl
  simp only [serveCfa, hnone, ho, hp, hl, h, Bool.not_true, Bool.false_eq_true, if_false, chunkNoted, chunkReply]

end

/-- R139. What a fetch that is served for the first time leaves. -/
theorem serveCfa_leaves {s : State} {d : Nat} {p : Packet}
    (hnone : ((home s d).cfaDone.find? fun r => r.agent = requesterKey p && r.seq = p.seq) = none) (ho : (home s d).online = true)
    (hp : poisonIn s p.paddr 24 = false) : let t := serveCfa s d p
    (chunkAt s p.paddr = 0 → t.mem = s.mem) ∧
      (0 < chunkAt s p.paddr → StoredAt s t p.paddr (bytesOf (dramNat s p.paddr 8 + chunkAt s p.paddr) 8)) ∧
      ((chunkAt s p.paddr = 0 ∨ ∀ b ∈ replicasOf s p, b = p.paddr) → Answered t d p fun r =>
        r.kind = 8 ∧ r.status = 0 ∧ r.data = BitVec.ofNat 1024 (dramNat s p.paddr 8 + chunkAt s p.paddr * 2 ^ 64)) ∧
      ∀ b ∈ replicasOf s p, b ≠ p.paddr → 0 < chunkAt s p.paddr → (home t d).mcasts.length = (home s d).mcasts.length + 1 := by
  have hmcasts : (home (chunkNoted s d p) d).mcasts = (home s d).mcasts := by rw [chunkNoted, home_modHome, if_pos rfl]
  dsimp only
  by_cases h : chunkAt s p.paddr = 0
  · rw [serveCfa_over hnone ho hp h, h]
    exact ⟨fun _ => mem_answer .., fun hlt => absurd hlt (by decide), fun _ => answered_answer _ d ⟨rfl, rfl, rfl⟩ rfl rfl,
      fun _ _ _ hlt => absurd hlt (by decide)⟩
  · rw [serveCfa_hands hnone ho hp h]
    refine ⟨fun h0 => absurd h0 h, fun _ x => storedAt_multicast x, fun hall => ?_, fun b hb hne _ => ?_⟩
    · rw [multicast_alone (hall.resolve_left h)]
      exact answered_answer _ d ⟨rfl, rfl, rfl⟩ rfl rfl
    · rw [mcasts_multicast hb hne, hmcasts]

/-! ## Additions (R374) -/

/-- Part of a range without poison has none. -/
theorem poisonIn_part {s : State} {a b m n : Nat} (h : poisonIn s a n = false) (hl : a ≤ b) (hr : b + m ≤ a + n) : poisonIn s b m = false := by
  simp only [poisonIn, List.any_eq_false, Bool.and_eq_true, decide_eq_true_eq, not_and] at h ⊢
  exact fun w hw hb => fun hx => h w hw (by omega) (by omega)

theorem wordAt_congr {s t : State} {b : Nat} (h : ∀ i, i < 8 → readByte t.mem (b + i) = readByte s.mem (b + i)) : wordAt t b = wordAt s b := by
  have hb : dramBytes t b 8 = dramBytes s b 8 := List.map_congr_left fun i hi => h i (List.mem_range.mp hi)
  rw [wordAt, dramNat, hb, wordAt, dramNat]

/-- One word of an addition: the i-th, where its bit is set. -/
def accWord (a : Nat) (s : State) (x : Option Int × Nat) : State :=
  x.1.elim s fun w => storeDramNat s (a + 8 * x.2) (wrapN (dramNat s (a + 8 * x.2) 8 + w) 64) 8

/-- What a word of an addition adds. -/
def accTerm (x : Option Int × Nat) : Word := x.1.elim 0#64 (BitVec.ofInt 64)

theorem accDram_eq (s : State) (a : Nat) (ws : List (Option Int)) :
    accDram s a ws = (ws.zip (List.range ws.length)).foldl (accWord a) s := by
  unfold accDram
  congr 1
  funext s x
  obtain ⟨w, i⟩ := x
  cases w <;> rfl

theorem wordAt_accWord (a : Nat) (s : State) (x : Option Int × Nat) :
    wordAt (accWord a s x) (a + 8 * x.2) = wordAt s (a + 8 * x.2) + accTerm x := by
  obtain ⟨w, i⟩ := x
  cases w with
  | none => exact (BitVec.add_zero _).symm
  | some w =>
    have hw : BitVec.ofNat 64 (wrapN (dramNat s (a + 8 * i) 8 + w) 64 % 256 ^ 8) = BitVec.ofInt 64 (dramNat s (a + 8 * i) 8 + w) := by
      apply BitVec.eq_of_toNat_eq
      rw [BitVec.toNat_ofNat, BitVec.toNat_ofInt, wrapN]
      omega
    show BitVec.ofNat 64 (dramNat (storeDramNat s (a + 8 * i) _ 8) (a + 8 * i) 8) = _
    rw [dramNat_storeDramNat, hw, BitVec.ofInt_add, BitVec.ofInt_natCast]
    rfl

theorem readByte_accWord {a b : Nat} (s : State) (x : Option Int × Nat) (h : b < a + 8 * x.2 ∨ a + 8 * x.2 + 8 ≤ b) :
    readByte (accWord a s x).mem b = readByte s.mem b := by
  obtain ⟨w, i⟩ := x
  cases w with
  | none => rfl
  | some w =>
    refine (storedAt_storeDram s (a + 8 * i) _ b).trans (if_neg ?_)
    rw [length_bytesOf]
    dsimp only at h
    omega

/-- R374. Words added at places of their own: each has risen by its term, and no other byte has changed. -/
theorem accWords_fold (a : Nat) : ∀ (xs : List (Option Int × Nat)) (s : State), (xs.map (·.2)).Nodup →
    (∀ x ∈ xs, wordAt (xs.foldl (accWord a) s) (a + 8 * x.2) = wordAt s (a + 8 * x.2) + accTerm x) ∧
    ∀ b, (∀ x ∈ xs, b < a + 8 * x.2 ∨ a + 8 * x.2 + 8 ≤ b) → readByte (xs.foldl (accWord a) s).mem b = readByte s.mem b
  | [], _, _ => ⟨fun _ h => absurd h List.not_mem_nil, fun _ _ => rfl⟩
  | x :: xs, s, hnd => by
    obtain ⟨hx, hnd⟩ := List.nodup_cons.mp hnd
    obtain ⟨hwords, hbytes⟩ := accWords_fold a xs (accWord a s x) hnd
    have hne : ∀ y ∈ xs, y.2 ≠ x.2 := fun y hy he => hx (List.mem_map.mpr ⟨y, hy, he⟩)
    refine ⟨fun y hy => ?_, fun b hb => ?_⟩
    · rw [List.foldl_cons]
      rcases List.mem_cons.mp hy with rfl | hy
      · rw [← wordAt_accWord]
        refine wordAt_congr fun i hi => hbytes _ fun z hz => ?_
        have := hne z hz
        omega
      · rw [hwords y hy]
        refine congrArg (· + accTerm y) (wordAt_congr fun i hi => readByte_accWord s x ?_)
        have := hne y hy
        omega
    · rw [List.foldl_cons, hbytes b fun y hy => hb y (List.mem_cons_of_mem _ hy), readByte_accWord s x (hb x List.mem_cons_self)]

/-- R374. An addition of an ACC packet at an address. -/
theorem accDram_adds (s : State) (a : Nat) (p : Packet) :
    (∀ i, i < p.dlen / 2 → wordAt (accDram s a (accOf p)) (a + 8 * i) = wordAt s (a + 8 * i) +
      if p.opb.getLsbD i then p.data.extractLsb' (64 * i) 64 else 0#64) ∧
    ∀ x, (x < a ∨ a + 8 * (p.dlen / 2) ≤ x) → readByte (accDram s a (accOf p)).mem x = readByte s.mem x := by
  have hlen : (accOf p).length = p.dlen / 2 := by simp [accOf]
  have hnd : (((accOf p).zip (List.range (accOf p).length)).map (·.2)).Nodup := by
    rw [List.map_snd_zip (by simp)]
    exact List.nodup_range
  obtain ⟨hwords, hbytes⟩ := accWords_fold a _ s hnd
  rw [accDram_eq]
  refine ⟨fun i hi => ?_, fun x hx => hbytes x fun y hy => ?_⟩
  · have hmem : ((accOf p)[i]'(by omega), i) ∈ (accOf p).zip (List.range (accOf p).length) := by
      rw [List.mem_iff_getElem]
      exact ⟨i, by simp [hlen, hi], by simp⟩
    rw [hwords _ hmem]
    simp only [accOf, List.getElem_map, List.getElem_range, accTerm, signed_field]
    split
    · rw [Option.elim_some, BitVec.ofInt_toInt]
    · rfl
  · have := List.mem_range.mp (List.of_mem_zip hy).2
    omega

section
variable {s : State} {d : Nat} {p : Packet} (hnew : alreadySeen s d p = false) (hstep : p.stepw = false)
include hnew hstep

theorem serveAcc_offline (h : (home s d).online = false) : serveAcc s d p = answer s d p (answerTo p 9 4) := by
  simp [serveAcc, hnew, hstep, h]

theorem serveAcc_adds (ho : (home s d).online = true) (hall : goesToAll s p = false) (hp : poisonIn s p.paddr (4 * p.dlen) = false) :
    serveAcc s d p = answer (accDram (noteSeen s d p) p.paddr (accOf p)) d p (answerTo p 9 0) := by
  have hlen : (accOf p).length = p.dlen / 2 := by simp [accOf]
  have hgood : ∀ x ∈ (List.range (accOf p).length).zip (accOf p), poisonIn s (p.paddr + 8 * x.1) 8 = false := fun x hx => by
    have := List.mem_range.mp (List.of_mem_zip hx).1
    exact poisonIn_part hp (by omega) (by omega)
  have hhurt : (((List.range (accOf p).length).zip (accOf p)).any fun x => x.2.isSome && poisonIn s (p.paddr + 8 * x.1) 8) = false :=
    List.any_eq_false.mpr fun x hx => by simp [hgood x hx]
  have hws : (((List.range (accOf p).length).zip (accOf p)).map fun x => if poisonIn s (p.paddr + 8 * x.1) 8 = true then none else x.2) =
      accOf p :=
    (List.map_congr_left fun x hx => by rw [hgood x hx]; rfl).trans (List.map_snd_zip (by simp))
  simp only [serveAcc, hnew, hstep, ho, hall, hhurt, hws, Bool.not_true, Bool.not_false, Bool.false_eq_true, if_false, if_true]

end


/-! ## Registrations (R128) -/

/-- R128. The registration that a request asks for. -/
def waiterOf (p : Packet) : Waiter :=
  { dpa := p.paddr, join := p.opa.getLsbD 0, wp := ⟨field p.opa.toNat 32 32, field p.opa.toNat 12 20⟩, die := field p.opa.toNat 1 3 }

/-- The answer of a home to a registration. -/
def waitReply (p : Packet) (st : Nat) : Packet := { answerTo p 0xB st with opa := p.opa }

theorem dramNat_lt (s : State) (a n : Nat) : dramNat s a n < 256 ^ n := by
  have h := ofBytes_lt (dramBytes s a n)
  rwa [dramBytes, length_readBytes] at h

theorem wordAt_zero (s : State) (a : Nat) : wordAt s a = 0#64 ↔ dramNat s a 8 = 0 := by
  have h := dramNat_lt s a 8
  rw [wordAt, ← BitVec.toNat_inj, BitVec.toNat_ofNat, BitVec.toNat_ofNat, Nat.mod_eq_of_lt (by omega), Nat.zero_mod]

/-- R128. When the condition of a registration holds. -/
theorem waiterMet_iff (s : State) (w : Waiter) : waiterMet s w = true ↔
    poisonIn s w.dpa 8 = false ∧ if w.join then wordAt s w.dpa = 0#64 else wordAt s w.dpa ≠ 0#64 := by
  cases hj : w.join <;> simp [waiterMet, hj, wordAt_zero]

section
variable {s : State} {d : Nat} {p : Packet}

theorem serveWait_offline (h : (home s d).online = false) : serveWait s d p = answer s d p (waitReply p 2) := by
  simp only [serveWait, h, Bool.not_false, if_true, waitReply]

variable (ho : (home s d).online = true)
include ho

theorem serveWait_met (h : waiterMet s (waiterOf p) = true) : serveWait s d p = answer s d p (waitReply p 1) := by
  rw [waiterOf] at h
  simp only [serveWait, ho, h, Bool.not_true, Bool.false_eq_true, if_false, if_true, waitReply]

variable (hno : waiterMet s (waiterOf p) = false)
include hno

theorem serveWait_full (h : 64 ≤ ((home s d).waiters.filter fun x => x.dpa = p.paddr).length) :
    serveWait s d p = answer s d p (waitReply p 2) := by
  rw [waiterOf] at hno
  have h' : ((home s d).waiters.filter fun x => x.dpa = p.paddr).length ≥ Config.maxWaiters := h
  simp only [serveWait, ho, hno, h', Bool.not_true, Bool.false_eq_true, if_false, if_true, waitReply]

theorem serveWait_registers (h : ¬64 ≤ ((home s d).waiters.filter fun x => x.dpa = p.paddr).length) :
    serveWait s d p = answer (modHome s d fun h => { h with waiters := h.waiters ++ [waiterOf p] }) d p (waitReply p 3) := by
  have hno' := hno
  rw [waiterOf] at hno
  have h' : ¬((home s d).waiters.filter fun x => x.dpa = p.paddr).length ≥ Config.maxWaiters := h
  simp only [serveWait, ho, hno, h', Bool.not_true, Bool.false_eq_true, if_false, waitReply, waiterOf]

end

/-! ## Recoveries (R226, R377) -/

/-- R377. The answer to a recovery. -/
def recovReply (p : Packet) (m st : Nat) : Packet := { answerTo p 8 0 with dlen := 4, data := BitVec.ofNat 1024 (m + st * 2 ^ 64) }

section
variable {s : State} {d : Nat} {p : Packet}

theorem serveRecov_recorded {r : AtomRecord} (h : (recordsOf s d (recoveredKey p)).find? (fun r => r.seq = p.opa.truncate 32) = some r) :
    serveRecov s d p = answer s d p (recovReply p (r.result.elim 0 BitVec.toNat) (r.result.elim 1 fun _ => 0)) := by
  simp only [serveRecov, h, recovReply]
  cases r.result <;> rfl

theorem serveRecov_marks (h : (recordsOf s d (recoveredKey p)).find? (fun r => r.seq = p.opa.truncate 32) = none)
    (hlen : (recordsOf s d (recoveredKey p)).length < 256) :
    serveRecov s d p =
      answer (keepRecord s d { agent := recoveredKey p, seq := p.opa.truncate 32, result := none }) d p (recovReply p 0 1) := by
  simp only [serveRecov, h, not_beyondRecords hlen, Bool.false_eq_true, if_false, recovReply]

end

/-! ## Numbered stores at a replica (R211) -/

section
variable {s s1 : State} {st : Nat} {p : Packet} {m : Mcast} (ht : takeKind s 0xC = some (st, p, s1))
  (hm : (home s (p.agent - 64)).mcasts = [m]) (hno : m.no % 2 ^ 32 = p.seq.toNat)
include ht hm hno

/-- The replica that has applied a numbered store, and its acknowledgement on its way. -/
def mcastApplied (s : State) (st : Nat) (p : Packet) : State :=
  sendPacket (modHome s (p.agent - 64) fun h => { h with mcasts := h.mcasts.map fun m =>
    if m.no % 2 ^ 32 = p.seq.toNat then { m with left := m.left.filter (· ≠ p.paddr) } else m }) st (2 * (p.agent - 64) + 1)
    { kind := 9, agent := p.agent, seq := p.seq, pkg := p.pkg, paddr := p.paddr } none

theorem execMcast_waits {line : Nat} (h : heldLine s p.paddr 1 = some line) : execMcast s = .next (sendSnoop s line) := by
  simp only [execMcast, ht, hm, h, List.find?_cons, hno, decide_true, Option.elim_some, List.any_cons, List.any_nil, Nat.lt_irrefl,
    decide_false, Bool.and_false, Bool.or_self, Bool.false_eq_true, if_false]

theorem execMcast_applies (h : heldLine s p.paddr 1 = none) :
    execMcast s = .next (mcastApplied (if m.left.contains p.paddr then storeDram s1 p.paddr (mcastBytes p) else s1) st p) := by
  simp only [execMcast, ht, hm, h, List.find?_cons, hno, decide_true, Option.elim_some, List.any_cons, List.any_nil, Nat.lt_irrefl,
    decide_false, Bool.and_false, Bool.or_self, Bool.false_eq_true, if_false]
  rfl

end

theorem mem_mcastApplied (s : State) (st : Nat) (p : Packet) : (mcastApplied s st p).mem = s.mem := mem_sendPacket ..

theorem mcasts_mcastApplied {s : State} (st : Nat) {p : Packet} {m : Mcast} (hm : (home s (p.agent - 64)).mcasts = [m])
    (hno : m.no % 2 ^ 32 = p.seq.toNat) :
    (home (mcastApplied s st p) (p.agent - 64)).mcasts = [{ m with left := m.left.filter (· ≠ p.paddr) }] := by
  rw [mcastApplied, home_sendPacket, home_modHome, if_pos rfl, hm]
  simp only [List.map_cons, List.map_nil, hno, if_true]

theorem mem_sendSnoop (s : State) (line : Nat) : (sendSnoop s line).mem = s.mem := congrArg Prod.fst (memories_sendSnoop ..)

/-! ## Migration (R230) -/

theorem mem_modHome (s : State) (d : Nat) (f : Home → Home) : (modHome s d f).mem = s.mem := rfl

theorem mem_putDram (s : State) (a : Nat) (bs : List Byte) : (putDram s a bs).mem = writeBytes s.mem a bs := rfl

theorem mem_poisonRange (s : State) (a n : Nat) : (poisonRange s a n).mem = s.mem := by
  unfold poisonRange
  split <;> rfl

theorem home_poisonRange (s : State) (a n d : Nat) : home (poisonRange s a n) d = home s d := by
  unfold poisonRange
  split <;> rfl

/-- R230. The line at a migration's pointer copied. -/
theorem storedAt_copyLine (s : State) (m : Migration) : StoredAt s (copyLine s m) (dpaOf m.newDie (m.newL + 128 * m.ptr))
    (dramBytes s (dpaOf m.oldDie (m.oldL + 128 * m.ptr)) 128) := by
  intro x
  unfold copyLine
  generalize dpaOf m.newDie (m.newL + 128 * m.ptr) = b
  generalize dpaOf m.oldDie (m.oldL + 128 * m.ptr) = a
  dsimp only
  rw [mem_modHome, mem_modHome, foldl_keeps State.mem (fun s w => mem_poisonRange ..), mem_putDram,
    readByte_writeBytes]

theorem migrations_modHome {s : State} {d d' : Nat} {f : Home → Home} (hf : ∀ h, (f h).migrations = h.migrations) :
    (home (modHome s d' f) d).migrations = (home s d).migrations := by
  rw [home_modHome]
  split
  · next h => rw [hf, h]
  · rfl

/-- Registrations move with a line; no home's migrations change. -/
theorem migrations_copyLine (s : State) (m : Migration) (d : Nat) : (home (copyLine s m) d).migrations = (home s d).migrations := by
  unfold copyLine
  dsimp only
  refine (migrations_modHome ?_).trans ((migrations_modHome ?_).trans
    (congrArg Home.migrations (foldl_keeps (fun s => home s d) (fun s w => home_poisonRange ..) _ _)))
  · exact fun _ => rfl
  · exact fun _ => rfl

/-- R230. A line that has arrived is copied, and its migration's pointer is past it. -/
def linePast (s : State) (old : Nat) (m : Migration) : State :=
  modHome (copyLine s m) old fun h => { h with migrations := h.migrations.map fun x => if x = m then { m with ptr := m.ptr + 1 } else x }

/-- R230. The next line of a migration on its way, or its end queued. -/
def lineSent (t : State) (old : Nat) (m : Migration) : State :=
  if 128 * (m.ptr + 1) ≥ m.size then enqueue t .migrationComplete { die := old } else sendLine t { m with ptr := m.ptr + 1 }

theorem mem_lineSent (t : State) (old : Nat) (m : Migration) : (lineSent t old m).mem = t.mem := by
  unfold lineSent
  split
  · rfl
  · exact mem_sendPacket ..

theorem home_lineSent (t : State) (old : Nat) (m : Migration) (d : Nat) : home (lineSent t old m) d = home t d := by
  unfold lineSent
  split
  · rfl
  · exact home_sendPacket ..

theorem execMigline_copies {s s1 : State} {st : Nat} {p : Packet} {m : Migration} (ht : takeKind s 0xD = some (st, p, s1))
    (hm : (home s (p.agent - 64)).migrations.find? (fun m => m.cmd % 2 ^ 32 = p.seq.toNat) = some m) : execMigline s =
      .next (lineSent (linePast s1 (p.agent - 64) m) (p.agent - 64) m) := by
  simp only [execMigline, ht, hm]
  rfl

theorem mem_linePast (s : State) (old : Nat) {m : Migration} (hm : m ∈ (home s old).migrations) :
    { m with ptr := m.ptr + 1 } ∈ (home (linePast s old m) old).migrations := by
  rw [linePast, home_modHome, if_pos rfl, migrations_copyLine]
  exact List.mem_map.mpr ⟨m, hm, if_pos rfl⟩

/-- R230. The forwarding record of a page that has moved. -/
def forwardingTo (base : Nat) (m : Migration) : Forwarding :=
  { oldPa := base, oldL := m.oldL, size := m.size, newDie := m.newDie, newL := m.newL }

/-- R230. A migration whose last line has been copied. -/
theorem finishMigration_frame (s : State) (m : Migration) : ∃ es, finishMigration s m =
    modCmd (modHome
        { (storeDramNat s (atHome s m.entryAt) (movedEntry (dramNat s (atHome s m.entryAt) 8) m.newL m.newPlc) 8) with engines := es }
      m.oldDie fun h => { h with
        migrations := h.migrations.filter (· ≠ m),
        forwarding := h.forwarding ++ [forwardingTo (pteFrame (dramNat s (atHome s m.entryAt) 8)) m] })
      m.cmd fun c => { c with result := some 0#64 } := ⟨_, rfl⟩

theorem movedEntry_eq (e newL newPlc : Nat) :
    movedEntry e newL newPlc = e % 2 ^ 16 + newL / 4096 * 2 ^ 16 + e / 2 ^ 52 % 2 ^ 8 * 2 ^ 52 + newPlc * 2 ^ 60 := rfl

theorem cmds_storeDram (s : State) (a : Nat) (bs : List Byte) : (storeDram s a bs).cmds = s.cmds :=
  State.of_unstored (unstored_storeDram ..) State.cmds

/-- R230. The page's entry names the new frame, a forwarding record stays, and the command's result is zero. -/
theorem finishMigration_ends (s : State) (m : Migration) : let t := finishMigration s m
    StoredAt s t (atHome s m.entryAt) (bytesOf (movedEntry (dramNat s (atHome s m.entryAt) 8) m.newL m.newPlc) 8) ∧
      m ∉ (home t m.oldDie).migrations ∧
      (∃ f ∈ (home t m.oldDie).forwarding, f.oldL = m.oldL ∧ f.size = m.size ∧ f.newDie = m.newDie ∧ f.newL = m.newL) ∧
      ∀ x, findCmd s m.cmd = some x → ∃ y, findCmd t m.cmd = some y ∧ y.result = some 0#64 := by
  obtain ⟨es, h⟩ := finishMigration_frame s m
  dsimp only
  rw [h]
  have hhome (d : Nat) (f : Cmd → Cmd) (t : State) : home (modCmd t m.cmd f) d = home t d := rfl
  refine ⟨fun x => storedAt_storeDram s _ _ x, ?_, ?_, fun x hx => ?_⟩
  · rw [hhome, home_modHome, if_pos rfl]
    simp
  · rw [hhome, home_modHome, if_pos rfl]
    exact ⟨_, List.mem_append_right _ (List.mem_singleton.mpr rfl), rfl, rfl, rfl, rfl⟩
  · have hx' : findCmd (storeDramNat s (atHome s m.entryAt) (movedEntry (dramNat s (atHome s m.entryAt) 8) m.newL m.newPlc) 8) m.cmd = some x := by
      rw [findCmd, storeDramNat, cmds_storeDram]
      exact hx
    exact ⟨_, (findCmd_modCmd_same _ _ (f := fun c : Cmd => { c with result := some 0#64 }) fun _ => rfl).trans (congrArg _ hx'), rfl⟩

/-! ## Join decrements (R129) -/

section
variable {s : State} {j : JoinDec} {rest : List JoinDec} {b : Nat} (hj : s.joinDecs = j :: rest) (hi : s.arg.index = 0)
  (hf : forwardTo s j.dpa = some b)
include hj hi hf

theorem execJoinDecrement_waits {line : Nat} (h : heldLine s b 8 = some line) : execJoinDecrement s = .next (sendSnoop s line) := by
  simp only [execJoinDecrement, hi, hj, takeNth, if_true, hf, h]

variable (hline : heldLine s b 8 = none)
include hline

theorem execJoinDecrement_drops (h : (home s (dpaDie b)).online = false ∨ poisonIn s b 8 = true) :
    execJoinDecrement s = .next { s with joinDecs := rest } := by
  have h' : (!(home s (dpaDie b)).online || poisonIn s b 8) = true := by rcases h with h | h <;> simp [h]
  simp only [execJoinDecrement, hi, hj, takeNth, if_true, hf, hline, h']

variable (ho : (home s (dpaDie b)).online = true) (hp : poisonIn s b 8 = false)
include ho hp

theorem execJoinDecrement_logs (h : dramNat s b 8 = 0) : execJoinDecrement s =
    .next (logEvent { s with joinDecs := rest } 4 (8 + dpaDie b) (coreNo j.core) 0x30000 b j.launch j.wpid) := by
  simp only [execJoinDecrement, hi, hj, takeNth, if_true, hf, hline, ho, hp, h, Bool.not_true, Bool.or_self, Bool.false_eq_true, if_false]

theorem execJoinDecrement_counts (h : 0 < dramNat s b 8) : execJoinDecrement s =
    .next (storeDramNat { s with joinDecs := rest } b (dramNat s b 8 - 1) 8) := by
  simp only [execJoinDecrement, hi, hj, takeNth, if_true, hf, hline, ho, hp, Nat.ne_of_gt h, Bool.not_true, Bool.or_self,
    Bool.false_eq_true, if_false]

end

theorem log_logEvent (s : State) (cls die unit code addr launch detail : Nat) :
    ∃ e, (logEvent s cls die unit code addr launch detail).mgmt.log.getLast? = some e ∧ e.cls = cls ∧ e.code = code :=
  ⟨_, List.getLast?_concat .., rfl, rfl⟩

/-! ## The kinds of requests (R101, R225, R230) -/

/-- A request of one of the seven kinds is served, and one that its home has applied changes no memory. -/
theorem exec_request {s : State} {i : Instr × Nat}
    (hi : i ∈ ([(.read, 1), (.write, 2), (.atom, 3), (.cfa, 4), (.acc, 5), (.waitreg, 6), (.recov, 7)] : List (Instr × Nat)))
    (hcfa : i.2 = 4 → fetchBefore s = false) : ∃ f, exec i.1 s = serve s i.2 f ∧
      ∀ t d q, q.kind = i.2 → recordHeld t d q = true → (f t d q).mem = t.mem := by
  simp only [List.mem_cons, List.not_mem_nil, or_false] at hi
  rcases hi with rfl | rfl | rfl | rfl | rfl | rfl | rfl
  · exact ⟨serveRead, rfl, fun t d q hk h => by simp [recordHeld, hk] at h⟩
  · refine ⟨serveWrite, rfl, fun t d q hk h => ?_⟩
    rw [serveWrite_repeated ((recordHeld_write hk).symm.trans h), mem_repeated]
  · refine ⟨serveAtom, rfl, fun t d q hk h => ?_⟩
    simp only [recordHeld, hk] at h
    cases ho : (home t d).online with
    | false => rw [serveAtom_offline ho, mem_answer]
    | true => rw [serveAtom_refused ho h, mem_answer]
  · refine ⟨serveCfa, ?_, fun t d q hk h => ?_⟩
    · show execCfa s = _
      simp [execCfa, hcfa rfl]
    · simp only [recordHeld, hk, List.any_eq_true, Bool.and_eq_true, decide_eq_true_eq] at h
      cases hr : (home t d).cfaDone.find? fun r => r.agent = requesterKey q && r.seq = q.seq with
      | none =>
        obtain ⟨r, hm, hr'⟩ := h
        exact absurd hr' (by simpa using List.find?_eq_none.mp hr r hm)
      | some r => rw [serveCfa_repeated hr, mem_answer]
  · refine ⟨serveAcc, rfl, fun t d q hk h => ?_⟩
    rw [serveAcc_repeated ((recordHeld_acc hk).symm.trans h), mem_repeated]
  · exact ⟨serveWait, rfl, fun t d q hk h => by simp [recordHeld, hk] at h⟩
  · exact ⟨serveRecov, rfl, fun t d q _ _ => congrArg Prod.fst (memories_serveRecov ..)⟩

/-- Settles O42: requests by the home that serves them, kind by kind, then numbered stores, migrating lines and join decrements. -/
theorem homeRequests : Obligations.HomeRequests := by
  unfold Obligations.HomeRequests
  intro s d p
  dsimp only
  refine ⟨fun h => ?before, fun i hi st q s1 ht hcfa => ?kinds, fun hs hn => ?read, fun hs hstep => ?write, fun hs => ?atom,
    fun hs hb hnew => ?cfa, fun hs hstep hfresh hlen => ?acc, fun hs => ?waitreg, fun hs => ?recov, fun s1 m ht hm hno => ?mcast,
    fun s1 m ht hm => ?migline, fun m hm hold => ?complete, fun j rest b hj hi hf => ?join, ?down, fun st q rest ht => ?reserved⟩
  case before =>
    show execCfa s = _
    rw [execCfa, if_pos h]
  case kinds =>
    obtain ⟨f, hexec, hmem⟩ := exec_request hi hcfa
    obtain ⟨hkind, b, rfl⟩ := takeKind_frame ht
    refine ⟨fun h => hexec.trans (serve_absent ht h), fun hex hrec => ⟨_, hexec.trans (serve_recorded ht hex hrec), hmem _ _ _ hkind hrec⟩,
      fun hex hrec hf => hexec.trans (serve_unknown ht hex hrec hf), fun b' hex hrec hf hst =>
        ⟨_, hexec.trans (serve_forwards ht hex hrec hf hst), mem_sendPacket .., ?_⟩⟩
    rw [sendPacket, if_neg hst]
    exact ⟨_, rfl, rfl, rfl⟩
  case read =>
    obtain ⟨b, hx⟩ := serve_fresh hs serveRead (recordHeld_read (kind_of_serves hs))
    refine ⟨fun hp => ⟨_, hx, ?_⟩, fun hp => ⟨_, hx, ?_⟩⟩
    · rw [serveRead_poisoned (s := { s with inbox := b }) (p := p) hp]
      exact answered_in ⟨rfl, rfl⟩ rfl rfl
    · rw [serveRead_reads (s := { s with inbox := b }) (p := p) hp]
      refine answered_in ⟨rfl, rfl, rfl, fun j hj => ?_⟩ rfl rfl
      refine (packData_extract _ (by rw [dramBytes, length_readBytes]; exact hn) (by rw [dramBytes, length_readBytes]; exact hj)).trans ?_
      exact getD_readBytes _ _ hj
  case write =>
    have hkind := kind_of_serves hs
    refine ⟨fun h hall => ?_, fun h hall ho => ?_, fun h hm => ?_⟩
    · obtain ⟨b, hx⟩ := serve_fresh hs serveWrite ((recordHeld_write hkind).trans (alreadySeen_fresh h))
      refine ⟨_, hx, ?_⟩
      rw [serveWrite_stores (s := { s with inbox := b }) (p := p) (alreadySeen_fresh h) hstep ((goesToAll_inbox ..).trans hall)]
      refine ⟨fun x => ?_, answered_answer _ d ⟨rfl, rfl⟩ rfl rfl, ?_⟩
      · rw [mem_answer]
        exact storedAt_storeDram _ _ _ x
      · obtain ⟨ws, hhome⟩ := home_storeDram (noteSeen { s with inbox := b } d p) p.paddr p.bytes d
        rw [home_answer, hhome, noteSeen, home_modHome, if_pos rfl]
        exact List.mem_append_right _ (List.mem_singleton.mpr rfl)
    · obtain ⟨b, hx⟩ := serve_fresh hs serveWrite ((recordHeld_write hkind).trans (alreadySeen_fresh h))
      refine ⟨_, hx, ?_⟩
      rw [serveWrite_offline (s := { s with inbox := b }) (p := p) (alreadySeen_fresh h) hstep ((goesToAll_inbox ..).trans hall) ho]
      exact answered_in ⟨rfl, rfl⟩ rfl rfl
    · obtain ⟨-, b, y, hx, -⟩ := serve_performs hs serveWrite
      have hseen : alreadySeen s d p = true := by simpa [alreadySeen] using h
      have hnone : remulticast { s with inbox := b } d { p with paddr := y } = none := by
        rw [remulticast, show (home { s with inbox := b } d).mcasts = [] from hm]
        rfl
      refine ⟨_, hx, ?_⟩
      rw [serveWrite_repeated (s := { s with inbox := b }) (p := { p with paddr := y }) hseen, hnone]
      exact answered_in ⟨rfl, rfl⟩ rfl rfl
  case atom =>
    obtain ⟨hkind, b, y, hx, hy⟩ := serve_performs hs serveAtom
    refine ⟨fun ho => ⟨_, hx, ?_⟩, fun ho hrec => ⟨_, hx, ?_⟩, fun w hw ho hnew hlen => ?_⟩
    · rw [serveAtom_offline (s := { s with inbox := b }) (p := { p with paddr := y }) ho]
      exact answered_in ⟨rfl, rfl⟩ rfl rfl
    · have hrec' : ((home s d).atoms.any fun r => r.agent = requesterKey p && r.seq = p.seq) = true := by simpa using hrec
      rw [serveAtom_refused (s := { s with inbox := b }) (p := { p with paddr := y }) ho hrec']
      exact answered_in ⟨rfl, rfl⟩ rfl rfl
    · have hno : ((home s d).atoms.any fun r => r.agent = requesterKey p && r.seq = p.seq) = false := by simpa using hnew
      obtain rfl := hy (by simpa [recordHeld, hkind] using hno)
      refine ⟨fun hp => ⟨_, hx, ?_⟩, fun hp hr => ⟨_, hx, ?_⟩⟩
      · rw [serveAtom_poisoned (s := { s with inbox := b }) (p := p) ho hno hlen (atom_width hw).2 hp]
        exact answered_in ⟨rfl, rfl⟩ rfl rfl
      · obtain ⟨hstored, hanswered, hkept⟩ := serveAtom_leaves (s := { s with inbox := b }) (p := p) hw ho hno hlen
          ((poisonIn_inbox ..).trans hp) ((replicasOf_inbox ..).trans hr)
        rw [dramNat_inbox] at hstored hanswered hkept
        exact ⟨storedAt_inbox s b hstored, hanswered, hkept⟩
  case cfa =>
    have hno : ((home s d).cfaDone.any fun r => r.agent = requesterKey p && r.seq = p.seq) = false := by simpa using hnew
    obtain ⟨b, hx⟩ := serve_fresh hs serveCfa (by rw [recordHeld, kind_of_serves hs]; exact hno)
    have hexec : exec .cfa s = serve s 4 serveCfa := by
      show execCfa s = _
      rw [execCfa, hb, if_neg (by decide)]
    have hnone : ((home { s with inbox := b } d).cfaDone.find? fun r => r.agent = requesterKey p && r.seq = p.seq) = none := by
      rw [home_inbox, List.find?_eq_none]
      simpa using hnew
    refine ⟨fun ho => ⟨_, hexec.trans hx, ?_⟩, fun ho hp => ⟨_, hexec.trans hx, ?_⟩⟩
    · rw [serveCfa_offline hnone ho]
      exact answered_in ⟨rfl, rfl⟩ rfl rfl
    · have h := serveCfa_leaves (s := { s with inbox := b }) (p := p) hnone ho hp
      simp only [chunkAt, chunkLength, dramNat_inbox, replicasOf_inbox, home_inbox] at h
      exact h
  case acc =>
    obtain ⟨b, hx⟩ := serve_fresh hs serveAcc ((recordHeld_acc (kind_of_serves hs)).trans (alreadySeen_fresh hfresh))
    refine ⟨fun ho => ⟨_, hx, ?_⟩, fun ho hall hp => ⟨_, hx, ?_⟩⟩
    · rw [serveAcc_offline (s := { s with inbox := b }) (p := p) (alreadySeen_fresh hfresh) hstep ho]
      exact answered_in ⟨rfl, rfl⟩ rfl rfl
    · rw [serveAcc_adds (s := { s with inbox := b }) (p := p) (alreadySeen_fresh hfresh) hstep ho ((goesToAll_inbox ..).trans hall) ((poisonIn_inbox ..).trans hp)]
      obtain ⟨hwords, hbytes⟩ := accDram_adds (noteSeen { s with inbox := b } d p) p.paddr p
      refine ⟨answered_answer _ d ⟨rfl, rfl⟩ rfl rfl, fun i hi => ?_, fun x hx => ?_⟩
      · rw [wordAt, dramNat_of_mem (mem_answer ..)]
        exact hwords i hi
      · rw [mem_answer]
        exact hbytes x hx
  case waitreg =>
    obtain ⟨b, hx⟩ := serve_fresh hs serveWait (recordHeld_wait (kind_of_serves hs))
    have hmet := waiterMet_iff s (waiterOf p)
    refine ⟨fun h => ⟨_, hx, ?_⟩, fun ho hm => ⟨_, hx, ?_⟩, fun ho hm hmany => ⟨_, hx, ?_⟩⟩
    · by_cases ho : (home s d).online = true
      · obtain ⟨hm, hmany⟩ := h.resolve_left (by rw [ho]; decide)
        rw [serveWait_full (s := { s with inbox := b }) (p := p) ho (Bool.eq_false_of_not_eq_true (mt hmet.mp hm)) hmany]
        exact ⟨mem_answer .., answered_answer _ d ⟨rfl, rfl⟩ rfl rfl, by rw [home_answer]; rfl⟩
      · rw [serveWait_offline (s := { s with inbox := b }) (p := p) (Bool.eq_false_of_not_eq_true ho)]
        exact ⟨mem_answer .., answered_answer _ d ⟨rfl, rfl⟩ rfl rfl, by rw [home_answer]; rfl⟩
    · rw [serveWait_met (s := { s with inbox := b }) (p := p) ho (hmet.mpr hm)]
      exact ⟨mem_answer .., answered_answer _ d ⟨rfl, rfl⟩ rfl rfl, by rw [home_answer]; rfl⟩
    · rw [serveWait_registers (s := { s with inbox := b }) (p := p) ho (Bool.eq_false_of_not_eq_true (mt hmet.mp hm)) hmany]
      refine ⟨mem_answer .., answered_answer _ d ⟨rfl, rfl⟩ rfl rfl, ?_⟩
      rw [home_answer, home_modHome, if_pos rfl]
      exact List.length_append
  case recov =>
    obtain ⟨-, b, y, hx, -⟩ := serve_performs hs serveRecov
    have hkey : requesterKey { p with agent := p.opa.toNat / 2 ^ 57 } = recoveredKey p := by
      rw [recoveredKey, field, Nat.mod_eq_of_lt (show p.opa.toNat / 2 ^ 57 < 2 ^ 7 by omega)]
    rw [hkey]
    refine ⟨fun r hr => ?_, fun hn hlen => ⟨_, hx, ?_⟩⟩
    · have hserved := serveRecov_recorded (s := { s with inbox := b }) (p := { p with paddr := y }) hr
      refine ⟨fun m hm => ⟨_, hx, ?_⟩, fun hm => ⟨_, hx, ?_⟩⟩
      all_goals
        rw [hserved, hm]
        exact answered_in ⟨rfl, rfl, rfl⟩ rfl rfl
    · rw [serveRecov_marks (s := { s with inbox := b }) (p := { p with paddr := y }) hn hlen]
      exact ⟨answered_in ⟨rfl, rfl, rfl⟩ rfl rfl, _, by rw [home_answer]; exact mem_keepRecord hlen, rfl, rfl, rfl⟩
  case mcast =>
    obtain ⟨-, b, rfl⟩ := takeKind_frame ht
    refine ⟨fun hleft hd hheld => ?_, fun hleft => ?_⟩
    · have hline : heldLine s p.paddr 1 = none := by simp [heldLine, linesOf, span, hd, hheld]
      have hx := execMcast_applies ht hm hno hline
      rw [if_pos (by simpa using hleft)] at hx
      refine ⟨_, hx, fun x => ?_, _, mcasts_mcastApplied _ ?_ hno, rfl⟩
      · rw [mem_mcastApplied]
        exact storedAt_storeDram _ _ _ x
      · obtain ⟨ws, hhome⟩ := home_storeDram { s with inbox := b } p.paddr (mcastBytes p) (p.agent - 64)
        rw [hhome]
        exact hm
    · cases hline : heldLine s p.paddr 1 with
      | some line => exact ⟨_, execMcast_waits ht hm hno hline, mem_sendSnoop ..⟩
      | none =>
        have hx := execMcast_applies ht hm hno hline
        rw [if_neg (by simpa using hleft)] at hx
        exact ⟨_, hx, mem_mcastApplied ..⟩
  case migline =>
    obtain ⟨-, b, rfl⟩ := takeKind_frame ht
    have hin : m ∈ (home s (p.agent - 64)).migrations := List.mem_of_find?_eq_some hm
    refine ⟨_, execMigline_copies ht hm, fun x => ?_, ?_, fun hlast => ?_⟩
    · rw [mem_lineSent]
      exact storedAt_copyLine { s with inbox := b } m x
    · rw [home_lineSent]
      exact mem_linePast { s with inbox := b } (p.agent - 64) hin
    · rw [lineSent, if_pos hlast]
      exact ⟨_, List.mem_append_right _ (List.mem_singleton.mpr rfl), rfl, rfl⟩
  case complete =>
    have hx : exec .migrationComplete s = .next (finishMigration s m) := by
      show execMigrationComplete s = _
      rw [execMigrationComplete, hm]
    have h := finishMigration_ends s m
    rw [movedEntry_eq, hold] at h
    exact ⟨_, hx, h⟩
  case join =>
    refine ⟨fun line h => execJoinDecrement_waits hj hi hf h, fun h hor => execJoinDecrement_drops hj hi hf h hor, fun h ho hp h0 => ?_,
      fun h ho hp hpos => ?_⟩
    · exact ⟨_, execJoinDecrement_logs hj hi hf h ho hp h0, rfl, rfl, log_logEvent ..⟩
    · refine ⟨_, execJoinDecrement_counts hj hi hf h ho hp hpos, ?_, fun x => storedAt_storeDram { s with joinDecs := rest } _ _ x⟩
      exact State.of_unstored (unstored_storeDram { s with joinDecs := rest } ..) State.joinDecs
  case down =>
    refine ⟨_, rfl, ?_, rfl⟩
    rw [home_modHome, if_pos rfl]
  case reserved =>
    have hx : ∃ die, exec .reservedKindDiscard s =
        .next (logEvent { s with inbox := rest } 2 die 0 0x205 0 0 ((encodePacket q).toNat % 2 ^ 64)) := by
      refine ⟨if st = 16 then 16 else if st % 2 = 0 then st / 2 else 8 + st / 2, ?_⟩
      show execReservedKindDiscard s = _
      rw [execReservedKindDiscard, ht]
    obtain ⟨die, hx⟩ := hx
    exact ⟨_, hx, rfl, rfl, log_logEvent ..⟩

end Sys2Proof.Machine

namespace Sys2Proof.Machine

/-! ## Pre-emption at a boundary (R147, R148) -/

/-- R148. A core halted at a boundary: its earlier executions have retired, and its registers and its place stay. -/
theorem haltCore_eq (k : Core) : ∃ e p fl w r m, haltCore k = { k with empty := e, pends := p, flg := fl, window := w, rpi := r, mxs := m } ∧
    (k.hm = false → r = BitVec.ofNat 64 k.rep ∧ m = BitVec.ofNat 64 k.seqStep) := by
  obtain ⟨e, p, fl, w, h⟩ := sameButRetired_all k
  unfold haltCore
  rw [h]
  dsimp only
  split
  · next hm => exact ⟨e, p, fl, w, k.rpi, k.mxs, rfl, fun hn => by rw [hm] at hn; cases hn⟩
  · exact ⟨e, p, fl, w, _, _, rfl, fun _ => ⟨rfl, rfl⟩⟩

/-- R147. A pre-empted core stopped at its boundary, what was blocked abandoned. -/
def stoppedCore (k : Core) : Core :=
  { haltCore k with mode := .stopping, held := [], waitUntil := none, stalls := [], ahead := 0, heads := [] }

/-- What stops keeps its program counter, its region and its registers, and names its boundary. -/
theorem stoppedCore_keeps (k : Core) : (stoppedCore k).mode = .stopping ∧ (stoppedCore k).pc = k.pc ∧ (stoppedCore k).region = k.region ∧
    (∀ key, valueAt (stoppedCore k) key = valueAt k key) ∧
    (k.hm = false → (stoppedCore k).rpi = BitVec.ofNat 64 k.rep ∧ (stoppedCore k).mxs = BitVec.ofNat 64 k.seqStep) := by
  obtain ⟨e, p, fl, w, r, m, h, hn⟩ := haltCore_eq k
  rw [stoppedCore, h]
  exact ⟨rfl, rfl, rfl, fun _ => rfl, hn⟩

/-- A context frame has the registers and the place of its core. -/
theorem frameOf_keeps (k : Core) : (∀ key, valueAt (frameOf k) key = valueAt k key) ∧ (frameOf k).pc = k.pc ∧
    (frameOf k).region = k.region := by
  obtain ⟨e, p, fl, w, h⟩ := sameButRetired_all k
  rw [frameOf, h]
  exact ⟨fun _ => rfl, rfl, rfl⟩

section
variable {s : State} {c : Nat} {w : Waypoint} (hfound : findWp s (coreOf s c).wp = some w) (hp : w.preempt = true)
include hfound hp

theorem preemptHalt_eq (hc : s.arg.core = c) (hmode : (coreOf s c).mode = .running ∨ (coreOf s c).mode = .stopping) : ∃ b,
    let t := modCore { s with barriers := b } c stoppedCore
    exec .preemptHalt s = .next (if (launchOf s (coreOf s c).wp.launch).ending ≠ .running then discardWp (freeCore t c) (coreOf s c).wp
      else enqueue t .contextSaveDone { core := c }) := by
  obtain ⟨b, hb⟩ := withdraw_frame s (coreOf s c).wp
  refine ⟨b, ?_⟩
  have hgo : (!w.preempt || (coreOf s c).mode = .idle || (coreOf s c).mode = .answer || isRelaunching (coreOf s c).mode) = false := by
    obtain hm | hm := hmode <;> simp [hp, hm, isRelaunching]
  show execPreemptHalt s = _
  simp only [execPreemptHalt, hc, hfound, hgo, hb, Bool.false_eq_true, if_false]
  split <;> rfl

/-- The record of a waypoint whose frame has been saved. -/
def savedRecord (s : State) (c : Nat) (st : WpState) (w : Waypoint) : Waypoint :=
  pinTo (coreOf s c) c { w with state := st, wait := 0, resume := (coreOf s c).pc, holder := dieOf c, leftAt := s.chron,
                                readyAt := s.chron, agedAt := s.chron, prio := (launchOf s (coreOf s c).wp.launch).prio, preempt := false }

omit hfound hp in
/-- R130, R148. What a record whose frame has been saved says, pinned or not. -/
theorem savedRecord_says (st : WpState) (w : Waypoint) : (savedRecord s c st w).key = w.key ∧ (savedRecord s c st w).state = st ∧
    (savedRecord s c st w).resume = (coreOf s c).pc := by
  unfold savedRecord
  obtain ⟨a, d, n, h, -⟩ := pinTo_eq (coreOf s c) c _
  rw [h]
  exact ⟨rfl, rfl, rfl⟩

omit hp in
/-- R148. A frame saved: the record has it, and nothing else of device memory changes. -/
theorem saveFrame_found (st : WpState) : ∃ a, let x := savedRecord s c st w
    findWp (saveFrame s c st) (coreOf s c).wp = some { x with frame := some (frameOf (coreOf s c)), frameAt := some a } ∧
      ∀ x, (x < a ∨ a + Config.frameSize ≤ x) → readByte (saveFrame s c st).mem x = readByte s.mem x :=
  putFrame_found (s := modWp s (coreOf s c).wp (savedRecord s c st))
    (findWp_modWp_found (fun w => (savedRecord_says st w).1) hfound) (some c) (frameOf (coreOf s c))

theorem contextSaveDone_eq (hc : s.arg.core = c) (hmode : (coreOf s c).mode = .stopping) : exec .contextSaveDone s =
    .next (settleFreed (freeCore (saveFrame s c (if w.state = .faulted then .faulted else .preempted)) c) (coreOf s c).wp) := by
  show execContextSaveDone s = _
  simp [execContextSaveDone, hc, hfound, hmode, hp]

end

theorem launches_saveFrame (s : State) (c : Nat) (st : WpState) : (saveFrame s c st).launches = s.launches := by
  obtain ⟨ws, m, p, h⟩ := putFrame_frame (modWp s (coreOf s c).wp (savedRecord s c st)) (coreOf s c).wp (some c) (frameOf (coreOf s c))
  exact (congrArg State.launches h :)

/-- R115. What a core leaves of a waypoint whose launch has ended. -/
theorem settleFreed_discards {s t : State} {c : Nat} {key : WpKey} (hl : t.launches = s.launches)
    (hend : (launchOf s key.launch).ending ≠ .running) : (coreOf (settleFreed (freeCore t c) key) c).mode = .idle ∧
      findWp (settleFreed (freeCore t c) key) key = none := by
  refine ⟨by rw [Core.of_unhoused (unhoused_settleFreed ..) Core.mode, mode_freeCore, if_pos rfl], ?_⟩
  have he : (launchOf (freeCore t c) key.launch).ending ≠ .running := by
    rw [launchOf_of_outline (outline_freeCore ..), launchOf, findLaunch, hl]
    exact hend
  rw [settleFreed, if_pos he]
  exact findWp_discardWp ..

/-! ## Evacuation (R131) -/

/-- R131. All of a waypoint's handles leave a core, and its record has their copies. -/
theorem evacuate_copies {s : State} {w : Waypoint} {c : Nat} (hfound : findWp s w.key = some w) (hh : handlesOf s c w.key ≠ []) :
    handlesOf (evacuate s c w.key) c w.key = [] ∧ ∃ x, findWp (evacuate s c w.key) w.key = some x ∧ x.evac = true ∧ x.aff = 0 ∧
      x.evacuated = (handlesOf s c w.key).map (copyOut (coreOf s c)) := by
  have hsome : (handlesOf s c w.key).isEmpty = false := by simpa using hh
  rw [evacuate]
  simp only [hsome, Bool.false_eq_true, if_false]
  refine ⟨?_, ?_⟩
  · rw [handlesOf, handles_releaseHandles, if_pos rfl, List.filter_filter]
    simp
  · rw [findWp_of_outline (outline_releaseHandles ..), findWp_modWp_same s w.key
      (f := fun x => { x with evac := true, evacuated := (handlesOf s c w.key).map (copyOut (coreOf s c)), aff := 0, pmask := 0#8 })
      fun _ => rfl, hfound]
    exact ⟨_, rfl, rfl, rfl, rfl⟩

/-! ## Self-test rotation (R154, R155) -/

theorem disps_askPreempt (s : State) (key : WpKey) : (askPreempt s key).disps = s.disps :=
  askPreempt_keeps State.disps (fun _ _ _ => rfl) (fun _ _ _ => rfl) s key

/-- R154. A cluster drained changes nothing of its dispatcher but that it is under test. -/
theorem disp_drainCluster (s : State) (d cl : Nat) : disp (drainCluster s d cl) d = { disp s d with underTest := some cl } := by
  have h : (drainCluster s d cl).disps = (modDisp s d fun x => { x with underTest := some cl }).disps := by
    unfold drainCluster
    dsimp only
    refine (foldl_keeps State.disps (fun _ (w : Waypoint) => enqueue_disps ..) _ _).trans (foldl_keeps State.disps (fun s e => ?_) _ _)
    split
    · rfl
    · exact disps_askPreempt ..
  rw [disp, h]
  exact Map.get_set_same ..

theorem disp_modDisp_same (s : State) (d : Nat) (f : Dispatcher → Dispatcher) : disp (modDisp s d f) d = f (disp s d) := Map.get_set_same ..

/-- R154. A dispatcher's state as its period of rotation begins: the next cluster is another. -/
def periodBegun (s : State) (d : Nat) : State :=
  modDisp s d fun x => { x with testPeriod := testPeriodNow s d, nextCluster := (x.nextCluster + 1) % 8 }

theorem disp_periodBegun (s : State) (d : Nat) :
    disp (periodBegun s d) d = { disp s d with testPeriod := testPeriodNow s d, nextCluster := ((disp s d).nextCluster + 1) % 8 } :=
  disp_modDisp_same ..

section
variable {s : State} (htest : (disp s s.arg.die).underTest = none)
include htest

theorem selftestRotation_urgent {cl : Nat} {rest : List Nat} (hu : (disp s s.arg.die).urgentTest = cl :: rest) :
    Gives .selftestRotation s fun t => disp t s.arg.die = { disp s s.arg.die with urgentTest := rest, underTest := some cl } := by
  refine ⟨drainCluster (modDisp s s.arg.die fun x => { x with urgentTest := rest }) s.arg.die cl, ?_, ?_⟩
  · show execSelftestRotation s = _
    simp only [execSelftestRotation, htest, hu, Option.isSome_none, Bool.false_eq_true, if_false]
  · exact (disp_drainCluster ..).trans (congrArg (fun x : Dispatcher => { x with underTest := some cl }) (disp_modDisp_same ..))

variable (hu : (disp s s.arg.die).urgentTest = []) (hup : underway s = true)
  (hlate : (disp s s.arg.die).testPeriod < testPeriodNow s s.arg.die)
include hu hup hlate

/-- R154. A new period selects the next cluster, and drains it or defers its test. -/
theorem selftestRotation_due : exec .selftestRotation s =
    let cl := (disp s s.arg.die).nextCluster
    .next (if testDeferred s s.arg.die cl then logEvent (periodBegun s s.arg.die) 7 s.arg.die cl 0x702 0 0 0
      else drainCluster (periodBegun s s.arg.die) s.arg.die cl) := by
  have hnew : ¬testPeriodNow s s.arg.die ≤ (disp s s.arg.die).testPeriod := by omega
  show execSelftestRotation s = _
  simp only [execSelftestRotation, htest, hu, hup, hnew, Option.isSome_none, Bool.false_eq_true, decide_false, Bool.not_true, Bool.or_self,
    if_false]
  split <;> rfl

end

theorem mem_log_logEvent (s : State) (cls die unit code addr launch detail : Nat) :
    ∃ e ∈ (logEvent s cls die unit code addr launch detail).mgmt.log, e.cls = cls ∧ e.unit = unit ∧ e.code = code :=
  ⟨_, List.mem_append_right _ (List.mem_singleton.mpr rfl), rfl, rfl, rfl⟩

/-! ## Notifications (R128) -/

section
variable {s : State} {w : Waypoint} (hfound : findWp s s.arg.wp = some w) (hst : w.state = .suspended) (hheld : heldByCore s s.arg.wp = none)
include hfound hst hheld

theorem dispatcherNotify_eq : exec .dispatcherNotify s = .next (if w.holder ≠ s.arg.die then
    enqueue s .dispatcherNotify { die := w.holder, wp := s.arg.wp } else makeReady s s.arg.wp) := by
  show execDispatcherNotify s = _
  simp only [execDispatcherNotify, hfound, hst, hheld, Option.isSome_none, ne_eq, not_true_eq_false, decide_false, Bool.or_self,
    Bool.false_eq_true, if_false]
  split <;> rfl

end

/-! ## Whose commands are in progress

A copy at work neither ends another command nor changes whose it is: `owned_f` says so of f. -/

/-- The numbers of the commands in progress, each with its waypoint. -/
def State.owned (s : State) : List (Nat × WpKey) := s.cmds.map fun x => (x.id, x.wp)

theorem mem_owned {s : State} {x : Cmd} (h : x ∈ s.cmds) : (x.id, x.wp) ∈ s.owned := List.mem_map_of_mem h

theorem owned_foldl {α : Type} {f : State → α → State} (hf : ∀ s x, (f s x).owned = s.owned) (l : List α) (s : State) :
    (l.foldl f s).owned = s.owned := foldl_keeps State.owned hf l s

section
variable (s : State)

@[simp] theorem owned_modCmd (id : Nat) (f : Cmd → Cmd) (hf : ∀ x, (f x).id = x.id ∧ (f x).wp = x.wp) : (modCmd s id f).owned = s.owned := by
  rw [State.owned, modCmd, List.map_map]
  refine List.map_congr_left fun x _ => ?_
  show ((if x.id = id then f x else x).id, (if x.id = id then f x else x).wp) = _
  split
  · rw [(hf x).1, (hf x).2]
  · rfl

@[simp] theorem owned_addStatus (id st : Nat) : (addStatus s id st).owned = s.owned := owned_modCmd s id _ fun _ => ⟨rfl, rfl⟩

@[simp] theorem owned_modCore (c : Nat) (f : Core → Core) : (modCore s c f).owned = s.owned := rfl

@[simp] theorem owned_modEngine (e : Nat) (f : Engine → Engine) : (modEngine s e f).owned = s.owned := rfl

@[simp] theorem owned_enqueue (i : Instr) (a : Arg) : (enqueue s i a).owned = s.owned := rfl

@[simp] theorem owned_contribute (l region rank : Nat) (elems : List (Nat × Nat)) : (contribute s l region rank elems).owned = s.owned := rfl

@[simp] theorem owned_poisonRange (a n : Nat) : (poisonRange s a n).owned = s.owned := by
  unfold poisonRange
  split <;> rfl

@[simp] theorem owned_sendPacket (src dst : Nat) (p : Packet) (late : Option (Nat × Piece)) : (sendPacket s src dst p late).owned = s.owned := by
  unfold sendPacket
  split <;> rfl

@[simp] theorem owned_request (e cmd : Nat) (p : Packet) (piece : Option Piece) (late : Option (Nat × Piece)) :
    (request s e cmd p piece late).owned = s.owned := by simp [request]

@[simp] theorem owned_hostRequest (e cmd : Nat) (pkt : Packet) (piece : Option Piece) (kind : CxlKind) (h : Nat) (value : BitVec 1024) :
    (hostRequest s e cmd pkt piece kind h value).owned = s.owned := by
  unfold hostRequest emitLink
  dsimp only
  split <;> rfl

@[simp] theorem owned_hostStore (e cmd : Nat) (piece : Option Piece) (h : Nat) (bs : List Byte) :
    (hostStore s e cmd piece h bs).owned = s.owned := (owned_hostRequest ..).trans rfl

@[simp] theorem owned_sendSnoop (line : Nat) : (sendSnoop s line).owned = s.owned := by
  unfold sendSnoop
  dsimp only
  split
  · rfl
  · unfold emitLink
    dsimp only
    split <;> rfl

@[simp] theorem owned_flushHot (e launch : Nat) : (flushHot s e launch).owned = s.owned :=
  congrArg (List.map fun x : Cmd => (x.id, x.wp)) (State.of_unstored (unstored_flushHot (s := s) e launch) State.cmds)

@[simp] theorem owned_countHot (e launch buf bytes ticks : Nat) : (countHot s e launch buf bytes ticks).owned = s.owned := by
  unfold countHot
  dsimp only
  split
  · rfl
  · rw [owned_modEngine]
    split
    · rfl
    · exact owned_flushHot ..

@[simp] theorem owned_cacheRef (cmd : Cmd) (r : Word) (n kind : Nat) : (cacheRef s cmd r n kind).owned = s.owned := by
  have hleaf (s : State) (e : Nat) (l : Launch) (va : Nat) (t : Translated) : (cacheLeaf s e l va t).owned = s.owned := by
    have hregions (e : Nat) (l : Launch) : (cacheRegions s e l).owned = s.owned := rfl
    unfold cacheLeaf
    dsimp only
    split <;> simp [apply_ite State.owned, hregions]
  unfold cacheRef
  split
  · refine owned_foldl (fun s v => ?_) _ s
    split
    · exact hleaf ..
    · rfl
  · rfl

@[simp] theorem owned_settleLine (id c h line : Nat) (st : LineState) : (settleLine s id c h line st).owned = s.owned := by
  unfold settleLine
  split <;> simp

@[simp] theorem owned_poisonUnfilled (cmd : Cmd) : (poisonUnfilled s cmd).owned = s.owned := owned_foldl (fun _ _ => owned_settleLine ..) _ s

@[simp] theorem owned_failCmd (id : Nat) (f : BitVec 16 × Word) : (failCmd s id f).owned = s.owned := by
  have hlog (e : Nat) (l : Launch) (code : BitVec 16) (va : Nat) : (logEntryError s e l code va).owned = s.owned := by
    unfold logEntryError
    split
    · split <;> rfl
    · rfl
  unfold failCmd
  split <;> simp [hlog]

@[simp] theorem owned_accHandle (c h off : Nat) (ws : List (Option Int)) : (accHandle s c h off ws).owned = s.owned := by
  unfold accHandle
  split
  · rfl
  · exact owned_foldl (fun s wi => by split <;> rfl) _ s

/-- Bytes that arrive for a part end no command, unless the part is a fetch. -/
theorem owned_deliverWhole (cmd : Cmd) {p : Piece} (hp : ∀ src a, p.dst ≠ .fetched src a) (got : Fetched) :
    (deliverWhole s cmd p got).owned = s.owned := by
  have hpoison (s : State) (l : List Nat) : (l.foldl (fun s a => poisonRange s (atHome s a) p.len) s).owned = s.owned :=
    owned_foldl (fun _ _ => owned_poisonRange ..) l s
  unfold deliverWhole
  dsimp only
  repeat' split
  all_goals simp_all

theorem owned_deliver (cmd : Cmd) {p : Piece} (hp : ∀ src a, p.dst ≠ .fetched src a) (got : Fetched) :
    (deliver s cmd p got).owned = s.owned := by
  unfold deliver
  split
  · exact owned_deliverWhole s cmd hp _
  · dsimp only
    split
    · exact (owned_deliverWhole _ cmd (by exact hp) _).trans (by simp)
    · simp
  · simp

@[simp] theorem owned_countPiece (cmd : Cmd) (p : Piece) : (countPiece s cmd p).owned = s.owned := by
  unfold countPiece
  dsimp only
  repeat' split
  all_goals simp

variable {s}

theorem owned_sendPiece {t : State} {cmd : Cmd} {p : Piece} (h : sendPiece s cmd p = some t) : t.owned = s.owned := by
  unfold sendPiece at h
  grind [owned_request, owned_hostRequest, owned_failCmd, owned_deliver]

variable (s)

@[simp] theorem owned_beginPieces (id lim : Nat) (ps : List Piece) : (beginPieces s id lim ps).owned = s.owned := by
  induction ps generalizing s lim with
  | nil => cases lim <;> simp [beginPieces]
  | cons p rest ih =>
    cases lim with
    | zero => simp [beginPieces]
    | succ n =>
      unfold beginPieces
      split
      · rfl
      · split
        · next h => rw [ih, owned_sendPiece h, owned_countPiece]
        · simp [ih]

@[simp] theorem owned_advancePieces (id lim : Nat) : (advancePieces s id lim).owned = s.owned := by
  unfold advancePieces
  split <;> simp

@[simp] theorem owned_startCopy (cmd : Cmd) : (startCopy s cmd).owned = s.owned := by
  have hmiss (s : State) (id : Nat) (ps : List Piece) : (prefMiss s id ps).owned = s.owned := by
    unfold prefMiss
    split
    · rfl
    · exact (owned_foldl (fun _ _ => owned_settleLine ..) _ _).trans (owned_addStatus ..)
  unfold startCopy
  dsimp only
  repeat' split
  all_goals simp [hmiss]

@[simp] theorem owned_startWord (cmd : Cmd) (kind access : Nat) : (startWord s cmd kind access).owned = s.owned := by
  unfold startWord
  dsimp only
  repeat' split
  all_goals simp

@[simp] theorem owned_startMigration (cmd : Cmd) : (startMigration s cmd).owned = s.owned := by
  have hhome (d : Nat) (f : Home → Home) : (modHome s d f).owned = s.owned := rfl
  unfold startMigration sendLine
  dsimp only
  repeat' split
  all_goals simp [hhome]

/-- What a read needs may be asked for by a command more. -/
theorem owned_askNeed (q : Asker) (wp : WpKey) (n : Need) : s.owned ⊆ (askNeed s q wp n).owned := by
  have hmore (x : Cmd) : s.owned ⊆ ({ s with nextCmd := s.nextCmd + 1, cmds := s.cmds ++ [x] } : State).owned := by
    rw [State.owned, State.owned, List.map_append]
    exact List.subset_append_left ..
  unfold askNeed
  split
  · simp
  · dsimp only
    split
    · exact List.Subset.refl _
    · cases hp : sendPiece _ _ _ with
      | none => exact hmore _
      | some t => exact owned_sendPiece hp ▸ hmore _

theorem owned_readList (cmd : Cmd) : s.owned ⊆ (readList s cmd).owned := by
  unfold readList
  dsimp only
  split
  · exact List.Subset.refl _
  · exact owned_askNeed ..
  · simp
  · simp
  · have hcount {c : Prop} [Decidable c] (e l b n : Nat) : (if c then countHot s e l b n 0 else s).owned = s.owned := by
      split <;> simp
    split <;> simp [hcount]

theorem owned_beginCommand (cmd : Cmd) : s.owned ⊆ (beginCommand s cmd).owned := by
  unfold beginCommand
  dsimp only
  split
  case h_6 | h_7 => exact List.Subset.trans (by simp) (owned_readList ..)
  case h_1 | h_2 | h_3 | h_4 | h_5 =>
    rw [owned_foldl fun _ _ => (owned_cacheRef ..).trans (owned_cacheRef ..)]
    simp
  all_goals simp

theorem owned_beginHeld : s.owned ⊆ (beginHeld s).owned :=
  List.foldlRecOn (motive := fun t : State => s.owned ⊆ t.owned) _ _ (List.Subset.refl _) fun t ht x _ => by
    split
    · exact ht
    · exact List.Subset.trans ht (owned_beginCommand t x)

variable {s}

/-- R187. A command cancelled leaves every other to its waypoint. -/
theorem owned_cancelCmd {y : Cmd} {i : Nat} {key : WpKey} (h : (i, key) ∈ s.owned) (hi : i ≠ y.id) : (i, key) ∈ (cancelCmd s y).owned := by
  have hdrop (t : State) (id : Nat) : (dropCmd t id).cmds = t.cmds.filter fun c => c.id ≠ id := by
    unfold dropCmd
    dsimp only
    repeat' split
    all_goals rfl
  refine owned_beginHeld _ ?_
  have hin := h
  rw [← owned_poisonUnfilled s y] at hin
  obtain ⟨z, hz, he⟩ := List.mem_map.mp hin
  obtain ⟨rfl, rfl⟩ := Prod.mk.inj he
  exact mem_owned (by rw [hdrop]; exact List.mem_filter.mpr ⟨hz, by simpa using hi⟩)

end

/-! ## A waypoint on a core while its launch ends (R118) -/

/-- R118. A waypoint's record stands, and core c holds it. -/
def HeldAt (s : State) (c : Nat) (key : WpKey) : Prop :=
  (coreOf s c).mode ≠ .idle ∧ (coreOf s c).wp = key ∧ ∃ x, findWp s key = some x

theorem findWp_discardWp_other (s : State) {key k : WpKey} (h : k ≠ key) : findWp (discardWp s k) key = findWp s key := by
  obtain ⟨d, hd⟩ := discardWp_frame s k
  rw [hd]
  show (s.waypoints.filter fun w => w.key ≠ k).find? (fun w => w.key = key) = _
  rw [List.find?_filter]
  refine congrArg (List.find? · s.waypoints) (funext fun w => ?_)
  by_cases hw : w.key = key
  · simp [hw, Ne.symm h]
  · simp [hw]

section
variable {s : State} {c : Nat} {key : WpKey}

theorem HeldAt.heldByCore (h : HeldAt s c key) : ∃ c', heldByCore s key = some c' := by
  obtain ⟨hm, hk, -⟩ := h
  rw [← hk]
  exact heldByCore_some (mem_cores_of_coreOf hm) hm

theorem HeldAt.discardWp {k : WpKey} (h : HeldAt s c key) (hk : k ≠ key) : HeldAt (discardWp s k) c key := by
  obtain ⟨hm, hw, hx⟩ := h
  exact ⟨by rwa [Core.of_unhoused (unhoused_discardWp ..) Core.mode], by rwa [Core.of_unhoused (unhoused_discardWp ..) Core.wp],
    by rwa [findWp_discardWp_other s hk]⟩

theorem HeldAt.preempted (h : HeldAt s c key) (k : WpKey) (i : Instr) (a : Arg) :
    HeldAt (enqueue (modWp s k fun w => { w with preempt := true }) i a) c key := by
  obtain ⟨hm, hw, x, hx⟩ := h
  have hfound := findWp_modWp s k key (f := fun w => { w with preempt := true }) fun _ => rfl
  rw [hx] at hfound
  exact ⟨hm, hw, _, hfound⟩

/-- R118. A launch that ends leaves a waypoint that a core holds. -/
theorem HeldAt.endLaunch (h : HeldAt s c key) (l : Nat) (how : Ending) : HeldAt (endLaunch s l how) c key := by
  unfold Machine.endLaunch
  refine List.foldlRecOn (motive := fun t => HeldAt t c key) _ _ h fun t ht w _ => ?_
  split
  · exact ht.preempted ..
  · next hnone =>
    refine ht.discardWp fun hw => ?_
    obtain ⟨c', hc'⟩ := ht.heldByCore
    rw [hw, hc'] at hnone
    cases hnone

/-- R115. A waypoint on a core that ends FAULTED keeps its record. -/
theorem HeldAt.endFaulted (h : HeldAt s c key) (code : BitVec 16) (at_ : Nat) : HeldAt (endFaulted s key code at_) c key := by
  obtain ⟨d, hd⟩ := endFaulted_cases s key code at_
  have hcounted : HeldAt { faultCounted s key code at_ with disps := d } c key := by
    obtain ⟨hm, hk, x, hx⟩ := h
    have hmode : (coreOf (releaseAll s key) c).mode ≠ .idle := by rwa [Core.of_unhoused (unhoused_releaseAll ..) Core.mode]
    have hwp : (coreOf (releaseAll s key) c).wp = key := by rwa [Core.of_unhoused (unhoused_releaseAll ..) Core.wp]
    exact ⟨hmode, hwp, _, findWp_modWp_found (s := releaseAll s key) (f := endedAt at_) (fun _ => rfl) ((findWp_releaseAll ..).trans hx)⟩
  obtain hd | hd := hd
  · rw [hd]
    exact hcounted
  · rw [hd]
    exact hcounted.endLaunch ..

end

/-! ## OVER_CAPACITY (R150, R151) -/

section
variable {s : State} {c : Nat} {w : Waypoint}

/-- What stands when a freed waypoint has been settled is its record, its pre-emption over. -/
theorem settleFreed_record {key : WpKey} {x : Waypoint} (h : findWp (settleFreed s key) key = some x) :
    ∃ y, findWp s key = some y ∧ x = { y with preempt := false } := by
  unfold settleFreed at h
  split at h
  · rw [findWp_discardWp] at h
    cases h
  · obtain ⟨y, hy, he⟩ := Option.map_eq_some_iff.mp
      ((findWp_modWp_same s key (f := fun w => { w with preempt := false }) fun _ => rfl).symm.trans h)
    exact ⟨y, hy, he.symm⟩

/-- R151. A RESTART has s1 to s4 of the pick-up, and no frame. -/
theorem restart_registers {x : Waypoint} (hfound : findWp s w.key = some w) (h : w.startHandles = [])
    (hx : findWp (restart s c w) w.key = some x) : x.sval = w.start.2 ∧ x.frame = none := by
  have hfreed : findWp (freeCore (releaseAll s w.key) c) w.key = some w := by rw [findWp_freeCore, findWp_releaseAll, hfound]
  obtain ⟨r, hr, -, hstart, -⟩ := makeReady_found hfreed
  have hback : findWp (restarted s c w) w.key = some (asPickedUp s c r) := findWp_modWp_found (fun _ => rfl) hr
  rw [restart_eq h] at hx
  obtain ⟨y, hy, rfl⟩ := settleFreed_record hx
  obtain rfl := Option.some.inj ((countRelaunch_found hback).symm.trans hy)
  exact ⟨congrArg Prod.snd hstart, rfl⟩

variable (hc : s.arg.core = c) (hfound : findWp s (coreOf s c).wp = some w)
  (hmode : (coreOf s c).mode = .running ∨ (coreOf s c).mode = .stopping) (hshort : banksShort s c ≠ 0) (hdue : evacuationDue s c = false)
include hc hfound hmode hshort hdue

/-- R150. Past its launch's limit the waypoint ends FAULTED. -/
theorem overCapacity_ends (hlim : (launchOf s (coreOf s c).wp.launch).rlimit ≤ w.rcount) : Gives .overCapacity s fun t =>
    (coreOf t c).mode = .idle ∧ ∃ x, findWp t (coreOf s c).wp = some x ∧ x.state = .faulted := by
  obtain ⟨b, hb⟩ := withdraw_frame s (coreOf s c).wp
  set t := modWp { s with barriers := b } (coreOf s c).wp fun w => { w with state := .faulted } with ht
  have hexec : exec .overCapacity s = .next (freeCore (endFaulted t (coreOf s c).wp tcOverCapacity (coreOf s c).pc) c) := by
    show execOverCapacity s = _
    obtain hm | hm := hmode
    all_goals simp only [execOverCapacity, hc, hfound, hm, hshort, hdue, hb, ge_iff_le, hlim, decide_false, Bool.or_false,
      Bool.false_eq_true, if_false, if_true, ht]
  have hheld : HeldAt t c (coreOf s c).wp :=
    ⟨by obtain hm | hm := hmode <;> (show (coreOf s c).mode ≠ _; rw [hm]; decide), rfl, _,
      findWp_modWp_found (s := { s with barriers := b }) (f := fun w => { w with state := .faulted }) (fun _ => rfl) hfound⟩
  obtain ⟨-, -, x, hx⟩ := hheld.endFaulted tcOverCapacity (coreOf s c).pc
  exact ⟨_, hexec, by rw [mode_freeCore, if_pos rfl], x, (findWp_freeCore ..).trans hx, (record_endFaulted hx).1⟩

/-- R151, R152. Else it is relaunched; without a region that is a RESTART. -/
theorem overCapacity_drops (hlim : w.rcount < (launchOf s (coreOf s c).wp.launch).rlimit) (hreg : (coreOf s c).region = none) : ∃ b,
    exec .overCapacity s =
      .next (relaunchNow (modCore (dropWork { s with barriers := b } c w) c fun k => { k with mode := .relaunching false }) c w false) := by
  obtain ⟨b, hb⟩ := withdraw_frame s (coreOf s c).wp
  refine ⟨b, ?_⟩
  have hlim' : ¬w.rcount ≥ (launchOf s (coreOf s c).wp.launch).rlimit := by omega
  show execOverCapacity s = _
  obtain hm | hm := hmode
  all_goals
    simp only [execOverCapacity, hc, hfound, hm, hshort, hdue, hreg, hb, hlim', Option.isSome_none, Bool.and_false, Bool.false_and,
      decide_false, Bool.or_false, Bool.false_eq_true, if_false]

/-- R149, R151. A command that the RESTART does not cancel keeps the core waiting. -/
theorem overCapacity_waits {x : Cmd} (hx : x ∈ s.cmds) (hlim : w.rcount < (launchOf s (coreOf s c).wp.launch).rlimit)
    (hreg : (coreOf s c).region = none) (hwp : x.wp = (coreOf s c).wp) (hkeep : x.tag = 0 ∨ x.id < w.startCmd)
    (hone : ∀ y ∈ s.cmds, y.id = x.id → y = x) : Gives .overCapacity s fun t => (coreOf t c).mode = .relaunching false := by
  have hkey : w.key = (coreOf s c).wp := by simpa using List.find?_some hfound
  obtain ⟨b, hb⟩ := overCapacity_drops hc hfound hmode hshort hdue hlim hreg
  have hstays : (x.id, x.wp) ∈ (dropWork { s with barriers := b } c w).owned :=
    List.foldlRecOn (motive := fun t : State => (x.id, x.wp) ∈ t.owned) _ _ (mem_owned hx) fun t ht y hy => by
      obtain ⟨hy, hc⟩ := List.mem_filter.mp hy
      refine owned_cancelCmd ht fun he => ?_
      obtain rfl := hone y hy he.symm
      simp only [Bool.and_eq_true, decide_eq_true_eq, ge_iff_le] at hc
      omega
  obtain ⟨z, hz, he⟩ := List.mem_map.mp hstays
  have hany : ((modCore (dropWork { s with barriers := b } c w) c fun k => { k with mode := .relaunching false }).cmds.any
      fun x => x.wp = w.key) = true :=
    List.any_eq_true.mpr ⟨z, hz, by simpa [hkey, hwp] using congrArg Prod.snd he⟩
  refine ⟨_, hb, ?_⟩
  rw [relaunchNow, hany, if_pos rfl]
  exact congrArg Core.mode (coreOf_modCore_same _ c fun k => { k with mode := .relaunching false })

/-- R151. With none left it is READY as it was picked up. -/
theorem overCapacity_readies (hlim : w.rcount < (launchOf s (coreOf s c).wp.launch).rlimit) (hreg : (coreOf s c).region = none)
    (hx : ∀ x ∈ s.cmds, x.wp ≠ (coreOf s c).wp) (hst : w.startHandles = [])
    (hend : (launchOf s (coreOf s c).wp.launch).ending = .running) : Gives .overCapacity s fun t => (coreOf t c).mode = .idle ∧
      ∃ x, findWp t (coreOf s c).wp = some x ∧ x.state = .ready ∧ x.resume = w.start.1 ∧ x.sval = w.start.2 ∧ x.frame = none ∧
        x.rcount = w.rcount + 1 := by
  have hkey : w.key = (coreOf s c).wp := by simpa using List.find?_some hfound
  obtain ⟨b, hb⟩ := overCapacity_drops hc hfound hmode hshort hdue hlim hreg
  have hdrop := dropWork_idle (s := { s with barriers := b }) (c := c) (w := w) (by rwa [hkey])
  set u := modCore (dropWork { s with barriers := b } c w) c fun k => { k with mode := .relaunching false } with hu
  have hnow := relaunchNow_restarts (s := u) (c := c) (w := w) (by rw [hu, hdrop, hkey]; exact hx)
  rw [hnow] at hb
  rw [← hkey] at hfound hend ⊢
  have hfound' : findWp u w.key = some w := by rw [hu, hdrop]; exact hfound
  obtain ⟨hidle, x, hx, hstate, hres, hrc⟩ := restart_readies (c := c) hfound' hst (by rw [hu, hdrop]; exact hend)
  obtain ⟨hsval, hframe⟩ := restart_registers hfound' hst hx
  exact ⟨_, hb, hidle, x, hx, hstate, hres, hsval, hframe, hrc⟩

end

/-! ## What a self-test finds (R155, R198) -/

/-- A property that every step of a fold keeps, and that the step of one element brings about, holds after the fold. -/
theorem foldl_reaches {σ α : Type} {f : σ → α → σ} {P : σ → Prop} (hkeep : ∀ s y, P s → P (f s y)) {x : α} (hx : ∀ s, P (f s x))
    {l : List α} (hm : x ∈ l) (s : σ) : P (l.foldl f s) := by
  obtain ⟨as, bs, rfl⟩ := List.append_of_mem hm
  rw [List.foldl_append, List.foldl_cons]
  exact List.foldlRecOn (motive := P) bs f (hx _) fun s hs y _ => hkeep s y hs

/-- The failing banks of a level of a core, or its failing vector banks. -/
def Core.failingAt (k : Core) : Option Level → List Nat
  | some l => (chartOf k l).failing
  | none => k.vregChart.failing

section
variable (s : State) (c c' : Nat) (o : Option Level)

theorem failingAt_modCore {f : Core → Core} (hf : ∀ k, (f k).failingAt o = k.failingAt o) :
    (coreOf (modCore s c f) c').failingAt o = (coreOf s c').failingAt o := by
  rw [coreOf_modCore]
  split
  · next h => rw [hf, h]
  · rfl

theorem failingAt_setChart (k : Core) (l : Level) (ch : Chart) :
    (setChart k l ch).failingAt o = if o = some l then ch.failing else k.failingAt o := by
  obtain - | l' := o
  · cases l <;> rfl
  · cases l <;> cases l' <;> rfl

theorem failingAt_modChart (l : Level) {f : Chart → Chart} (hf : ∀ ch, (f ch).failing = ch.failing) :
    (coreOf (modChart s c l f) c').failingAt o = (coreOf s c').failingAt o :=
  failingAt_modCore s c c' o fun k => by
    rw [failingAt_setChart]
    split
    · next h => rw [h, hf, Core.failingAt]
    · rfl

/-- R199. The retirement of a bank leaves which banks are failing. -/
theorem failingAt_retireBank (l : Level) (p : Nat) : (coreOf (retireBank s c l p) c').failingAt o = (coreOf s c').failingAt o := by
  unfold retireBank
  dsimp only
  repeat' split
  · rfl
  · rw [coreOf_logRetired]
    exact failingAt_modChart s c c' o l fun _ => rfl
  · rw [coreOf_applyShrink, coreOf_logRetired]
    exact failingAt_modChart s c c' o l fun _ => rfl
  · exact failingAt_modChart s c c' o l fun _ => rfl
  · exact failingAt_modChart s c c' o l fun _ => rfl
  · rw [coreOf_applyShrink]
    exact failingAt_modChart s c c' o l fun _ => rfl

theorem failingAt_retireIdle : (coreOf (retireIdle s c) c').failingAt o = (coreOf s c').failingAt o := by
  unfold retireIdle
  refine (foldl_keeps (fun s => (coreOf s c').failingAt o) (fun s t => ?_) _ _).trans
    (foldl_keeps (fun s => (coreOf s c').failingAt o) (fun s b => ?_) _ s)
  · rw [coreOf_logRetired]
    exact failingAt_modCore s c c' o fun k => by cases o with | none => rfl | some l => cases l <;> rfl
  · rw [coreOf_logRetired]
    exact failingAt_modCore s c c' o fun k => by
      cases o with
      | none => exact failing_replaceBank ..
      | some l => cases l <;> rfl

variable {s c c' o} {b : Nat}

theorem failingAt_modCore_more {f : Core → Core} (hkeep : b ∈ (coreOf s c).failingAt o → b ∈ (f (coreOf s c)).failingAt o)
    (h : b ∈ (coreOf s c').failingAt o ∨ (c' = c ∧ b ∈ (f (coreOf s c)).failingAt o)) : b ∈ (coreOf (modCore s c f) c').failingAt o := by
  rw [coreOf_modCore]
  split
  · next hc =>
    subst hc
    exact h.elim hkeep And.right
  · next hc => exact h.resolve_right fun ⟨he, _⟩ => hc he.symm

/-- R198. A bank found failing is failing, and so is every one that was. -/
theorem failingAt_bankFails (l : Level) (p : Nat) (h : b ∈ (coreOf s c').failingAt o ∨ (c' = c ∧ o = some l ∧ b = p)) :
    b ∈ (coreOf (bankFails s c l p) c').failingAt o := by
  unfold bankFails
  split
  · next hp =>
    obtain h | ⟨rfl, rfl, rfl⟩ := h
    · exact h
    · simpa [Core.failingAt] using hp
  · rw [failingAt_retireBank]
    refine failingAt_modCore_more (fun hin => ?_) (h.imp_right fun ⟨hc, ho, hb⟩ => ⟨hc, ?_⟩)
    · rw [failingAt_setChart]
      split
      · next ho =>
        subst ho
        exact List.mem_append_left _ hin
      · exact hin
    · rw [failingAt_setChart, if_pos ho, hb]
      exact List.mem_append_right _ (List.mem_singleton.mpr rfl)

/-- R198. The same for a register bank; of the failing ones, those below nine are vector banks. -/
theorem failingAt_regFails (p : Nat) (h : b ∈ (coreOf s c').failingAt o ∨ (c' = c ∧ o = none ∧ b = p ∧ p < 9)) :
    b ∈ (coreOf (regFails s c p) c').failingAt o := by
  unfold regFails
  dsimp only
  by_cases h16 : p < 16
  all_goals
    simp only [h16, if_true, if_false]
    split
  case pos.isTrue hstop =>
    obtain h | ⟨rfl, rfl, rfl, hp⟩ := h
    · exact h
    · have h9 : ¬Config.vregPhysical ≤ b := by rw [Config.vregPhysical]; omega
      have h32 : ¬32 ≤ b := by omega
      simpa [h9, h32, Nat.mod_eq_of_lt h16, Core.failingAt] using hstop
  case neg.isTrue hstop => exact h.resolve_right fun ⟨_, _, _, hp⟩ => h16 (by omega)
  all_goals
    split
    case' isTrue => rw [failingAt_retireIdle]
    all_goals refine failingAt_modCore_more (fun hin => ?_) (h.imp_right fun ⟨hc, ho, hb, hp⟩ => ⟨hc, ?_⟩)
    case isTrue.refine_1 | isFalse.refine_1 =>
      obtain - | l := o
      · simp_all [Core.failingAt]
      · cases l <;> exact hin
  case pos.isFalse.isTrue.refine_2 | pos.isFalse.isFalse.refine_2 =>
    rw [ho, hb]
    exact List.mem_append_right _ (List.mem_singleton.mpr rfl)
  case neg.isFalse.isTrue.refine_2 | neg.isFalse.isFalse.refine_2 => omega

end

section
variable {s : State} {cl : Nat}

/-- Is core c of the cluster cl of die d? -/
def ofCluster (d cl c : Nat) : Bool := dieOf c = d && clusterOf c = cl

/-- R155. The state with the findings of a test charted, before the cores that fail are quarantined. -/
def testCharted (s : State) (cl : Nat) : State := testFindings s (ofCluster s.arg.die cl)

/-- R155. The failing cores of the cluster quarantined. -/
def testQuarantined (s : State) (cl : Nat) : State :=
  (bitsSet s.arg.failed.toNat 6).foldl (fun t i => modCore t (48 * s.arg.die + 6 * cl + i) fun k => { k with quarantined := true })
    (testCharted s cl)

/-- R155. The code of the entry that the test leaves: 0x601 where it found nothing. -/
def testCode (s : State) (cl : Nat) : Nat :=
  if (bitsSet s.arg.failed.toNat 6).isEmpty && findingsIn s (ofCluster s.arg.die cl) = 0 then 0x601 else 0x602

theorem selftestDone_eq (htest : (disp s s.arg.die).underTest = some cl) (hdrained : clusterDrained s s.arg.die cl = true) :
    exec .selftestDone s = .next (modDisp (logEvent (testQuarantined s cl) 6 s.arg.die cl (testCode s cl) 0 0
    (findingsIn s (ofCluster s.arg.die cl))) s.arg.die fun x => { x with underTest := none }) := by
  show execSelftestDone s = _
  simp only [execSelftestDone, htest, hdrained, Bool.not_true, Bool.false_eq_true, if_false]
  rfl



theorem quarantined_testQuarantined {i : Nat} (hi : i < 6) (h : s.arg.failed.getLsbD i = true) :
    (coreOf (testQuarantined s cl) (48 * s.arg.die + 6 * cl + i)).quarantined = true := by
  refine foldl_reaches (P := fun t => (coreOf t (48 * s.arg.die + 6 * cl + i)).quarantined = true) (fun t j ht => ?_) (fun t => ?_)
    (mem_bitsSet.mpr ⟨hi, h⟩) _
  · rw [coreOf_modCore]
    split
    · rfl
    · exact ht
  · rw [coreOf_modCore_same]

theorem failingAt_testQuarantined (c : Nat) (o : Option Level) :
    (coreOf (testQuarantined s cl) c).failingAt o = (coreOf (testCharted s cl) c).failingAt o :=
  foldl_keeps (fun t => (coreOf t c).failingAt o) (fun t i => failingAt_modCore t _ c o fun k => by
    obtain - | l := o
    · rfl
    · cases l <;> rfl) _ _

/-- R155, R198. Each bank that the test found failing is charted, a core's storage first. -/
theorem failingAt_testCharted {c b : Nat} {o : Option Level} (hc : ofCluster s.arg.die cl c = true)
    (h : (∃ x ∈ s.arg.banks, x.core = c ∧ o = some x.level ∧ x.bank = b ∧ x.bank < physicalBanks x.level) ∨
      (o = none ∧ b < 9 ∧ (c, b) ∈ s.arg.regs)) : b ∈ (coreOf (testCharted s cl) c).failingAt o := by
  have hregs (t : State) (r : Nat × Nat) (ht : b ∈ (coreOf t c).failingAt o) : b ∈ (coreOf (regFails t r.1 r.2) c).failingAt o :=
    failingAt_regFails _ (.inl ht)
  obtain ⟨x, hx, rfl, rfl, rfl, hb⟩ | ⟨rfl, hb, hr⟩ := h
  · refine List.foldlRecOn (motive := fun t : State => x.bank ∈ (coreOf t x.core).failingAt (some x.level)) _ _ ?_ fun t ht r _ => hregs t r ht
    exact foldl_reaches (P := fun t => x.bank ∈ (coreOf t x.core).failingAt (some x.level)) (fun t y ht => failingAt_bankFails _ _ (.inl ht))
      (fun t => failingAt_bankFails _ _ (.inr ⟨rfl, rfl, rfl⟩)) (List.mem_filter.mpr ⟨hx, by simp [hc, hb]⟩) _
  · exact foldl_reaches (P := fun t => b ∈ (coreOf t c).failingAt none) (fun t r ht => hregs t r ht)
      (fun t => failingAt_regFails _ (.inr ⟨rfl, rfl, rfl, hb⟩)) (List.mem_filter.mpr ⟨hr, by simpa using hc⟩) _

end

/-- Settles O41, event by event. -/
theorem preemption : Obligations.Preemption := by
  unfold Obligations.Preemption
  intro s
  dsimp only
  refine ⟨fun w hw hp hmode => ?halt, fun w hw hp hmode => ?saved, fun w hw hmust hmay hh => ?evacuation,
    fun w hw hmode hshort hdue => ?limit, fun htest => ?rotation, fun cl htest hdrained => ?tested, fun w hw hst hheld => ?notified⟩
  case halt =>
    obtain ⟨b, hb⟩ := preemptHalt_eq hw hp rfl hmode
    dsimp only at hb
    refine ⟨fun hend => ?_, fun hend => ?_⟩
    · rw [if_neg (not_not_intro hend)] at hb
      obtain ⟨hm, hpc, hreg, hval, hnames⟩ := stoppedCore_keeps (coreOf s s.arg.core)
      have hcore : coreOf (enqueue (modCore { s with barriers := b } s.arg.core stoppedCore) .contextSaveDone { core := s.arg.core }) s.arg.core =
          stoppedCore (coreOf s s.arg.core) := coreOf_modCore_same ..
      refine ⟨_, hb, ?_, ⟨_, List.mem_append_right _ (List.mem_singleton.mpr rfl), rfl, rfl⟩, ?_, ?_, ?_, rfl, ?_⟩
      all_goals rw [hcore]
      · exact hm
      · exact hpc
      · exact hreg
      · exact hval
      · exact hnames
    · rw [if_pos hend] at hb
      exact ⟨_, hb, by rw [Core.of_unhoused (unhoused_discardWp ..) Core.mode, mode_freeCore, if_pos rfl], findWp_discardWp ..⟩
  case saved =>
    set st : WpState := if w.state = .faulted then .faulted else .preempted with hst
    have hexec := contextSaveDone_eq hw hp rfl hmode
    have hl := launches_saveFrame s s.arg.core st
    by_cases hend : (launchOf s (coreOf s s.arg.core).wp.launch).ending = .running
    · obtain ⟨a, hfound, hmem⟩ := saveFrame_found hw st
      obtain ⟨hidle, hx⟩ := settleFreed_frees (c := s.arg.core) hend hl hfound
      obtain ⟨-, hstate, hres⟩ := savedRecord_says (s := s) (c := s.arg.core) st w
      refine ⟨_, hexec, hidle, fun y hy => ?_, fun hn => absurd hend hn, fun _ => ⟨_, hx, hres, rfl, hstate, rfl, _, rfl, frameOf_keeps _⟩⟩
      obtain rfl := Option.some.inj (hx.symm.trans hy)
      refine ⟨fun hn => (Option.some_ne_none _ hn).elim, fun a' ha x hx => ?_⟩
      obtain rfl := Option.some.inj ha
      have hkept : (settleFreed (freeCore (saveFrame s s.arg.core st) s.arg.core) (coreOf s s.arg.core).wp).mem =
          (saveFrame s s.arg.core st).mem :=
        congrArg Prod.fst ((memories_settleFreed ..).trans (memories_freeCore ..))
      rw [hkept]
      exact hmem x hx
    · obtain ⟨hidle, hgone⟩ := settleFreed_discards (c := s.arg.core) hl hend
      exact ⟨_, hexec, hidle, fun y hy => (Option.some_ne_none _ (hy.symm.trans hgone)).elim, fun _ => hgone, fun he => absurd he hend⟩
  case evacuation =>
    have hkey : w.key = s.arg.wp := by simpa using List.find?_some hw
    have hexec : exec .evacuationComplete s = .next (evacuate s (anchorOf w) w.key) := by
      show execEvacuationComplete s = _
      simp only [execEvacuationComplete, hw, hmust, hmay, Bool.and_self, if_true]
    exact ⟨_, hexec, evacuate_copies (hkey ▸ hw) hh⟩
  case limit =>
    exact ⟨overCapacity_ends rfl hw hmode hshort hdue, fun x hx hlim hreg hwp hkeep hone =>
      overCapacity_waits rfl hw hmode hshort hdue hx hlim hreg hwp hkeep hone, fun hlim hreg hx hst hend =>
      overCapacity_readies rfl hw hmode hshort hdue hlim hreg hx hst hend⟩
  case rotation =>
    refine ⟨fun cl rest hu => selftestRotation_urgent htest hu, fun hu ⟨hup, hlate⟩ hdefer => ?_, fun hu ⟨hup, hlate⟩ hdefer => ?_⟩
    all_goals
      have hexec := selftestRotation_due htest hu hup hlate
      simp only [hdefer, Bool.false_eq_true, if_true, if_false] at hexec
      refine ⟨_, hexec, ?_⟩
    · exact (disp_drainCluster ..).trans (by rw [disp_periodBegun])
    · obtain ⟨e, he, hcls, -, hcode⟩ := mem_log_logEvent (periodBegun s s.arg.die) 7 s.arg.die (disp s s.arg.die).nextCluster 0x702 0 0 0
      exact ⟨disp_periodBegun .., e, he, hcls, hcode⟩
  case tested =>
    refine ⟨_, selftestDone_eq htest hdrained, congrArg Dispatcher.underTest (disp_modDisp_same ..),
      fun i hi hf => quarantined_testQuarantined hi hf, fun b hb hd hcl hlt => ?_, fun r hr hd hcl hlt => ?_, ?_⟩
    · show b.bank ∈ (coreOf (testQuarantined s cl) b.core).failingAt (some b.level)
      rw [failingAt_testQuarantined]
      exact failingAt_testCharted (by simp [ofCluster, dieOf, clusterOf, hd, hcl]) (.inl ⟨b, hb, rfl, rfl, rfl, hlt⟩)
    · show r.2 ∈ (coreOf (testQuarantined s cl) r.1).failingAt none
      rw [failingAt_testQuarantined]
      exact failingAt_testCharted (by simp [ofCluster, dieOf, clusterOf, hd, hcl]) (.inr ⟨rfl, hlt, hr⟩)
    · obtain ⟨e, he, hcls, hunit, hcode⟩ := mem_log_logEvent (testQuarantined s cl) 6 s.arg.die cl (testCode s cl) 0 0
        (findingsIn s (ofCluster s.arg.die cl))
      refine ⟨e, he, hcls, hunit, fun hf hb hr => hcode.trans ?_⟩
      simp [testCode, findingsIn, hf, hb, hr, bitsSet]
  case notified =>
    have hexec := dispatcherNotify_eq hw hst hheld
    have hkey : w.key = s.arg.wp := by simpa using List.find?_some hw
    refine ⟨fun hh => ?_, fun hh => ?_⟩
    · rw [if_neg (not_not_intro hh)] at hexec
      rw [hkey]
      exact ⟨_, hexec, rfl, _, findWp_modWp_found (fun _ => rfl) hw, rfl, rfl⟩
    · rwa [if_pos hh] at hexec

end Sys2Proof.Machine

namespace Sys2Proof.Machine

/-! ## A waypoint with handles put on a core (R132, R133, R143) -/

section
variable {s : State} {c : Nat} {w : Waypoint}

/-- R132. Handles restored on a core change that core alone. -/
theorem restoreHandles_eq (s : State) (c : Nat) (w : Waypoint) : ∃ cs, (∀ c', c' ≠ c → Map.get cs c' {} = coreOf s c') ∧
    restoreHandles s c w = modWp { s with cores := cs } w.key fun w => { w with evac := false, evacuated := [] } := by
  have hfold : ∃ cs, (∀ c', c' ≠ c → Map.get cs c' {} = coreOf s c') ∧
      w.evacuated.foldl (fun s e => restoreHandle s c w.key e) s = { s with cores := cs } := by
    refine List.foldlRecOn
      (motive := fun t : State => ∃ cs : Map Core, (∀ c', c' ≠ c → Map.get cs c' {} = coreOf s c') ∧ t = { s with cores := cs })
      _ _ ⟨s.cores, fun _ _ => rfl, rfl⟩ fun t ht e _ => ?_
    obtain ⟨cs, hcs, rfl⟩ := ht
    exact ⟨(restoreHandle { s with cores := cs } c w.key e).cores,
      fun c' hc' => (coreOf_modCore_other { s with cores := cs } _ (Ne.symm hc')).trans (hcs c' hc'), rfl⟩
  obtain ⟨cs, hcs, he⟩ := hfold
  exact ⟨cs, hcs, by rw [restoreHandles, he]⟩

variable (hf : w.fault = none)
include hf

theorem coreOf_runOn : coreOf (runOn s c w) c = takenCore (restoreHandles s c w) (coreOf (restoreHandles s c w) c) w := by
  unfold runOn
  simp only [hf]
  exact coreOf_modCore_same (restoreHandles s c w) c fun k => takenCore (restoreHandles s c w) k w

theorem coreOf_runOn_other {c' : Nat} (hc : c' ≠ c) : coreOf (runOn s c w) c' = coreOf s c' := by
  obtain ⟨cs, hcs, hr⟩ := restoreHandles_eq s c w
  unfold runOn
  simp only [hf]
  refine (coreOf_modCore_other (restoreHandles s c w) (fun k => takenCore (restoreHandles s c w) k w) (Ne.symm hc)).trans ?_
  rw [hr]
  exact hcs c' hc

/-- R143. The record of a waypoint put on a core, with handles or without. -/
theorem waypoints_runOn : ∃ mine, (runOn s c w).waypoints = s.waypoints.map fun x => if x.key = w.key then pickedUp s c w x mine else x := by
  obtain ⟨cs, -, hr⟩ := restoreHandles_eq s c w
  have hsame : runOn s c w = runOn { s with cores := cs } c { w with evacuated := [] } := by
    have hr' : restoreHandles { s with cores := cs } c { w with evacuated := [] } = restoreHandles s c w := hr.symm
    unfold runOn
    rw [hr']
    rfl
  obtain ⟨mine, -, -, -, hwps⟩ := runOn_plain (s := { s with cores := cs }) (c := c) (w := { w with evacuated := [] }) rfl hf
  exact ⟨mine, by rw [hsame, hwps]; rfl⟩

theorem findWp_runOn {x : Waypoint} (hx : findWp s w.key = some x) : ∃ mine, findWp (runOn s c w) w.key = some (pickedUp s c w x mine) := by
  obtain ⟨mine, hm⟩ := waypoints_runOn (s := s) (c := c) hf
  refine ⟨mine, ?_⟩
  rw [findWp, hm]
  exact (find_mod_same Waypoint.key (f := fun x => pickedUp s c w x mine) (fun _ => rfl) s.waypoints w.key).trans (congrArg _ hx)

theorem findWp_runOn_other {key : WpKey} (hk : key ≠ w.key) : findWp (runOn s c w) key = findWp s key := by
  obtain ⟨mine, hm⟩ := waypoints_runOn (s := s) (c := c) hf
  rw [findWp, hm]
  refine (find_map_keyed Waypoint.key (key_ite_keyed Waypoint.key (f := fun x => pickedUp s c w x mine) (fun _ => rfl) _) s.waypoints key).trans ?_
  show (findWp s key).map _ = _
  cases hx : findWp s key with
  | none => rfl
  | some x =>
    have : x.key = key := by simpa using List.find?_some hx
    rw [Option.map_some, if_neg (this ▸ hk)]

end

/-! ## Registers at a pick-up (R149, R163) -/

/-- R163. A waypoint without a frame starts with s1 to s4 of its record, every other register zero and f0 to f3 EMPTY. -/
theorem takenCore_fresh (s : State) (k : Core) {w : Waypoint} (hframe : w.frame = none) (hlen : w.sval.length = 4) :
    (∀ n, n < 4 → valueAt (takenCore s k w) (1 + n) = .sc (w.sval.getD n 0#64)) ∧
      (∀ n, 5 ≤ n → n < 64 → valueAt (takenCore s k w) n = .sc 0#64) ∧
      (∀ n, n < 4 → isEmpty (takenCore s k w) (0x90 + n) = true) ∧ (takenCore s k w).hm = false ∧ (takenCore s k w).rep = 0 := by
  have htaken : takenCore s k w = freshCore k w := by simp only [takenCore, hframe]
  have hsc {n : Nat} (h0 : n ≠ 0) (h : n < 64) : valueAt (freshCore k w) n = .sc (Map.get ((span 1 4).zip w.sval) n 0#64) := by
    rw [valueAt, if_pos h, scalarAt, if_neg h0]
    rfl
  obtain ⟨a, b, c, d, hsval⟩ : ∃ a b c d, w.sval = [a, b, c, d] := by
    match w.sval, hlen with
    | [a, b, c, d], _ => exact ⟨a, b, c, d, rfl⟩
  have hspan : span 1 4 = [1, 2, 3, 4] := by decide
  rw [htaken]
  rw [hsval, hspan] at hsc
  refine ⟨fun n hn => ?_, fun n h5 h64 => ?_, fun n hn => ?_, rfl, rfl⟩
  · rw [hsc (by omega) (by omega), hsval]
    interval_cases n <;> rfl
  · rw [hsc (by omega) h64]
    simp [Map.get, show ¬1 = n by omega, show ¬2 = n by omega, show ¬3 = n by omega, show ¬4 = n by omega]
  · exact (by decide : ∀ n, n < 4 → (0xF#320 <<< 0x90).getLsbD (0x90 + n) = true) n hn

/-- R149. One with a frame goes on with the registers of the frame. -/
theorem takenCore_restored (s : State) (k : Core) {w : Waypoint} {f : Core} (hframe : w.frame = some f) :
    (∀ key, valueAt (takenCore s k w) key = valueAt f key) ∧ (takenCore s k w).hm = f.hm ∧ (takenCore s k w).flg = f.flg ∧
      (takenCore s k w).region = f.region ∧ (takenCore s k w).epc = f.epc ∧
      (takenCore s k w).rep = if f.hm then f.rep else f.rpi.toNat := by
  have htaken : takenCore s k w = restoredCore s k f w := by simp only [takenCore, hframe]
  rw [htaken]
  exact ⟨fun _ => rfl, rfl, rfl, rfl, rfl, rfl⟩

/-! ## WAYPOINT_PICKUP (R143) -/

theorem findWp_noteEmpty (s : State) (d : Nat) (key : WpKey) : findWp (noteEmpty s d) key = findWp s key := by
  obtain ⟨m, h⟩ := noteEmpty_frame s d
  rw [h]
  rfl

theorem findWp_addWaypoint_other (s : State) {w : Waypoint} {key : WpKey} (h : key ≠ w.key) : findWp (addWaypoint s w) key = findWp s key := by
  obtain ⟨r, he⟩ := addWaypoint_eq s w
  rw [he]
  show ((s.waypoints.filter fun x : Waypoint => x.key ≠ w.key) ++ [{ w with record := r }]).find? (fun x : Waypoint => x.key = key) = _
  rw [List.find?_append, List.find?_filter]
  have hlast : [{ w with record := r }].find? (fun x : Waypoint => x.key = key) = none := by simp [Ne.symm h]
  rw [hlast, Option.or_none]
  refine congrArg (List.find? · s.waypoints) (funext fun x => ?_)
  by_cases hx : x.key = key
  · simp [hx, h]
  · simp [hx]

section
variable {s : State} {c : Nat} {w : Waypoint} (hc : s.arg.core = c) (hidle : (coreOf s c).mode = .idle) (hopen : coreOpen s c = true)
  (hchoice : choice s c = some w)
include hc hidle hopen hchoice

/-- R143. An idle open core runs the first coordinate of its choice. -/
theorem waypointPickup_eq : ∃ m, let p := splitFirst { s with disps := m } w
    exec .waypointPickup s = .next (noteEmpty (runOn p.1 c p.2) (dieOf c)) := by
  obtain ⟨m, hm⟩ := charge_frame s (dieOf c) w.prio w.key.launch
  refine ⟨m, ?_⟩
  show execWaypointPickup s = _
  simp only [execWaypointPickup, hc, hidle, hopen, hchoice, hm, ne_eq, not_true_eq_false, decide_false, Bool.not_true, Bool.or_self,
    Bool.false_eq_true, if_false]

end

/-- A record put in the place of one with its key. -/
theorem findWp_modWp_put {s : State} {w x : Waypoint} (hfound : findWp s w.key = some w) (hk : x.key = w.key) :
    findWp (modWp s w.key fun _ => x) w.key = some x := by
  have hput : modWp s w.key (fun _ => x) = modWp s w.key fun y => { x with key := y.key } := by
    refine congrArg (fun ws => { s with waypoints := ws }) (List.map_congr_left fun y _ => ?_)
    split
    · next hy =>
      show x = { x with key := y.key }
      rw [hy, ← hk]
    · rfl
  rw [hput, findWp_modWp_found (f := fun y => { x with key := y.key }) (fun _ => rfl) hfound, ← hk]

/-- R133. A range of one coordinate is that coordinate. -/
theorem splitFirst_one {s : State} {w : Waypoint} (hfound : findWp s w.key = some w) (hone : w.range = false ∨ w.hi ≤ w.lo + 1) :
    ∃ t, splitFirst s w = (t, { w with range := false }) ∧ findWp t w.key = some { w with range := false } := by
  cases hrange : w.range with
  | false =>
    have hsame : ({ w with range := false } : Waypoint) = w := by rw [← hrange]
    exact ⟨s, by rw [hsame, splitFirst_single hrange], by rw [hsame, hfound]⟩
  | true =>
    have hhi : w.hi ≤ w.lo + 1 := hone.resolve_left (by simp [hrange])
    exact ⟨modWp s w.key fun _ => { w with range := false }, by simp [splitFirst, hrange, hhi], findWp_modWp_put hfound rfl⟩

/-- R133. The first coordinate of a longer range under its new id, and the rest under the old one. -/
def splitRange (s : State) (w : Waypoint) (id : Nat) : Waypoint :=
  { w with key := ⟨w.key.launch, id⟩, range := false, hi := w.lo + 1, prio := (launchOf s w.key.launch).prio }

theorem splitFirst_range {s : State} {w : Waypoint} {id : Nat} (hfound : findWp s w.key = some w) (hrange : w.range = true)
    (hlong : w.lo + 1 < w.hi) (hid : freeWpid s w.key.launch = some id) (hne : id ≠ w.key.wpid) : ∃ t, splitFirst s w = (t, splitRange s w id) ∧
      findWp t w.key = some { w with lo := w.lo + 1 } ∧ ∃ r, findWp t ⟨w.key.launch, id⟩ = some { splitRange s w id with record := r } := by
  have hkey : w.key ≠ (splitRange s w id).key := fun he => hne (congrArg WpKey.wpid he).symm
  refine ⟨addWaypoint (modWp s w.key fun x => { x with lo := x.lo + 1 }) (splitRange s w id), ?_, ?_, findWp_addWaypoint ..⟩
  · simp only [splitFirst, hrange, hid, Bool.not_true, Bool.false_eq_true, if_neg (Nat.not_le.mpr hlong), if_false]
    rfl
  · rw [findWp_addWaypoint_other _ hkey]
    exact findWp_modWp_found (f := fun x => { x with lo := x.lo + 1 }) (fun _ => rfl) hfound

/-! ## Step groups whose members wait (R137, R181) -/

/-- R115. The record of a waypoint that ends FAULTED says so; another's keeps its state, whatever the end of the launch takes away. -/
theorem state_endFaulted {s : State} {key : WpKey} {code : BitVec 16} {at_ : Nat} {y : Waypoint}
    (hy : y ∈ (endFaulted s key code at_).waypoints) : (y.key = key → y.state = .faulted) ∧
      ∃ x ∈ s.waypoints, x.key = y.key ∧ (y.state = .faulted ∨ y.state = x.state) := by
  obtain ⟨y0, hy0, he⟩ := (thinned_endFaulted s key code at_).waypoints y hy
  obtain ⟨x, hx, rfl⟩ := List.mem_map.mp hy0
  have hx' : x ∈ s.waypoints := waypoints_of_outline (outline_releaseAll s key) ▸ hx
  rw [he]
  split
  · exact ⟨fun _ => rfl, x, hx', rfl, .inl rfl⟩
  · next hk => exact ⟨fun hk' => absurd hk' hk, x, hx', rfl, .inr rfl⟩

/-- Every record of a waypoint reads FAULTED. -/
def AllFaulted (key : WpKey) (s : State) : Prop := ∀ y ∈ s.waypoints, y.key = key → y.state = .faulted

theorem AllFaulted.endFaulted {s : State} {key : WpKey} (h : AllFaulted key s) (k : WpKey) (code : BitVec 16) (at_ : Nat) :
    AllFaulted key (endFaulted s k code at_) := fun y hy hk => by
  obtain ⟨-, x, hx, hkx, hf | hst⟩ := state_endFaulted hy
  · exact hf
  · rw [hst]
    exact h x hx (hkx.trans hk)

/-- R137. Every live member of a group made FAULTED ends so. -/
theorem faultGroup_faults (s : State) (g : GroupKey) {m : Waypoint} (hm : m ∈ liveMembers s g) : AllFaulted m.key (faultGroup s g) :=
  foldl_reaches (f := fun (t : State) (w : Waypoint) => endFaulted t w.key tcPlacement w.resume) (P := AllFaulted m.key)
    (fun _ w ht => ht.endFaulted w.key tcPlacement w.resume) (fun _ _ hy => (state_endFaulted hy).1) hm s

/-- R143. A waypoint placed on a core runs there, and no other core changes. -/
theorem placedOn_takes (s : State) (c d : Nat) {w : Waypoint} (hf : w.fault = none) : ∃ mine, (coreOf (placedOn s c d w) c).RunsFrom w ∧
    (∀ c', c' ≠ c → coreOf (placedOn s c d w) c' = coreOf s c') ∧
    (placedOn s c d w).waypoints = s.waypoints.map fun x => if x.key = w.key then pickedUp s c w x mine else x := by
  obtain ⟨m, hm⟩ := charge_frame s d w.prio w.key.launch
  obtain ⟨m', hm'⟩ := noteEmpty_frame (runOn (charge s d w.prio w.key.launch) c w) d
  obtain ⟨mine, hwps⟩ := waypoints_runOn (s := { s with disps := m }) (c := c) hf
  refine ⟨mine, ?_, fun c' hc' => ?_, ?_⟩
  · rw [placedOn, coreOf_noteEmpty, coreOf_runOn hf]
    exact takenCore_runs ..
  · rw [placedOn, coreOf_noteEmpty, coreOf_runOn_other hf hc', hm]
    rfl
  · rw [placedOn, hm', hm]
    exact hwps

/-- A step group whose live members, one coordinate each, all wait. -/
structure ReadyGroup (s : State) (g : GroupKey) : Prop where
  waits : ∀ m ∈ liveMembers s g, m.state = .ready ∨ m.state = .preempted
  single : ∀ m ∈ liveMembers s g, m.range = false ∧ m.hi = m.lo + 1 ∧ m.fault = none
  named : ∀ m ∈ liveMembers s g, ∀ y ∈ s.waypoints, y ≠ m → y.key ≠ m.key
  apart : ∀ m ∈ liveMembers s g, ∀ m' ∈ liveMembers s g, m.lo = m'.lo → m = m'

/-- After n placements: the group's waypoints are members as they were, or run; the later live ones wait still, the earlier ones run. -/
structure LiveTo (s u : State) (g : GroupKey) (r : List Nat) (n : Nat) : Prop where
  left : ∀ z, Member u g z → z ∈ s.waypoints ∨ z.state = .running
  kept : ∀ m ∈ liveMembers s g, n ≤ m.lo → m ∈ u.waypoints
  runs : ∀ m ∈ liveMembers s g, m.lo < n → ∀ c, r[m.lo]? = some c → (coreOf u c).RunsFrom m

/-- R126, R142. A waypoint that has ended is no entry, whatever the state is then. -/
theorem not_isEntry_ended {s : State} {w : Waypoint} (h : ended s w = true) (u : State) : isEntry u w = false := by
  rw [ended, Bool.or_eq_true] at h
  obtain h | h := h
  · simp only [decide_eq_true_eq] at h
    simp [isEntry, h]
  · simp only [Bool.and_eq_true, decide_eq_true_eq, Option.isNone_iff_eq_none] at h
    obtain ⟨⟨⟨hst, -⟩, hframe⟩, -⟩ := h
    simp [isEntry, hst, hframe]

section
variable {s u : State} {g : GroupKey} {r : List Nat} {n : Nat} (hg : ReadyGroup s g) (hp : LiveTo s u g r n)

include hp in
/-- The entries of the group that are left are live members. -/
theorem LiveTo.entry {z : Waypoint} (hz : z ∈ (membersOf u g).filter (isEntry u)) : z ∈ liveMembers s g := by
  obtain ⟨hm, he⟩ := List.mem_filter.mp hz
  have hmem := mem_membersOf.mp hm
  have hin : z ∈ s.waypoints := (hp.left z hmem).resolve_right fun hrun => by simp [isEntry, hrun] at he
  refine List.mem_filter.mpr ⟨mem_membersOf.mpr ⟨hin, hmem.2⟩, ?_⟩
  cases hend : ended s z with
  | true => rw [not_isEntry_ended hend u] at he; cases he
  | false => rfl

include hg hp

/-- The member of the coordinate to come is its live member, where there is one. -/
theorem LiveTo.memberAt : (∃ m ∈ liveMembers s g, m.lo = n ∧ memberAt ((membersOf u g).filter (isEntry u)) n = some m) ∨
    ((∀ m ∈ liveMembers s g, m.lo ≠ n) ∧ memberAt ((membersOf u g).filter (isEntry u)) n = none) := by
  cases hf : Machine.memberAt ((membersOf u g).filter (isEntry u)) n with
  | some w =>
    have hw := hp.entry (List.mem_of_find?_eq_some hf)
    obtain ⟨-, hhi, -⟩ := hg.single w hw
    have hat := List.find?_some hf
    simp only [Bool.and_eq_true, decide_eq_true_eq] at hat
    exact .inl ⟨w, hw, by omega, rfl⟩
  | none =>
    refine .inr ⟨fun m hm hlo => ?_, rfl⟩
    obtain ⟨-, hhi, -⟩ := hg.single m hm
    have hmem := mem_membersOf.mp (List.mem_filter.mp hm).1
    have hin : m ∈ (membersOf u g).filter (isEntry u) :=
      List.mem_filter.mpr ⟨mem_membersOf.mpr ⟨hp.kept m hm (by omega), hmem.2⟩, isEntry_waits (hg.waits m hm)⟩
    have := List.find?_eq_none.mp hf m hin
    simp [hlo, hhi] at this

variable (hr : r.Nodup) (hn : n < r.length)
include hr hn

/-- R137. One more coordinate placed. -/
theorem LiveTo.succ : LiveTo s (placeMember g r u n) g r (n + 1) := by
  have hc : r[n]? = some r[n] := List.getElem?_eq_getElem hn
  obtain ⟨w, hw, hlo, hat⟩ | ⟨hnone, hat⟩ := hp.memberAt hg
  · obtain ⟨hrange, -, hf⟩ := hg.single w hw
    have hwaits := hg.waits w hw
    rw [placeMember_places hc hat hrange]
    obtain ⟨mine, hrun, hother, hwps⟩ := placedOn_takes u r[n] w.holder hf
    refine ⟨fun z ⟨hin, hz⟩ => ?_, fun m hm hnm => ?_, fun m hm hnm c hmc => ?_⟩
    · rw [hwps] at hin
      obtain ⟨y, hy, rfl⟩ := List.mem_map.mp hin
      split at hz
      · next hkey =>
        rw [if_pos hkey]
        refine .inr (if_neg fun hfa => ?_)
        obtain hold | hrunning := hp.left y ⟨hy, hz⟩
        · have hy : y = w := by_contra fun hne => hg.named w hw y hold hne hkey
          rw [hy] at hfa
          obtain hst | hst := hwaits <;> rw [hst] at hfa <;> cases hfa
        · rw [hrunning] at hfa
          cases hfa
      · next hkey =>
        rw [if_neg hkey]
        exact hp.left y ⟨hy, hz⟩
    · rw [hwps]
      obtain ⟨hin, -⟩ := mem_membersOf.mp (List.mem_filter.mp hm).1
      exact List.mem_map.mpr ⟨m, hp.kept m hm (by omega), if_neg (hg.named w hw m hin fun he => by rw [he] at hnm; omega)⟩
    · obtain hlt | heq := Nat.lt_succ_iff_lt_or_eq.mp hnm
      · have hne : c ≠ r[n] := fun he => by
          have := (List.nodup_iff_getElem?_ne_getElem?.mp hr) m.lo n hlt hn
          exact this (by rw [hmc, hc, he])
        rw [hother c hne]
        exact hp.runs m hm hlt c hmc
      · obtain rfl : m = w := hg.apart m hm w hw (heq.trans hlo.symm)
        obtain rfl : c = r[n] := Option.some.inj ((heq ▸ hmc).symm.trans hc)
        exact hrun
  · have hsame : placeMember g r u n = u := by
      unfold placeMember
      rw [hat]
    rw [hsame]
    exact ⟨hp.left, fun m hm hnm => hp.kept m hm (by omega), fun m hm hnm => hp.runs m hm (by have := hnone m hm; omega)⟩

omit hp hn in
/-- R137. A group placed on a run: each live member runs at its place. -/
theorem placeRun_liveTo : LiveTo s (placeRun s g r) g r r.length := by
  have hall (n : Nat) (hn : n ≤ r.length) : LiveTo s ((List.range n).foldl (placeMember g r) s) g r n := by
    induction n with
    | zero =>
      exact ⟨fun z hz => .inl hz.1, fun m hm _ => (mem_membersOf.mp (List.mem_filter.mp hm).1).1, fun _ _ hlt => absurd hlt (Nat.not_lt_zero _)⟩
    | succ n ih =>
      rw [List.range_succ, List.foldl_append]
      exact (ih (by omega)).succ hg hr (by omega)
  exact hall r.length (le_refl _)

end

section
variable {s : State} {g : GroupKey} {x : LevelWord} {w : Waypoint} {rest : List Waypoint} (harg : s.arg.group = g)
  (hlevel : levelWord (launchOf s g.launch) g.level = some x) (hms : liveMembers s g = w :: rest) (hstep : x.step = true)
  (hgranted : (launchOf s g.launch).granted = true) (hheld : (launchOf s g.launch).held = false)
  (hrun : (launchOf s g.launch).ending = .running) (hcovers : coversAll (membersOf s g) x.extent = true)
  (hwaits : ∀ m ∈ liveMembers s g, m.state = .ready ∨ m.state = .preempted) (hids : idsEnough s g.launch (liveMembers s g) = true)
include harg hlevel hms hstep hgranted hheld hrun hcovers hwaits hids

/-- R137. A complete step group whose live members wait is placed on a run that fits, or made FAULTED where there is no run. -/
theorem stepGroupPlace_eq : exec .stepGroupPlace s =
    let runs := groupRuns s (launchOf s g.launch) w x.extent
    .next (if runs.isEmpty then faultGroup s g
      else (runs.find? (runFits s (launchOf s g.launch) (liveMembers s g))).elim s (placeRun s g)) := by
  rw [hms] at hwaits hids ⊢
  have hall : ((w :: rest).all fun m => m.state = .ready || m.state = .preempted) = true :=
    List.all_eq_true.mpr fun y hy => by simpa using hwaits y hy
  have hany : ((w :: rest).any fun m => m.state = .ready || m.state = .preempted) = true :=
    List.any_eq_true.mpr ⟨w, List.mem_cons_self .., by simpa using hwaits w (List.mem_cons_self ..)⟩
  show execStepGroupPlace s = _
  simp only [execStepGroupPlace, harg, hlevel, hms, hcovers, hstep, hgranted, hheld, hrun, hany, hall, hids, Bool.true_or, Bool.not_true,
    Bool.or_self, ne_eq, not_true_eq_false, decide_false, Bool.false_eq_true, if_false]
  split
  · rfl
  · generalize (groupRuns s (launchOf s g.launch) w x.extent).find? (runFits s (launchOf s g.launch) (w :: rest)) = found
    cases found <;> rfl

end

/-! ## Priority and stealing (R141, R145, R146) -/

section
variable {s : State} {w : Waypoint} (hfound : findWp s s.arg.wp = some w) (hentry : isEntry s w = true)
include hfound hentry

theorem priorityAge_eq (hprio : 0 < w.prio) (hold : w.agedAt + 100000 ≤ s.chron) : exec .priorityAge s =
    .next (modWp s w.key fun w => { w with prio := w.prio - 1, agedAt := w.agedAt + 100000 }) := by
  show execPriorityAge s = _
  simp only [execPriorityAge, hfound, hentry, gt_iff_lt, hprio, ge_iff_le, hold, decide_true, Bool.and_self, if_true]

theorem priorityPreempt_eq {v : Nat} (hprio : w.prio = 0) (hurged : w.urged = false) (hold : w.readyAt + 20000 ≤ s.chron)
    (hfree : ∀ c, c < 384 → ¬((coreOf s c).mode = .idle ∧ coreOpen s c = true ∧ mayTake s c w = true))
    (hvictim : victim s (launchOf s w.key.launch) w = some v) : exec .priorityPreempt s =
      .next (askPreempt (modWp s w.key fun x => { x with urged := true }) (coreOf s v).wp) := by
  have hnone : ((List.range 384).any fun c => (coreOf s c).mode = .idle && coreOpen s c && mayTake s c w) = false :=
    List.any_eq_false.mpr fun c hc => by
      have := hfree c (List.mem_range.mp hc)
      simpa [and_assoc] using this
  have hlate : ¬s.chron < w.readyAt + 20000 := by omega
  show execPriorityPreempt s = _
  simp only [execPriorityPreempt, hfound, hentry, hprio, hurged, hlate, hnone, hvictim, Bool.not_true, ne_eq, not_true_eq_false, decide_false,
    Bool.or_self, Bool.false_eq_true, if_false]

end

section
variable {s : State} {d : Nat} {w : Waypoint} (hfound : findWp s w.key = some w)
include hfound

/-- R145. One waypoint stolen. -/
theorem stealEntry_one (hone : ¬(w.range = true ∧ w.lo + 2 ≤ w.hi)) :
    findWp (stealEntry s d w) w.key = some { w with holder := d, spilled := false } := by
  have hno : ¬(w.range && w.hi ≥ w.lo + 2) = true := by simpa using hone
  rw [stealEntry, if_neg hno, findWp_noteEmpty]
  exact findWp_modWp_found (f := fun x => { x with holder := d, spilled := false }) (fun _ => rfl) hfound

/-- R133, R145. Of a range the upper half is stolen, under a new id. -/
theorem stealEntry_half {id : Nat} (hrange : w.range = true) (hlong : w.lo + 2 ≤ w.hi) (hid : freeWpid s w.key.launch = some id)
    (hne : id ≠ w.key.wpid) : findWp (stealEntry s d w) w.key = some { w with hi := w.lo + (w.hi - w.lo + 1) / 2 } ∧
      ∃ at_, findWp (stealEntry s d w) ⟨w.key.launch, id⟩ =
        some { w with key := ⟨w.key.launch, id⟩, lo := w.lo + (w.hi - w.lo + 1) / 2, holder := d, spilled := false, record := at_ } := by
  have hyes : (w.range && w.hi ≥ w.lo + 2) = true := by simpa using ⟨hrange, hlong⟩
  have hkey : w.key ≠ ⟨w.key.launch, id⟩ := fun he => hne (congrArg WpKey.wpid he).symm
  have hsteal : stealEntry s d w = addWaypoint (modWp s w.key fun x => { x with hi := w.lo + (w.hi - w.lo + 1) / 2 })
      { w with key := ⟨w.key.launch, id⟩, lo := w.lo + (w.hi - w.lo + 1) / 2, holder := d, spilled := false } := by
    rw [stealEntry, if_pos hyes]
    simp only [hid]
    rfl
  rw [hsteal]
  refine ⟨?_, findWp_addWaypoint ..⟩
  rw [findWp_addWaypoint_other _ hkey]
  exact findWp_modWp_found (f := fun x => { x with hi := w.lo + (w.hi - w.lo + 1) / 2 }) (fun _ => rfl) hfound

omit hfound in
theorem dispatcherSteal_eq (hd : s.arg.die = d) (hserves : dieServes s d = true) (hdrain : s.mgmt.cdrain.getLsbD d = false)
    (hnone : entriesOf s d = []) (hlate : (disp s d).emptySince + 2000 * ((disp s d).steals + 1) ≤ s.chron)
    (hw : (nearestDies s d).findSome? (stealable s d) = some w) : ∃ m, exec .dispatcherSteal s = .next (stealEntry { s with disps := m } d w) := by
  have hnow : ¬s.chron < (disp s d).emptySince + 2000 * ((disp s d).steals + 1) := by omega
  refine ⟨(modDisp s d fun x => { x with steals := x.steals + 1 }).disps, ?_⟩
  show execDispatcherSteal s = _
  simp only [execDispatcherSteal, hd, hserves, hdrain, hnone, hnow, hw, List.isEmpty_nil, Bool.not_true, decide_false, Bool.or_self,
    Bool.false_eq_true, if_false]
  rfl

end

/-- Settles O40, event by event. -/
theorem dispatching : Obligations.Dispatching := by
  unfold Obligations.Dispatching
  intro s
  dsimp only
  refine ⟨fun w hidle hopen hchoice hf hfound hone => ?one, fun w id hidle hopen hchoice hrange hlong hf hfound hid hne => ?range,
    fun x w rest hlevel hms hstep hgranted hheld hrun hcovers hwaits hids => ?group, fun w hfound hentry => ?priority,
    fun w hserves hdrain hnone hlate hw hfound => ?steal⟩
  case one =>
    obtain ⟨m, hexec⟩ := waypointPickup_eq rfl hidle hopen hchoice
    dsimp only at hexec
    obtain ⟨t, hsplit, ht⟩ := splitFirst_one (s := { s with disps := m }) hfound hone
    rw [hsplit] at hexec
    obtain ⟨mine, hx⟩ := findWp_runOn (c := s.arg.core) (w := { w with range := false }) hf ht
    have hcore := coreOf_runOn (s := t) (c := s.arg.core) (w := { w with range := false }) hf
    refine ⟨_, hexec, ?_⟩
    dsimp only
    rw [findWp_noteEmpty, coreOf_noteEmpty, hcore]
    obtain ⟨hmode, hwp, hpc⟩ := takenCore_runs (restoreHandles t s.arg.core { w with range := false })
      (coreOf (restoreHandles t s.arg.core { w with range := false }) s.arg.core) { w with range := false }
    exact ⟨hmode, hwp, hpc, ⟨_, hx, rfl, rfl, rfl⟩, fun hframe hlen => takenCore_fresh _ _ hframe hlen,
      fun f hframe => takenCore_restored _ _ hframe⟩
  case range =>
    obtain ⟨m, hexec⟩ := waypointPickup_eq rfl hidle hopen hchoice
    dsimp only at hexec
    obtain ⟨t, hsplit, hrest, r, hfirst⟩ := splitFirst_range (s := { s with disps := m }) hfound hrange hlong hid hne
    rw [hsplit] at hexec
    have hf' : (splitRange { s with disps := m } w id).fault = none := hf
    have hkey : w.key ≠ (splitRange { s with disps := m } w id).key := fun he => hne (congrArg WpKey.wpid he).symm
    obtain ⟨mine, hx⟩ := findWp_runOn (c := s.arg.core) hf' hfirst
    have hrest' := (findWp_runOn_other (c := s.arg.core) hf' hkey).trans hrest
    obtain ⟨hmode, hwp, -⟩ := takenCore_runs (restoreHandles t s.arg.core (splitRange { s with disps := m } w id))
      (coreOf (restoreHandles t s.arg.core (splitRange { s with disps := m } w id)) s.arg.core) (splitRange { s with disps := m } w id)
    refine ⟨_, hexec, ?_⟩
    dsimp only
    rw [findWp_noteEmpty, findWp_noteEmpty, coreOf_noteEmpty, coreOf_runOn hf']
    exact ⟨hmode, hwp, ⟨_, hrest', rfl, rfl, hrange⟩, _, hx, rfl, rfl, rfl⟩
  case group =>
    have hexec := stepGroupPlace_eq rfl hlevel hms hstep hgranted hheld hrun hcovers hwaits hids
    refine ⟨fun hempty _ => ?_, fun r hr hsingle hapart => ?_⟩
    · simp only [hempty, List.isEmpty_nil, if_true] at hexec
      exact ⟨_, hexec, fun m hm => faultGroup_faults s s.arg.group hm⟩
    · have hin := List.mem_of_find?_eq_some hr
      have hsome : (groupRuns s (launchOf s s.arg.group.launch) w x.extent).isEmpty = false := by
        rw [List.isEmpty_eq_false_iff]
        exact List.ne_nil_of_mem hin
      simp only [hsome, hr, Bool.false_eq_true, if_false, Option.elim_some] at hexec
      have hg : ReadyGroup s s.arg.group := ⟨hwaits, fun m hm => by obtain ⟨h1, h2, h3, -⟩ := hsingle m hm; exact ⟨h1, h2, h3⟩,
        fun m hm => by obtain ⟨-, -, -, h4⟩ := hsingle m hm; exact h4, hapart⟩
      obtain ⟨hnodup, -⟩ := groupRuns_mem hin
      refine ⟨_, hexec, fun m hm c hc => (placeRun_liveTo hg hnodup).runs m hm ?_ c hc⟩
      exact (List.getElem?_eq_some_iff.mp hc).1
  case priority =>
    exact ⟨priorityAge_eq hfound hentry, fun v x hprio hurged hold hfree hvictim _ =>
      priorityPreempt_eq hfound hentry hprio hurged hold hfree hvictim⟩
  case steal =>
    obtain ⟨m, hexec⟩ := dispatcherSteal_eq rfl hserves hdrain hnone hlate hw
    exact ⟨fun hone => ⟨_, hexec, stealEntry_one (s := { s with disps := m }) hfound hone⟩, fun id hrange hlong hid hne =>
      ⟨_, hexec, stealEntry_half (s := { s with disps := m }) hfound hrange hlong hid hne⟩⟩

end Sys2Proof.Machine
